-- ==== Sys2Proof/Word.lean ====
section
/-! DEFINITION. The words of the part and the plain data its commands carry: bytes, register words, halls, the sparse
byte memory, Stair messages, the flash as the device reads it, audio and presence frames, and the steps' small operands. -/

namespace Sys2Proof

/-- One byte. -/
abbrev Byte := BitVec 8

/-- One register word (R588: every register is 32 bits wide). -/
abbrev Word := BitVec 32

/-- R22: the two halls. -/
inductive HallId where
  /-- Hall A, h = 0. -/
  | a
  /-- Hall B, h = 1. -/
  | b
  deriving DecidableEq, Repr

/-- R22: the hall's index. -/
def HallId.idx : HallId → Nat
  | .a => 0
  | .b => 1

/-- The other hall of the package. -/
def HallId.other : HallId → HallId
  | .a => .b
  | .b => .a

/-- The hall of an index (R22); any index but 0 is Hall B. -/
def HallId.ofIdx (n : Nat) : HallId := if n = 0 then .a else .b

/-- A sparse byte memory: (address, byte) pairs. Its canonical form is `Memory.wf` in Machine/Ops.lean. -/
structure Memory where
  /-- the listed bytes, addresses strictly rising -/
  cells : List (Nat × BitVec 8)
  deriving DecidableEq, Repr

/-- R40, R41: a Stair message as its head flit's fields and its payload bytes. -/
structure StairMsg where
  /-- KIND, bits 3:0 -/
  kind : Nat
  /-- CLASS, bits 5:4 -/
  cls : Nat
  /-- LEN, bits 10:6, data flits -/
  len : Nat
  /-- PART, bits 15:11 -/
  part : Nat
  /-- SEQ, bits 31:16 -/
  seq : Nat
  /-- ARG0 -/
  arg0 : Nat
  /-- ARG1 -/
  arg1 : Nat
  /-- ARG2 -/
  arg2 : Nat
  /-- payload, 32 bytes a data flit -/
  data : List Byte
  deriving DecidableEq, Repr

/-- What the firmware reads in a completed CONTROL payload (R41: opcodes and contents belong to the firmware).
The readings are the messages that the chapters name. -/
inductive ControlMsg where
  /-- R617: the running firmware object, sent to Hall B's boot ROM -/
  | firmware (obj : List Byte)
  /-- R86: the boot image from Hall A -/
  | bootImage (bytes : List Byte)
  /-- R87: Hall B reports acceptance of the boot image -/
  | imageAccepted
  /-- R87: Hall B reports a refusal -/
  | imageRefused
  /-- R88: the running hall's image digest -/
  | digestExchange (digest : List Byte)
  /-- R88: the resetting hall asks for the active image -/
  | imageRequest
  /-- R88: the running hall's active image -/
  | activeImage (bytes : List Byte)
  /-- R92: a staged image forwarded -/
  | stagedImage (bytes : List Byte)
  /-- R93: the sender's staged image is VERIFIED with this digest; whether its tables fit the models LOADED there (R625) -/
  | stagedVerified (digest : List Byte) (fits : Bool)
  /-- R93: the sender schedules the activation for this sweep -/
  | schedule (sweep : Nat)
  /-- R93: acknowledgement of a schedule -/
  | scheduleAck (sweep : Nat)
  /-- R93, R95: the sender does not apply the image that it scheduled for this sweep -/
  | withdraw (sweep : Nat)
  /-- R376, R378: how many landings Hall B's flight has not taken -/
  | landingsHeld (n : Nat)
  /-- R456: a capsule forwarded from the sender's port -/
  | capsule (port : Nat) (bytes : List Byte)
  /-- R456: the far steward's answer to a forwarded capsule: port, tag, status, payload -/
  | capsuleAnswer (port tag status : Nat) (payload : List Byte)
  /-- R378: Flight 3's up record -/
  | upRecord (bytes : List Byte)
  /-- R555: a Hall B port's power request: local port, VALID, CONFIG -/
  | powerRequest (localPort : Nat) (valid : Bool) (config : Nat)
  /-- R545: the sender confirms the re-admission conditions -/
  | readmitConfirm
  /-- anything else of the firmware's own; no effect outside the steward -/
  | other
  deriving DecidableEq, Repr

/-- The boot flash as the device reads it (R615, R616): an input of the commands that read it. -/
structure Flash where
  /-- length of the device in bytes -/
  size : Nat
  /-- its contents; an unlisted byte reads 0 -/
  data : Memory
  /-- the flash answers reads at all -/
  responds : Bool
  /-- SFDP declares Profile 1.0 8D-8D-8D (R615) -/
  sfdp : Bool
  /-- XSPI_DQS edges arrive at 200 MHz, or at the 100 MHz retry (R618) -/
  dqs : Bool
  deriving DecidableEq, Repr

/-- R83, R613: the straps latched at release. -/
structure Straps where
  /-- BOOT_SRC_1 and BOOT_SRC_0 -/
  bootSrc : BitVec 2
  /-- XSPI_MODE -/
  xspiMode : Bool
  /-- STRAP_RSVD -/
  rsvd : Bool
  deriving DecidableEq, Repr

/-- R98: where a sweep reference comes from. -/
inductive RefSource where
  /-- an edge of FSYNC_IN; true for rising -/
  | fsyncIn (rising : Bool)
  /-- a frame start of a receive port (global number 8h + p) and virtual channel -/
  | camera (port vc : Nat)
  deriving DecidableEq, Repr

/-- R535: what a hardware fill has filled. -/
inductive FillTarget where
  /-- the hall's DRAM -/
  | dram
  /-- the SRAM of gallery g, its cores' included -/
  | gallery (g : Nat)
  deriving DecidableEq, Repr

/-- R366, R371, R372, R396, R403: what the microphones and Flight 0's programs give for one 10 ms audio frame. -/
structure AudioFrame where
  /-- R390: the PDM bits of microphones 0 to 31 over the frame, in time order, true for one -/
  pdm : List (List Bool)
  /-- Flight 0's scores of classes 0 to 11 for the frame (R363), 16-bit fractions -/
  scores : List Nat
  deriving DecidableEq, Repr

/-- R443, R368, R373: a frame of the Vestibule camera lane, as Flight 0 sees it. -/
structure PresenceFrame where
  /-- the frame had a fault of R419 -/
  faulty : Bool
  /-- Flight 0's presence score -/
  score : Nat
  /-- the box reported, y0 x0 y1 x1 in presence pixels -/
  box : Option (Nat × Nat × Nat × Nat)
  /-- luma of the 160 × 120 frame, row by row -/
  luma : List Byte
  deriving DecidableEq, Repr

/-- R527, R528: one correctable error as a reader sees it. -/
structure CeHit where
  /-- place number of R524; 9 for a Stair flit, which the table counts in STAIR_FLIT_CORR only -/
  place : Nat
  /-- unit of R528 -/
  unit : Nat
  /-- address of R528 -/
  addr : Nat
  /-- codeword position corrected -/
  symbol : Nat
  deriving DecidableEq, Repr

/-- R529: the place of an uncorrectable error, as far as its handling needs it. -/
inductive UePlace where
  /-- operand store of core c; word address -/
  | operandStore (c addr : Nat)
  /-- commit buffer of core c; word address, as R528 gives it -/
  | commitBuffer (c addr : Nat)
  /-- gallery store of gallery g; word address -/
  | galleryStore (g addr : Nat)
  /-- an ISP line buffer holding a line of context n -/
  | ispLine (ctx line : Nat)
  /-- an ISP parameter bank of context n -/
  | ispParam (ctx : Nat)
  /-- steward memory or the hall tables -/
  | steward
  /-- the Vestibule capture area: byte address in it -/
  | vestCapture (addr : Nat)
  /-- other Vestibule SRAM -/
  | vestOther
  /-- a Corridor flit, at its receiving stop -/
  | corridor (stop src : Nat)
  /-- a DRAM line, or a channel that stops answering -/
  | dram (channel : Nat)
  /-- a Stair flit at this hall's end -/
  | stair
  deriving DecidableEq, Repr

/-- R538: what a scrub read finds in a word or line. -/
inductive ScrubFind where
  /-- clean -/
  | clean
  /-- one symbol in error, repaired -/
  | corrected (hit : CeHit)
  /-- UNWRITTEN or POISON -/
  | marker
  deriving DecidableEq, Repr

/-- R469: a host-feed record: header fields and data. -/
structure FeedRecord where
  /-- KIND -/
  kind : Nat
  /-- RFLAGS -/
  rflags : Nat
  /-- CHANNEL -/
  channel : Nat
  /-- RSEQ -/
  rseq : Nat
  /-- OFFSET -/
  offset : Nat
  /-- LEN -/
  len : Nat
  /-- TOTAL_KB -/
  totalKb : Nat
  /-- the packet's word count -/
  wordCount : Nat
  /-- the data bytes of the packet -/
  data : List Byte
  deriving DecidableEq, Repr

/-- R413, R419: what a receive port reads of a packet's header. -/
structure PacketHead where
  /-- virtual channel -/
  vc : Nat
  /-- its error-correcting code has corrected it -/
  corrected : Bool
  deriving DecidableEq, Repr

/-- R413, R419: the payload of a long packet. -/
structure Payload where
  /-- its bytes -/
  bytes : List Byte
  /-- its CRC is right -/
  crcOk : Bool
  deriving DecidableEq, Repr

/-- R442, R469: the payload of a host-feed packet. -/
structure FeedPacket where
  /-- data type -/
  dt : Nat
  /-- the record that it holds -/
  record : FeedRecord
  /-- its CRC is right -/
  crcOk : Bool
  deriving DecidableEq, Repr

/-- R331, R332: what a training of LPDDR5X finds of the 32 channels. -/
structure TrainedChannels where
  /-- those that work -/
  good : BitVec 32
  /-- those that were trained fully at a self-refresh exit, because their tracking had failed -/
  again : BitVec 32
  deriving DecidableEq, Repr

end Sys2Proof
end

