-- ==== Sys2Proof/Syntax.lean ====
section
/-! DEFINITION. The commands of the block: one constructor per row of spec/opcode_table.json, in the table's order.
h is a hall, c a core within its hall (0 to 95), p a host port (0 to 3), g a gallery, tb a 100 MHz timebase count
(R99), cyc a count of array cycles (R14), vt the Vestibule's 32.768 kHz count (R37), w a register word. -/

namespace Sys2Proof

/-- The commands. The docstring of each names the rule of its row. -/
inductive Instr where
  /-- R613: POR_N low for ns nanoseconds -/ | porNAssert (ns : Nat)
  /-- R613, R619: release at timebase tb -/ | porNRelease (straps : Straps) (tb : Nat)
  /-- R611; `planned`: an enable of the hall falls in the same 32.768 kHz cycle -/ | pgFall (h : HallId) (vt : Nat) (planned : Bool)
  /-- R617 -/ | firmwareLoad (flash : Flash)
  /-- R331, R332: the channels, and the devices' rate, density and ranks -/ | dramTrainingDone (h : HallId) (found : TrainedChannels) (rate density ranks : Nat)
  /-- R535 -/ | memoryFillDone (h : HallId) (what : FillTarget)
  /-- R84 -/ | flashImageLoad (flash : Flash)
  /-- R87 -/ | hallBAcceptTimeout
  /-- R50: receive lanes good in Hall A and in Hall B -/ | stairTrainingDone (goodA goodB : BitVec 32)
  /-- R45; h receives -/ | stairSync (h : HallId) (m : StairMsg)
  /-- R44; h receives -/ | stairMove (h : HallId) (m : StairMsg)
  /-- R121; h receives -/ | stairCompare (h : HallId) (m : StairMsg)
  /-- R41; h receives; `means` is the firmware's reading of the payload this fragment completes -/ | stairControl (h : HallId) (m : StairMsg) (means : ControlMsg)
  /-- R100; h receives -/ | stairBeat (h : HallId) (m : StairMsg) (tb : Nat)
  /-- R49; h sends -/ | beatSend (h : HallId)
  /-- R49; h loses its partner -/ | partnerLost (h : HallId)
  /-- R546 -/ | warmingEnd (h : HallId)
  /-- R102 -/ | reference (h : HallId) (src : RefSource) (tb : Nat)
  /-- R102 -/ | referenceLost (h : HallId) (tb : Nat)
  /-- R102 -/ | holdoverSweep (h : HallId) (tb : Nat)
  /-- R119 -/ | generatorSweep (h : HallId) (tb : Nat)
  /-- R104 -/ | tickBoundary (h : HallId) (tb : Nat)
  /-- R60: core c of gallery g -/ | strikeReset (h : HallId) (g c : Nat)
  /-- R101 -/ | fsyncOutPulseEnd (n : Nat) (tb : Nat)
  /-- R113 -/ | slotDeferredIssue (h : HallId) (part slot : Nat) (tb : Nat)
  /-- R93 -/ | activate (p : Nat)
  /-- R96 -/ | discard (p : Nat)
  /-- R93 -/ | activationAckTimeout (h : HallId)
  /-- R284: context ctx fetches -/ | commandFetch (h : HallId) (ctx : Nat) (cyc : Nat)
  /-- R283 -/ | endStream (h : HallId) (ctx : Nat) (cyc : Nat)
  /-- R283 -/ | sync (h : HallId) (ctx : Nat) (cyc : Nat)
  /-- R354 -/ | copy (h : HallId) (c : Nat) (cyc : Nat)
  /-- R339 -/ | placeHold (h : HallId) (c : Nat) (cyc : Nat)
  /-- R339 -/ | placeRelease (h : HallId) (c : Nat) (cyc : Nat)
  /-- R341 -/ | frameMoveCommit (h : HallId) (frame : Nat)
  /-- R358 -/ | cellOpSet (h : HallId) (c : Nat) (cyc : Nat)
  /-- R358 -/ | cellOpAdd (h : HallId) (c : Nat) (cyc : Nat)
  /-- R358 -/ | farSignal (h : HallId) (c : Nat) (cyc : Nat)
  /-- R146 -/ | matrix (h : HallId) (c : Nat) (cyc : Nat)
  /-- R218 -/ | attn (h : HallId) (c : Nat) (cyc : Nat)
  /-- R200 -/ | kvAppend (h : HallId) (c : Nat) (cyc : Nat)
  /-- R207 -/ | kvPageopCreate (h : HallId) (c : Nat) (cyc : Nat)
  /-- R206 -/ | kvPageopDestroy (h : HallId) (c : Nat) (cyc : Nat)
  /-- R208 -/ | kvPageopFork (h : HallId) (c : Nat) (cyc : Nat)
  /-- R206 -/ | kvPageopDrop (h : HallId) (c : Nat) (cyc : Nat)
  /-- R209 -/ | kvPageopTruncate (h : HallId) (c : Nat) (cyc : Nat)
  /-- R206 -/ | kvPageopSeal (h : HallId) (c : Nat) (cyc : Nat)
  /-- R223 -/ | attnMerge (h : HallId) (c : Nat) (cyc : Nat)
  /-- R225 -/ | attnBwd (h : HallId) (c : Nat) (cyc : Nat)
  /-- R235 -/ | recur (h : HallId) (c : Nat) (cyc : Nat)
  /-- R247 -/ | stateOpInit (h : HallId) (c : Nat) (cyc : Nat)
  /-- R247 -/ | stateOpAnchor (h : HallId) (c : Nat) (cyc : Nat)
  /-- R256 -/ | conv (h : HallId) (c : Nat) (cyc : Nat)
  /-- R266 -/ | haloSend (h : HallId) (c : Nat) (cyc : Nat)
  /-- R269 -/ | cropResize (h : HallId) (c : Nat) (cyc : Nat)
  /-- R271 -/ | boxDecode (h : HallId) (c : Nat) (cyc : Nat)
  /-- R275 -/ | nms (h : HallId) (c : Nat) (cyc : Nat)
  /-- R287: the command at stream position pos of context ctx -/ | commitPoint (h : HallId) (ctx pos : Nat) (cyc : Nat)
  /-- R288 -/ | publicationEnd (h : HallId) (ctx pos : Nat) (cyc : Nat)
  /-- R352 -/ | hallCellSignal (h : HallId)
  /-- R296 -/ | killComplete (h : HallId) (ctx pos : Nat) (cyc : Nat)
  /-- R291 -/ | cmdOverrun (h : HallId) (ctx pos : Nat) (cyc : Nat)
  /-- R154: bank b of core c; `sidecar`: its scale sidecar -/ | weightBankError (h : HallId) (c b : Nat) (sidecar : Bool) (cyc : Nat)
  /-- R309 -/ | contextAdmit (h : HallId) (c : Nat) (cyc : Nat)
  /-- R310 -/ | swapOutDone (h : HallId) (ctx : Nat) (cyc : Nat)
  /-- R310 -/ | swapInDone (h : HallId) (ctx : Nat) (cyc : Nat)
  /-- R323: GAL_FRAME_AREA of gallery g -/ | frameAreaRequest (p g : Nat) (w : Word)
  /-- R330, R333: channel, whether its code is the highest -/ | mr4Read (h : HallId) (channel : Nat) (hot : Bool)
  /-- R331 -/ | dqsTracking (h : HallId)
  /-- R511 -/ | reencryptStep (h : HallId)
  /-- R538 -/ | scrubWalkerStep (h : HallId) (found : ScrubFind)
  /-- R539: words read, corrected, marked, cut short -/ | scrubPassEnd (h : HallId) (read corrected marked : Nat) (cut : Bool)
  /-- R539 -/ | passGo (p : Nat) (w : Word)
  /-- R527 -/ | ceLogClear (p : Nat)
  /-- R525: the correctable errors of one cycle -/ | correctableError (h : HallId) (hits : List CeHit)
  /-- R529 -/ | uncorrectableError (h : HallId) (place : UePlace) (cyc : Nat)
  /-- R531: core c of gallery g, or the whole gallery; whether the march test passed -/ | domainResetRelease (h : HallId) (g : Nat) (core : Option Nat) (passed : Bool)
  /-- R541 -/ | faultPinHoldEnd (h : HallId) (tb : Nat)
  /-- R549 -/ | watchdogExpire (h : HallId)
  /-- R549 -/ | hallResetWrite (p : Nat) (w : Word)
  /-- R371 -/ | audioFrameBoundary (vt : Nat) (f : AudioFrame)
  /-- R372: class c -/ | candidateReject (c : Nat)
  /-- R382 -/ | idleDescent (vt : Nat)
  /-- R385 -/ | micDeferTimeout (vt : Nat)
  /-- R384 -/ | descend (p : Nat) (w : Word)
  /-- R370 -/ | captureMirrorUpdate (vt : Nat)
  /-- R443 -/ | presenceFrame (vt : Nat) (f : PresenceFrame)
  /-- R394 -/ | modeReq (p : Nat) (w : Word)
  /-- R399 -/ | micCalWrite (p m : Nat) (w : Word)
  /-- R402: entry ID of the array -/ | micBlockWrite (array vt : Nat)
  /-- R416: port, virtual channel, frame number, the port's microsecond time, microseconds since its FSYNC_OUT pulse -/ | frameStart (h : HallId) (port : Nat) (head : PacketHead) (fnum : Nat) (us : Nat) (sincePulse : Nat) (tb : Nat)
  /-- R416: pixels as codes at the data type's depth -/ | linePacket (h : HallId) (port vc dt : Nat) (pixels : List Nat) (crcOk : Bool) (hdrCorr : Bool)
  /-- R416 -/ | embeddedDataPacket (h : HallId) (port : Nat) (head : PacketHead) (dt : Nat) (data : Payload)
  /-- R413 -/ | ignoredShortPacket (h : HallId) (port : Nat) (head : PacketHead) (dt : Nat)
  /-- R419: lanes with a high-speed burst in the frame -/ | frameEnd (h : HallId) (port : Nat) (head : PacketHead) (bursts : BitVec 4)
  /-- R419 -/ | frameTimeout (h : HallId) (port vc : Nat) (us : Nat)
  /-- R422 -/ | degradeWritesDone (h : HallId) (port : Nat)
  /-- R426 -/ | ispPieceStart (h : HallId)
  /-- R433 -/ | ispPieceDone (h : HallId) (tb : Nat)
  /-- R440: sensor controller, whether the write was acknowledged -/ | sensorWriteDone (h : HallId) (ctrl : Nat) (ack : Bool)
  /-- R440 -/ | sensorBusTimeout (h : HallId) (ctrl : Nat)
  /-- R439: ISP context -/ | paramCopyDone (h : HallId) (ctx : Nat)
  /-- R470 -/ | hostFeedRecord (h : HallId) (port : Nat) (head : PacketHead) (packet : FeedPacket)
  /-- R504: the part's bytes where they come from the flash -/ | modelPartDone (h : HallId) (model : Nat) (fromFlash : List Byte)
  /-- R492 -/ | bindSession (p : Nat)
  /-- R460 -/ | bindStream (p : Nat)
  /-- R461 -/ | bindFeedRing (p : Nat)
  /-- R462 -/ | unbindSession (p : Nat)
  /-- R462 -/ | unbindStream (p : Nat)
  /-- R462 -/ | unbindFeedRing (p : Nat)
  /-- R463 -/ | submitCreate (p : Nat)
  /-- R463 -/ | submitResume (p : Nat)
  /-- R464 -/ | cancel (p : Nat)
  /-- R465 -/ | queryAccount (p : Nat)
  /-- R465 -/ | queryCompletions (p : Nat)
  /-- R465 -/ | queryStream (p : Nat)
  /-- R465 -/ | queryEvents (p : Nat)
  /-- R465 -/ | queryPort (p : Nat)
  /-- R494 -/ | attest (p : Nat)
  /-- R498 -/ | keywrapModelKey (p : Nat)
  /-- R498 -/ | keywrapStreamKey (p : Nat)
  /-- R510 -/ | keywrapRotate (p : Nat)
  /-- R499 -/ | keywrapErase (p : Nat)
  /-- R500; the flash that a SOURCE 1 load would read -/ | loadmodelLoad (p : Nat) (flash : Flash)
  /-- R504 -/ | loadmodelUnload (p : Nat)
  /-- R458 -/ | regrd (p : Nat)
  /-- R458 -/ | regwr (p : Nat)
  /-- R449: at most n bytes -/ | responseRead (p n : Nat)
  /-- R449 -/ | capsuleTimeout (p : Nat)
  /-- R456: the capsule with this TAG -/ | capsuleForwardTimeout (p tag : Nat)
  /-- R482; `crc5`: an HDR-DDR CRC5 or parity error -/ | i3cParityError (p : Nat) (crc5 : Bool)
  /-- R447: the address assigned -/ | entdaa (p : Nat) (addr : BitVec 7)
  /-- R447: static address named and dynamic address given -/ | setdasa (p : Nat) (static addr : BitVec 7)
  /-- R447 -/ | rstdaa (p : Nat)
  /-- R447 -/ | getpid (p : Nat)
  /-- R447 -/ | getbcr (p : Nat)
  /-- R447 -/ | getdcr (p : Nat)
  /-- R447 -/ | getstatus (p : Nat)
  /-- R447: the event byte -/ | enec (p : Nat) (events : Byte)
  /-- R447: the event byte -/ | disec (p : Nat) (events : Byte)
  /-- R447 -/ | setmwl (p : Nat) (len : Nat)
  /-- R447 -/ | setmrl (p : Nat) (len ibi : Nat)
  /-- R447 -/ | getmwl (p : Nat)
  /-- R447 -/ | getmrl (p : Nat)
  /-- R448 -/ | enthdr0 (p : Nat)
  /-- R447 -/ | rstactPortReset (p : Nat)
  /-- R447 -/ | rstactHallReset (p : Nat)
  /-- R447: the defining byte -/ | rstactRead (p : Nat) (action : Byte)
  /-- R468 -/ | ibiSlot (p : Nat)
  /-- R479: transmit port t -/ | txPacketEnd (h : HallId) (t : Nat)
  /-- R473 -/ | csiTxCfgWrite (p t : Nat) (w : Word)
  /-- R496 -/ | ephemeralKeyExpire (h : HallId) (report : Nat)
  /-- R514 -/ | sessionScrubDone (h : HallId) (session : Nat)
  /-- R515 -/ | domainReleaseDone (h : HallId) (domain : Nat)
  /-- R510 -/ | secRotate (p : Nat) (w : Word)
  /-- R490 -/ | trngHealthFail (h : HallId)
  /-- R555 -/ | powerRequest (p : Nat) (w : Word) (vt : Nat)
  /-- R565 -/ | wakeRelease (p : Nat) (vt : Nat)
  /-- R558 -/ | galleryDrainDone (h : HallId) (g : Nat)
  /-- R560 -/ | entryWindowEnd (vt : Nat)
  /-- R567 -/ | powerRiseDone (vt : Nat)
  /-- R568 -/ | powerGoodTimeout (h : HallId)
  /-- R569 -/ | voltageRampDone (h : HallId)
  /-- R570: the hottest sensor in °C -/ | thermalStepDown (h : HallId) (temp : Int)
  /-- R570 -/ | thermalStepUp (h : HallId) (temp : Int)
  /-- R571 -/ | thermalTrip (h : HallId) (temp : Int)
  /-- R563: pin n -/ | wakePinAccept (n : Nat) (vt : Nat)
  /-- R563 -/ | levelWakeRepeat (n : Nat) (vt : Nat)
  /-- R564 -/ | wakeStuckClear (n : Nat) (vt : Nat)
  /-- R582 -/ | snapshot (p : Nat)
  /-- R585: sampler k -/ | samplerWrite (p k : Nat) (w : Word)
  /-- R586 -/ | sampleIdleTimeout (h : HallId) (k : Nat)
  /-- R587 -/ | sampleHeadRead (p : Nat)
  /-- R583: window 0 live, 1 snapshot, 2 sweep bank; counter n -/ | counterLoRead (p window n : Nat)
  /-- R595: block by bits 23:16 of its hall offset -/ | unlock (p block : Nat) (w : Word) (tb : Nat)
  /-- R595 -/ | unlockExpired (p block : Nat)
  /-- R596: a package address -/ | registerWrite (p addr : Nat) (w : Word)
  /-- R614 -/ | jtagBypass
  /-- R614 -/ | jtagIdcode
  /-- R614: the values sampled at the balls and preloaded -/ | jtagSamplePreload (pins : List Bool)
  /-- R614 -/ | jtagExtest
  /-- R614 -/ | jtagTrst
  /-- R449: the bytes of one private write -/ | privateWrite (p : Nat) (bytes : List Byte) (tb : Nat)
  /-- R448 -/ | hdrExit (p : Nat)
  /-- R419 -/ | headerUncorrectable (h : HallId) (port : Nat) (vc : Nat)
  /-- R419 -/ | undeclaredPacket (h : HallId) (port : Nat) (head : PacketHead) (dt : Nat)
  /-- R421: logical count of one error on physical lane k -/ | sotError (h : HallId) (port lane : Nat)
  /-- R490 -/ | trngHealthPass (h : HallId)
  /-- R562 -/ | wakePinInactive (n : Nat) (vt : Nat)
  /-- R517: the window's mean package power in mW -/ | packagePowerWindow (milliwatts : Nat)
  /-- R610 -/ | pgRise (h : HallId)
  /-- R613 -/ | supplyOutOfRange
  /-- R380 -/ | flightEntryCopyDone (vt : Nat)
  deriving DecidableEq, Repr

end Sys2Proof
end

