-- ==== Sys2Proof/WellFormed.lean ====
section
/-! DEFINITION. Which operands a command can carry: the ranges of R22, R30, R303 and of the registers' indices. A command
outside them names no unit of the part. -/

namespace Sys2Proof

/-- R22: a core within its hall. -/
def isCore (c : Nat) : Bool := decide (c < 96)

/-- R6: a host port of the package. -/
def isPort (p : Nat) : Bool := decide (p < 4)

/-- R22: a gallery within its hall. -/
def isGallery (g : Nat) : Bool := decide (g < 8)

/-- R303: a context number. -/
def isContext (c : Nat) : Bool := decide (c < 16384)

/-- R52: a partition number. -/
def isPartition (p : Nat) : Bool := decide (p < 16)

/-- A core within a gallery, where one is named. -/
def optCore : Option Nat → Bool
  | none => true
  | some c => decide (c < 12)

/-- R40: the head flit's fields lie in their widths and LEN counts the payload's data flits. -/
def StairMsg.wellFormed (m : StairMsg) : Bool :=
  decide (m.kind < 16) && decide (m.cls < 4) && decide (m.len ≤ 16) && decide (m.part < 32) && decide (m.seq < 65536)
    && decide (m.arg0 < 2 ^ 32) && decide (m.arg1 < 2 ^ 32) && decide (m.arg2 < 2 ^ 32)
    && decide (m.data.length = 32 * m.len)

/-- R529: the place names a unit that exists. -/
def UePlace.wellFormed : UePlace → Bool
  | .operandStore c addr => isCore c && decide (addr < 1048576)
  | .commitBuffer c addr => isCore c && decide (addr < 131072)
  | .galleryStore g addr => isGallery g && decide (addr < 6291456)
  | .ispLine ctx _ => decide (ctx < 32)
  | .ispParam ctx => decide (ctx < 32)
  | .vestCapture addr => decide (addr < 548864)
  | .corridor stop src => decide (stop < 16) && decide (src < 16)
  | .dram channel => decide (channel < 32)
  | .steward => true
  | .vestOther => true
  | .stair => true

/-- R535: the fill names a memory that exists. -/
def FillTarget.wellFormed : FillTarget → Bool
  | .dram => true
  | .gallery g => isGallery g

/-- The command names units that exist. -/
def Instr.wellFormed : Instr → Bool
  | .porNAssert _ => true
  | .porNRelease _ _ => true
  | .pgFall _ _ _ => true
  | .firmwareLoad _ => true
  | .dramTrainingDone _ _ rate density ranks => decide (rate < 4) && decide (density < 5) && decide (ranks = 1 ∨ ranks = 2)
  | .memoryFillDone _ what => what.wellFormed
  | .flashImageLoad _ => true
  | .hallBAcceptTimeout => true
  | .stairTrainingDone _ _ => true
  | .stairSync _ m => m.wellFormed
  | .stairMove _ m => m.wellFormed
  | .stairCompare _ m => m.wellFormed
  | .stairControl _ m _ => m.wellFormed
  | .stairBeat _ m _ => m.wellFormed
  | .beatSend _ => true
  | .partnerLost _ => true
  | .warmingEnd _ => true
  | .reference _ _ _ => true
  | .referenceLost _ _ => true
  | .holdoverSweep _ _ => true
  | .generatorSweep _ _ => true
  | .tickBoundary _ _ => true
  | .strikeReset _ g c => isGallery g && decide (c < 12)
  | .fsyncOutPulseEnd n _ => decide (n < 4)
  | .slotDeferredIssue _ part slot _ => isPartition part && decide (slot < 2048)
  | .activate p => isPort p
  | .discard p => isPort p
  | .activationAckTimeout _ => true
  | .commandFetch _ ctx _ => isContext ctx
  | .endStream _ ctx _ => isContext ctx
  | .sync _ ctx _ => isContext ctx
  | .copy _ c _ => isCore c
  | .placeHold _ c _ => isCore c
  | .placeRelease _ c _ => isCore c
  | .frameMoveCommit _ frame => decide (frame < 262144)
  | .cellOpSet _ c _ => isCore c
  | .cellOpAdd _ c _ => isCore c
  | .farSignal _ c _ => isCore c
  | .matrix _ c _ => isCore c
  | .attn _ c _ => isCore c
  | .kvAppend _ c _ => isCore c
  | .kvPageopCreate _ c _ => isCore c
  | .kvPageopDestroy _ c _ => isCore c
  | .kvPageopFork _ c _ => isCore c
  | .kvPageopDrop _ c _ => isCore c
  | .kvPageopTruncate _ c _ => isCore c
  | .kvPageopSeal _ c _ => isCore c
  | .attnMerge _ c _ => isCore c
  | .attnBwd _ c _ => isCore c
  | .recur _ c _ => isCore c
  | .stateOpInit _ c _ => isCore c
  | .stateOpAnchor _ c _ => isCore c
  | .conv _ c _ => isCore c
  | .haloSend _ c _ => isCore c
  | .cropResize _ c _ => isCore c
  | .boxDecode _ c _ => isCore c
  | .nms _ c _ => isCore c
  | .commitPoint _ ctx _ _ => isContext ctx
  | .publicationEnd _ ctx _ _ => isContext ctx
  | .hallCellSignal _ => true
  | .killComplete _ ctx _ _ => isContext ctx
  | .cmdOverrun _ ctx _ _ => isContext ctx
  | .weightBankError _ c b _ _ => isCore c && decide (b < 16)
  | .contextAdmit _ c _ => isCore c
  | .swapOutDone _ ctx _ => isContext ctx
  | .swapInDone _ ctx _ => isContext ctx
  | .frameAreaRequest p g _ => isPort p && isGallery g
  | .mr4Read _ channel _ => decide (channel < 32)
  | .dqsTracking _ => true
  | .reencryptStep _ => true
  | .scrubWalkerStep _ _ => true
  | .scrubPassEnd _ _ _ _ _ => true
  | .passGo p _ => isPort p
  | .ceLogClear p => isPort p
  | .correctableError _ _ => true
  | .uncorrectableError _ place _ => place.wellFormed
  | .domainResetRelease _ g core _ => isGallery g && optCore core
  | .faultPinHoldEnd _ _ => true
  | .watchdogExpire _ => true
  | .hallResetWrite p _ => isPort p
  | .audioFrameBoundary _ f => decide (f.pdm.length = 32 ∧ f.scores.length = 12)
  | .candidateReject c => decide (c < 12)
  | .idleDescent _ => true
  | .micDeferTimeout _ => true
  | .descend p _ => isPort p
  | .captureMirrorUpdate _ => true
  | .presenceFrame _ _ => true
  | .modeReq p _ => isPort p
  | .micCalWrite p m _ => isPort p && decide (m < 32)
  | .micBlockWrite _ _ => true
  | .frameStart _ port head fnum _ _ _ => decide (port < 8) && decide (head.vc < 32) && decide (fnum < 65536)
  | .linePacket _ port vc dt _ _ _ => decide (port < 8) && decide (vc < 32) && decide (dt < 64)
  | .embeddedDataPacket _ port head dt _ => decide (port < 8) && decide (head.vc < 32) && decide (dt < 64)
  | .ignoredShortPacket _ port head dt => decide (port < 8) && decide (head.vc < 32) && decide (dt < 64)
  | .frameEnd _ port head _ => decide (port < 8) && decide (head.vc < 32)
  | .frameTimeout _ port vc _ => decide (port < 8) && decide (vc < 32)
  | .degradeWritesDone _ port => decide (port < 8)
  | .ispPieceStart _ => true
  | .ispPieceDone _ _ => true
  | .sensorWriteDone _ ctrl _ => decide (ctrl < 2)
  | .sensorBusTimeout _ ctrl => decide (ctrl < 2)
  | .paramCopyDone _ ctx => decide (ctx < 32)
  | .hostFeedRecord _ port head packet => decide (port < 8) && decide (head.vc < 32) && decide (packet.dt < 64)
  | .modelPartDone _ model _ => decide (model < 65535)
  | .bindSession p => isPort p
  | .bindStream p => isPort p
  | .bindFeedRing p => isPort p
  | .unbindSession p => isPort p
  | .unbindStream p => isPort p
  | .unbindFeedRing p => isPort p
  | .submitCreate p => isPort p
  | .submitResume p => isPort p
  | .cancel p => isPort p
  | .queryAccount p => isPort p
  | .queryCompletions p => isPort p
  | .queryStream p => isPort p
  | .queryEvents p => isPort p
  | .queryPort p => isPort p
  | .attest p => isPort p
  | .keywrapModelKey p => isPort p
  | .keywrapStreamKey p => isPort p
  | .keywrapRotate p => isPort p
  | .keywrapErase p => isPort p
  | .loadmodelLoad p _ => isPort p
  | .loadmodelUnload p => isPort p
  | .regrd p => isPort p
  | .regwr p => isPort p
  | .responseRead p _ => isPort p
  | .capsuleTimeout p => isPort p
  | .capsuleForwardTimeout p tag => isPort p && decide (tag < 65536)
  | .i3cParityError p _ => isPort p
  | .entdaa p _ => isPort p
  | .setdasa p _ _ => isPort p
  | .rstdaa p => isPort p
  | .getpid p => isPort p
  | .getbcr p => isPort p
  | .getdcr p => isPort p
  | .getstatus p => isPort p
  | .enec p _ => isPort p
  | .disec p _ => isPort p
  | .setmwl p _ => isPort p
  | .setmrl p _ _ => isPort p
  | .getmwl p => isPort p
  | .getmrl p => isPort p
  | .enthdr0 p => isPort p
  | .rstactPortReset p => isPort p
  | .rstactHallReset p => isPort p
  | .rstactRead p _ => isPort p
  | .ibiSlot p => isPort p
  | .txPacketEnd _ t => decide (t < 4)
  | .csiTxCfgWrite p t _ => isPort p && decide (t < 4)
  | .ephemeralKeyExpire _ _ => true
  | .sessionScrubDone _ session => decide (session < 262144)
  | .domainReleaseDone _ domain => decide (domain < 4096)
  | .secRotate p _ => isPort p
  | .trngHealthFail _ => true
  | .powerRequest p _ _ => isPort p
  | .wakeRelease p _ => isPort p
  | .galleryDrainDone _ g => isGallery g
  | .entryWindowEnd _ => true
  | .powerRiseDone _ => true
  | .powerGoodTimeout _ => true
  | .voltageRampDone _ => true
  | .thermalStepDown _ _ => true
  | .thermalStepUp _ _ => true
  | .thermalTrip _ _ => true
  | .wakePinAccept n _ => decide (n < 8)
  | .levelWakeRepeat n _ => decide (n < 8)
  | .wakeStuckClear n _ => decide (n < 8)
  | .snapshot p => isPort p
  | .samplerWrite p k _ => isPort p && decide (k < 8)
  | .sampleIdleTimeout _ k => decide (k < 8)
  | .sampleHeadRead p => isPort p
  | .counterLoRead p window n => isPort p && decide (window < 3) && decide (n < 2048)
  | .unlock p block _ _ => isPort p && decide (block < 256)
  | .unlockExpired p block => isPort p && decide (block < 256)
  | .registerWrite p addr _ => isPort p && decide (addr < 2 ^ 32)
  | .jtagBypass => true
  | .jtagIdcode => true
  | .jtagSamplePreload _ => true
  | .jtagExtest => true
  | .jtagTrst => true
  | .privateWrite p _ _ => isPort p
  | .hdrExit p => isPort p
  | .headerUncorrectable _ port vc => decide (port < 8) && decide (vc < 32)
  | .undeclaredPacket _ port head dt => decide (port < 8) && decide (head.vc < 32) && decide (dt < 64)
  | .sotError _ port lane => decide (port < 8) && decide (lane < 4)
  | .trngHealthPass _ => true
  | .wakePinInactive n _ => decide (n < 8)
  | .packagePowerWindow _ => true
  | .pgRise _ => true
  | .supplyOutOfRange => true
  | .flightEntryCopyDone _ => true

end Sys2Proof
end

