-- ==== Sys2Proof/Config.lean ====
section
/-! DEFINITION. What one part fixes (R488, R489) and the values the manual leaves open. A constant without a body has no
value a proof could use: a statement about it holds for every value. -/

namespace Sys2Proof.Config

/-- R488: the 256-bit root key of hall h. -/
opaque rootKey (h : Nat) : List Byte
/-- R488: the public identity key of hall h, x then y. -/
opaque identityKey (h : Nat) : List Byte
/-- R488: the identity certificate of hall h, at most 1,024 bytes. -/
opaque certificate (h : Nat) : List Byte
/-- R488: the SHA-384 hash of the integrator's image-signing key in hall h. -/
opaque signerHash (h : Nat) : List Byte
/-- R617: the public key of the firmware signer, whose hash hall h's boot ROM holds. -/
opaque firmwareKey (h : Nat) : List Byte
/-- R490: bytes of the random-bit generators, drawn in order. -/
opaque random (n : Nat) : Byte
/-- R490, FIPS 186-5: the ECDSA signature by hall h's identity key of a message hash, with a fresh nonce. -/
opaque signature (h : Nat) (hash : List Byte) (n : Nat) : List Byte
/-- R535, R509, R515: what an unwritten byte of hall DRAM decrypts to, for each hall, loss of contents and address. -/
opaque dramFill (h gen addr : Nat) : Byte
/-- R613: whether a low level on POR_N of 1 to 10 µs resets the package. -/
opaque porPulse (n : Nat) : Bool
/-- R184: which of the FP32 values within the function's largest error the gate pipeline gives for function `f` at an
operand: a distance in units of the last place, taken modulo the values allowed. -/
opaque ulps (f : Nat) (x : BitVec 32) : Nat
/-- R166: the random bits of one stochastic rounding. -/
opaque stochastic (n : Nat) : Nat
/-- R184, R185: where the monotone function `f` passes to level i + 1 of the operands whose exact result rounds to code r: an operand, in the order
of the operands' values. -/
opaque gateStep (f : Nat) (r : Int) (i : Nat) : Nat
/-- R184, R185: how far from code r, in codes, the monotone function `f` is at level i of the operands whose exact result rounds to r. -/
opaque gateLevel (f : Nat) (r : Int) (i : Nat) : Nat
/-- R175: the exponent e by which the source values of a block are divided whose scale byte is 0xFF. -/
opaque nanBlockExp (elem : Nat) (xs : List (BitVec 32)) : Int
/-- R218: which two partial sums the vector path adds next: the values summed and the step, taken modulo the choices left. -/
opaque sumOrder (xs : List (BitVec 32)) (step : Nat) : Nat
/-- R41: the steward opcode of a CONTROL payload, which belongs to the firmware. -/
opaque controlOp (c : ControlMsg) : Nat
/-- R41: the bytes of a CONTROL payload, which belong to the firmware. -/
opaque controlBytes (c : ControlMsg) : List Byte
/-- R453: the DETAIL that names a fault of R482 in the answer to a failed feed object. -/
opaque feedDetail (n : Nat) : BitVec 32
/-- R195: how many frames hold the stream records and page lists of a cache of n streams whose page lists have m entries in all. -/
opaque recordFrames (n m : Nat) : Nat
/-- R218: of the i-th tile that an attention command fetches in its run, the cycles from the fetch of the tile before it to its own, and from there to
the load of its last bank. -/
opaque tileFetch (serial i : Nat) : Nat × Nat
/-- R396, R397: a half-band stage's value, in the unit of the comb's output, from the values it has taken, newest first: path of comb ratio rc, stage 1
or 2. -/
opaque halfBand (rc stage : Nat) (past : List Int) : Int
/-- R397: the 24-bit sample of a second-stage value that gives no whole number. -/
opaque pcmSample (rc : Nat) (v : Int) : Int
/-- R397: the 20 Hz high-pass filter's output from its input and its last input and output. -/
opaque highPass (rc : Nat) (x lastIn lastOut : Int) : Int
/-- R398: the fractional-delay filter's output: rate in kHz, PHASE code, samples newest first. -/
opaque fracDelay (khz phase : Nat) (past : List Int) : Int
/-- R533: which 32 B word of a publication of n words a commit-buffer address holds, taken modulo n. -/
opaque publishedWord (addr n : Nat) : Nat
/-- R429 stage 7: a plane's value at a site: the frame's free number, the plane, the site's row and column in the pattern, and the values of the
5 x 5 neighbourhood in raster order, none outside the frame. -/
opaque demosaic (n plane row col : Nat) (near : List (Option Nat)) : Nat
/-- R429 stage 9: the code within 1 of the tone curve's value: -1, 0 or 1 as 0, 1 and 2, taken modulo 3. -/
opaque toneError (n v : Nat) : Nat
/-- R429 stage 12: a scaled value: the frame's free number, plane, input and output rows and columns of the axis pair, output row and column,
and the 4 x 4 values about its source place in raster order, none outside the crop. -/
opaque scaled (n plane : Nat) (size : List Nat) (row col : Nat) (near : List (Option Nat)) : Nat
/-- R434: the stage-10 luma of a site from its planes. -/
opaque luma (planes : List Nat) : Nat
/-- R368: a pixel of a presence crop: the box, the row and column of the 64 x 64 crop, and the frame's luma. -/
opaque cropPixel (box : Nat × Nat × Nat × Nat) (row col : Nat) (luma : List Byte) : Byte
/-- R375: the SCORE of a landing that a wake pin causes, which has no score. -/
opaque pinScore : BitVec 16
/-- R447: what the read form of RSTACT returns for an action other than 0x01 and 0x02. -/
opaque rstactTime (action : Byte) : Byte
/-- R436: whether a camera leaves the SETDASA of attempt n unacknowledged. -/
opaque setdasaFails (n camera : Nat) : Bool
/-- R430: CSC_OFF of the default parameter set, which R430 does not list. -/
opaque cscOff (i : Nat) : BitVec 16
/-- R434: what a zone sum too large for its 4 bytes is stored as. -/
opaque zoneSum (v : Nat) : BitVec 32
/-- R529: what a byte of the capture area outside the samples and gap flags reads after an uncorrectable error. -/
opaque lostCapture (n addr : Nat) : Byte
/-- R586: fields 0 CONTEXT, 1 OPCODE and 2 SEQ of an IDLE sample of a core that has never committed a command. -/
opaque noCommit (i : Nat) : Nat

end Sys2Proof.Config
end

