-- ==== Sys2Proof/Machine/Types.lean ====
section
/-! DEFINITION. The Aizan image as data (R65 to R82 and the entry formats of the other chapters): what the steward
holds of an image it has read. Fields are numbers as the image's bytes give them. -/

namespace Sys2Proof.Machine

/-- R71: a PARTITIONS entry. -/
structure PartEntry where
  part : Nat
  kind : Nat
  hall : Nat
  minStair : Nat
  galA : Nat
  galB : Nat
  classes : Nat
  lowestOp : Nat
  syncBaseA : Nat
  syncCountA : Nat
  syncBaseB : Nat
  syncCountB : Nat
  contextsA : Nat
  contextsB : Nat
  gatherA : Nat
  gatherB : Nat
  framesA : Nat
  framesB : Nat
  deriving DecidableEq, Repr

/-- R72: a ROUTES entry. -/
structure RouteEntry where
  part : Nat
  hall : Nat
  src : Nat
  dst : Nat
  classes : Nat
  deriving DecidableEq, Repr

/-- R73: a WINDOWS entry. -/
structure WindowEntry where
  window : Nat
  kind : Nat
  hall : Nat
  partX : Nat
  partY : Nat
  tier : Nat
  gallery : Nat
  base : Nat
  size : Nat
  syncBase : Nat
  syncCount : Nat
  deriving DecidableEq, Repr

/-- R74: a HOST_RIGHTS entry. -/
structure RightsEntry where
  port : Nat
  rights : Nat
  parts : Nat
  regRead : Nat
  regWrite : Nat
  deriving DecidableEq, Repr

/-- R75: a COMPAT entry. -/
structure CompatEntry where
  gallery : Nat
  mode : Nat
  deriving DecidableEq, Repr

/-- R76: the LINK entry. -/
structure LinkEntry where
  beatPeriod : Nat
  missLimit : Nat
  enable : Nat
  deriving DecidableEq, Repr

/-- R414: a CAMERA body. -/
structure CameraBody where
  port : Nat
  phy : Nat
  lanes : Nat
  laneMap : Nat
  pnSwap : Nat
  vc : Nat
  dt : Nat
  embDt : Nat
  rateMbps : Nat
  width : Nat
  height : Nat
  pad : Nat
  frameUs : Nat
  timeoutUs : Nat
  lineNs : Nat
  sync : Nat
  syncWin : Nat
  ctrl : Nat
  bus : Nat
  saddr : Nat
  daddr : Nat
  regBytes : Nat
  delay : Nat
  writeLine : Nat
  deadlineLine : Nat
  cflags : Nat
  part : Nat
  setAddr : Nat
  setCell : Nat
  setGallery : Nat
  degradeAddr : Nat
  pipe : Nat
  deriving DecidableEq, Repr

/-- R424: an output descriptor of a PIPE body. -/
structure PipeOut where
  fmt : Nat
  part : Nat
  tier : Nat
  bufs : Nat
  base : Nat
  bufStride : Nat
  rowStride : Nat
  cell : Nat
  event : Nat
  domain : Nat
  cropY : Nat
  cropX : Nat
  cropH : Nat
  cropW : Nat
  outW : Nat
  outH : Nat
  deriving DecidableEq, Repr

/-- R423: a PIPE body. -/
structure PipeBody where
  ctx : Nat
  mode : Nat
  mosaic : Nat
  bits : Nat
  stripeLines : Nat
  lbLines : Nat
  cls : Nat
  out0 : PipeOut
  out1 : PipeOut
  statsAddr : Nat
  statsCell : Nat
  deriving DecidableEq, Repr

/-- R442: a HOST_FEED body. -/
structure HostFeedBody where
  port : Nat
  vc : Nat
  host : Nat
  kinds : Nat
  phy : Nat
  lanes : Nat
  laneMap : Nat
  pnSwap : Nat
  rateMbps : Nat
  dt : Nat
  deriving DecidableEq, Repr

/-- R443: a PRESENCE body. -/
structure PresenceBody where
  vc : Nat
  dt : Nat
  rateMbps : Nat
  width : Nat
  height : Nat
  deriving DecidableEq, Repr

/-- R391: a MIC_ARRAY body. -/
structure MicArrayBody where
  clock : Nat
  aflags : Nat
  settleMs : Nat
  rate : Nat
  mics : Nat
  part : Nat
  gallery : Nat
  blocks : Nat
  streamAddr : Nat
  cell : Nat
  /-- GAIN and PHASE of each channel, 16-bit codes -/
  cal : List (Nat × Nat)
  deriving DecidableEq, Repr

/-- R405: a TDM_OUT body. -/
structure TdmOutBody where
  port : Nat
  slots : Nat
  part : Nat
  gallery : Nat
  blocks : Nat
  cell : Nat
  playAddr : Nat
  deriving DecidableEq, Repr

/-- R409: the kinds of SENSOR_GRAPH entry. -/
inductive SensorBody where
  | camera (b : CameraBody)
  | pipe (b : PipeBody)
  | hostFeed (b : HostFeedBody)
  | presence (b : PresenceBody)
  | micArray (b : MicArrayBody)
  | tdmOut (b : TdmOutBody)
  deriving DecidableEq, Repr

/-- R408: a SENSOR_GRAPH entry. -/
structure SensorEntry where
  id : Nat
  hall : Nat
  body : SensorBody
  deriving DecidableEq, Repr

/-- R484: a TENANCY entry. -/
structure TenantEntry where
  domain : Nat
  halls : Nat
  tflags : Nat
  parts : Nat
  ports : Nat
  extentBaseA : Nat
  extentLenA : Nat
  extentBaseB : Nat
  extentLenB : Nat
  modelFirst : Nat
  modelCount : Nat
  sessionQuota : Nat
  ownerHash : List Byte
  deriving DecidableEq, Repr

/-- R552: PIN_n of the POWER_CONFIGS header. -/
structure PinEntry where
  flags : Nat
  config : Nat
  deriving DecidableEq, Repr

/-- R553: a POWER_CONFIGS entry. -/
structure PowerEntry where
  config : Nat
  state : Nat
  galA : Nat
  galB : Nat
  opA : Nat
  opB : Nat
  deriving DecidableEq, Repr

/-- R106: one FSYNC_OUT entry. -/
structure FsyncOut where
  flags : Nat
  widthUs : Nat
  offsetTick : Nat
  deriving DecidableEq, Repr

/-- R106: the timebase header. -/
structure Timebase where
  source : Nat
  edge : Nat
  refPort : Nat
  refVc : Nat
  nominalUs : Nat
  minUs : Nat
  maxUs : Nat
  holdover : Nat
  relock : Nat
  divergeLimit : Nat
  fsyncOut : List FsyncOut
  deriving DecidableEq, Repr

/-- R108: a slot. -/
structure Slot where
  slot : Nat
  cls : Nat
  lgallery : Nat
  coreMask : Nat
  startTick : Nat
  endTick : Nat
  trigger : Nat
  model : Nat
  fallback : Nat
  cycleBudget : Nat
  fallbackBudget : Nat
  cmdCount : Nat
  stairFlits : Nat
  emit : Nat
  emitKb : Nat
  deriving DecidableEq, Repr

/-- R108: a buffer entry. -/
structure Buffer where
  producer : Nat
  tier : Nat
  lgallery : Nat
  address : Nat
  bytes : Nat
  deriving DecidableEq, Repr

/-- R107: a sweep table. -/
structure SweepTable where
  table : Nat
  part : Nat
  halves : Nat
  galleryCount : Nat
  slots : List Slot
  buffers : List Buffer
  deriving DecidableEq, Repr

/-- R80: a DEGRADED_MAP entry. -/
structure MapEntry where
  part : Nat
  halves : Nat
  count : Nat
  table : Nat
  deriving DecidableEq, Repr

/-- R79: a COMPARE_MARKS entry. -/
structure MarkEntry where
  mark : Nat
  table : Nat
  tick : Nat
  tensor : Nat
  format : Nat
  policy : Nat
  primaryHall : Nat
  elements : Nat
  absTol : Nat
  relTol : Nat
  maxOutside : Nat
  deriving DecidableEq, Repr

/-- R362: a CASCADE entry. -/
structure FlightEntry where
  flight : Nat
  part : Nat
  hall : Nat
  gallery : Nat
  powerConfig : Nat
  micMode : Nat
  coreMask : Nat
  model : Nat
  tenant : Nat
  port : Nat
  fflags : Nat
  landingCell : Nat
  landingAddr : Nat
  upAddr : Nat
  upCell : Nat
  mirrorCell : Nat
  mirrorAddr : Nat
  idleMs : Nat
  minDwellMs : Nat
  holdThresh : Nat
  openThresh : Nat
  closeThresh : Nat
  closeMs : Nat
  maxCandMs : Nat
  prerollMs : Nat
  ringClock : Nat
  ringChans : Nat
  presenceFrames : Nat
  target : List Nat
  wakeThresh : List Nat
  deriving DecidableEq, Repr

/-- An Aizan image as read (R65): its bytes and the entries of its sections. -/
structure Image where
  /-- the image's bytes -/
  bytes : List Byte
  /-- IMAGE_VERSION -/
  version : Nat
  /-- R70: SHA-384 of bytes 0 to IMAGE_LEN - 97 -/
  digest : List Byte
  /-- R69: the structure digest -/
  sdigest : List Byte
  partitions : List PartEntry
  routes : List RouteEntry
  windows : List WindowEntry
  sensors : List SensorEntry
  tenancy : List TenantEntry
  rights : List RightsEntry
  pins : List PinEntry
  initialReq : List Nat
  pflags : Nat
  powers : List PowerEntry
  compat : List CompatEntry
  link : Option LinkEntry
  timebase : Timebase
  tables : List SweepTable
  degraded : List MapEntry
  marks : List MarkEntry
  /-- the CASCADE entries; none when the section is absent (R365) -/
  cascade : Option (List FlightEntry)
  deriving DecidableEq, Repr

end Sys2Proof.Machine
end

