-- ==== Sys2Proof/Machine/StateCore.lean ====
section
/-! DEFINITION. The state of a hall's cores, contexts and device-held pages: stores with their markers, weight banks,
commands in flight, contexts with their accounts, page frames, caches, streams and gather slots. -/

namespace Sys2Proof.Machine

/-- R598, R599: a voted field, held in three copies; its value is their bitwise majority. -/
structure Voted (w : Nat) where
  /-- first copy -/
  c0 : BitVec w
  /-- second copy -/
  c1 : BitVec w
  /-- third copy -/
  c2 : BitVec w
  deriving DecidableEq, Repr

/-- R599: the bitwise majority of the copies. -/
def Voted.val {w : Nat} (v : Voted w) : BitVec w := (v.c0 &&& v.c1) ||| (v.c1 &&& v.c2) ||| (v.c0 &&& v.c2)

/-- R599: an update writes all three copies. -/
def Voted.all {w : Nat} (x : BitVec w) : Voted w := ⟨x, x, x⟩

/-- R534 to R536: an SRAM store as its readers see it. A word is 32 bytes; words are numbered from 0. -/
structure Store where
  /-- bytes that are not zero (R535: a filled word is zero); a word under a marker lists no byte -/
  mem : Memory
  /-- R536: the store was filled with UNWRITTEN -/
  wbr : Bool
  /-- R536: words written since an UNWRITTEN fill, strictly rising -/
  written : List Nat
  /-- R533: words that hold POISON, strictly rising -/
  poison : List Nat
  deriving DecidableEq, Repr

/-- A store right after the zero fill of R535. -/
def Store.zero : Store := ⟨⟨[]⟩, false, [], []⟩

/-- A store right after the UNWRITTEN fill of R536. -/
def Store.unwritten : Store := ⟨⟨[]⟩, true, [], []⟩

/-- R135, R138, R154, R173: a weight bank with its tag, contents and scale sidecar. -/
structure Bank where
  /-- VALID bit -/
  valid : Bool
  /-- tag: source address of the tile, its TIER in bit 31 (R135); none where what the bank holds has no address of its own -/
  src : Option Nat
  /-- tag: W_FMT -/
  wfmt : Nat
  /-- tag: partition -/
  part : Nat
  /-- tag: key domain -/
  dom : Nat
  /-- the tile, 16,384 bytes once loaded -/
  tile : List Byte
  /-- R173: sidecar VALID -/
  sideValid : Bool
  /-- R173: address of the scales held in the sidecar -/
  sideSrc : Nat
  /-- the scales held in the sidecar -/
  side : List Byte
  /-- R154: BANK_OFF bit -/
  off : Bool
  /-- R154: uncorrectable errors of this bank since core reset -/
  errs : Nat
  deriving DecidableEq, Repr

/-- A bank after core reset: not valid, in service. -/
def Bank.empty : Bank := ⟨false, none, 0, 0, 0, [], false, 0, [], false, 0⟩

/-- R128, R135, R173: a load of a run: the cycle of the run at which it lands, its bank, whether it brings a tile and not block scales alone, and what
the bank holds from then on. -/
structure BankLoad where
  landing : Nat
  bank : Nat
  whole : Bool
  content : Bank
  deriving DecidableEq, Repr

/-- Where a command's output byte goes. -/
inductive Place where
  /-- operand store of core c -/
  | op (c : Nat)
  /-- gallery store of gallery g -/
  | gal (g : Nat)
  /-- hall DRAM -/
  | dram
  deriving DecidableEq, Repr

/-- R294: bytes in a commit-buffer region with their destination. -/
structure Write where
  /-- destination store -/
  place : Place
  /-- first byte address in it -/
  addr : Nat
  /-- the bytes -/
  data : List Byte
  deriving DecidableEq, Repr

/-- R194: a page-list entry. -/
structure Entry where
  /-- FRAME -/
  frame : Nat
  /-- PFMT -/
  pfmt : Nat
  /-- FILL of a partial page, 1 to 31; 0 for a full page -/
  fill : Nat
  deriving DecidableEq, Repr

/-- R194, R212, R339: a stream record. -/
structure Stream where
  /-- the page list -/
  entries : List Entry
  /-- its gather slot: area of the pool and fill -/
  slot : Option (Nat × Nat)
  /-- R339: the hold mark -/
  hold : Bool
  /-- R212: marked lost -/
  lost : Bool
  deriving DecidableEq, Repr

/-- An empty stream (L = 0). -/
def Stream.empty : Stream := ⟨[], none, false, false⟩

/-- R207: the parameters of a cache. -/
structure CacheParam where
  frameCode : Nat
  pfmt : Nat
  stage : Nat
  hg : Nat
  d : Nat
  layers : Nat
  groups : Nat
  seqs : Nat
  slotGal : Nat
  tierFlags : Nat
  slotCount : Nat
  slotBase : Nat
  quota : Nat
  deriving DecidableEq, Repr

/-- R189: a cache of the hall. -/
structure Cache where
  /-- cache number, 0 to 4,095 -/
  num : Nat
  /-- owner partition -/
  part : Nat
  /-- owner key domain -/
  dom : Nat
  /-- R207 parameters -/
  prm : CacheParam
  /-- streams that are not empty, by stream index, rising -/
  streams : List (Nat × Stream)
  /-- R195: frames that hold its stream records and page lists -/
  records : List Nat
  deriving DecidableEq, Repr

/-- R334: STATE of a frame. -/
inductive FrameState where
  | sram | dram | movingUp | movingDown | cullet
  deriving DecidableEq, Repr

/-- R334: a page-frame table entry (REFS 16 bits, HOLDS 16 bits, PINS 8 bits, EPOCH 1 bit, LAST_READ 16 bits). -/
structure Frame where
  /-- STATE -/
  st : FrameState
  /-- SIZE code 0 to 4 -/
  size : Nat
  /-- REFS -/
  refs : Nat
  /-- HOLDS -/
  holds : Nat
  /-- PINS -/
  pins : Nat
  /-- HOME_VALID -/
  homeValid : Bool
  /-- LOST -/
  lost : Bool
  /-- PART -/
  part : Nat
  /-- DOMAIN -/
  dom : Nat
  /-- EPOCH -/
  epoch : Nat
  /-- cache whose quota it counts against (R336); none for a swap-out frame -/
  cache : Option Nat
  /-- home gallery -/
  gal : Nat
  /-- PLACE: block of the frame area and piece in it, while in SRAM, MOVING_DOWN, or the target in MOVING_UP -/
  piece : Option (Nat × Nat)
  /-- LAST_READ: tick stamp, 16 bits -/
  lastRead : Nat
  /-- R337: WRITE_HOME applies -/
  writeHome : Bool
  /-- R340: array cycle in which HOLDS rose above 0, while it has stayed there -/
  heldFrom : Option Nat
  /-- R344: array cycle in which the move in progress began -/
  movedAt : Nat
  /-- R341: class of the move in progress -/
  moveCls : Nat
  /-- R323: the move is forced by a shrink or drain -/
  forced : Bool
  deriving DecidableEq, Repr

/-- R204, R212: what the deferred list holds: a frame, or a retired slot with its partition, gallery, first byte and length. -/
inductive Retired where
  | frame (n : Nat)
  | slot (part gal addr len : Nat)
  deriving DecidableEq, Repr

/-- The item is a frame. -/
def Retired.isFrame : Retired → Bool
  | .frame _ => true
  | .slot _ _ _ _ => false

/-- R204: an item of the deferred list. -/
structure Deferred where
  /-- the frame or slot -/
  item : Retired
  /-- serials of the ATTN and ATTN_BWD commands in flight when it joined that have neither committed nor been killed -/
  waits : List Nat
  deriving DecidableEq, Repr

/-- R284: the states of a command that a model of steps tells apart; Ready is computed. -/
inductive Stage where
  | queued | running | publishing
  deriving DecidableEq, Repr

/-- R295: causes of a kill, lowest row of the table last. -/
inductive KillCause where
  | preempt | swap | fallback | bank | fence | cancel | overrun
  deriving DecidableEq, Repr

/-- R343: a frame that a command pins, from one cycle of its run on and, where it is not until the command ends, up to another. -/
structure Pin where
  frame : Nat
  start : Nat
  till : Option Nat
  deriving DecidableEq, Repr

/-- R294: what a command has built in its region and what waits for its commit. -/
structure Built where
  /-- output bytes -/
  writes : List Write
  /-- R536: words of the output that take a marker: place, word, and true for POISON -/
  marks : List (Place × Nat × Bool)
  /-- NSTAT of R163 -/
  nstat : Nat
  /-- CELL_OP SETs: cell and value -/
  sets : List (Nat × Nat)
  /-- the command's own signals: cell and count -/
  signals : List (Nat × Nat)
  /-- Stair messages due at commit (R42), SEQ not yet given -/
  stair : List StairMsg
  /-- R200, R206: new stream records, by handle -/
  streams : List (Nat × Stream)
  /-- pages written into new frames -/
  pages : List (Nat × List Byte)
  /-- R206 CREATE -/
  create : Option (Nat × CacheParam)
  /-- R206 DESTROY -/
  destroy : Option Nat
  /-- gather-slot areas retired: cache and area -/
  retire : List (Nat × Nat)
  /-- R357: first handle, count, and true for HOLD -/
  place : Option (Nat × Nat × Bool)
  /-- R242: state blocks locked: place and address -/
  blockLocks : List (Place × Nat)
  /-- R203: stream handles locked -/
  streamLocks : List Nat
  /-- R343: frames pinned while it runs -/
  pins : List Pin
  /-- R202: frames reserved -/
  resFrames : List Nat
  /-- R202: slot areas reserved: cache and area -/
  resSlots : List (Nat × Nat)
  /-- input ranges: place, first byte, last byte -/
  ins : List (Place × Nat × Nat)
  /-- output ranges -/
  outs : List (Place × Nat × Nat)
  /-- R288: serials of the commands whose publication it reads: their bytes are held from it until that ends -/
  awaits : List Nat
  /-- stall-free run in cycles -/
  run : Nat
  /-- R227: the fault that ends the run in place of its commit point -/
  ends : Option Nat
  /-- MACs, bank loads and bank hits of the run (R577) -/
  macs : Nat
  loads : Nat
  hits : Nat
  /-- R266: halo bytes of a band sent to another core -/
  haloBytes : Nat
  /-- bytes read from gallery stores: gallery and bytes (R577) -/
  gsReads : List (Nat × Nat)
  /-- R149: bank loads of the run -/
  bankLoads : List BankLoad
  /-- R138: bank reads of the run: first cycle and bank -/
  bankReads : List (Nat × Nat)
  deriving DecidableEq, Repr

/-- Nothing built. -/
def Built.empty : Built :=
  { writes := [], marks := [], nstat := 0, sets := [], signals := [], stair := [], streams := [], pages := [], create := none,
    destroy := none, retire := [], place := none, blockLocks := [], streamLocks := [], pins := [], resFrames := [],
    resSlots := [], ins := [], outs := [], awaits := [], run := 0, ends := none, macs := 0, loads := 0, hits := 0, haloBytes := 0,
    gsReads := [], bankLoads := [], bankReads := [] }

/-- R284: a command between Queued and Done. -/
structure Cmd where
  /-- position in its stream -/
  pos : Nat
  /-- serial number in the hall, for R204 -/
  serial : Nat
  /-- the 64-byte descriptor -/
  desc : List Byte
  /-- R350: its wait is satisfied (or it has none) -/
  waitDone : Bool
  /-- state -/
  stage : Stage
  /-- cycle it entered the queue -/
  enq : Nat
  /-- cycle of the latest issue -/
  issued : Nat
  /-- cycle of the commit point -/
  commit : Nat
  /-- times killed -/
  kills : Nat
  /-- a kill has been requested -/
  killReq : Option KillCause
  /-- R299: cycle of that request -/
  killAt : Nat
  /-- it has waited at issue for a lock (R203, R242) -/
  lockWaited : Bool
  /-- it has waited at issue for a retired slot (R202) -/
  slotWaited : Bool
  /-- R266: its band's publication has been held -/
  haloHeld : Bool
  /-- cycle since which it is Ready and not issued -/
  readyAt : Option Nat
  /-- R315: rerun with its signals, messages, record and account suppressed -/
  suppress : Bool
  /-- R533: commit-buffer address of an uncorrectable word of its publication, which then does not count as ended -/
  poisoned : Option Nat
  /-- what it has built -/
  built : Built
  deriving DecidableEq, Repr

/-- R318: STATE of a context's account; BLOCKED is computed from R308. -/
inductive CtxState where
  | resident | waiting | swapped | faulted | ended | lost
  deriving DecidableEq, Repr

/-- R318: the counts of an account from offset 8 onwards. -/
structure Account where
  committed : Nat
  kills : Nat
  runCycles : Nat
  killedCycles : Nat
  readyCycles : Nat
  blockedCycles : Nat
  swapOuts : Nat
  swapStalls : Nat
  admitCycles : Nat
  replays : Nat
  deriving DecidableEq, Repr

/-- An account of zeros. -/
def Account.zero : Account := ⟨0, 0, 0, 0, 0, 0, 0, 0, 0, 0⟩

/-- R310: what a swap-out saved. -/
structure Saved where
  /-- resident slot to return to -/
  slot : Nat
  /-- frames taken -/
  frames : List Nat
  /-- operand-store ranges with their contents -/
  bytes : List (Nat × List Byte)
  /-- R536: marker words saved unchanged: word index, true for POISON -/
  marks : List (Nat × Bool)
  /-- R243: ranges that are saved once the pins have gone: the pinned blocks, and what the pinning commands write -/
  late : List (Nat × Nat)
  deriving DecidableEq, Repr

/-- R310: progress of a swap. -/
inductive SwapPhase where
  | none
  /-- chosen; its save has not begun (R313) -/
  | chosen
  /-- its other ranges are saved; the save waits on state-block pins (R243) -/
  | pinWait
  /-- the save runs -/
  | saving
  /-- the restore runs -/
  | restoring
  deriving DecidableEq, Repr

/-- R301: the descriptor of a context. -/
structure CtxDesc where
  gallery : Nat
  footprint : List (Nat × Nat)
  streamTier : Nat
  streamAddr : Nat
  streamLen : Nat
  liveTable : Nat
  liveCount : Nat
  complCount : Nat
  complAddr : Nat
  deriving DecidableEq, Repr

/-- R304: what a slot context serves: sweep table, slot, core bit and model of its stream. -/
structure SlotOf where
  table : Nat
  slot : Nat
  bit : Nat
  model : Nat
  deriving DecidableEq, Repr

/-- A context of the hall (R301 to R319). -/
structure Ctx where
  /-- number in the hall, 0 to 16,383 -/
  num : Nat
  /-- STATE -/
  st : CtxState
  /-- CLASS -/
  cls : Nat
  /-- partition -/
  part : Nat
  /-- key domain -/
  dom : Nat
  /-- session; none for a slot context -/
  session : Option Nat
  /-- R304: a slot context's slot -/
  slot : Option SlotOf
  /-- R380: flight of a flight context -/
  flight : Option Nat
  /-- descriptor -/
  desc : CtxDesc
  /-- home core within the hall -/
  home : Nat
  /-- core it is placed on -/
  core : Nat
  /-- R314: runs on a replacement core -/
  moved : Bool
  /-- resident slot 0 to 15 -/
  rslot : Option Nat
  /-- the sequencer fetches (false: between issues, ended, or stopped) -/
  fetching : Bool
  /-- next position to fetch -/
  fetch : Nat
  /-- R315: every command below this position is Done -/
  horizon : Nat
  /-- R315: Done positions above the horizon -/
  doneMask : List Nat
  /-- R315: replay until this position -/
  replayTo : Nat
  /-- R315: positions Done at the fence -/
  replayDone : List Nat
  /-- R350: positions whose wait was satisfied and which had not ended at the fence -/
  waitsMet : List Nat
  /-- R289: kills of the commands that had not ended at the fence: position and count -/
  killsHad : List (Nat × Nat)
  /-- commands in flight, in stream order -/
  cmds : List Cmd
  /-- cycle since which it is blocked (R308) -/
  blockedSince : Option Nat
  /-- cycle since which it waits for admission, once booked -/
  waitSince : Option Nat
  /-- swap progress -/
  swap : SwapPhase
  /-- R313: cycle in which it was chosen as a victim -/
  chosenAt : Nat
  /-- R312: the swap-out is forced -/
  swapForced : Bool
  /-- R312: chosen while not blocked, so that the whole footprint is saved -/
  swapWhole : Bool
  /-- R311: chosen again at the next tick boundary -/
  swapStalled : Bool
  /-- what its swap-out saved -/
  saved : Option Saved
  /-- LAST_FAULT -/
  lastFault : Nat
  /-- position of the faulted command -/
  faultPos : Nat
  /-- the running account -/
  acct : Account
  /-- R319: the account as last refreshed -/
  shown : Account
  /-- R319: STATE and LAST_FAULT as last refreshed -/
  shownState : Nat
  shownFault : Nat
  deriving DecidableEq, Repr

/-- A core of the hall (R23, R279). -/
structure Core where
  /-- 1,024 KB operand store -/
  op : Store
  /-- 16 weight banks -/
  banks : List Bank
  /-- R138: banks from least to most recently read -/
  recency : List Nat
  /-- R292: the rotating resident-slot pointer -/
  ptr : Nat
  /-- R154: BANK_ERR -/
  bankErr : Nat
  /-- R586: context, opcode and SEQ of the core's last commit point -/
  lastCommit : Option (Nat × Nat × Nat)
  /-- R532: a core reset waits for a publication to end -/
  resetDue : Bool
  deriving DecidableEq, Repr

/-- A core after its reset and fill. -/
def Core.reset : Core :=
  { op := Store.zero, banks := List.replicate 16 Bank.empty, recency := List.range 16, ptr := 0, bankErr := 0,
    lastCommit := none, resetDue := false }

/-- R64: STATE of GAL_CTL. -/
inductive GalState where
  | off | fill | run | fenced
  deriving DecidableEq, Repr

/-- A gallery of the hall. -/
structure Gallery where
  /-- GAL_CTL.STATE, 2 bits -/
  st : GalState
  /-- GAL_CTL.PARTITION, voted, 5 bits -/
  part : Voted 5
  /-- GAL_CTL.CORE_FENCE, voted, 12 bits -/
  fence : Voted 12
  /-- GAL_STATUS.REJOIN_PENDING, 12 bits -/
  rejoin : BitVec 12
  /-- R58: the gallery itself is fenced (its store reset or fewer than 6 cores unfenced) -/
  galFence : Bool
  /-- GAL_STRIKES: 12 counts of 2 bits -/
  strikes : List Nat
  /-- R60: sweeps since the fence, per core -/
  clean : List Nat
  /-- R531: cores whose reset runs; bit c -/
  resetting : BitVec 12
  /-- R531: the gallery's reset runs -/
  galResetting : Bool
  /-- 6 MB gallery store -/
  store : Store
  /-- R536: write-before-read mode (COMPAT MODE 1) -/
  wbr : Bool
  /-- R61: takes work only from the next sweep boundary -/
  added : Bool
  /-- R62: fenced at the boundary whose work is due -/
  fenceDue : Bool
  /-- GAL_FRAME_AREA.BLOCKS, 8 bits -/
  areaReq : Nat
  /-- GAL_FRAME_AREA.IN_FORCE, 8 bits -/
  area : Nat
  /-- R335: SIZE code of the pieces of each frame-area block that holds one: block number (from the top), size code -/
  blocks : List (Nat × Nat)
  /-- R323: while a growth waits, the blocks that take frames -/
  areaOld : Nat
  /-- R323: the commands that a growth waits for: serial and kills at the boundary -/
  areaWait : List (Nat × Nat)
  /-- R323: a shrink runs down to this size -/
  shrinkTo : Option Nat
  /-- GAL_ARRAY and GAL_REC_COUNTS.FORCED_KILLS -/
  forcedKills : Nat
  /-- GAL_REC_COUNTS.PIN_WAITS -/
  pinWaits : Nat
  /-- GAL_VIS_COUNTS.HALO_HOLDS -/
  haloHolds : Nat
  /-- GAL_VIS_COUNTS.NO_PEER -/
  noPeer : Nat
  /-- GAL_CTX_COUNTS.SWAP_OUTS -/
  swapOuts : Nat
  /-- GAL_CTX_COUNTS.SWAP_STALLS -/
  swapStalls : Nat
  /-- GAL_KILL_COUNTS.PREEMPT -/
  preempt : Nat
  /-- GAL_KILL_COUNTS.OTHER -/
  otherKills : Nat
  /-- R28: bank arbiter pointer, core 0 to 11 -/
  ptr : Nat
  deriving DecidableEq, Repr

/-- A gallery after hall reset. -/
def Gallery.reset : Gallery :=
  { st := .off, part := Voted.all 0x1F, fence := Voted.all 0, rejoin := 0, galFence := false,
    strikes := List.replicate 12 0, clean := List.replicate 12 0, resetting := 0, galResetting := false,
    store := Store.zero, wbr := false, added := false, fenceDue := false, areaReq := 0, area := 0, blocks := [], areaOld := 0, areaWait := [], shrinkTo := none,
    forcedKills := 0, pinWaits := 0, haloHolds := 0, noPeer := 0, swapOuts := 0, swapStalls := 0, preempt := 0,
    otherKills := 0, ptr := 0 }

end Sys2Proof.Machine
end

