-- ==== Sys2Proof/Machine/StateUnits.lean ====
section
/-! DEFINITION. The state of a hall's units: timebase and schedule, Stair end, memory controller and page tables,
counters, integrity, power, receive ports, ISP and sensor buses. -/

namespace Sys2Proof.Machine

/-- SWP_STATUS.LOCK (R97 to R119). -/
inductive Lock where
  | unlocked | locked | stretch | holdover | generator
  deriving DecidableEq, Repr

/-- R111 to R113: a slot's run in the current sweep. -/
structure SlotRun where
  part : Nat
  /-- the table in force at its issue -/
  table : Nat
  slot : Nat
  /-- the slot's class -/
  cls : Nat
  /-- sweep of the issue (or of the awaited issue) -/
  sweep : Nat
  /-- it has issued -/
  issued : Bool
  /-- data-complete tick and its sweep -/
  dataTick : Nat
  dataSweep : Nat
  /-- deadline D in timebase cycles -/
  deadline : Nat
  /-- E in ticks -/
  eTick : Nat
  /-- R118: switched to its fallback -/
  fallback : Bool
  /-- R112: issued by a late trigger, under the deadline monitor -/
  late : Bool
  /-- the partition ran under the monitor at issue -/
  monitored : Bool
  /-- R113: a miss has been recorded -/
  missed : Bool
  /-- the last command has committed -/
  done : Bool
  /-- R112, R113: cancelled for the sweep -/
  cancelled : Bool
  /-- R113: waits for the previous stream to end -/
  waiting : Bool
  /-- commands of the issue that have committed -/
  committed : Nat
  /-- R478: its RESULT record waits for WITHHOLD verdicts -/
  withheld : Bool
  /-- RSEQ of its RESULT record once emitted -/
  rseq : Option Nat
  deriving DecidableEq, Repr

/-- R121: what this hall knows of a mark in a sweep. -/
structure MarkRun where
  part : Nat
  mark : Nat
  sweep : Nat
  /-- this hall's committed copy -/
  own : Option (List Byte)
  /-- far fragments received: index and data -/
  far : List (Nat × List Byte)
  /-- LAST has arrived -/
  farDone : Bool
  /-- 0 none, 1 MATCH, 2 DIVERGED, 3 MISSING -/
  verdict : Nat
  deriving DecidableEq, Repr

/-- SWP_PART_p and what the steward keeps of a partition (R82, R117, R123). -/
structure PartState where
  /-- SWP_PART_p.TABLE, voted, 16 bits -/
  table : Voted 16
  /-- SWP_PART_p.MONITOR, 7 bits -/
  monitor : BitVec 7
  /-- SWP_PART_p.CONSEC_DIVERGE, 8 bits -/
  consec : Nat
  /-- working galleries at the previous boundary -/
  lastCount : Nat
  /-- a mark of the current sweep was DIVERGED or MISSING -/
  diverged : Bool
  deriving DecidableEq, Repr

/-- SWP_PART_p at reset. -/
def PartState.reset : PartState :=
  { table := Voted.all 0xFFFF, monitor := 1, consec := 0, lastCount := 0, diverged := false }

/-- The SWP block and the schedule. -/
structure Sweep where
  /-- SWP_CTL.MONITOR_REQ, 16 bits (03, R124); reset 0x0000 -/
  monitorReq : BitVec 16
  /-- SWP_STATUS.LOCK, 3 bits (03); reset 0 -/
  lock : Lock
  /-- SWP_STATUS.HOLDOVER_LEFT, 4 bits (03); reset 0 -/
  holdLeft : Nat
  /-- SWP_STATUS.SHORT (03); reset 0 -/
  short : Bool
  /-- SWP_STATUS.SKEW (03, R100); reset 0 -/
  skew : Bool
  /-- SWP_STATUS.FOLLOWER (03); reset 0 -/
  follower : Bool
  /-- SWP_SWEEP, 32 bits (03); reset 0 -/
  sweep : Nat
  /-- SWP_TICK, 12 bits (03); reset 0 -/
  tick : Nat
  /-- SWP_PERIOD, Pv in 10 ns cycles, 32 bits (03); reset 0 -/
  pv : Nat
  /-- SWP_REF_COUNTS.LATE, 16 bits (03); reset 0 -/
  refLate : Nat
  /-- SWP_REF_COUNTS.EARLY, 16 bits (03); reset 0 -/
  refEarly : Nat
  /-- SWP_MISS, 32 bits (03); reset 0 -/
  misses : Nat
  /-- SWP_FALLBACK, 32 bits (03); reset 0 -/
  fallbacks : Nat
  /-- SWP_CMP_COUNTS.MISSING, 16 bits (03); reset 0 -/
  cmpMissing : Nat
  /-- SWP_CMP_COUNTS.DIVERGED, 16 bits (03); reset 0 -/
  cmpDiverged : Nat
  /-- SWP_PART_p for p = 0 to 15 (03) -/
  parts : List PartState
  /-- t0, timebase of the sweep's start (R99); reset 0 DESIGN CHOICE 2 -/
  t0 : Nat
  /-- timebase of the last accepted reference; reset none DESIGN CHOICE 2 -/
  lastRef : Option Nat
  /-- R620: the hall waits for the reference; reset false -/
  waiting : Bool
  /-- R620: sweep 0 has started since the hall reset (STARTED of R41); reset false -/
  started : Bool
  /-- R542: a table has been chosen since the hall reset; reset false -/
  tableChosen : Bool
  /-- R104: tick 0's work is due at the next tick boundary; reset false DESIGN CHOICE 2 -/
  boundaryDue : Bool
  /-- R103: consecutive valid references in HOLDOVER or GENERATOR; reset 0 -/
  relock : Nat
  /-- R103: the next reference starts the sweep that relocks; reset false -/
  relockReady : Bool
  /-- R100: consecutive BEATs with a difference above 2; reset 0 -/
  skewBeats : Nat
  /-- R100: the follower's own timing is lost; reset false -/
  timingLost : Bool
  /-- R100: consecutive sweeps whose own reference stayed within 2 ticks; reset 0 -/
  followGood : Nat
  /-- R100: own tick count while its timing is lost: its own reference's timebase in this sweep -/
  ownRef : Option Nat
  /-- R119: a valid P has been measured since hall reset; reset false -/
  validP : Bool
  /-- R99: sweep boundaries' slot runs; reset empty -/
  runs : List SlotRun
  /-- events that arrived in this sweep: event, tick, sweep (R112); reset empty -/
  triggers : List (Nat × Nat × Nat)
  /-- R121: marks; reset empty -/
  marks : List MarkRun
  /-- R542: sweep of the latest class-0 miss; reset none -/
  lastMiss : Option Nat
  /-- R546: warming sweeps left; reset 0 -/
  warming : Nat
  /-- R546: this hall is the re-admitted one; reset false -/
  readmitted : Bool
  /-- R545: both stewards confirmed re-admission; reset false -/
  readmitOk : Bool
  /-- R101: FSYNC_OUT pulses in progress (Hall A), bit n; reset 0 -/
  pulse : BitVec 4
  /-- R101: end time of the pulse of output n in timebase cycles; reset 0 -/
  pulseEnd : List Nat
  /-- R99, R119: the period that the current sweep's ticks divide; reset 0 DESIGN CHOICE 2 -/
  per : Nat
  /-- R100: the next BEAT may renumber the first sweep; reset false -/
  renumber : Bool
  /-- R100 step 4: an own reference within 2 ticks re-anchors the sweep just begun; reset false -/
  reanchor : Bool
  /-- R100: the ticks of the sweep whose slot starts have been issued are those below this one; reset 0 DESIGN CHOICE 2 -/
  begun : Nat
  /-- R113, R118: a timebase instant and the array cycle that falls on it; the model's own field, reset (0, 0) DESIGN CHOICE 302 -/
  clk : Nat × Nat
  /-- R96: the sweep before this one: its number, the image in force in it, and each partition's table; reset none DESIGN CHOICE 2 -/
  past : Nat × Option Image × List (Nat × Nat)
  deriving DecidableEq, Repr

/-- The SWP block after hall reset. -/
def Sweep.reset : Sweep :=
  { monitorReq := 0, lock := .unlocked, holdLeft := 0, short := false, skew := false, follower := false, sweep := 0,
    tick := 0, pv := 0, refLate := 0, refEarly := 0, misses := 0, fallbacks := 0, cmpMissing := 0, cmpDiverged := 0,
    parts := List.replicate 16 PartState.reset, t0 := 0, lastRef := none, waiting := false, started := false,
    tableChosen := false, boundaryDue := false, relock := 0, relockReady := false, skewBeats := 0, timingLost := false, followGood := 0,
    ownRef := none, validP := false, runs := [], triggers := [], marks := [], lastMiss := none, warming := 0,
    readmitted := false, readmitOk := false, pulse := 0, pulseEnd := List.replicate 4 0, per := 0, renumber := false,
    reanchor := false, begun := 0, clk := (0, 0), past := (0, none, []) }

/-- R56: STAIR_STATUS.MODE. -/
inductive Mode where
  | single | split | paired | partnerLost
  deriving DecidableEq, Repr

/-- A hall's end of the Stair. -/
structure Stair where
  /-- STAIR_CTL.BEAT_MISS_LIMIT, 4 bits (01, R49); reset 4 (image) -/
  missLimit : BitVec 4
  /-- STAIR_CTL.BEAT_PERIOD, 8 bits (01, R49); reset 10 (image) -/
  beatPeriod : BitVec 8
  /-- STAIR_CTL.ENABLE (01); reset 0 (image) -/
  enable : Bool
  /-- STAIR_STATUS.MODE, 2 bits (01, R56); reset 0 -/
  mode : Mode
  /-- STAIR_STATUS.LANES_RX, 6 bits (01, R50); reset 0 -/
  lanesRx : Nat
  /-- STAIR_STATUS.LANES_TX, 6 bits (01, R50); reset 0 -/
  lanesTx : Nat
  /-- STAIR_STATUS.PARTNER_ALIVE (01, R49); reset 0 -/
  alive : Bool
  /-- STAIR_STATUS.TRAINED (01, R51); reset 0 -/
  trained : Bool
  /-- STAIR_LANE_GOOD, 32 bits (01, R50); reset 0 -/
  laneGood : BitVec 32
  /-- STAIR_FLIT_CORR, 32 bits (01); reset 0 -/
  flitCorr : Nat
  /-- STAIR_DISCARD, 16 bits (01, R43); reset 0 -/
  discards : Nat
  /-- next SEQ of each kind sent, 16 bits (R40); reset 0 -/
  seq : List Nat
  /-- messages sent and not yet taken out of the far pool (R42, R45, R46), oldest first; reset empty -/
  outbox : List StairMsg
  /-- R46: messages released to the Stair that wait for credits or for traffic to be permitted, oldest first; SEQ not yet given; reset empty -/
  waits : List StairMsg
  /-- R46, R47: messages of which some flits have been sent, at most one of a kind, with the count of those flits; reset empty -/
  begun : List (StairMsg × Nat)
  /-- R44: MOVE messages not yet visible, oldest first; reset empty -/
  moves : List StairMsg
  /-- R45: AFTER_MOVE signals waiting, each with the SEQ of the last MOVE that it follows; reset empty -/
  syncs : List (StairMsg × Nat)
  /-- R41: CONTROL payload being joined: opcode, total, bytes; reset none -/
  control : Option (Nat × Nat × List Byte)
  /-- last BEAT: sweep, tick, Pv, lock, started; reset none -/
  beat : Option (Nat × Nat × Nat × Nat × Bool)
  /-- R49: the partner has been lost and not re-admitted; reset false -/
  lost : Bool
  /-- R51: retraining is due at the next sweep boundary; reset false -/
  retrain : Bool
  /-- R87: Hall B has reported acceptance; reset false -/
  farAccepted : Bool
  /-- R47: arbiter pointer over kinds BEAT, CONTROL, SYNC, COMPARE, MOVE; reset 0 -/
  ptr : Nat
  /-- R545: the other hall's active image digest as last exchanged; reset empty -/
  farDigest : List Byte
  /-- CONTROL payloads handed to the Stair and not yet received, oldest first (R41, R46); reset empty -/
  ctlOut : List ControlMsg
  /-- R41, R46: CONTROL messages that wait in the steward, oldest first; reset empty -/
  ctlWaits : List StairMsg
  /-- R41, R46: CONTROL messages sent and not yet taken out of the far pool, oldest first; reset empty -/
  ctlSent : List StairMsg
  /-- R378: how many untaken landings this end has last reported to the Vestibule; reset 0 -/
  landTold : Nat
  /-- R46: CONTROL flits that may still be sent before the next BEAT while the budget applies; reset 40 DESIGN CHOICE 2 -/
  ctlBudget : Nat
  deriving DecidableEq, Repr

/-- The Stair end after hall reset. -/
def Stair.reset : Stair :=
  { missLimit := 4, beatPeriod := 10, enable := false, mode := .single, lanesRx := 0, lanesTx := 0, alive := false,
    trained := false, laneGood := 0, flitCorr := 0, discards := 0, seq := List.replicate 5 0, outbox := [], waits := [], begun := [], moves := [],
    syncs := [], control := none, beat := none, lost := false, retrain := false, farAccepted := false, ptr := 0,
    farDigest := [], ctlOut := [], ctlWaits := [], ctlSent := [], landTold := 0, ctlBudget := 40 }

/-- The MEM block, the page-frame table and the caches of a hall. -/
structure Mem where
  /-- MEM_CHAN.CHAN_GOOD, 32 bits (10, R331); reset 0 -/
  chanGood : BitVec 32
  /-- MEM_CFG.RATE, 4 bits (10, R330); reset 0 -/
  rate : Nat
  /-- MEM_CFG.DENSITY, 4 bits (10); reset 0 -/
  density : Nat
  /-- MEM_CFG.RANKS, 2 bits (10); reset 0 -/
  ranks : Nat
  /-- R331: training has ended; reset false -/
  trained : Bool
  /-- R535: the DRAM fill has ended; reset false -/
  filled : Bool
  /-- R332: the channels are in self-refresh; reset false -/
  selfRefresh : Bool
  /-- hall DRAM as programs read it: bytes written since they last became unreadable; reset empty -/
  dram : Memory
  /-- R535, R509: number of times the unwritten contents were lost; reset 0 -/
  dramGen : Nat
  /-- R515: ranges of hall DRAM, first byte and length, made unreadable since then, oldest first; reset empty -/
  dramLost : List (Nat × Nat)
  /-- MEM_FRAMES.TOTAL: F of R324, 19 bits; reset 0 (image) -/
  total : Nat
  /-- R336: next frame never taken from the initial list 0 to F - 1; reset 0 -/
  culletNext : Nat
  /-- R336: released frames, oldest first; reset empty -/
  culletTail : List Nat
  /-- page-frame table: entries not CULLET, by number, rising (R334); reset empty -/
  frames : List (Nat × Frame)
  /-- R189: caches, by number; reset empty -/
  caches : List Cache
  /-- R204: the deferred list; reset empty -/
  deferred : List Deferred
  /-- MEM_MOVES.UP, 16 bits (10, R342); reset 0 -/
  movesUp : Nat
  /-- MEM_MOVES.DOWN, 16 bits; reset 0 -/
  movesDown : Nat
  /-- MEM_MOVE_EVENTS.CANCELLED, 16 bits (R342); reset 0 -/
  cancelled : Nat
  /-- MEM_MOVE_EVENTS.PRESSURE, 16 bits (R342); reset 0 -/
  pressure : Nat
  /-- MEM_MISC_COUNTS.PARTIAL_LINES, 16 bits (R326); reset 0 -/
  partials : Nat
  /-- MEM_MISC_COUNTS.MR4_HOT, 8 bits (R333); reset 0 -/
  mr4Hot : Nat
  /-- R570: channels whose latest MR4 code is the highest; reset 0 DESIGN CHOICE 2 -/
  hotChannels : BitVec 32
  /-- MEM_MISC_COUNTS.SYNC_SATURATE, 8 bits (R349); reset 0 -/
  syncSat : Nat
  /-- MEM_KV_WAITS.LOCK_WAITS, 16 bits (06, R203); reset 0 -/
  lockWaits : Nat
  /-- MEM_KV_WAITS.SLOT_WAITS, 16 bits (06, R202); reset 0 -/
  slotWaits : Nat
  /-- MEM_KV_FAULTS.POSITION, 16 bits (06); reset 0 -/
  kvPosition : Nat
  /-- MEM_KV_FAULTS.MISMATCH, 16 bits (06, R214); reset 0 -/
  kvMismatch : Nat
  /-- sync cells that are not 0: index and 32-bit value, rising (R348, R349); reset empty -/
  cells : List (Nat × Nat)
  /-- R352: signals and SETs on their way to hall cells: cell, count or value, true for SET; reset empty -/
  cellQueue : List (Nat × Nat × Bool)
  /-- R331: DQS tracking passes; reset 0 -/
  tracked : Nat
  /-- R329: memory controller pointers, source stop 0 to 15; reset 0 -/
  mcPtr : List Nat
  /-- R33: Corridor stop output pointers; reset 0 -/
  stopPtr : List Nat
  /-- R203: lock-grant pointer over the hall's cores; reset 0 -/
  lockPtr : Nat
  /-- R351: TAKE pointer over the hall's cores; reset 0 -/
  takePtr : Nat
  deriving DecidableEq, Repr

/-- The MEM block after hall reset. -/
def Mem.reset : Mem :=
  { chanGood := 0, rate := 0, density := 0, ranks := 0, trained := false, filled := false, selfRefresh := false,
    dram := ⟨[]⟩, dramGen := 0, dramLost := [], total := 0, culletNext := 0, culletTail := [], frames := [], caches := [],
    deferred := [], movesUp := 0, movesDown := 0, cancelled := 0, pressure := 0, partials := 0, mr4Hot := 0,
    hotChannels := 0, syncSat := 0, lockWaits := 0, slotWaits := 0, kvPosition := 0, kvMismatch := 0, cells := [],
    cellQueue := [], tracked := 0, mcPtr := List.replicate 4 0, stopPtr := List.replicate 16 0,
    lockPtr := 0, takePtr := 0 }

/-- R585: a sampler. -/
structure Sampler where
  /-- EN -/
  en : Bool
  /-- P, 6 bits -/
  p : Nat
  /-- COUNTER, 11 bits -/
  counter : Nat
  /-- R586: a wrap waits for the core's next commit point: sweep and tick of the wrap -/
  wrap : Option (Nat × Nat)
  deriving DecidableEq, Repr

/-- R587: a sample. -/
structure Sample where
  sampler : Nat
  idle : Bool
  core : Nat
  ctx : Nat
  opcode : Nat
  seq : Nat
  sweep : Nat
  tick : Nat
  deriving DecidableEq, Repr

/-- The CNT block. -/
structure Cnt where
  /-- live counters that are not 0: number and 48-bit value, rising (18, R575); reset 0 -/
  live : List (Nat × Nat)
  /-- R577: remainders of the events counted in K, below 1,024; reset 0 -/
  rem : List (Nat × Nat)
  /-- R582: snapshot values that are not 0; reset 0 -/
  snap : List (Nat × Nat)
  /-- CNT_SNAP_SWEEP, 32 bits; reset 0 -/
  snapSweep : Nat
  /-- CNT_SNAP_TICK, 12 bits; reset 0 -/
  snapTick : Nat
  /-- R582: sweep-bank values that are not 0; reset 0 -/
  bank : List (Nat × Nat)
  /-- CNT_CHAIN_w: chained counter numbers, rising (R580); reset empty -/
  chain : List Nat
  /-- CNT_THRESH_t.N that are not 0: t and N, 16 bits (R579); reset 0 -/
  thresh : List (Nat × Nat)
  /-- CNT_SAMPLER_k, k = 0 to 7 (R585); reset 0 -/
  samplers : List Sampler
  /-- the sample buffer, at most 64 (R587); reset empty -/
  samples : List Sample
  /-- CNT_SAMPLE_STATUS.LOST, 8 bits; reset 0 -/
  lost : Nat
  /-- R583: each local port's latched HI: window, counter, bits [47:32]; reset none -/
  latch : List (Option (Nat × Nat × Nat))
  deriving DecidableEq, Repr

/-- The CNT block after hall reset. -/
def Cnt.reset : Cnt :=
  { live := [], rem := [], snap := [], snapSweep := 0, snapTick := 0, bank := [], chain := [], thresh := [],
    samplers := List.replicate 8 ⟨false, 0, 0, none⟩, samples := [], lost := 0, latch := [none, none] }

/-- R527: an entry of the correctable-error log. -/
structure CeEntry where
  valid : Bool
  place : Nat
  unit : Nat
  count : Nat
  symbol : Nat
  addr : Nat
  firstSweep : Nat
  lastSweep : Nat
  deriving DecidableEq, Repr

/-- R539: a pass queued or running. -/
structure Pass where
  place : Nat
  unit : Nat
  base : Nat
  len : Nat
  /-- asked for by a host through ERR_PASS_CTL -/
  host : Bool
  deriving DecidableEq, Repr

/-- The ERR block. -/
structure Err where
  /-- ERR_FAULT_CAUSE.PIN: FAULT_x_N is asserted (16, R541); reset 1 -/
  pin : Bool
  /-- ERR_FAULT_MASK.MASK, 3 bits (16); reset 0 -/
  mask : BitVec 3
  /-- ERR_RESET.LAST_CAUSE, 8 bits (16); reset: the cause -/
  lastCause : Nat
  /-- ERR_CE_COUNT_k, 32 bits each (R526); reset 0 -/
  ce : List Nat
  /-- ERR_UE_COUNTS: places 0, 1, 2, 3, 4, 6, 8 bits each; reset 0 -/
  ue : List (Nat × Nat)
  /-- ERR_UE_COUNTS_1.POISON_READS, 8 bits; reset 0 -/
  poisonReads : Nat
  /-- ERR_UE_COUNTS_1.UNWRITTEN_READS, 8 bits; reset 0 -/
  unwrittenReads : Nat
  /-- ERR_SCRUB_CTL.ENABLE; reset 1 -/
  scrubEn : Bool
  /-- ERR_SCRUB_CTL.DRAM_RATE, 8 bits; reset 1 -/
  dramRate : BitVec 8
  /-- ERR_SCRUB_CTL.SRAM_RATE, 8 bits; reset 16 -/
  sramRate : BitVec 8
  /-- ERR_SCRUB_STATUS.MODE: 0 OFF, 1 WALKER, 2 PASSES (R537); reset 0 -/
  scrubMode : Nat
  /-- ERR_SCRUB_STATUS.ROUNDS, 16 bits (R538); reset 0 -/
  rounds : Nat
  /-- R538: the walker's place in its SRAM round, in words; reset 0 DESIGN CHOICE 2 -/
  walk : Nat
  /-- ERR_CE_CTL.LOST, 8 bits (R527); reset 0 -/
  ceLost : Nat
  /-- ERR_CE_LOG, 32 entries (R527); reset all zero -/
  ceLog : List CeEntry
  /-- ERR_PASS_CTL.GO; reset 0 -/
  passGo : Bool
  /-- ERR_PASS_CTL.PLACE, 4 bits; reset 0 -/
  passPlace : Nat
  /-- ERR_PASS_CTL.UNIT, 8 bits; reset 0 -/
  passUnit : Nat
  /-- ERR_PASS_BASE, 32 bits; reset 0 -/
  passBase : Nat
  /-- ERR_PASS_LEN, 17 bits; reset 0 -/
  passLen : Nat
  /-- R539: passes queued, the running one first; reset empty -/
  passes : List Pass
  /-- ERR_PASS_CTL.BUSY: the first of `passes` runs; reset 0 -/
  passBusy : Bool
  /-- ERR_PASS_SUMMARY_0.READ, 32 bits; reset 0 -/
  sumRead : Nat
  /-- ERR_PASS_SUMMARY_1.CORRECTED, 16 bits; reset 0 -/
  sumCorr : Nat
  /-- ERR_PASS_SUMMARY_1.MARKED, 8 bits; reset 0 -/
  sumMark : Nat
  /-- ERR_PASS_SUMMARY_1.CUT; reset 0 -/
  sumCut : Bool
  deriving DecidableEq, Repr

/-- The ERR block after a hall reset of cause `c`. -/
def Err.reset (c : Nat) : Err :=
  { pin := true, mask := 0, lastCause := c, ce := List.replicate 9 0,
    ue := [], poisonReads := 0, unwrittenReads := 0, scrubEn := true, dramRate := 1, sramRate := 16, scrubMode := 0,
    rounds := 0, walk := 0, ceLost := 0, ceLog := List.replicate 32 ⟨false, 0, 0, 0, 0, 0, 0, 0⟩, passGo := false,
    passPlace := 0, passUnit := 0, passBase := 0, passLen := 0, passes := [], passBusy := false, sumRead := 0,
    sumCorr := 0, sumMark := 0, sumCut := false }

/-- R551: state of a hall's own domain. -/
inductive HallPower where
  | retention | reduced | on
  deriving DecidableEq, Repr

/-- A hall's part of the PWR block. -/
structure Pwr where
  /-- power enables, voted, 8 bits; PWR_STATUS.GAL_ON shows them (17, R598); reset 0x00 -/
  galOn : Voted 8
  /-- PWR_STATUS.OP, 2 bits; reset 0 -/
  op : Nat
  /-- PWR_STATUS.OP_REQ, 2 bits; reset 0 -/
  opReq : Nat
  /-- PWR_STATUS.HALL, 2 bits; reset 0 -/
  hall : HallPower
  /-- PWR_STATUS.ENTRY; reset 0 -/
  entry : Bool
  /-- PWR_CTL.DRIVE_HOLD; reset 1 (image) -/
  driveHold : Bool
  /-- PWR_REQ_i.VALID and CONFIG; reset 0 (image) -/
  reqs : List (Bool × Nat)
  /-- PWR_REFUSALS.ABORTED, 8 bits; reset 0 -/
  aborted : Nat
  /-- PWR_REFUSALS.NO_SWAP_FRAME, 8 bits; reset 0 -/
  noSwap : Nat
  /-- PWR_REFUSALS.DRIVE_HOLD, 8 bits; reset 0 -/
  holdRefusals : Nat
  /-- PWR_REFUSALS.VST_DETECTOR, 8 bits; reset 0 -/
  vstRefusals : Nat
  /-- PWR_LAST_REFUSAL: TO_STATE, REASON, REFUSER; reset 0 -/
  lastRefusal : Nat × Nat × Nat
  /-- PWR_THERM.TRIP; reset 0 -/
  trip : Bool
  /-- PWR_THERM.CAP, 2 bits (R570); reset 3 -/
  cap : Nat
  /-- PWR_THERM.TEMP, 8 bits two's complement; reset 0 -/
  temp : Int
  /-- R569: a voltage ramp to this point runs; reset none -/
  ramp : Option Nat
  /-- R569: the clocks switch to this point at the next tick boundary; reset none -/
  opSwitch : Option Nat
  /-- R558: galleries still to be drained for the lowering in progress, bit g; reset 0 -/
  drains : BitVec 8
  /-- R558: the hall leaves HALL or PAIR and starts no transmit frame; reset false -/
  txStop : Bool
  deriving DecidableEq, Repr

/-- A hall's PWR registers after its reset. -/
def Pwr.reset : Pwr :=
  { galOn := Voted.all 0, op := 0, opReq := 0, hall := .retention, entry := false, driveHold := true,
    reqs := [(false, 0), (false, 0)], aborted := 0, noSwap := 0, holdRefusals := 0, vstRefusals := 0,
    lastRefusal := (0, 0, 0), trip := false, cap := 3, temp := 0, ramp := none, opSwitch := none, drains := 0, txStop := false }

/-- R416, R432: a frame being received or processed. -/
structure RxFrame where
  /-- FRAME number of R416 -/
  frame : Nat
  /-- lines received so far, each WIDTH pixels -/
  lines : List (List Nat)
  /-- FLAGS of R432 -/
  flags : Nat
  /-- frame-start stamp: sweep and tick -/
  fsSweep : Nat
  fsTick : Nat
  /-- embedded data, at most 64 bytes -/
  emb : List Byte
  /-- time of the frame start in µs -/
  us : Nat
  /-- SEQ of the settings in force -/
  setSeq : Nat
  /-- the frame has closed -/
  closed : Bool
  /-- outputs written: false where R433 dropped it -/
  out0 : Bool
  out1 : Bool
  /-- pieces the ISP has completed -/
  pieces : Nat
  /-- parameter bank in force: the default set or its bytes -/
  params : Option (List Byte)
  /-- a fault of this frame already logged, as bits of FLAGS -/
  logged : Nat
  /-- a timed settings record was taken in this frame -/
  tookTimed : Bool
  deriving DecidableEq, Repr

/-- R437: a settings record taken. -/
structure SetRec where
  /-- SEQ -/
  seq : Nat
  /-- writes: register, width, value -/
  writes : List (Nat × Nat × Nat)
  /-- writes still to send -/
  left : Nat
  /-- the write now on the bus was already refused once -/
  retried : Bool
  /-- sending has begun -/
  begun : Bool
  /-- every write was acknowledged -/
  sent : Bool
  /-- timed record: the frame it applies to -/
  target : Option Nat
  /-- R440: abandoned or late -/
  failed : Bool
  /-- R437: it carries a parameter set -/
  hasParam : Bool
  /-- R422: it is a degrade record -/
  degrade : Bool
  deriving DecidableEq, Repr

/-- A camera's receive state (R416 to R419) with its settings sequencer (R437 to R441). -/
structure Camera where
  /-- CAMERA entry ID -/
  id : Nat
  /-- FRAME, 32 bits (R416) -/
  frame : Nat
  /-- previous packet's frame number -/
  lastNum : Nat
  /-- µs of the last accepted frame start -/
  lastUs : Option Nat
  /-- the open frame -/
  cur : Option RxFrame
  /-- R417: the frame in progress was dropped as too early -/
  dropping : Bool
  /-- records taken since image load -/
  taken : Nat
  /-- records whose writes or effect are pending, oldest first -/
  recs : List SetRec
  /-- SEQ in force -/
  setSeq : Nat
  deriving DecidableEq, Repr

/-- A CSI-2 receive port. -/
structure RxPort where
  /-- CSI_RX_STATUS_p.LANE_BAD, 4 bits (13, R421); reset 0 -/
  laneBad : BitVec 4
  /-- WIDTH, 3 bits; reset 0 -/
  width : Nat
  /-- DEGRADED; reset 0 -/
  degraded : Bool
  /-- CPHY; reset 0 (image) -/
  cphy : Bool
  /-- ACTIVE; reset 0 -/
  active : Bool
  /-- R444: the model's own: the tick start at or before the last packet of a declared virtual channel; reset 0 DESIGN CHOICE 307 -/
  activeTb : Nat
  /-- HDR_CORR, 8 bits; reset 0 -/
  hdrCorr : Nat
  /-- HDR_UNCORR, 8 bits; reset 0 -/
  hdrUncorr : Nat
  /-- CRC, 16 bits; reset 0 -/
  crc : Nat
  /-- UNKNOWN_DT, 8 bits; reset 0 -/
  unknownDt : Nat
  /-- BAD_VC, 8 bits; reset 0 -/
  badVc : Nat
  /-- ORPHAN, 16 bits; reset 0 -/
  orphan : Nat
  /-- LINE_LEN, 8 bits; reset 0 -/
  lineLen : Nat
  /-- FRAME_LEN, 8 bits; reset 0 -/
  frameLen : Nat
  /-- TIMEOUT, 8 bits; reset 0 -/
  timeout : Nat
  /-- LATE, 4 bits; reset 0 -/
  late : Nat
  /-- EARLY, 4 bits; reset 0 -/
  early : Nat
  /-- SOT_ERR of physical lanes 0 to 3, 8 bits each; reset 0 -/
  sot : List Nat
  /-- R421: sync errors of each lane in the current frame and in the one before; reset 0 DESIGN CHOICE 2 -/
  sotCur : List Nat
  sotPrev : List Nat
  /-- R422: frames are accepted; reset true -/
  accepting : Bool
  /-- R422: narrowings made; reset 0 -/
  narrowings : Nat
  /-- R422: degrade writes are awaited; reset false -/
  narrowing : Bool
  /-- R422: a lane in use is bad, and the port narrows at the next frame close; reset false -/
  narrowDue : Bool
  /-- virtual channels of host feeds with a frame open; reset empty -/
  feedOpen : List Nat
  deriving DecidableEq, Repr

/-- A receive port after hall reset. -/
def RxPort.reset : RxPort :=
  { laneBad := 0, width := 0, degraded := false, cphy := false, active := false, activeTb := 0, hdrCorr := 0, hdrUncorr := 0, crc := 0,
    unknownDt := 0, badVc := 0, orphan := 0, lineLen := 0, frameLen := 0, timeout := 0, late := 0, early := 0,
    sot := [0, 0, 0, 0], sotCur := [0, 0, 0, 0], sotPrev := [0, 0, 0, 0], accepting := true, narrowings := 0,
    narrowing := false, narrowDue := false, feedOpen := [] }

/-- An ISP context (R423, R426, R439). -/
structure IspCtx where
  /-- ISP_CTX_n.DROP_FULL, 16 bits; reset 0 -/
  dropFull : Nat
  /-- LB_OVERFLOW, 8 bits; reset 0 -/
  lbOverflow : Nat
  /-- PARAM_LATE, 8 bits; reset 0 -/
  paramLate : Nat
  /-- active parameter bank, 8,192 bytes; none for the default set of R430 -/
  active : Option (List Byte)
  /-- shadow bank -/
  shadow : Option (List Byte)
  /-- the copy into the shadow bank has completed -/
  shadowOk : Bool
  /-- a swap waits for a frame start -/
  swapDue : Bool
  /-- frames whose pieces the ISP has not finished, oldest first -/
  frames : List RxFrame
  deriving DecidableEq, Repr

/-- The ISP, SNS and CSI_RX state of a hall. -/
structure Cam where
  /-- CSI_RX ports 0 to 7 (13) -/
  ports : List RxPort
  /-- CSI_RX_PRESENCE.ACCEPTED, 16 bits (Hall A); reset 0 -/
  presAccepted : Nat
  /-- CSI_RX_PRESENCE.DISCARDED, 16 bits (Hall A); reset 0 -/
  presDiscarded : Nat
  /-- cameras of the image (R416); reset empty -/
  cameras : List Camera
  /-- ISP contexts 0 to 31 -/
  ctxs : List IspCtx
  /-- R426: the piece in progress: context; reset none -/
  piece : Option Nat
  /-- R426: context of the last piece, for the switch count; reset none -/
  lastCtx : Option Nat
  /-- R426: rotating pointer, 0 to 31; reset 0 -/
  ptr : Nat
  /-- busy cycles in the current sweep; reset 0 -/
  busy : Nat
  /-- ISP_STATUS.LOAD, 8 bits; reset 0 -/
  load : Nat
  /-- SNS_CTRL_STATUS_c.NACKS, 16 bits, c = 0 and 1; reset 0 -/
  nacks : List Nat
  /-- SNS_CTRL_STATUS_c.BUS_RESETS, 8 bits; reset 0 -/
  busResets : List Nat
  /-- SNS_CTRL_STATUS_c.FAILED; reset 0 -/
  failed : List Bool
  /-- R436: cameras whose dynamic addressing failed: IDs; reset empty -/
  failedCams : List Nat
  /-- SNS_SET_COUNTS_n.WRITTEN, 16 bits, n = 0 to 31; reset 0 -/
  written : List Nat
  /-- SNS_SET_COUNTS_n.ABANDONED, 8 bits; reset 0 -/
  abandoned : List Nat
  /-- SNS_SET_COUNTS_n.LATE, 8 bits; reset 0 -/
  late : List Nat
  /-- R436: I3C preparation sequences sent on each controller port; reset 0 -/
  prepared : List Nat
  deriving DecidableEq, Repr

/-- The camera units after hall reset. -/
def Cam.reset : Cam :=
  { ports := List.replicate 8 RxPort.reset, presAccepted := 0, presDiscarded := 0, cameras := [],
    ctxs := List.replicate 32 ⟨0, 0, 0, none, none, false, false, []⟩, piece := none, lastCtx := none, ptr := 0,
    busy := 0, load := 0, nacks := [0, 0], busResets := [0, 0], failed := [false, false], failedCams := [],
    written := List.replicate 32 0, abandoned := List.replicate 32 0, late := List.replicate 32 0, prepared := [0, 0] }

end Sys2Proof.Machine
end

