-- ==== Sys2Proof/Machine/StateHost.lean ====
section
/-! DEFINITION. The state of a hall's host side and security, and of the Vestibule: ports, capsules, sessions, streams,
feeds, keys, models, domains; the audio ring, cascade, microphones, TDM and wake pins. -/

namespace Sys2Proof.Machine

/-- R450: a capsule accepted and not started. -/
structure Capsule where
  opcode : Nat
  tag : Nat
  /-- SESSION word, 32 bits -/
  session : Nat
  payload : List Byte
  deriving DecidableEq, Repr

/-- R452, R462, R466, R456: a capsule started whose response is still to come. -/
inductive Wait where
  /-- UNBIND waits for the session's scrub and, where it follows, its domain's release -/
  | scrub (tag session dom : Nat)
  /-- LOADMODEL waits for its part: model and session -/
  | load (tag session model : Nat)
  /-- forwarded under R456: opcode and tag -/
  | far (opcode tag session : Nat)
  deriving DecidableEq, Repr

/-- A response, ready until fully read (R449, R452). -/
structure Response where
  tag : Nat
  bytes : List Byte
  /-- bytes already read -/
  read : Nat
  deriving DecidableEq, Repr

/-- R467: an event held for a port. -/
structure Event where
  /-- mandatory byte -/
  mand : Nat
  /-- context handle, for R468's order -/
  key : Nat
  payload : List Byte
  /-- R467, R468: raised already; it stays held until QUERY EVENTS reads it -/
  raised : Bool
  deriving DecidableEq, Repr

/-- A host port (14). -/
structure Port where
  /-- HST_STATUS_i.DYN_ADDR, 7 bits (R447, R483); reset 0 -/
  dyn : BitVec 7
  /-- ENINT; reset 0 -/
  enint : Bool
  /-- HDR; reset 0 -/
  hdr : Bool
  /-- R447: MWL, MRL and IBI payload size; after port reset 4,112, 4,112 and 31 -/
  mwl : Nat
  mrl : Nat
  ibiSize : Nat
  /-- GETSTATUS bit 5; reset 0 -/
  protoErr : Bool
  /-- R482: the next private-transfer header is not acknowledged; reset false -/
  nackNext : Bool
  /-- R449: bytes of the capsule being joined; reset empty -/
  partialBytes : List Byte
  /-- R454: capsules accepted and not started, oldest first; reset empty -/
  queue : List Capsule
  /-- capsules started and not answered; reset empty -/
  waits : List Wait
  /-- responses not fully read, oldest first; reset empty -/
  resps : List Response
  /-- R468: events held, oldest first; reset empty -/
  events : List Event
  /-- R455: capsules of budget left, in 1/50,000 of a capsule at 100 MHz; reset full DESIGN CHOICE 2 -/
  budget : Nat
  /-- timebase at which the budget was last brought up to date; reset 0 DESIGN CHOICE 2 -/
  budgetTb : Nat
  /-- HST_ERR_i.PARITY, 8 bits; reset 0 -/
  parity : Nat
  /-- HST_ERR_i.CRC, 8 bits; reset 0 -/
  crc : Nat
  /-- HST_ERR_i.MALFORMED, 8 bits; reset 0 -/
  malformed : Nat
  /-- HST_ERR_i.OUT_OF_WINDOW, 8 bits; reset 0 -/
  outWindow : Nat
  /-- HST_FLOW_i.FLOOD_NACKS, 16 bits; reset 0 -/
  floods : Nat
  /-- HST_FLOW_i.IBI_OVERFLOW, 8 bits; reset 0 -/
  ibiLost : Nat
  /-- HST_FLOW_i.PARTNER, 8 bits; reset 0 -/
  partner : Nat
  /-- HST_CAPS_i.ANSWERED, 32 bits; reset 0 -/
  answered : Nat
  /-- R595: blocks (bits 23:16 of the hall offset) whose unlock is armed, rising; reset empty -/
  armed : List Nat
  /-- R493: the challenge, 16 bytes; reset random -/
  challenge : List Byte
  /-- R601: log entries of this port in the current sweep; reset 0 -/
  logged : Nat
  /-- bytes the port last put on the bus for a CCC, a private read or an IBI; none when it did not acknowledge -/
  reply : Option (List Byte)
  deriving DecidableEq, Repr

/-- A host port after hall reset; the challenge is drawn by the reset. -/
def Port.reset : Port :=
  { dyn := 0, enint := false, hdr := false, mwl := 4112, mrl := 4112, ibiSize := 31, protoErr := false, nackNext := false,
    partialBytes := [], queue := [], waits := [], resps := [], events := [], budget := 3200000, budgetTb := 0,
    parity := 0, crc := 0, malformed := 0, outWindow := 0, floods := 0, ibiLost := 0, partner := 0, answered := 0,
    armed := [], challenge := List.replicate 16 0, logged := 0, reply := none }

/-- R470: a feed object being assembled. -/
structure FeedObj where
  port : Nat
  vc : Nat
  kind : Nat
  channel : Nat
  /-- next RSEQ -/
  rseq : Nat
  bytes : List Byte
  deriving DecidableEq, Repr

/-- R461: a bound feed ring. -/
structure FeedRing where
  session : Nat
  feedId : Nat
  channel : Nat
  gallery : Nat
  blocks : Nat
  addr : Nat
  blockBytes : Nat
  cell : Nat
  /-- objects delivered -/
  n : Nat
  deriving DecidableEq, Repr

/-- R474: a result record waiting or being sent. -/
structure Record where
  rkind : Nat
  rflags : Nat
  rseq : Nat
  sweep : Nat
  tick : Nat
  slot : Nat
  part : Nat
  verdict : Nat
  mark : Nat
  judged : Nat
  cls : Nat
  payload : List Byte
  /-- R114, R480: the slot's EMIT_KB; 0 where it states none -/
  emitKb : Nat
  deriving DecidableEq, Repr

/-- R460: a bound stream of the hall. -/
structure TxStream where
  num : Nat
  session : Nat
  part : Nat
  /-- true for RING -/
  ring : Bool
  tx : Nat
  vc : Nat
  dt : Nat
  homeHall : Nat
  /-- stream key handle -/
  key : Nat
  /-- R475: the key that seals its records in this hall -/
  secret : List Byte
  emitBuf : List Nat
  cls : Nat
  gallery : Nat
  blocks : Nat
  ringAddr : Nat
  blockBytes : Nat
  cell : Nat
  freeCell : Nat
  /-- R474: next RSEQ -/
  rseq : Nat
  sent : Nat
  dropped : Nat
  oversize : Nat
  /-- R465: the counts as last refreshed: SENT, DROPPED, OVERSIZE -/
  shown : Nat × Nat × Nat
  /-- R477: blocks taken -/
  k : Nat
  /-- R479: queued records, at most 4, the one being sent first -/
  queue : List Record
  /-- the first record's frame has started: its bytes still to send in packets -/
  sending : Option (List Byte)
  /-- R462: unbound; gone when the record in progress completes -/
  closing : Bool
  deriving DecidableEq, Repr

/-- A CSI-2 transmit port (R473, R479, R483). -/
structure TxPort where
  /-- CSI_TX_CFG_t as stored, 32 bits; reset LANE_MAP 0xE4, others 0 -/
  cfg : BitVec 32
  /-- the configuration in effect (R473); reset as cfg -/
  eff : BitVec 32
  /-- CSI_TX_COUNTS_t.SENT, 16 bits; reset 0 -/
  sent : Nat
  /-- DROPPED, 8 bits; reset 0 -/
  dropped : Nat
  /-- OVERSIZE, 8 bits; reset 0 -/
  oversize : Nat
  /-- stream whose packet is on the wire; reset none -/
  cur : Option Nat
  /-- R479: pointer over virtual channels; reset 0 -/
  ptr : Nat
  /-- payload of the packet last put on the wire; reset empty -/
  wire : List Byte
  /-- R474: frame number that the last frame start carried, 16 bits; reset 0 DESIGN CHOICE 2 -/
  frameNum : Nat
  deriving DecidableEq, Repr

/-- A transmit port after hall reset. -/
def TxPort.reset : TxPort :=
  { cfg := 0x00E40000#32, eff := 0x00E40000#32, sent := 0, dropped := 0, oversize := 0, cur := none, ptr := 0, wire := [], frameNum := 0 }

/-- R459: a session. -/
structure Session where
  num : Nat
  /-- local number of the host port it is bound through, 0 to 3 over the package -/
  port : Nat
  part : Nat
  dom : Nat
  /-- R381: flight of a flight session -/
  flight : Option Nat
  /-- R514: being released -/
  releasing : Bool
  deriving DecidableEq, Repr

/-- R499: a key slot in use. -/
structure KeySlot where
  slot : Nat
  gen : Nat
  /-- 0 model key, 1 stream key -/
  use : Nat
  session : Nat
  model : Nat
  key : List Byte
  /-- R513: bound to a stream -/
  bound : Bool
  deriving DecidableEq, Repr

/-- R496: an ephemeral key held for a report. -/
structure Ephemeral where
  report : Nat
  session : Nat
  nonce : List Byte
  /-- private scalar -/
  priv : Nat
  /-- SHA-384 of the 576-byte report -/
  hash : List Byte
  deriving DecidableEq, Repr

/-- R504: state of a model number in a hall. -/
inductive ModelState where
  | loading | loaded
  deriving DecidableEq, Repr

/-- R500 to R504: a model LOADING or LOADED in the hall. -/
structure Model where
  num : Nat
  dom : Nat
  part : Nat
  st : ModelState
  /-- model-key handle; erased when the model leaves LOADING -/
  key : Nat
  /-- next part expected and PARTS -/
  next : Nat
  parts : Nat
  ivBase : List Byte
  /-- MODEL_DIGEST of the container -/
  digest : List Byte
  /-- plaintext so far, in part and segment order -/
  plain : List Byte
  /-- where its plaintext went: target, gallery, destination, length -/
  segs : List (Nat × Nat × Nat × Nat)
  /-- TARGET 3 segments: logical gallery and 12 descriptors -/
  descs : List (Nat × List (List Byte))
  deriving DecidableEq, Repr

/-- R466, R500: an open LOADMODEL. -/
structure Load where
  port : Nat
  tag : Nat
  session : Nat
  model : Nat
  key : Nat
  /-- 0 host feed, 1 boot flash -/
  source : Nat
  feedId : Nat
  channel : Nat
  total : Nat
  flashOffset : Nat
  /-- the part's bytes once complete -/
  bytes : List Byte
  complete : Bool
  deriving DecidableEq, Repr

/-- R508 to R515: a key domain of the hall. -/
structure Dom where
  num : Nat
  /-- SEC_DOM_BIND_d, voted: VALID in bit 16, PARTS in bits 15 to 0 -/
  bind : Voted 17
  /-- RELEASING -/
  releasing : Bool
  /-- CURRENT epoch slot -/
  current : Nat
  deriving DecidableEq, Repr

/-- R509: a domain's entry in the Vestibule's epoch table. -/
structure Epochs where
  hall : Nat
  dom : Nat
  /-- numbers in slots 0 and 1 -/
  e0 : Option Nat
  e1 : Option Nat
  deriving DecidableEq, Repr

/-- The SEC block and what the steward keeps for tenancy. -/
structure Sec where
  /-- SEC_STATUS.TRNG_OK (15, R490); reset 0 -/
  trngOk : Bool
  /-- sessions of the hall (R459); reset empty -/
  sessions : List Session
  /-- key slots in use (R499); reset empty -/
  keys : List KeySlot
  /-- generations of slots erased at least once: slot and generation; reset 0 -/
  gens : List (Nat × Nat)
  /-- ephemeral keys (R496); reset empty -/
  ephs : List Ephemeral
  /-- R495: next report number; reset 0 -/
  report : Nat
  /-- models LOADING or LOADED; reset empty -/
  models : List Model
  /-- open LOADMODELs; reset empty -/
  loads : List Load
  /-- domains of the hall (R486); reset empty (image) -/
  doms : List Dom
  /-- R511: domains with a sweep queued or running, the running one first; reset empty -/
  sweeps : List Nat
  /-- R511: the running sweep: frames passed over, frames left, extent line reached, pass; reset none -/
  sweepFrames : List Nat
  /-- R511: frames passed over, to be revisited; reset empty -/
  sweepSkipped : List Nat
  /-- R511: extent lines rewritten; SEC_SWEEP_CURSOR shows it; reset 0 -/
  cursor : Nat
  /-- SEC_ROTATE.DOMAIN, 12 bits; reset 0 -/
  rotDomain : Nat
  /-- SEC_ROTATE_STATUS.LAST, 3 bits; reset 0 -/
  rotLast : Nat
  /-- SEC_SWEEP_RATE, 11 bits; reset 256 -/
  rate : BitVec 11
  /-- SEC_COUNTS.BIND_FAIL, 16 bits; reset 0 -/
  bindFail : Nat
  /-- SEC_COUNTS.ROTATIONS, 8 bits; reset 0 -/
  rotations : Nat
  /-- SEC_COUNTS.BUSY, 8 bits; reset 0 -/
  busy : Nat
  deriving DecidableEq, Repr

/-- The SEC block after hall reset. -/
def Sec.reset : Sec :=
  { trngOk := false, sessions := [], keys := [], gens := [], ephs := [], report := 0, models := [], loads := [],
    doms := [], sweeps := [], sweepFrames := [], sweepSkipped := [], cursor := 0, rotDomain := 0, rotLast := 0,
    rate := 256, bindFail := 0, rotations := 0, busy := 0 }

/-- R372: an open candidate. -/
structure Candidate where
  cls : Nat
  start : Nat
  /-- frames since it opened -/
  frames : Nat
  /-- consecutive frames below CLOSE_THRESH -/
  low : Nat
  /-- R385: open during a deferral -/
  deferred : Bool
  /-- R365: what the CASCADE section that it opened under gives its class: WAKE_THRESH, CLOSE_THRESH, CLOSE_MS, MAX_CAND_MS, TARGET -/
  wakeAt : Nat
  closeAt : Nat
  closeMs : Nat
  maxMs : Nat
  target : Nat
  deriving DecidableEq, Repr

/-- R379, R380: an escalation in progress. -/
structure Escalation where
  target : Nat
  /-- flight being entered -/
  entering : Nat
  /-- R380 steps 3 and 4 are awaited (FLIGHT_ENTRY_COPY_DONE) -/
  copying : Bool
  deriving DecidableEq, Repr

/-- R396: a fifth-order comb filter: its 40-bit integrators, the values of its five differences, and the bits taken since its last output. -/
structure Comb where
  integ : List (BitVec 40)
  diff : List (BitVec 40)
  count : Nat
  deriving DecidableEq, Repr

/-- R396: a half-band stage: the values it has taken, newest first, and whether its next value completes a pair. -/
structure Half where
  past : List Int
  odd : Bool
  deriving DecidableEq, Repr

/-- R396, R397: the decimator of a microphone's path: its stages, the high-pass filter's last input and output, and the path's samples for R398's
delay, newest first. -/
structure Decim where
  comb : Comb
  first : Half
  second : Half
  high : Int × Int
  past : List Int
  deriving DecidableEq, Repr

/-- R395: a decimator in its zero state. -/
def Decim.zero : Decim := ⟨⟨List.replicate 5 0, List.replicate 5 0, 0⟩, ⟨[], false⟩, ⟨[], false⟩, (0, 0), []⟩

/-- R406: a TDM port. -/
structure Tdm where
  /-- OVERRUNS, 16 bits; reset 0 -/
  overruns : Nat
  /-- UNDERRUNS, 16 bits; reset 0 -/
  underruns : Nat
  /-- TDM_POS_p, 32 bits; reset 0 -/
  pos : Nat
  /-- blocks taken since the port started -/
  k : Nat
  /-- the port runs -/
  running : Bool
  /-- the 10 ms of frames it plays: the block's bytes; none for zeros -/
  play : Option (List Byte)
  /-- the block taken, played from the next boundary -/
  next : Option (List Byte)
  deriving DecidableEq, Repr

/-- R373: a presence WAKE waiting for the next boundary. -/
structure PresWake where
  score : Nat
  /-- crop number of the last frame's crop -/
  crop : Option Nat
  /-- y0, x0, y1, x1 of its box -/
  box : List Nat
  deriving DecidableEq, Repr

/-- The MIC and VST blocks and the Vestibule's own state (11, 12). -/
structure Vst where
  /-- VST_CASCADE.LEVEL, 2 bits (R361); reset 0 -/
  level : Nat
  /-- VST_CTL.DESCEND; reset 0 -/
  descend : Bool
  /-- VST_CTL.DESCEND_TO, 2 bits; reset 0 -/
  descendTo : Nat
  /-- open candidates (R372); reset empty -/
  cands : List Candidate
  /-- R374: each class's previous score, classes 0 to 15; reset 0 -/
  scores : List Nat
  /-- VST_CAND_COUNTS.WAKES, 16 bits; reset 0 -/
  wakes : Nat
  /-- VST_CAND_COUNTS.REJECTS, 16 bits; reset 0 -/
  rejects : Nat
  /-- VST_CASCADE_COUNTS.LANDING_DROPS, 8 bits; reset 0 -/
  drops : Nat
  /-- UNAVAILABLE, 8 bits; reset 0 -/
  unavailable : Nat
  /-- DEFER_TIMEOUTS, 8 bits; reset 0 -/
  deferTimeouts : Nat
  /-- DEFERRALS, 8 bits; reset 0 -/
  deferrals : Nat
  /-- VST_RING_POS, 32 bits (R366); reset 0 -/
  writePos : Nat
  /-- R372: samples written since the Vestibule's reset, saturating at the modulus; reset 0 -/
  written : Nat
  /-- capture area of R367, 548,864 bytes; reset 0 -/
  cap : Memory
  /-- CROP_SEQ; reset 0 -/
  cropSeq : Nat
  /-- LSEQ of the next landing; reset 0 -/
  lseq : Nat
  /-- VST_LANDING_SEQ; reset 0 -/
  lastLseq : Nat
  /-- R376: pending landings, at most 16: flight and record; reset empty -/
  pending : List (Nat × List Byte)
  /-- R373: consecutive presence frames at or above the threshold; reset 0 -/
  presence : Nat
  /-- R373: presence WAKE at the next boundary: score, crop number and box; reset none -/
  presWake : Option PresWake
  /-- R443: vt of the last accepted presence frame; reset none -/
  presVt : Option Nat
  /-- R563: pins whose wake acts at the next boundary; reset empty -/
  pinWakes : List Nat
  /-- R379: escalation in progress; reset none -/
  esc : Option Escalation
  /-- R382: vt when the level was reached; reset 0 -/
  dwellVt : Nat
  /-- R382: vt of the latest activity; reset 0 -/
  idleVt : Nat
  /-- R382: a descent request is held; reset false -/
  descReq : Bool
  /-- R377: up records accepted of flights 0 to 3 since entry; reset 0 -/
  upSeen : List Nat
  /-- R378: up records forwarded by Hall B's steward; reset empty -/
  upFar : List (List Byte)
  /-- R376, R378: landings that a Hall B flight has not taken, as far as the Vestibule has been told; reset 0 -/
  farHeld : Nat
  /-- R370: a new crop awaits the mirror; crops mirrored so far; reset 0 -/
  mirrored : Nat
  /-- R369: the Flight 1 stage: model and bytes by offset; reset none -/
  stage : Option (Nat × List (Nat × List Byte))
  /-- R386: entry to VESTIBULE was refused and is asked again; reset false -/
  retryEntry : Bool
  /-- MIC_CTL.MODE_REQ; reset 0 -/
  modeReq : Bool
  /-- MIC_STATUS.MODE: true for full; reset 0 -/
  micFull : Bool
  /-- R395: ring position of the mode change or clock start whose settle gap lies in the audio frame now being taken; reset none -/
  gapFrom : Option Nat
  /-- R401: mode of the audio frame last taken: true for full; reset 0 -/
  frameFull : Bool
  /-- R396: the decimators of the 16 kHz paths of microphones 0 to 31; reset zero -/
  ringDec : List Decim
  /-- R396: the decimators of their full-mode paths; reset zero -/
  fullDec : List Decim
  /-- R401: the blocks of the audio frame last taken that have not been written: entry ID, and samples with gap flags; reset empty -/
  blocks : List (Nat × List (Int × Bool))
  /-- R385: a deferred change: vt of the request; reset none -/
  deferred : Option Nat
  /-- MIC_STUCK, 32 bits; reset 0 -/
  stuck : BitVec 32
  /-- MIC_COUNTS.MODE_CHANGES, 16 bits; reset 0 -/
  modeChanges : Nat
  /-- MIC_COUNTS.BLOCK_DROPS, 16 bits; reset 0 -/
  blockDrops : Nat
  /-- MIC_CAL_m: GAIN and PHASE codes of 16 and 9 bits in effect, m = 0 to 31; reset 0x4000 and 0 (image) -/
  cal : List (Nat × Nat)
  /-- R399: MIC_CAL_m as last written, in effect from the next audio-frame boundary -/
  calNew : List (Nat × Nat)
  /-- R401: blocks written by each array since image load: entry ID and k; reset empty -/
  micK : List (Nat × Nat)
  /-- the two TDM ports -/
  tdm : List Tdm
  /-- R403: stuck flags of the frame just ended, for BFLAGS; reset 0 -/
  stuckFrame : BitVec 32
  /-- R530: halls (0 for A, 1 for B) that were powered down when the Vestibule reset, and reset when they wake; reset false -/
  fresh : List Bool
  deriving DecidableEq, Repr

/-- The Vestibule after its reset. -/
def Vst.reset : Vst :=
  { level := 0, descend := false, descendTo := 0, cands := [], scores := List.replicate 16 0, wakes := 0, rejects := 0,
    drops := 0, unavailable := 0, deferTimeouts := 0, deferrals := 0, writePos := 0, written := 0, cap := ⟨[]⟩,
    cropSeq := 0, lseq := 0, lastLseq := 0, pending := [], presence := 0, presWake := none, presVt := none,
    pinWakes := [], esc := none, dwellVt := 0, idleVt := 0, descReq := false, upSeen := [0, 0, 0, 0], upFar := [], farHeld := 0,
    mirrored := 0, stage := none, retryEntry := false, modeReq := false, micFull := false, gapFrom := none, frameFull := false,
    ringDec := List.replicate 32 Decim.zero, fullDec := List.replicate 32 Decim.zero, blocks := [],
    deferred := none, stuck := 0, modeChanges := 0, blockDrops := 0,
    cal := List.replicate 32 (0x4000, 0), calNew := List.replicate 32 (0x4000, 0), micK := [],
    tdm := List.replicate 2 ⟨0, 0, 0, 0, false, none, none⟩, stuckFrame := 0,
    fresh := [false, false] }

/-- R395: the mode changes, or the clocks start, at the present position: every decimator begins again from zero state. -/
def Vst.restartMics (v : Vst) : Vst :=
  { v with gapFrom := some v.writePos, ringDec := List.replicate 32 Decim.zero, fullDec := List.replicate 32 Decim.zero }

/-- R558, R560: a lowering in progress. -/
structure Lowering where
  /-- state aimed at -/
  toState : Nat
  /-- gallery masks aimed at -/
  galA : BitVec 8
  galB : BitVec 8
  /-- the entry window of R560 runs -/
  window : Bool
  /-- R561: a rise has come; REFUSER and REASON of the abort -/
  abort : Option (Nat × Nat)
  deriving DecidableEq, Repr

/-- R567: a rise in progress: the state the current row reaches, the state aimed at, and the galleries being raised. -/
structure Rise where
  toState : Nat
  galA : BitVec 8
  galB : BitVec 8
  /-- state aimed at -/
  goal : Nat
  deriving DecidableEq, Repr

/-- The Hall A-only PWR registers and the Vestibule's power control (17). -/
structure PkgPwr where
  /-- PWR_STATUS.STATE, 2 bits; reset 0 -/
  state : Nat
  /-- lowering in progress; reset none -/
  lower : Option Lowering
  /-- rise in progress; reset none -/
  rise : Option Rise
  /-- R555: the requests of Hall B's ports as Hall A's steward knows them: VALID and CONFIG; reset none -/
  farReqs : List (Bool × Nat)
  /-- R611: vt at which an enable of each hall last rose; reset none DESIGN CHOICE 2 -/
  enVt : List (Option Nat)
  /-- R565: configurations held by pins: pin and configuration; reset empty -/
  pinReqs : List (Nat × Nat)
  /-- PWR_PKG_POWER.WATTS, 10 bits; reset 0 -/
  watts : Nat
  /-- PWR_WAKE_STATUS.STUCK, 8 bits; reset 0x00 -/
  stuck : BitVec 8
  /-- PWR_WAKE_STATUS.ACTIVE, 8 bits; reset 0x00 -/
  active : BitVec 8
  /-- PWR_WAKE_MASK.ENABLE, 8 bits; reset 0x00 (image) -/
  wakeEn : BitVec 8
  /-- R564: each pin's latest wakes, newest first, at most 17; reset empty -/
  times : List (List Nat)
  /-- R564: vt since which each pin has been inactive; reset 0 -/
  inactive : List Nat
  /-- PWR_LAST_WAKE: TO_STATE, DETAIL, SOURCE; reset 0 -/
  lastWake : Nat × Nat × Nat
  /-- PWR_LAST_WAKE_TIME, 32 bits; reset 0 -/
  lastWakeVt : Nat
  /-- R620: the effective configuration applies (sweep 0 has started); reset false -/
  applies : Bool
  /-- EN_CORE_x and EN_PHY_x levels, Hall A then Hall B (R610); reset low -/
  enCore : List Bool
  enPhy : List Bool
  /-- the model's own: the latest vt that a command has carried; reset 0 DESIGN CHOICE 1 -/
  now : Nat
  /-- VID codes, Hall A then Hall B (R610); reset 0 -/
  vid : List Nat
  /-- PG_x levels (R610); reset low -/
  pg : List Bool
  deriving DecidableEq, Repr

/-- Power control after the Vestibule's reset. -/
def PkgPwr.reset : PkgPwr :=
  { state := 0, lower := none, rise := none, farReqs := [(false, 0), (false, 0)], enVt := [none, none], pinReqs := [], watts := 0, stuck := 0, active := 0, wakeEn := 0,
    times := List.replicate 8 [], inactive := List.replicate 8 0, lastWake := (0, 0, 0), lastWakeVt := 0,
    applies := false, enCore := [false, false], enPhy := [false, false], now := 0, vid := [0, 0], pg := [false, false] }

end Sys2Proof.Machine
end

