-- ==== Sys2Proof/Machine/State.lean ====
section
/-! DEFINITION. The state of the package: what the manual gives each hall, the Vestibule and the pins, the queue of
waiting commands, and the machine right after reset. -/

namespace Sys2Proof.Machine

/-- The reasons for which the block stops. It has none: every error the manual describes is a next state of the block
(a fault code in a completion record, a refusal in a response, a reset of a domain). -/
inductive Fault where
  deriving DecidableEq, Repr

/-- The reasons for which a command has no meaning. -/
inductive Refusal where
  /-- raised by the dispatcher for a row that has no meaning yet; safe: the block stops where the part goes on -/
  | notModelled (mnemonic : String)
  deriving DecidableEq, Repr

/-- R600: an entry of the event log. -/
structure LogEntry where
  seq : Nat
  sweep : Nat
  tick : Nat
  code : Nat
  arg : Nat
  unit : Nat
  port : Nat
  deriving DecidableEq, Repr

/-- R622: DEV_BOOT.STAGE. -/
inductive BootStage where
  | rom | firmware | dramTrain | fill | image | waitReference | running | halted
  deriving DecidableEq, Repr

/-- The DEV block of a hall and its steward. -/
structure Dev where
  /-- the hall's steward (ROM or firmware) runs: powered, not in retention, not stopped by POR_N; reset false -/
  up : Bool
  /-- DEV_BOOT.STAGE, 3 bits (20, R622); reset 0 -/
  stage : BootStage
  /-- DEV_BOOT.FW_SOURCE, 4 bits; reset 0 -/
  fwSource : Nat
  /-- DEV_BOOT.FW_ERROR, 4 bits; reset 0 -/
  fwError : Nat
  /-- DEV_BOOT.SLOW; reset 0 -/
  slow : Bool
  /-- DEV_FW_VERSION: MAJOR, MINOR, BUILD (19); reset by the firmware -/
  fwVersion : Nat × Nat × Nat
  /-- the running firmware object (R617), sent to Hall B; reset empty -/
  fwObject : List Byte
  /-- R617: FW_DIGEST; reset empty -/
  fwDigest : List Byte
  /-- DEV_BOOT_TIME, 32 bits (20); reset 0 -/
  bootTime : Nat
  /-- timebase time of the last release under R613, from which DEV_BOOT_TIME counts (20); the model's own field, reset 0 -/
  releaseTb : Nat
  /-- DEV_IMG_STATUS.LAST_ERROR, 8 bits (02, R97); reset 0x00 -/
  lastError : Nat
  /-- DEV_IMG_STATUS.SOURCE, 4 bits; reset 0 -/
  imgSource : Nat
  /-- DEV_IMG_STATUS.STAGED, 2 bits: 0 NONE, 1 RECEIVING, 2 VERIFIED, 3 SCHEDULED; reset 0 -/
  staged : Nat
  /-- DEV_IMG_STATUS.STATE, 3 bits: 0 NO_IMAGE, 1 LOADING, 2 VERIFYING, 3 ACTIVE, 4 REFUSED; reset 0 -/
  imgState : Nat
  /-- R91: the boot flash holds no image slot and there is no other source (20); reset false -/
  noSource : Bool
  /-- DEV_IMG_ERROR_AT: SECTION and ENTRY, 16 bits each; reset 0 -/
  errorAt : Nat × Nat
  /-- DEV_IMG_ACT_SWEEP, 32 bits; reset 0 -/
  actSweep : Nat
  /-- DEV_IMG_TUNE_GEN, 32 bits; reset 0 -/
  tuneGen : Nat
  /-- DEV_IMG_CTL.ACTIVATE; reset 0 -/
  activate : Bool
  /-- the active image (R65); DEV_IMG_VERSION and the digest registers show it; reset none -/
  image : Option Image
  /-- the staged image's contents; reset none -/
  stagedImg : Option Image
  /-- R93: digest with which the other hall reports VERIFIED, and whether its models fit the staged tables; reset none -/
  farVerified : Option (List Byte × Bool)
  /-- R93: sweep by whose start the other hall must have acknowledged; reset none -/
  ackBy : Option Nat
  /-- image bytes received that wait for the end of training (R619 step 3b, 6b): source and bytes; reset none -/
  waitingImg : Option (Nat × List Byte)
  /-- R600: log entries, oldest first, at most 256; reset: the RESET entry -/
  log : List LogEntry
  /-- DEV_LOG_STATUS.NEXT_SEQ, 32 bits; reset 1 -/
  nextSeq : Nat
  /-- DEV_LOG_SUPPRESSED, 16 bits; reset 0 -/
  suppressed : Nat
  /-- DEV_VOTE.REPAIRED, 16 bits (19, R599); reset 0 -/
  repaired : Nat
  /-- DEV_VOTE.LAST_FIELD, 3 bits; reset 0 -/
  lastField : Nat
  /-- DEV_ACCESS_COUNTS.LOCKED_WRITES, 16 bits; reset 0 -/
  lockedWrites : Nat
  /-- DEV_ACCESS_COUNTS.EXPIRED, 8 bits; reset 0 -/
  expired : Nat
  /-- DEV_ACCESS_COUNTS.BAD_UNLOCK, 8 bits; reset 0 -/
  badUnlock : Nat
  /-- R454: the port whose capsule the steward starts next; reset 0 -/
  portPtr : Nat
  /-- R88: the hall keeps its galleries off under IMAGE_MISMATCH; reset false -/
  mismatch : Bool
  /-- R619: the cold or hall-reset start waits for memory fills; bit set of galleries to be filled -/
  filling : BitVec 8
  deriving DecidableEq, Repr

/-- The DEV block after a hall reset of cause `c`. -/
def Dev.reset (c : Nat) : Dev :=
  { up := false, stage := .rom, fwSource := 0, fwError := 0, slow := false, fwVersion := (0, 0, 0), fwObject := [],
    fwDigest := [], bootTime := 0, releaseTb := 0, lastError := 0, imgSource := 0, staged := 0, imgState := 0, noSource := false, errorAt := (0, 0),
    actSweep := 0, tuneGen := 0, activate := false, image := none, stagedImg := none, farVerified := none, ackBy := none,
    waitingImg := none, log := [⟨0, 0, 0, 0x0001, c, 0, 0⟩], nextSeq := 1, suppressed := 0, repaired := 0, lastField := 0,
    lockedWrites := 0, expired := 0, badUnlock := 0, portPtr := 0, mismatch := false, filling := 0 }

/-- R488: what manufacture wrote into a hall's key array and boot ROM. -/
structure KeyArray where
  /-- root key, 32 bytes -/
  root : List Byte
  /-- public identity key, 96 bytes -/
  identity : List Byte
  /-- identity certificate -/
  cert : List Byte
  /-- SHA-384 of the image-signing key -/
  signer : List Byte
  /-- the firmware-signing key, 96 bytes -/
  firmware : List Byte
  deriving DecidableEq, Repr

/-- The key array of hall h. -/
def KeyArray.made (h : Nat) : KeyArray :=
  ⟨Config.rootKey h, Config.identityKey h, Config.certificate h, Config.signerHash h, Config.firmwareKey h⟩

/-- One hall (R21). -/
structure Hall where
  /-- the key array (15, R488); fixed at manufacture -/
  keyArray : KeyArray
  /-- DEV block and steward -/
  dev : Dev
  /-- host ports: local port 0 and 1 (HST block) -/
  ports : List Port
  /-- SWP block -/
  swp : Sweep
  /-- PWR block -/
  pwr : Pwr
  /-- ERR block -/
  err : Err
  /-- SEC block -/
  sec : Sec
  /-- MEM block and page tables -/
  mem : Mem
  /-- CNT block -/
  cnt : Cnt
  /-- CSI_RX, ISP and SNS blocks -/
  cam : Cam
  /-- CSI_TX ports 0 to 3 -/
  tx : List TxPort
  /-- bound result streams (R460); reset empty -/
  streams : List TxStream
  /-- HST_FEED_ERR: BAD_KIND, SEQ_GAP, MODEL_FAIL, RING_FULL, 8 bits each; reset 0 -/
  feedErr : List Nat
  /-- feed objects being assembled (R470); reset empty -/
  feeds : List FeedObj
  /-- bound feed rings (R461); reset empty -/
  rings : List FeedRing
  /-- STAIR block -/
  stair : Stair
  /-- galleries 0 to 7 -/
  gals : List Gallery
  /-- cores 0 to 95 -/
  cores : List Core
  /-- contexts, by number, rising (R303); reset empty -/
  ctxs : List Ctx
  /-- next command serial (R204); reset 0 -/
  serial : Nat
  /-- the model's own: the latest array cycle that a command has carried; reset 0 DESIGN CHOICE 3 -/
  now : Nat
  /-- R357: the PLACE commands that committed in cycle `now`: first stream, count, and true for HOLD; reset empty -/
  placed : List (Nat × Nat × Bool)
  /-- R351: the cells that a SET or a signal has reached in cycle `now`: cell, and the core of a CELL_OP SET; reset empty -/
  struck : List (Nat × Option Nat)
  deriving DecidableEq, Repr

/-- A hall right after its reset for cause `c` (R549). -/
def Hall.reset (h c : Nat) : Hall :=
  { keyArray := KeyArray.made h, dev := Dev.reset c, ports := [Port.reset, Port.reset], swp := Sweep.reset,
    pwr := Pwr.reset, err := Err.reset c, sec := Sec.reset, mem := Mem.reset, cnt := Cnt.reset, cam := Cam.reset,
    tx := List.replicate 4 TxPort.reset, streams := [], feedErr := [0, 0, 0, 0], feeds := [], rings := [],
    stair := Stair.reset, gals := List.replicate 8 Gallery.reset, cores := List.replicate 96 Core.reset, ctxs := [],
    serial := 0, now := 0, placed := [], struck := [] }

/-- R614: the TAP. -/
structure Jtag where
  /-- instruction selected: 0 BYPASS, 1 IDCODE, 2 SAMPLE/PRELOAD, 3 EXTEST -/
  instr : Nat
  /-- value the selected register captures: IDCODE's word -/
  data : BitVec 32
  /-- balls as last sampled -/
  sampled : List Bool
  /-- boundary cells drive the balls -/
  driving : Bool
  deriving DecidableEq, Repr

/-- The whole package, and the commands that wait. -/
structure State where
  /-- POR_N holds the package in reset (20, R613); reset true -/
  por : Bool
  /-- VDD_VST and VDD_IO are in range (R613); reset true -/
  supply : Bool
  /-- the straps latched at the latest release (R613); reset 0 DESIGN CHOICE 2 -/
  straps : Straps
  /-- R614: an image has become active in a hall since the release of POR_N; reset false -/
  imageSeen : Bool
  /-- the TAP (R614); reset IDCODE -/
  jtag : Jtag
  /-- pulses given on XSPI_RESET_N (R615); reset 0 -/
  xspiResets : Nat
  /-- the Hall A-only PWR registers and power control -/
  pkg : PkgPwr
  /-- the MIC and VST blocks and the Vestibule -/
  vst : Vst
  /-- R509: the epoch table in the Vestibule; domains that have numbers; reset empty -/
  epochs : List Epochs
  /-- Hall A -/
  a : Hall
  /-- Hall B -/
  b : Hall
  /-- the model's own: free values drawn so far; reset 0 DESIGN CHOICE 3 -/
  free : Nat
  /-- the model's own: commands that wait, first in first out; reset empty -/
  pending : List Instr
  deriving DecidableEq, Repr

/-- The machine right after reset: POR_N still low, both halls at their reset values (R18), nothing waiting. -/
def State.reset : State :=
  { por := true, supply := true, straps := ⟨0, false, false⟩, imageSeen := false, jtag := ⟨1, 0x1296058B#32, [], false⟩,
    xspiResets := 0, pkg := PkgPwr.reset, vst := Vst.reset, epochs := [], a := Hall.reset 0 0, b := Hall.reset 1 0,
    free := 0, pending := [] }

end Sys2Proof.Machine
end

