-- ==== Sys2Proof/Machine/Operands.lean ====
section
/-! DEFINITION. Bytes and words: little-endian fields (R13), ranges of a byte list, sparse tables, and the sparse byte
memory. -/

namespace Sys2Proof.Machine

/-- R13: the number that little-endian bytes give. -/
def le : List Byte → Nat
  | [] => 0
  | b :: bs => b.toNat + 256 * le bs

/-- R13: the `n` little-endian bytes of a number. -/
def leBytes : Nat → Nat → List Byte
  | 0, _ => []
  | n + 1, v => BitVec.ofNat 8 v :: leBytes n (v / 256)

/-- The number that big-endian bytes give (R13: where a standard fixes that order). -/
def be (bs : List Byte) : Nat := le bs.reverse

/-- The `n` big-endian bytes of a number. -/
def beBytes (n v : Nat) : List Byte := (leBytes n v).reverse

/-- Bytes `off` to `off + len - 1` of a list; bytes past its end are left out. -/
def slice (bs : List Byte) (off len : Nat) : List Byte := (bs.drop off).take len

/-- The unsigned field of `len` bytes at `off`; bytes past the end read 0. -/
def fld (bs : List Byte) (off len : Nat) : Nat := le (slice bs off len)

/-- `bs` padded with zeros or cut to `n` bytes. -/
def fit (bs : List Byte) (n : Nat) : List Byte := (bs ++ List.replicate (n - bs.length) 0).take n

/-- Every byte of a range is zero. -/
def zeros (bs : List Byte) (off len : Nat) : Bool := (slice bs off len).all (· == 0)

/-- Bits `lo` to `lo + n - 1` of a number. -/
def bits (v lo n : Nat) : Nat := v / 2 ^ lo % 2 ^ n

/-- Bit `i` of a number. -/
def bit (v i : Nat) : Bool := v.testBit i

/-- A Boolean as 0 or 1. -/
def b2n (b : Bool) : Nat := if b then 1 else 0

/-- A number below `2 ^ w` read as two's complement. -/
def sint (w v : Nat) : Int := if v < 2 ^ (w - 1) then (v : Int) else (v : Int) - (2 ^ w : Nat)

/-- The two's-complement code of an integer in `w` bits. -/
def sbits (w : Nat) (i : Int) : Nat := (i % ((2 ^ w : Nat) : Int)).toNat

/-- Ceiling of a division. -/
def cdiv (a b : Nat) : Nat := (a + b - 1) / b

/-- A saturating sum. -/
def satAdd (max a b : Nat) : Nat := min max (a + b)

/-- A saturating increment. -/
def satInc (max a : Nat) : Nat := satAdd max a 1

/-- An 8-bit saturating increment. -/
def inc8 (a : Nat) : Nat := satInc 0xFF a

/-- A 16-bit saturating increment. -/
def inc16 (a : Nat) : Nat := satInc 0xFFFF a

/-- A 32-bit saturating increment. -/
def inc32 (a : Nat) : Nat := satInc 0xFFFFFFFF a

/-- The list with element `i` changed by `f`; unchanged when there is none. -/
def modAt {α : Type} (l : List α) (i : Nat) (f : α → α) : List α := l.modify i f

/-- The list with the first element that satisfies `p` changed by `f`. -/
def modFirst {α : Type} (l : List α) (p : α → Bool) (f : α → α) : List α :=
  match l with
  | [] => []
  | x :: r => if p x then f x :: r else x :: modFirst r p f

/-- The value of `k` in a sparse table whose missing keys read 0. -/
def tget (t : List (Nat × Nat)) (k : Nat) : Nat :=
  match t with
  | [] => 0
  | (j, v) :: r => if j = k then v else tget r k

/-- A sparse table with `k` set to `v`: keys rising, zeros not listed. -/
def tset (t : List (Nat × Nat)) (k v : Nat) : List (Nat × Nat) :=
  match t with
  | [] => if v = 0 then [] else [(k, v)]
  | (j, x) :: r =>
    if k < j then (if v = 0 then (j, x) :: r else (k, v) :: (j, x) :: r)
    else if k = j then (if v = 0 then r else (k, v) :: r)
    else (j, x) :: tset r k v

/-- A value of a keyed list. -/
def kget {α : Type} (t : List (Nat × α)) (k : Nat) : Option α :=
  match t with
  | [] => none
  | (j, v) :: r => if j = k then some v else kget r k

/-- A keyed list, keys rising, with `k` set to `v`. -/
def kset {α : Type} (t : List (Nat × α)) (k : Nat) (v : α) : List (Nat × α) :=
  match t with
  | [] => [(k, v)]
  | (j, x) :: r => if k < j then (k, v) :: (j, x) :: r else if k = j then (k, v) :: r else (j, x) :: kset r k v

/-- A keyed list without `k`. -/
def kdel {α : Type} (t : List (Nat × α)) (k : Nat) : List (Nat × α) := t.filter fun e => e.1 != k

/-- A rising list of numbers with `k` added. -/
def sins (l : List Nat) (k : Nat) : List Nat :=
  match l with
  | [] => [k]
  | j :: r => if k < j then k :: j :: r else if k = j then j :: r else j :: sins r k

/-- The addresses of a sparse memory are strictly rising from `lo` on. -/
def risingFrom (lo : Nat) : List (Nat × Byte) → Bool
  | [] => true
  | (a, _) :: r => decide (lo ≤ a) && risingFrom (a + 1) r

/-- The byte listed at an address. -/
def cellAt (l : List (Nat × Byte)) (a : Nat) : Option Byte :=
  match l with
  | [] => none
  | (j, v) :: r => if j = a then some v else cellAt r a

/-- A cell list with `a` holding `v`. -/
def cellSet (l : List (Nat × Byte)) (a : Nat) (v : Byte) : List (Nat × Byte) :=
  match l with
  | [] => [(a, v)]
  | (j, x) :: r => if a < j then (a, v) :: (j, x) :: r else if a = j then (a, v) :: r else (j, x) :: cellSet r a v

/-- A cell list without `a`. -/
def cellDel (l : List (Nat × Byte)) (a : Nat) : List (Nat × Byte) :=
  match l with
  | [] => []
  | (j, x) :: r => if a < j then (j, x) :: r else if a = j then r else (j, x) :: cellDel r a

end Sys2Proof.Machine

namespace Sys2Proof

open Sys2Proof.Machine

/-- The canonical form of an SRAM memory (R535: an unlisted byte reads 0): addresses strictly rising, no zero listed. -/
def Memory.wf (m : Memory) : Bool := risingFrom 0 m.cells && m.cells.all fun c => c.2 != 0

/-- The canonical form of hall DRAM, where an unlisted byte is a free value (R535): addresses strictly rising. -/
def Memory.rising (m : Memory) : Bool := risingFrom 0 m.cells

/-- One byte of an SRAM memory; an unlisted byte reads 0 (R535). -/
def Memory.get (m : Memory) (a : Nat) : Byte := (cellAt m.cells a).getD 0

/-- One byte written to an SRAM memory: a zero is not listed. -/
def Memory.put (m : Memory) (a : Nat) (v : Byte) : Memory :=
  ⟨if v = 0 then cellDel m.cells a else cellSet m.cells a v⟩

/-- Bytes written to an SRAM memory from `a` on. -/
def Memory.putAll (m : Memory) (a : Nat) : List Byte → Memory
  | [] => m
  | b :: bs => (m.put a b).putAll (a + 1) bs

/-- `n` bytes of an SRAM memory from `a` on. -/
def Memory.getAll (m : Memory) (a n : Nat) : List Byte := (List.range n).map fun i => m.get (a + i)

/-- An SRAM memory with every byte from `a` to `a + n - 1` zero. -/
def Memory.clear (m : Memory) (a n : Nat) : Memory := ⟨m.cells.filter fun c => !(decide (a ≤ c.1) && decide (c.1 < a + n))⟩

/-- One byte written to a memory that lists every byte written (hall DRAM). -/
def Memory.write (m : Memory) (a : Nat) (v : Byte) : Memory := ⟨cellSet m.cells a v⟩

/-- Bytes written to a memory that lists every byte written. -/
def Memory.writeAll (m : Memory) (a : Nat) : List Byte → Memory
  | [] => m
  | b :: bs => (m.write a b).writeAll (a + 1) bs

end Sys2Proof

namespace Sys2Proof.Machine

/-- The canonical form of a store: its memory's, and its word lists strictly rising. -/
def Store.wf (s : Store) : Bool :=
  s.mem.wf && decide (s.written.Pairwise (· < ·)) && decide (s.poison.Pairwise (· < ·))

/-- R534, R536: the word of a byte address in a store is POISON. -/
def Store.isPoison (s : Store) (a : Nat) : Bool := s.poison.contains (a / 32)

/-- R536: the word of a byte address in a store is UNWRITTEN. -/
def Store.isUnwritten (s : Store) (a : Nat) : Bool := s.wbr && !(s.written.contains (a / 32)) && !(s.isPoison a)

/-- The words that the `n` bytes from `a` on touch. -/
def wordsOf (a n : Nat) : List Nat := if n = 0 then [] else List.range' (a / 32) ((a + n - 1) / 32 - a / 32 + 1)

/-- R536: the fault that reading `n` bytes from `a` on raises: POISON_READ before UNWRITTEN_READ, the lowest code first
(R320). -/
def Store.readFault (s : Store) (a n : Nat) : Option Nat :=
  if (wordsOf a n).any (fun w => s.isPoison (32 * w)) then some 0x0801
  else if (wordsOf a n).any (fun w => s.isUnwritten (32 * w)) then some 0x0802
  else none

/-- The bytes of a store, markers as their zero data bytes (R534). -/
def Store.read (s : Store) (a n : Nat) : List Byte := s.mem.getAll a n

/-- R536: a write. In write-before-read mode it writes whole words: of a word it touches, the bytes it does not write
become zero. -/
def Store.write (s : Store) (a : Nat) (bs : List Byte) : Store :=
  let ws := wordsOf a bs.length
  let base := if s.wbr then ws.foldl (fun m w => m.clear (32 * w) 32) s.mem else s.mem
  { s with
    mem := base.putAll a bs
    written := if s.wbr then ws.foldl sins s.written else s.written
    poison := s.poison.filter fun w => !(ws.contains w) }

/-- R533: a word written as POISON. -/
def Store.setPoison (s : Store) (w : Nat) : Store :=
  { s with mem := s.mem.clear (32 * w) 32, poison := sins s.poison w }

/-- R536: a word of a store in write-before-read mode returned to UNWRITTEN. -/
def Store.setUnwritten (s : Store) (w : Nat) : Store :=
  { s with mem := s.mem.clear (32 * w) 32, written := s.written.filter (· != w), poison := s.poison.filter (· != w) }

/-- R536: a word that copies a marker: POISON (true) or UNWRITTEN. -/
def Store.setMark (s : Store) (w : Nat) (poison : Bool) : Store := if poison then s.setPoison w else s.setUnwritten w

/-- R514: zeroes written over a range. -/
def Store.scrub (s : Store) (a n : Nat) : Store :=
  { s with mem := s.mem.clear a n, written := if s.wbr then (wordsOf a n).foldl sins s.written else s.written,
           poison := s.poison.filter fun w => !((wordsOf a n).contains w) }

end Sys2Proof.Machine
end

