-- ==== Sys2Proof/Machine/Fp.lean ====
section
/-! DEFINITION. Numbers (05): the element formats of R157 to R160 as exact values, rounding to nearest with ties to even, FP32
operations, exact and aligned sums. -/

namespace Sys2Proof.Machine

/-- An exact value of a floating-point or integer element: `m * 2 ^ e` with a sign (R159). -/
inductive Fp where
  | nan
  | inf (neg : Bool)
  | fin (neg : Bool) (m : Nat) (e : Int)
  deriving DecidableEq, Repr

/-- A zero. -/
def Fp.zero : Fp := .fin false 0 0

/-- An integer. -/
def Fp.int (i : Int) : Fp := .fin (decide (i < 0)) i.natAbs 0

/-- The sign. -/
def Fp.neg? : Fp → Bool
  | .nan => false
  | .inf s => s
  | .fin s _ _ => s

/-- A NaN. -/
def Fp.isNan : Fp → Bool
  | .nan => true
  | _ => false

/-- An infinity. -/
def Fp.isInf : Fp → Bool
  | .inf _ => true
  | _ => false

/-- A zero of either sign. -/
def Fp.isZero : Fp → Bool
  | .fin _ 0 _ => true
  | _ => false

/-- The value negated. -/
def Fp.negate : Fp → Fp
  | .nan => .nan
  | .inf s => .inf !s
  | .fin s m e => .fin (!s) m e

/-- The magnitude. -/
def Fp.abs : Fp → Fp
  | .nan => .nan
  | .inf _ => .inf false
  | .fin _ m e => .fin false m e

/-- The value times `2 ^ k`, exactly. -/
def Fp.scale (x : Fp) (k : Int) : Fp :=
  match x with
  | .fin s m e => .fin s m (e + k)
  | y => y

/-- The number of bits of a natural number. -/
def bitLen (m : Nat) : Nat := if m = 0 then 0 else Nat.log2 m + 1

/-- `m * 2 ^ e` as a multiple of `2 ^ q`, for q no larger than e. -/
def alignTo (m : Nat) (e q : Int) : Nat := m * 2 ^ (e - q).toNat

/-- The product, exactly: NaN for zero times infinity. -/
def Fp.mul (x y : Fp) : Fp :=
  match x, y with
  | .nan, _ => .nan
  | _, .nan => .nan
  | .inf s, .inf t => .inf (s != t)
  | .inf s, .fin t m _ => if m = 0 then .nan else .inf (s != t)
  | .fin s m _, .inf t => if m = 0 then .nan else .inf (s != t)
  | .fin s m e, .fin t n f => .fin (s != t) (m * n) (e + f)

/-- The least exponent of the finite terms. -/
def minExp (l : List Fp) : Int :=
  (l.foldl (fun (a : Option Int) x =>
    match x, a with
    | .fin _ m e, none => if m = 0 then none else some e
    | .fin _ m e, some b => if m = 0 then some b else some (min b e)
    | _, a => a) none).getD 0

/-- R182: the sum of terms, exactly: NaN for a NaN term or infinities of opposite sign; a zero sum is +0 unless every term is
−0. -/
def Fp.sum (l : List Fp) : Fp :=
  if l.any Fp.isNan then .nan
  else
    let pos := l.any fun x => x == .inf false
    let neg := l.any fun x => x == .inf true
    if pos && neg then .nan
    else if pos then .inf false
    else if neg then .inf true
    else
      let q := minExp l
      let t : Int := l.foldl (fun a x =>
        match x with
        | .fin s m e => if m = 0 then a else if s then a - alignTo m e q else a + alignTo m e q
        | _ => a) 0
      if t = 0 then .fin (!l.isEmpty && l.all fun x => x.neg?) 0 0 else .fin (decide (t < 0)) t.natAbs q

/-- `m` divided by `2 ^ s`, rounded to nearest with ties to even. -/
def rne (m s : Nat) : Nat :=
  let q := m / 2 ^ s
  let r := m % 2 ^ s
  if 2 * r > 2 ^ s ∨ (2 * r = 2 ^ s ∧ s ≠ 0 ∧ q % 2 = 1) then q + 1 else q

/-- A finite magnitude rounded to `p` significant bits and a least exponent `qmin`, ties to even. -/
def quantize (p : Nat) (qmin : Int) (m : Nat) (e : Int) : Nat × Int :=
  let q := max (e + bitLen m - p) qmin
  if q ≤ e then (alignTo m e q, q) else (rne m (q - e).toNat, q)

/-- R159: a floating-point format: exponent bits, mantissa bits, bias, and its special encodings: 0 none, 1 the NaN of E4M3, 2 as
IEEE 754; `flush` for R160. -/
structure Format where
  eb : Nat
  mb : Nat
  bias : Nat
  special : Nat
  flush : Bool
  deriving DecidableEq, Repr

/-- FP4 E2M1. -/
def fmtE2M1 : Format := ⟨2, 1, 1, 0, false⟩
/-- FP8 E4M3. -/
def fmtE4M3 : Format := ⟨4, 3, 7, 1, false⟩
/-- FP8 E5M2. -/
def fmtE5M2 : Format := ⟨5, 2, 15, 2, false⟩
/-- BF16. -/
def fmtBF16 : Format := ⟨8, 7, 127, 2, true⟩
/-- FP16. -/
def fmtFP16 : Format := ⟨5, 10, 15, 2, false⟩
/-- FP32. -/
def fmtFP32 : Format := ⟨8, 23, 127, 2, true⟩

/-- R159, R160: the value of a code. -/
def Format.decode (f : Format) (c : Nat) : Fp :=
  let s := bit c (f.eb + f.mb)
  let ex := bits c f.mb f.eb
  let m := bits c 0 f.mb
  let top := 2 ^ f.eb - 1
  if f.special = 2 && ex = top then (if m = 0 then .inf s else .nan)
  else if f.special = 1 && ex = top && m = 2 ^ f.mb - 1 then .nan
  else if ex = 0 then .fin s (if f.flush then 0 else m) (1 - (f.bias : Int) - f.mb)
  else .fin s (2 ^ f.mb + m) ((ex : Int) - f.bias - f.mb)

/-- The code of the largest finite magnitude. -/
def Format.maxCode (f : Format) : Nat :=
  match f.special with
  | 0 => 2 ^ (f.eb + f.mb) - 1
  | 1 => 2 ^ (f.eb + f.mb) - 2
  | _ => (2 ^ f.eb - 1) * 2 ^ f.mb - 1

/-- The code of a finite value rounded into the format: the magnitude code and whether it lay beyond the finite range. -/
def Format.encodeMag (f : Format) (m : Nat) (e : Int) : Nat × Bool :=
  let q0 : Int := 1 - (f.bias : Int) - f.mb
  let r := quantize (f.mb + 1) q0 m e
  let m' := r.1
  let q := r.2
  let (m', q) := if m' ≥ 2 ^ (f.mb + 1) then (m' / 2, q + 1) else (m', q)
  if m' < 2 ^ f.mb then (if f.flush then 0 else m', false)
  else
    let code := (q - q0 + 1).toNat * 2 ^ f.mb + (m' - 2 ^ f.mb)
    if code > f.maxCode then (f.maxCode, true) else (code, false)

/-- The value that a finite magnitude code stands for, as a decoded value of the given sign. -/
def Format.ofMag (f : Format) (neg : Bool) (code : Nat) : Fp :=
  match f.decode code with
  | .fin _ m e => .fin neg m e
  | x => x

/-- R160: a value rounded once to FP32: overflow to infinity, a subnormal result to zero. -/
def Fp.round32 (x : Fp) : Fp :=
  match x with
  | .fin s m e =>
    let r := fmtFP32.encodeMag m e
    if r.2 then .inf s else fmtFP32.ofMag s r.1
  | y => y

/-- The FP32 code of a value already in FP32; NaN is canonical (R161). -/
def Fp.bits32 (x : Fp) : Nat :=
  match x with
  | .nan => 0x7FC00000
  | .inf s => (if s then 0x80000000 else 0) + 0x7F800000
  | .fin s m e => (if s then 0x80000000 else 0) + (fmtFP32.encodeMag m e).1

/-- The value of an FP32 code. -/
def fp32 (c : Nat) : Fp := fmtFP32.decode c

/-- FP32 addition. -/
def Fp.add32 (x y : Fp) : Fp := (Fp.sum [x, y]).round32

/-- FP32 subtraction. -/
def Fp.sub32 (x y : Fp) : Fp := x.add32 y.negate

/-- FP32 multiplication. -/
def Fp.mul32 (x y : Fp) : Fp := (x.mul y).round32

/-- FP32 division: the quotient with 64 bits and a sticky bit, rounded once. -/
def Fp.div32 (x y : Fp) : Fp :=
  match x, y with
  | .nan, _ => .nan
  | _, .nan => .nan
  | .inf _, .inf _ => .nan
  | .inf s, .fin t _ _ => .inf (s != t)
  | .fin s _ _, .inf t => .fin (s != t) 0 0
  | .fin s m e, .fin t n f =>
    if n = 0 then (if m = 0 then .nan else .inf (s != t))
    else
      let k := 64 + bitLen n
      let q := m * 2 ^ k / n
      let st := if m * 2 ^ k % n = 0 then 0 else 1
      (Fp.fin (s != t) (2 * q + st) (e - f - k - 1)).round32

/-- FP32 square root of a value not below zero: 64 bits and a sticky bit, rounded once. -/
def Fp.sqrt32 (x : Fp) : Fp :=
  match x with
  | .fin false m e =>
    let e' := if e % 2 = 0 then e else e - 1
    let m' := (if e % 2 = 0 then m else 2 * m) * 2 ^ 128
    let r := Nat.sqrt m'
    (Fp.fin false (2 * r + if r * r = m' then 0 else 1) (e' / 2 - 65)).round32
  | .inf false => .inf false
  | .fin true 0 e => .fin true 0 e
  | _ => .nan

/-- The order of two values that are not NaN: x is less than y. -/
def Fp.lt (x y : Fp) : Bool :=
  match x, y with
  | .nan, _ => false
  | _, .nan => false
  | .inf s, .inf t => s && !t
  | .inf s, .fin _ _ _ => s
  | .fin _ _ _, .inf t => !t
  | .fin s m e, .fin t n f =>
    let q := min e f
    let a : Int := (if s then -1 else 1) * (alignTo m e q : Int)
    let b : Int := (if t then -1 else 1) * (alignTo n f q : Int)
    decide (a < b)

/-- The larger of two values; a NaN where either is NaN. -/
def Fp.larger (x y : Fp) : Fp := if x.isNan || y.isNan then .nan else if x.lt y then y else x

/-- The smaller of two values; a NaN where either is NaN. -/
def Fp.smaller (x y : Fp) : Fp := if x.isNan || y.isNan then .nan else if y.lt x then y else x

/-- R182: the terms of an aligned sum, each truncated toward zero 40 bits below the leading bit of the largest, added exactly. -/
def Fp.alignedTotal (l : List Fp) : Fp :=
  let lead : Option Int := l.foldl (fun a x =>
    match x with
    | .fin _ m e =>
      if m = 0 then a
      else match a with
        | none => some (e + bitLen m - 1)
        | some b => some (max b (e + bitLen m - 1))
    | _ => a) none
  match lead with
  | none => Fp.sum l
  | some t =>
    Fp.sum (l.map fun x =>
      match x with
      | .fin s m e => if e < t - 40 then .fin s (m / 2 ^ (t - 40 - e).toNat) (t - 40) else .fin s m e
      | y => y)

/-- R182: the aligned sum, its total rounded once to FP32. -/
def Fp.alignedSum (l : List Fp) : Fp := (Fp.alignedTotal l).round32

/-- R182: the exact sum, rounded once to FP32. -/
def Fp.exactSum (l : List Fp) : Fp := (Fp.sum l).round32

/-! ### Element formats (R156, R157) -/

/-- Half bytes of an element of format ELEM; 0 where the ELEM is reserved. -/
def elemNibbles : Nat → Nat
  | 1 => 1
  | 2 => 2
  | 3 => 8
  | 4 => 1
  | 5 => 2
  | 6 => 2
  | 7 => 4
  | 8 => 4
  | 9 => 8
  | 10 => 8
  | 11 => 16
  | 12 => 4
  | _ => 0

/-- Bytes of n packed elements of a format (R144: a half byte each for 4-bit formats). -/
def elemBytes (elem n : Nat) : Nat := (n * elemNibbles elem + 1) / 2

/-- The code of element i of packed elements (R133). -/
def elemCode (elem : Nat) (bs : List Byte) (i : Nat) : Nat :=
  match elemNibbles elem with
  | 1 => bits (fld bs (i / 2) 1) (4 * (i % 2)) 4
  | n => fld bs (i * (n / 2)) (n / 2)

/-- The value of a code of a format: an integer, a floating-point value, or S + C rounded once for S32C (R164). -/
def elemVal (elem c : Nat) : Fp :=
  match elem with
  | 1 => Fp.int (sint 4 c)
  | 2 => Fp.int (sint 8 c)
  | 3 => Fp.int (sint 32 c)
  | 4 => fmtE2M1.decode c
  | 5 => fmtE4M3.decode c
  | 6 => fmtE5M2.decode c
  | 7 => fmtBF16.decode c
  | 8 => fmtFP16.decode c
  | 9 => fp32 c
  | 10 => fp32 c
  | 11 => (fp32 (c % 2 ^ 32)).add32 (fp32 (c / 2 ^ 32))
  | 12 => fmtBF16.decode c
  | _ => Fp.zero

/-- The value of element i of packed elements. -/
def elemAt (elem : Nat) (bs : List Byte) (i : Nat) : Fp := elemVal elem (elemCode elem bs i)

/-- R169: the value of an E8M0 scale byte. -/
def e8m0 (b : Nat) : Fp := if b = 255 then .nan else .fin false 1 ((b : Int) - 127)

end Sys2Proof.Machine
end

