-- ==== Sys2Proof/Machine/Flags.lean ====
section
/-! DEFINITION. The numeric status byte NSTAT (R163) and the conversions that set it (R162): every flag of a command that computes
numbers. -/

namespace Sys2Proof.Machine

/-- ACC_SAT. -/
def accSat : Nat := 1
/-- OUT_SAT. -/
def outSat : Nat := 2
/-- NAN_IN. -/
def nanIn : Nat := 4
/-- NAN_LOST. -/
def nanLost : Nat := 8
/-- INF_OUT. -/
def infOut : Nat := 16

/-- The flags of several steps together. -/
def flagsOr (l : List Nat) : Nat := l.foldl (· ||| ·) 0

/-- R163: NAN_IN where an input that takes part is NaN. -/
def nanFlag (l : List Fp) : Nat := if l.any Fp.isNan then nanIn else 0

/-- R163: INF_OUT where an output element is infinite. -/
def infFlag (l : List Fp) : Nat := if l.any Fp.isInf then infOut else 0

/-- R162: the integer nearest to a finite value, ties to even. -/
def nearestInt (neg : Bool) (m : Nat) (e : Int) : Int :=
  let k := if 0 ≤ e then m * 2 ^ e.toNat else rne m (-e).toNat
  if neg then -(k : Int) else k

/-- R162: conversion to a two's-complement integer of w bits: its code and flags. -/
def toInt (w : Nat) (x : Fp) : Nat × Nat :=
  let lo : Int := -(2 ^ (w - 1) : Nat)
  let hi : Int := (2 ^ (w - 1) : Nat) - 1
  match x with
  | .nan => (0, nanLost)
  | .inf s => (sbits w (if s then lo else hi), outSat)
  | .fin s m e =>
    let i := nearestInt s m e
    if i < lo then (sbits w lo, outSat) else if hi < i then (sbits w hi, outSat) else (sbits w i, 0)

/-- R162: conversion to a floating-point format: its code and flags. The 4-bit and 8-bit formats saturate; BF16, FP16 and FP32
overflow to infinity. -/
def toFloat (f : Format) (saturates : Bool) (x : Fp) : Nat × Nat :=
  let sgn := fun (s : Bool) => if s then 2 ^ (f.eb + f.mb) else 0
  let infCode := (2 ^ f.eb - 1) * 2 ^ f.mb
  match x with
  | .nan =>
    match f.special with
    | 0 => (0, nanLost)
    | 1 => (2 ^ (f.eb + f.mb) - 1, 0)
    | _ => (infCode + 2 ^ (f.mb - 1), 0)
  | .inf s => if f.special = 2 then (sgn s + infCode, infOut) else (sgn s + f.maxCode, outSat)
  | .fin s m e =>
    let r := f.encodeMag m e
    if r.2 then (if saturates then (sgn s + f.maxCode, outSat) else (sgn s + infCode, infOut)) else (sgn s + r.1, 0)

/-- R162: conversion of a value to an element format: its code and flags. -/
def convert (elem : Nat) (x : Fp) : Nat × Nat :=
  match elem with
  | 1 => toInt 4 x
  | 2 => toInt 8 x
  | 3 => toInt 32 x
  | 4 => toFloat fmtE2M1 true x
  | 5 => toFloat fmtE4M3 true x
  | 6 => toFloat fmtE5M2 true x
  | 7 => toFloat fmtBF16 false x
  | 8 => toFloat fmtFP16 false x
  | 9 => toFloat fmtFP32 false x
  | 10 => toFloat fmtFP32 false x
  | 12 => toFloat fmtBF16 false x
  | _ => (0, 0)

/-- R133: packed bytes of codes of a format. -/
def packCodes (elem : Nat) (cs : List Nat) : List Byte :=
  match elemNibbles elem with
  | 1 => leBytes ((cs.length + 1) / 2) ((cs.zip (List.range cs.length)).foldl (fun a c => a + c.1 * 16 ^ c.2) 0)
  | n => cs.flatMap fun c => leBytes (n / 2) c

/-- R162, R163: values converted and packed, with their flags. -/
def convertAll (elem : Nat) (xs : List Fp) : List Byte × Nat :=
  let cs := xs.map (convert elem)
  (packCodes elem (cs.map (·.1)), flagsOr (cs.map (·.2)))

/-- R181: INT32 accumulation with saturation: the sum and ACC_SAT. -/
def accAdd (a b : Int) : Int × Nat :=
  let t := a + b
  if t < -(2 ^ 31) then (-(2 ^ 31), accSat) else if t > 2 ^ 31 - 1 then (2 ^ 31 - 1, accSat) else (t, 0)

/-- R175: the emax of an element format. -/
def blockEmax : Nat → Int
  | 5 => 8
  | 6 => 15
  | 4 => 2
  | 1 => 2
  | _ => 0

/-- R175: the scale byte of a block of source values. -/
def blockScale (elem : Nat) (xs : List Fp) : Nat :=
  if xs.any fun x => x.isNan || x.isInf then 255
  else
    let top : Option Int := xs.foldl (fun a x =>
      match x with
      | .fin _ m e =>
        if m = 0 then a
        else match a with
          | none => some (e + bitLen m - 1)
          | some b => some (max b (e + bitLen m - 1))
      | _ => a) none
    match top with
    | none => 0
    | some t => (max (-127) (min 127 (t - blockEmax elem)) + 127).toNat

/-- R175: a block quantised: scale byte, codes and flags. MXINT8 elements are multiplied by 2⁶ first. Under the scale byte 0xFF
the rule gives no e: it is a free value (DESIGN CHOICE 6). -/
def blockQuant (elem : Nat) (xs : List Fp) : Nat × List Nat × Nat :=
  let sb := blockScale elem xs
  let e0 : Int := if sb = 255 then Config.nanBlockExp elem (xs.map fun x => BitVec.ofNat 32 x.bits32) else (sb : Int) - 127
  let e : Int := e0 - (if elem = 2 then 6 else 0)
  let cs := xs.map fun x => convert elem (x.scale (-e))
  (sb, cs.map (·.1), flagsOr (cs.map (·.2)))

end Sys2Proof.Machine
end

