-- ==== Sys2Proof/Machine/Gate.lean ====
section
/-! DEFINITION. The gate pipeline's functions (R184, R185): each result is a free value within the function's largest error of the
exact result, which is worked out here to over 100 bits in fixed point. -/

namespace Sys2Proof.Machine

/-- Fraction bits of the fixed-point numbers of this file. -/
def fixBits : Nat := 512

/-- One. -/
def fixOne : Nat := 2 ^ fixBits

/-- A finite magnitude as a fixed-point number, truncated. -/
def toFix (m : Nat) (e : Int) : Nat :=
  let k := e + fixBits
  if 0 ≤ k then m * 2 ^ k.toNat else m / 2 ^ (-k).toNat

/-- The terms of the exponential series from term n on. -/
def expSeries : Nat → Nat → Nat → Nat → Nat
  | 0, _, _, _ => 0
  | fuel + 1, n, y, t => t + expSeries fuel (n + 1) y (t * y / fixOne / (n + 1))

/-- A number squared k times. -/
def fixSquare : Nat → Nat → Nat
  | 0, x => x
  | k + 1, x => fixSquare k (x * x / fixOne)

/-- e to a power below 256, in fixed point. -/
def expFix (x : Nat) : Nat := fixSquare 8 (expSeries 120 0 (x / 256) fixOne)

/-- The arctangent series of 1/q from term n on: t is the current power, signs alternate. -/
def atanSeries : Nat → Nat → Nat → Nat → Int
  | 0, _, _, _ => 0
  | fuel + 1, n, q, t => (if n % 2 = 0 then 1 else -1) * ((t / (2 * n + 1) : Nat) : Int) + atanSeries fuel (n + 1) q (t / (q * q))

/-- π, by Machin's formula. -/
def piFix : Nat := (16 * atanSeries 240 0 5 (fixOne / 5) - 4 * atanSeries 80 0 239 (fixOne / 239)).toNat

/-- The series of the normal integral, from term n on: t is x^(2n+1) / (2^n n!). -/
def normSeries : Nat → Nat → Nat → Nat → Int
  | 0, _, _, _ => 0
  | fuel + 1, n, x2, t =>
    (if n % 2 = 0 then 1 else -1) * ((t / (2 * n + 1) : Nat) : Int) + normSeries fuel (n + 1) x2 (t * x2 / fixOne / (2 * (n + 1)))

/-- The integral of the normal density from 0 to x, x at most 16, in fixed point. -/
def normFix (x : Nat) : Int :=
  normSeries 700 0 (x * x / fixOne) x * fixOne / (Nat.sqrt (2 * piFix * fixOne) : Int)

/-- A ratio of naturals with over 128 bits and a sticky bit. -/
def fpRatio (neg : Bool) (a b : Nat) : Fp :=
  if b = 0 then .nan
  else
    let k := 160 + bitLen b
    .fin neg (2 * (a * 2 ^ k / b) + if a * 2 ^ k % b = 0 then 0 else 1) (-(k : Int) - 1)

/-- R184: an exact magnitude lies below 2⁻¹²⁶. -/
def belowNormal (m : Nat) (e : Int) : Bool := decide (m = 0) || decide (e + bitLen m - 1 < -126)

/-- The FP32 values within `k` ulp of an exact result, of which the free value `sel` names one; a result below 2⁻¹²⁶ is zero
(R160). -/
def nearUlps (k sel : Nat) (v : Fp) : Fp :=
  match v with
  | .fin s m e =>
    let r := fmtFP32.encodeMag m e
    if belowNormal m e then .fin s 0 0
    else if r.2 then .inf s
    else
      let c := r.1 + sel % (2 * k + 1) - k
      match fmtFP32.decode c with
      | .fin _ n f =>
        let ulp : Int := e + bitLen m - 1 - 23
        let q := min (min e f) ulp
        let d : Int := (alignTo m e q : Int) - (alignTo n f q : Int)
        if 2 ^ 23 ≤ c && decide (d.natAbs ≤ k * alignTo 1 ulp q) then .fin s n f else fmtFP32.ofMag s r.1
      | _ => fmtFP32.ofMag s r.1
  | y => y

/-- The FP32 code of the largest value not above n · 2^q, where that is a normal number. -/
def floorCode (n : Nat) (q : Int) : Nat :=
  let t := q + bitLen n - 24
  ((t + 149) * 2 ^ 23).toNat + (if q ≤ t then n / 2 ^ (t - q).toNat else n * 2 ^ (q - t).toNat)

/-- The FP32 code of the smallest value not below n · 2^q, where that is a normal number. -/
def ceilCode (n : Nat) (q : Int) : Nat :=
  let t := q + bitLen n - 24
  floorCode n q + (if q ≤ t && n % 2 ^ (t - q).toNat != 0 then 1 else 0)

/-- R184: the least and the greatest FP32 code within k ulp of an exact magnitude of at least 2⁻¹²⁶. The least is held, too, at the k-th code below
the power of two at or below the magnitude, which no monotone function can go under (R185). -/
def ulpRange (k m : Nat) (e : Int) : Nat × Nat :=
  let u : Int := e + bitLen m - 1 - 23
  let q := min e u
  let a := alignTo m e q
  let w := k * alignTo 1 u q
  let base := ((u + 150) * 2 ^ 23).toNat
  (max (max (ceilCode (a - w) q) (base - k)) (2 ^ 23), min (floorCode (a + w) q) fmtFP32.maxCode)

/-- The operands in the order of their values, as naturals. -/
def operandKey (x : Fp) : Nat :=
  match x with
  | .fin s m e => if s then 2 ^ 31 - (fmtFP32.encodeMag m e).1 else 2 ^ 31 + (fmtFP32.encodeMag m e).1
  | _ => 0

/-- R185: the free value of a monotone function at an operand whose exact result rounds to code r (negative for a negative one): the largest of the
values at the levels at or below the operand's, so that it never falls. Levels of codes more than 4 k below r cannot be the largest. -/
def monotoneCode (f k key : Nat) (r : Int) : Int :=
  let at' := fun (d j : Nat) => r - (d : Int) + ((Config.gateLevel f (r - d) j % (4 * k + 1) : Nat) : Int) - 2 * k
  let level := ((List.range (4 * k)).filter fun i => decide (Config.gateStep f r i ≤ key)).length
  let own := (List.range (level + 1)).map (at' 0)
  let below := (List.range (4 * k)).flatMap fun d => (List.range (4 * k + 1)).map (at' (d + 1))
  (own ++ below).foldl max (r - 2 * k)

/-- R184, R185: an FP32 value within k ulp of the exact result v of a monotone function at an operand x; zero below 2⁻¹²⁶, infinity above the largest
FP32 value. -/
def nearMonotone (f k : Nat) (x v : Fp) : Fp :=
  match v with
  | .fin s m e =>
    if belowNormal m e then .fin s 0 0
    else if (fmtFP32.ofMag false fmtFP32.maxCode).lt (.fin false m e) then .inf s
    else
      let r : Int := ((fmtFP32.encodeMag m e).1 : Nat)
      let b := ulpRange k m e
      let lo : Int := if s then -(b.2 : Nat) else (b.1 : Nat)
      let hi : Int := if s then -(b.1 : Nat) else (b.2 : Nat)
      fmtFP32.ofMag s (max lo (min hi (monotoneCode f k (operandKey x) (if s then -r else r)))).natAbs
  | y => y

/-- The exact result of an EPI function at a finite operand, where it is in the FP32 range and not one of R185's; beyond the range
the nearest end: zero, one, the operand or infinity. -/
def gateExact (f : Nat) (s : Bool) (m : Nat) (e : Int) : Fp :=
  let x := toFix m e
  let far := fun (n : Nat) => decide (n * fixOne ≤ x)
  match f with
  | 2 =>
    if far 120 then (if s then .fin true 0 0 else .fin false m e)
    else
      let E := expFix x
      (Fp.fin s m e).mul (if s then fpRatio false fixOne (fixOne + E) else fpRatio false E (fixOne + E))
  | 3 =>
    if far 14 then (if s then .fin true 0 0 else .fin false m e)
    else
      let d := normFix x
      let half : Int := (fixOne / 2 : Nat)
      (Fp.fin s m e).mul (fpRatio false (if s then half - d else half + d).toNat fixOne)
  | 4 =>
    if far 120 then (if s then .fin false 0 0 else .fin false 1 0)
    else
      let E := expFix x
      if s then fpRatio false fixOne (fixOne + E) else fpRatio false E (fixOne + E)
  | 5 =>
    if far 64 then .fin s 1 0
    else
      let E := expFix (2 * x)
      fpRatio s (E - fixOne) (E + fixOne)
  | 6 =>
    if far 120 then (if s then .fin false 0 0 else .inf false)
    else
      let E := expFix x
      if s then fpRatio false fixOne E else fpRatio false E fixOne
  | 7 => fpRatio s (2 ^ (max 0 (-e)).toNat) (m * 2 ^ (max 0 e).toNat)
  | _ => .fin s m e

/-- R184: the largest error of a function, in ulp. -/
def gateUlps : Nat → Nat
  | 2 => 4
  | 3 => 4
  | 4 => 2
  | 5 => 2
  | 6 => 2
  | _ => 1

/-- R184: a result held within the function's range: sigmoid in [0, 1], tanh in [−1, 1]. -/
def gateClamp (f : Nat) (y : Fp) : Fp :=
  let one : Fp := .fin false 1 0
  match f with
  | 4 => if one.lt y then one else y
  | 5 => if one.lt y then one else if y.lt one.negate then one.negate else y
  | _ => y

/-- R142, R184, R185: EPI function f of an FP32 value. -/
def gate (f : Nat) (x : Fp) : Fp :=
  match f, x with
  | 0, x => x
  | _, .nan => .nan
  | 1, .inf s => if s then Fp.zero else .inf false
  | 1, .fin s m e => if s then Fp.zero else .fin false m e
  | 2, .inf s => if s then .fin true 0 0 else .inf false
  | 3, .inf s => if s then .fin true 0 0 else .inf false
  | 4, .inf s => if s then Fp.zero else .fin false 1 0
  | 5, .inf s => .fin s 1 0
  | 6, .inf s => if s then Fp.zero else .inf false
  | 7, .inf s => .fin s 0 0
  | _, .inf s => .inf s
  | f, .fin s m e =>
    if f = 4 || f = 6 then gateClamp f (nearMonotone f (gateUlps f) (.fin s m e) (gateExact f s m e))
    else if m = 0 then (if f = 7 then .inf s else .fin s 0 0)
    else if f = 5 then gateClamp f (nearMonotone f (gateUlps f) (.fin s m e) (gateExact f s m e))
    else nearUlps (gateUlps f) (Config.ulps f (BitVec.ofNat 32 (Fp.fin s m e).bits32)) (gateExact f s m e)

end Sys2Proof.Machine
end

