-- ==== Sys2Proof/Machine/Crypto.lean ====
section
/-! DEFINITION. The published algorithms the manual names: CRC-32 and CRC-16, SHA-384, HMAC, HKDF, AES-256-GCM, ECDSA and ECDH on
P-384 (PRESUMED 4: their standards' text is not in the manual), and the symbol code of R520. -/

namespace Sys2Proof.Machine

/-! ### CRCs -/

/-- R616: one bit step of the reflected CRC-32. -/
def crc32Bit (c : Nat) : Nat := if c % 2 = 1 then (c / 2) ^^^ 0xEDB88320 else c / 2

/-- R616: CRC-32 of IEEE 802.3. -/
def crc32 (bs : List Byte) : Nat :=
  (bs.foldl (fun c b => (List.range 8).foldl (fun c _ => crc32Bit c) (c ^^^ b.toNat)) 0xFFFFFFFF) ^^^ 0xFFFFFFFF

/-- R451: one bit step of the CRC-16. -/
def crc16Bit (c : Nat) : Nat := if bit c 15 then ((2 * c) % 65536) ^^^ 0x1021 else (2 * c) % 65536

/-- R451: CRC-16 with polynomial 0x1021 and initial value 0xFFFF. -/
def crc16 (bs : List Byte) : Nat :=
  bs.foldl (fun c b => (List.range 8).foldl (fun c _ => crc16Bit c) (c ^^^ (b.toNat * 256))) 0xFFFF

/-! ### SHA-384 -/

/-- FIPS 180-4: the 80 round constants of SHA-384. -/
def shaK : List Nat :=
    [0x428A2F98D728AE22, 0x7137449123EF65CD, 0xB5C0FBCFEC4D3B2F, 0xE9B5DBA58189DBBC] ++
    [0x3956C25BF348B538, 0x59F111F1B605D019, 0x923F82A4AF194F9B, 0xAB1C5ED5DA6D8118] ++
    [0xD807AA98A3030242, 0x12835B0145706FBE, 0x243185BE4EE4B28C, 0x550C7DC3D5FFB4E2] ++
    [0x72BE5D74F27B896F, 0x80DEB1FE3B1696B1, 0x9BDC06A725C71235, 0xC19BF174CF692694] ++
    [0xE49B69C19EF14AD2, 0xEFBE4786384F25E3, 0x0FC19DC68B8CD5B5, 0x240CA1CC77AC9C65] ++
    [0x2DE92C6F592B0275, 0x4A7484AA6EA6E483, 0x5CB0A9DCBD41FBD4, 0x76F988DA831153B5] ++
    [0x983E5152EE66DFAB, 0xA831C66D2DB43210, 0xB00327C898FB213F, 0xBF597FC7BEEF0EE4] ++
    [0xC6E00BF33DA88FC2, 0xD5A79147930AA725, 0x06CA6351E003826F, 0x142929670A0E6E70] ++
    [0x27B70A8546D22FFC, 0x2E1B21385C26C926, 0x4D2C6DFC5AC42AED, 0x53380D139D95B3DF] ++
    [0x650A73548BAF63DE, 0x766A0ABB3C77B2A8, 0x81C2C92E47EDAEE6, 0x92722C851482353B] ++
    [0xA2BFE8A14CF10364, 0xA81A664BBC423001, 0xC24B8B70D0F89791, 0xC76C51A30654BE30] ++
    [0xD192E819D6EF5218, 0xD69906245565A910, 0xF40E35855771202A, 0x106AA07032BBD1B8] ++
    [0x19A4C116B8D2D0C8, 0x1E376C085141AB53, 0x2748774CDF8EEB99, 0x34B0BCB5E19B48A8] ++
    [0x391C0CB3C5C95A63, 0x4ED8AA4AE3418ACB, 0x5B9CCA4F7763E373, 0x682E6FF3D6B2B8A3] ++
    [0x748F82EE5DEFB2FC, 0x78A5636F43172F60, 0x84C87814A1F0AB72, 0x8CC702081A6439EC] ++
    [0x90BEFFFA23631E28, 0xA4506CEBDE82BDE9, 0xBEF9A3F7B2C67915, 0xC67178F2E372532B] ++
    [0xCA273ECEEA26619C, 0xD186B8C721C0C207, 0xEADA7DD6CDE0EB1E, 0xF57D4F7FEE6ED178] ++
    [0x06F067AA72176FBA, 0x0A637DC5A2C898A6, 0x113F9804BEF90DAE, 0x1B710B35131C471B] ++
    [0x28DB77F523047D84, 0x32CAAB7B40C72493, 0x3C9EBE0A15C9BEBC, 0x431D67C49C100D4C] ++
    [0x4CC5D4BECB3E42B6, 0x597F299CFC657E2A, 0x5FCB6FAB3AD6FAEC, 0x6C44198C4A475817]

/-- FIPS 180-4: the initial hash value of SHA-384. -/
def shaH : List Nat :=
    [0xCBBB9D5DC1059ED8, 0x629A292A367CD507, 0x9159015A3070DD17, 0x152FECD8F70E5939] ++
    [0x67332667FFC00B31, 0x8EB44A8768581511, 0xDB0C2E0D64F98FA7, 0x47B5481DBEFA4FA4]

/-- FIPS 197: the S-box. -/
def aesS : List Nat :=
    [0x63, 0x7C, 0x77, 0x7B, 0xF2, 0x6B, 0x6F, 0xC5, 0x30, 0x01, 0x67, 0x2B, 0xFE, 0xD7, 0xAB, 0x76] ++
    [0xCA, 0x82, 0xC9, 0x7D, 0xFA, 0x59, 0x47, 0xF0, 0xAD, 0xD4, 0xA2, 0xAF, 0x9C, 0xA4, 0x72, 0xC0] ++
    [0xB7, 0xFD, 0x93, 0x26, 0x36, 0x3F, 0xF7, 0xCC, 0x34, 0xA5, 0xE5, 0xF1, 0x71, 0xD8, 0x31, 0x15] ++
    [0x04, 0xC7, 0x23, 0xC3, 0x18, 0x96, 0x05, 0x9A, 0x07, 0x12, 0x80, 0xE2, 0xEB, 0x27, 0xB2, 0x75] ++
    [0x09, 0x83, 0x2C, 0x1A, 0x1B, 0x6E, 0x5A, 0xA0, 0x52, 0x3B, 0xD6, 0xB3, 0x29, 0xE3, 0x2F, 0x84] ++
    [0x53, 0xD1, 0x00, 0xED, 0x20, 0xFC, 0xB1, 0x5B, 0x6A, 0xCB, 0xBE, 0x39, 0x4A, 0x4C, 0x58, 0xCF] ++
    [0xD0, 0xEF, 0xAA, 0xFB, 0x43, 0x4D, 0x33, 0x85, 0x45, 0xF9, 0x02, 0x7F, 0x50, 0x3C, 0x9F, 0xA8] ++
    [0x51, 0xA3, 0x40, 0x8F, 0x92, 0x9D, 0x38, 0xF5, 0xBC, 0xB6, 0xDA, 0x21, 0x10, 0xFF, 0xF3, 0xD2] ++
    [0xCD, 0x0C, 0x13, 0xEC, 0x5F, 0x97, 0x44, 0x17, 0xC4, 0xA7, 0x7E, 0x3D, 0x64, 0x5D, 0x19, 0x73] ++
    [0x60, 0x81, 0x4F, 0xDC, 0x22, 0x2A, 0x90, 0x88, 0x46, 0xEE, 0xB8, 0x14, 0xDE, 0x5E, 0x0B, 0xDB] ++
    [0xE0, 0x32, 0x3A, 0x0A, 0x49, 0x06, 0x24, 0x5C, 0xC2, 0xD3, 0xAC, 0x62, 0x91, 0x95, 0xE4, 0x79] ++
    [0xE7, 0xC8, 0x37, 0x6D, 0x8D, 0xD5, 0x4E, 0xA9, 0x6C, 0x56, 0xF4, 0xEA, 0x65, 0x7A, 0xAE, 0x08] ++
    [0xBA, 0x78, 0x25, 0x2E, 0x1C, 0xA6, 0xB4, 0xC6, 0xE8, 0xDD, 0x74, 0x1F, 0x4B, 0xBD, 0x8B, 0x8A] ++
    [0x70, 0x3E, 0xB5, 0x66, 0x48, 0x03, 0xF6, 0x0E, 0x61, 0x35, 0x57, 0xB9, 0x86, 0xC1, 0x1D, 0x9E] ++
    [0xE1, 0xF8, 0x98, 0x11, 0x69, 0xD9, 0x8E, 0x94, 0x9B, 0x1E, 0x87, 0xE9, 0xCE, 0x55, 0x28, 0xDF] ++
    [0x8C, 0xA1, 0x89, 0x0D, 0xBF, 0xE6, 0x42, 0x68, 0x41, 0x99, 0x2D, 0x0F, 0xB0, 0x54, 0xBB, 0x16]

/-- A 64-bit rotation right. -/
def ror64 (n x : Nat) : Nat := (x >>> n) ||| ((x <<< (64 - n)) % 2 ^ 64)

/-- One step of the message schedule: the last 16 words, newest first. -/
def shaNext (w : List Nat) : Nat :=
  let a := w.getD 14 0
  let b := w.getD 1 0
  let s0 := ror64 1 a ^^^ ror64 8 a ^^^ (a >>> 7)
  let s1 := ror64 19 b ^^^ ror64 61 b ^^^ (b >>> 6)
  (w.getD 15 0 + s0 + w.getD 6 0 + s1) % 2 ^ 64

/-- The eight working variables. -/
structure ShaVars where
  a : Nat
  b : Nat
  c : Nat
  d : Nat
  e : Nat
  f : Nat
  g : Nat
  h : Nat
  deriving DecidableEq, Repr

/-- One round with constant k and schedule word w. -/
def shaRound (v : ShaVars) (k w : Nat) : ShaVars :=
  let s1 := ror64 14 v.e ^^^ ror64 18 v.e ^^^ ror64 41 v.e
  let ch := (v.e &&& v.f) ^^^ ((2 ^ 64 - 1 - v.e) &&& v.g)
  let t1 := (v.h + s1 + ch + k + w) % 2 ^ 64
  let s0 := ror64 28 v.a ^^^ ror64 34 v.a ^^^ ror64 39 v.a
  let mj := (v.a &&& v.b) ^^^ (v.a &&& v.c) ^^^ (v.b &&& v.c)
  let t2 := (s0 + mj) % 2 ^ 64
  ⟨(t1 + t2) % 2 ^ 64, v.a, v.b, v.c, (v.d + t1) % 2 ^ 64, v.e, v.f, v.g⟩

/-- The rounds of one block: the schedule's window is kept newest first. -/
def shaRounds : List Nat → List Nat → List Nat → ShaVars → ShaVars
  | [], _, _, v => v
  | k :: ks, m :: ms, w, v => shaRounds ks ms (m :: w) (shaRound v k m)
  | k :: ks, [], w, v =>
    let n := shaNext w
    shaRounds ks [] (n :: w.take 15) (shaRound v k n)

/-- One 128-byte block. -/
def shaBlock (h : List Nat) (blk : List Byte) : List Nat :=
  let ms := (List.range 16).map fun i => be (slice blk (8 * i) 8)
  let v0 : ShaVars := ⟨h.getD 0 0, h.getD 1 0, h.getD 2 0, h.getD 3 0, h.getD 4 0, h.getD 5 0, h.getD 6 0, h.getD 7 0⟩
  let v := shaRounds shaK ms [] v0
  [(v0.a + v.a) % 2 ^ 64, (v0.b + v.b) % 2 ^ 64, (v0.c + v.c) % 2 ^ 64, (v0.d + v.d) % 2 ^ 64,
   (v0.e + v.e) % 2 ^ 64, (v0.f + v.f) % 2 ^ 64, (v0.g + v.g) % 2 ^ 64, (v0.h + v.h) % 2 ^ 64]

/-- The blocks of a padded message; the fuel is their count. -/
def shaBlocks : Nat → List Byte → List Nat → List Nat
  | 0, _, h => h
  | n + 1, m, h => shaBlocks n (m.drop 128) (shaBlock h (m.take 128))

/-- FIPS 180-4: SHA-384. -/
def sha384 (m : List Byte) : List Byte :=
  let z := (239 - m.length % 128) % 128
  let p := m ++ [0x80#8] ++ List.replicate z 0 ++ beBytes 16 (8 * m.length)
  ((shaBlocks (p.length / 128) p shaH).take 6).flatMap (beBytes 8)

/-- RFC 2104: HMAC-SHA-384. -/
def hmac (key msg : List Byte) : List Byte :=
  let k := fit (if key.length > 128 then sha384 key else key) 128
  sha384 ((k.map (· ^^^ 0x5C#8)) ++ sha384 ((k.map (· ^^^ 0x36#8)) ++ msg))

/-- RFC 5869: 32 bytes of HKDF-SHA-384. -/
def hkdf32 (salt ikm info : List Byte) : List Byte := (hmac (hmac salt ikm) (info ++ [1#8])).take 32

/-! ### AES-256-GCM -/

/-- The S-box on a byte. -/
def subByte (b : Byte) : Byte := BitVec.ofNat 8 (aesS.getD b.toNat 0)

/-- Multiplication by x in AES's field. -/
def xtime (b : Byte) : Byte := if b.msb then (b <<< 1) ^^^ 0x1B#8 else b <<< 1

/-- The exclusive or of byte lists. -/
def xorBytes (a b : List Byte) : List Byte := List.zipWith (· ^^^ ·) a b

/-- FIPS 197: the key schedule's words, oldest first; the fuel counts words to add. -/
def aesExpand : Nat → List (List Byte) → List (List Byte)
  | 0, ws => ws
  | n + 1, ws =>
    let i := ws.length
    let t := ws.getD (i - 1) []
    let t' :=
      if i % 8 = 0 then
        let r := (t.drop 1 ++ t.take 1).map subByte
        xorBytes r [(List.range (i / 8 - 1)).foldl (fun b _ => xtime b) 1#8, 0, 0, 0]
      else if i % 8 = 4 then t.map subByte else t
    aesExpand n (ws ++ [xorBytes (ws.getD (i - 8) []) t'])

/-- ShiftRows on a column-major block. -/
def shiftRows (b : List Byte) : List Byte := (List.range 16).map fun i => b.getD ((i + 4 * (i % 4)) % 16) 0

/-- MixColumns on one column. -/
def mixColumn (c : List Byte) : List Byte :=
  (List.range 4).map fun i =>
    let x := c.getD i 0
    let y := c.getD ((i + 1) % 4) 0
    xtime x ^^^ (xtime y ^^^ y) ^^^ c.getD ((i + 2) % 4) 0 ^^^ c.getD ((i + 3) % 4) 0

/-- FIPS 197: AES-256 of one block under expanded words. -/
def aesBlock (ws : List (List Byte)) (b : List Byte) : List Byte :=
  let rk := fun (r : Nat) => ((ws.drop (4 * r)).take 4).flatten
  let st := (List.range 13).foldl (fun st r =>
    let t := shiftRows (st.map subByte)
    let t := (List.range 4).flatMap fun i => mixColumn (slice t (4 * i) 4)
    xorBytes t (rk (r + 1))) (xorBytes b (rk 0))
  xorBytes (shiftRows (st.map subByte)) (rk 14)

/-- The key words of a 32-byte key. -/
def aesKey (key : List Byte) : List (List Byte) :=
  aesExpand 52 ((List.range 8).map fun i => slice (fit key 32) (4 * i) 4)

/-- Multiplication in GCM's field, bit 0 the most significant. -/
def gfMul (x y : Nat) : Nat :=
  ((List.range 128).foldl (fun (zv : Nat × Nat) i =>
    let z := if bit x (127 - i) then zv.1 ^^^ zv.2 else zv.1
    let v := if zv.2 % 2 = 1 then (zv.2 / 2) ^^^ (0xE1 * 2 ^ 120) else zv.2 / 2
    (z, v)) (0, y)).1

/-- GHASH of whole blocks; the fuel is their count. -/
def ghash (h : Nat) : Nat → List Byte → Nat → Nat
  | 0, _, y => y
  | n + 1, m, y => ghash h n (m.drop 16) (gfMul (y ^^^ be (m.take 16)) h)

/-- Padding to whole 16-byte blocks. -/
def pad16 (m : List Byte) : List Byte := m ++ List.replicate ((16 - m.length % 16) % 16) 0

/-- Counter mode from counter block number `n` on; the fuel is the number of blocks. -/
def ctr (ws : List (List Byte)) (iv : List Byte) : Nat → Nat → List Byte → List Byte
  | 0, _, _ => []
  | f + 1, n, m => xorBytes (m.take 16) (aesBlock ws (iv ++ beBytes 4 n)) ++ ctr ws iv f (n + 1) (m.drop 16)

/-- SP 800-38D: the tag of a ciphertext. -/
def gcmTag (ws : List (List Byte)) (iv aad c : List Byte) : List Byte :=
  let h := be (aesBlock ws (List.replicate 16 0))
  let m := pad16 aad ++ pad16 c ++ beBytes 8 (8 * aad.length) ++ beBytes 8 (8 * c.length)
  xorBytes (beBytes 16 (ghash h (m.length / 16) m 0)) (aesBlock ws (iv ++ beBytes 4 1))

/-- SP 800-38D: AES-256-GCM encryption with a 12-byte IV: ciphertext and 16-byte tag. -/
def gcmSeal (key iv aad p : List Byte) : List Byte × List Byte :=
  let ws := aesKey key
  let c := ctr ws iv (cdiv p.length 16) 2 p
  (c, gcmTag ws iv aad c)

/-- SP 800-38D: AES-256-GCM decryption; none when the tag fails. -/
def gcmOpen (key iv aad c tag : List Byte) : Option (List Byte) :=
  let ws := aesKey key
  if gcmTag ws iv aad c = tag then some (ctr ws iv (cdiv c.length 16) 2 c) else none

/-! ### P-384 -/

/-- The field prime. -/
def p384P : Nat := 2 ^ 384 - 2 ^ 128 - 2 ^ 96 + 2 ^ 32 - 1
/-- The group order. -/
def p384N : Nat :=
  0xFFFFFFFFFFFFFFFFFFFFFFFFFFFFFFFFFFFFFFFFFFFFFFFFC7634D81F4372DDF581A0DB248B0A77AECEC196ACCC52973
/-- The curve's b. -/
def p384B : Nat :=
  0xB3312FA7E23EE7E4988E056BE3F82D19181D9C6EFE8141120314088F5013875AC656398D8A2ED19D2A85C8EDD3EC2AEF
/-- The base point. -/
def p384G : Nat × Nat :=
  (0xAA87CA22BE8B05378EB1C71EF320AD746E1D3B628BA79B9859F741E082542A385502F25DBF55296C3A545E3872760AB7,
   0x3617DE4A96262C6F5D9E98BF9292DC29F8F41DBD289A147CE9DA3113B5F0B8C00A60B1CE1D7E819D7A431D7C90EA0E5F)

/-- Modular power; the fuel counts exponent bits. -/
def powMod (m : Nat) : Nat → Nat → Nat → Nat → Nat
  | 0, _, _, r => r
  | f + 1, b, e, r => powMod m f (b * b % m) (e / 2) (if e % 2 = 1 then r * b % m else r)

/-- The inverse modulo a prime of at most 384 bits. -/
def invMod (m x : Nat) : Nat := powMod m 384 (x % m) (m - 2) 1

/-- A Jacobian point; Z = 0 is the point at infinity. -/
structure Jac where
  x : Nat
  y : Nat
  z : Nat
  deriving DecidableEq, Repr

/-- Doubling, with a = -3. -/
def Jac.dbl (p : Jac) : Jac :=
  let q := p384P
  if p.z = 0 || p.y = 0 then ⟨1, 1, 0⟩ else
  let zz := p.z * p.z % q
  let m := 3 * (p.x + q - zz) * (p.x + zz) % q
  let yy := p.y * p.y % q
  let s := 4 * p.x * yy % q
  let x := (m * m + 2 * (q - s)) % q
  ⟨x, (m * (s + q - x) + (q - 8 * yy * yy % q)) % q, 2 * p.y * p.z % q⟩

/-- Addition. -/
def Jac.add (p r : Jac) : Jac :=
  let q := p384P
  if p.z = 0 then r else if r.z = 0 then p else
  let z1 := p.z * p.z % q
  let z2 := r.z * r.z % q
  let u1 := p.x * z2 % q
  let u2 := r.x * z1 % q
  let s1 := p.y * z2 * r.z % q
  let s2 := r.y * z1 * p.z % q
  if u1 = u2 then (if s1 = s2 then p.dbl else ⟨1, 1, 0⟩) else
  let h := (u2 + q - u1) % q
  let t := (s2 + q - s1) % q
  let hh := h * h % q
  let hhh := h * hh % q
  let v := u1 * hh % q
  let x := (t * t + (q - hhh) + 2 * (q - v)) % q
  ⟨x, (t * (v + q - x) + (q - s1 * hhh % q)) % q, h * p.z * r.z % q⟩

/-- Scalar multiplication; the fuel counts scalar bits. -/
def Jac.mul : Nat → Nat → Jac → Jac → Jac
  | 0, _, _, acc => acc
  | f + 1, k, p, acc => Jac.mul f (k / 2) p.dbl (if k % 2 = 1 then acc.add p else acc)

/-- Affine coordinates; none at infinity. -/
def Jac.affine (p : Jac) : Option (Nat × Nat) :=
  if p.z = 0 then none else
  let i := invMod p384P p.z
  let ii := i * i % p384P
  some (p.x * ii % p384P, p.y * ii * i % p384P)

/-- A scalar times an affine point. -/
def ecMul (k : Nat) (p : Nat × Nat) : Option (Nat × Nat) := (Jac.mul 384 (k % p384N) ⟨p.1, p.2, 1⟩ ⟨1, 1, 0⟩).affine

/-- R490: a public key's bytes, x then y, read as a point of the curve. -/
def ecPoint (key : List Byte) : Option (Nat × Nat) :=
  let x := be (slice key 0 48)
  let y := be (slice key 48 48)
  if key.length = 96 ∧ x < p384P ∧ y < p384P ∧ y * y % p384P = (x * x * x + (p384P - 3) * x + p384B) % p384P
  then some (x, y) else none

/-- R490: a point's bytes, x then y, 48 B big-endian each. -/
def ecBytes (p : Nat × Nat) : List Byte := beBytes 48 p.1 ++ beBytes 48 p.2

/-- FIPS 186-5: an ECDSA P-384 signature, r then s, of a SHA-384 hash under a public key. -/
def ecdsaOk (key hash sig : List Byte) : Bool :=
  match ecPoint key with
  | none => false
  | some q =>
    let r := be (slice sig 0 48)
    let s := be (slice sig 48 48)
    if sig.length = 96 ∧ 0 < r ∧ r < p384N ∧ 0 < s ∧ s < p384N then
      let w := invMod p384N s
      let u1 := be hash * w % p384N
      let u2 := r * w % p384N
      match ((Jac.mul 384 u1 ⟨p384G.1, p384G.2, 1⟩ ⟨1, 1, 0⟩).add (Jac.mul 384 u2 ⟨q.1, q.2, 1⟩ ⟨1, 1, 0⟩)).affine with
      | none => false
      | some (x, _) => x % p384N == r
    else false

/-- R490: ECDH: the x-coordinate of the shared secret. -/
def ecdh (priv : Nat) (peer : List Byte) : Option (List Byte) :=
  ((ecPoint peer).bind fun q => ecMul priv q).map fun p => beBytes 48 p.1

/-! ### The symbol code -/

/-- R520: multiplication by x in GF(2^8). -/
def rsX (a : Nat) : Nat := if 2 * a ≥ 256 then (2 * a) ^^^ 0x11D else 2 * a

/-- R520: multiplication in GF(2^8). -/
def rsMul (a b : Nat) : Nat :=
  ((List.range 8).foldl (fun (rp : Nat × Nat) i => (if bit b i then rp.1 ^^^ rp.2 else rp.1, rsX rp.2)) (0, a)).1

/-- R520: α^n. -/
def rsPow (n : Nat) : Nat := (List.range n).foldl (fun a _ => rsX a) 1

/-- R522: syndrome j of a codeword, symbols by position. -/
def rsSyndrome (c : List Nat) (j : Nat) : Nat :=
  c.reverse.foldl (fun acc s => rsMul acc (rsPow j) ^^^ s) 0

/-- R520: g(x) = (x - 1)(x - α)(x - α²)(x - α³), coefficients of x⁰ to x³ (the leading one is 1). -/
def rsGen : List Nat :=
  let mul := fun (p : List Nat) (r : Nat) => List.zipWith (· ^^^ ·) (0 :: p) (p.map (rsMul r) ++ [0])
  ((List.range 4).foldl (fun p i => mul p (rsPow i)) [1]).take 4

/-- R520: the four check symbols of a 32-byte data word. -/
def rsCheck (data : List Byte) : List Nat :=
  data.reverse.foldl (fun r d =>
    let f := (r.getD 3 0) ^^^ d.toNat
    List.zipWith (fun a g => a ^^^ rsMul g f) (0 :: r.take 3) rsGen) [0, 0, 0, 0]

/-- R522: what a reader finds in a codeword: 0 clean, 1 correctable (with its position), 2 uncorrectable. -/
def rsDecode (c : List Nat) : Nat × Nat :=
  let s := (List.range 4).map (rsSyndrome c)
  if s.all (· == 0) then (0, 0) else
  match (List.range 36).find? fun p =>
      let b := rsPow p
      s.getD 0 0 != 0 && s.getD 1 0 == rsMul (s.getD 0 0) b && s.getD 2 0 == rsMul (s.getD 1 0) b
        && s.getD 3 0 == rsMul (s.getD 2 0) b with
  | some p => (1, p)
  | none => (2, 0)

/-- R522: the 36 symbols with the one at a position corrected by adding S0. -/
def rsCorrect (c : List Nat) (p : Nat) : List Nat := c.mapIdx fun i s => if i = p then s ^^^ rsSyndrome c 0 else s

/-- R534: the pattern of a marker whose four check symbols are `m`. -/
def markerWord (m : Nat) : List Nat := List.replicate 4 m ++ List.replicate 32 0

/-- R534: UNWRITTEN and POISON. -/
def unwrittenWord : List Nat := markerWord 0xA5
def poisonWord : List Nat := markerWord 0x5A

/-- The positions at which two words of 36 symbols differ. -/
def symbolsApart (a b : List Nat) : List Nat := (List.range 36).filter fun p => a.getD p 0 != b.getD p 0

/-- R522: what a reader makes of a stored SRAM word. -/
inductive WordRead where
  /-- a codeword -/
  | clean
  /-- data with one symbol in error: the word as corrected, and the position -/
  | corrected (word : List Nat) (position : Nat)
  /-- the marker UNWRITTEN or, with `poison`, POISON; where one symbol is in error its position -/
  | marker (poison : Bool) (position : Option Nat)
  /-- none of these -/
  | uncorrectable
  deriving DecidableEq, Repr

/-- R522: a stored SRAM word is compared with the markers before it is decoded. -/
def sramRead (c : List Nat) : WordRead :=
  let u := symbolsApart c unwrittenWord
  let p := symbolsApart c poisonWord
  if u.length ≤ 1 then .marker false u.head?
  else if p.length ≤ 1 then .marker true p.head?
  else
    match rsDecode c with
    | (0, _) => .clean
    | (1, q) => .corrected (rsCorrect c q) q
    | _ => .uncorrectable

/-- R525: what is written back over a stored word that is read; none where nothing is. -/
def writeBack (c : List Nat) : Option (List Nat) :=
  match sramRead c with
  | .corrected w _ => some w
  | .marker poison (some _) => some (if poison then poisonWord else unwrittenWord)
  | _ => none

end Sys2Proof.Machine
end

