-- ==== Sys2Proof/Machine/Ops.lean ====
section
/-! DEFINITION. The named operations over the state that every family uses: a hall, gallery, core or context of the package,
the image's entries, the event log, held events, counters, free values. -/

namespace Sys2Proof.Machine

/-! ### Halls and units -/

/-- The hall of an index. -/
def State.hall (s : State) : HallId → Hall
  | .a => s.a
  | .b => s.b

/-- The state with one hall changed. -/
def State.onHall (s : State) (h : HallId) (f : Hall → Hall) : State :=
  match h with
  | .a => { s with a := f s.a }
  | .b => { s with b := f s.b }

/-- R6: the hall of a host port. -/
def portHall (p : Nat) : HallId := if p < 2 then .a else .b

/-- R483: a host port's local index. -/
def portIdx (p : Nat) : Nat := p % 2

/-- A host port of the package. -/
def State.port (s : State) (p : Nat) : Port := ((s.hall (portHall p)).ports[portIdx p]?).getD Port.reset

/-- The state with a host port changed. -/
def State.onPort (s : State) (p : Nat) (f : Port → Port) : State :=
  s.onHall (portHall p) fun H => { H with ports := modAt H.ports (portIdx p) f }

/-- A gallery of a hall. -/
def Hall.gal (H : Hall) (g : Nat) : Gallery := (H.gals[g]?).getD Gallery.reset

/-- A hall with a gallery changed. -/
def Hall.onGal (H : Hall) (g : Nat) (f : Gallery → Gallery) : Hall := { H with gals := modAt H.gals g f }

/-- A core of a hall. -/
def Hall.core (H : Hall) (c : Nat) : Core := (H.cores[c]?).getD Core.reset

/-- A hall with a core changed. -/
def Hall.onCore (H : Hall) (c : Nat) (f : Core → Core) : Hall := { H with cores := modAt H.cores c f }

/-- R22: the gallery of a core. -/
def galOf (c : Nat) : Nat := c / 12

/-- A context of a hall. -/
def Hall.ctx (H : Hall) (n : Nat) : Option Ctx := H.ctxs.find? fun x => x.num == n

/-- A hall with a context changed. -/
def Hall.onCtx (H : Hall) (n : Nat) (f : Ctx → Ctx) : Hall :=
  { H with ctxs := H.ctxs.map fun x => if x.num = n then f x else x }

/-- A partition's schedule state. -/
def Hall.part (H : Hall) (p : Nat) : PartState := (H.swp.parts[p]?).getD PartState.reset

/-- A hall with a partition's schedule state changed. -/
def Hall.onPart (H : Hall) (p : Nat) (f : PartState → PartState) : Hall :=
  { H with swp := { H.swp with parts := modAt H.swp.parts p f } }

/-- R57: core c of the hall is fenced. -/
def Hall.fenced (H : Hall) (c : Nat) : Bool := ((H.gal (galOf c)).fence.val).getLsbD (c % 12)

/-- GAL_CTL.PARTITION of a gallery (R52, R598); none for 0x1F. -/
def Gallery.partition (g : Gallery) : Option Nat := if g.part.val.toNat < 16 then some g.part.val.toNat else none

/-! ### The image -/

/-- The active image of a hall. -/
def Hall.image (H : Hall) : Option Image := H.dev.image

/-- R71: the PARTITIONS entry of partition p in an image. -/
def Image.part (im : Image) (p : Nat) : Option PartEntry := im.partitions.find? fun e => e.part == p

/-- R71: a partition's gallery mask in a hall. -/
def PartEntry.gals (e : PartEntry) (h : Nat) : Nat := if h = 0 then e.galA else e.galB

/-- R53: the partition is paired. -/
def PartEntry.paired (e : PartEntry) : Bool := e.kind == 1

/-- R71: the partition's sync-cell range in a hall. -/
def PartEntry.sync (e : PartEntry) (h : Nat) : Nat × Nat :=
  if h = 0 then (e.syncBaseA, e.syncCountA) else (e.syncBaseB, e.syncCountB)

/-- R71: its context quota. -/
def PartEntry.contexts (e : PartEntry) (h : Nat) : Nat := if h = 0 then e.contextsA else e.contextsB

/-- R71: its gather-slot quota. -/
def PartEntry.gather (e : PartEntry) (h : Nat) : Nat := if h = 0 then e.gatherA else e.gatherB

/-- R71: its frame quota. -/
def PartEntry.frames (e : PartEntry) (h : Nat) : Nat := if h = 0 then e.framesA else e.framesB

/-- The active image's entry of a partition, in a hall. -/
def Hall.partEntry (H : Hall) (p : Nat) : Option PartEntry := H.image.bind fun im => im.part p

/-- R74: the RIGHTS entry of a host port in the active image. -/
def Hall.rightsEntry (H : Hall) (p : Nat) : Option RightsEntry :=
  H.image.bind fun im => im.rights.find? fun e => e.port == p

/-- R74: a port holds right `r`. -/
def Hall.hasRight (H : Hall) (p r : Nat) : Bool :=
  match H.rightsEntry p with
  | none => false
  | some e => bit e.rights r

/-- R74: a partition is in a port's PARTS. -/
def Hall.hasPart (H : Hall) (p part : Nat) : Bool :=
  match H.rightsEntry p with
  | none => false
  | some e => bit e.parts part

/-- R53: the image declares a paired partition. -/
def Image.hasPaired (im : Image) : Bool := im.partitions.any fun e => e.paired

/-- R484: the TENANCY entry of a domain. -/
def Image.tenant (im : Image) (d : Nat) : Option TenantEntry := im.tenancy.find? fun e => e.domain == d

/-- R484: the domain's extent in a hall, base and length in 64 KB units. -/
def TenantEntry.extent (e : TenantEntry) (h : Nat) : Nat × Nat :=
  if h = 0 then (e.extentBaseA, e.extentLenA) else (e.extentBaseB, e.extentLenB)

/-- R486: a domain of the hall. -/
def Hall.dom (H : Hall) (d : Nat) : Option Dom := H.sec.doms.find? fun x => x.num == d

/-- R486: the voted binding lets domain d run in partition p. -/
def Hall.domIn (H : Hall) (d p : Nat) : Bool :=
  match H.dom d with
  | none => false
  | some x => x.bind.val.getLsbD 16 && x.bind.val.getLsbD p

/-- R107: a table of the active image. -/
def Image.table (im : Image) (t : Nat) : Option SweepTable := im.tables.find? fun x => x.table == t

/-- R82: the table in force of a partition in a hall. -/
def Hall.tableOf (H : Hall) (p : Nat) : Option SweepTable :=
  H.image.bind fun im => im.table (H.part p).table.val.toNat

/-- R58, R60: a gallery works: in RUN. -/
def Hall.working (H : Hall) (g : Nat) : Bool := (H.gal g).st == .run

/-- R82: the working galleries of a partition in a hall, ascending. -/
def Hall.workingOf (H : Hall) (p : Nat) : List Nat :=
  (List.range 8).filter fun g => (H.gal g).partition == some p && H.working g && !(H.gal g).added

/-- R78: the gallery that logical gallery j of a partition maps to. -/
def Hall.mapLog (H : Hall) (p j : Nat) : Option Nat := (H.workingOf p)[j]?

/-! ### The event log and held events -/

/-- R468: event `e` held for local port `i`, or counted in an OVERFLOW event that replaces the newest. -/
def Port.hold (P : Port) (e : Event) : Port :=
  if P.events.length < 64 then { P with events := P.events ++ [e] }
  else
    let old := P.events.getLast?
    let lost := match old with
      | some o => if o.mand = 6 then le o.payload + 1 else 2
      | none => 1
    { P with
      events := P.events.dropLast ++ [⟨6, 0, leBytes 2 (min lost 0xFFFF), false⟩]
      ibiLost := satAdd 0xFF P.ibiLost (if (old.map (·.mand)) = some 6 then 1 else 2) }

/-- R467, R468: an event for host port p. -/
def State.event (s : State) (p : Nat) (e : Event) : State := s.onPort p fun P => P.hold e

/-- A list with an event put in before those of a higher mandatory byte, or of the same and a higher context handle. -/
def insertEvent (e : Event) : List Event → List Event
  | [] => [e]
  | x :: r => if e.mand < x.mand || (e.mand == x.mand && decide (e.key < x.key)) then e :: x :: r else x :: insertEvent e r

/-- R468: the events that one cycle has raised stand in ascending mandatory byte, then ascending context handle: those after the first `n`. -/
def Port.sortEvents (P : Port) (n : Nat) : Port :=
  { P with events := P.events.take n ++ (P.events.drop n).foldl (fun l e => insertEvent e l) [] }

/-- A log entry put in before the entries that follow it, past those of a lower CODE, or of the same CODE and a lower UNIT. -/
def insertLog (e : LogEntry) : List LogEntry → List LogEntry
  | [] => [e]
  | x :: r => if x.port ≠ 0 || e.code * 256 + e.unit ≤ x.code * 256 + x.unit then e :: x :: r else x :: insertLog e r

/-- R600: the order of the entries that one command makes: those of the device by CODE and UNIT. An entry that a port's word causes falls in that
word's own cycle (R591) and keeps its place. -/
def orderLog : List LogEntry → List LogEntry
  | [] => []
  | e :: r => if e.port ≠ 0 then e :: orderLog r else insertLog e (orderLog r)

/-- R600: the entries made since NEXT_SEQ was `n` take consecutive numbers in their order. -/
def Hall.sortLog (H : Hall) (n : Nat) : Hall :=
  let k := H.dev.log.length - min H.dev.log.length ((H.dev.nextSeq + 2 ^ 32 - n) % 2 ^ 32)
  let new := H.dev.log.drop k
  if new.length < 2 then H
  else
    { H with dev := { H.dev with log := H.dev.log.take k ++ List.zipWith (fun (e old : LogEntry) => { e with seq := old.seq }) (orderLog new) new } }

/-- R468, R600: a step whose events and log entries fall in one cycle. -/
def State.inCycle (s : State) (f : State → State) : State :=
  let t0 := f s
  let t := { t0 with a := t0.a.sortLog s.a.dev.nextSeq, b := t0.b.sortLog s.b.dev.nextSeq }
  (List.range 4).foldl (fun (t : State) p => t.onPort p fun P => P.sortEvents (s.port p).events.length) t

/-- R467: a DEVICE event to the hall's ports that hold HEALTH or SAFETY. -/
def State.deviceEvent (s : State) (h : HallId) (code arg : Nat) : State :=
  [2 * h.idx, 2 * h.idx + 1].foldl (fun s p =>
    if (s.hall h).hasRight p 4 || (s.hall h).hasRight p 7 then
      s.event p ⟨5, 0, leBytes 2 code ++ leBytes 2 arg, false⟩ else s) s

/-- R600: an entry written to a hall's log. -/
def Hall.addLog (H : Hall) (code unit arg port : Nat) : Hall :=
  let e : LogEntry :=
    { seq := H.dev.nextSeq, sweep := H.swp.sweep, tick := H.swp.tick, code := code, arg := arg % 65536,
      unit := unit % 256, port := port }
  let l := H.dev.log ++ [e]
  { H with dev := { H.dev with log := l.drop (l.length - 256), nextSeq := (H.dev.nextSeq + 1) % 2 ^ 32 } }

/-- R600: an entry that the device causes. -/
def State.log (s : State) (h : HallId) (code unit arg : Nat) : State := s.onHall h fun H => H.addLog code unit arg 0

/-- R600, R601: an entry that host port p causes, limited to 16 a sweep. -/
def State.logPort (s : State) (h : HallId) (p code unit arg : Nat) : State :=
  let P := s.port p
  if P.logged < 16 then
    (s.onHall h fun H => H.addLog code unit arg (p + 1)).onPort p fun P => { P with logged := P.logged + 1 }
  else s.onHall h fun H => { H with dev := { H.dev with suppressed := inc16 H.dev.suppressed } }

/-- R602: an event that the table does not list: event 0xFF of its block, UNIT the instance, ARG the register's offset
divided by 4. -/
def State.logOther (s : State) (h : HallId) (block unit off : Nat) : State :=
  s.log h (0x100 * block + 0xFF) unit (off / 4)

/-! ### Counters -/

/-- R580: counter n adds k; a chained successor counts the wraps. The fuel bounds the chain. -/
def Cnt.bump (c : Cnt) : Nat → Nat → Nat → Cnt
  | 0, _, _ => c
  | fuel + 1, n, k =>
    if k = 0 then c else
    let v := tget c.live n + k
    let c' := { c with live := tset c.live n (v % 2 ^ 48) }
    if c.chain.contains n && decide (n < 2047) then c'.bump fuel (n + 1) (v / 2 ^ 48) else c'

/-- R585: samplers whose counter's low P bits wrapped from `old` to `new` take a sample. -/
def Cnt.wrapped (c : Cnt) (n old k sweep tick : Nat) : Cnt :=
  { c with samplers := c.samplers.map fun x =>
      if x.en && x.counter == n && x.wrap.isNone && decide ((old % 2 ^ x.p + k) ≥ 2 ^ x.p) then
        { x with wrap := some (sweep, tick) } else x }

/-- R576, R580: event counter n adds k; while the one below it is chained into it, it stops counting its own event. -/
def Hall.count (H : Hall) (n k : Nat) : Hall :=
  if decide (0 < n) && H.cnt.chain.contains (n - 1) then H
  else { H with cnt := (H.cnt.bump 2049 n k).wrapped n (tget H.cnt.live n) k H.swp.sweep H.swp.tick }

/-- R577: an event marked K, in units of 1,024 with the remainder carried. -/
def Hall.countK (H : Hall) (n k : Nat) : Hall :=
  let t := tget H.cnt.rem n + k
  let H' := { H with cnt := { H.cnt with rem := tset H.cnt.rem n (t % 1024) } }
  H'.count n (t / 1024)

/-- A counter event in a hall of the package. -/
def State.count (s : State) (h : HallId) (n k : Nat) : State := s.onHall h fun H => H.count n k

/-! ### Free values -/

/-- R490: `n` random bytes drawn from the generator. -/
def State.draw (s : State) (n : Nat) : List Byte × State :=
  ((List.range n).map fun i => Config.random (s.free + i), { s with free := s.free + n })

/-! ### Time -/

/-- R542: the sweep's tick stamp, 16 bits (R334). -/
def Hall.stamp (H : Hall) : Nat := (H.swp.sweep * 4096 + H.swp.tick) % 65536

/-- R76: NOMINAL_US in timebase cycles. -/
def Timebase.nominal (t : Timebase) : Nat := 100 * t.nominalUs

/-- R99, R119: the period that the ticks of the current sweep divide. -/
def Hall.period (H : Hall) : Nat := H.swp.per

/-- R99: when tick n of the current sweep begins. -/
def Hall.tickStart (H : Hall) (n : Nat) : Nat := H.swp.t0 + n * H.period / 4096

/-- The coded lock state (R97, R41). -/
def Lock.code : Lock → Nat
  | .unlocked => 0
  | .locked => 1
  | .stretch => 2
  | .holdover => 3
  | .generator => 4

/-- The coded mode (R56, R41). -/
def Mode.code : Mode → Nat
  | .single => 0
  | .split => 1
  | .paired => 2
  | .partnerLost => 3

end Sys2Proof.Machine
end

