-- ==== Sys2Proof/Machine/Tiers.lean ====
section
/-! DEFINITION. The memory tiers (10): what software may address, DRAM lines and channels, reads and writes of the stores, page
frames and the Cullet list, and sync-cell values. -/

namespace Sys2Proof.Machine

/-- R27: bytes of an operand store. -/
def opSize : Nat := 1048576
/-- R28: bytes of a gallery store. -/
def galSize : Nat := 6291456
/-- R27: first byte of the halo region. -/
def haloBase : Nat := 0xF0000

/-- R322: the floor of a gallery store. -/
def Gallery.floor (g : Gallery) : Nat := galSize - 65536 * g.area

/-- R207: the frame size of a code. -/
def frameSize (code : Nat) : Nat := 4096 * 2 ^ code

/-- Two byte ranges, first and last byte included, share a byte. -/
def overlaps (a b c d : Nat) : Bool := decide (a ≤ d) && decide (c ≤ b)

/-- R195: the parameters of the caches of the hall and of those that a CREATE in flight has reserved. -/
def Hall.pools (H : Hall) : List CacheParam :=
  (H.mem.caches.map fun c => c.prm)
    ++ H.ctxs.flatMap fun x => x.cmds.filterMap fun k => if k.stage = .running then k.built.create.map (·.2) else none

/-- R195: the bytes from a on for n overlap a gather-slot pool in gallery g. -/
def Hall.inPool (H : Hall) (g a n : Nat) : Bool :=
  H.pools.any fun p => p.slotGal == g && overlaps a (a + n - 1) p.slotBase (p.slotBase + p.slotCount * frameSize p.frameCode - 1)

/-- R322: a gallery-store range is permitted to partition `part`. -/
def Hall.galOk (H : Hall) (part g a n : Nat) : Bool :=
  decide (g < 8) && (H.gal g).partition == some part && decide (a + n ≤ (H.gal g).floor) && !(decide (0 < n) && H.inPool g a n)

/-- R302: a footprint of 4 KB units covers n bytes from a on. -/
def footprintOk (fp : List (Nat × Nat)) (a n : Nat) : Bool :=
  decide (a + n ≤ opSize) &&
    (if n = 0 then true else
      (List.range' (a / 4096) ((a + n - 1) / 4096 - a / 4096 + 1)).all fun u =>
        fp.any fun e => decide (e.1 ≤ u) && decide (u < e.1 + e.2))

/-! ### DRAM -/

/-- R328: the working channels of a hall, ascending. -/
def Mem.channels (m : Mem) : List Nat := (List.range 32).filter fun c => m.chanGood.getLsbD c

/-- R330: bytes of one rank's channel for a density code. -/
def densityBytes : Nat → Nat
  | 0 => 2 ^ 30
  | 1 => 3 * 2 ^ 29
  | 2 => 2 ^ 31
  | 3 => 3 * 2 ^ 30
  | _ => 2 ^ 32

/-- R324: U, 8/9 of the working channels' capacity rounded down to 64 KB. -/
def Mem.usable (m : Mem) : Nat :=
  m.channels.length * densityBytes m.density * m.ranks * 8 / 9 / 65536 * 65536

/-- R324: FRAME_BASE. -/
def Mem.frameBase (m : Mem) : Nat := m.usable - m.total * 65536

/-- R327: the channel of a hall DRAM line. -/
def Mem.lineChannel (m : Mem) (l : Nat) : Nat :=
  let w := m.channels.length
  if w = 0 then 0 else
  let g := l / w
  let h := bits g 0 5 ^^^ bits g 5 5 ^^^ bits g 10 5 ^^^ bits g 15 5 ^^^ bits g 20 5 ^^^ bits g 25 5 ^^^ bits g 30 2
  m.channels.getD ((l % w + h) % w) 0

/-- R535, R509, R515: which loss of contents the byte at an address has seen last. -/
def Mem.dramEpoch (m : Mem) (a : Nat) : Nat :=
  2 ^ 64 * m.dramGen + (m.dramLost.filter fun r => decide (r.1 ≤ a) && decide (a < r.1 + r.2)).length

/-- One byte of hall DRAM as a program reads it; an unwritten one is a free value (R535). -/
def Hall.dramByte (H : Hall) (h a : Nat) : Byte := (cellAt H.mem.dram.cells a).getD (Config.dramFill h (H.mem.dramEpoch a) a)

/-- R515: the n bytes of hall DRAM from a on can no longer be read. -/
def Hall.dramLose (H : Hall) (a n : Nat) : Hall :=
  { H with mem := { H.mem with
      dram := ⟨H.mem.dram.cells.filter fun c => !(decide (a ≤ c.1) && decide (c.1 < a + n))⟩
      dramLost := if n = 0 then H.mem.dramLost else H.mem.dramLost ++ [(a, n)] } }

/-- Bytes of hall DRAM. -/
def Hall.dramRead (H : Hall) (h a n : Nat) : List Byte := (List.range n).map fun i => H.dramByte h (a + i)

/-- The 256 B lines that n bytes from a on touch. -/
def linesOf (a n : Nat) : List Nat := if n = 0 then [] else List.range' (a / 256) ((a + n - 1) / 256 - a / 256 + 1)

/-- R326: a line of which the range covers only a part. -/
def partialLine (a n l : Nat) : Bool := decide (256 * l < a) || decide (a + n < 256 * l + 256)

/-- R326, R577: bytes written to hall DRAM, with the line counts. -/
def Hall.dramWrite (H : Hall) (a : Nat) (bs : List Byte) : Hall :=
  let n := bs.length
  let H' := (linesOf a n).foldl (fun H l =>
    let ch := H.mem.lineChannel l
    let H := H.count (1408 + 4 * ch + 1) 1
    if partialLine a n l then
      (H.count (1408 + 4 * ch + 2) 1 |> fun H => { H with mem := { H.mem with partials := inc16 H.mem.partials } })
    else H) H
  { H' with mem := { H'.mem with dram := H'.mem.dram.writeAll a bs } }

/-- R577: lines of hall DRAM read. -/
def Hall.countReads (H : Hall) (a n : Nat) : Hall :=
  (linesOf a n).foldl (fun H l => H.count (1408 + 4 * H.mem.lineChannel l) 1) H

/-- R325: the hall DRAM address of an offset in a domain's extent, and whether n bytes there lie within it. -/
def Hall.extentAddr (H : Hall) (h dom off n : Nat) : Option Nat :=
  match H.image.bind fun im => im.tenant dom with
  | none => none
  | some e =>
    let (b, l) := e.extent h
    if off + n ≤ l * 65536 then some (b * 65536 + off) else none

/-! ### Stores -/

/-- The bytes at a place. -/
def Hall.readAt (H : Hall) (h : Nat) (p : Place) (a n : Nat) : List Byte :=
  match p with
  | .op c => (H.core c).op.read a n
  | .gal g => (H.gal g).store.read a n
  | .dram => H.dramRead h a n

/-- R536: the fault of reading n bytes at a place. -/
def Hall.faultAt (H : Hall) (p : Place) (a n : Nat) : Option Nat :=
  match p with
  | .op c => (H.core c).op.readFault a n
  | .gal g => (H.gal g).store.readFault a n
  | .dram => none

/-- Bytes written at a place, made visible. A gallery store counts them (R577). -/
def Hall.writeAt (H : Hall) (p : Place) (a : Nat) (bs : List Byte) : Hall :=
  match p with
  | .op c => H.onCore c fun x => { x with op := x.op.write a bs }
  | .gal g => (H.onGal g fun x => { x with store := x.store.write a bs }).countK (1152 + 16 * g + 1) bs.length
  | .dram => H.dramWrite a bs

/-- R137, R173: a commit of n bytes at a of the operand store clears VALID of a bank, or of its sidecar, whose source range it
touches. -/
def Bank.invalidate (b : Bank) (a n : Nat) : Bank :=
  let hit := fun (s len : Nat) => decide (0 < n) && decide (0 < len) && overlaps a (a + n - 1) s (s + len - 1)
  { b with
    valid := b.valid && !(match b.src with | none => false | some s => decide (s < 2 ^ 31) && hit s 16384)
    sideValid := b.sideValid && !(decide (b.sideSrc < 2 ^ 31) && hit b.sideSrc b.side.length) }

/-- R137: a commit into an operand store clears VALID of the banks whose source it touches. -/
def Core.invalidate (k : Core) (a n : Nat) : Core := { k with banks := k.banks.map fun b => b.invalidate a n }

/-- R137: the loads of a run that have landed, or will, follow the same rule. -/
def Built.invalidate (b : Built) (a n : Nat) : Built :=
  { b with bankLoads := b.bankLoads.map fun e => { e with content := e.content.invalidate a n } }

/-- R536: an output word takes the marker that it copies. -/
def Hall.setMark (H : Hall) (m : Place × Nat × Bool) : Hall :=
  match m.1 with
  | .op c => H.onCore c fun x => { x with op := x.op.setMark m.2.1 m.2.2 }
  | .gal g => H.onGal g fun x => { x with store := x.store.setMark m.2.1 m.2.2 }
  | .dram => H

/-- R536: the marker that the word of a byte holds: true for POISON. -/
def Hall.markAt (H : Hall) (p : Place) (a : Nat) : Option Bool :=
  let of := fun (s : Store) => if s.isPoison a then some true else if s.isUnwritten a then some false else none
  match p with
  | .op c => of (H.core c).op
  | .gal g => of (H.gal g).store
  | .dram => none

/-- R288, R137: a command's output bytes become visible. -/
def Hall.publish (H : Hall) (w : Write) : Hall :=
  let H' := H.writeAt w.place w.addr w.data
  match w.place with
  | .op c =>
    let H2 := H'.onCore c fun k => k.invalidate w.addr w.data.length
    { H2 with ctxs := H2.ctxs.map fun x =>
        if x.core = c then
          { x with cmds := x.cmds.map fun k => { k with built := k.built.invalidate w.addr w.data.length } }
        else x }
  | _ => H'

/-- R288: all that a command publishes becomes visible. -/
def Hall.publishBytes (H : Hall) (b : Built) : Hall := b.marks.foldl Hall.setMark (b.writes.foldl Hall.publish H)

/-! ### Page frames -/

/-- A frame's entry. -/
def Hall.frame (H : Hall) (n : Nat) : Option Frame := kget H.mem.frames n

/-- A hall with a frame's entry changed. -/
def Hall.onFrame (H : Hall) (n : Nat) (f : Frame → Frame) : Hall :=
  { H with mem := { H.mem with frames := H.mem.frames.map fun e => if e.1 = n then (e.1, f e.2) else e } }

/-- MEM_PART_FRAMES_p.HELD. -/
def Hall.partFrames (H : Hall) (p : Nat) : Nat := (H.mem.frames.filter fun e => e.2.part == p).length

/-- R336: frames held against a cache's quota. -/
def Hall.cacheFrames (H : Hall) (c : Nat) : Nat := (H.mem.frames.filter fun e => e.2.cache == some c).length

/-- MEM_CULLET.FREE. -/
def Mem.free (m : Mem) : Nat := (m.total - m.culletNext) + m.culletTail.length

/-- R336: the head of the Cullet list and the list without it. -/
def Mem.takeHead (m : Mem) : Option (Nat × Mem) :=
  if m.culletNext < m.total then some (m.culletNext, { m with culletNext := m.culletNext + 1 })
  else match m.culletTail with
    | [] => none
    | f :: r => some (f, { m with culletTail := r })

/-- R335: pieces of a size code in a 64 KB block. -/
def piecesIn (size : Nat) : Nat := 2 ^ (4 - size)

/-- R335: the pieces in use of a block of gallery g. -/
def Hall.usedPieces (H : Hall) (g b : Nat) : List Nat :=
  H.mem.frames.filterMap fun e =>
    match e.2.piece with
    | some (b', i) => if e.2.gal == g && b' == b then some i else none
    | none => none

/-- R323: the blocks of gallery g's frame area that take frames: not those that a shrink releases, and not the new ones of a growth while a
command issued before the boundary has neither been killed nor ended its publication. -/
def Hall.areaLimit (H : Hall) (g : Nat) : Nat :=
  let G := H.gal g
  let grown := G.areaWait.any fun w => H.ctxs.any fun x => x.cmds.any fun k =>
    k.serial == w.1 && k.kills == w.2 && k.stage != .queued
  let a := if grown then min G.areaOld G.area else G.area
  match G.shrinkTo with
  | some t => min t a
  | none => a

/-- R335: FREE_BLOCKS: frame-area blocks holding no piece. -/
def Hall.freeBlocks (H : Hall) (g : Nat) : List Nat :=
  (List.range (H.areaLimit g)).filter fun b => (H.usedPieces g b).isEmpty

/-- R335: a free piece of a size in gallery g's frame area: in a block already cut to the size, lowest first, else a free
block. -/
def Hall.findPiece (H : Hall) (g size : Nat) : Option (Nat × Nat) :=
  let lim := H.areaLimit g
  let cut := (H.gal g).blocks.filter fun e => e.2 == size && decide (e.1 < lim)
  match cut.findSome? fun e =>
      ((List.range (piecesIn size)).find? fun i => !((H.usedPieces g e.1).contains i)).map fun i => (e.1, i) with
  | some p => some p
  | none => (H.freeBlocks g).head?.map fun b => (b, 0)

/-- R335: blocks that hold no piece are no longer cut. -/
def Hall.tidyBlocks (H : Hall) (g : Nat) : Hall :=
  H.onGal g fun x => { x with blocks := x.blocks.filter fun e => !((H.usedPieces g e.1).isEmpty) }

/-- R335: a piece taken in gallery g. -/
def Hall.cutBlock (H : Hall) (g b size : Nat) : Hall := H.onGal g fun x => { x with blocks := kset x.blocks b size }

/-- The gallery-store address of a piece: block 0 is the topmost of the frame area. -/
def pieceAddr (b i size : Nat) : Nat := galSize - 65536 * (b + 1) + i * frameSize size

/-- R335: the DRAM home of a frame. -/
def Hall.homeAddr (H : Hall) (n : Nat) : Nat := H.mem.frameBase + 65536 * n

/-- R338: the contents of a frame at its current place. -/
def Hall.frameRead (H : Hall) (h n len : Nat) : List Byte :=
  match H.frame n with
  | none => List.replicate len 0
  | some f =>
    match f.st, f.piece with
    | .sram, some (b, i) => (H.gal f.gal).store.read (pieceAddr b i f.size) len
    | .movingDown, some (b, i) => (H.gal f.gal).store.read (pieceAddr b i f.size) len
    | _, _ => H.dramRead h (H.homeAddr n) len

/-- R338: a frame filled: written at its place, and at its home too under WRITE_HOME (R337). -/
def Hall.frameFill (H : Hall) (n : Nat) (bs : List Byte) : Hall :=
  match H.frame n with
  | none => H
  | some f =>
    let cur := ((H.dom f.dom).map (·.current)).getD 0
    let home := fun (H : Hall) => (H.dramWrite (H.homeAddr n) bs).onFrame n fun f => { f with homeValid := true, epoch := cur }
    match f.st, f.piece with
    | .sram, some (b, i) =>
      let H' := H.writeAt (.gal f.gal) (pieceAddr b i f.size) bs
      if f.writeHome then home H' else H'
    | _, _ => home H

/-- R336, R337: a frame allocated for partition, domain and cache, in a gallery and size; the tier flags choose its place. -/
def Hall.allocFrame (H : Hall) (part dom : Nat) (cache : Option Nat) (quota g size flags : Nat) (h : Nat) :
    Option (Nat × Hall) :=
  let q := ((H.partEntry part).map fun e => e.frames h).getD 0
  let cq := match cache with | some c => decide (quota = 0) || decide (H.cacheFrames c < quota) | none => true
  if decide (H.partFrames part < q) && cq then
    match H.mem.takeHead with
    | none => none
    | some (n, m) =>
      let piece := if bits flags 0 2 = 1 then H.findPiece g size else none
      let cur := ((H.dom dom).map (·.current)).getD 0
      let f : Frame :=
        { st := if piece.isSome then .sram else .dram, size := size, refs := 0, holds := 0, pins := 0,
          homeValid := false, lost := false, part := part, dom := dom, epoch := cur, cache := cache, gal := g,
          piece := piece, lastRead := H.stamp, writeHome := bit flags 2, heldFrom := none, movedAt := 0, moveCls := 3, forced := false }
      let H1 := { H with mem := { m with frames := kset m.frames n f } }
      some (n, match piece with | some (b, _) => H1.cutBlock g b size | none => H1)
  else none

/-- R336: a frame released to the tail of the Cullet list, its piece freed. -/
def Hall.freeFrame (H : Hall) (n : Nat) : Hall :=
  match H.frame n with
  | none => H
  | some f =>
    let H1 := { H with mem := { H.mem with frames := kdel H.mem.frames n, culletTail := H.mem.culletTail ++ [n] } }
    match f.piece with
    | some _ => H1.tidyBlocks f.gal
    | none => H1

/-! ### Sync cells -/

/-- R348: the value of a sync cell. -/
def Hall.cell (H : Hall) (i : Nat) : Nat := tget H.mem.cells i

/-- R349: a cell written. -/
def Hall.setCell (H : Hall) (i v : Nat) : Hall := { H with mem := { H.mem with cells := tset H.mem.cells i v } }

/-- R349: a signal adds its count, saturating. -/
def Hall.addCell (H : Hall) (i k : Nat) : Hall :=
  let v := H.cell i + k
  let H1 := if i < 8192 then H.count (1152 + 16 * (i / 1024) + 4) 1 else H.count (1664 + 11) 1
  if v > 0xFFFFFFFF then
    let H2 := { H1 with mem := { H1.mem with syncSat := inc8 H1.mem.syncSat } }
    (H2.setCell i 0xFFFFFFFF).addLog 0x06FF (i / 256) (0x1C / 4) 0
  else H1.setCell i v

/-- R348, R71, R73: a command of partition `part` on a core of gallery g may use a cell of the hall. -/
def Hall.cellOk (H : Hall) (h part g i : Nat) : Bool :=
  if i < 8192 then i / 1024 == g
  else
    (match H.partEntry part with
      | none => false
      | some e => let (b, n) := e.sync h; decide (b ≤ i) && decide (i < b + n)) ||
    (match H.image with
      | none => false
      | some im => im.windows.any fun w => w.hall == h && (w.partX == part || w.partY == part)
          && decide (w.syncBase ≤ i) && decide (i < w.syncBase + w.syncCount))

/-! ### Windows and routes -/

/-- R73: a window of a hall by its index. -/
def Image.window (im : Image) (h i : Nat) : Option WindowEntry := im.windows.find? fun w => w.hall == h && w.window == i

/-- R72, R32: a route declared for the partition in the hall, at a class. -/
def Image.route (im : Image) (part h src dst cls : Nat) : Bool :=
  im.routes.any fun r => r.part == part && r.hall == h && r.src == src && r.dst == dst && bit r.classes cls

/-- R30: the memory-controller stops that hold a working channel. -/
def Mem.mcStops (m : Mem) : List Nat :=
  ([8, 9, 10, 11] : List Nat).filter fun s => (List.range 8).any fun i => m.chanGood.getLsbD (8 * (s - 8) + i)

/-- R32: the first route that a transfer of class `cls` between stops lacks. -/
def Hall.missingRoute (H : Hall) (h part cls : Nat) (pairs : List (Nat × Nat)) : Option (Nat × Nat) :=
  match H.image with
  | none => pairs.head?
  | some im => pairs.find? fun p => !(im.route part h p.1 p.2 cls)

end Sys2Proof.Machine
end

