-- ==== Sys2Proof/Machine/Records.lean ====
section
/-! DEFINITION. Result streams (14, R473 to R480): records queued on a bound stream, their header, encryption and packets, and
the blocks that a RING stream takes. -/

namespace Sys2Proof.Machine

/-- R602: an event that the table does not list: event 0xFF of its block, UNIT the instance, ARG the register's offset
divided by 4. -/
def Hall.logOther (H : Hall) (block unit off : Nat) : Hall := H.addLog (0x100 * block + 0xFF) unit (off / 4) 0

/-- R499: the handle of a key slot of hall h. -/
def keyHandle (h : Nat) (k : KeySlot) : Nat := h * 2 ^ 31 + k.use * 2 ^ 30 + k.gen % 4096 * 4096 + k.slot

/-- R499: the key slot that a handle names. -/
def Hall.keyOf (H : Hall) (h handle : Nat) : Option KeySlot := H.sec.keys.find? fun k => keyHandle h k == handle

/-- R499: a key slot erased: its generation rises. -/
def Hall.eraseSlot (H : Hall) (slot : Nat) : Hall :=
  match H.sec.keys.find? fun k => k.slot == slot with
  | none => H
  | some k =>
    { H with sec := { H.sec with
        keys := H.sec.keys.filter fun k => k.slot != slot, gens := tset H.sec.gens slot ((k.gen + 1) % 4096) } }

/-- R499: the key that a handle names is erased, where this hall holds it. -/
def Hall.eraseHandle (H : Hall) (h handle : Nat) : Hall :=
  match H.keyOf h handle with
  | none => H
  | some k => H.eraseSlot k.slot

/-- A transmit port. -/
def Hall.txPort (H : Hall) (t : Nat) : TxPort := (H.tx[t]?).getD TxPort.reset

/-- A hall with a transmit port changed. -/
def Hall.onTx (H : Hall) (t : Nat) (f : TxPort → TxPort) : Hall := { H with tx := modAt H.tx t f }

/-- A bound stream of the hall (R460). -/
def Hall.stream (H : Hall) (n : Nat) : Option TxStream := H.streams.find? fun x => x.num == n

/-- A hall with a bound stream changed. -/
def Hall.onStream (H : Hall) (n : Nat) (f : TxStream → TxStream) : Hall :=
  { H with streams := H.streams.map fun x => if x.num = n then f x else x }

/-- CSI_TX_CFG_t.ENABLE of a configuration word (R483). -/
def txEnable (w : BitVec 32) : Bool := w.getLsbD 31

/-- R475: the IV of a record. -/
def recordIv (stream h rseq : Nat) : List Byte :=
  leBytes 1 stream ++ leBytes 1 h ++ [0] ++ leBytes 4 rseq ++ List.replicate 5 0

/-- R474, R480: packets of a record with n payload bytes. -/
def recordPackets (n : Nat) : Nat := cdiv (80 + n) 1024

/-- R480: the wire length of a record with n payload bytes. -/
def wireLength (n : Nat) : Nat := 72 + 38 * recordPackets n + 80 + n

/-- R480: the record is longer than its slot's EMIT_KB allows. -/
def Record.oversize (r : Record) : Bool := decide (0 < r.emitKb) && decide (1024 * r.emitKb < wireLength r.payload.length)

/-- R474: the header of a record whose frame starts in sweep `es`, tick `et`. -/
def Record.header (r : Record) (stream h es et : Nat) : List Byte :=
  leBytes 1 stream ++ leBytes 1 h ++ leBytes 1 r.rkind ++ leBytes 1 (r.rflags + if r.oversize then 16 else 0)
    ++ leBytes 4 r.rseq ++ leBytes 4 r.sweep ++ leBytes 2 r.tick ++ leBytes 2 r.slot ++ leBytes 4 es ++ leBytes 2 et
    ++ leBytes 1 r.part ++ leBytes 1 r.verdict ++ leBytes 2 r.mark ++ leBytes 2 0 ++ leBytes 4 r.judged
    ++ leBytes 4 r.payload.length ++ recordIv stream h r.rseq ++ List.replicate 16 0

/-- R474, R475: the bytes of a record's frame: header, ciphertext and tag. -/
def Record.frame (r : Record) (key : List Byte) (stream h es et : Nat) : List Byte :=
  let hd := r.header stream h es et
  let ct := gcmSeal key (recordIv stream h r.rseq) hd r.payload
  hd ++ ct.1 ++ ct.2

/-- R473, R479: no frame is open on the port. -/
def Hall.txClosed (H : Hall) (t : Nat) : Bool := H.streams.all fun x => x.tx != t || x.sending.isNone

/-- R473: a stored configuration takes effect once no frame is open on the port. -/
def Hall.txSettle (H : Hall) (t : Nat) : Hall := if H.txClosed t then H.onTx t fun x => { x with eff := x.cfg } else H

/-- R478, R479: the class of the record that a stream sends next: a result's slot's, a verdict's mark's, a ring's own. -/
def TxStream.nextCls (x : TxStream) : Nat := match x.queue with | r :: _ => r.cls | [] => x.cls

/-- R479: the stream whose packet a free port sends next. While a configuration waits to take effect, or the hall is
leaving HALL or PAIR (R558), no frame starts. -/
def Hall.txChoice (H : Hall) (t : Nat) : Option TxStream :=
  let P := H.txPort t
  let ready := H.streams.filter fun x =>
    x.tx == t && (x.sending.isSome || (!x.queue.isEmpty && P.cfg == P.eff && txEnable P.eff && !H.pwr.txStop))
  match (ready.map (·.nextCls)).min? with
  | none => none
  | some c =>
    let best := ready.filter fun x => x.nextCls == c
    let dist := fun (x : TxStream) => (x.vc + 16 - P.ptr % 16) % 16
    best.foldl (fun (a : Option TxStream) x =>
      match a with
      | none => some x
      | some y => if dist x < dist y then some x else some y) none

/-- R479: a free port puts its next packet on the wire; the record's frame starts with its first packet. -/
def Hall.txStart (H0 : Hall) (h t : Nat) : Hall :=
  let H := H0.txSettle t
  if (H.txPort t).cur.isSome then H else
  match H.txChoice t with
  | none => H
  | some x =>
    let num := (H.txPort t).frameNum
    let out := match x.sending, x.queue with
      | some b, _ => (b, num)
      | none, [] => ([], num)
      | none, r :: _ => (r.frame x.secret x.num h H.swp.sweep H.swp.tick, r.rseq % 65535 + 1)
    (H.onStream x.num fun y => { y with sending := some (out.1.drop 1024) }).onTx t fun P =>
      { P with cur := some x.num, wire := out.1.take 1024, frameNum := out.2 }

/-- R479: a record dropped; its RSEQ is used. -/
def Hall.dropRecord (H : Hall) (num : Nat) : Hall :=
  match H.stream num with
  | none => H.count (1600 + 26) 1
  | some x =>
    ((H.onStream num fun y => { y with rseq := y.rseq + 1, dropped := inc32 y.dropped }).onTx x.tx fun P =>
      { P with dropped := inc8 P.dropped }).count (1600 + 26) 1

/-- R474, R475, R479: a record emitted on stream `num`: queued with the stream's next RSEQ, or dropped when the queue is full or
the port's ENABLE is clear. Nothing is emitted after RSEQ 0xFFFF_FFFF, with which the stream's key slot is
erased (R513). The answer is the RSEQ where it was queued. -/
def Hall.emit (H : Hall) (h num : Nat) (r : Record) : Option Nat × Hall :=
  match H.stream num with
  | none => (none, H.count (1600 + 26) 1)
  | some x =>
    if x.rseq > 0xFFFFFFFF || x.closing then (none, H)
    else if !(txEnable (H.txPort x.tx).eff) || decide (4 ≤ x.queue.length) then (none, H.dropRecord num)
    else
      let H1 := if x.rseq = 0xFFFFFFFF then H.eraseHandle h x.key else H
      (some x.rseq, (H1.onStream num fun y =>
        { y with rseq := y.rseq + 1, queue := y.queue ++ [{ r with rseq := x.rseq }] }).txStart h x.tx)

/-- R479: a packet has left the port; after a record's last packet the record is gone, and an unbound stream with it. -/
def Hall.txPacketEnd (H : Hall) (h t : Nat) : Hall :=
  match (H.txPort t).cur with
  | none => H
  | some n =>
    let H1 := H.onTx t fun P => { P with cur := none, wire := [] }
    match H1.stream n with
    | none => H1.txStart h t
    | some x =>
      match x.sending with
      | some (_ :: _) => H1.txStart h t
      | _ =>
        let exceeds := match x.queue with | [] => false | r :: _ => r.oversize
        let H2 := H1.onStream n fun y =>
          { y with sending := none, queue := y.queue.tail, sent := inc32 y.sent,
                   oversize := if exceeds then inc32 y.oversize else y.oversize }
        let H3 := (H2.onTx t fun P =>
          { P with sent := inc16 P.sent, oversize := if exceeds then inc8 P.oversize else P.oversize }).count (1600 + 25) 1
        let H4 := { H3 with streams := H3.streams.filter fun y => !(y.num == n && y.closing) }
        H4.txStart h t

/-- R477: a RING stream may take a block: its queue holds fewer than 4 records. -/
def TxStream.mayTake (x : TxStream) : Bool := x.ring && !x.closing && decide (x.queue.length < 4)

/-- R477: the next block of a RING stream becomes a record, or uses an RSEQ and is dropped when its LENGTH is too large. The
block's cell has been taken and its FREE_CELL is signalled by the caller. -/
def Hall.ringRecord (H : Hall) (h : Nat) (x : TxStream) : Hall :=
  let at' := x.ringAddr + x.k % (max x.blocks 1) * x.blockBytes
  let st := (H.gal x.gallery).store
  let len := le (st.read at' 4)
  let H1 := H.onStream x.num fun y => { y with k := y.k + 1 }
  if len > x.blockBytes - 64 then H1.dropRecord x.num
  else
    (H1.emit h x.num
      { rkind := 0, rflags := 0, rseq := 0, sweep := H.swp.sweep, tick := H.swp.tick, slot := 0xFFFF, part := x.part,
        verdict := 0, mark := 0xFFFF, judged := 0, cls := x.cls, payload := st.read (at' + 64) len, emitKb := 0 }).2

end Sys2Proof.Machine
end

