-- ==== Sys2Proof/Machine/Settings.lean ====
section
/-! DEFINITION. Sensor settings (13, R436 to R441): the settings sequencers of the cameras, their buses and the parameter
banks. -/

namespace Sys2Proof.Machine

/-- R414: the CAMERA entry of an image with an ID, in hall h. -/
def Image.camera (im : Image) (h id : Nat) : Option CameraBody :=
  im.sensors.findSome? fun e =>
    match e.body with
    | .camera b => if e.hall = h && e.id = id then some b else none
    | _ => none

/-- R423: the PIPE entry of an image with an ID, in hall h. -/
def Image.pipe (im : Image) (h id : Nat) : Option PipeBody :=
  im.sensors.findSome? fun e =>
    match e.body with
    | .pipe b => if e.hall = h && e.id = id then some b else none
    | _ => none

/-- A camera's CAMERA and PIPE entries in the hall's active image. -/
def Hall.camEntry (H : Hall) (h id : Nat) : Option (CameraBody × PipeBody) :=
  H.image.bind fun im => (im.camera h id).bind fun b => (im.pipe h b.pipe).map fun p => (b, p)

/-- The camera state with an ID. -/
def Hall.camera (H : Hall) (id : Nat) : Option Camera := H.cam.cameras.find? fun c => c.id == id

/-- The open frame of a camera. -/
def Hall.openFrame (H : Hall) (id : Nat) : Option RxFrame := (H.camera id).bind fun (c : Camera) => c.cur

/-- A hall with a camera changed. -/
def Hall.onCamera (H : Hall) (id : Nat) (f : Camera → Camera) : Hall :=
  { H with cam := { H.cam with cameras := H.cam.cameras.map fun c => if c.id = id then f c else c } }

/-- An ISP context. -/
def Hall.isp (H : Hall) (n : Nat) : IspCtx := (H.cam.ctxs[n]?).getD ⟨0, 0, 0, none, none, false, false, []⟩

/-- A hall with an ISP context changed. -/
def Hall.onIsp (H : Hall) (n : Nat) (f : IspCtx → IspCtx) : Hall := { H with cam := { H.cam with ctxs := modAt H.cam.ctxs n f } }

/-- The camera that feeds a context: its ID and entries. -/
def Hall.ctxCamera (H : Hall) (h n : Nat) : Option (Nat × CameraBody × PipeBody) :=
  H.cam.cameras.findSome? fun (c : Camera) =>
    match H.camEntry h c.id with
    | some (b, p) => if p.ctx = n then some (c.id, b, p) else none
    | none => none

/-- R426: the frame that a context works on: its oldest closed frame, else the open one. -/
def Hall.ispFrame (H : Hall) (n id : Nat) : Option RxFrame :=
  match (H.isp n).frames with
  | f :: _ => some f
  | [] => H.openFrame id

/-- R426: the next piece of a context is ready. -/
def Hall.pieceReady (H : Hall) (e : Nat × CameraBody × PipeBody) : Bool :=
  match H.ispFrame e.2.2.ctx e.1 with
  | none => false
  | some f => f.closed || (e.2.2.mode == 0 && decide (e.2.2.stripeLines * (f.pieces + 1) + 4 ≤ f.lines.length))

/-- SNS_SET_COUNTS_n.WRITTEN, ABANDONED and LATE count one more (R444). -/
def Hall.snsCount (H : Hall) (n : Nat) (which : Nat) : Hall :=
  let c := H.cam
  { H with cam :=
      match which with
      | 0 => { c with written := modAt c.written n inc16 }
      | 1 => { c with abandoned := modAt c.abandoned n inc8 }
      | _ => { c with late := modAt c.late n inc8 } }

/-- R440: a failed settings record in the counts and the event log. -/
def Hall.snsFail (H : Hall) (n which : Nat) : Hall := (H.snsCount n which).logOther 0xD n (0x100 + 4 * n)

/-- R436: the steward prepares the I3C buses of hall h: RSTDAA, SETDASA to each camera's DADDR and DISEC. A camera that leaves attempt n
unacknowledged is marked failed. -/
def Hall.prepareBuses (H : Hall) (h n : Nat) : Hall :=
  let i3c : List (Nat × Nat) := ((H.image.map (·.sensors)).getD []).filterMap fun (e : SensorEntry) =>
    match e.body with
    | .camera b => if e.hall = h && b.bus = 2 && b.ctrl < 2 then some (e.id, b.ctrl) else none
    | _ => none
  let bad := i3c.filter fun e => Config.setdasaFails n e.1
  { H with cam := { H.cam with
      failedCams := bad.map (·.1)
      failed := (List.range 2).map fun c => bad.any fun e => e.2 == c
      prepared := (List.range 2).map fun c => H.cam.prepared.getD c 0 + b2n (i3c.any fun e => e.2 == c) } }

/-- R436: hall h prepares its I3C buses, where it is in HALL or PAIR. -/
def State.prepareBuses (s : State) (h : HallId) : State :=
  if (s.hall h).pwr.hall == .on then { s.onHall h fun H => H.prepareBuses h.idx s.free with free := s.free + 1 } else s

/-- R437: the writes of a settings record: register, width and value. -/
def recWrites (bs : List Byte) : List (Nat × Nat × Nat) :=
  (List.range (fld bs 5 1)).map fun w => (fld bs (16 + 8 * w) 2, fld bs (18 + 8 * w) 1, fld bs (20 + 8 * w) 4)

/-- R437: a settings record that breaks no rule of its layout. -/
def recOk (bs : List Byte) : Bool :=
  decide (fld bs 0 4 ≠ 0) && decide (fld bs 4 1 < 2) && decide (fld bs 5 1 ≤ 6) && zeros bs 6 2 && zeros bs 12 4
    && ((List.range (fld bs 5 1)).all fun w =>
      ([1, 2, 4] : List Nat).contains (fld bs (18 + 8 * w) 1) && zeros bs (19 + 8 * w) 1)
    && (decide (fld bs 8 4 = 0xFFFFFFFF) || decide (fld bs 8 4 % 64 = 0))

/-- R438: the cameras on a controller, by ascending ID, with a record whose writes have begun and are not all sent. -/
def Hall.busRec (H : Hall) (h ctrl : Nat) : Option (Nat × SetRec) :=
  H.cam.cameras.findSome? fun c =>
    match H.camEntry h c.id with
    | none => none
    | some (b, _) =>
      if b.ctrl = ctrl then (c.recs.find? fun r => r.begun && decide (0 < r.left) && !r.failed).map fun r => (c.id, r)
      else none

/-- R438: writes start when the bus is free: the records that wait, in ascending CAMERA ID and in the order taken. -/
def Hall.busStart (H : Hall) (h ctrl : Nat) : Hall :=
  if (H.busRec h ctrl).isSome then H else
  match H.cam.cameras.find? fun c =>
      (match H.camEntry h c.id with | none => false | some (b, _) => b.ctrl == ctrl)
        && c.recs.any (fun r => !r.begun && !r.failed && decide (0 < r.left)) with
  | none => H
  | some c =>
    match c.recs.find? fun r => !r.begun && !r.failed && decide (0 < r.left) with
    | none => H
    | some r0 => H.onCamera c.id fun c => { c with recs := modFirst c.recs (fun r => r == r0) fun r => { r with begun := true } }

/-- R437, R438: the head record taken by TAKE of 1 on SET_CELL (the caller has taken it): consumed without effect when it breaks
R437 or its camera failed dynamic addressing (R436); else its parameter set goes to the shadow bank and its writes wait for the
bus. -/
def Hall.takeRecord (H : Hall) (h : Nat) (c : Camera) (b : CameraBody) (p : PipeBody) (timed : Bool) : Hall :=
  let st := (H.gal b.setGallery).store
  let bs := st.read (b.setAddr + 64 * (c.taken % 8)) 64
  let H1 := H.onCamera c.id fun c => { c with taken := c.taken + 1 }
  let pa := fld bs 8 4
  let hasParam := decide (pa ≠ 0xFFFFFFFF)
  if !(recOk bs) || (hasParam && !(H.galOk b.part b.setGallery pa 8192)) then H1.snsCount p.ctx 1
  else
    let ws := if b.ctrl > 1 || H.cam.failedCams.contains c.id then [] else recWrites bs
    let r : SetRec :=
      { seq := fld bs 0 4, writes := ws, left := ws.length, retried := false, begun := ws.isEmpty, sent := ws.isEmpty,
        target := if timed then some (c.frame + b.delay) else none, failed := false, hasParam := hasParam, degrade := false }
    let H2 := H1.onCamera c.id fun c =>
      { c with recs := c.recs ++ [r]
               cur := c.cur.map fun f => { f with tookTimed := f.tookTimed || timed } }
    let H3 := if hasParam then H2.onIsp p.ctx fun x => { x with shadow := some (st.read pa 8192), shadowOk := false } else H2
    let H4 := if ws.isEmpty then H3.snsCount p.ctx (b2n (decide (0 < fld bs 5 1))) else H3
    H4.busStart h b.ctrl

/-- R438: whether the head record of a camera is immediate. -/
def Hall.headImmediate (H : Hall) (c : Camera) (b : CameraBody) : Bool :=
  bit (fld ((H.gal b.setGallery).store.read (b.setAddr + 64 * (c.taken % 8)) 64) 4 1) 0

/-- R438: the sequencer of a camera would take its head record now: an immediate one while no frame is open, a timed one when
`moment` says that line WRITE_LINE begins or the frame closes. -/
def Hall.wouldTake (H : Hall) (c : Camera) (b : CameraBody) (moment : Bool) : Bool :=
  decide (0 < H.cell b.setCell) &&
    (if H.headImmediate c b then c.cur.isNone
     else moment && (match c.cur with | some f => !f.tookTimed | none => false))

/-- R438: a camera's sequencer takes its head record if it may. -/
def Hall.takeHead (H : Hall) (h id : Nat) (moment : Bool) : Hall :=
  match H.camera id, H.camEntry h id with
  | some c, some (b, p) =>
    if H.wouldTake c b moment then
      (H.setCell b.setCell (H.cell b.setCell - 1)).takeRecord h c b p (!(H.headImmediate c b))
    else H
  | _, _ => H

/-- R438: a camera's sequencer takes the records that it may take now. -/
def Hall.takeSettings (H : Hall) (h id : Nat) (moment : Bool) : Hall :=
  match H.camEntry h id with
  | some (b, _) => (List.range (H.cell b.setCell)).foldl (fun (H : Hall) _ => H.takeHead h id moment) H
  | none => H

/-- R440: a timed record that has not begun by DEADLINE_LINE is not sent. -/
def Hall.deadlineMiss (H : Hall) (h id : Nat) : Hall :=
  match H.camera id, H.camEntry h id with
  | some c, some (_, p) =>
    let late := c.recs.filter fun r => r.target.isSome && !r.begun && !r.failed
    late.foldl (fun H r =>
      (H.onCamera id fun c => { c with recs := modFirst c.recs (fun x => x == r) fun x => { x with failed := true, left := 0 } }).snsFail
        p.ctx 2) H
  | _, _ => H

end Sys2Proof.Machine
end

