-- ==== Sys2Proof/Machine/Sync.lean ====
section
/-! DEFINITION. Sync cells in use (10, R348 to R352): signals, SETs, and the waits they satisfy, in the order of R351. -/

namespace Sys2Proof.Machine

/-! ### The common header (R281) -/

/-- OPCODE. -/
def Cmd.op (k : Cmd) : Nat := fld k.desc 0 1
/-- FLAGS. -/
def Cmd.flags (k : Cmd) : Nat := fld k.desc 1 1
/-- SEQ. -/
def Cmd.seq (k : Cmd) : Nat := fld k.desc 2 2
/-- WAIT_EN. -/
def Cmd.waitEn (k : Cmd) : Bool := bit k.flags 0
/-- SIGNAL_EN. -/
def Cmd.signalEn (k : Cmd) : Bool := bit k.flags 1
/-- REPORT. -/
def Cmd.report (k : Cmd) : Bool := bit k.flags 2
/-- ORDERED. -/
def Cmd.ordered (k : Cmd) : Bool := bit k.flags 3
/-- WAIT_CELL. -/
def Cmd.waitCell (k : Cmd) : Nat := fld k.desc 4 2
/-- N of WAIT_ARG (R350). -/
def Cmd.waitN (k : Cmd) : Nat := fld k.desc 6 2 % 32768
/-- TAKE of WAIT_ARG (R350). -/
def Cmd.take (k : Cmd) : Bool := bit (fld k.desc 6 2) 15
/-- SIGNAL_CELL. -/
def Cmd.signalCell (k : Cmd) : Nat := fld k.desc 8 2
/-- LIVE. -/
def Cmd.live (k : Cmd) : Nat := fld k.desc 10 2

/-- A context with its command at a position changed. -/
def Ctx.onCmd (x : Ctx) (pos : Nat) (f : Cmd → Cmd) : Ctx :=
  { x with cmds := x.cmds.map fun k => if k.pos = pos then f k else k }

/-- A context's command at a position. -/
def Ctx.cmd (x : Ctx) (pos : Nat) : Option Cmd := x.cmds.find? fun k => k.pos == pos

/-- The command waits on cell i. -/
def Cmd.waitsOn (k : Cmd) (i : Nat) : Bool := k.waitEn && !k.waitDone && k.stage == .queued && k.waitCell == i

/-- The context has neither ended for good nor been lost: a slot context that has ended its stream serves its slot again (R304). -/
def Ctx.alive (x : Ctx) : Bool := x.st != .lost && (x.st != .ended || x.slot.isSome)

/-- R308: the context's oldest command that has not issued waits on nothing. -/
def Ctx.awake (x : Ctx) : Bool :=
  match x.cmds.find? fun k => k.stage == .queued with
  | some k => k.waitDone
  | none => false

/-- R313, R309: once the wait of its oldest command is satisfied, a victim whose save has not begun is no victim, unless it is forced, and a swapped
context waits for admission. -/
def Ctx.roused (x : Ctx) (now : Nat) : Ctx :=
  if x.awake then
    { x with
      swap := if x.swap == .chosen && !x.swapForced then .none else x.swap
      st := if x.st == .swapped then .waiting else x.st
      waitSince := if x.st == .swapped then some now else x.waitSince }
  else x

/-- A wait satisfied. -/
def Hall.satisfy (H : Hall) (ctx pos : Nat) : Hall :=
  H.onCtx ctx fun x => (x.onCmd pos fun k => { k with waitDone := true }).roused H.now

/-- R351: the waits without TAKE on cell i that its value satisfies. -/
def Hall.wakePlain (H : Hall) (i : Nat) : Hall :=
  let v := H.cell i
  let met := fun (k : Cmd) => k.waitsOn i && !k.take && decide (k.waitN ≤ v)
  { H with
    ctxs := H.ctxs.map fun x =>
      if x.alive && x.cmds.any met then
        Ctx.roused { x with cmds := x.cmds.map fun k => if met k then { k with waitDone := true } else k } H.now
      else x }

/-- R351: a TAKE waiter on a cell. -/
inductive Waiter where
  /-- the settings sequencer of a camera (R438) -/
  | settings (id : Nat)
  /-- a RING stream (R477) -/
  | ring (num : Nat)
  /-- a command: context and position -/
  | cmd (ctx pos : Nat)
  deriving DecidableEq, Repr

/-- A list with an element put in by its key, after those of the same key. -/
def insertKey {α : Type} (l : List (Nat × α)) (k : Nat) (v : α) : List (Nat × α) :=
  match l with
  | [] => [(k, v)]
  | e :: r => if k < e.1 then (k, v) :: e :: r else e :: insertKey r k v

/-- A list in ascending order of its keys. -/
def sortKeys {α : Type} (l : List (Nat × α)) : List (Nat × α) := l.foldl (fun a e => insertKey a e.1 e.2) []

/-- R351: the TAKE waiters on cell i, in their order of test: class; the device's own before cores; the settings sequencers by
camera ID and the RING streams by number; cores from the rotating pointer; resident slot; SEQ. -/
def Hall.takers (H : Hall) (h i : Nat) : List Waiter :=
  let cams := H.cam.cameras.filterMap fun c =>
    match H.camEntry h c.id with
    | some (b, _) => if b.setCell = i && H.wouldTake c b false then some (c.id, Waiter.settings c.id) else none
    | none => none
  let rings := H.streams.filterMap fun x =>
    if x.mayTake && x.cell == i then some (x.cls * 2 ^ 41 + 2 ^ 20 + x.num, Waiter.ring x.num) else none
  let cmds := H.ctxs.flatMap fun x =>
    if x.alive then
      (x.cmds.filter fun k => k.waitsOn i && k.take).map fun k =>
        (x.cls * 2 ^ 41 + 2 ^ 40 + ((x.core + 96 - H.mem.takePtr % 96) % 96) * 2 ^ 25 + (x.rslot.getD 16) * 2 ^ 20 + k.pos,
          Waiter.cmd x.num k.pos)
    else []
  (sortKeys (cams ++ rings ++ cmds)).map (·.2)

/-- A cell's value taken down by n; on a hall cell the satisfied TAKE is counted (R577). -/
def Hall.takeCell (H : Hall) (i n : Nat) : Hall :=
  let H1 := H.setCell i (H.cell i - n)
  if i < 8192 then H1 else H1.count (1664 + 12) 1

/-- R351: one TAKE waiter tested. The answer lists a FREE_CELL to signal. -/
def Hall.testTaker (h i : Nat) (a : Hall × List Nat) (w : Waiter) : Hall × List Nat :=
  let H := a.1
  match w with
  | .settings id => (H.takeSettings h id false, a.2)
  | .ring num =>
    match H.stream num with
    | none => a
    | some x => if decide (1 ≤ H.cell i) && x.mayTake then ((H.takeCell i 1).ringRecord h x, a.2 ++ [x.freeCell]) else a
  | .cmd ctx pos =>
    match (H.ctx ctx).bind fun x => x.cmd pos with
    | none => a
    | some k => if k.waitsOn i && decide (k.waitN ≤ H.cell i) then ((H.takeCell i k.waitN).satisfy ctx pos, a.2) else a

/-- R351: cell i has changed: the waits its value satisfies. Blocks that RING streams take free their cells in turn; the fuel
bounds that chain. -/
def Hall.wake : Nat → Hall → Nat → Nat → Hall
  | 0, H, _, _ => H
  | fuel + 1, H, h, i =>
    let a := (((H.wakePlain i).takers h i).foldl (Hall.testTaker h i) (H.wakePlain i, []))
    match a.2 with
    | [] => a.1
    | fs => Hall.wake fuel (fs.foldl (fun H f => Hall.wake fuel (H.addCell f 1) h f) a.1) h i

/-- The bound on the chain of blocks taken at one change of a cell: more than the blocks of every ring (R460). -/
def wakeFuel : Nat := 256

/-- R349, R352: a signal. A local cell takes it at once; a hall cell takes it with the next HALL_CELL_SIGNAL. -/
def Hall.signal (H : Hall) (h i k : Nat) : Hall :=
  if i < 8192 then (H.addCell i k).wake wakeFuel h i
  else { H with mem := { H.mem with cellQueue := H.mem.cellQueue ++ [(i, k, false)] } }

/-- R349: a SET (the last argument true) or a signal reaches a local cell, no wait being tested yet; to a hall cell it sets out. -/
def Hall.strike (H : Hall) (e : Nat × Nat × Bool) : Hall :=
  if 8192 ≤ e.1 then { H with mem := { H.mem with cellQueue := H.mem.cellQueue ++ [e] } }
  else if e.2.2 then H.setCell e.1 e.2.1
  else H.addCell e.1 e.2.1

/-- R351: the SETs of one publication apply, then its signals, and then the waits on the cells that they have reached are tested. -/
def Hall.strikeAll (H : Hall) (h : Nat) (sets signals : List (Nat × Nat)) : Hall :=
  let H1 := (sets.map fun e => (e.1, e.2, true)).foldl Hall.strike H
  let H2 := (signals.map fun e => (e.1, e.2, false)).foldl Hall.strike H1
  (((signals ++ sets).map (·.1)).filter fun i => decide (i < 8192)).eraseDups.foldl (fun H i => H.wake wakeFuel h i) H2

/-- R352: the oldest signal or SET on its way arrives at its hall cell. -/
def Hall.cellArrive (H : Hall) (h : Nat) : Hall :=
  match H.mem.cellQueue with
  | [] => H
  | (i, v, set) :: r =>
    let H1 := { H with mem := { H.mem with cellQueue := r } }
    (if set then H1.setCell i v else H1.addCell i v).wake wakeFuel h i

end Sys2Proof.Machine
end

