-- ==== Sys2Proof/Machine/Commands.lean ====
section
/-! DEFINITION. What every engine's command shares (09, 04): tier addresses, byte ranges, the footprint and alias rules, the lowest
fault code, and reads of a command's inputs. -/

namespace Sys2Proof.Machine

/-- R286, R354: a byte range of a command: rows of `bytes` bytes at a stride. -/
structure Rng where
  place : Place
  addr : Nat
  rows : Nat
  stride : Nat
  bytes : Nat
  deriving DecidableEq, Repr

/-- A range without rows. -/
def Rng.flat (p : Place) (a n : Nat) : Rng := ⟨p, a, 1, 0, n⟩

/-- The range holds a byte. -/
def Rng.some? (r : Rng) : Bool := decide (0 < r.rows) && decide (0 < r.bytes)

/-- R286: the length of the span from the first byte to the last. -/
def Rng.len (r : Rng) : Nat := if r.some? then (r.rows - 1) * r.stride + r.bytes else 0

/-- R286: the span, first and last byte. -/
def Rng.span (r : Rng) : Place × Nat × Nat := (r.place, r.addr, r.addr + r.len - 1)

/-- The spans of the ranges that hold a byte. -/
def spans (l : List Rng) : List (Place × Nat × Nat) := (l.filter Rng.some?).map Rng.span

/-- R286: two spans share a byte. -/
def spanMeet (a b : Place × Nat × Nat) : Bool := a.1 == b.1 && overlaps a.2.1 a.2.2 b.2.1 b.2.2

/-- R300: some span of one list meets one of the other. -/
def anyMeet (a b : List (Place × Nat × Nat)) : Bool := a.any fun x => b.any fun y => spanMeet x y

/-- The address of row i. -/
def Rng.row (r : Rng) (i : Nat) : Nat := r.addr + i * r.stride

/-- The bytes of row i. -/
def Hall.rowBytes (H : Hall) (h : Nat) (r : Rng) (i : Nat) : List Byte := H.readAt h r.place (r.row i) r.bytes

/-- The bytes of all rows, in order. -/
def Hall.rngBytes (H : Hall) (h : Nat) (r : Rng) : List Byte := (List.range r.rows).flatMap fun i => H.rowBytes h r i

/-- R536: the fault of reading a range. -/
def Hall.rngFault (H : Hall) (r : Rng) : Option Nat :=
  let fs := (List.range r.rows).filterMap fun i => H.faultAt r.place (r.row i) r.bytes
  fs.min?

/-- R140: the byte address of an address field. -/
def tierAddr (a : Nat) : Nat := bits a 0 23

/-- R140: the reserved bits of an address field are zero. -/
def addrOk (a : Nat) : Bool := bits a 23 8 == 0

/-- R140: an address field lies within its tier. -/
def addrIn (a : Nat) : Bool := addrOk a && decide (bits a 0 23 < if bit a 31 then galSize else 1048576)

/-- R140: where an address field of a command of context x points. -/
def Ctx.placeOf (x : Ctx) (a : Nat) : Place := if bit a 31 then .gal (galOf x.core) else .op x.core

/-- R140, R322: a range lies within its store and, in a gallery store, in a range permitted to the context. -/
def Hall.rngOk (H : Hall) (x : Ctx) (r : Rng) : Bool :=
  !r.some? ||
    match r.place with
    | .op _ => decide (r.addr + r.len ≤ opSize)
    | .gal g => H.galOk x.part g r.addr r.len
    | .dram => true

/-- R27, R145: a range meets the halo region of an operand store. -/
def Rng.inHalo (r : Rng) : Bool :=
  match r.place with
  | .op _ => r.some? && decide (haloBase < r.addr + r.len) && decide (r.addr < opSize)
  | _ => false

/-- R302: every operand-store range of the command lies within the context's footprint. -/
def Ctx.footOk (x : Ctx) (l : List Rng) : Bool :=
  l.all fun r =>
    match r.place with
    | .op _ => !r.some? || footprintOk x.desc.footprint r.addr r.len
    | _ => true

/-- R320: the lowest code among the rules broken. -/
def lowest (l : List (Bool × Nat)) : Option Nat := ((l.filter (·.1)).map (·.2)).min?

/-- R320: a further rule's code joined to the lowest of the others. -/
def withCode (broken : Bool) (code : Nat) (f : Option Nat) : Option Nat :=
  if broken then some (match f with | some c => min c code | none => code) else f

/-- R147: a commit-buffer region of `kb` KB from `base` KB ends at or below 128 KB. -/
def regionOk (base kb : Nat) : Bool := decide (base + kb ≤ 128)

/-- R577: bytes read from each gallery store. -/
def gsBytes (l : List Rng) : List (Nat × Nat) :=
  l.filterMap fun r => match r.place with | .gal g => some (g, r.rows * r.bytes) | _ => none

/-- R536: the fault of a command's inputs. -/
def Hall.inputFault (H : Hall) (l : List Rng) : Option Nat := (l.filterMap fun r => H.rngFault r).min?

/-- R32: the stop pairs that a transfer between gallery g and hall DRAM crosses, toward DRAM or from it. -/
def Hall.dramPairs (H : Hall) (g : Nat) (toDram : Bool) : List (Nat × Nat) :=
  H.mem.mcStops.map fun s => if toDram then (g, s) else (s, g)

/-- R32: the stop pairs by which a core of gallery g reads a place (R338: over the Corridor outside its own gallery store), or writes it. -/
def Hall.placePairs (H : Hall) (g : Nat) (p : Place) (write : Bool) : List (Nat × Nat) :=
  match p with
  | .op _ => []
  | .gal i => if i = g then [] else if write then [(g, i)] else [(i, g)]
  | .dram => H.dramPairs g write

/-- R338: where n bytes of a frame lie now: the place, first and last byte. -/
def Hall.frameSpan (H : Hall) (f n : Nat) : Place × Nat × Nat :=
  match (H.frame f).bind fun (e : Frame) => if e.st == .sram || e.st == .movingDown then e.piece.map fun p => (e, p) else none with
  | some (e, b, i) => (.gal e.gal, pieceAddr b i e.size, pieceAddr b i e.size + n - 1)
  | none => (.dram, H.homeAddr f, H.homeAddr f + n - 1)

/-- R32, R337, R338: the stop pairs by which a command of a core of gallery g reads the spans `ins` and publishes what it has built; H holds the frames that
it has reserved. -/
def Hall.builtPairs (H : Hall) (g : Nat) (ins : List (Place × Nat × Nat)) (b : Built) : List (Nat × Nat) :=
  (ins.flatMap fun r => H.placePairs g r.1 false) ++ (b.writes.flatMap fun w => H.placePairs g w.place true)
    ++ b.pages.flatMap fun p =>
      (H.placePairs g (H.frameSpan p.1 1).1 true)
        ++ if ((H.frame p.1).map (·.writeHome)) = some true then H.dramPairs g true else []

/-- What a command is before it runs: its ranges and its commit-buffer region. -/
structure Work where
  ins : List Rng
  outs : List Rng
  base : Nat
  kb : Nat

/-- A result of the issue checks: the fault code, or what the command builds. -/
abbrev Issue := Except Nat Built

/-- The checks that every engine shares around its own (R302): the footprint, and the lowest code of its own faults. -/
def Ctx.issueBare (x : Ctx) (w : Work) (own : Option Nat) (b : Unit → Built) : Issue :=
  if !(x.footOk (w.ins ++ w.outs)) then .error 0x0105
  else match own with
  | some c => .error c
  | none => .ok { b () with ins := spans w.ins, outs := spans w.outs, gsReads := gsBytes w.ins }

/-- R536: an issue that then reads `reads` and faults on a marker there. -/
def Hall.issueReading (H : Hall) (x : Ctx) (w : Work) (reads : List Rng) (own : Option Nat) (b : Unit → Built) : Issue :=
  match x.issueBare w own b with
  | .error e => .error e
  | .ok r =>
    match H.inputFault reads with
    | some c => .error c
    | none => .ok r

/-- The issue of a command that reads all of its input ranges. -/
def Hall.issueWith (H : Hall) (x : Ctx) (w : Work) (own : Option Nat) (b : Unit → Built) : Issue := H.issueReading x w w.ins own b

end Sys2Proof.Machine
end

