-- ==== Sys2Proof/Machine/Kv.lean ====
section
/-! DEFINITION. The key/value cache (06, R189 to R212): page formats and layouts, streams and their entries, gather slots, appending
and the page operations, and their commit. -/

namespace Sys2Proof.Machine

/-- R191: the ELEM of a page format. -/
def pageElem : Nat → Nat
  | 0 => 7
  | 1 => 8
  | 2 => 5
  | 3 => 6
  | 4 => 5
  | 5 => 6
  | 6 => 4
  | _ => 1

/-- R191: the page format carries block scales. -/
def pageScaled (pf : Nat) : Bool := decide (4 ≤ pf)

/-- R191: the token tile TT of a page format. -/
def pageTT (pf : Nat) : Nat := if 6 ≤ pf then 256 else 128

/-- R192: Lk. -/
def pageLk (p : CacheParam) (pf : Nat) : Nat := 64 * cdiv (elemBytes (pageElem pf) (32 * p.hg * p.d)) 64

/-- R192: Ls. -/
def pageLs (p : CacheParam) (pf : Nat) : Nat := if pageScaled pf then p.hg * p.d else 0

/-- R192: PAGE_BYTES of a page in a format; STAGE_BYTES for the staging format. -/
def pageBytes (p : CacheParam) (pf : Nat) : Nat := 2 * pageLk p pf + 2 * pageLs p pf

/-- R192: the key of head g, token t, channel c of a page, and its block scale. -/
def pageKey (p : CacheParam) (pf : Nat) (pg : List Byte) (g t c : Nat) : Fp × Fp :=
  (elemAt (pageElem pf) (slice pg 0 (pageLk p pf)) ((32 * g + t) * p.d + c),
    if pageScaled pf then e8m0 (fld pg (pageLk p pf + (32 * g + t) * p.d / 32 + c / 32) 1) else .fin false 1 0)

/-- R192: the value of head g, channel c, token t of a page, and its block scale. -/
def pageVal (p : CacheParam) (pf : Nat) (pg : List Byte) (g c t : Nat) : Fp × Fp :=
  (elemAt (pageElem pf) (slice pg (pageLk p pf + pageLs p pf) (pageLk p pf)) ((g * p.d + c) * 32 + t),
    if pageScaled pf then e8m0 (fld pg (2 * pageLk p pf + pageLs p pf + g * p.d + c) 1) else .fin false 1 0)

/-- R209: a token's element of a page, widened: element times scale in FP32. -/
def widened (e : Fp × Fp) : Fp := (e.1.mul e.2).round32

/-- R192: a page in an unscaled format from the codes of its keys (head, token, channel) and values (head, channel, token). -/
def pageOfCodes (p : CacheParam) (pf : Nat) (k : Nat → Nat → Nat → Nat) (v : Nat → Nat → Nat → Nat) : List Byte :=
  let lk := pageLk p pf
  let ks := (List.range p.hg).flatMap fun g => (List.range 32).flatMap fun t => (List.range p.d).map fun c => k g t c
  let vs := (List.range p.hg).flatMap fun g => (List.range p.d).flatMap fun c => (List.range 32).map fun t => v g c t
  fit (packCodes (pageElem pf) ks) lk ++ fit (packCodes (pageElem pf) vs) lk

/-! ### Streams -/

/-- R190: the cache number of a handle. -/
def handleCache (s : Nat) : Nat := s / 2 ^ 20

/-- R190: the stream index of a handle. -/
def handleIdx (s : Nat) : Nat := s % 2 ^ 20

/-- A cache of the hall. -/
def Hall.cache (H : Hall) (n : Nat) : Option Cache := H.mem.caches.find? fun c => c.num == n

/-- A cache's stream record. -/
def Cache.stream (c : Cache) (i : Nat) : Stream := (kget c.streams i).getD Stream.empty

/-- R194: the length L of a stream. -/
def Stream.len (s : Stream) : Nat :=
  s.entries.foldl (fun a e => a + if e.fill = 0 then 32 else e.fill) 0 + (match s.slot with | some (_, f) => f | none => 0)

/-- R206: the stream holds nothing. -/
def Stream.isEmpty (s : Stream) : Bool := s.entries.isEmpty && s.slot.isNone

/-- R196: the cache of a handle that a command of context x may name. -/
def Hall.cacheFor (H : Hall) (x : Ctx) (s : Nat) : Option Cache :=
  match H.cache (handleCache s) with
  | none => none
  | some c =>
    if c.part = x.part && c.dom = x.dom && decide (handleIdx s < c.prm.seqs * c.prm.layers * c.prm.groups) then some c else none

/-- The address of a gather-slot area of a cache. -/
def Cache.slotAddr (c : Cache) (area : Nat) : Nat := c.prm.slotBase + area * frameSize c.prm.frameCode

/-- R197: the bytes of a gather slot. -/
def Hall.slotBytes (H : Hall) (c : Cache) (area : Nat) : List Byte :=
  (H.gal c.prm.slotGal).store.read (c.slotAddr area) (pageBytes c.prm c.prm.stage)

/-- R197: the span of a gather slot's area. -/
def Cache.slotSpan (c : Cache) (area : Nat) : Place × Nat × Nat :=
  (.gal c.prm.slotGal, c.slotAddr area, c.slotAddr area + pageBytes c.prm c.prm.stage - 1)

/-- The span of the page that an entry names. -/
def Hall.entrySpan (H : Hall) (c : Cache) (e : Entry) : Place × Nat × Nat := H.frameSpan e.frame (pageBytes c.prm e.pfmt)

/-- The bytes of the page that an entry names. -/
def Hall.entryBytes (H : Hall) (h : Nat) (c : Cache) (e : Entry) : List Byte := H.frameRead h e.frame (pageBytes c.prm e.pfmt)

/-- R202: areas of a cache's pool that streams hold or commands have reserved. -/
def Hall.liveAreas (H : Hall) (c : Cache) : List Nat :=
  (c.streams.filterMap fun e => e.2.slot.map (·.1))
    ++ H.ctxs.flatMap fun x => x.cmds.flatMap fun k =>
      k.built.resSlots.filterMap fun r => if r.1 = c.num then some r.2 else none

/-- R204: areas of a cache's pool where a retired slot lies. -/
def Hall.retiredAreas (H : Hall) (c : Cache) : List Nat :=
  (List.range c.prm.slotCount).filter fun a => H.mem.deferred.any fun d =>
    match d.item with
    | .slot _ gal ad len =>
      gal == c.prm.slotGal && overlaps ad (ad + len - 1) (c.slotAddr a) (c.slotAddr a + frameSize c.prm.frameCode - 1)
    | .frame _ => false

/-- R197: slots live and retired of the hall, or of one partition. -/
def Hall.slotCount (H : Hall) (part : Option Nat) : Nat :=
  (H.mem.caches.filter fun c => part.isNone || some c.part == part).foldl (fun a c => a + (H.liveAreas c).length) 0
    + (H.mem.deferred.filter fun d =>
        match d.item with | .slot p _ _ _ => part.isNone || some p == part | .frame _ => false).length

/-- R197, R202: what the pool of a cache can give: an area, a wait for a retired one, or nothing. -/
inductive SlotAnswer where
  | area (n : Nat)
  | wait
  | none
  deriving DecidableEq, Repr

/-- R197, R202: the answer of a cache's pool to a command that needs a slot. -/
def Hall.askSlot (H : Hall) (h : Nat) (c : Cache) : SlotAnswer :=
  let live := H.liveAreas c
  let ret := H.retiredAreas c
  let quota := ((H.partEntry c.part).map fun e => e.gather h).getD 0
  let room := decide (H.slotCount none < 2048) && decide (H.slotCount (some c.part) < quota)
  let free := (List.range c.prm.slotCount).find? fun a => !(live.contains a) && !(ret.contains a)
  match free with
  | some a => if room then .area a else if ret.isEmpty then .none else .wait
  | none => if ret.isEmpty then .none else .wait

/-! ### KV_APPEND -/

/-- R198: the fields of a KV_APPEND. -/
structure AppendCmd where
  inFmt : Nat
  flags : Nat
  t : Nat
  stream : Nat
  pos : Nat
  kAddr : Nat
  vAddr : Nat
  rotAddr : Nat
  base : Nat
  kb : Nat
  deriving DecidableEq, Repr

/-- R198: a descriptor's fields. -/
def AppendCmd.ofDesc (d : List Byte) : AppendCmd :=
  { inFmt := fld d 16 1, flags := fld d 17 1, t := fld d 18 1, stream := fld d 20 4, pos := fld d 24 4, kAddr := fld d 28 4,
    vAddr := fld d 32 4, rotAddr := fld d 36 4, base := fld d 40 1, kb := fld d 41 1 }

/-- R199: the rotation of a pair by cos and sin, each operation rounded. -/
def rotate (a b c s : Fp) : Fp × Fp := ((a.mul32 c).sub32 (b.mul32 s), (a.mul32 s).add32 (b.mul32 c))

/-- R199: a row of D FP32 values rotated: mode 1 split-half, 2 interleaved; `tab` gives cos and sin of a pair. -/
def rotateRow (mode d : Nat) (xs : List Fp) (tab : Nat → Fp × Fp) : List Fp :=
  let at' := fun (i : Nat) => (xs[i]?).getD Fp.zero
  match mode with
  | 1 => (List.range d).map fun c =>
      let p := c % (d / 2)
      let r := rotate (at' p) (at' (p + d / 2)) (tab p).1 (tab p).2
      if c < d / 2 then r.1 else r.2
  | 2 => (List.range d).map fun c =>
      let p := c / 2
      let r := rotate (at' (2 * p)) (at' (2 * p + 1)) (tab p).1 (tab p).2
      if c % 2 = 0 then r.1 else r.2
  | _ => xs

/-- R198, R219: pair c's cos and sin of row `i` of a rotation table of D/2 pairs. -/
def rotPair (tab : List Byte) (d i c : Nat) : Fp × Fp :=
  let o := (i * (d / 2) + c) * 8
  (fp32 (fld tab o 4), fp32 (fld tab (o + 4) 4))

namespace AppendCmd

/-- ROT. -/
def rot (a : AppendCmd) : Nat := bits a.flags 0 2

/-- R198: the ranges read for a cache's geometry. -/
def work (a : AppendCmd) (x : Ctx) (p : CacheParam) : Work :=
  let w := elemBytes a.inFmt p.d
  let st := 64 * cdiv w 64
  { ins := [⟨x.placeOf a.kAddr, tierAddr a.kAddr, a.t * p.hg, st, w⟩, ⟨x.placeOf a.vAddr, tierAddr a.vAddr, a.t * p.hg, st, w⟩,
      Rng.flat (x.placeOf a.rotAddr) (tierAddr a.rotAddr) (if a.rot = 0 then 0 else a.t * (p.d / 2) * 8)]
    outs := [], base := a.base, kb := a.kb }

/-- R200: the stream's tail before the append: its fill, and the partial entry that holds it, if one does. -/
def tail (s : Stream) : Nat × Option Entry :=
  match s.slot with
  | some (_, f) => (f, none)
  | none =>
    match s.entries.getLast? with
    | some e => if e.fill = 0 then (0, none) else (e.fill, some e)
    | none => (0, none)

/-- R202: the append needs a frame. -/
def needsFrame (a : AppendCmd) (s : Stream) : Bool := decide (32 ≤ (tail s).1 + a.t)

/-- R202: the append needs a slot of the pool (DEDUCED 21: also when tokens remain after a flush of the slot it holds). -/
def needsSlot (a : AppendCmd) (s : Stream) : Bool :=
  decide (((tail s).1 + a.t) % 32 ≠ 0) && (s.slot.isNone || a.needsFrame s)

/-- R227: the lowest fault of the append's own rules. H gives the resources, R what it reads. -/
def fault (a : AppendCmd) (H : Hall) (h : Nat) (x : Ctx) : Option Nat :=
  let fmt := !(([7, 8, 9] : List Nat).contains a.inFmt) || a.rot == 3 || decide (4 ≤ a.flags) || !addrOk a.kAddr || !addrOk a.vAddr
    || (a.rot != 0 && !addrOk a.rotAddr)
  let algn := a.kAddr % 64 != 0 || a.vAddr % 64 != 0 || (a.rot != 0 && a.rotAddr % 64 != 0)
  let head := [(fmt, 0x0301), (decide (a.t < 1 ∨ 32 < a.t), 0x0302), (algn, 0x0303), (!regionOk a.base a.kb, 0x0306)]
  match H.cacheFor x a.stream with
  | none => lowest (head ++ [(true, 0x0309)])
  | some c =>
    let s := c.stream (handleIdx a.stream)
    let w := a.work x c.prm
    let n := s.entries.length - (if (tail s).2.isSome then 1 else 0) + if a.needsFrame s then 1 else 0
    lowest (head ++ [(!(w.ins.all fun r => H.rngOk x r), 0x0304),
      (decide (a.kb < cdiv (pageBytes c.prm c.prm.stage + pageBytes c.prm c.prm.pfmt) 1024), 0x0306),
      (a.pos != s.len, 0x030B), (decide (131072 < a.pos + a.t) || decide (4096 < n), 0x030C),
      (a.needsFrame s && (H.allocFrame c.part c.dom (some c.num) c.prm.quota c.prm.slotGal c.prm.frameCode c.prm.tierFlags h).isNone,
        0x030D),
      (a.needsSlot s && H.askSlot h c == .none, 0x030E), (s.lost, 0x0312)])

/-- R199: new token τ, head g as staged codes: keys and values, with flags. -/
def staged (a : AppendCmd) (R : Hall) (h : Nat) (x : Ctx) (p : CacheParam) (tok g : Nat) : (List Nat × List Nat) × Nat :=
  let w := a.work x p
  let row := fun (i : Nat) => R.rowBytes h ((w.ins[i]?).getD (Rng.flat .dram 0 0)) (tok * p.hg + g)
  let kb := row 0
  let vb := row 1
  let tab := R.rngBytes h ((w.ins[2]?).getD (Rng.flat .dram 0 0))
  let ks := (List.range p.d).map fun c => elemAt a.inFmt kb c
  let vs := (List.range p.d).map fun c => elemAt a.inFmt vb c
  let rs := rotateRow a.rot p.d ks fun c => rotPair tab p.d tok c
  let e := pageElem p.stage
  let kc := rs.map (convert e)
  let vc := vs.map (convert e)
  ((kc.map (·.1), vc.map (·.1)), flagsOr (nanFlag (ks ++ vs) :: (kc ++ vc).map (·.2)))

/-- R201: a page of 32 staged tokens in the flush format, and its flags: codes give a token's staged keys and values. -/
def flushPage (p : CacheParam) (k : Nat → Nat → Nat → Nat) (v : Nat → Nat → Nat → Nat) : List Byte × Nat :=
  let se := pageElem p.stage
  let fe := pageElem p.pfmt
  if pageScaled p.pfmt then
    let kb := (List.range p.hg).flatMap fun g => (List.range 32).flatMap fun t => (List.range (p.d / 32)).map fun b =>
      blockQuant fe ((List.range 32).map fun i => elemVal se (k g t (32 * b + i)))
    let vb := (List.range p.hg).flatMap fun g => (List.range p.d).map fun c =>
      blockQuant fe ((List.range 32).map fun t => elemVal se (v g c t))
    let lk := pageLk p p.pfmt
    let ls := pageLs p p.pfmt
    (fit (packCodes fe (kb.flatMap fun b => b.2.1)) lk ++ fit (kb.flatMap fun b => leBytes 1 b.1) ls
      ++ fit (packCodes fe (vb.flatMap fun b => b.2.1)) lk ++ fit (vb.flatMap fun b => leBytes 1 b.1) ls,
      flagsOr ((kb ++ vb).map fun b => b.2.2))
  else
    let ck := fun (g t c : Nat) => convert fe (elemVal se (k g t c))
    let cv := fun (g c t : Nat) => convert fe (elemVal se (v g c t))
    let fl := (List.range p.hg).flatMap fun g => (List.range 32).flatMap fun t => (List.range p.d).flatMap fun c =>
      [(ck g t c).2, (cv g c t).2]
    (pageOfCodes p p.pfmt (fun g t c => (ck g t c).1) (fun g c t => (cv g c t).1), flagsOr fl)

/-- R200: a token's code of a copied partial page, in the staging format. A page of another cache's staging format is converted under R162 (DEDUCED 300). -/
def restaged (p : CacheParam) (pf code : Nat) : Nat × Nat :=
  if pf = p.stage then (code, 0) else convert (pageElem p.stage) (elemVal (pageElem pf) code)

/-- R200 to R205: what an append builds, with the resources it reserves. -/
def build (a : AppendCmd) (H R : Hall) (h : Nat) (x : Ctx) (c : Cache) : Hall × Built :=
  let p := c.prm
  let s := c.stream (handleIdx a.stream)
  let f := (tail s).1
  let old : List Byte := match s.slot, (tail s).2 with
    | some (ar, _), _ => R.slotBytes c ar
    | none, some e => R.entryBytes h c e
    | none, none => List.replicate (pageBytes p p.stage) 0
  let toks := (List.range a.t).map fun t => (List.range p.hg).map fun g => a.staged R h x p t g
  let new := fun (t g : Nat) => ((((toks[t]?).getD [])[g]?).getD (([], []), 0)).1
  let pf := match (tail s).2 with | some e => e.pfmt | none => p.stage
  let lk := pageLk p pf
  let kOld := fun (g t ch : Nat) => restaged p pf (elemCode (pageElem pf) (slice old 0 lk) ((32 * g + t) * p.d + ch))
  let vOld := fun (g ch t : Nat) => restaged p pf (elemCode (pageElem pf) (slice old lk lk) ((g * p.d + ch) * 32 + t))
  let kc := fun (g t ch : Nat) => if t < f then (kOld g t ch).1 else (((new (t - f) g).1)[ch]?).getD 0
  let vc := fun (g ch t : Nat) => if t < f then (vOld g ch t).1 else (((new (t - f) g).2)[ch]?).getD 0
  let copied := (List.range p.hg).flatMap fun g => (List.range f).flatMap fun t => (List.range p.d).flatMap fun ch =>
    [(kOld g t ch).2, (vOld g ch t).2]
  let nf := flagsOr (copied ++ toks.flatMap fun r => r.map (·.2))
  let entries0 := if (tail s).2.isSome then s.entries.dropLast else s.entries
  let pins : List Pin := match (tail s).2 with | some e => [⟨e.frame, 0, none⟩] | none => []
  let got := if a.needsFrame s then H.allocFrame c.part c.dom (some c.num) p.quota p.slotGal p.frameCode p.tierFlags h else none
  let H1 := match got with | some (_, H1) => H1 | none => H
  let area : Option Nat := if a.needsSlot s then (match H.askSlot h c with | .area n => some n | _ => none) else s.slot.map (·.1)
  let left := (f + a.t) % 32
  let flush := a.needsFrame s
  let page := if flush then flushPage p kc vc else ([], 0)
  let off := if flush then 32 else 0
  let stage := pageOfCodes p p.stage (fun g t ch => if t < left then kc g (t + off) ch else 0)
    (fun g ch t => if t < left then vc g ch (t + off) else 0)
  let entries := match got with | some (n, _) => entries0 ++ [⟨n, p.pfmt, 0⟩] | none => entries0
  let keep := if left = 0 then none else area.map fun n => (n, left)
  let retire := match s.slot with
    | some (ar, _) => if keep.map (·.1) = some ar then [] else [(c.num, ar)]
    | none => []
  (H1,
    { Built.empty with
      writes := match keep with | some (n, _) => [⟨.gal p.slotGal, c.slotAddr n, stage⟩] | none => []
      nstat := nf ||| page.2
      streams := [(a.stream, { s with entries := entries, slot := keep })]
      pages := match got with | some (n, _) => [(n, page.1)] | none => []
      retire := retire
      streamLocks := [a.stream]
      pins := pins
      resFrames := match got with | some (n, _) => [n] | none => []
      resSlots := if a.needsSlot s then (match area with | some n => [(c.num, n)] | none => []) else []
      run := 0 })

end AppendCmd

/-- R200: the device's own bytes that the append reads: its stream's slot or partial page. -/
def AppendCmd.reads (a : AppendCmd) (H : Hall) (c : Cache) : List (Place × Nat × Nat) :=
  let s := c.stream (handleIdx a.stream)
  match s.slot, (AppendCmd.tail s).2 with
  | some (ar, _), _ => [c.slotSpan ar]
  | none, some e => [H.entrySpan c e]
  | none, none => []

/-- R32: the stop pairs of the append's transfers. -/
def AppendCmd.pairs (a : AppendCmd) (H R : Hall) (h : Nat) (x : Ctx) : List (Nat × Nat) :=
  match H.cacheFor x a.stream with
  | none => []
  | some c => let r := a.build H R h x c; r.1.builtPairs (galOf x.core) (a.reads H c) r.2

/-- R227, R359: the lowest fault at issue, a missing route (R32) among them. -/
def AppendCmd.faults (a : AppendCmd) (H R : Hall) (h : Nat) (x : Ctx) : Option Nat :=
  match a.fault H h x with
  | some e => some e
  | none => if (H.missingRoute h x.part x.cls (a.pairs H R h x)).isSome then some 0x0608 else none

/-- The issue of a KV_APPEND: its faults, then its reservations and what it builds. H is the hall, R the hall as it is read. -/
def issueAppend (H R : Hall) (h : Nat) (x : Ctx) (d : List Byte) : Except Nat (Hall × Built) :=
  let a := AppendCmd.ofDesc d
  match H.cacheFor x a.stream with
  | none => .error ((a.fault H h x).getD 0x0309)
  | some c =>
    match R.issueWith x (a.work x c.prm) (a.faults H R h x) (fun _ => Built.empty) with
    | .error e => .error e
    | .ok b0 =>
      let r := a.build H R h x c
      .ok (r.1, { r.2 with ins := b0.ins ++ a.reads H c, outs := b0.outs, gsReads := b0.gsReads })

/-! ### KV_PAGEOP -/

/-- R206: the fields of a KV_PAGEOP. -/
structure PageCmd where
  subop : Nat
  stream : Nat
  src : Nat
  tokens : Nat
  param : Nat
  base : Nat
  kb : Nat
  deriving DecidableEq, Repr

/-- R206: a descriptor's fields. -/
def PageCmd.ofDesc (d : List Byte) : PageCmd :=
  { subop := fld d 16 1, stream := fld d 20 4, src := fld d 24 4, tokens := fld d 28 4, param := fld d 32 4, base := fld d 36 1,
    kb := fld d 37 1 }

/-- R207: a parameter block. -/
def CacheParam.ofBytes (b : List Byte) : CacheParam :=
  { frameCode := fld b 0 1, pfmt := fld b 1 1, stage := fld b 2 1, hg := fld b 3 1, d := fld b 4 2, layers := fld b 6 2,
    groups := fld b 8 2, seqs := fld b 10 2, slotGal := fld b 12 1, tierFlags := fld b 13 1, slotCount := fld b 14 2,
    slotBase := fld b 16 4, quota := fld b 20 4 }

/-- R193, R207, R337: the parameters describe a cache that partition `part` may create. -/
def Hall.geometryOk (H : Hall) (part : Nat) (p : CacheParam) : Bool :=
  decide (p.frameCode ≤ 4) && decide (p.pfmt ≤ 7) && decide (p.stage ≤ 3) && ([1, 2, 4, 8] : List Nat).contains p.hg
    && ([64, 128, 256] : List Nat).contains p.d && decide (1 ≤ p.layers) && decide (p.layers ≤ 256) && decide (1 ≤ p.groups)
    && decide (p.groups ≤ 256) && decide (1 ≤ p.seqs) && decide (p.seqs ≤ 4096)
    && decide (p.seqs * p.layers * p.groups ≤ 1048576)
    && decide (pageBytes p p.pfmt ≤ frameSize p.frameCode) && decide (pageBytes p p.stage ≤ frameSize p.frameCode)
    && decide (p.tierFlags < 8) && decide (p.tierFlags % 4 ≤ 1) && decide (1 ≤ p.slotCount) && decide (p.slotCount ≤ 2048)
    && decide (p.slotBase % 4096 = 0)
    && H.galOk part p.slotGal p.slotBase (p.slotCount * frameSize p.frameCode)

/-- R206: the cache number is in use, or a CREATE in flight has reserved it. -/
def Hall.cacheTaken (H : Hall) (n : Nat) : Bool :=
  (H.cache n).isSome || H.ctxs.any fun x => x.cmds.any fun k => k.stage == .running && (k.built.create.map (·.1)) == some n

namespace PageCmd

/-- R207: the range a CREATE reads. -/
def work (a : PageCmd) (x : Ctx) : Work :=
  { ins := [Rng.flat (x.placeOf a.param) (tierAddr a.param) (if a.subop = 0 then 32 else 0)], outs := [], base := a.base, kb := a.kb }

/-- R203: the streams whose write locks the command takes. -/
def locks (a : PageCmd) : List Nat :=
  match a.subop with
  | 2 => [a.stream, a.src]
  | 3 => [a.stream]
  | 4 => [a.stream]
  | 5 => [a.stream]
  | _ => []

/-- R209: TRUNCATE copies the first r tokens of a page into a new slot: that entry and r. -/
def cutEntry (a : PageCmd) (s : Stream) : Option (Entry × Nat) :=
  let k := a.tokens / 32
  let r := a.tokens % 32
  match s.entries[k]? with
  | none => none
  | some e => if r = 0 || (e.fill ≠ 0 && e.fill ≤ r) then none else some (e, r)

/-- R206, R208: the command writes a slot of fill above 0 into a new frame: the stream it seals. -/
def seals (a : PageCmd) (H : Hall) (x : Ctx) : Option (Nat × Cache × Nat × Nat) :=
  let s := if a.subop = 2 then a.src else a.stream
  if a.subop = 2 || a.subop = 5 then
    match H.cacheFor x s with
    | none => none
    | some c =>
      match (c.stream (handleIdx s)).slot with
      | some (ar, f) => if 0 < f then some (s, c, ar, f) else none
      | none => none
  else none

/-- The lowest fault of the command's own rules (R227). -/
def fault (a : PageCmd) (H R : Hall) (h : Nat) (x : Ctx) : Option Nat :=
  let kbMin := fun (c : Cache) =>
    if a.subop = 2 || a.subop = 4 || a.subop = 5 then cdiv (pageBytes c.prm c.prm.stage + pageBytes c.prm c.prm.pfmt) 1024 else 1
  let head := [(a.subop == 0 && !addrOk a.param, 0x0301), (a.subop == 0 && a.param % 64 != 0, 0x0303),
    (!((a.work x).ins.all fun r => R.rngOk x r), 0x0304), (!regionOk a.base a.kb || decide (a.kb < 1), 0x0306),
    (decide (5 < a.subop), 0x0310)]
  if a.subop = 0 then
    let p := CacheParam.ofBytes (R.readAt h (x.placeOf a.param) (tierAddr a.param) 32)
    lowest (head ++ [(!(H.geometryOk x.part p) || handleIdx a.stream != 0, 0x0310), (H.cacheTaken (handleCache a.stream), 0x0311)])
  else if a.subop = 1 then
    match H.cache (handleCache a.stream) with
    | none => lowest (head ++ [(true, 0x0309)])
    | some c =>
      lowest (head ++ [(c.part != x.part || c.dom != x.dom, 0x0309), (handleIdx a.stream != 0, 0x0310),
        (c.streams.any fun e => !e.2.isEmpty, 0x0311)])
  else
    match H.cacheFor x a.stream with
    | none => lowest (head ++ [(true, 0x0309)])
    | some c =>
      let s := c.stream (handleIdx a.stream)
      let sl := a.seals H x
      let noFrame := match sl with
        | none => false
        | some (_, k, _, _) =>
          (H.allocFrame k.part k.dom (some k.num) k.prm.quota k.prm.slotGal k.prm.frameCode k.prm.tierFlags h).isNone
      let base := head ++ [(decide (a.kb < kbMin c), 0x0306), (noFrame, 0x030D)]
      match a.subop with
      | 2 =>
        match H.cacheFor x a.src with
        | none => lowest (base ++ [(true, 0x0309)])
        | some c2 =>
          let s2 := c2.stream (handleIdx a.src)
          lowest (base ++ [(s2.entries.any fun e => decide (65535 ≤ ((H.frame e.frame).map (·.refs)).getD 0), 0x030F),
            (c.prm.hg != c2.prm.hg || c.prm.d != c2.prm.d || c.prm.frameCode != c2.prm.frameCode, 0x0310), (!s.isEmpty, 0x0311),
            (s.lost || s2.lost, 0x0312)])
      | 3 => lowest base
      | 4 =>
        lowest (base ++ [(decide (s.len < a.tokens), 0x030A), ((a.cutEntry s).isSome && H.askSlot h c == .none, 0x030E),
          (s.lost, 0x0312)])
      | _ => lowest (base ++ [(s.lost, 0x0312)])

/-- R209: the first r tokens of a page as a staged page. -/
def cutPage (p : CacheParam) (pf : Nat) (pg : List Byte) (r : Nat) : List Byte × Nat :=
  let e := pageElem p.stage
  let cut := fun (y : Fp × Fp) => ((convert e (widened y)).1, (convert e (widened y)).2 ||| nanFlag [y.1, y.2])
  let k := fun (g t c : Nat) => if t < r then cut (pageKey p pf pg g t c) else (0, 0)
  let v := fun (g c t : Nat) => if t < r then cut (pageVal p pf pg g c t) else (0, 0)
  let fl := (List.range p.hg).flatMap fun g => (List.range 32).flatMap fun t => (List.range p.d).flatMap fun c =>
    [(k g t c).2, (v g c t).2]
  (pageOfCodes p p.stage (fun g t c => (k g t c).1) (fun g c t => (v g c t).1), flagsOr fl)

/-- A stream sealed into a frame: its slot becomes a PARTIAL entry (R206). -/
def sealed (s : Stream) (c : Cache) (frame f : Nat) : Stream := { s with entries := s.entries ++ [⟨frame, c.prm.stage, f⟩], slot := none }

/-- R206 to R209: what a page operation builds, with the frame it reserves. -/
def build (a : PageCmd) (H R : Hall) (h : Nat) (x : Ctx) : Hall × Built :=
  let sl := a.seals H x
  let got := match sl with
    | none => none
    | some (_, k, _, _) => H.allocFrame k.part k.dom (some k.num) k.prm.quota k.prm.slotGal k.prm.frameCode k.prm.tierFlags h
  let H1 := match got with | some (_, H1) => H1 | none => H
  let sealPart : Built :=
    match sl, got with
    | some (st, k, ar, f), some (n, _) =>
      { Built.empty with
        streams := [(st, sealed (k.stream (handleIdx st)) k n f)]
        pages := [(n, R.slotBytes k ar)]
        retire := [(k.num, ar)]
        resFrames := [n] }
    | _, _ => Built.empty
  let b : Built :=
    match a.subop with
    | 0 =>
      { Built.empty with
        create := some (handleCache a.stream, CacheParam.ofBytes (R.readAt h (x.placeOf a.param) (tierAddr a.param) 32)) }
    | 1 => { Built.empty with destroy := some (handleCache a.stream) }
    | 2 =>
      let srcStream := match sealPart.streams with
        | (_, s) :: _ => s
        | [] => ((H.cacheFor x a.src).map fun (c : Cache) => c.stream (handleIdx a.src)).getD Stream.empty
      { sealPart with streams := sealPart.streams ++ [(a.stream, { Stream.empty with entries := srcStream.entries })] }
    | 3 =>
      match H.cacheFor x a.stream with
      | none => Built.empty
      | some c =>
        { Built.empty with
          streams := [(a.stream, Stream.empty)]
          retire := match (c.stream (handleIdx a.stream)).slot with | some (ar, _) => [(c.num, ar)] | none => [] }
    | 4 =>
      match H.cacheFor x a.stream with
      | none => Built.empty
      | some c =>
        let s := c.stream (handleIdx a.stream)
        let full := (s.entries.filter fun e => e.fill == 0).length
        match a.cutEntry s with
        | some (e, r) =>
          let area := match H.askSlot h c with | .area n => some n | _ => none
          let pg := cutPage c.prm e.pfmt (R.entryBytes h c e) r
          { Built.empty with
            writes := match area with | some n => [⟨.gal c.prm.slotGal, c.slotAddr n, pg.1⟩] | none => []
            nstat := pg.2
            streams := [(a.stream, { s with entries := s.entries.take (a.tokens / 32), slot := area.map fun n => (n, r) })]
            retire := match s.slot with | some (ar, _) => [(c.num, ar)] | none => []
            resSlots := match area with | some n => [(c.num, n)] | none => []
            pins := [⟨e.frame, 0, none⟩] }
        | none =>
          match s.slot with
          | some (ar, _) =>
            if 32 * full < a.tokens then
              { Built.empty with streams := [(a.stream, { s with slot := some (ar, a.tokens - 32 * full) })] }
            else
              { Built.empty with
                streams := [(a.stream, { s with entries := s.entries.take (cdiv a.tokens 32), slot := none })]
                retire := [(c.num, ar)] }
          | none => { Built.empty with streams := [(a.stream, { s with entries := s.entries.take (cdiv a.tokens 32) })] }
    | _ => sealPart
  (H1, { b with streamLocks := a.locks })

end PageCmd

/-- R206, R209: the device's own bytes that the command reads: a slot that it seals, or a page that it cuts. -/
def PageCmd.reads (a : PageCmd) (H : Hall) (x : Ctx) : List (Place × Nat × Nat) :=
  (match a.seals H x with | some (_, c, ar, _) => [c.slotSpan ar] | none => [])
    ++ if a.subop = 4 then
        match H.cacheFor x a.stream with
        | none => []
        | some c => ((a.cutEntry (c.stream (handleIdx a.stream))).map fun e => H.entrySpan c e.1).toList
      else []

/-- R32: the stop pairs of the command's transfers. -/
def PageCmd.pairs (a : PageCmd) (H R : Hall) (h : Nat) (x : Ctx) : List (Nat × Nat) :=
  let r := a.build H R h x
  r.1.builtPairs (galOf x.core) (a.reads H x) r.2

/-- R227, R359: the lowest fault at issue, a missing route (R32) among them. -/
def PageCmd.faults (a : PageCmd) (H R : Hall) (h : Nat) (x : Ctx) : Option Nat :=
  match a.fault H R h x with
  | some e => some e
  | none => if (H.missingRoute h x.part x.cls (a.pairs H R h x)).isSome then some 0x0608 else none

/-- The issue of a KV_PAGEOP. -/
def issuePage (H R : Hall) (h : Nat) (x : Ctx) (d : List Byte) : Except Nat (Hall × Built) :=
  let a := PageCmd.ofDesc d
  match R.issueWith x (a.work x) (a.faults H R h x) (fun _ => Built.empty) with
  | .error e => .error e
  | .ok b0 =>
    let r := a.build H R h x
    .ok (r.1, { r.2 with ins := b0.ins ++ a.reads H x, outs := b0.outs, gsReads := b0.gsReads })

/-! ### Commit -/

/-- R204: serials of the ATTN and ATTN_BWD commands in flight in the hall: Running, neither committed nor killed. -/
def Hall.attnFlight (H : Hall) : List Nat :=
  H.ctxs.flatMap fun x =>
    (x.cmds.filter fun k => (k.op == 0x30 || k.op == 0x34) && k.stage == .running).map (·.serial)

/-- R204: the command with a serial has committed or been killed: nothing waits for it any more, not even for its rerun. -/
def Hall.landed (H : Hall) (serial : Nat) : Hall :=
  { H with mem := { H.mem with deferred := H.mem.deferred.map fun d => { d with waits := d.waits.filter (· != serial) } } }

/-- R346, R343: a frame without references leaves a move: its move is cancelled. The piece taken for an up-move stays its own while it is pinned. -/
def Hall.cancelMove (H : Hall) (n : Nat) : Hall :=
  match H.frame n with
  | none => H
  | some f =>
    match f.st with
    | .movingUp =>
      let H1 := H.onFrame n fun f => { f with st := .dram, forced := false }
      { H1 with mem := { H1.mem with cancelled := inc16 H1.mem.cancelled } }
    | .movingDown =>
      let H1 := H.onFrame n fun f => { f with st := .sram, forced := false }
      { H1 with mem := { H1.mem with cancelled := inc16 H1.mem.cancelled } }
    | _ => H

/-- R346: pieces of cancelled up-moves whose frames nothing pins are freed. -/
def Hall.dropPieces (H : Hall) : Hall :=
  let fs := H.mem.frames.map fun e => (e.1, if e.2.st == .dram && e.2.pins == 0 then { e.2 with piece := none } else e.2)
  (List.range 8).foldl (fun H g => H.tidyBlocks g) { H with mem := { H.mem with frames := fs } }

/-- R204, R211, R346: a frame whose references have reached 0 joins the deferred list. -/
def Hall.deferFrame (H : Hall) (n : Nat) : Hall :=
  let H1 := H.cancelMove n
  { H1 with mem := { H1.mem with deferred := H1.mem.deferred ++ [⟨.frame n, H1.attnFlight⟩] } }

/-- R204: an area of a cache's pool joins the deferred list as a retired slot. -/
def Hall.deferSlot (H : Hall) (s : Nat × Nat) : Hall :=
  match H.cache s.1 with
  | none => H
  | some c =>
    { H with mem := { H.mem with
        deferred := H.mem.deferred ++ [⟨.slot c.part c.prm.slotGal (c.slotAddr s.2) (frameSize c.prm.frameCode), H.attnFlight⟩] } }

/-- A page is still on its way into frame n (R288). -/
def Hall.filling (H : Hall) (n : Nat) : Bool :=
  H.ctxs.any fun x => x.cmds.any fun k => k.stage == .publishing && k.built.pages.any fun p => p.1 == n

/-- R204, R343: deferred items that nothing holds any more are released. -/
def Hall.releaseDeferred (H : Hall) : Hall :=
  let ready := fun (d : Deferred) => d.waits.isEmpty &&
    match d.item with
    | .slot _ _ _ _ => true
    | .frame n => ((H.frame n).map fun f => f.pins == 0).getD true && !H.filling n
  let go := H.mem.deferred.filter ready
  let H1 := { H with mem := { H.mem with deferred := H.mem.deferred.filter fun d => !(ready d) } }
  go.foldl (fun H d => match d.item with | .frame n => H.freeFrame n | .slot _ _ _ _ => H) H1

/-- R210: references of a frame changed by `k`. -/
def Hall.refBy (H : Hall) (n : Nat) (up : Bool) (holds : Bool) : Hall :=
  H.onFrame n fun f =>
    { f with refs := if up then f.refs + 1 else f.refs - 1
             holds := if holds then (if up then f.holds + 1 else f.holds - 1) else f.holds }

/-- A cache's stream record written; an empty unmarked one is not listed. -/
def Cache.setStream (c : Cache) (i : Nat) (s : Stream) : Cache :=
  { c with streams := if s = Stream.empty then kdel c.streams i else kset c.streams i s }

/-- A hall with a cache changed. -/
def Hall.onCache (H : Hall) (n : Nat) (f : Cache → Cache) : Hall :=
  { H with mem := { H.mem with caches := H.mem.caches.map fun c => if c.num = n then f c else c } }

/-- A hall with a cache's stream record written. -/
def Hall.setStream (H : Hall) (handle : Nat) (s : Stream) : Hall :=
  H.onCache (handleCache handle) fun c => c.setStream (handleIdx handle) s

/-- The record of a stream. -/
def Hall.kvStream (H : Hall) (handle : Nat) : Stream :=
  ((H.cache (handleCache handle)).map fun c => c.stream (handleIdx handle)).getD Stream.empty

/-- R195: the frames of cache n's stream records and page lists follow their length; they come from the creating partition's quota. One that is lacking is
not taken, and refuses nothing (DESIGN CHOICE 301). -/
def Hall.fitRecords (H : Hall) (h n : Nat) : Hall :=
  match H.cache n with
  | none => H
  | some c =>
    let want := Config.recordFrames (c.prm.seqs * c.prm.layers * c.prm.groups) (c.streams.foldl (fun a s => a + s.2.entries.length) 0)
    let H1 := (c.records.drop want).foldl (fun (H : Hall) f => H.freeFrame f) H
    let r := (List.range (want - c.records.length)).foldl (fun (a : Hall × List Nat) _ =>
      match a.1.allocFrame c.part c.dom none 0 c.prm.slotGal 4 0 h with
      | some (f, H') => (H', a.2 ++ [f])
      | none => a) (H1, c.records.take want)
    r.1.onCache n fun c => { c with records := r.2 }

/-- R339: the mark of a stream after a commit: a FORK's destination has none, every other stays as it is. -/
def Hall.markAfter (H : Hall) (fresh : Option Nat) (handle : Nat) : Bool := fresh != some handle && (H.kvStream handle).hold

/-- R200, R206, R210, R211, R339: new stream records take effect: every reference and hold is added before any is taken away, and a frame left without
references is deferred. `fresh` is the destination of a FORK. -/
def Hall.commitStreams (H : Hall) (fresh : Option Nat) (ss : List (Nat × Stream)) : Hall :=
  let olds := ss.map fun e => (e.1, H.kvStream e.1)
  let news := ss.map fun e => (e.1, { e.2 with hold := H.markAfter fresh e.1 })
  let H1 := news.foldl (fun H e => e.2.entries.foldl (fun H en => H.refBy en.frame true e.2.hold) H) H
  let H2 := olds.foldl (fun H e => e.2.entries.foldl (fun H en => H.refBy en.frame false e.2.hold) H) H1
  let H3 := news.foldl (fun H e => H.setStream e.1 e.2) H2
  let touched := (olds.flatMap fun e => e.2.entries.map (·.frame)).eraseDups
  touched.foldl (fun H n => if ((H.frame n).map (·.refs)) = some 0 then H.deferFrame n else H) H3

/-- R212: the stream records of a command that take effect: of a stream that a reset has lost since the issue, only DROP's. -/
def Hall.takesEffect (H : Hall) (k : Cmd) : List (Nat × Stream) :=
  k.built.streams.filter fun e => !(H.kvStream e.1).lost || (k.op == 0x32 && fld k.desc 16 1 == 3)

/-- R206 to R212, R195: a KV_APPEND's or KV_PAGEOP's effects on the device's own structures. -/
def Hall.commitKv (H : Hall) (h : Nat) (x : Ctx) (k : Cmd) : Hall :=
  let b := k.built
  let H1 := match b.create with
    | some (n, p) =>
      let c : Cache := { num := n, part := x.part, dom := x.dom, prm := p, streams := [], records := [] }
      let cs := (sortKeys ((H.mem.caches.map fun (c : Cache) => (c.num, c)) ++ [(n, c)])).map fun (q : Nat × Cache) => q.2
      { H with mem := { H.mem with caches := cs } }
    | none => H
  let H2 := match b.destroy with
    | some n =>
      let gone := ((H1.cache n).map fun (c : Cache) => c.records).getD []
      let cs := H1.mem.caches.filter fun (c : Cache) => c.num != n
      gone.foldl (fun (H : Hall) f => H.freeFrame f) { H1 with mem := { H1.mem with caches := cs } }
    | none => H1
  let ss := H2.takesEffect k
  let retire := b.retire.filter fun r => ss.any fun e => handleCache e.1 == r.1 && ((H2.kvStream e.1).slot.map (·.1)) == some r.2
  let H3 := if ss.isEmpty then H2 else H2.commitStreams (if k.op = 0x32 && fld k.desc 16 1 = 2 then some (fld k.desc 20 4) else none) ss
  let H4 := retire.foldl (fun H r => H.deferSlot r) H3
  let H5 := b.resFrames.foldl (fun (H : Hall) n => if ((H.frame n).map (·.refs)) = some 0 then H.freeFrame n else H) H4
  let cs := ((b.create.map (·.1)).toList ++ ss.map fun e => handleCache e.1).eraseDups
  cs.foldl (fun H n => H.fitRecords h n) H5

end Sys2Proof.Machine
end

