-- ==== Sys2Proof/Machine/Matrix.lean ====
section
/-! DEFINITION. The matrix command (04, 05): its descriptor, issue checks, weight banks, timing and results. -/

namespace Sys2Proof.Machine

/-- R131: an array mode: inputs per tile, bytes of a vector per tile, cycles a vector occupies, MACs per cycle. -/
structure ArrayMode where
  code : Nat
  kt : Nat
  vec : Nat
  cpv : Nat
  macs : Nat
  deriving DecidableEq, Repr

/-- M8. -/
def modeM8 : ArrayMode := ⟨0, 128, 128, 1, 16384⟩
/-- M4. -/
def modeM4 : ArrayMode := ⟨1, 256, 128, 1, 32768⟩
/-- M84. -/
def modeM84 : ArrayMode := ⟨2, 256, 256, 2, 16384⟩
/-- M16. -/
def modeM16 : ArrayMode := ⟨3, 64, 128, 2, 4096⟩
/-- LP. -/
def modeLP : ArrayMode := ⟨4, 256, 512, 4, 8192⟩

/-- An 8-bit floating-point ELEM. -/
def isFp8 (e : Nat) : Bool := e == 5 || e == 6

/-- R131: the mode of a pair of ELEM values. -/
def arrayMode (a w : Nat) : Option ArrayMode :=
  if a = 2 && w = 2 then some modeM8
  else if isFp8 a && isFp8 w then some modeM8
  else if a = 1 && w = 1 then some modeM4
  else if a = 4 && w = 4 then some modeM4
  else if a = 2 && w = 1 then some modeM84
  else if isFp8 a && w = 4 then some modeM84
  else if a = 7 && w = 7 then some modeM16
  else if a = 8 && w = 8 then some modeM16
  else if a = 7 && (w = 1 || w = 4) then some modeLP
  else none

/-- R156: ELEM of a format code. -/
def fElem (f : Nat) : Nat := bits f 0 4
/-- R156: SCALE of a format code. -/
def fScale (f : Nat) : Nat := bits f 4 3

/-- R139: the fields of a matrix descriptor. -/
structure MatrixCmd where
  aFmt : Nat
  wFmt : Nat
  oFmt : Nat
  mflags : Nat
  m : Nat
  n : Nat
  k : Nat
  aAddr : Nat
  aStride : Nat
  wAddr : Nat
  oAddr : Nat
  oStride : Nat
  cAddr : Nat
  saAddr : Nat
  swAddr : Nat
  epi : Nat
  base : Nat
  kb : Nat
  deriving DecidableEq, Repr

/-- R139: a descriptor's fields. -/
def MatrixCmd.ofDesc (d : List Byte) : MatrixCmd :=
  { aFmt := fld d 16 1, wFmt := fld d 17 1, oFmt := fld d 18 1, mflags := fld d 19 1, m := fld d 20 2, n := fld d 22 2,
    k := fld d 24 4, aAddr := fld d 28 4, aStride := fld d 32 4, wAddr := fld d 36 4, oAddr := fld d 40 4,
    oStride := fld d 44 4, cAddr := fld d 48 4, saAddr := fld d 52 4, swAddr := fld d 56 4, epi := fld d 60 1,
    base := fld d 61 1, kb := fld d 62 1 }

namespace MatrixCmd

/-- C_MODE. -/
def cMode (c : MatrixCmd) : Nat := bits c.mflags 0 2
/-- SA_EN. -/
def saEn (c : MatrixCmd) : Bool := bit c.mflags 2
/-- SW_EN. -/
def swEn (c : MatrixCmd) : Bool := bit c.mflags 3
/-- OUTLIER. -/
def outlier (c : MatrixCmd) : Bool := bit c.mflags 4
/-- The mode; M8 stands in where R132 faults the command. -/
def mode (c : MatrixCmd) : ArrayMode := (arrayMode (fElem c.aFmt) (fElem c.wFmt)).getD modeM8
/-- R168: a block scale on either side. -/
def blockA (c : MatrixCmd) : Bool := fScale c.aFmt == 3 || fScale c.aFmt == 4
/-- R168: a block scale on the weight side. -/
def blockW (c : MatrixCmd) : Bool := fScale c.wFmt == 3 || fScale c.wFmt == 4
/-- R131, R168: the accumulator is INT32. -/
def intAcc (c : MatrixCmd) : Bool := decide (fElem c.aFmt ≤ 2) && decide (fElem c.wFmt ≤ 2) && !c.blockA && !c.blockW
/-- NT. -/
def nt (c : MatrixCmd) : Nat := cdiv c.n 128
/-- KT. -/
def ktCount (c : MatrixCmd) : Nat := cdiv c.k c.mode.kt
/-- Input tiles per output tile, the outlier tile included (R180). -/
def tilesPer (c : MatrixCmd) : Nat := c.ktCount + if c.outlier then 1 else 0
/-- R171: Ls. -/
def ls (c : MatrixCmd) : Nat := 64 * cdiv (cdiv c.k 32) 64
/-- R171: the block part of SA. -/
def saBlock (c : MatrixCmd) : Nat := if c.blockA then c.m * c.ls else 0
/-- R171: the scale part of SA. -/
def saScale (c : MatrixCmd) : Nat :=
  match fScale c.aFmt with
  | 1 => 4
  | 2 => 4 * c.m
  | 3 => c.saBlock
  | 4 => c.saBlock + 4 * c.m
  | _ => 0
/-- R178: the first outlier vector within SA. -/
def saOut (c : MatrixCmd) : Nat := 64 * cdiv c.saScale 64
/-- R171, R178: the length of SA. -/
def saLen (c : MatrixCmd) : Nat := if c.outlier then c.saOut + 128 * c.m else c.saScale
/-- R171: Lt, the block scales of one weight tile. -/
def lt (c : MatrixCmd) : Nat := 4 * c.mode.kt
/-- R178: where the scale part of SW begins. -/
def swOff (c : MatrixCmd) : Nat := if c.outlier then 384 + 16384 * c.nt else 0
/-- R171: the block part of SW. -/
def swBlock (c : MatrixCmd) : Nat := if c.blockW then c.nt * c.ktCount * c.lt else 0
/-- R171, R178: the length of SW. -/
def swLen (c : MatrixCmd) : Nat :=
  c.swOff +
    match fScale c.wFmt with
    | 1 => 4
    | 2 => 4 * c.n
    | 3 => c.swBlock
    | 4 => c.swBlock + 4 * c.n
    | _ => 0
/-- R141: the row stride of a C_MODE 2 addend. -/
def cStride (c : MatrixCmd) : Nat := 64 * cdiv (4 * c.n) 64

/-- R144: range A. -/
def rngA (c : MatrixCmd) (x : Ctx) : Rng := ⟨x.placeOf c.aAddr, tierAddr c.aAddr, c.m, c.aStride, elemBytes (fElem c.aFmt) c.k⟩
/-- R144: range W. -/
def rngW (c : MatrixCmd) (x : Ctx) : Rng := Rng.flat (x.placeOf c.wAddr) (tierAddr c.wAddr) (c.nt * c.ktCount * 16384)
/-- R144: range C. -/
def rngC (c : MatrixCmd) (x : Ctx) : Rng :=
  match c.cMode with
  | 1 => Rng.flat (x.placeOf c.cAddr) (tierAddr c.cAddr) (4 * c.n)
  | 2 => Rng.flat (x.placeOf c.cAddr) (tierAddr c.cAddr) (c.m * c.cStride)
  | _ => Rng.flat (x.placeOf c.cAddr) (tierAddr c.cAddr) 0
/-- R171: range SA. -/
def rngSA (c : MatrixCmd) (x : Ctx) : Rng :=
  Rng.flat (x.placeOf c.saAddr) (tierAddr c.saAddr) (if c.saEn then c.saLen else 0)
/-- R171: range SW. -/
def rngSW (c : MatrixCmd) (x : Ctx) : Rng :=
  Rng.flat (x.placeOf c.swAddr) (tierAddr c.swAddr) (if c.swEn then c.swLen else 0)
/-- R144: range O. -/
def rngO (c : MatrixCmd) (x : Ctx) : Rng := ⟨x.placeOf c.oAddr, tierAddr c.oAddr, c.m, c.oStride, elemBytes (fElem c.oFmt) c.n⟩

/-- The command's ranges and region. -/
def work (c : MatrixCmd) (x : Ctx) : Work :=
  { ins := [c.rngA x, c.rngW x, c.rngC x, c.rngSA x, c.rngSW x], outs := [c.rngO x], base := c.base, kb := c.kb }

/-- R168: a scale kind that an element format may carry. -/
def scaleOk (f : Nat) : Bool :=
  match fScale f with
  | 0 => true
  | 1 => ([1, 2, 4, 5, 6, 7, 8] : List Nat).contains (fElem f)
  | 2 => ([1, 2, 4, 5, 6, 7, 8] : List Nat).contains (fElem f)
  | 3 => ([1, 2, 4, 5, 6] : List Nat).contains (fElem f)
  | 4 => ([1, 2, 4, 5, 6] : List Nat).contains (fElem f)
  | _ => false

/-- R153: ARRAY_FORMAT does not apply (R131, R141 to R143, R156, R168, R177, R178). -/
def formatOk (c : MatrixCmd) : Bool :=
  (arrayMode (fElem c.aFmt) (fElem c.wFmt)).isSome && !bit c.aFmt 7 && !bit c.wFmt 7
    && scaleOk c.aFmt && scaleOk c.wFmt
    && !(c.mode.code == 4 && c.blockA)
    && ([2, 3, 5, 6, 7, 8, 9] : List Nat).contains c.oFmt
    && (c.oFmt != 3 || (c.intAcc && c.epi == 0 && !c.saEn && !c.swEn))
    && (c.saEn == (fScale c.aFmt != 0 || c.outlier)) && (c.swEn == (fScale c.wFmt != 0 || c.outlier))
    && (!c.outlier || c.mode.code == 2)
    && c.cMode != 3 && decide (c.epi ≤ 7) && decide (c.mflags < 32)
    && addrOk c.aAddr && addrOk c.wAddr && addrOk c.oAddr && (c.cMode == 0 || addrOk c.cAddr)
    && (!c.saEn || addrOk c.saAddr) && (!c.swEn || addrOk c.swAddr)

/-- R153: ARRAY_SHAPE does not apply. -/
def shapeOk (c : MatrixCmd) : Bool :=
  decide (1 ≤ c.m) && decide (c.m ≤ 4096) && decide (1 ≤ c.n) && decide (c.n ≤ 4096) && decide (1 ≤ c.k)
    && decide (c.k ≤ 1048576)
    && (c.m == 1 || (decide (elemBytes (fElem c.aFmt) c.k ≤ c.aStride) && decide (elemBytes (fElem c.oFmt) c.n ≤ c.oStride)))

/-- R153: ARRAY_ALIGN does not apply. -/
def alignOk (c : MatrixCmd) : Bool :=
  let m64 := fun (a : Nat) => decide (a % 64 = 0)
  decide (c.wAddr % 128 = 0) && m64 c.aAddr && m64 c.oAddr && m64 c.aStride && m64 c.oStride
    && (c.cMode == 0 || m64 c.cAddr) && (!c.saEn || m64 c.saAddr) && (!c.swEn || m64 c.swAddr)

/-- R147: the region's lower bound. -/
def accOk (c : MatrixCmd) : Bool :=
  regionOk c.base c.kb
    && decide (c.m * 512 + c.m * (64 * cdiv (elemBytes (fElem c.oFmt) c.n) 64) ≤ c.kb * 1024)

/-- R151, R180: S of a tile. -/
def sTile (c : MatrixCmd) (out : Bool) : Nat := c.m * if out then 2 else c.mode.cpv

/-- R152: T with every tile counted as a miss. -/
def worst (c : MatrixCmd) : Nat :=
  let s := c.sTile false
  128 + (c.nt * c.tilesPer - 1) * max s 128 + s + 167

/-- R153: the lowest fault that the command's own rules give. -/
def fault (c : MatrixCmd) (H : Hall) (x : Ctx) : Option Nat :=
  let w := c.work x
  lowest [(!c.formatOk, 0x0201), (!c.shapeOk, 0x0202), (!c.alignOk, 0x0203),
    ((c.rngO x).inHalo || !((w.ins ++ w.outs).all fun r => H.rngOk x r), 0x0204),
    (anyMeet (spans w.outs) (spans w.ins), 0x0205), (!c.accOk, 0x0206), (decide (c.worst > 65536), 0x0207)]

/-! ### Weight banks -/

/-- A weight tile of the walk: whether it is an outlier tile, its source address field, its block-scale address field and length. -/
structure Tile where
  out : Bool
  addr : Nat
  side : Nat
  sideLen : Nat
  deriving DecidableEq, Repr

/-- An address field moved on by n bytes. -/
def fieldAdd (a n : Nat) : Nat := (if bit a 31 then 2 ^ 31 else 0) + tierAddr a + n

/-- R146, R180: the tiles in the order of the walk. -/
def tiles (c : MatrixCmd) : List Tile :=
  (List.range c.nt).flatMap fun nt =>
    ((List.range c.ktCount).map fun kt =>
      let i := nt * c.ktCount + kt
      ⟨false, fieldAdd c.wAddr (i * 16384), fieldAdd c.swAddr (c.swOff + i * c.lt), if c.blockW then c.lt else 0⟩)
    ++ if c.outlier then [⟨true, fieldAdd c.swAddr (384 + 16384 * nt), 0, 0⟩] else []

/-- R136: a tile that may hit: its source lies in the operand store outside the halo region. -/
def Tile.mayHit (t : Tile) : Bool := !bit t.addr 31 && decide (tierAddr t.addr + 16384 ≤ haloBase)

/-- R180: the W_FMT that stands in a tile's tag. -/
def tagFmt (c : MatrixCmd) (t : Tile) : Nat := if t.out then 7 else c.wFmt

/-- R136: a bank holds the tile. -/
def bankHit (c : MatrixCmd) (x : Ctx) (t : Tile) (b : Bank) : Bool :=
  b.valid && !b.off && t.mayHit && b.src == some t.addr && b.wfmt == c.tagFmt t && b.part == x.part && b.dom == x.dom

/-- R173: the bank's sidecar holds the tile's block scales. -/
def sideHit (x : Ctx) (t : Tile) (b : Bank) : Bool :=
  t.sideLen == 0 || (b.sideValid && b.sideSrc == t.side && b.part == x.part && b.dom == x.dom)

/-- A tile that the array reads: its place in the walk, the product that it belongs to, the cycles of its vectors. -/
structure Read where
  idx : Nat
  c : MatrixCmd
  s : Nat
  t : Tile
  deriving DecidableEq, Repr

/-- The walk of R146 over the banks: banks and recency as they stand; for each bank the tile of this run that it holds and the cycle at which it
landed; the bank read last and the cycle at which that read ends; the cycle at which the load path is free; the events, the tiles' contents, hits
and loads. -/
structure Walk where
  banks : List Bank
  recency : List Nat
  own : List (Option Nat)
  land : List Nat
  reading : Option Nat
  done : Nat
  loader : Nat
  loads : List BankLoad
  reads : List (Nat × Nat)
  /-- weight bytes and block-scale bytes of each tile, in order -/
  data : List (List Byte × List Byte)
  hits : Nat
  missed : Nat

/-- A walk that begins: the array is free from cycle `done`, the load path from cycle `loader`. -/
def Walk.begin (k : Core) (done loader : Nat) : Walk :=
  { banks := k.banks, recency := k.recency, own := List.replicate 16 none, land := List.replicate 16 0, reading := none, done := done
    loader := loader, loads := [], reads := [], data := [], hits := 0, missed := 0 }

/-- Bank i of a walk. -/
def Walk.bank (w : Walk) (i : Nat) : Bank := (w.banks[i]?).getD Bank.empty

/-- R136: the bank that holds a tile whatever its sidecar holds. -/
def Walk.hit (w : Walk) (x : Ctx) (q : Read) : Option Nat := (List.range 16).find? fun i => q.c.bankHit x q.t (w.bank i)

/-- R136, R173: the bank from which a tile can be read without a load, once what is landing there has landed. -/
def Walk.ready (w : Walk) (x : Ctx) (q : Read) : Option Nat :=
  match (List.range 16).find? fun i => (w.own[i]?).getD none == some q.idx with
  | some i => some i
  | none => (w.hit x q).filter fun i => sideHit x q.t (w.bank i)

/-- R128: the bank that the array is reading in the cycle in which the next load starts. -/
def Walk.busy (w : Walk) : Option Nat := if w.loader < w.done then w.reading else none

/-- R138: the bank that a load starting now goes into, `rest` being the tiles still to read: the lowest not VALID; else the least recently read, but
not the bank being read, one that holds a tile still to read, or one out of service; where those leave none, the one whose tile is read last. -/
def Walk.victim (w : Walk) (x : Ctx) (rest : List Read) : Nat :=
  let able := (List.range 16).filter fun i => !(w.bank i).off && w.busy != some i
  match able.find? fun i => !(w.bank i).valid with
  | some i => i
  | none =>
    let needed := rest.filterMap fun q => w.ready x q
    match w.recency.find? fun i => able.contains i && !needed.contains i with
    | some i => i
    | none => (needed.reverse.find? fun i => able.contains i).getD (able.headD 0)

/-- R128, R135, R138, R173: the next load: the first tile still to read that no bank holds, or its block scales alone where its bank hits. -/
def Walk.load (w : Walk) (H : Hall) (h : Nat) (x : Ctx) (rest : List Read) (q : Read) : Walk :=
  let side := H.readAt h (x.placeOf q.t.side) (tierAddr q.t.side) q.t.sideLen
  let i := match w.hit x q with | some i => i | none => w.victim x rest
  let whole := (w.hit x q).isNone
  let b := w.bank i
  let b1 : Bank :=
    if whole then
      { b with
        valid := true, src := some q.t.addr, wfmt := q.c.tagFmt q.t, part := x.part, dom := x.dom
        tile := H.readAt h (x.placeOf q.t.addr) (tierAddr q.t.addr) 16384
        sideValid := decide (0 < q.t.sideLen), sideSrc := q.t.side, side := side }
    else { b with sideValid := true, sideSrc := q.t.side, side := side }
  { w with
    banks := modAt w.banks i fun _ => b1
    own := modAt w.own i fun _ => some q.idx
    land := modAt w.land i fun _ => w.loader + 128
    loader := w.loader + 128
    loads := w.loads ++ [⟨w.loader + 128, i, whole, b1⟩]
    hits := w.hits + if whole then 0 else 1
    missed := w.missed + 1 }

/-- R146, R151: the array reads a tile from bank i: from the later of the end of the tile before and the landing of its load. -/
def Walk.read (w : Walk) (q : Read) (i : Nat) : Walk :=
  let start := max w.done ((w.land[i]?).getD 0)
  let b := w.bank i
  { w with
    recency := (w.recency.filter (· != i)) ++ [i]
    reading := some i
    done := start + q.s
    reads := w.reads ++ [(start, i)]
    data := w.data ++ [(b.tile, b.side)]
    hits := w.hits + if (w.own[i]?).getD none == some q.idx then 0 else 1 }

/-- R128, R146: the walk over the tiles still to read, in the order of its events: loads run back to back while a tile still to read lies in no bank,
and the array starts a tile once the one before has ended and its own has landed. The fuel bounds the loads and reads. -/
def Walk.run (H : Hall) (h : Nat) (x : Ctx) : Nat → List Read → Walk → Walk
  | 0, _, w => w
  | _ + 1, [], w => w
  | fuel + 1, q :: rest, w =>
    match w.ready x q, (q :: rest).find? fun p => (w.ready x p).isNone with
    | some i, none => Walk.run H h x fuel rest (w.read q i)
    | some i, some p =>
      if max w.done ((w.land[i]?).getD 0) ≤ w.loader then Walk.run H h x fuel rest (w.read q i)
      else Walk.run H h x fuel (q :: rest) (w.load H h x (q :: rest) p)
    | none, _ => Walk.run H h x fuel (q :: rest) (w.load H h x (q :: rest) q)

/-- Fuel for a walk: each tile is read once, and the loads of R138 take 128 cycles each. -/
def walkSteps (qs : List Read) : Nat := qs.foldl (fun a q => a + q.s / 128 + 3) 32

/-- The tiles of a command, each read in `s` cycles or, an outlier tile, in the cycles of R180. -/
def reads (c : MatrixCmd) (s : Tile → Nat) : List Read := (c.tiles.zip (List.range c.tiles.length)).map fun e => ⟨e.2, c, s e.1, e.1⟩

/-- The whole walk; with OUTLIER the header read takes the first 16 cycles (R180). -/
def walk (c : MatrixCmd) (H : Hall) (h : Nat) (x : Ctx) : Walk :=
  let qs := c.reads fun t => c.sTile t.out
  Walk.run H h x (walkSteps qs) qs (Walk.begin (H.core x.core) (if c.outlier then 16 else 0) 0)

/-! ### Results -/

/-- What the results of a command are computed from. -/
structure Inputs where
  /-- activation bytes of each vector -/
  a : List (List Byte)
  /-- SA bytes -/
  sa : List Byte
  /-- SW bytes -/
  sw : List Byte
  /-- addend bytes -/
  cb : List Byte
  /-- tiles of the walk: weight bytes and block scales -/
  tiles : List (List Byte × List Byte)
  /-- R257: input k of vector m lies in padding -/
  skip : Nat → Nat → Bool := fun _ _ => false

/-- R179: J. -/
def outJ (c : MatrixCmd) (i : Inputs) : Nat := if c.outlier then min 64 (fld i.sw 0 2) else 0

/-- R179: the listed channel j. -/
def outCh (i : Inputs) (j : Nat) : Nat := fld i.sw (64 + 4 * j) 4

/-- R179: the main path's lane for input k contributes zero. -/
def masked (c : MatrixCmd) (i : Inputs) (k : Nat) : Bool := (List.range (c.outJ i)).any fun j => outCh i j == k

/-- R133: the tile of output tile nt and walk index kt. -/
def tileAt (c : MatrixCmd) (i : Inputs) (nt kt : Nat) : List Byte × List Byte := (i.tiles[nt * c.tilesPer + kt]?).getD ([], [])

/-- The activation and the weight of vector m, column n and input k, where the lane takes part (R134, R179). -/
def lanePair (c : MatrixCmd) (i : Inputs) (m n k : Nat) : Option (Fp × Fp) :=
  if k ≥ c.k || c.masked i k || i.skip m k then none
  else
    let kt := k / c.mode.kt
    let t := (c.tileAt i (n / 128) kt).1
    some (elemAt (fElem c.aFmt) ((i.a[m]?).getD []) k,
      elemAt (fElem c.wFmt) (slice t (128 * (n % 128)) 128) (k % c.mode.kt))

/-- R177: a lookup entry: the exact product within the FP32 range. -/
def lookup (a w : Fp) : Fp := (a.mul w).round32

/-- The lane terms of inputs lo to lo + cnt - 1. -/
def lanes (c : MatrixCmd) (i : Inputs) (m n lo cnt : Nat) : List Fp :=
  (List.range' lo cnt).filterMap fun k =>
    (c.lanePair i m n k).map fun p => if c.mode.code == 4 then lookup p.1 p.2 else p.1.mul p.2

/-- R163: NAN_IN of the lanes of a tile. -/
def laneNan (c : MatrixCmd) (i : Inputs) (m n lo cnt : Nat) : Nat :=
  if (List.range' lo cnt).any (fun k =>
    match c.lanePair i m n k with
    | some (a, w) => a.isNan || w.isNan
    | none => false) then nanIn else 0

/-- R174, R170: block b (32 inputs from 32 b on) of a tile: its sum times the block scales, and its flags; none where it lies
wholly at or above K. -/
def blockTerm (c : MatrixCmd) (i : Inputs) (m n kt b : Nat) : Option (Fp × Nat) :=
  let k0 := kt * c.mode.kt + 32 * b
  if k0 ≥ c.k then none
  else
    let ts := c.lanes i m n k0 32
    let s := if c.mode.code == 4 then Fp.alignedTotal ts else Fp.sum ts
    let sa := if c.blockA then e8m0 (fld i.sa (m * c.ls + k0 / 32) 1) else .fin false 1 0
    let sw := if c.blockW then e8m0 (fld (c.tileAt i (n / 128) kt).2 ((n % 128) * (c.mode.kt / 32) + b) 1) else .fin false 1 0
    let mx := (if c.blockA && fElem c.aFmt == 2 then (-6 : Int) else 0) + (if c.blockW && fElem c.wFmt == 2 then -6 else 0)
    some (((s.scale mx).mul sa).mul sw, nanFlag [sa, sw])

/-- R181, R182: the sum of tile kt for output (m, n), in FP32, and its flags. -/
def tileSum (c : MatrixCmd) (i : Inputs) (m n kt : Nat) : Fp × Nat :=
  let lo := kt * c.mode.kt
  let nf := c.laneNan i m n lo c.mode.kt
  if c.blockA || c.blockW then
    let bs := (List.range (c.mode.kt / 32)).filterMap fun b => c.blockTerm i m n kt b
    (Fp.alignedSum (bs.map (·.1)), flagsOr (nf :: bs.map (·.2)))
  else
    let ts := c.lanes i m n lo c.mode.kt
    ((if c.mode.code == 3 || c.mode.code == 4 then Fp.alignedSum ts else Fp.exactSum ts), nf)

/-- R181: the integer sum of tile kt. -/
def tileInt (c : MatrixCmd) (i : Inputs) (m n kt : Nat) : Int :=
  (List.range' (kt * c.mode.kt) c.mode.kt).foldl (fun a k =>
    match c.lanePair i m n k with
    | some (.fin s p _, .fin t q _) => if s != t then a - (p * q : Nat) else a + (p * q : Nat)
    | _ => a) 0

/-- R141: the addend's code for output (m, n). -/
def addend (c : MatrixCmd) (i : Inputs) (m n : Nat) : Option Nat :=
  match c.cMode with
  | 1 => some (fld i.cb (4 * n) 4)
  | 2 => some (fld i.cb (m * c.cStride + 4 * n) 4)
  | _ => none

/-- R181: the INT32 accumulator of an output, and ACC_SAT. -/
def accInt (c : MatrixCmd) (i : Inputs) (m n : Nat) : Int × Nat :=
  let s := (List.range c.ktCount).foldl (fun (a : Int × Nat) kt =>
    let r := accAdd a.1 (c.tileInt i m n kt)
    (r.1, a.2 ||| r.2)) (0, 0)
  match c.addend i m n with
  | none => s
  | some v => let r := accAdd s.1 (sint 32 v); (r.1, s.2 ||| r.2)

/-- R183: the FP32 accumulator of an output, and its flags. -/
def accFp (c : MatrixCmd) (i : Inputs) (m n : Nat) : Fp × Nat :=
  let ts := (List.range c.ktCount).map fun kt => c.tileSum i m n kt
  let s := match ts with
    | [] => Fp.zero
    | t :: r => r.foldl (fun a u => a.add32 u.1) t.1
  let fl := flagsOr (ts.map (·.2))
  match c.addend i m n with
  | none => (s, fl)
  | some v => (s.add32 (fp32 v), fl ||| nanFlag [fp32 v])

/-- R174: the tensor or row scale of a side, where its SCALE has one: kind, bytes, offset of the row part, index. -/
def rowScale (scale : Nat) (bs : List Byte) (off rowOff idx : Nat) : Option Fp :=
  match scale with
  | 1 => some (fp32 (fld bs off 4))
  | 2 => some (fp32 (fld bs (off + 4 * idx) 4))
  | 4 => some (fp32 (fld bs (rowOff + 4 * idx) 4))
  | _ => none

/-- R178, R180: the outlier sum of an output, and its flags. -/
def outlierSum (c : MatrixCmd) (i : Inputs) (m n : Nat) : Fp × Nat :=
  let t := (c.tileAt i (n / 128) c.ktCount).1
  let ps := (List.range (c.outJ i)).map fun j =>
    (elemAt 7 (slice i.sa (c.saOut + 128 * m) 128) j, elemAt 7 (slice t (128 * (n % 128)) 128) j)
  (Fp.alignedSum (ps.map fun p => p.1.mul p.2), flagsOr (ps.map fun p => nanFlag [p.1, p.2]))

/-- R174: output element (m, n): its code in O_FMT and its flags. -/
def element (c : MatrixCmd) (i : Inputs) (m n : Nat) : Nat × Nat :=
  let acc : Fp × Nat := if c.intAcc then (let r := c.accInt i m n; ((Fp.int r.1), r.2)) else c.accFp i m n
  if c.oFmt = 3 then (sbits 32 (c.accInt i m n).1, acc.2)
  else
    let v0 := acc.1.round32
    let sa := rowScale (fScale c.aFmt) i.sa 0 c.saBlock m
    let v1 := match sa with | none => v0 | some s => v0.mul32 s
    let sw := rowScale (fScale c.wFmt) i.sw c.swOff (c.swOff + c.swBlock) n
    let v2 := match sw with | none => v1 | some s => v1.mul32 s
    let o := if c.outlier then c.outlierSum i m n else (Fp.zero, 0)
    let v3 := if c.outlier then v2.add32 o.1 else v2
    let r := convert (fElem c.oFmt) (gate c.epi v3)
    (r.1, flagsOr [acc.2, nanFlag (sa.toList ++ sw.toList), o.2, r.2])

/-- The rows of range O: bytes and flags. -/
def rowOut (c : MatrixCmd) (i : Inputs) (m : Nat) : List Byte × Nat :=
  let es := (List.range c.n).map fun n => c.element i m n
  (packCodes (fElem c.oFmt) (es.map (·.1)), flagsOr (es.map (·.2)))

/-- R146 to R152: what a matrix command builds. -/
def build (c : MatrixCmd) (H : Hall) (h : Nat) (x : Ctx) : Built :=
  let w := c.walk H h x
  let i : Inputs :=
    { a := (List.range c.m).map fun m => H.rowBytes h (c.rngA x) m
      sa := H.rngBytes h (c.rngSA x), sw := H.rngBytes h (c.rngSW x), cb := H.rngBytes h (c.rngC x), tiles := w.data }
  let rows := (List.range c.m).map fun m => c.rowOut i m
  let o := c.rngO x
  { Built.empty with
    writes := (rows.zip (List.range c.m)).map fun r => ⟨o.place, o.row r.2, r.1.1⟩
    nstat := flagsOr (rows.map (·.2))
    run := w.done + 167
    macs := c.nt * (c.ktCount * c.sTile false * c.mode.macs + if c.outlier then c.sTile true * 4096 else 0)
    loads := w.missed
    hits := w.hits
    bankLoads := w.loads
    bankReads := w.reads }

end MatrixCmd

/-- The issue of a matrix command. -/
def issueMatrix (H : Hall) (h : Nat) (x : Ctx) (d : List Byte) : Issue :=
  let c := MatrixCmd.ofDesc d
  H.issueWith x (c.work x) (c.fault H x) fun _ => c.build H h x

end Sys2Proof.Machine
end

