-- ==== Sys2Proof/Machine/Attn.lean ====
section
/-! DEFINITION. Attention (06, R213 to R226): ATTN over a stream's snapshot, ATTN_MERGE over its states, ATTN_BWD over one page. -/

namespace Sys2Proof.Machine

/-! ### What the attention engine shares -/

/-- R181 to R183, R174: a dot product of n inputs as the array forms it: `lane` gives the pair of an input that takes part, `scale`
the block scale of 32 inputs where the weights carry one. The flags are NSTAT's. -/
def arrayDot (mode : ArrayMode) (n : Nat) (lane : Nat → Option (Fp × Fp)) (scale : Option (Nat → Fp)) : Fp × Nat :=
  let term := fun (p : Fp × Fp) => if mode.code == 4 then MatrixCmd.lookup p.1 p.2 else p.1.mul p.2
  let lanesOf : Nat → Nat → List (Fp × Fp) := fun lo cnt => (List.range' lo cnt).filterMap fun k => if k < n then lane k else none
  let chunks : List (Fp × Nat) := (List.range (cdiv n mode.kt)).map fun kt =>
    let ps := lanesOf (kt * mode.kt) mode.kt
    let nf := if ps.any fun p => p.1.isNan || p.2.isNan then nanIn else 0
    match scale with
    | some sc =>
      let bs := (List.range (mode.kt / 32)).filterMap fun b =>
        let k0 := kt * mode.kt + 32 * b
        if k0 < n then
          let ts := (lanesOf k0 32).map term
          some ((if mode.code == 4 then Fp.alignedTotal ts else Fp.sum ts).mul (sc (k0 / 32)), nanFlag [sc (k0 / 32)])
        else none
      (Fp.alignedSum (bs.map (·.1)), flagsOr (nf :: bs.map (·.2)))
    | none =>
      let ts := ps.map term
      ((if mode.code == 3 || mode.code == 4 then Fp.alignedSum ts else Fp.exactSum ts), nf)
  let s := match chunks with
    | [] => Fp.zero
    | t :: r => r.foldl (fun a u => a.add32 u.1) t.1
  (s, flagsOr (chunks.map (·.2)))

/-- R218: FP32 values added in an order that the manual leaves open: each step's choice of two terms is a free value. -/
def freeSum : Nat → List Fp → Fp
  | 0, l => l.headD Fp.zero
  | fuel + 1, l =>
    match l with
    | [] => Fp.zero
    | [x] => x
    | _ =>
      let k := Config.sumOrder (l.map fun x => BitVec.ofNat 32 x.bits32) l.length
      let i := k % l.length
      let rest := l.eraseIdx i
      let j := k / l.length % rest.length
      freeSum fuel (rest.eraseIdx j ++ [((l[i]?).getD Fp.zero).add32 ((rest[j]?).getD Fp.zero)])

/-- R218: bank loads of tiles that never hit: each takes a bank by R138 and leaves no source in its tag. -/
def anonLoads (wfmt part dom step : Nat) : Nat → Nat → List Bank → List Nat → List BankLoad → List BankLoad
  | 0, _, _, _, acc => acc
  | n + 1, cyc, banks, recency, acc =>
    let bank := fun (i : Nat) => (banks[i]?).getD Bank.empty
    let i := match (List.range 16).find? fun i => !(bank i).valid && !(bank i).off with
      | some i => i
      | none => (recency.find? fun i => !(bank i).off).getD 0
    let b := { bank i with
      valid := true, src := none, wfmt := wfmt, part := part, dom := dom, tile := [], sideValid := false, sideSrc := 0, side := [] }
    anonLoads wfmt part dom step n (cyc + step) (modAt banks i fun _ => b) (recency.filter (· != i) ++ [i]) (acc ++ [⟨cyc + step, i, true, b⟩])

/-- R215: a page of a snapshot: the entry's frame or the slot's area, its format, the index of its first token and its tokens. -/
structure Page where
  frame : Option Nat
  area : Nat
  pf : Nat
  tok : Nat
  n : Nat
  deriving DecidableEq, Repr

/-- R215: the pages of a stream, in order. -/
def pagesOf (s : Stream) (p : CacheParam) : List Page :=
  let r := s.entries.foldl (fun (a : Nat × List Page) e =>
    let n := if e.fill = 0 then 32 else e.fill
    (a.1 + n, a.2 ++ [⟨some e.frame, 0, e.pfmt, a.1, n⟩])) (0, [])
  match s.slot with
  | some (ar, f) => r.2 ++ (if 0 < f then [⟨none, ar, p.stage, r.1, f⟩] else [])
  | none => r.2

/-- R215: the pages that cover tokens b to e - 1. -/
def snapshot (s : Stream) (p : CacheParam) (b e : Nat) : List Page :=
  (pagesOf s p).filter fun g => decide (g.tok < e) && decide (b < g.tok + g.n)

/-- The bytes of a page. -/
def Hall.pageRead (H : Hall) (h : Nat) (c : Cache) (g : Page) : List Byte :=
  match g.frame with
  | some n => H.frameRead h n (pageBytes c.prm g.pf)
  | none => H.slotBytes c g.area

/-- R338: the span of a page where it lies now. -/
def Hall.pageSpan (H : Hall) (c : Cache) (g : Page) : Place × Nat × Nat :=
  match g.frame with
  | none => c.slotSpan g.area
  | some n => H.frameSpan n (pageBytes c.prm g.pf)

/-- R338: the gallery store and range of a page there; none at its DRAM home. -/
def Hall.pageAt (H : Hall) (c : Cache) (g : Page) : Option (Nat × Nat × Nat) :=
  match H.pageSpan c g with
  | (.gal gal, a, z) => some (gal, a, z + 1 - a)
  | _ => none

/-- R536: the fault of reading pages. -/
def Hall.pagesFault (H : Hall) (c : Cache) (gs : List Page) : Option Nat :=
  (gs.filterMap fun g =>
    match H.pageAt c g with
    | some (gal, a, n) => (H.gal gal).store.readFault a n
    | none => none).min?

/-- R577: pages read: the lines of those at their DRAM homes counted. -/
def Hall.readPages (H : Hall) (c : Cache) (gs : List Page) : Hall :=
  gs.foldl (fun H g =>
    match H.pageSpan c g with
    | (.dram, a, _) => H.countReads a (pageBytes c.prm g.pf)
    | _ => H) H

/-- R218, R343: the pins of a run's tiles, in the order of their fetches: each holds from the start of its fetch until its last bank has loaded. -/
def tilePins (serial : Nat) (tiles : List (List Nat)) : List Pin :=
  (tiles.foldl (fun (a : Nat × Nat × List Pin) fs =>
    let f := Config.tileFetch serial a.1
    let start := if a.1 = 0 then 0 else a.2.1 + f.1
    (a.1 + 1, start, a.2.2 ++ fs.map fun n => ⟨n, start, some (start + f.2 + 1)⟩)) (0, 0, [])).2.2

/-- R216: tiles of a snapshot: consecutive full pages of one format up to TT tokens; a partial page and the slot each alone. -/
def tokenTiles (ps : List Page) : List (Nat × List Page) :=
  (ps.foldl (fun (acc : List (Nat × List Page)) g =>
    let full := g.n == 32 && g.frame.isSome
    match acc with
    | (pf, l) :: r =>
      let open? := l.all (fun q => q.n == 32 && q.frame.isSome) && pf == g.pf && decide (l.length < pageTT pf / 32)
      if full && open? then (pf, l ++ [g]) :: r else (g.pf, [g]) :: acc
    | [] => [(g.pf, [g])]) []).reverse

/-- R219: bytes of a state row. -/
def stateRow (d : Nat) : Nat := 64 * cdiv (4 * d + 8) 64

/-- A row of an online softmax: its accumulator, maximum, sum and flags. -/
structure SoftRow where
  o : List Fp
  m : Fp
  l : Fp
  nf : Nat

/-- The row before the first tile. -/
def SoftRow.start (d : Nat) : SoftRow := ⟨List.replicate d Fp.zero, .inf true, Fp.zero, 0⟩

/-- R219: a state row's bytes. -/
def SoftRow.bytes (r : SoftRow) (d : Nat) : List Byte :=
  fit ((r.o ++ [r.m, r.l]).flatMap fun x => leBytes 4 x.bits32) (stateRow d)

/-- R219: a state row read. -/
def SoftRow.ofBytes (bs : List Byte) (d : Nat) : SoftRow :=
  let o := (List.range d).map fun i => fp32 (fld bs (4 * i) 4)
  let m := fp32 (fld bs (4 * d) 4)
  let l := fp32 (fld bs (4 * d + 4) 4)
  ⟨o, m, l, nanFlag (m :: l :: o)⟩

/-- R218: a finished output row in O_FMT and its flags: zero where l is 0. -/
def SoftRow.finish (r : SoftRow) (elem : Nat) : List Byte × Nat :=
  let xs := if r.l.isZero then r.o.map fun _ => Fp.zero else r.o.map fun x => x.mul32 (gate 7 r.l)
  let q := convertAll elem xs
  (q.1, q.2 ||| r.nf)

/-- R219: a row's statistics. -/
def SoftRow.stats (r : SoftRow) : List Byte := leBytes 4 r.m.bits32 ++ leBytes 4 r.l.bits32

/-- R163: an infinite element of an output state row. -/
def SoftRow.stateFlag (r : SoftRow) : Nat := infFlag (r.m :: r.l :: r.o)

/-- R163: an infinite element of a row's statistics. -/
def SoftRow.statFlag (r : SoftRow) : Nat := infFlag [r.m, r.l]

/-! ### ATTN -/

/-- R213: the fields of an ATTN descriptor. -/
structure AttnCmd where
  qFmt : Nat
  oFmt : Nat
  allow : Nat
  flags : Nat
  rq : Nat
  m : Nat
  stream : Nat
  kvBegin : Nat
  kvEnd : Nat
  qpos : Nat
  scale : Nat
  qAddr : Nat
  oAddr : Nat
  auxAddr : Nat
  statAddr : Nat
  base : Nat
  kb : Nat
  window : Nat
  deriving DecidableEq, Repr

/-- R213: a descriptor's fields. -/
def AttnCmd.ofDesc (d : List Byte) : AttnCmd :=
  { qFmt := fld d 16 1, oFmt := fld d 17 1, allow := fld d 18 2, flags := fld d 20 1, rq := fld d 21 1, m := fld d 22 2,
    stream := fld d 24 4, kvBegin := fld d 28 4, kvEnd := fld d 32 4, qpos := fld d 36 4, scale := fld d 40 4,
    qAddr := fld d 44 4, oAddr := fld d 48 4, auxAddr := fld d 52 4, statAddr := fld d 56 4, base := fld d 60 1,
    kb := fld d 61 1, window := fld d 62 2 }

/-- R214: a page format that pairs with Q_FMT. -/
def attnPair (q pf : Nat) : Bool :=
  match q with
  | 7 => pf == 0 || pf == 6 || pf == 7
  | 8 => pf == 1
  | 5 => decide (2 ≤ pf) && decide (pf ≤ 6)
  | 6 => decide (2 ≤ pf) && decide (pf ≤ 6)
  | _ => false

/-- R214: the format of the softmax weights as fed. -/
def attnP (q : Nat) : Nat := if q = 7 then 7 else if q = 8 then 8 else 5

namespace AttnCmd

/-- MASK_MODE. -/
def mask (a : AttnCmd) : Nat := bits a.flags 0 2
/-- ROT_Q. -/
def rot (a : AttnCmd) : Nat := bits a.flags 2 2
/-- CONT. -/
def cont (a : AttnCmd) : Bool := bit a.flags 4
/-- FINAL. -/
def final (a : AttnCmd) : Bool := bit a.flags 5
/-- STATS. -/
def stats (a : AttnCmd) : Bool := bit a.flags 6
/-- Mg: rows of one KV head. -/
def mg (a : AttnCmd) (p : CacheParam) : Nat := a.m / p.hg
/-- QS. -/
def qs (a : AttnCmd) (p : CacheParam) : Nat := 64 * cdiv (elemBytes a.qFmt p.d) 64
/-- The stride of the output rows. -/
def os (a : AttnCmd) (p : CacheParam) : Nat := if a.final then 64 * cdiv (elemBytes a.oFmt p.d) 64 else stateRow p.d
/-- R219: length of the rotation table. -/
def rotLen (a : AttnCmd) (p : CacheParam) : Nat := if a.rot = 0 then 0 else a.mg p / a.rq * (p.d / 2) * 8
/-- R219: the input state's offset. -/
def contOff (a : AttnCmd) (p : CacheParam) : Nat := 64 * cdiv (a.rotLen p) 64
/-- R219: the bitmap's offset. -/
def mapOff (a : AttnCmd) (p : CacheParam) : Nat := a.contOff p + if a.cont then a.m * stateRow p.d else 0
/-- R219: MB. -/
def mb (a : AttnCmd) : Nat := 64 * cdiv (cdiv (a.kvEnd - a.kvBegin) 8) 64
/-- The bitmap is used. -/
def mapped (a : AttnCmd) : Bool := a.mask == 2 || a.mask == 3
/-- R220: length of the auxiliary range. -/
def auxLen (a : AttnCmd) (p : CacheParam) : Nat :=
  if a.mapped then a.mapOff p + a.m * a.mb else if a.cont then a.mapOff p else a.rotLen p

/-- R220: the command's ranges and region. -/
def work (a : AttnCmd) (x : Ctx) (p : CacheParam) : Work :=
  { ins := [Rng.flat (x.placeOf a.qAddr) (tierAddr a.qAddr) (a.m * a.qs p),
      Rng.flat (x.placeOf a.auxAddr) (tierAddr a.auxAddr) (a.auxLen p)]
    outs := [Rng.flat (x.placeOf a.oAddr) (tierAddr a.oAddr) (a.m * a.os p),
      Rng.flat (x.placeOf a.statAddr) (tierAddr a.statAddr) (if a.stats then 8 * a.m else 0)]
    base := a.base, kb := a.kb }

/-- R214: the mode of both products for a page format. -/
def modeOf (a : AttnCmd) (pf : Nat) : ArrayMode := (arrayMode a.qFmt (pageElem pf)).getD modeM8

/-- R216: NK + NV of a page format. -/
def banksPer (a : AttnCmd) (p : CacheParam) (pf : Nat) : Nat :=
  let kt := (a.modeOf pf).kt
  pageTT pf / 128 * cdiv p.d kt + cdiv p.d 128 * (pageTT pf / kt)

/-- R222: the cycles of a tile. -/
def tileTime (a : AttnCmd) (p : CacheParam) (pf : Nat) : Nat :=
  p.hg * a.banksPer p pf * max 128 (a.mg p * (a.modeOf pf).cpv) + if a.mapped then cdiv (a.m * pageTT pf) 192 else 0

/-- R217: row r may attend token i. -/
def attends (a : AttnCmd) (p : CacheParam) (aux : List Byte) (r i : Nat) : Bool :=
  let pos := a.qpos + r % a.mg p / a.rq
  let causal := decide (i ≤ pos) && (a.window == 0 || decide (pos < i + a.window))
  let d := i - a.kvBegin
  let mapBit := bit (fld aux (a.mapOff p + r * a.mb + d / 8) 1) (d % 8)
  decide (a.kvBegin ≤ i) && decide (i < a.kvEnd) &&
    (match a.mask with
      | 0 => true
      | 1 => causal
      | 2 => mapBit
      | _ => causal && mapBit)

/-- The tokens of a tile: index, page number and place in the page. -/
def tokens (t : Nat × List Page) : List (Nat × Nat × Nat) :=
  (t.2.zip (List.range t.2.length)).flatMap fun g => (List.range g.1.n).map fun j => (g.1.tok + j, g.2, j)

/-- R217: no row of any head attends any token of the tile. -/
def skipped (a : AttnCmd) (p : CacheParam) (aux : List Byte) (t : Nat × List Page) : Bool :=
  (List.range a.m).all fun r => (tokens t).all fun k => !a.attends p aux r k.1

/-- R221: the region's least size in bytes. -/
def accBytes (a : AttnCmd) (p : CacheParam) : Nat :=
  let tt := if (List.range 8).any (fun pf => bit a.allow pf && decide (6 ≤ pf)) then 256 else 128
  tt / 32 * pageBytes p p.pfmt + a.m * (4 * p.d + 8) + a.mg p * tt * 4 + (if a.rot = 0 then 0 else a.m * a.qs p) + a.m * a.os p

/-- R227: the lowest fault at issue. -/
def fault (a : AttnCmd) (R : Hall) (x : Ctx) : Option Nat :=
  let fmt := !(([5, 6, 7, 8] : List Nat).contains a.qFmt) || !(([5, 6, 7, 8, 9] : List Nat).contains a.oFmt) || a.allow == 0
    || (List.range 16).any (fun pf => bit a.allow pf && !(decide (pf < 8) && attnPair a.qFmt pf)) || a.rot == 3 || bit a.flags 7
    || (a.stats && !a.final) || !addrOk a.qAddr || !addrOk a.oAddr || ((a.rot != 0 || a.cont || a.mapped) && !addrOk a.auxAddr)
    || (a.stats && !addrOk a.statAddr)
  let m64 := fun (v : Nat) => v % 64 == 0
  let algn := !m64 a.qAddr || !m64 a.oAddr || ((a.rot != 0 || a.cont || a.mapped) && !m64 a.auxAddr)
    || (a.stats && !m64 a.statAddr) || a.kvBegin % 32 != 0
  let shape := decide (a.m < 1) || decide (2048 < a.m) || decide (a.rq < 1) || decide (16 < a.rq) || decide (a.kvEnd ≤ a.kvBegin)
  let head := [(fmt, 0x0301), (shape, 0x0302), (algn, 0x0303), (!regionOk a.base a.kb, 0x0306)]
  match R.cacheFor x a.stream with
  | none => lowest (head ++ [(true, 0x0309)])
  | some c =>
    let p := c.prm
    let s := c.stream (handleIdx a.stream)
    let w := a.work x p
    let ts := tokenTiles (snapshot s p a.kvBegin a.kvEnd)
    let t := 400 + ts.foldl (fun n g => n + a.tileTime p g.1) 0
    let outs := spans w.outs
    lowest (head ++ [(a.m % (p.hg * a.rq) != 0 || decide (256 < a.mg p), 0x0302),
      (!((w.ins ++ w.outs).all fun r => R.rngOk x r) || w.outs.any Rng.inHalo, 0x0304),
      (anyMeet outs (spans w.ins) || (match outs with | [u, v] => spanMeet u v | _ => false), 0x0305),
      (decide (a.kb * 1024 < a.accBytes p), 0x0306), (decide (65536 < t), 0x0307), (decide (s.len < a.kvEnd), 0x030A),
      (s.lost, 0x0312)])

/-- R218, R219: query row r as fed, and its flags. -/
def query (a : AttnCmd) (p : CacheParam) (q aux : List Byte) (r : Nat) : List Fp × Nat :=
  let xs := (List.range p.d).map fun c => elemAt a.qFmt (slice q (r * a.qs p) (a.qs p)) c
  if a.rot = 0 then (xs, 0)
  else
    let i := r % a.mg p / a.rq
    let ys := (rotateRow a.rot p.d xs fun c => rotPair aux p.d i c).map (convert a.qFmt)
    (ys.map fun y => elemVal a.qFmt y.1, flagsOr (nanFlag xs :: ys.map (·.2)))

/-- R218: one tile's part of row r's softmax. -/
def tileRow (a : AttnCmd) (p : CacheParam) (aux : List Byte) (q : List Fp) (r : Nat) (t : Nat × List Page) (pgs : List (List Byte))
    (s0 : SoftRow) : SoftRow :=
  let g := r / a.mg p
  let mode := a.modeOf t.1
  let toks := tokens t
  let page := fun (n : Nat) => (pgs[n]?).getD []
  let ss := toks.map fun k =>
    if a.attends p aux r k.1 then
      let d := arrayDot mode p.d (fun c => some ((q[c]?).getD Fp.zero, (pageKey p t.1 (page k.2.1) g k.2.2 c).1))
        (if pageScaled t.1 then some fun b => (pageKey p t.1 (page k.2.1) g k.2.2 (32 * b)).2 else none)
      (d.1.mul32 (fp32 a.scale), d.2 ||| nanFlag [fp32 a.scale])
    else (Fp.inf true, 0)
  let mn := ss.foldl (fun m y => m.larger y.1) s0.m
  let dead := mn == .inf true
  let al := if dead then Fp.fin false 1 0 else gate 6 (s0.m.sub32 mn)
  let ps := ss.map fun y => if dead then Fp.zero else gate 6 (y.1.sub32 mn)
  let pc := ps.map (convert (attnP a.qFmt))
  let pv := pc.map fun y => elemVal (attnP a.qFmt) y.1
  let o := (List.range p.d).map fun c =>
    let lane := fun (i : Nat) =>
      match toks[i]? with
      | some k => some ((pv[i]?).getD Fp.zero, (pageVal p t.1 (page k.2.1) g c k.2.2).1)
      | none => none
    let sc := fun (b : Nat) => (pageVal p t.1 (page b) g c 0).2
    let d := arrayDot mode toks.length lane (if pageScaled t.1 then some sc else none)
    (((s0.o[c]?).getD Fp.zero |>.mul32 al).add32 d.1, d.2)
  ⟨o.map (·.1), mn, (s0.l.mul32 al).add32 (freeSum ps.length ps),
    flagsOr (s0.nf :: ss.map (·.2) ++ pc.map (·.2) ++ o.map (·.2))⟩

/-- R217: the tiles that are not skipped. -/
def live (a : AttnCmd) (p : CacheParam) (aux : List Byte) (s : Stream) : List (Nat × List Page) :=
  (tokenTiles (snapshot s p a.kvBegin a.kvEnd)).filter fun t => !a.skipped p aux t

/-- R214: the tile's format is set in ALLOW. -/
def allows (a : AttnCmd) (t : Nat × List Page) : Bool := bit a.allow t.1

/-- The auxiliary block. -/
def auxBytes (a : AttnCmd) (R : Hall) (h : Nat) (x : Ctx) (p : CacheParam) : List Byte :=
  R.rngBytes h (((a.work x p).ins[1]?).getD (Rng.flat .dram 0 0))

/-- R214, R217: the tiles that the run reaches: those not skipped, up to the first in a format that ALLOW does not set. -/
def run (a : AttnCmd) (R : Hall) (h : Nat) (x : Ctx) (c : Cache) : List (Nat × List Page) :=
  (a.live c.prm (a.auxBytes R h x c.prm) (c.stream (handleIdx a.stream))).takeWhile a.allows

/-- R214: the run ends with FORMAT_MISMATCH. -/
def mismatched (a : AttnCmd) (R : Hall) (h : Nat) (x : Ctx) (c : Cache) : Bool :=
  (a.live c.prm (a.auxBytes R h x c.prm) (c.stream (handleIdx a.stream))).any fun t => !a.allows t

/-- R218: what the command builds from the tiles that it reaches; `serial` is its own. -/
def build (a : AttnCmd) (R : Hall) (h : Nat) (x : Ctx) (serial : Nat) (c : Cache) : Built :=
  let p := c.prm
  let w := a.work x p
  let q := R.rngBytes h ((w.ins[0]?).getD (Rng.flat .dram 0 0))
  let aux := a.auxBytes R h x p
  let bad := a.mismatched R h x c
  let ts := (a.run R h x c).map fun t => (t, t.2.map fun g => R.pageRead h c g)
  let rows := (List.range a.m).map fun r =>
    let qr := a.query p q aux r
    let s0 := if a.cont then SoftRow.ofBytes (slice aux (a.contOff p + r * stateRow p.d) (stateRow p.d)) p.d else SoftRow.start p.d
    let e := ts.foldl (fun s t => a.tileRow p aux qr.1 r t.1 t.2 s) s0
    { e with nf := e.nf ||| qr.2 }
  let outs := rows.map fun r => if a.final then r.finish a.oFmt else (r.bytes p.d, r.nf ||| r.stateFlag)
  let op := x.placeOf a.oAddr
  let n := ts.foldl (fun n t => n + p.hg * a.banksPer p t.1.1) 0
  let k := R.core x.core
  { Built.empty with
    writes := if bad then [] else
      (outs.zip (List.range a.m)).map (fun y => ⟨op, tierAddr a.oAddr + y.2 * a.os p, y.1.1⟩)
      ++ (if a.stats then
            (rows.zip (List.range a.m)).map fun y => ⟨x.placeOf a.statAddr, tierAddr a.statAddr + 8 * y.2, y.1.stats⟩
          else [])
    nstat := flagsOr (outs.map (·.2) ++ if a.stats then rows.map SoftRow.statFlag else [])
    ends := if bad then some 0x0308 else none
    pins := tilePins serial (ts.map fun t => t.1.2.filterMap (·.frame))
    run := 400 + ts.foldl (fun n t => n + a.tileTime p t.1.1) 0
    macs := ts.foldl (fun n t =>
      n + p.hg * a.banksPer p t.1.1 * (a.mg p * (a.modeOf t.1.1).cpv) * (a.modeOf t.1.1).macs) 0
    loads := n
    bankLoads := anonLoads (pageElem p.pfmt) x.part x.dom 128 n 0 k.banks k.recency [] }

end AttnCmd

/-- R577: the gallery-store bytes of pages read. -/
def Hall.pageReads (H : Hall) (c : Cache) (gs : List Page) : List (Nat × Nat) :=
  gs.filterMap fun g => (H.pageAt c g).map fun y => (y.1, y.2.2)

/-- R214: a FORMAT_MISMATCH is counted. -/
def Hall.mismatch (H : Hall) : Hall :=
  { H with mem := { H.mem with kvMismatch := inc16 H.mem.kvMismatch } }.count (1664 + 15) 1

/-- R32, R338: the stop pairs by which a core of gallery g fetches pages. -/
def Hall.pagePairs (H : Hall) (g : Nat) (c : Cache) (gs : List Page) : List (Nat × Nat) :=
  gs.flatMap fun p => H.placePairs g (H.pageSpan c p).1 false

/-- R32: the stop pairs of the page fetches of an ATTN. -/
def AttnCmd.pairs (a : AttnCmd) (R : Hall) (h : Nat) (x : Ctx) : List (Nat × Nat) :=
  match R.cacheFor x a.stream with
  | none => []
  | some c => R.pagePairs (galOf x.core) c ((a.run R h x c).flatMap (·.2))

/-- R227, R359: the lowest fault at issue, a missing route (R32) among them. -/
def AttnCmd.faults (a : AttnCmd) (R : Hall) (h : Nat) (x : Ctx) : Option Nat :=
  match a.fault R x with
  | some e => some e
  | none => if (R.missingRoute h x.part x.cls (a.pairs R h x)).isSome then some 0x0608 else none

/-- The issue of an ATTN. H is the hall, R the hall as it is read. -/
def issueAttn (H R : Hall) (h : Nat) (x : Ctx) (serial : Nat) (d : List Byte) : Except Nat (Hall × Built) :=
  let a := AttnCmd.ofDesc d
  match R.cacheFor x a.stream with
  | none => .error ((a.fault R x).getD 0x0309)
  | some c =>
    match R.issueWith x (a.work x c.prm) (a.faults R h x) (fun _ => Built.empty) with
    | .error e => .error e
    | .ok b0 =>
      let gs := (a.run R h x c).flatMap (·.2)
      match R.pagesFault c gs with
      | some e => .error e
      | none => .ok (H.readPages c gs,
          { a.build R h x serial c with
            ins := b0.ins ++ gs.map (R.pageSpan c), outs := b0.outs, gsReads := b0.gsReads ++ R.pageReads c gs })

/-! ### ATTN_MERGE -/

/-- R223: the fields of an ATTN_MERGE. -/
structure MergeCmd where
  oFmt : Nat
  flags : Nat
  nIn : Nat
  m : Nat
  d : Nat
  inAddr : Nat
  oAddr : Nat
  statAddr : Nat
  base : Nat
  kb : Nat
  deriving DecidableEq, Repr

/-- R223: a descriptor's fields. -/
def MergeCmd.ofDesc (b : List Byte) : MergeCmd :=
  { oFmt := fld b 16 1, flags := fld b 17 1, nIn := fld b 18 1, m := fld b 20 2, d := fld b 22 2, inAddr := fld b 24 4,
    oAddr := fld b 28 4, statAddr := fld b 32 4, base := fld b 36 1, kb := fld b 37 1 }

namespace MergeCmd

/-- FINAL. -/
def final (a : MergeCmd) : Bool := bit a.flags 0
/-- STATS. -/
def stats (a : MergeCmd) : Bool := bit a.flags 1
/-- The stride of the output rows. -/
def os (a : MergeCmd) : Nat := if a.final then 64 * cdiv (elemBytes a.oFmt a.d) 64 else stateRow a.d

/-- The command's ranges and region. -/
def work (a : MergeCmd) (x : Ctx) : Work :=
  { ins := [Rng.flat (x.placeOf a.inAddr) (tierAddr a.inAddr) (a.nIn * (a.m * stateRow a.d))]
    outs := [Rng.flat (x.placeOf a.oAddr) (tierAddr a.oAddr) (a.m * a.os),
      Rng.flat (x.placeOf a.statAddr) (tierAddr a.statAddr) (if a.stats then 8 * a.m else 0)]
    base := a.base, kb := a.kb }

/-- R223: the command's time. -/
def time (a : MergeCmd) : Nat := 64 + a.nIn * a.m * cdiv a.d 32

/-- R227: the lowest fault at issue. -/
def fault (a : MergeCmd) (R : Hall) (x : Ctx) : Option Nat :=
  let w := a.work x
  let m64 := fun (v : Nat) => v % 64 == 0
  let outs := spans w.outs
  lowest [(!(([5, 6, 7, 8, 9] : List Nat).contains a.oFmt) || decide (4 ≤ a.flags) || (a.stats && !a.final) || !addrOk a.inAddr
      || !addrOk a.oAddr || (a.stats && !addrOk a.statAddr), 0x0301),
    (decide (a.nIn < 2) || decide (16 < a.nIn) || decide (a.m < 1) || decide (2048 < a.m)
      || !(([64, 128, 256] : List Nat).contains a.d), 0x0302),
    (!m64 a.inAddr || !m64 a.oAddr || (a.stats && !m64 a.statAddr), 0x0303),
    (!((w.ins ++ w.outs).all fun r => R.rngOk x r) || w.outs.any Rng.inHalo, 0x0304),
    (anyMeet outs (spans w.ins) || (match outs with | [u, v] => spanMeet u v | _ => false), 0x0305),
    (!regionOk a.base a.kb || decide (a.kb < cdiv (a.m * stateRow a.d + a.m * a.os) 1024), 0x0306),
    (decide (65536 < a.time), 0x0307)]

/-- R223: the merge of one row's states. -/
def row (a : MergeCmd) (ss : List SoftRow) : SoftRow :=
  let m := match ss with
    | [] => Fp.inf true
    | s :: r => r.foldl (fun x y => x.larger y.m) s.m
  let ws := ss.map fun s => (if s.m == .inf true then Fp.zero else gate 6 (s.m.sub32 m), s)
  let fold := fun (f : SoftRow → Fp) =>
    match ws with
    | [] => Fp.zero
    | y :: r => r.foldl (fun x z => x.add32 (z.1.mul32 (f z.2))) (y.1.mul32 (f y.2))
  ⟨(List.range a.d).map fun c => fold fun s => (s.o[c]?).getD Fp.zero, m, fold (·.l), flagsOr (ss.map (·.nf))⟩

/-- R223: what the merge builds. -/
def build (a : MergeCmd) (R : Hall) (h : Nat) (x : Ctx) : Built :=
  let bs := R.rngBytes h (((a.work x).ins[0]?).getD (Rng.flat .dram 0 0))
  let sr := stateRow a.d
  let rows := (List.range a.m).map fun r =>
    a.row ((List.range a.nIn).map fun i => SoftRow.ofBytes (slice bs (i * (a.m * sr) + r * sr) sr) a.d)
  let outs := rows.map fun r => if a.final then r.finish a.oFmt else (r.bytes a.d, r.nf ||| r.stateFlag)
  { Built.empty with
    writes := (outs.zip (List.range a.m)).map (fun y => ⟨x.placeOf a.oAddr, tierAddr a.oAddr + y.2 * a.os, y.1.1⟩)
      ++ (if a.stats then
            (rows.zip (List.range a.m)).map fun y => ⟨x.placeOf a.statAddr, tierAddr a.statAddr + 8 * y.2, y.1.stats⟩
          else [])
    nstat := flagsOr (outs.map (·.2) ++ if a.stats then rows.map SoftRow.statFlag else [])
    run := a.time }

end MergeCmd

/-- The issue of an ATTN_MERGE. -/
def issueMerge (R : Hall) (h : Nat) (x : Ctx) (d : List Byte) : Issue :=
  let a := MergeCmd.ofDesc d
  R.issueWith x (a.work x) (a.fault R x) fun _ => a.build R h x

/-! ### ATTN_BWD -/

/-- R224: the fields of an ATTN_BWD. -/
structure BwdCmd where
  qFmt : Nat
  flags : Nat
  rq : Nat
  head : Nat
  m : Nat
  window : Nat
  stream : Nat
  kvBegin : Nat
  qpos : Nat
  scale : Nat
  inAddr : Nat
  statAddr : Nat
  dqOut : Nat
  dkvOut : Nat
  base : Nat
  kb : Nat
  deriving DecidableEq, Repr

/-- R224: a descriptor's fields. -/
def BwdCmd.ofDesc (d : List Byte) : BwdCmd :=
  { qFmt := fld d 16 1, flags := fld d 17 1, rq := fld d 18 1, head := fld d 19 1, m := fld d 20 2, window := fld d 22 2,
    stream := fld d 24 4, kvBegin := fld d 28 4, qpos := fld d 32 4, scale := fld d 36 4, inAddr := fld d 40 4,
    statAddr := fld d 44 4, dqOut := fld d 48 4, dkvOut := fld d 52 4, base := fld d 60 1, kb := fld d 61 1 }

namespace BwdCmd

/-- CAUSAL. -/
def causal (a : BwdCmd) : Bool := bit a.flags 0
/-- DQ_ACC. -/
def dqAcc (a : BwdCmd) : Bool := bit a.flags 1
/-- DKV_ACC. -/
def dkvAcc (a : BwdCmd) : Bool := bit a.flags 2
/-- QS for BF16. -/
def qs (p : CacheParam) : Nat := 64 * cdiv (2 * p.d) 64
/-- SD. -/
def sd (p : CacheParam) : Nat := 64 * cdiv (4 * p.d) 64
/-- The dQ addend's offset in the input range. -/
def dqOff (a : BwdCmd) (p : CacheParam) : Nat := 3 * (a.m * qs p)
/-- The dK and dV addends' offset in the input range. -/
def dkvOff (a : BwdCmd) (p : CacheParam) : Nat := a.dqOff p + if a.dqAcc then a.m * sd p else 0

/-- R224: the command's ranges and region. -/
def work (a : BwdCmd) (x : Ctx) (p : CacheParam) : Work :=
  { ins := [Rng.flat (x.placeOf a.inAddr) (tierAddr a.inAddr) (a.dkvOff p + if a.dkvAcc then 64 * sd p else 0),
      Rng.flat (x.placeOf a.statAddr) (tierAddr a.statAddr) (8 * a.m)]
    outs := [Rng.flat (x.placeOf a.dqOut) (tierAddr a.dqOut) (a.m * sd p),
      Rng.flat (x.placeOf a.dkvOut) (tierAddr a.dkvOut) (64 * sd p)]
    base := a.base, kb := a.kb }

/-- R224: the page, partial page or slot that begins at KV_BEGIN. -/
def page (a : BwdCmd) (s : Stream) (p : CacheParam) : Option Page := (pagesOf s p).find? fun g => g.tok == a.kvBegin

/-- R226: the command's time. -/
def time (a : BwdCmd) (p : CacheParam) : Nat := 600 + 10 * cdiv p.d 64 * max 128 (2 * a.m)

/-- R227: the lowest fault at issue. -/
def fault (a : BwdCmd) (R : Hall) (x : Ctx) : Option Nat :=
  let fmt := a.qFmt != 7 || decide (8 ≤ a.flags) || !addrOk a.inAddr || !addrOk a.statAddr || !addrOk a.dqOut || !addrOk a.dkvOut
  let shape := decide (a.m < 1) || decide (64 < a.m) || decide (a.rq < 1) || decide (16 < a.rq) || a.m % a.rq != 0
  let m64 := fun (v : Nat) => v % 64 == 0
  let algn := !m64 a.inAddr || !m64 a.statAddr || !m64 a.dqOut || !m64 a.dkvOut || a.kvBegin % 32 != 0
  let head := [(fmt, 0x0301), (shape, 0x0302), (algn, 0x0303), (!regionOk a.base a.kb, 0x0306)]
  match R.cacheFor x a.stream with
  | none => lowest (head ++ [(true, 0x0309)])
  | some c =>
    let p := c.prm
    let s := c.stream (handleIdx a.stream)
    let w := a.work x p
    let outs := spans w.outs
    lowest (head ++ [(decide (p.hg ≤ a.head), 0x0302),
      (!((w.ins ++ w.outs).all fun r => R.rngOk x r) || w.outs.any Rng.inHalo, 0x0304),
      (anyMeet outs (spans w.ins) || (match outs with | [u, v] => spanMeet u v | _ => false), 0x0305),
      (decide (a.kb < cdiv (pageBytes p p.pfmt + 64 * sd p + a.m * sd p + 256 * a.m) 1024), 0x0306),
      (decide (65536 < a.time p), 0x0307), ((a.page s p).isNone, 0x030A), (s.lost, 0x0312)])

/-- A product with both operands converted to BF16 first, as the array forms it. -/
def dot16 (n : Nat) (u v : Nat → Fp) : Fp × Nat := arrayDot modeM16 n (fun k => some (u k, v k)) none

/-- A value converted to BF16. -/
def bf (x : Fp) : Fp := elemVal 7 (convert 7 x).1

/-- R225: the gradients of the selected page: dq rows, then dk rows and dv rows of 32 tokens, and the flags. -/
def grads (a : BwdCmd) (p : CacheParam) (ib sb pg : List Byte) (g : Page) :
    (List (List Fp) × List (List Fp) × List (List Fp)) × Nat :=
  let blk := a.m * qs p
  let el := fun (b r c : Nat) => elemAt 7 (slice ib (b * blk + r * qs p) (qs p)) c
  let key := fun (t c : Nat) => (pageKey p 0 pg a.head t c).1
  let val := fun (t c : Nat) => (pageVal p 0 pg a.head c t).1
  let sm := fp32 a.scale
  let m := fun (r : Nat) => fp32 (fld sb (8 * r) 4)
  let l := fun (r : Nat) => fp32 (fld sb (8 * r + 4) 4)
  let att := fun (r t : Nat) =>
    let pos := a.qpos + r / a.rq
    let i := g.tok + t
    !a.causal || (decide (i ≤ pos) && (a.window == 0 || decide (pos < i + a.window)))
  let cell := fun (r t : Nat) =>
    let s := dot16 p.d (fun c => el 0 r c) (fun c => key t c)
    let pr := if att r t && !(l r).isZero then (gate 6 ((s.1.mul32 sm).sub32 (m r))).mul32 (gate 7 (l r)) else Fp.zero
    let dp := dot16 p.d (fun c => el 2 r c) (fun c => val t c)
    (pr, dp.1, s.2 ||| dp.2)
  let cells := (List.range a.m).map fun r => (List.range g.n).map fun t => cell r t
  let at' := fun (r t : Nat) => (((cells[r]?).getD [])[t]?).getD (Fp.zero, Fp.zero, 0)
  let dlt := (List.range a.m).map fun r => freeSum p.d ((List.range p.d).map fun c => (el 2 r c).mul32 (el 1 r c))
  let ds := fun (r t : Nat) => ((at' r t).1).mul32 (((at' r t).2.1).sub32 ((dlt[r]?).getD Fp.zero))
  let addQ := fun (r c : Nat) (x : Fp) =>
    if a.dqAcc then x.add32 (fp32 (fld ib (a.dqOff p + r * sd p + 4 * c) 4)) else x
  let addKV := fun (row c : Nat) (x : Fp) =>
    if a.dkvAcc then x.add32 (fp32 (fld ib (a.dkvOff p + row * sd p + 4 * c) 4)) else x
  let dq := (List.range a.m).map fun r => (List.range p.d).map fun c =>
    let d := dot16 g.n (fun t => bf (ds r t)) (fun t => key t c)
    (addQ r c (d.1.mul32 sm), d.2)
  let dk := (List.range 32).map fun t => (List.range p.d).map fun c =>
    if t < g.n then
      let d := dot16 a.m (fun r => bf (ds r t)) (fun r => el 0 r c)
      (addKV t c (d.1.mul32 sm), d.2)
    else (Fp.zero, 0)
  let dv := (List.range 32).map fun t => (List.range p.d).map fun c =>
    if t < g.n then
      let d := dot16 a.m (fun r => bf (at' r t).1) (fun r => el 2 r c)
      (addKV (32 + t) c d.1, d.2)
    else (Fp.zero, 0)
  let vals := fun (x : List (List (Fp × Nat))) => x.map fun y => y.map (·.1)
  let fl := fun (x : List (List (Fp × Nat))) => flagsOr (x.map fun y => flagsOr (y.map (·.2)))
  let nf := nanFlag (sm :: (List.range a.m).flatMap fun r => [m r, l r])
  ((vals dq, vals dk, vals dv), flagsOr [nf, fl dq, fl dk, fl dv, flagsOr (cells.map fun y => flagsOr (y.map fun z => z.2.2))])

/-- A row of FP32 values padded to SD. -/
def row32 (p : CacheParam) (xs : List Fp) : List Byte := fit (xs.flatMap fun x => leBytes 4 x.bits32) (sd p)

/-- R225, R226: what the command builds from the page; `serial` is its own. A page that is not in BF16 ends the run as it is reached. -/
def build (a : BwdCmd) (R : Hall) (h : Nat) (x : Ctx) (serial : Nat) (c : Cache) (g : Page) : Built :=
  if g.pf ≠ 0 then { Built.empty with ends := some 0x0308 } else
  let p := c.prm
  let w := a.work x p
  let ib := R.rngBytes h ((w.ins[0]?).getD (Rng.flat .dram 0 0))
  let sb := R.rngBytes h ((w.ins[1]?).getD (Rng.flat .dram 0 0))
  let r := a.grads p ib sb (R.pageRead h c g) g
  let n := 10 * cdiv p.d 64
  let k := R.core x.core
  { Built.empty with
    writes := [⟨x.placeOf a.dqOut, tierAddr a.dqOut, r.1.1.flatMap (row32 p)⟩,
      ⟨x.placeOf a.dkvOut, tierAddr a.dkvOut, (r.1.2.1 ++ r.1.2.2).flatMap (row32 p)⟩]
    nstat := r.2 ||| infFlag ((r.1.1 ++ r.1.2.1 ++ r.1.2.2).flatten)
    pins := tilePins serial [g.frame.toList]
    run := a.time p
    macs := n * (2 * a.m) * modeM16.macs
    loads := n
    bankLoads := anonLoads 7 x.part x.dom 128 n 0 k.banks k.recency [] }

end BwdCmd

/-- R226: the pages that an ATTN_BWD fetches: the selected one, where it is in BF16. -/
def BwdCmd.fetched (g : Page) : List Page := if g.pf = 0 then [g] else []

/-- R32: the stop pairs of its page fetch. -/
def BwdCmd.pairs (a : BwdCmd) (R : Hall) (x : Ctx) : List (Nat × Nat) :=
  match R.cacheFor x a.stream with
  | none => []
  | some c => R.pagePairs (galOf x.core) c (((a.page (c.stream (handleIdx a.stream)) c.prm).map BwdCmd.fetched).getD [])

/-- R227, R359: the lowest fault at issue, a missing route (R32) among them. -/
def BwdCmd.faults (a : BwdCmd) (R : Hall) (h : Nat) (x : Ctx) : Option Nat :=
  match a.fault R x with
  | some e => some e
  | none => if (R.missingRoute h x.part x.cls (a.pairs R x)).isSome then some 0x0608 else none

/-- The issue of an ATTN_BWD. -/
def issueBwd (H R : Hall) (h : Nat) (x : Ctx) (serial : Nat) (d : List Byte) : Except Nat (Hall × Built) :=
  let a := BwdCmd.ofDesc d
  match R.cacheFor x a.stream with
  | none => .error ((a.fault R x).getD 0x0309)
  | some c =>
    match R.issueWith x (a.work x c.prm) (a.faults R h x) (fun _ => Built.empty) with
    | .error e => .error e
    | .ok b0 =>
      match a.page (c.stream (handleIdx a.stream)) c.prm with
      | none => .error 0x030A
      | some g =>
        let gs := BwdCmd.fetched g
        match R.pagesFault c gs with
        | some e => .error e
        | none => .ok (H.readPages c gs,
            { a.build R h x serial c g with
              ins := b0.ins ++ gs.map (R.pageSpan c), outs := b0.outs, gsReads := b0.gsReads ++ R.pageReads c gs })

end Sys2Proof.Machine
end

