-- ==== Sys2Proof/Machine/Rec.lean ====
section
/-! DEFINITION. Recurrent and state-carrying operators (07): state blocks, REC over a chunk of steps, STATE_OP. -/

namespace Sys2Proof.Machine

/-! ### State blocks -/

/-- R229: a state block's header fields. -/
structure Block where
  fmt : Nat
  cell : Nat
  layers : Nat
  h : Nat
  b : Nat
  step : Nat
  since : Nat
  deriving DecidableEq, Repr

/-- R229: a header read. -/
def Block.ofBytes (bs : List Byte) : Block :=
  { fmt := fld bs 0 1, cell := fld bs 1 1, layers := fld bs 2 1, h := fld bs 4 2, b := fld bs 6 2, step := fld bs 8 4,
    since := fld bs 12 2 }

namespace Block

/-- The bytes of a header. -/
def bytes (k : Block) : List Byte :=
  fit (leBytes 1 k.fmt ++ leBytes 1 k.cell ++ leBytes 1 k.layers ++ [0] ++ leBytes 2 k.h ++ leBytes 2 k.b ++ leBytes 4 k.step
    ++ leBytes 2 k.since) 64

/-- V: carried vectors of a layer. -/
def v (k : Block) : Nat := if k.cell = 0 then 2 else 1
/-- ssz. -/
def ssz (k : Block) : Nat := if k.fmt = 10 then 4 else if k.fmt = 11 then 8 else 2
/-- RS. -/
def rs (k : Block) : Nat := 64 * cdiv (k.h * k.ssz) 64
/-- The number of rows. -/
def rows (k : Block) : Nat := k.layers * k.v * k.b
/-- SB: the block's length. -/
def len (k : Block) : Nat := 64 + k.rows * k.rs
/-- R230: STATE_FMT is a state format. -/
def fmtOk (k : Block) : Bool := ([10, 11, 12] : List Nat).contains k.fmt
/-- R230: the shape of two blocks is one. -/
def same (k l : Block) : Bool := k.cell == l.cell && k.layers == l.layers && k.h == l.h && k.b == l.b

end Block

/-- An element of state: its value word and, for S32C, its compensation word. -/
structure Elem where
  s : Fp
  c : Fp

/-- R164: read(s) as FP32. -/
def Elem.read (fmt : Nat) (e : Elem) : Fp := if fmt = 11 then e.s.add32 e.c else e.s

/-- R166: stochastic rounding of an FP32 value to BF16 with random bits r. -/
def stochRound (x : Fp) (r : Nat) : Fp :=
  match x with
  | .fin s m e =>
    let mag := ((Fp.fin s m e).bits32 % 2 ^ 31 + r % 65536) / 65536
    if 0x7F80 ≤ mag then fmtBF16.ofMag s 0x7F7F else if mag < 0x80 then .fin s 0 0 else fmtBF16.ofMag s mag
  | y => y

/-- R163, R166: OUT_SAT where stochastic rounding turns a finite value that would become infinite into the largest finite one. -/
def stochSat (x : Fp) (r : Nat) : Nat :=
  match x with
  | .fin s m e => if 0x7F80 ≤ ((Fp.fin s m e).bits32 % 2 ^ 31 + r % 65536) / 65536 then outSat else 0
  | _ => 0

/-- R235: set(s, v). -/
def Elem.set (fmt : Nat) (v : Fp) (r : Nat) : Elem := ⟨if fmt = 12 then stochRound v r else v, Fp.zero⟩

/-- R163: the flags of set(s, v). -/
def Elem.setFlags (fmt : Nat) (v : Fp) (r : Nat) : Nat := if fmt = 12 then stochSat v r else 0

/-- R165, R235: update(s, d). -/
def Elem.update (fmt : Nat) (e : Elem) (d : Fp) (r : Nat) : Elem :=
  match fmt with
  | 10 => ⟨e.s.add32 d, Fp.zero⟩
  | 11 =>
    let y := d.add32 e.c
    let t := e.s.add32 y
    ⟨t, if t.isNan || t.isInf then Fp.zero else y.sub32 (t.sub32 e.s)⟩
  | _ => ⟨stochRound (e.s.add32 d) r, Fp.zero⟩

/-- R163: the flags of update(s, d). -/
def Elem.updateFlags (fmt : Nat) (e : Elem) (d : Fp) (r : Nat) : Nat := if fmt = 12 then stochSat (e.s.add32 d) r else 0

/-- R163: NAN_IN of the state elements that a command reads. -/
def Elem.nanIn (es : List Elem) : Nat := if es.any fun e => e.s.isNan || e.c.isNan then Machine.nanIn else 0

/-- R163: INF_OUT of the state elements that a command writes. -/
def Elem.infOut (es : List Elem) : Nat := if es.any fun e => e.s.isInf then Machine.infOut else 0

/-- R229: an element's bytes. -/
def Elem.bytes (fmt : Nat) (e : Elem) : List Byte :=
  match fmt with
  | 10 => leBytes 4 e.s.bits32
  | 11 => leBytes 4 e.s.bits32 ++ leBytes 4 e.c.bits32
  | _ => leBytes 2 (e.s.bits32 / 65536)

/-- R229: element j of a row. -/
def Elem.ofRow (fmt : Nat) (row : List Byte) (j : Nat) : Elem :=
  match fmt with
  | 10 => ⟨fp32 (fld row (4 * j) 4), Fp.zero⟩
  | 11 => ⟨fp32 (fld row (8 * j) 4), fp32 (fld row (8 * j + 4) 4)⟩
  | _ => ⟨fmtBF16.decode (fld row (2 * j) 2), Fp.zero⟩

/-- A zero element. -/
def Elem.zero : Elem := ⟨Fp.zero, Fp.zero⟩

/-- The rows of a block's bytes. -/
def Block.read (k : Block) (bs : List Byte) : List (List Elem) :=
  (List.range k.rows).map fun i => (List.range k.h).map fun j => Elem.ofRow k.fmt (slice bs (64 + i * k.rs) k.rs) j

/-- A block's bytes from its header and rows. -/
def Block.write (k : Block) (rows : List (List Elem)) : List Byte :=
  k.bytes ++ rows.flatMap fun r => fit (r.flatMap (Elem.bytes k.fmt)) k.rs

/-! ### REC -/

/-- R231: the fields of a REC. -/
structure RecCmd where
  aFmt : Nat
  wFmt : Nat
  yFmt : Nat
  sFmt : Nat
  cell : Nat
  epi : Nat
  layers : Nat
  flags : Nat
  h : Nat
  b : Nat
  t : Nat
  tOut : Nat
  stepIn : Nat
  xAddr : Nat
  wAddr : Nat
  swAddr : Nat
  stAddr : Nat
  yAddr : Nat
  hScale : Nat
  base : Nat
  kb : Nat
  deriving DecidableEq, Repr

/-- R231: a descriptor's fields. -/
def RecCmd.ofDesc (d : List Byte) : RecCmd :=
  { aFmt := fld d 16 1, wFmt := fld d 17 1, yFmt := fld d 18 1, sFmt := fld d 19 1, cell := fld d 20 1, epi := fld d 21 1,
    layers := fld d 22 1, flags := fld d 23 1, h := fld d 24 2, b := fld d 26 2, t := fld d 28 2, tOut := fld d 30 2,
    stepIn := fld d 32 4, xAddr := fld d 36 4, wAddr := fld d 40 4, swAddr := fld d 44 4, stAddr := fld d 48 4,
    yAddr := fld d 52 4, hScale := fld d 56 4, base := fld d 60 1, kb := fld d 61 1 }

namespace RecCmd

/-- DIR: backward. -/
def dir (a : RecCmd) : Bool := bit a.flags 0
/-- ZERO_IN. -/
def zeroIn (a : RecCmd) : Bool := bit a.flags 1
/-- NO_OUT. -/
def noOut (a : RecCmd) : Bool := bit a.flags 2
/-- SW_EN. -/
def swEn (a : RecCmd) : Bool := bit a.flags 3
/-- CELL is LSSM. -/
def lssm (a : RecCmd) : Bool := a.cell == 2
/-- The block as the command describes it. -/
def block (a : RecCmd) : Block := ⟨a.sFmt, a.cell, a.layers, a.h, a.b, a.stepIn, 0⟩

/-- R233: G_l. -/
def gates (a : RecCmd) (l : Nat) : Nat :=
  match a.cell with
  | 0 => 4
  | 1 => if l = 0 then 3 else 4
  | 2 => 0
  | _ => 1

/-- R234: G_x. -/
def gx (a : RecCmd) : Nat :=
  match a.cell with
  | 0 => 4
  | 1 => 3
  | 2 => 2
  | _ => 1

/-- R233: K_l. -/
def kOf (a : RecCmd) (l : Nat) : Nat := if l = 0 then a.h else 2 * a.h

/-- R233: layer l's product as a matrix command over the B sequences, its weights and scale part at given offsets. -/
def layerAt (a : RecCmd) (l w sw : Nat) : MatrixCmd :=
  { aFmt := a.aFmt, wFmt := a.wFmt, oFmt := 9, mflags := (if fScale a.aFmt = 0 then 0 else 4) + if a.swEn then 8 else 0, m := a.b,
    n := a.gates l * a.h, k := a.kOf l, aAddr := 0, aStride := 0, wAddr := MatrixCmd.fieldAdd a.wAddr w, oAddr := 0, oStride := 0,
    cAddr := 0, saAddr := 0, swAddr := MatrixCmd.fieldAdd a.swAddr sw, epi := 0, base := 0, kb := 0 }

/-- R233: bytes of a layer's tiles and bias. -/
def wBytes (a : RecCmd) (l : Nat) : Nat :=
  let c := a.layerAt l 0 0
  c.nt * c.ktCount * 16384 + 64 * cdiv (4 * (a.gates l * a.h)) 64

/-- R233: where layer l's weights begin. -/
def wOff (a : RecCmd) : Nat → Nat
  | 0 => 0
  | l + 1 => 128 * cdiv (a.wOff l + a.wBytes l) 128

/-- R233: where layer l's scale part begins. -/
def swOff (a : RecCmd) : Nat → Nat
  | 0 => 0
  | l + 1 => 64 * cdiv (a.swOff l + (a.layerAt l 0 0).swLen) 64

/-- R233: layer l's product. -/
def layer (a : RecCmd) (l : Nat) : MatrixCmd := a.layerAt l (a.wOff l) (a.swOff l)

/-- R233: W_l. -/
def wTiles (a : RecCmd) (l : Nat) : Nat := if a.lssm then 0 else (a.layer l).nt * (a.layer l).ktCount

/-- R233: W. -/
def wTotal (a : RecCmd) : Nat := ((List.range a.layers).map a.wTiles).foldl (· + ·) 0

/-- XS. -/
def xs (a : RecCmd) : Nat := 64 * cdiv (4 * a.gx * a.h) 64
/-- YS. -/
def ys (a : RecCmd) : Nat := 64 * cdiv (elemBytes a.yFmt a.h) 64

/-- The state block is named (R231). -/
def named (a : RecCmd) : Bool := !(a.zeroIn && a.noOut)

/-- Range X. -/
def rngX (a : RecCmd) (x : Ctx) : Rng := Rng.flat (x.placeOf a.xAddr) (tierAddr a.xAddr) (a.t * a.b * a.xs)
/-- Range W. -/
def rngW (a : RecCmd) (x : Ctx) : Rng :=
  Rng.flat (x.placeOf a.wAddr) (tierAddr a.wAddr) (if a.lssm then 0 else a.wOff (a.layers - 1) + a.wBytes (a.layers - 1))
/-- Range SW. -/
def rngSW (a : RecCmd) (x : Ctx) : Rng :=
  Rng.flat (x.placeOf a.swAddr) (tierAddr a.swAddr)
    (if a.swEn then a.swOff (a.layers - 1) + (a.layer (a.layers - 1)).swLen else 0)
/-- The state block as input: the whole of it, or its header alone under ZERO_IN. -/
def rngIn (a : RecCmd) (x : Ctx) : Rng :=
  Rng.flat (x.placeOf a.stAddr) (tierAddr a.stAddr) (if !a.zeroIn then a.block.len else if !a.noOut then 64 else 0)
/-- The state block as output. -/
def rngSt (a : RecCmd) (x : Ctx) : Rng := Rng.flat (x.placeOf a.stAddr) (tierAddr a.stAddr) (if a.noOut then 0 else a.block.len)
/-- Range Y. -/
def rngY (a : RecCmd) (x : Ctx) : Rng := Rng.flat (x.placeOf a.yAddr) (tierAddr a.yAddr) (a.tOut * a.b * a.ys)

/-- R240: the command's ranges and region. -/
def work (a : RecCmd) (x : Ctx) : Work :=
  { ins := [a.rngX x, a.rngW x, a.rngSW x, a.rngIn x], outs := [a.rngY x, a.rngSt x], base := a.base, kb := a.kb }

/-! ### Timing (R237, R238) -/

/-- R238: E. -/
def tailE (a : RecCmd) : Nat := if a.cell < 2 then 44 else 8

/-- R238: Feed_l with the first `res` tiles resident. -/
def feed (a : RecCmd) (res l : Nat) : Nat :=
  let first := ((List.range l).map a.wTiles).foldl (· + ·) 0
  let c := a.b * (a.layer l).mode.cpv
  ((List.range (a.wTiles l)).map fun i => if first + i < res then c else max c 128).foldl (· + ·) 0

/-- R237: tiles resident with n banks in service. -/
def resident (a : RecCmd) (n : Nat) : Nat := if a.wTotal ≤ n then a.wTotal else n - 2

/-- R238: T_cmd with n banks in service and `loaded` resident tiles loaded. -/
def time (a : RecCmd) (n loaded : Nat) : Nat :=
  if a.lssm then 96 + a.t * max (cdiv (a.b * a.h) 128) 32
  else
    let fs := (List.range a.layers).map (a.feed (a.resident n))
    let dg := max (fs.foldl (· + ·) 0) (fs.foldl (fun m f => max m (f + 167 + a.tailE)) 0)
    96 + 128 * loaded + (a.t + a.layers - 1) * dg

/-! ### Checks (R249) -/

/-- R232: H_SCALE is finite, positive and normal. -/
def scaleOk (v : Nat) : Bool := decide (v < 2 ^ 31) && decide (1 ≤ bits v 23 8) && decide (bits v 23 8 ≤ 254)

/-- R232: the format rules. -/
def formatOk (a : RecCmd) : Bool :=
  let ae := fElem a.aFmt
  let sc := fScale a.aFmt
  (if a.lssm then a.aFmt == 9 && a.wFmt == 9 && !a.swEn
    else
      (match arrayMode ae (fElem a.wFmt) with | some m => m.code != 1 | none => false) && !bit a.aFmt 7 && !bit a.wFmt 7
        && MatrixCmd.scaleOk a.wFmt && (a.swEn == (fScale a.wFmt != 0))
        && (if ae = 2 then sc == 1 else if isFp8 ae then decide (sc ≤ 1) else sc == 0)
        && (sc != 1 || scaleOk a.hScale))
    && ([5, 6, 7, 8, 9] : List Nat).contains a.yFmt && ([10, 11, 12] : List Nat).contains a.sFmt && decide (a.cell ≤ 3)
    && (if a.cell = 3 then decide (a.epi ≤ 7) else a.epi == 0) && decide (a.flags < 16) && (!a.dir || a.noOut)

/-- R231: the ranges of the shape fields. -/
def shapeOf (cell layers h b : Nat) : Bool :=
  decide (1 ≤ layers) && decide (layers ≤ 4) && (cell != 2 || layers == 1) && decide (32 ≤ h) && decide (h ≤ 1024)
    && decide (h % 32 = 0) && decide (1 ≤ b) && decide (b ≤ 64)

/-- R249: the lowest fault at issue; `hd` is the header found at STATE_ADDR. -/
def fault (a : RecCmd) (R : Hall) (x : Ctx) (hd : Block) : Option Nat :=
  let w := a.work x
  let m64 := fun (v : Nat) => v % 64 == 0
  let algn := a.xAddr % 64 != 0 || !addrIn a.xAddr || a.yAddr % 64 != 0 || !addrIn a.yAddr
    || a.wAddr % 128 != 0 || !addrIn a.wAddr || (a.swEn && (!m64 a.swAddr || !addrIn a.swAddr))
    || (a.named && (!m64 a.stAddr || !addrIn a.stAddr))
  let y := spans [a.rngY x]
  let st := spans [a.rngSt x, a.rngIn x]
  let ins := spans [a.rngX x, a.rngW x, a.rngSW x]
  let g4 := ((List.range a.layers).map fun l => 4 * (if a.lssm then 2 else a.gates l) * a.h * a.b).foldl (· + ·) 0
  let acc := (if a.noOut then 0 else a.block.len) + a.tOut * a.b * a.ys + g4
  lowest [(!a.formatOk, 0x0401),
    (!shapeOf a.cell a.layers a.h a.b || decide (a.t < 1) || decide (4096 < a.t) || decide (a.tOut < 1) || decide (a.t < a.tOut)
      || (!a.dir && a.tOut != a.t) || decide (64 < a.wTotal), 0x0402),
    (algn, 0x0403), (!((w.ins ++ w.outs).all fun r => R.rngOk x r) || w.outs.any Rng.inHalo, 0x0404),
    (anyMeet y ins || anyMeet y st || anyMeet st ins, 0x0405), (!regionOk a.base a.kb || decide (a.kb * 1024 < acc), 0x0406),
    (decide (65536 < a.time 4 (a.resident 4)), 0x0407),
    (a.named && (!hd.fmtOk || hd.fmt != a.sFmt || !hd.same a.block), 0x0408), (a.named && hd.step != a.stepIn, 0x0409),
    (a.sFmt == 12 && !a.noOut && decide (4096 < hd.since + a.t), 0x040A)]

/-! ### The step (R235) -/

/-- R174, R232: an output of a layer's product after its scales, with ACC_SAT; NAN_IN is `weightNan`'s and the state's. -/
def product (c : MatrixCmd) (i : MatrixCmd.Inputs) (m n : Nat) : Fp × Nat :=
  let acc : Fp × Nat := if c.intAcc then (let r := c.accInt i m n; ((Fp.int r.1), r.2)) else c.accFp i m n
  let v0 := acc.1.round32
  let v1 := match MatrixCmd.rowScale (fScale c.aFmt) i.sa 0 c.saBlock m with | none => v0 | some s => v0.mul32 s
  let sw := MatrixCmd.rowScale (fScale c.wFmt) i.sw c.swOff (c.swOff + c.swBlock) n
  (match sw with | none => v1 | some s => v1.mul32 s, acc.2 &&& accSat)

/-- R163, R232, R233: NAN_IN of the weights, weight scales and bias of a layer of H state elements. -/
def weightNan (c : MatrixCmd) (i : MatrixCmd.Inputs) (bias : List Byte) : Nat :=
  let zero : MatrixCmd.Inputs := { i with a := [] }
  let cols := List.range c.n
  let tiles := cols.map fun n => flagsOr ((List.range c.ktCount).map fun kt =>
    if c.intAcc then 0
    else flagsOr (c.laneNan zero 0 n (kt * c.mode.kt) c.mode.kt :: (List.range (c.mode.kt / 32)).map fun b =>
      ((c.blockTerm zero 0 n kt b).map (·.2)).getD 0))
  flagsOr (tiles ++ [nanFlag (cols.flatMap fun n => (MatrixCmd.rowScale (fScale c.wFmt) i.sw c.swOff (c.swOff + c.swBlock) n).toList),
    nanFlag (cols.map fun n => fp32 (fld bias (4 * n) 4))])

/-- R232, R235: a value of h as fed, and the flags of its conversion; it is no output. -/
def fed (a : RecCmd) (v : Fp) : Nat × Nat :=
  let r := convert (fElem a.aFmt) (if fScale a.aFmt = 1 then v.div32 (fp32 a.hScale) else v)
  (r.1, r.2 &&& (outSat + nanLost))

/-- What a layer reads: its product, scale bytes, tiles and bias. -/
structure Layer where
  c : MatrixCmd
  sw : List Byte
  tiles : List (List Byte × List Byte)
  bias : List Byte

/-- One cell's new elements and the flags of their rounding, from its pre-activations, the layer-0 inputs and the old elements: R235's table. -/
def cellStep (a : RecCmd) (l : Nat) (pre x : Nat → Fp) (old : List Elem) (rnd : Nat → Nat) : List Elem × Nat :=
  let setE := fun (v : Fp) (r : Nat) => (Elem.set a.sFmt v r, Elem.setFlags a.sFmt v r)
  let updE := fun (e : Elem) (d : Fp) (r : Nat) => (e.update a.sFmt d r, e.updateFlags a.sFmt d r)
  let e := fun (i : Nat) => (old[i]?).getD Elem.zero
  let one : Fp := .fin false 1 0
  let p := fun (k : Nat) => if l = 0 then (pre k).add32 (x k) else pre k
  match a.cell with
  | 0 =>
    let i := gate 4 (p 0)
    let f := gate 4 (p 1)
    let g := gate 5 (p 2)
    let o := gate 4 (p 3)
    let d := (i.mul32 g).sub32 ((one.sub32 f).mul32 ((e 0).read a.sFmt))
    let c := updE (e 0) d (rnd 0)
    let hn := setE (o.mul32 (gate 5 (c.1.read a.sFmt))) (rnd 1)
    ([c.1, hn.1], c.2 ||| hn.2)
  | 1 =>
    let r := gate 4 (p 0)
    let z := gate 4 (p 1)
    let xn := if l = 0 then x 2 else pre 2
    let nh := if l = 0 then pre 2 else pre 3
    let n := gate 5 (xn.add32 (r.mul32 nh))
    let hn := updE (e 0) ((one.sub32 z).mul32 (n.sub32 ((e 0).read a.sFmt))) (rnd 0)
    ([hn.1], hn.2)
  | 2 => let hn := updE (e 0) ((x 1).sub32 ((one.sub32 (x 0)).mul32 ((e 0).read a.sFmt))) (rnd 0); ([hn.1], hn.2)
  | _ => let hn := setE (gate a.epi (p 0)) (rnd 0); ([hn.1], hn.2)

/-- One layer's step over all sequences: `prev` is the layer below's new h, `st` this layer's rows (v, then b). The answer gives
the new rows and the flags. `seed` numbers the random bits of R166. -/
def layerStep (a : RecCmd) (ly : Layer) (l seed : Nat) (prev : List (List Fp)) (xrow : Nat → List Byte)
    (st : List (List Elem)) : List (List Elem) × Nat :=
  let vn := a.block.v
  let row := fun (v b : Nat) => (st[v * a.b + b]?).getD []
  let hOld := (List.range a.b).map fun b => (row (vn - 1) b).map (Elem.read a.sFmt)
  let vecs := (List.range a.b).map fun b =>
    (((if l = 0 then [] else (prev[b]?).getD []) ++ (hOld[b]?).getD []).map a.fed)
  let i : MatrixCmd.Inputs :=
    { a := vecs.map fun v => packCodes (fElem a.aFmt) (v.map (·.1)), sa := leBytes 4 a.hScale, sw := ly.sw, cb := [], tiles := ly.tiles }
  let outs := (List.range a.b).map fun b =>
    (List.range a.h).map fun j =>
      let pres := (List.range (a.gates l)).map fun k =>
        let p := product ly.c i b (k * a.h + j)
        let bias := fp32 (fld ly.bias (4 * (k * a.h + j)) 4)
        (p.1.add32 bias, p.2)
      let x := fun (k : Nat) => fp32 (fld (xrow b) (4 * (k * a.h + j)) 4)
      let old := (List.range vn).map fun v => ((row v b)[j]?).getD Elem.zero
      let y := a.cellStep l (fun k => ((pres[k]?).map (·.1)).getD Fp.zero) x old
        (fun v => Config.stochastic (seed + (b * a.h + j) * 2 + v))
      (y.1, flagsOr (y.2 :: pres.map (·.2)) ||| (if l = 0 then nanFlag ((List.range a.gx).map x) else 0))
  let rows := (List.range vn).flatMap fun v =>
    outs.map fun r => r.map fun y => (y.1[v]?).getD Elem.zero
  (rows, flagsOr (outs.map (fun r => flagsOr (r.map (·.2))) ++ vecs.map fun v => flagsOr (v.map (·.2))))

/-- The chunk's running state: each layer's rows, the output rows by step, and the flags. -/
structure Run where
  st : List (List (List Elem))
  y : List (Nat × List (List Fp))
  nf : Nat

/-- One step of every layer (R236). -/
def stepAll (a : RecCmd) (lys : List Layer) (seed : Nat) (xb : List Byte) (r : Run) (t : Nat) : Run :=
  let xrow := fun (b : Nat) => slice xb ((t * a.b + b) * a.xs) a.xs
  let res := (lys.zip (List.range a.layers)).foldl (fun (acc : List (List (List Elem)) × List (List Fp) × Nat) ly =>
    let o := a.layerStep ly.1 ly.2 (seed + (t * 4 + ly.2) * 2 ^ 20) acc.2.1 xrow ((r.st[ly.2]?).getD [])
    let hNew := (o.1.drop ((a.block.v - 1) * a.b)).map fun row => row.map (Elem.read a.sFmt)
    (acc.1 ++ [o.1], hNew, acc.2.2 ||| o.2)) ([], [], r.nf)
  ⟨res.1, if t < a.tOut then kset r.y t res.2.1 else r.y, res.2.2⟩

/-- R237, R138: the bank walk, with the loads of resident tiles, and each layer's tiles: the resident tiles hit or load first, and stay; the others
stream through the banks that are left. -/
def bankWalk (a : RecCmd) (R : Hall) (h : Nat) (x : Ctx) : MatrixCmd.Walk × Nat × List (List (List Byte × List Byte)) :=
  let k := R.core x.core
  let n := (k.banks.filter fun b => !b.off).length
  let ts := (List.range a.layers).flatMap fun l => (a.layer l).tiles.map fun t => (l, t)
  let all : List MatrixCmd.Read := (ts.zip (List.range ts.length)).map fun e =>
    ⟨e.2, a.layer e.1.1, a.b * (a.layer e.1.1).mode.cpv, e.1.2⟩
  let res := all.take (a.resident n)
  let w1 := res.foldl (fun (w : MatrixCmd.Walk) q => if (w.ready x q).isSome then w else w.load R h x res q) (MatrixCmd.Walk.begin k 96 96)
  let w2 := all.foldl (fun (w : MatrixCmd.Walk) q =>
    match w.ready x q with
    | some i => w.read q i
    | none =>
      let w' := ({ w with loader := max w.loader ((w.reads.getLast?.map (·.1)).getD 0) } : MatrixCmd.Walk).load R h x res q
      match w'.ready x q with
      | some i => w'.read q i
      | none => w') { w1 with done := w1.loader }
  (w2, w1.missed, (List.range a.layers).map fun l =>
    (w2.data.drop (((List.range l).map a.wTiles).foldl (· + ·) 0)).take (a.wTiles l))

/-- R235 to R241: what the command builds. -/
def build (a : RecCmd) (R : Hall) (h : Nat) (x : Ctx) (hd : Block) (seed : Nat) : Built :=
  let bw := if a.lssm then (MatrixCmd.Walk.begin (R.core x.core) 0 0, 0, [[]]) else a.bankWalk R h x
  let n := ((R.core x.core).banks.filter fun b => !b.off).length
  let wb := R.rngBytes h (a.rngW x)
  let swb := R.rngBytes h (a.rngSW x)
  let lys : List Layer := (List.range a.layers).map fun l =>
    let c := a.layer l
    { c := c, sw := slice swb (a.swOff l) c.swLen, tiles := (bw.2.2[l]?).getD []
      bias := slice wb (a.wOff l + c.nt * c.ktCount * 16384) (4 * (a.gates l * a.h)) }
  let wnan := lys.map fun ly => if a.lssm then 0 else weightNan ly.c { a := [], sa := [], sw := ly.sw, cb := [], tiles := ly.tiles } ly.bias
  let rows := if a.zeroIn then List.replicate a.block.rows (List.replicate a.h Elem.zero) else a.block.read (R.rngBytes h (a.rngIn x))
  let per := a.block.v * a.b
  let st := (List.range a.layers).map fun l => (rows.drop (l * per)).take per
  let order := if a.dir then (List.range a.t).reverse else List.range a.t
  let r := order.foldl (a.stepAll lys seed (R.rngBytes h (a.rngX x))) ⟨st, [], 0⟩
  let ys := (List.range a.tOut).flatMap fun t =>
    ((kget r.y t).getD []).map fun row => convertAll a.yFmt row
  let yPlace := x.placeOf a.yAddr
  let blk : Block := { a.block with step := (a.stepIn + a.t) % 2 ^ 32, since := if a.sFmt = 12 then hd.since + a.t else 0 }
  let streamed := if a.lssm then 0 else (a.wTotal - a.resident n) * (a.t - 1)
  { Built.empty with
    writes := ((ys.zip (List.range ys.length)).map fun y => ⟨yPlace, tierAddr a.yAddr + y.2 * a.ys, y.1.1⟩)
      ++ (if a.noOut then [] else [⟨x.placeOf a.stAddr, tierAddr a.stAddr, blk.write r.st.flatten⟩])
    nstat := flagsOr (r.nf :: Elem.nanIn rows.flatten :: (if a.noOut then 0 else Elem.infOut r.st.flatten.flatten) :: wnan ++ ys.map (·.2))
    blockLocks := if a.noOut then [] else [(x.placeOf a.stAddr, tierAddr a.stAddr)]
    run := a.time n bw.2.1
    macs := a.t * ((List.range a.layers).map fun l => a.wTiles l * (a.b * (a.layer l).mode.cpv) * (a.layer l).mode.macs).foldl (· + ·) 0
    loads := bw.1.missed + streamed
    hits := bw.1.hits
    bankLoads := bw.1.loads
    bankReads := bw.1.reads }

end RecCmd

/-- The issue of a REC; `seed` numbers its random bits. -/
def issueRec (R : Hall) (h : Nat) (x : Ctx) (seed : Nat) (d : List Byte) : Issue :=
  let a := RecCmd.ofDesc d
  let hd := Block.ofBytes (R.readAt h (x.placeOf a.stAddr) (tierAddr a.stAddr) 64)
  R.issueWith x (a.work x) (withCode (!zeros d 62 2) 0x0401 (a.fault R x hd)) fun _ => a.build R h x hd seed

/-! ### STATE_OP -/

/-- R246: the fields of a STATE_OP. -/
structure StateCmd where
  subop : Nat
  fmt : Nat
  cell : Nat
  layers : Nat
  h : Nat
  b : Nat
  step : Nat
  dst : Nat
  src : Nat
  flags : Nat
  base : Nat
  kb : Nat
  deriving DecidableEq, Repr

/-- R246: a descriptor's fields. -/
def StateCmd.ofDesc (d : List Byte) : StateCmd :=
  { subop := fld d 16 1, fmt := fld d 17 1, cell := fld d 18 1, layers := fld d 19 1, h := fld d 20 2, b := fld d 22 2,
    step := fld d 24 4, dst := fld d 28 4, src := fld d 32 4, flags := fld d 36 1, base := fld d 37 1, kb := fld d 38 1 }

namespace StateCmd

/-- FROM_SRC. -/
def fromSrc (a : StateCmd) : Bool := a.subop == 0 && bit a.flags 0

/-- R247: the length of a block whose header is `k`: of the header alone where it is no valid header. -/
def lenOf (k : Block) : Nat := if k.fmtOk && decide (k.cell ≤ 3) && RecCmd.shapeOf k.cell k.layers k.h k.b then k.len else 64

/-- The destination block: INIT's fields, or the header found there. -/
def dstBlock (a : StateCmd) (hd : Block) : Block := if a.subop = 0 then ⟨a.fmt, a.cell, a.layers, a.h, a.b, a.step, 0⟩ else hd

/-- R247: the source's length: FP32 rows for INIT, the source block for ANCHOR. -/
def srcLen (a : StateCmd) (hd sh : Block) : Nat :=
  if a.subop = 0 then (if a.fromSrc then (a.dstBlock hd).rows * (64 * cdiv (4 * a.h) 64) else 0) else lenOf sh

/-- The command's ranges and region: headers `hd` at DST_ADDR and `sh` at SRC_ADDR. -/
def work (a : StateCmd) (x : Ctx) (hd sh : Block) : Work :=
  { ins := [Rng.flat (x.placeOf a.src) (tierAddr a.src) (a.srcLen hd sh),
      Rng.flat (x.placeOf a.dst) (tierAddr a.dst) (if a.subop = 1 then 64 else 0)]
    outs := [Rng.flat (x.placeOf a.dst) (tierAddr a.dst) (if a.subop = 1 then lenOf hd else (a.dstBlock hd).len)], base := a.base, kb := a.kb }

/-- R247: the source is read. -/
def usesSrc (a : StateCmd) : Bool := a.subop == 1 || a.fromSrc

/-- R249: the lowest fault at issue. -/
def fault (a : StateCmd) (R : Hall) (x : Ctx) (hd sh : Block) : Option Nat :=
  let w := a.work x hd sh
  let d := a.dstBlock hd
  let stateBad := a.subop == 1 && (!hd.fmtOk || !sh.fmtOk || !hd.same sh || decide (3 < hd.cell) || !RecCmd.shapeOf hd.cell hd.layers hd.h hd.b)
  let algn := a.dst % 64 != 0 || !addrIn a.dst || (a.usesSrc && (a.src % 64 != 0 || !addrIn a.src))
  lowest [(decide (1 < a.subop) || decide (2 ≤ a.flags)
      || (a.subop == 0 && (!d.fmtOk || decide (3 < a.cell))) || (a.subop == 1 && hd.fmt == 12 && sh.fmt == 12), 0x0401),
    (a.subop == 0 && !RecCmd.shapeOf a.cell a.layers a.h a.b, 0x0402), (algn, 0x0403), (stateBad, 0x0408),
    (!((w.ins ++ w.outs).all fun r => R.rngOk x r) || w.outs.any Rng.inHalo, 0x0404),
    (a.usesSrc && anyMeet (spans w.outs) (spans (w.ins.take 1)), 0x0405),
    (!regionOk a.base a.kb || decide (a.kb < cdiv (if a.subop = 1 then lenOf hd else d.len) 1024), 0x0406)]

/-- R247: what the command builds. -/
def build (a : StateCmd) (R : Hall) (h : Nat) (x : Ctx) (hd sh : Block) (seed : Nat) : Built :=
  let d := a.dstBlock hd
  let sb := R.readAt h (x.placeOf a.src) (tierAddr a.src) (a.srcLen hd sh)
  let rs := 64 * cdiv (4 * a.h) 64
  let vals : List (List Fp) :=
    if a.subop = 0 then
      (List.range d.rows).map fun i => (List.range d.h).map fun j =>
        if a.fromSrc then fp32 (fld sb (i * rs + 4 * j) 4) else Fp.zero
    else (sh.read sb).map fun r => r.map (Elem.read sh.fmt)
  let made := (vals.zip (List.range vals.length)).map fun r =>
    (r.1.zip (List.range r.1.length)).map fun v =>
      let n := Config.stochastic (seed + r.2 * 1024 + v.2)
      (Elem.set d.fmt v.1 n, Elem.setFlags d.fmt v.1 n)
  let rows := made.map fun r => r.map (·.1)
  let blk : Block := if a.subop = 0 then d else { d with step := sh.step, since := 0 }
  let place := x.placeOf a.dst
  { Built.empty with
    writes := [⟨place, tierAddr a.dst, blk.write rows⟩]
    nstat := flagsOr (Elem.infOut rows.flatten :: vals.map nanFlag ++ made.map fun r => flagsOr (r.map (·.2)))
    blockLocks := (place, tierAddr a.dst) :: if a.subop = 1 then [(x.placeOf a.src, tierAddr a.src)] else []
    run := 32 + cdiv d.len 64 }

end StateCmd

/-- The issue of a STATE_OP. -/
def issueState (R : Hall) (h : Nat) (x : Ctx) (seed : Nat) (d : List Byte) : Issue :=
  let a := StateCmd.ofDesc d
  let hd := Block.ofBytes (R.readAt h (x.placeOf a.dst) (tierAddr a.dst) 64)
  let sh := Block.ofBytes (R.readAt h (x.placeOf a.src) (tierAddr a.src) 64)
  R.issueWith x (a.work x hd sh) (withCode (!zeros d 39 25) 0x0401 (a.fault R x hd sh)) fun _ => a.build R h x hd sh seed

/-- R243: the state blocks that a REC or STATE_OP descriptor names, in context x. -/
def blocksNamed (x : Ctx) (d : List Byte) : List (Place × Nat) :=
  match fld d 0 1 with
  | 0x40 =>
    let a := RecCmd.ofDesc d
    if a.named then [(x.placeOf a.stAddr, tierAddr a.stAddr)] else []
  | 0x41 =>
    let a := StateCmd.ofDesc d
    (x.placeOf a.dst, tierAddr a.dst) :: if a.subop = 1 then [(x.placeOf a.src, tierAddr a.src)] else []
  | _ => []

end Sys2Proof.Machine
end

