-- ==== Sys2Proof/Machine/Vision.lean ====
section
/-! DEFINITION. Convolution and detection operators (08): CONV on the array and depthwise, HALO_SEND, CROP_RESIZE, BOX_DECODE, NMS. -/

namespace Sys2Proof.Machine

/-- A multiple of 64. -/
def m64 (a : Nat) : Bool := a % 64 == 0

/-! ### CONV -/

/-- R253: the fields of a CONV. -/
structure ConvCmd where
  aFmt : Nat
  wFmt : Nat
  oFmt : Nat
  flags : Nat
  ih : Nat
  iw : Nat
  c : Nat
  oc : Nat
  ksize : Nat
  stride : Nat
  dil : Nat
  pad : Nat
  halo : Nat
  inAddr : Nat
  wAddr : Nat
  oAddr : Nat
  cAddr : Nat
  haloAddr : Nat
  inRs : Nat
  oRs : Nat
  epi : Nat
  base : Nat
  kb : Nat
  row0 : Nat
  deriving DecidableEq, Repr

/-- R253: a descriptor's fields. -/
def ConvCmd.ofDesc (d : List Byte) : ConvCmd :=
  { aFmt := fld d 16 1, wFmt := fld d 17 1, oFmt := fld d 18 1, flags := fld d 19 1, ih := fld d 20 2, iw := fld d 22 2,
    c := fld d 24 2, oc := fld d 26 2, ksize := fld d 28 1, stride := fld d 29 1, dil := fld d 30 1, pad := fld d 32 2,
    halo := fld d 34 2, inAddr := fld d 36 4, wAddr := fld d 40 4, oAddr := fld d 44 4, cAddr := fld d 48 4,
    haloAddr := fld d 52 4, inRs := fld d 56 2, oRs := fld d 58 2, epi := fld d 60 1, base := fld d 61 1, kb := fld d 62 1,
    row0 := fld d 63 1 }

namespace ConvCmd

/-- C_MODE. -/
def cMode (a : ConvCmd) : Nat := bits a.flags 0 2
/-- SW_EN. -/
def swEn (a : ConvCmd) : Bool := bit a.flags 2
/-- DW. -/
def dw (a : ConvCmd) : Bool := bit a.flags 3
/-- KH. -/
def kh (a : ConvCmd) : Nat := bits a.ksize 0 4
/-- KW. -/
def kw (a : ConvCmd) : Nat := bits a.ksize 4 4
/-- SY. -/
def sy (a : ConvCmd) : Nat := bits a.stride 0 4
/-- SX. -/
def sx (a : ConvCmd) : Nat := bits a.stride 4 4
/-- DY. -/
def dy (a : ConvCmd) : Nat := bits a.dil 0 4
/-- DX. -/
def dx (a : ConvCmd) : Nat := bits a.dil 4 4
/-- PT. -/
def pt (a : ConvCmd) : Nat := bits a.pad 0 4
/-- PB. -/
def pb (a : ConvCmd) : Nat := bits a.pad 4 4
/-- PL. -/
def pl (a : ConvCmd) : Nat := bits a.pad 8 4
/-- PR. -/
def pr (a : ConvCmd) : Nat := bits a.pad 12 4
/-- HN. -/
def hn (a : ConvCmd) : Nat := bits a.halo 0 4
/-- HS. -/
def hs (a : ConvCmd) : Nat := bits a.halo 4 4
/-- HW. -/
def hw (a : ConvCmd) : Nat := bits a.halo 8 4
/-- HE. -/
def he (a : ConvCmd) : Nat := bits a.halo 12 4
/-- EKH. -/
def ekh (a : ConvCmd) : Nat := (a.kh - 1) * a.dy + 1
/-- EKW. -/
def ekw (a : ConvCmd) : Nat := (a.kw - 1) * a.dx + 1
/-- R255: the window's rows. -/
def winH (a : ConvCmd) : Nat := a.hn + a.ih + a.hs
/-- R255: the window's columns. -/
def winW (a : ConvCmd) : Nat := a.hw + a.iw + a.he
/-- OH; 0 where the kernel does not fit. -/
def oh (a : ConvCmd) : Nat :=
  if a.pt + a.winH + a.pb < a.ekh || a.sy = 0 then 0 else (a.pt + a.winH + a.pb - a.ekh) / a.sy + 1
/-- OW; 0 where the kernel does not fit. -/
def ow (a : ConvCmd) : Nat :=
  if a.pl + a.winW + a.pr < a.ekw || a.sx = 0 then 0 else (a.pl + a.winW + a.pr - a.ekw) / a.sx + 1
/-- M. -/
def m (a : ConvCmd) : Nat := a.oh * a.ow
/-- K. -/
def k (a : ConvCmd) : Nat := a.kh * a.kw * a.c
/-- Bytes of a pixel of the input map. -/
def pixel (a : ConvCmd) : Nat := elemBytes (fElem a.aFmt) a.c
/-- Bytes of a pixel of the output map. -/
def oPixel (a : ConvCmd) : Nat := elemBytes (fElem a.oFmt) a.oc

/-- R256: the product as a matrix command, its results' addends packed by vector. -/
def product (a : ConvCmd) : MatrixCmd :=
  { aFmt := a.aFmt, wFmt := a.wFmt, oFmt := a.oFmt, mflags := (if a.cMode = 0 then 0 else 2) + if a.swEn then 8 else 0, m := a.m,
    n := a.oc, k := a.k, aAddr := 0, aStride := 0, wAddr := a.wAddr, oAddr := 0, oStride := 0, cAddr := 0, saAddr := 0, swAddr := 0,
    epi := a.epi, base := a.base, kb := a.kb }

/-- R263: the row stride of depthwise weights. -/
def dwStride (a : ConvCmd) : Nat := 64 * cdiv (elemBytes (fElem a.wFmt) a.c) 64
/-- Where the weight scales begin, from W_ADDR. -/
def swOff (a : ConvCmd) : Nat := if a.dw then a.kh * a.kw * a.dwStride else a.product.nt * a.product.ktCount * 16384
/-- Bytes of the weight scales. -/
def swLen (a : ConvCmd) : Nat :=
  match fScale a.wFmt with
  | 1 => 4
  | 2 => 4 * a.oc
  | _ => 0

/-- R262: range IN. -/
def rngIn (a : ConvCmd) (x : Ctx) : Rng := ⟨x.placeOf a.inAddr, tierAddr a.inAddr, a.ih, a.inRs * 64, a.iw * a.pixel⟩
/-- R262: range W with its scales. -/
def rngW (a : ConvCmd) (x : Ctx) : Rng := Rng.flat (x.placeOf a.wAddr) (tierAddr a.wAddr) (a.swOff + if a.swEn then a.swLen else 0)
/-- R261: range C. -/
def rngC (a : ConvCmd) (x : Ctx) : Rng :=
  match a.cMode with
  | 1 => Rng.flat (x.placeOf a.cAddr) (tierAddr a.cAddr) (4 * a.oc)
  | 2 => ⟨x.placeOf a.cAddr, tierAddr a.cAddr, a.oh, a.oRs * 64, a.ow * a.oc * 4⟩
  | _ => Rng.flat (x.placeOf a.cAddr) (tierAddr a.cAddr) 0
/-- R262: range O. -/
def rngO (a : ConvCmd) (x : Ctx) : Rng := ⟨x.placeOf a.oAddr, tierAddr a.oAddr, a.oh, a.oRs * 64, a.ow * a.oPixel⟩

/-- R258: the row stride of the north and south bands. -/
def nsStride (a : ConvCmd) : Nat := 64 * cdiv (a.iw * a.pixel) 64
/-- R258: the row stride of a side band `w` pixels wide. -/
def sideStride (a : ConvCmd) (w : Nat) : Nat := 64 * cdiv (w * a.pixel) 64

/-- R258: the bands used, each as quarter number and range: west, north, east, south. -/
def bands (a : ConvCmd) (x : Ctx) : List (Nat × Rng) :=
  let p := x.placeOf a.haloAddr
  let q := fun (i : Nat) => tierAddr a.haloAddr + 16384 * i
  (if a.hw = 0 then [] else [(0, ⟨p, q 0 + a.row0 * a.sideStride a.hw, a.winH, a.sideStride a.hw, a.hw * a.pixel⟩)])
    ++ (if a.hn = 0 then [] else [(1, ⟨p, q 1, a.hn, a.nsStride, a.iw * a.pixel⟩)])
    ++ (if a.he = 0 then [] else [(2, ⟨p, q 2 + a.row0 * a.sideStride a.he, a.winH, a.sideStride a.he, a.he * a.pixel⟩)])
    ++ if a.hs = 0 then [] else [(3, ⟨p, q 3, a.hs, a.nsStride, a.iw * a.pixel⟩)]

/-- R262: the command's ranges and region. -/
def work (a : ConvCmd) (x : Ctx) : Work :=
  { ins := [a.rngIn x, a.rngW x, a.rngC x] ++ (a.bands x).map (·.2), outs := [a.rngO x], base := a.base, kb := a.kb }

/-- R259: R, the taps that one weight tile spans at most. -/
def taps (a : ConvCmd) : Nat :=
  let kt := a.product.mode.kt
  (List.range a.product.ktCount).foldl (fun r t =>
    max r ((min a.k ((t + 1) * kt) - 1) / max 1 a.c - t * kt / max 1 a.c + 1)) 1

/-- R260: S. -/
def sCycles (a : ConvCmd) : Nat := a.m * max a.product.mode.cpv (cdiv a.taps 4)

/-- R260, R263: the time that the issue check uses. -/
def worst (a : ConvCmd) : Nat :=
  if a.dw then 48 + a.oh * a.ow * a.kh * a.kw * cdiv a.pixel 128
  else 32 + 128 + (a.product.nt * a.product.ktCount - 1) * max a.sCycles 128 + a.sCycles + 167

/-- R263: a format pair of a depthwise command. -/
def dwPair (u w : Nat) : Bool := (u == 2 && w == 2) || (isFp8 u && isFp8 w) || (u == 7 && w == 7) || (u == 8 && w == 8)

/-- R254, R263: VIS_FORMAT does not apply. -/
def formatOk (a : ConvCmd) : Bool :=
  let ae := fElem a.aFmt
  let we := fElem a.wFmt
  decide (a.aFmt < 16) && decide (a.wFmt < 128) && decide (fScale a.wFmt ≤ 2) && (a.swEn == (fScale a.wFmt != 0))
    && (if a.dw then dwPair ae we
        else match arrayMode ae we with | some m => m.code != 4 | none => false)
    && ([2, 3, 5, 6, 7, 8, 9] : List Nat).contains a.oFmt
    && (a.oFmt != 3 || (decide (ae ≤ 2) && decide (we ≤ 2) && a.epi == 0 && !a.swEn))
    && a.cMode != 3 && decide (a.epi ≤ 7) && decide (a.flags < 16)

/-- R255, R253, R262: VIS_SHAPE does not apply. -/
def shapeOk (a : ConvCmd) : Bool :=
  let rng := fun (v lo hi : Nat) => decide (lo ≤ v) && decide (v ≤ hi)
  rng a.ih 1 4096 && rng a.iw 1 4096 && rng a.c 1 16384 && rng a.oc 1 4096 && (!a.dw || a.oc == a.c) && rng a.kh 1 7 && rng a.kw 1 7
    && rng a.sy 1 8 && rng a.sx 1 8 && rng a.dy 1 8 && rng a.dx 1 8 && decide (1 ≤ a.oh) && decide (1 ≤ a.ow) && decide (a.m ≤ 4096)
    && (a.pt == 0 || a.hn == 0) && (a.pb == 0 || a.hs == 0) && (a.pl == 0 || a.hw == 0) && (a.pr == 0 || a.he == 0)
    && decide (a.pt < a.ekh) && decide (a.pb < a.ekh) && decide (a.pl < a.ekw) && decide (a.pr < a.ekw) && decide (a.k ≤ 1048576)
    && (elemNibbles (fElem a.aFmt) != 1 || a.c % 2 == 0)
    && (a.ih == 1 || decide (a.iw * a.pixel ≤ a.inRs * 64)) && (a.oh == 1 || decide (a.ow * a.oPixel ≤ a.oRs * 64))

/-- R251, R253: VIS_ALIGN does not apply. -/
def alignOk (a : ConvCmd) : Bool :=
  m64 a.inAddr && addrOk a.inAddr && (if a.dw then m64 a.wAddr else a.wAddr % 128 == 0) && addrOk a.wAddr && m64 a.oAddr
    && addrOk a.oAddr && (a.cMode == 0 || (m64 a.cAddr && addrOk a.cAddr)) && (a.halo == 0 || addrOk a.haloAddr)

/-- R258: the halo block's address, and bands that stay in their quarters. -/
def haloOk (a : ConvCmd) (x : Ctx) (R : Hall) : Bool :=
  a.halo == 0 ||
    ((if bit a.haloAddr 31 then
        tierAddr a.haloAddr % 4096 == 0 && R.rngOk x (Rng.flat (x.placeOf a.haloAddr) (tierAddr a.haloAddr) 65536)
      else a.haloAddr == haloBase)
      && (a.bands x).all fun b => decide (b.2.addr + b.2.len ≤ tierAddr a.haloAddr + 16384 * (b.1 + 1)))

/-- R277: the lowest fault at issue. -/
def fault (a : ConvCmd) (R : Hall) (x : Ctx) : Option Nat :=
  let w := a.work x
  lowest [(!a.formatOk, 0x0501), (!a.shapeOk, 0x0502), (!a.alignOk, 0x0503),
    (!a.haloOk x R || (a.rngO x).inHalo || !((w.ins ++ w.outs).all fun r => R.rngOk x r), 0x0504),
    (anyMeet (spans w.outs) (spans w.ins), 0x0505),
    (!regionOk a.base a.kb || decide (a.kb * 1024 < a.m * 4 * min a.oc 128 + a.oh * 64 * cdiv (a.ow * a.oPixel) 64), 0x0506),
    (decide (65536 < a.worst), 0x0507)]

/-- R256, R257: the window position that output (oy, ox) reads for tap (ky, kx): none in the padding. -/
def windowAt (a : ConvCmd) (oy ox ky kx : Nat) : Option (Nat × Nat) :=
  let y := oy * a.sy + ky * a.dy
  let xx := ox * a.sx + kx * a.dx
  if y < a.pt || xx < a.pl || a.winH ≤ y - a.pt || a.winW ≤ xx - a.pl then none else some (y - a.pt, xx - a.pl)

/-- R257: the place and byte address of a window pixel. -/
def pixelAt (a : ConvCmd) (x : Ctx) (row col : Nat) : Place × Nat :=
  let q := fun (i : Nat) => tierAddr a.haloAddr + 16384 * i
  let hp := x.placeOf a.haloAddr
  if col < a.hw then (hp, q 0 + (row + a.row0) * a.sideStride a.hw + col * a.pixel)
  else if a.hw + a.iw ≤ col then (hp, q 2 + (row + a.row0) * a.sideStride a.he + (col - a.hw - a.iw) * a.pixel)
  else if row < a.hn then (hp, q 1 + row * a.nsStride + (col - a.hw) * a.pixel)
  else if a.hn + a.ih ≤ row then (hp, q 3 + (row - a.hn - a.ih) * a.nsStride + (col - a.hw) * a.pixel)
  else (x.placeOf a.inAddr, tierAddr a.inAddr + (row - a.hn) * (a.inRs * 64) + (col - a.hw) * a.pixel)

/-- The codes of a window pixel's channels. -/
def pixelCodes (a : ConvCmd) (R : Hall) (h : Nat) (x : Ctx) (row col : Nat) : List Nat :=
  let p := a.pixelAt x row col
  let bs := R.readAt h p.1 p.2 a.pixel
  (List.range a.c).map fun c => elemCode (fElem a.aFmt) bs c

/-- The window's pixels that output (oy, ox) reads, by tap; none in the padding. -/
def gather (a : ConvCmd) (R : Hall) (h : Nat) (x : Ctx) (oy ox : Nat) : List (Option (List Nat)) :=
  (List.range a.kh).flatMap fun ky => (List.range a.kw).map fun kx =>
    (a.windowAt oy ox ky kx).map fun p => a.pixelCodes R h x p.1 p.2

/-- R261: the addends, packed by vector at the stride of R141. -/
def addends (a : ConvCmd) (R : Hall) (h : Nat) (x : Ctx) : List Byte :=
  match a.cMode with
  | 0 => []
  | 1 =>
    let b := fit (R.rngBytes h (a.rngC x)) a.product.cStride
    (List.replicate a.m b).flatten
  | _ =>
    (List.range a.oh).flatMap fun oy =>
      let row := R.rowBytes h (a.rngC x) oy
      (List.range a.ow).flatMap fun ox => fit (slice row (ox * a.oc * 4) (4 * a.oc)) a.product.cStride

/-- R256: the array's results by vector: codes and flags, with the walk over the banks. -/
def arrayOut (a : ConvCmd) (R : Hall) (h : Nat) (x : Ctx) : List (List (Nat × Nat)) × MatrixCmd.Walk :=
  let c := a.product
  let qs := c.reads fun _ => a.sCycles
  let w := MatrixCmd.Walk.run R h x (MatrixCmd.walkSteps qs) qs (MatrixCmd.Walk.begin (R.core x.core) 32 32)
  let vecs := (List.range a.m).map fun m => a.gather R h x (m / a.ow) (m % a.ow)
  let i : MatrixCmd.Inputs :=
    { a := vecs.map fun v => packCodes (fElem a.aFmt) (v.flatMap fun p => p.getD (List.replicate a.c 0))
      sa := [], sw := R.readAt h (x.placeOf a.wAddr) (tierAddr a.wAddr + a.swOff) a.swLen, cb := a.addends R h x, tiles := w.data
      skip := fun m k => (((vecs[m]?).getD [])[k / max 1 a.c]?).getD none |>.isNone }
  ((List.range a.m).map fun m => (List.range a.oc).map fun n => c.element i m n, w)

/-- R263: a depthwise result for output pixel m and channel n: code and flags. -/
def dwElement (a : ConvCmd) (wb sw cb : List Byte) (px : List (Option (List Nat))) (m n : Nat) : Nat × Nat :=
  let ae := fElem a.aFmt
  let we := fElem a.wFmt
  let prods := (px.zip (List.range px.length)).filterMap fun p =>
    p.1.map fun cs => (elemVal ae ((cs[n]?).getD 0), elemAt we (slice wb (p.2 * a.dwStride) a.dwStride) n)
  let nf := nanFlag (prods.flatMap fun p => [p.1, p.2])
  let addOff := (m * a.product.cStride + 4 * n)
  let int := ae == 2
  let acc : (Int × Fp) × Nat :=
    if int then
      let terms := (prods.map fun p =>
        match p.1.mul p.2 with
        | .fin s k e => let v : Int := ((k * 2 ^ e.toNat : Nat) : Int); if s then -v else v
        | _ => 0) ++ if a.cMode = 0 then [] else [sint 32 (fld cb addOff 4)]
      let r := terms.foldl (fun (s : Int × Nat) t => let u := accAdd s.1 t; (u.1, s.2 ||| u.2)) (0, 0)
      ((r.1, Fp.int r.1), r.2)
    else
      let terms := prods.map fun p => p.1.mul32 p.2
      let s := match terms with | [] => Fp.zero | t :: r => r.foldl Fp.add32 t
      let s2 := if a.cMode = 0 then s else s.add32 (fp32 (fld cb addOff 4))
      ((0, s2), if a.cMode = 0 then 0 else nanFlag [fp32 (fld cb addOff 4)])
  if a.oFmt = 3 then (sbits 32 acc.1.1, acc.2)
  else
    let v0 := acc.1.2.round32
    let s := MatrixCmd.rowScale (fScale a.wFmt) sw 0 0 n
    let v1 := match s with | none => v0 | some y => v0.mul32 y
    let r := convert (fElem a.oFmt) (gate a.epi v1)
    (r.1, flagsOr [nf, acc.2, nanFlag s.toList, r.2])

/-- R256, R263: what a CONV builds. -/
def build (a : ConvCmd) (R : Hall) (h : Nat) (x : Ctx) : Built :=
  let ar := a.arrayOut R h x
  let wb := if a.dw then R.rngBytes h (a.rngW x) else []
  let res := if a.dw then
      let cb := a.addends R h x
      let sw := slice wb a.swOff a.swLen
      (List.range a.m).map fun m =>
        let px := a.gather R h x (m / a.ow) (m % a.ow)
        (List.range a.oc).map fun n => a.dwElement wb sw cb px m n
    else ar.1
  let o := a.rngO x
  { Built.empty with
    writes := (List.range a.oh).map fun oy =>
      ⟨o.place, o.row oy, packCodes (fElem a.oFmt) (((res.drop (oy * a.ow)).take a.ow).flatMap fun r => r.map (·.1))⟩
    nstat := flagsOr (res.map fun r => flagsOr (r.map (·.2)))
    run := if a.dw then a.worst else ar.2.done + 167
    macs := if a.dw then 0 else a.product.nt * a.product.ktCount * a.sCycles * a.product.mode.macs
    loads := if a.dw then 0 else ar.2.missed
    hits := if a.dw then 0 else ar.2.hits
    bankLoads := if a.dw then [] else ar.2.loads
    bankReads := if a.dw then [] else ar.2.reads }

end ConvCmd

/-- The issue of a CONV. -/
def issueConv (R : Hall) (h : Nat) (x : Ctx) (d : List Byte) : Issue :=
  let a := ConvCmd.ofDesc d
  R.issueWith x (a.work x) (withCode (!zeros d 31 1) 0x0501 (a.fault R x)) fun _ => a.build R h x

/-! ### HALO_SEND -/

/-- R264: the fields of a HALO_SEND. -/
structure HaloCmd where
  dest : Nat
  quarter : Nat
  gal : Nat
  flags : Nat
  rowBytes : Nat
  dstRs : Nat
  dstOff : Nat
  dstBlock : Nat
  sync : Nat
  /-- segments: address, stride in 64 B, rows -/
  segs : List (Nat × Nat × Nat)
  base : Nat
  kb : Nat
  deriving DecidableEq, Repr

/-- R264: a descriptor's fields. -/
def HaloCmd.ofDesc (d : List Byte) : HaloCmd :=
  { dest := fld d 16 1, quarter := fld d 17 1, gal := fld d 18 1, flags := fld d 19 1, rowBytes := fld d 20 2, dstRs := fld d 22 2,
    dstOff := fld d 24 4, dstBlock := fld d 28 4, sync := fld d 32 2
    segs := (List.range 3).map fun i => (fld d (36 + 8 * i) 4, fld d (40 + 8 * i) 2, fld d (42 + 8 * i) 2)
    base := fld d 60 1, kb := fld d 61 1 }

/-- R26: the neighbour of core c of a gallery in a direction: 0 west, 1 north, 2 east, 3 south. -/
def neighbour (c dir : Nat) : Option Nat :=
  match dir with
  | 0 => if c % 4 = 0 then none else some (c - 1)
  | 1 => if c < 4 then none else some (c - 4)
  | 2 => if c % 4 = 3 then none else some (c + 1)
  | 3 => if 8 ≤ c then none else some (c + 4)
  | _ => none

namespace HaloCmd

/-- SIGNAL. -/
def signal (a : HaloCmd) : Bool := bit a.flags 0
/-- Rt. -/
def rt (a : HaloCmd) : Nat := (a.segs.map fun s => s.2.2).foldl (· + ·) 0
/-- The neighbouring core that receives the band, within the hall. -/
def peer (a : HaloCmd) (x : Ctx) : Option Nat := (neighbour (x.core % 12) a.dest).map fun n => 12 * galOf x.core + n
/-- R265: the quarter that the band lands in. -/
def quarterIn (a : HaloCmd) : Nat := if a.dest = 4 then a.quarter else (a.dest + 2) % 4
/-- The segments' ranges. -/
def rngSegs (a : HaloCmd) (x : Ctx) : List Rng :=
  a.segs.map fun s => ⟨x.placeOf s.1, tierAddr s.1, s.2.2, s.2.1 * 64, a.rowBytes⟩
/-- The band's place; no place where there is no neighbour. -/
def rngOut (a : HaloCmd) (x : Ctx) : Rng :=
  let o := a.quarterIn * 16384 + a.dstOff
  if a.dest = 4 then ⟨.gal a.gal, tierAddr a.dstBlock + o, a.rt, a.dstRs * 64, a.rowBytes⟩
  else
    match a.peer x with
    | some n => ⟨.op n, haloBase + o, a.rt, a.dstRs * 64, a.rowBytes⟩
    | none => ⟨.op x.core, 0, 0, 0, 0⟩

/-- The command's ranges; the band's own place is not in the sender's footprint. -/
def work (a : HaloCmd) (x : Ctx) : Work := { ins := a.rngSegs x, outs := [], base := a.base, kb := a.kb }

/-- R267: the run. -/
def time (a : HaloCmd) : Nat :=
  32 + 2 * a.rt * cdiv a.rowBytes 128 + if a.dest = 4 then cdiv (a.rt * a.rowBytes) 128 + 32 else 0

/-- R277: the lowest fault at issue. -/
def fault (a : HaloCmd) (R : Hall) (h : Nat) (x : Ctx) : Option Nat :=
  let out := a.rngOut x
  let quarterOk := decide (1 ≤ a.rt) && (decide (a.rt ≤ 1) || decide (a.rowBytes ≤ a.dstRs * 64))
    && decide (a.dstOff + (a.rt - 1) * (a.dstRs * 64) + a.rowBytes ≤ 16384)
  let segOk := (a.rngSegs x).all fun r => R.rngOk x r
  let outOk := a.dest != 4 || R.galOk x.part a.gal out.addr out.len
  let cellBad := a.signal && (if a.dest = 4 then decide (a.sync < 8192) || !R.cellOk h x.part (galOf x.core) a.sync
    else decide (8192 ≤ a.sync) || !R.cellOk h x.part (galOf x.core) a.sync)
  let route := a.dest == 4 && a.gal != galOf x.core && (R.missingRoute h x.part x.cls [(galOf x.core, a.gal)]).isSome
  lowest [(decide (4 < a.dest) || (a.dest == 4 && decide (3 < a.quarter)) || decide (2 ≤ a.flags), 0x0501),
    (decide (a.rowBytes < 1) || decide (16384 < a.rowBytes), 0x0502),
    (!m64 a.dstOff || (a.dest == 4 && (a.dstBlock % 4096 != 0 || !addrOk a.dstBlock || !bit a.dstBlock 31)) || !(a.segs.all fun s => s.2.2 == 0 || addrOk s.1), 0x0503),
    (!quarterOk || !segOk || !outOk || cellBad, 0x0504), (anyMeet (spans [out]) (spans (a.rngSegs x)), 0x0505),
    (!regionOk a.base a.kb || decide (a.kb < cdiv (a.rt * 64 * cdiv a.rowBytes 64) 1024), 0x0506), (decide (65536 < a.time), 0x0507),
    (decide (a.dest < 4) && (match a.peer x with | none => true | some n => R.fenced n), 0x0508), (route, 0x0608)]

/-- R536: the markers that n bytes copied from byte s of a place to byte t of another carry along: a word with a byte of a POISON word is POISON, a
whole word of UNWRITTEN bytes alone is UNWRITTEN (DESIGN CHOICE 341). -/
def copyMarks (R : Hall) (p : Place) (s : Nat) (q : Place) (t n : Nat) : List (Place × Nat × Bool) :=
  (wordsOf t n).filterMap fun w =>
    let lo := max t (32 * w)
    let hi := min (t + n) (32 * w + 32)
    let ms := (wordsOf (s + lo - t) (hi - lo)).map fun v => R.markAt p (32 * v)
    if ms.contains (some true) then some (q, w, true)
    else if hi - lo = 32 && ms.all fun m => m == some false then some (q, w, false) else none

/-- R266: what the command builds. -/
def build (a : HaloCmd) (R : Hall) (h : Nat) (x : Ctx) : Built :=
  let rows := (a.rngSegs x).flatMap fun r => (List.range r.rows).map fun i => (r, i)
  let o := a.rngOut x
  let put := rows.zip (List.range rows.length)
  { Built.empty with
    writes := put.map fun r => ⟨o.place, o.row r.2, R.rowBytes h r.1.1 r.1.2⟩
    marks := put.flatMap fun r => copyMarks R r.1.1.place (r.1.1.row r.1.2) o.place (o.row r.2) a.rowBytes
    signals := if a.signal then [(a.sync, 1)] else []
    run := a.time
    haloBytes := if a.dest < 4 then a.rt * a.rowBytes else 0 }

end HaloCmd

/-- The issue of a HALO_SEND, which copies markers and never faults on them (R536). -/
def issueHalo (R : Hall) (h : Nat) (x : Ctx) (d : List Byte) : Issue :=
  let a := HaloCmd.ofDesc d
  match x.issueBare (a.work x) (withCode (!zeros d 34 2 || !zeros d 62 2) 0x0501 (a.fault R h x)) (fun _ => a.build R h x) with
  | .error e => .error e
  | .ok b => .ok { b with outs := spans [a.rngOut x] }

/-! ### CROP_RESIZE -/

/-- R268: the fields of a CROP_RESIZE. -/
structure CropCmd where
  aFmt : Nat
  oFmt : Nat
  mode : Nat
  samples : Nat
  ih : Nat
  iw : Nat
  c : Nat
  boxes : Nat
  oh : Nat
  ow : Nat
  inRs : Nat
  inAddr : Nat
  boxAddr : Nat
  oAddr : Nat
  scaleY : Nat
  scaleX : Nat
  boxStride : Nat
  base : Nat
  kb : Nat
  deriving DecidableEq, Repr

/-- R268: a descriptor's fields. -/
def CropCmd.ofDesc (d : List Byte) : CropCmd :=
  { aFmt := fld d 16 1, oFmt := fld d 17 1, mode := fld d 18 1, samples := fld d 19 1, ih := fld d 20 2, iw := fld d 22 2,
    c := fld d 24 2, boxes := fld d 26 2, oh := fld d 28 1, ow := fld d 29 1, inRs := fld d 30 2, inAddr := fld d 32 4,
    boxAddr := fld d 36 4, oAddr := fld d 40 4, scaleY := fld d 44 4, scaleX := fld d 48 4, boxStride := fld d 52 2,
    base := fld d 60 1, kb := fld d 61 1 }

namespace CropCmd

/-- Bytes of a map pixel. -/
def pixel (a : CropCmd) : Nat := elemBytes a.aFmt a.c
/-- CS. -/
def cs (a : CropCmd) : Nat := 64 * cdiv (a.oh * a.ow * elemBytes a.oFmt a.c) 64

/-- The command's ranges and region. -/
def work (a : CropCmd) (x : Ctx) : Work :=
  { ins := [⟨x.placeOf a.inAddr, tierAddr a.inAddr, a.ih, a.inRs * 64, a.iw * a.pixel⟩,
      Rng.flat (x.placeOf a.boxAddr) (tierAddr a.boxAddr) (if a.boxes = 0 then 0 else (a.boxes - 1) * a.boxStride + 16)]
    outs := [Rng.flat (x.placeOf a.oAddr) (tierAddr a.oAddr) (a.boxes * a.cs)], base := a.base, kb := a.kb }

/-- R270: the run. -/
def time (a : CropCmd) : Nat :=
  64 + a.boxes * (16 + a.oh * a.ow * (a.samples * a.samples) * (if a.mode = 1 then 1 else 4) * cdiv a.pixel 128)

/-- R277: the lowest fault at issue. -/
def fault (a : CropCmd) (R : Hall) (x : Ctx) : Option Nat :=
  let w := a.work x
  let rng := fun (v lo hi : Nat) => decide (lo ≤ v) && decide (v ≤ hi)
  lowest [(!(([2, 5, 6, 7, 8] : List Nat).contains a.aFmt) || !(([2, 5, 6, 7, 8, 9] : List Nat).contains a.oFmt)
      || decide (2 < a.mode), 0x0501),
    (!(if a.mode = 2 then rng a.samples 1 4 else a.samples == 1) || !rng a.ih 1 4096 || !rng a.iw 1 4096 || !rng a.c 1 4096
      || !rng a.boxes 1 1024 || !rng a.oh 1 64 || !rng a.ow 1 64 || (a.ih != 1 && decide (a.inRs * 64 < a.iw * a.pixel)), 0x0502),
    (!m64 a.inAddr || !m64 a.oAddr || a.boxAddr % 16 != 0 || a.boxStride % 16 != 0 || !rng a.boxStride 16 256 || !addrOk a.inAddr
      || !addrOk a.oAddr || !addrOk a.boxAddr, 0x0503),
    (!((w.ins ++ w.outs).all fun r => R.rngOk x r) || w.outs.any Rng.inHalo, 0x0504), (anyMeet (spans w.outs) (spans w.ins), 0x0505),
    (!regionOk a.base a.kb || decide (a.kb < cdiv (a.boxes * a.cs) 1024), 0x0506), (decide (65536 < a.time), 0x0507)]

end CropCmd

/-- The largest integer not above a finite value. -/
def fpFloor (x : Fp) : Int :=
  match x with
  | .fin s m e =>
    let i : Int := if s then -(m : Int) else m
    if 0 ≤ e then i * 2 ^ e.toNat else i / ((2 ^ (-e).toNat : Nat) : Int)
  | _ => 0

/-- R269: the sample coordinate of bin i, sample s: lo′ + (i + (s + 0.5) / P) × (hi′ − lo′) / O, operation by operation. -/
def sampleAt (lo hi : Fp) (i s p o : Nat) : Fp :=
  let frac := ((Fp.int s).add32 (.fin false 1 (-1))).div32 (Fp.int p)
  lo.add32 ((((Fp.int i).add32 frac).mul32 (hi.sub32 lo)).div32 (Fp.int o))

/-- R269: a point lies in [0, n]. -/
def inside (y : Fp) (n : Nat) : Bool := !y.isNan && !y.lt Fp.zero && !(Fp.int n).lt y

/-- A value held between two. -/
def Fp.clamp (x lo hi : Fp) : Fp := if x.lt lo then lo else if hi.lt x then hi else x

/-- R269: the pixels that a sample point reads. -/
def samplePixels (mode ih iw : Nat) (y x : Fp) : List (Nat × Nat) :=
  if !(inside y ih) || !(inside x iw) then []
  else if mode = 1 then [(min (fpFloor y).toNat (ih - 1), min (fpFloor x).toNat (iw - 1))]
  else
    let half : Fp := .fin false 1 (-1)
    let ylo := (fpFloor ((y.sub32 half).clamp Fp.zero (Fp.int (ih - 1)))).toNat
    let xlo := (fpFloor ((x.sub32 half).clamp Fp.zero (Fp.int (iw - 1)))).toNat
    [ylo, min (ylo + 1) (ih - 1)].flatMap fun i => [xlo, min (xlo + 1) (iw - 1)].map fun j => (i, j)

/-- R269: the value of a sample point: `px` reads a pixel. -/
def samplePoint (mode ih iw : Nat) (px : Nat → Nat → Fp) (y x : Fp) : Fp :=
  if !(inside y ih) || !(inside x iw) then Fp.zero
  else if mode = 1 then px (min (fpFloor y).toNat (ih - 1)) (min (fpFloor x).toNat (iw - 1))
  else
    let half : Fp := .fin false 1 (-1)
    let one : Fp := .fin false 1 0
    let yc := (y.sub32 half).clamp Fp.zero (Fp.int (ih - 1))
    let xc := (x.sub32 half).clamp Fp.zero (Fp.int (iw - 1))
    let ylo := (fpFloor yc).toNat
    let xlo := (fpFloor xc).toNat
    let yhi := min (ylo + 1) (ih - 1)
    let xhi := min (xlo + 1) (iw - 1)
    let fy := yc.sub32 (Fp.int ylo)
    let fx := xc.sub32 (Fp.int xlo)
    let w := fun (u v : Fp) (p : Fp) => (u.mul32 v).mul32 p
    (((w (one.sub32 fy) (one.sub32 fx) (px ylo xlo)).add32 (w (one.sub32 fy) fx (px ylo xhi))).add32
      (w fy (one.sub32 fx) (px yhi xlo))).add32 (w fy fx (px yhi xhi))

namespace CropCmd

/-- R269, R270: one box's crop: bytes and flags. -/
def crop (a : CropCmd) (map : Nat → List Byte) (box : List Byte) : List Byte × Nat :=
  let co := fun (i : Nat) (s : Nat) => (fp32 (fld box (4 * i) 4)).mul32 (fp32 s)
  let y0 := co 0 a.scaleY
  let x0 := co 1 a.scaleX
  let y1 := co 2 a.scaleY
  let x1 := co 3 a.scaleX
  if [y0, x0, y1, x1].any fun v => v.isNan || v.isInf then (List.replicate a.cs 0, nanIn)
  else
    let p := if a.mode = 2 then a.samples else 1
    let cells := (List.range a.oh).flatMap fun i => (List.range a.ow).flatMap fun j => (List.range a.c).map fun c =>
      let px := fun (y x : Nat) => elemAt a.aFmt (map y) (x * a.c + c)
      let at' := (List.range p).flatMap fun s => (List.range p).map fun t =>
        (sampleAt y0 y1 i s p a.oh, sampleAt x0 x1 j t p a.ow)
      let pts := at'.map fun q => samplePoint a.mode a.ih a.iw px q.1 q.2
      let used := at'.flatMap fun q => (samplePixels a.mode a.ih a.iw q.1 q.2).map fun k => px k.1 k.2
      let v := match pts with
        | [] => Fp.zero
        | u :: r => r.foldl Fp.add32 u
      let v' := if a.mode = 2 then v.mul32 ((Fp.int 1).div32 (Fp.int (p * p))) else v
      let r := convert a.oFmt v'
      (r.1, r.2 ||| nanFlag used)
    (fit (packCodes a.oFmt (cells.map (·.1))) a.cs, flagsOr (cells.map (·.2)))

/-- What a CROP_RESIZE builds. -/
def build (a : CropCmd) (R : Hall) (h : Nat) (x : Ctx) : Built :=
  let rows := (List.range a.ih).map fun y => R.rowBytes h (((a.work x).ins[0]?).getD (Rng.flat .dram 0 0)) y
  let map := fun (y : Nat) => (rows[y]?).getD []
  let cs := (List.range a.boxes).map fun b => a.crop map (R.readAt h (x.placeOf a.boxAddr) (tierAddr a.boxAddr + b * a.boxStride) 16)
  { Built.empty with
    writes := (cs.zip (List.range a.boxes)).map fun c => ⟨x.placeOf a.oAddr, tierAddr a.oAddr + c.2 * a.cs, c.1.1⟩
    nstat := flagsOr (cs.map (·.2))
    run := a.time }

end CropCmd

/-- The issue of a CROP_RESIZE. -/
def issueCrop (R : Hall) (h : Nat) (x : Ctx) (d : List Byte) : Issue :=
  let a := CropCmd.ofDesc d
  R.issueWith x (a.work x) (withCode (!zeros d 54 6 || !zeros d 62 2) 0x0501 (a.fault R x)) fun _ => a.build R h x

/-! ### BOX_DECODE -/

/-- R271: the fields of a BOX_DECODE. -/
structure BoxCmd where
  dFmt : Nat
  sFmt : Nat
  flags : Nat
  anchors : Nat
  classes : Nat
  maxOut : Nat
  clipH : Nat
  clipW : Nat
  anchorAddr : Nat
  deltaAddr : Nat
  scoreAddr : Nat
  outAddr : Nat
  wCentre : Nat
  wSize : Nat
  thresh : Nat
  base : Nat
  kb : Nat
  deriving DecidableEq, Repr

/-- R271: a descriptor's fields. -/
def BoxCmd.ofDesc (d : List Byte) : BoxCmd :=
  { dFmt := fld d 16 1, sFmt := fld d 17 1, flags := fld d 18 1, anchors := fld d 20 2, classes := fld d 22 2, maxOut := fld d 24 2,
    clipH := fld d 26 2, clipW := fld d 28 2, anchorAddr := fld d 32 4, deltaAddr := fld d 36 4, scoreAddr := fld d 40 4,
    outAddr := fld d 44 4, wCentre := fld d 48 4, wSize := fld d 52 4, thresh := fld d 56 4, base := fld d 60 1, kb := fld d 61 1 }

/-- R272: a candidate record. -/
structure Cand where
  y0 : Fp
  x0 : Fp
  y1 : Fp
  x1 : Fp
  score : Fp
  cls : Nat
  anchor : Nat

/-- The numbers of a record. -/
def Cand.values (c : Cand) : List Fp := [c.y0, c.x0, c.y1, c.x1, c.score]

/-- R272: a record's bytes. -/
def Cand.bytes (c : Cand) : List Byte :=
  c.values.flatMap (fun v => leBytes 4 v.bits32) ++ leBytes 2 c.cls ++ [0, 0] ++ leBytes 4 c.anchor
    ++ [0, 0, 0, 0]

/-- R272: a record read. -/
def Cand.ofBytes (b : List Byte) : Cand :=
  let v := fun (i : Nat) => fp32 (fld b (4 * i) 4)
  ⟨v 0, v 1, v 2, v 3, v 4, fld b 20 2, fld b 24 4⟩

/-- A candidate put into a list in descending score, after its equals. -/
def insertCand (c : Cand) : List Cand → List Cand
  | [] => [c]
  | k :: r => if k.score.lt c.score then c :: k :: r else k :: insertCand c r

namespace BoxCmd

/-- SCORE_FN. -/
def fn (a : BoxCmd) : Nat := bits a.flags 0 2
/-- CLIP. -/
def clip (a : BoxCmd) : Bool := bit a.flags 2
/-- The stride of a score row. -/
def sStride (a : BoxCmd) : Nat := 64 * cdiv (elemBytes a.sFmt a.classes) 64

/-- R273: the command's ranges and region. -/
def work (a : BoxCmd) (x : Ctx) : Work :=
  { ins := [Rng.flat (x.placeOf a.anchorAddr) (tierAddr a.anchorAddr) (16 * a.anchors),
      Rng.flat (x.placeOf a.deltaAddr) (tierAddr a.deltaAddr) (a.anchors * elemBytes a.dFmt 4),
      Rng.flat (x.placeOf a.scoreAddr) (tierAddr a.scoreAddr) (a.anchors * a.sStride)]
    outs := [Rng.flat (x.placeOf a.outAddr) (tierAddr a.outAddr) (64 + 32 * a.maxOut)], base := a.base, kb := a.kb }

/-- R273: the run. -/
def time (a : BoxCmd) : Nat :=
  64 + a.anchors * (4 + (if a.fn = 2 then 2 else 1) * cdiv a.classes 16) + 14 * a.maxOut

/-- R277: the lowest fault at issue. -/
def fault (a : BoxCmd) (R : Hall) (x : Ctx) : Option Nat :=
  let w := a.work x
  let rng := fun (v lo hi : Nat) => decide (lo ≤ v) && decide (v ≤ hi)
  let as := [a.anchorAddr, a.deltaAddr, a.scoreAddr, a.outAddr]
  lowest [(!(([7, 8, 9] : List Nat).contains a.dFmt) || !(([7, 8, 9] : List Nat).contains a.sFmt) || a.fn == 3 || decide (8 ≤ a.flags),
      0x0501),
    (!rng a.anchors 1 65535 || !rng a.classes (if a.fn = 2 then 2 else 1) 1024 || !rng a.maxOut 1 4032, 0x0502),
    (!(as.all m64) || !(as.all addrOk), 0x0503),
    (!((w.ins ++ w.outs).all fun r => R.rngOk x r) || w.outs.any Rng.inHalo, 0x0504), (anyMeet (spans w.outs) (spans w.ins), 0x0505),
    (!regionOk a.base a.kb || decide (a.kb < cdiv (64 + 32 * a.maxOut) 1024), 0x0506), (decide (65536 < a.time), 0x0507)]

/-- R271: an anchor's box: y0, x0, y1, x1. -/
def decode (a : BoxCmd) (an de : List Byte) : Fp × Fp × Fp × Fp :=
  let v := fun (i : Nat) => fp32 (fld an (4 * i) 4)
  let d := fun (i : Nat) => elemAt a.dFmt de i
  let ws := fp32 a.wSize
  let wc := fp32 a.wCentre
  let lim : Fp := (Fp.fin false 4135 0).div32 (.fin false 1000 0)
  let half : Fp := .fin false 1 (-1)
  let h2 := (v 2).mul32 (gate 6 ((ws.mul32 (d 2)).smaller lim))
  let w2 := (v 3).mul32 (gate 6 ((ws.mul32 (d 3)).smaller lim))
  let cy := (v 0).add32 ((wc.mul32 (d 0)).mul32 (v 2))
  let cx := (v 1).add32 ((wc.mul32 (d 1)).mul32 (v 3))
  let cl := fun (u : Fp) (n : Nat) => if a.clip then u.clamp Fp.zero (Fp.int n) else u
  (cl (cy.sub32 (half.mul32 h2)) a.clipH, cl (cx.sub32 (half.mul32 w2)) a.clipW, cl (cy.add32 (half.mul32 h2)) a.clipH,
    cl (cx.add32 (half.mul32 w2)) a.clipW)

/-- R271: an anchor's scores. -/
def scores (a : BoxCmd) (row : List Byte) : List Fp :=
  let raw := (List.range a.classes).map fun k => elemAt a.sFmt row k
  match a.fn with
  | 0 => raw
  | 1 => raw.map (gate 4)
  | _ =>
    let m := match raw with | [] => Fp.zero | s :: r => r.foldl Fp.larger s
    let es := raw.map fun s => gate 6 (s.sub32 m)
    let t := match es with | [] => Fp.zero | e :: r => r.foldl Fp.add32 e
    es.map fun e => e.mul32 (gate 7 t)

/-- R271, R272: what a BOX_DECODE builds. -/
def build (a : BoxCmd) (R : Hall) (h : Nat) (x : Ctx) : Built :=
  let tab := fun (i : Nat) => R.rngBytes h (((a.work x).ins[i]?).getD (Rng.flat .dram 0 0))
  let an := tab 0
  let de := tab 1
  let sc := tab 2
  let dsz := elemBytes a.dFmt 4
  let th := fp32 a.thresh
  let rows := (List.range a.anchors).map fun i =>
    let ab := slice an (16 * i) 16
    let db := slice de (i * dsz) dsz
    let ss := a.scores (slice sc (i * a.sStride) a.sStride)
    let b := a.decode ab db
    let nf := nanFlag (((List.range 4).map fun j => fp32 (fld ab (4 * j) 4)) ++ ((List.range 4).map fun j => elemAt a.dFmt db j)
      ++ (List.range a.classes).map fun k => elemAt a.sFmt (slice sc (i * a.sStride) a.sStride) k)
    ((ss.zip (List.range ss.length)).filterMap fun s =>
      if s.1.isNan || th.isNan || s.1.lt th || (a.fn = 2 && s.2 = 0) then none
      else some (⟨b.1, b.2.1, b.2.2.1, b.2.2.2, s.1, s.2, i⟩ : Cand), nf)
  let all := rows.flatMap (·.1)
  let best := (all.foldl (fun l c => insertCand c l) []).take a.maxOut
  { Built.empty with
    writes := [⟨x.placeOf a.outAddr, tierAddr a.outAddr,
      fit (leBytes 4 best.length ++ leBytes 4 all.length) 64 ++ best.flatMap Cand.bytes⟩]
    nstat := flagsOr (nanFlag [fp32 a.wCentre, fp32 a.wSize] :: infFlag (best.flatMap Cand.values) :: rows.map (·.2))
    run := a.time }

end BoxCmd

/-- The issue of a BOX_DECODE. -/
def issueBox (R : Hall) (h : Nat) (x : Ctx) (d : List Byte) : Issue :=
  let a := BoxCmd.ofDesc d
  R.issueWith x (a.work x) (withCode (!zeros d 19 1 || !zeros d 30 2 || !zeros d 62 2) 0x0501 (a.fault R x)) fun _ => a.build R h x

/-! ### NMS -/

/-- R274: the fields of an NMS. -/
structure NmsCmd where
  lists : Nat
  flags : Nat
  maxKeep : Nat
  iou : Nat
  addrs : List Nat
  outAddr : Nat
  base : Nat
  kb : Nat
  maxIn : Nat
  deriving DecidableEq, Repr

/-- R274: a descriptor's fields. -/
def NmsCmd.ofDesc (d : List Byte) : NmsCmd :=
  { lists := fld d 16 1, flags := fld d 17 1, maxKeep := fld d 18 2, iou := fld d 20 4
    addrs := (List.range 8).map fun i => fld d (24 + 4 * i) 4
    outAddr := fld d 56 4, base := fld d 60 1, kb := fld d 61 1, maxIn := fld d 62 2 }

/-- R275: area(b). -/
def Cand.area (b : Cand) : Fp := (b.y1.sub32 b.y0).mul32 (b.x1.sub32 b.x0)

/-- R275: a kept box suppresses b. -/
def suppresses (iou : Fp) (b k : Cand) : Bool :=
  let iy := Fp.zero.larger ((b.y1.smaller k.y1).sub32 (b.y0.larger k.y0))
  let ix := Fp.zero.larger ((b.x1.smaller k.x1).sub32 (b.x0.larger k.x0))
  let inter := iy.mul32 ix
  let union := (b.area.add32 k.area).sub32 inter
  (iou.mul32 union).lt inter

/-- The state of R275's loop. -/
structure NmsRun where
  lists : List (List Cand)
  kept : List Cand
  considered : Nat
  discarded : Nat
  /-- R163: a record considered had a NaN -/
  nan : Bool

/-- R275: the list whose head is taken next. -/
def nmsHead (ls : List (List Cand)) : Option (Nat × Cand) :=
  (ls.zip (List.range ls.length)).foldl (fun (best : Option (Nat × Cand)) e =>
    match e.1 with
    | [] => best
    | c :: _ =>
      match best with
      | none => some (e.2, c)
      | some b =>
        if c.score.isNan then some b
        else if b.2.score.isNan || b.2.score.lt c.score then some (e.2, c) else some b) none

/-- R275: a NaN field. -/
def Cand.hasNan (c : Cand) : Bool := c.values.any Fp.isNan

/-- R275: the loop; the fuel is MAX_IN. -/
def nmsLoop (iou : Fp) (agnostic : Bool) (maxKeep : Nat) : Nat → NmsRun → NmsRun
  | 0, r => r
  | fuel + 1, r =>
    match nmsHead r.lists with
    | none => r
    | some (i, b) =>
      let r1 := { r with lists := modAt r.lists i List.tail, considered := r.considered + 1, nan := r.nan || b.hasNan }
      if b.hasNan || !(b.y0.lt b.y1) || !(b.x0.lt b.x1) then
        nmsLoop iou agnostic maxKeep fuel { r1 with discarded := r1.discarded + 1 }
      else if r1.kept.any fun k => (agnostic || k.cls == b.cls) && suppresses iou b k then nmsLoop iou agnostic maxKeep fuel r1
      else
        let r2 := { r1 with kept := r1.kept ++ [b] }
        if maxKeep ≤ r2.kept.length then r2 else nmsLoop iou agnostic maxKeep fuel r2

namespace NmsCmd

/-- R274: bytes of a list's range. -/
def listLen (a : NmsCmd) : Nat := 64 + 32 * min a.maxIn 4032

/-- The command's ranges and region. -/
def work (a : NmsCmd) (x : Ctx) : Work :=
  { ins := (a.addrs.take a.lists).map fun l => Rng.flat (x.placeOf l) (tierAddr l) a.listLen
    outs := [Rng.flat (x.placeOf a.outAddr) (tierAddr a.outAddr) (64 + 32 * a.maxKeep)], base := a.base, kb := a.kb }

/-- R276: the run. -/
def time (a : NmsCmd) : Nat := 64 + a.maxIn * (3 + cdiv a.maxKeep 16)

/-- R277: the lowest fault at issue. -/
def fault (a : NmsCmd) (R : Hall) (x : Ctx) : Option Nat :=
  let w := a.work x
  let as := a.addrs.take a.lists ++ [a.outAddr]
  let iou := fp32 a.iou
  let rng := fun (v lo hi : Nat) => decide (lo ≤ v) && decide (v ≤ hi)
  lowest [(decide (2 ≤ a.flags), 0x0501),
    (!rng a.lists 1 8 || !rng a.maxKeep 1 1024 || !rng a.maxIn 1 32256 || iou.isNan || iou.lt Fp.zero || (Fp.int 1).lt iou, 0x0502),
    (!(as.all m64) || !(as.all addrOk), 0x0503),
    (!((w.ins ++ w.outs).all fun r => R.rngOk x r) || w.outs.any Rng.inHalo, 0x0504), (anyMeet (spans w.outs) (spans w.ins), 0x0505),
    (!regionOk a.base a.kb || decide (a.kb < cdiv (64 + 32 * a.maxKeep) 1024), 0x0506), (decide (65536 < a.time), 0x0507)]

/-- R275, R276: what an NMS builds. -/
def build (a : NmsCmd) (R : Hall) (h : Nat) (x : Ctx) : Built :=
  let ls := (a.work x).ins.map fun r =>
    let b := R.rngBytes h r
    (List.range (min (fld b 0 4) (min a.maxIn 4032))).map fun i => Cand.ofBytes (slice b (64 + 32 * i) 32)
  let r := nmsLoop (fp32 a.iou) (bit a.flags 0) a.maxKeep a.maxIn ⟨ls, [], 0, 0, false⟩
  { Built.empty with
    writes := [⟨x.placeOf a.outAddr, tierAddr a.outAddr,
      fit (leBytes 4 r.kept.length ++ leBytes 4 r.considered ++ leBytes 4 r.discarded) 64 ++ r.kept.flatMap Cand.bytes⟩]
    nstat := (if r.nan then nanIn else 0) ||| infFlag (r.kept.flatMap Cand.values)
    run := a.time }

end NmsCmd

/-- R274: what the command reads of its lists: COUNT, and the first COUNT records (DEDUCED 339). -/
def NmsCmd.reads (a : NmsCmd) (R : Hall) (h : Nat) (x : Ctx) : List Rng :=
  (a.work x).ins.flatMap fun r =>
    [Rng.flat r.place r.addr 4,
      Rng.flat r.place (r.addr + 64) (32 * min (le (R.readAt h r.place r.addr 4)) (min a.maxIn 4032))]

/-- The issue of an NMS. -/
def issueNms (R : Hall) (h : Nat) (x : Ctx) (d : List Byte) : Issue :=
  let a := NmsCmd.ofDesc d
  R.issueReading x (a.work x) (a.reads R h x) (a.fault R x) fun _ => a.build R h x

end Sys2Proof.Machine
end

