-- ==== Sys2Proof/Machine/Mover.lean ====
section
/-! DEFINITION. The mover's commands (10, R353 to R359): COPY, PLACE and CELL_OP. -/

namespace Sys2Proof.Machine

/-! ### COPY -/

/-- R354: one side of a COPY. -/
structure Side where
  kind : Nat
  gal : Nat
  winHi : Nat
  addr : Nat
  stride : Nat
  deriving DecidableEq, Repr

/-- R354: the fields of a COPY. -/
structure CopyCmd where
  src : Side
  dst : Side
  rows : Nat
  flags : Nat
  rowBytes : Nat
  base : Nat
  kb : Nat
  deriving DecidableEq, Repr

/-- R354: a descriptor's fields. -/
def CopyCmd.ofDesc (d : List Byte) : CopyCmd :=
  { src := ⟨fld d 16 1, fld d 18 1, bits (fld d 23 1) 0 4, fld d 28 4, fld d 32 4⟩
    dst := ⟨fld d 17 1, fld d 19 1, bits (fld d 23 1) 4 4, fld d 36 4, fld d 40 4⟩
    rows := fld d 20 2, flags := fld d 22 1, rowBytes := fld d 24 4, base := fld d 60 1, kb := fld d 61 1 }

/-- R354: the window that a side of kind 4 (this hall) or 5 (the far hall) names, where it names the partition. -/
def Side.window (s : Side) (H : Hall) (h : Nat) (part : Nat) : Option WindowEntry :=
  let hw := if s.kind = 5 then 1 - h else h
  match H.image.bind fun im => im.window hw (s.gal + 256 * s.winHi) with
  | none => none
  | some w => if (w.partX = part || w.partY = part) && (s.kind != 5 || w.kind == 0) then some w else none

/-- The side moves DRAM data of this hall. -/
def Side.isDram (s : Side) (H : Hall) (h part : Nat) : Bool :=
  s.kind == 3 || (s.kind == 4 && (match s.window H h part with | some w => w.tier == 1 | none => false))

/-- R354, R322, R325, R195: the range of a side whose rows span `len` bytes; none where it is not permitted. The footprint bounds an operand-store side
(R302). A side of kind 5 has its range in the far hall's window: only its fit is checked. -/
def Side.range (s : Side) (H : Hall) (h : Nat) (x : Ctx) (rows rowBytes len : Nat) : Option Rng :=
  let mk := fun (p : Place) (a : Nat) => (⟨p, a, rows, s.stride, rowBytes⟩ : Rng)
  match s.kind with
  | 0 => some (mk (.op x.core) s.addr)
  | 1 => if H.galOk x.part (galOf x.core) s.addr len then some (mk (.gal (galOf x.core)) s.addr) else none
  | 2 => if s.gal ≠ galOf x.core && H.galOk x.part s.gal s.addr len then some (mk (.gal s.gal) s.addr) else none
  | 3 => (H.extentAddr h x.dom (64 * s.addr) len).map fun a => mk .dram a
  | 4 =>
    match s.window H h x.part with
    | none => none
    | some w =>
      if s.addr + len ≤ w.size && !(w.tier == 0 && decide (0 < len) && H.inPool w.gallery (w.base + s.addr) len) then
        some (mk (if w.tier = 0 then .gal w.gallery else .dram) (w.base + s.addr))
      else none
  | _ =>
    match s.window H h x.part with
    | none => none
    | some w => if s.addr + len ≤ w.size then some (Rng.flat .dram 0 0) else none

namespace CopyCmd

/-- Bytes moved. -/
def bytes (a : CopyCmd) : Nat := a.rows * a.rowBytes
/-- The span of a side's rows. -/
def span (a : CopyCmd) (s : Side) : Nat := if a.rows = 0 then 0 else (a.rows - 1) * s.stride + a.rowBytes
/-- The source's range. -/
def rngS (a : CopyCmd) (H : Hall) (h : Nat) (x : Ctx) : Option Rng := a.src.range H h x a.rows a.rowBytes (a.span a.src)
/-- The destination's range. -/
def rngD (a : CopyCmd) (H : Hall) (h : Nat) (x : Ctx) : Option Rng := a.dst.range H h x a.rows a.rowBytes (a.span a.dst)

/-- A side reaches past the end of the operand store. -/
def pastOp (a : CopyCmd) (s : Side) : Bool := s.kind == 0 && decide (opSize < s.addr + a.span s)

/-- The command's ranges and region. -/
def work (a : CopyCmd) (H : Hall) (h : Nat) (x : Ctx) : Work :=
  { ins := (a.rngS H h x).toList, outs := (a.rngD H h x).toList, base := a.base, kb := a.kb }

/-- R356: the run. -/
def time (a : CopyCmd) : Nat :=
  48 + 2 * a.rows + cdiv a.bytes (if a.src.kind ≤ 1 then 256 else 128)
    + (match a.src.kind with | 0 => 0 | 1 => 0 | 3 => 128 | _ => 32)

/-- R32: the stop pairs of the command's transfers that need a declared route. -/
def pairs (a : CopyCmd) (H : Hall) (h : Nat) (x : Ctx) : List (Nat × Nat) :=
  let g := galOf x.core
  (if a.src.kind = 2 then [(a.src.gal, g)] else if a.src.isDram H h x.part then H.dramPairs g false else [])
    ++ if a.dst.kind = 2 then [(g, a.dst.gal)] else if a.dst.isDram H h x.part then H.dramPairs g true
       else if a.dst.kind = 5 then [(g, 14)] else []

/-- R359: the lowest fault at issue. -/
def fault (a : CopyCmd) (H : Hall) (h : Nat) (x : Ctx) : Option Nat :=
  let m64 := fun (v : Nat) => v % 64 == 0
  let w := a.work H h x
  lowest [(decide (4 < a.src.kind) || decide (5 < a.dst.kind) || decide (2 ≤ a.flags), 0x0601),
    (decide (a.rows < 1) || decide (4096 < a.rows) || decide (a.rowBytes < 1) || decide (131072 < a.rowBytes)
      || (decide (1 < a.rows) && decide (a.dst.stride < a.rowBytes)) || (a.dst.kind == 5 && a.dst.stride != a.rowBytes), 0x0602),
    ((a.src.isDram H h x.part && (!m64 a.rowBytes || !m64 a.src.stride))
      || (a.dst.isDram H h x.part && (!m64 a.rowBytes || !m64 a.dst.stride))
      || (a.dst.kind == 5 && (a.dst.addr % 32 != 0 || a.bytes % 32 != 0)), 0x0603),
    ((a.rngS H h x).isNone || (a.rngD H h x).isNone || a.pastOp a.src || a.pastOp a.dst, 0x0604), (anyMeet (spans w.outs) (spans w.ins), 0x0605),
    (!regionOk a.base a.kb || decide (a.kb < cdiv a.bytes 1024), 0x0606), (decide (65536 < a.time), 0x0607),
    ((H.missingRoute h x.part x.cls (a.pairs H h x)).isSome, 0x0608)]

/-- R355: the MOVE messages of a kind 5 destination. -/
def moves (a : CopyCmd) (x : Ctx) (bs : List Byte) : List StairMsg :=
  let n := cdiv bs.length 512
  (List.range n).map fun i =>
    let part := slice bs (512 * i) 512
    { kind := 1, cls := x.cls, len := cdiv part.length 32, part := x.part, seq := 0, arg0 := a.dst.gal + 256 * a.dst.winHi
      arg1 := a.dst.addr + 512 * i, arg2 := if i + 1 = n && bit a.flags 0 then 1 else 0, data := part }

/-- R355: what a COPY builds. -/
def build (a : CopyCmd) (R : Hall) (h : Nat) (x : Ctx) : Built :=
  let rows := match a.rngS R h x with
    | some r => (List.range a.rows).map fun i => R.rowBytes h r i
    | none => []
  { Built.empty with
    writes := if a.dst.kind = 5 then [] else
      match a.rngD R h x with
      | some r => (rows.zip (List.range a.rows)).map fun e => ⟨r.place, r.row e.2, e.1⟩
      | none => []
    stair := if a.dst.kind = 5 then a.moves x rows.flatten else []
    run := a.time }

end CopyCmd

/-- The issue of a COPY: lines read from DRAM are counted (R577). -/
def issueCopy (H R : Hall) (h : Nat) (x : Ctx) (d : List Byte) : Except Nat (Hall × Built) :=
  let a := CopyCmd.ofDesc d
  match R.issueWith x (a.work R h x) (withCode (!zeros d 44 16 || !zeros d 62 2) 0x0601 (a.fault R h x)) (fun _ => a.build R h x) with
  | .error e => .error e
  | .ok b =>
    let H1 := match a.rngS R h x with
      | some r =>
        if r.place == .dram then (List.range r.rows).foldl (fun H i => H.countReads (r.row i) r.bytes) H else H
      | none => H
    .ok (H1, b)

/-! ### PLACE -/

/-- The issue of a PLACE (R357). -/
def issuePlace (R : Hall) (x : Ctx) (d : List Byte) : Issue :=
  let subop := fld d 16 1
  let stream := fld d 20 4
  let count := fld d 24 2
  let kb := fld d 61 1
  let hs := (List.range count).map fun i => stream + i
  let cache := R.cacheFor x stream
  let bad := cache.isNone || hs.any fun s => handleCache s != handleCache stream || (R.cacheFor x s).isNone
  let st := fun (s : Nat) => ((R.cacheFor x s).map fun (c : Cache) => c.stream (handleIdx s)).getD Stream.empty
  let entries := (hs.map fun s => (st s).entries.length).foldl (· + ·) 0
  let run := 32 + cdiv entries 16
  let own := lowest [(decide (1 < subop) || !zeros d 17 3 || !zeros d 26 34 || !zeros d 62 2, 0x0601),
    (decide (count < 1) || decide (4096 < count), 0x0602), (!regionOk (fld d 60 1) kb || decide (kb < 1), 0x0606),
    (decide (65536 < run), 0x0607), (bad, 0x0309), (!bad && hs.any fun s => (st s).lost, 0x0312)]
  R.issueWith x { ins := [], outs := [], base := fld d 60 1, kb := kb } own fun _ =>
    { Built.empty with place := some (stream, count, subop == 0), run := run }

/-! ### CELL_OP -/

/-- R358: a cell of a Stair receive window in the far hall that names the partition. -/
def Hall.farCellOk (H : Hall) (h part i : Nat) : Bool :=
  match H.image with
  | none => false
  | some im => im.windows.any fun w => w.kind == 0 && w.hall == 1 - h && (w.partX == part || w.partY == part)
      && decide (w.syncBase ≤ i) && decide (i < w.syncBase + w.syncCount)

/-- The issue of a CELL_OP (R358). -/
def issueCell (R : Hall) (h : Nat) (x : Ctx) (d : List Byte) : Issue :=
  let subop := fld d 16 1
  let flags := fld d 17 1
  let count := fld d 18 2
  let cell := fld d 20 2
  let value := fld d 24 4
  let kb := fld d 61 1
  let cells := (List.range count).map fun i => cell + i
  let g := galOf x.core
  let route := subop == 2 && (R.missingRoute h x.part x.cls [(g, 14)]).isSome
  let own := lowest [(decide (2 < subop) || decide (2 ≤ flags) || !zeros d 22 2 || !zeros d 28 32 || !zeros d 62 2, 0x0601),
    (decide (count < 1) || decide (256 < count) || (subop == 2 && count != 1), 0x0602),
    (if subop = 2 then !R.farCellOk h x.part cell else !(cells.all fun c => decide (c < 65536) && R.cellOk h x.part g c), 0x0604),
    (!regionOk (fld d 60 1) kb || decide (kb < 1), 0x0606), (route, 0x0608)]
  R.issueWith x { ins := [], outs := [], base := fld d 60 1, kb := kb } own fun _ =>
    { Built.empty with
      run := 32 + count
      sets := if subop = 0 then cells.map fun c => (c, value) else []
      signals := if subop = 1 then cells.map fun c => (c, value) else []
      stair := if subop = 2 then
          [{ kind := 0, cls := x.cls, len := 0, part := x.part, seq := 0, arg0 := cell, arg1 := value, arg2 := b2n (bit flags 0)
             data := [] }]
        else [] }

end Sys2Proof.Machine
end

