-- ==== Sys2Proof/Machine/Frames.lean ====
section
/-! DEFINITION. Holds and moves of page frames (10, R323, R339 to R347): promotion, eviction, cancellation and the commit of a
move. -/

namespace Sys2Proof.Machine

/-- R342: a move cancelled: a frame in MOVING_DOWN stays in SRAM. -/
def Hall.cancelDown (H : Hall) (n : Nat) : Hall :=
  let H1 := H.onFrame n fun f => { f with st := .sram }
  { H1 with mem := { H1.mem with cancelled := inc16 H1.mem.cancelled } }

/-- R344: a frame chosen as a victim in this very cycle is held: it was never chosen. -/
def Hall.spare (H : Hall) (n : Nat) : Hall :=
  let H1 := H.onFrame n fun f => { f with st := .sram }
  { H1 with mem := { H1.mem with pressure := H1.mem.pressure - 1 } }

/-- R339, R340, R341: holds have changed: the cycle in which a frame's HOLDS rose above 0 stands while they stay there, and its moves take the class of
the requester; a frame moving down under pressure that is held again stays. -/
def Hall.holdsChanged (H : Hall) (cls : Nat) : Hall :=
  let fs := H.mem.frames.map fun e =>
    let f := e.2
    (e.1,
      if f.holds = 0 then { f with heldFrom := none }
      else if f.heldFrom.isNone then { f with heldFrom := some H.now, moveCls := cls }
      else f)
  let H1 := { H with mem := { H.mem with frames := fs } }
  H1.mem.frames.foldl (fun H e =>
    if e.2.st == .movingDown && !e.2.forced && decide (0 < e.2.holds) then
      (if e.2.movedAt = H.now then H.spare e.1 else H.cancelDown e.1)
    else H) H1

/-- R340: the held DRAM frames of a home gallery that wait for space, in order of promotion. -/
def Hall.waiters (H : Hall) (g : Nat) : List Nat :=
  (sortKeys (H.mem.frames.filterMap fun e =>
    if e.2.gal = g && e.2.st == .dram && decide (0 < e.2.holds) then some (e.2.heldFrom.getD 0, e.1) else none)).map (·.2)

/-- R340: the victim of gallery g's frame area: the oldest LAST_READ, then the lowest number, among unheld and unpinned SRAM frames. The
stamps' age is counted back from now. -/
def Hall.victimFrame (H : Hall) (g : Nat) : Option Nat :=
  let now := H.stamp
  let l := H.mem.frames.filterMap fun e =>
    let f := e.2
    if f.gal = g && f.st == .sram && f.holds == 0 && f.pins == 0 then
      some (65535 - (now + 65536 - f.lastRead) % 65536, e.1) else none
  ((sortKeys l).map (·.2)).head?

/-- R341: an up-move starts into a piece. -/
def Hall.moveUp (H : Hall) (n g : Nat) (p : Nat × Nat) (size : Nat) : Hall :=
  (H.onFrame n fun f => { f with st := .movingUp, piece := some p, movedAt := H.now }).cutBlock g p.1 size

/-- R341: a down-move starts. -/
def Hall.moveDown (H : Hall) (n cls : Nat) (forced : Bool) : Hall :=
  H.onFrame n fun f => { f with st := .movingDown, moveCls := cls, forced := forced, movedAt := H.now }

/-- R340: frames that wait for space in gallery g: those for which there is a piece move up; as many evictions run as frames still
wait (DEDUCED 22). -/
def Hall.promoteIn (H : Hall) (g : Nat) : Hall :=
  let r := (H.waiters g).foldl (fun (a : Hall × Nat) n =>
    match a.1.frame n with
    | none => a
    | some f =>
      match a.1.findPiece g f.size with
      | some p => (a.1.moveUp n g p f.size, a.2)
      | none => (a.1, a.2 + 1)) (H, 0)
  let going := (r.1.mem.frames.filter fun e => e.2.gal == g && e.2.st == .movingDown && !e.2.forced).length
  (List.range (r.2 - going)).foldl (fun H _ =>
    match H.victimFrame g with
    | none => H
    | some n =>
      let H1 := (H.moveDown n 3 false).count (1152 + 16 * g + 7) 1
      { H1 with mem := { H1.mem with pressure := inc16 H1.mem.pressure } }) r.1

/-- R340: promotion and eviction in every gallery. -/
def Hall.promote (H : Hall) : Hall := (List.range 8).foldl (fun H g => H.promoteIn g) H

/-- R323: while a shrink runs, the frames of released blocks move down, and IN_FORCE falls as the lowest block empties. The fuel
bounds the blocks. -/
def Hall.shrinkArea : Nat → Hall → Nat → Hall
  | 0, H, _ => H
  | fuel + 1, H, g =>
    let G := H.gal g
    match G.shrinkTo with
    | none => H
    | some t =>
      if G.area ≤ t then H.onGal g fun x => { x with shrinkTo := none }
      else if (H.usedPieces g (G.area - 1)).isEmpty then
        Hall.shrinkArea fuel (H.onGal g fun x => { x with area := x.area - 1, blocks := kdel x.blocks (x.area - 1) }) g
      else H

/-- R323: forced moves of the frames in the blocks that a shrink releases. -/
def Hall.forceDown (H : Hall) (g : Nat) : Hall :=
  match (H.gal g).shrinkTo with
  | none => H
  | some t =>
    H.mem.frames.foldl (fun H e =>
      match e.2.piece with
      | some (b, _) =>
        if e.2.gal = g && decide (t ≤ b) && (e.2.st == .sram || e.2.st == .movingDown) then H.moveDown e.1 3 true else H
      | none => H) H

/-- R323: gallery g's area shrinks to t blocks. -/
def Hall.startShrink (H : Hall) (g t : Nat) : Hall :=
  Hall.shrinkArea 97 ((H.onGal g fun x => { x with shrinkTo := some t }).forceDown g) g

/-- R341: the move of a frame commits: an up-move when its copy has landed; a down-move when its copy has landed and no pin holds the
frame. A copy that lands under a pin leaves HOME_VALID set. -/
def Hall.frameMoveCommit (H : Hall) (h n : Nat) : Hall :=
  match H.frame n with
  | none => H
  | some f =>
    match f.st, f.piece with
    | .movingUp, some (b, i) =>
      let bs := H.dramRead h (H.homeAddr n) (frameSize f.size)
      let H1 := ((H.countReads (H.homeAddr n) (frameSize f.size)).writeAt (.gal f.gal) (pieceAddr b i f.size) bs).onFrame n fun f =>
        { f with st := .sram }
      let H2 := ({ H1 with mem := { H1.mem with movesUp := inc16 H1.mem.movesUp } }).count (1152 + 16 * f.gal + 5) 1
      (H2.forceDown f.gal).promote
    | .movingDown, some (b, i) =>
      let cur := ((H.dom f.dom).map (·.current)).getD 0
      let H1 := if f.homeValid then H else
        (H.dramWrite (H.homeAddr n) ((H.gal f.gal).store.read (pieceAddr b i f.size) (frameSize f.size))).onFrame n fun f =>
          { f with homeValid := true, epoch := cur }
      if 0 < f.pins then H1
      else
        let H2 := (H1.onFrame n fun f => { f with st := .dram, piece := none, forced := false }).tidyBlocks f.gal
        let H3 := ({ H2 with mem := { H2.mem with movesDown := inc16 H2.mem.movesDown } }).count (1152 + 16 * f.gal + 6) 1
        ((Hall.shrinkArea 97 H3 f.gal).holdsChanged f.moveCls).promote
    | _, _ => H

/-- R339: PLACE: the hold mark of each stream set or cleared, with one hold added to or taken from each frame it names. -/
def Hall.placeStreams (H : Hall) (first count : Nat) (hold : Bool) : Hall :=
  (List.range count).foldl (fun H i =>
    let s := H.kvStream (first + i)
    if s.hold == hold then H
    else
      let H1 := s.entries.foldl (fun H e => H.onFrame e.frame fun f => { f with holds := if hold then f.holds + 1 else f.holds - 1 }) H
      H1.setStream (first + i) { s with hold := hold }) H

/-- R343: the pins that Running commands hold on frame n at some cycle after `old` and up to `now`. -/
def Hall.pinned (H : Hall) (n old now : Nat) : Nat :=
  (H.ctxs.map fun x => (x.cmds.map fun k =>
    if k.stage = .running then
      (k.built.pins.filter fun p => p.frame == n && decide (k.issued + p.start ≤ now)
        && (match p.till with | some t => decide (old < k.issued + t) | none => true)).length
    else 0).foldl (· + ·) 0).foldl (· + ·) 0

/-- R343, R334: time has passed since cycle `old`: PINS are those of the present cycle, and the frames that were pinned since have been read. -/
def Hall.repin (H : Hall) (old : Nat) : Hall :=
  let fs := H.mem.frames.map fun e =>
    (e.1, { e.2 with pins := min 255 (H.pinned e.1 H.now H.now)
                     lastRead := if 0 < H.pinned e.1 old H.now then H.stamp else e.2.lastRead })
  { H with mem := { H.mem with frames := fs } }

/-- The array clock has reached cycle cyc: what the model holds of the cycle before goes. -/
def Hall.onward (H : Hall) (cyc : Nat) : Hall :=
  if H.now < cyc then { H with now := cyc, placed := [], struck := [] }.repin H.now else H.repin H.now

/-- R343: a frame that a command would pin as it issues has all the pins that PINS can count. -/
def Hall.pinsFull (H : Hall) (b : Built) : Bool :=
  b.pins.any fun p => p.start == 0 && match H.frame p.frame with | some f => decide (255 ≤ f.pins) | none => false

/-- R345: gallery g's store has reset: its frames return to DRAM or are lost, and its frame area is gone. -/
def Hall.storeLostFrames (H : Hall) (g : Nat) : Hall :=
  let gone := (H.mem.frames.filter fun e => e.2.gal == g && e.2.piece.isSome && (e.2.st == .sram || e.2.st == .movingDown) && !e.2.homeValid).map (·.1)
  let fs := H.mem.frames.map fun e =>
    if e.2.gal = g && e.2.piece.isSome then
      (e.1, { e.2 with st := .dram, piece := none, forced := false, lost := e.2.lost || gone.contains e.1 })
    else e
  let cs := H.mem.caches.map fun c =>
    { c with
      streams := c.streams.map fun s =>
        (s.1, { s.2 with
          lost := s.2.lost || (s.2.entries.any fun e => gone.contains e.frame) || (c.prm.slotGal == g && s.2.slot.isSome)
          slot := if c.prm.slotGal = g then none else s.2.slot }) }
  let ds := H.mem.deferred.filter fun d =>
    match d.item with
    | .slot _ gal _ _ => gal != g
    | .frame _ => true
  let up := (H.mem.frames.filter fun e => e.2.gal == g && e.2.st == .movingUp).length
  let H1 := { H with mem := { H.mem with cancelled := satAdd 0xFFFF H.mem.cancelled up, frames := fs, caches := cs, deferred := ds } }
  H1.onGal g fun x => { x with area := 0, areaReq := 0, blocks := [], shrinkTo := none }

end Sys2Proof.Machine
end

