-- ==== Sys2Proof/Machine/Engine.lean ====
section
/-! DEFINITION. Engines, queues and readiness (09, R279 to R300): which engine runs a descriptor, when a command is Ready, what an
engine takes next, pre-emption, and what a kill or a commit does to a core. -/

namespace Sys2Proof.Machine

/-! ### Descriptors -/

/-- R279: the engine of a descriptor: 0 the sequencer, 1 the array, 2 the vector/reduction unit, 3 the mover. -/
def engineOf (d : List Byte) : Option Nat :=
  let op := fld d 0 1
  if op = 1 || op = 2 then some 0
  else if ([0x10, 0x11, 0x12, 0x51] : List Nat).contains op then some 3
  else if ([0x20, 0x30, 0x34, 0x40] : List Nat).contains op then some 1
  else if ([0x31, 0x32, 0x33, 0x41, 0x52, 0x53, 0x54] : List Nat).contains op then some 2
  else if op = 0x50 then some (if (ConvCmd.ofDesc d).dw then 2 else 1)
  else none

/-- R147: the commit-buffer region that a descriptor names: ACC_BASE and ACC_KB. -/
def regionOf (d : List Byte) : Nat × Nat :=
  let at' := fun (o : Nat) => (fld d o 1, fld d (o + 1) 1)
  match fld d 0 1 with
  | 1 => (0, 0)
  | 2 => (0, 0)
  | 0x20 => at' 61
  | 0x50 => at' 61
  | 0x31 => at' 40
  | 0x32 => at' 36
  | 0x33 => at' 36
  | 0x41 => at' 37
  | _ => at' 60

/-- R147: two regions overlap. -/
def regionsMeet (a b : Nat × Nat) : Bool :=
  decide (0 < a.2) && decide (0 < b.2) && decide (a.1 < b.1 + b.2) && decide (b.1 < a.1 + a.2)

/-- R286: the input and output ranges of a descriptor in context x. -/
def rangesOf (H : Hall) (h : Nat) (x : Ctx) (d : List Byte) : List Rng × List Rng :=
  let w : Work :=
    match fld d 0 1 with
    | 0x10 => (CopyCmd.ofDesc d).work H h x
    | 0x20 => (MatrixCmd.ofDesc d).work x
    | 0x30 =>
      let a := AttnCmd.ofDesc d
      match H.cacheFor x a.stream with
      | none => ⟨[], [], 0, 0⟩
      | some c => a.work x c.prm
    | 0x31 =>
      let a := AppendCmd.ofDesc d
      match H.cacheFor x a.stream with
      | none => ⟨[], [], 0, 0⟩
      | some c => a.work x c.prm
    | 0x32 => (PageCmd.ofDesc d).work x
    | 0x33 => (MergeCmd.ofDesc d).work x
    | 0x34 =>
      let a := BwdCmd.ofDesc d
      match H.cacheFor x a.stream with
      | none => ⟨[], [], 0, 0⟩
      | some c => a.work x c.prm
    | 0x40 => (RecCmd.ofDesc d).work x
    | 0x41 =>
      let a := StateCmd.ofDesc d
      a.work x (Block.ofBytes (H.readAt h (x.placeOf a.dst) (tierAddr a.dst) 64))
        (Block.ofBytes (H.readAt h (x.placeOf a.src) (tierAddr a.src) 64))
    | 0x50 => (ConvCmd.ofDesc d).work x
    | 0x51 =>
      let a := HaloCmd.ofDesc d
      { a.work x with outs := [a.rngOut x] }
    | 0x52 => (CropCmd.ofDesc d).work x
    | 0x53 => (BoxCmd.ofDesc d).work x
    | 0x54 => (NmsCmd.ofDesc d).work x
    | _ => ⟨[], [], 0, 0⟩
  (w.ins, w.outs)

/-- R203: the stream locks that a descriptor takes. -/
def streamLocksOf (d : List Byte) : List Nat :=
  match fld d 0 1 with
  | 0x31 => [(AppendCmd.ofDesc d).stream]
  | 0x32 => (PageCmd.ofDesc d).locks
  | _ => []

/-- R242: the state-block locks that a descriptor takes. -/
def blockLocksOf (x : Ctx) (d : List Byte) : List (Place × Nat) :=
  if fld d 0 1 = 0x40 && (RecCmd.ofDesc d).noOut then [] else blocksNamed x d

/-- R203: the streams among the locks that a command takes. -/
def Cmd.onStreams (k : Cmd) : Bool := !(streamLocksOf k.desc).isEmpty

/-- R204, R202: a KV_APPEND or TRUNCATE that must wait for a retired slot. -/
def slotWait (H : Hall) (h : Nat) (x : Ctx) (d : List Byte) : Bool :=
  match fld d 0 1 with
  | 0x31 =>
    let a := AppendCmd.ofDesc d
    match H.cacheFor x a.stream with
    | none => false
    | some c => a.needsSlot (c.stream (handleIdx a.stream)) && H.askSlot h c == .wait
  | 0x32 =>
    let a := PageCmd.ofDesc d
    if a.subop = 4 then
      match H.cacheFor x a.stream with
      | none => false
      | some c => (a.cutEntry (c.stream (handleIdx a.stream))).isSome && H.askSlot h c == .wait
    else false
  | _ => false

/-! ### Readiness -/

/-- The context is on its core with its operand-store data: resident, and no swap of it has begun. -/
def Ctx.placed (x : Ctx) : Bool :=
  x.rslot.isSome && (x.swap == .none || x.swap == .chosen) && (x.st == .resident || x.st == .faulted)

/-- R243: what a context whose swap-out waits on pins may still issue: the commands that pin. -/
def Ctx.mayIssue (x : Ctx) (k : Cmd) : Bool :=
  x.placed || (x.rslot.isSome && x.swap == .pinWait && (blocksNamed x k.desc).any fun b => b.1 == .op x.core)

/-- R308: the context is blocked. -/
def Ctx.blocked (x : Ctx) : Bool :=
  x.placed && x.st == .resident && x.cmds.all (fun k => k.stage == .queued)
    && match x.cmds with | [] => false | k :: _ => !k.waitDone

/-- R57, R619 step 8: the core takes commands: released, unfenced, not resetting, its gallery running. -/
def Hall.coreRuns (H : Hall) (c : Nat) : Bool :=
  let G := H.gal (galOf c)
  (H.dev.stage == .waitReference || H.dev.stage == .running) && G.st == .run && !H.fenced c && !G.resetting.getLsbD (c % 12) && !G.galResetting

/-- R61, R317: the core takes new contexts: it runs, and its gallery has met a sweep boundary. -/
def Hall.coreTakes (H : Hall) (c : Nat) : Bool := H.coreRuns c && !(H.gal (galOf c)).added

/-- R286: an earlier command's ranges hold the command back. -/
def Hall.hazard (H : Hall) (h : Nat) (x : Ctx) (k : Cmd) : Bool :=
  let r := rangesOf H h x k.desc
  let ins := spans r.1
  let outs := spans r.2
  x.cmds.any fun j =>
    decide (j.pos < k.pos) &&
      (let q := rangesOf H h x j.desc
       anyMeet (spans q.2) (ins ++ outs) || anyMeet (spans q.1) outs)

/-- R284 to R286: the command is Ready but for locks, its region, its engine and its pool; `cyc` is the cycle (R293: not the one in
which it entered). -/
def Hall.eligible (H : Hall) (h : Nat) (x : Ctx) (k : Cmd) : Bool :=
  let e := engineOf k.desc
  x.mayIssue k && H.coreRuns x.core && k.stage == .queued && k.waitDone && decide (e ≠ some 0)
    && (!k.ordered || x.cmds.all fun j => decide (k.pos ≤ j.pos))
    && x.cmds.all (fun j => !(j.stage == .queued && decide (j.pos < k.pos) && engineOf j.desc == e))
    && !H.hazard h x k

/-- Commands that have issued and are not Done: context and command. -/
def Hall.holders (H : Hall) : List (Ctx × Cmd) :=
  H.ctxs.flatMap fun x => (x.cmds.filter fun k => k.stage != .queued).map fun k => (x, k)

/-- R203, R242, R284: Running commands that hold a lock that the command takes. -/
def Hall.lockHolders (H : Hall) (x : Ctx) (k : Cmd) : List (Ctx × Cmd) :=
  let ss := streamLocksOf k.desc
  let bs := blockLocksOf x k.desc
  if ss.isEmpty && bs.isEmpty then [] else
  H.holders.filter fun e => e.2.stage == .running &&
    (e.2.built.streamLocks.any (fun s => ss.contains s) || e.2.built.blockLocks.any fun b => bs.contains b)

/-- R203: the place of a command in the order of lock grants: class, then cores from the rotating pointer. -/
def Hall.lockKey (H : Hall) (x : Ctx) : Nat := x.cls * 96 + (x.core + 96 - H.mem.lockPtr % 96) % 96

/-- R203: a command that waited earlier for a common lock is granted it first. -/
def Hall.lockAhead (H : Hall) (h : Nat) (x : Ctx) (k : Cmd) : Bool :=
  let ss := streamLocksOf k.desc
  let bs := blockLocksOf x k.desc
  if ss.isEmpty && bs.isEmpty then false else
  H.ctxs.any fun y => y.cmds.any fun j =>
    j.lockWaited && j.stage == .queued && !(y.num == x.num && j.pos == k.pos)
      && ((streamLocksOf j.desc).any (fun s => ss.contains s) || (blockLocksOf y j.desc).any fun b => bs.contains b)
      && decide (H.lockKey y < H.lockKey x) && H.eligible h y j && (H.lockHolders y j).isEmpty

/-- R284: commands of the core whose held region overlaps the command's. -/
def Hall.regionHolders (H : Hall) (x : Ctx) (k : Cmd) : List (Ctx × Cmd) :=
  H.holders.filter fun e => e.1.core == x.core && regionsMeet (regionOf e.2.desc) (regionOf k.desc)

/-- R280: the command that an engine of a core runs. -/
def Hall.engineHolders (H : Hall) (c e : Nat) : List (Ctx × Cmd) :=
  H.holders.filter fun y => y.1.core == c && y.2.stage == .running && engineOf y.2.desc == some e

/-- R284: the command is Ready. -/
def Hall.ready (H : Hall) (h : Nat) (x : Ctx) (k : Cmd) : Bool :=
  H.eligible h x k && (H.lockHolders x k).isEmpty && !H.lockAhead h x k && (H.regionHolders x k).isEmpty && !slotWait H h x k.desc

/-- R292: the Ready command that engine e of core c takes at cycle cyc. -/
def Hall.choice (H : Hall) (h c e cyc : Nat) : Option (Ctx × Cmd) :=
  if !(H.engineHolders c e).isEmpty then none else
  let ptr := (H.core c).ptr
  let l := H.ctxs.filterMap fun x =>
    if x.core = c then
      (x.cmds.find? fun k => engineOf k.desc == some e && decide (k.enq < cyc) && H.ready h x k).map fun k =>
        (x.cls * 16 + ((x.rslot.getD 0) + 16 - ptr % 16) % 16, (x, k))
    else none
  ((sortKeys l).map (·.2)).head?

/-! ### Pre-emption and waits at issue -/

/-- R295: the order of the causes in its table; the lowest row wins. -/
def KillCause.rank : KillCause → Nat
  | .preempt => 0
  | .swap => 1
  | .fallback => 2
  | .bank => 3
  | .fence => 4
  | .cancel => 5
  | .overrun => 6

/-- R295, R299: a kill requested of a Running command in the present cycle. Of two causes the lower row of the table stands. -/
def Hall.requestKill (H : Hall) (ctx pos : Nat) (c : KillCause) : Hall :=
  H.onCtx ctx fun x => x.onCmd pos fun k =>
    if k.stage == .running && (match k.killReq with | none => true | some o => decide (o.rank < c.rank)) then
      { k with killReq := some c, killAt := if k.killReq.isNone then H.now else k.killAt } else k

/-- R295: the command is run again after a kill for this cause. -/
def KillCause.reruns : KillCause → Bool
  | .preempt => true
  | .swap => true
  | .bank => true
  | .fence => true
  | .fallback => false
  | .cancel => false
  | .overrun => false

/-- R295: the cause of a kill by a fence in cycle cyc: an earlier request stands, and one of the same cycle where its row is lower. -/
def Cmd.fenceCause (k : Cmd) (cyc : Nat) : KillCause :=
  match k.killReq with
  | some c => if k.killAt < cyc || decide (KillCause.fence.rank < c.rank) then c else .fence
  | none => .fence

/-- R297: the lower-class Running work that holds the engine, region or lock of an eligible class-0 command, where nothing of class 0
holds them. -/
def Hall.preemptees (H : Hall) (x : Ctx) (k : Cmd) : List (Ctx × Cmd) :=
  let l := H.engineHolders x.core ((engineOf k.desc).getD 0) ++ H.regionHolders x k ++ H.lockHolders x k
  if l.any fun e => e.1.cls == 0 then [] else l.filter fun e => e.2.stage == .running

/-- R297: each eligible class-0 command requests the kills that it needs. -/
def Hall.preempt (H : Hall) (h : Nat) : Hall :=
  (H.ctxs.filter fun x => x.cls == 0).foldl (fun H0 x =>
    (x.cmds.filter fun k => H.eligible h x k).foldl (fun H1 k =>
      (H.preemptees x k).foldl (fun H2 e => H2.requestKill e.1.num e.2.pos .preempt) H1) H0) H

/-- R228, R202, R203: a wait at issue for a lock (`l`) or a retired slot (`s`) begins: stream locks and appends are counted. -/
def Hall.markWait (H : Hall) (ctx : Nat) (k : Cmd) (l s : Bool) : Hall :=
  let H1 := H.onCtx ctx fun x => x.onCmd k.pos fun j => { j with lockWaited := j.lockWaited || l, slotWaited := j.slotWaited || s }
  let H2 := if l && k.onStreams then
      ({ H1 with mem := { H1.mem with lockWaits := inc16 H1.mem.lockWaits } }).count (1664 + 10) 1 else H1
  if s && k.op == 0x31 then { H2 with mem := { H2.mem with slotWaits := inc16 H2.mem.slotWaits } } else H2

/-- R202, R203: commands that now wait at issue for a lock or a retired slot are counted, once for each wait. -/
def Hall.markWaits (H : Hall) (h : Nat) : Hall :=
  let marks := H.ctxs.flatMap fun x => x.cmds.filterMap fun k =>
    if H.eligible h x k then
      let l := !k.lockWaited && !(H.lockHolders x k).isEmpty
      let s := !k.slotWaited && slotWait H h x k.desc
      if l || s then some (x.num, k, l, s) else none
    else none
  marks.foldl (fun H m => H.markWait m.1 m.2.1 m.2.2.1 m.2.2.2) H

/-- What follows every change of what the queues hold: waits at issue are marked and class-0 commands pre-empt. -/
def Hall.settle (H : Hall) (h : Nat) : Hall := (H.markWaits h).preempt h

/-- R318: at cycle cyc, Ready times and blocked times are booked. -/
def Hall.book (H : Hall) (h cyc : Nat) : Hall :=
  { H with ctxs := H.ctxs.map fun x =>
      let add := x.cmds.foldl (fun a k =>
        match k.readyAt with
        | some t => if H.ready h x k || k.suppress then a else a + (cyc - t)
        | none => a) 0
      let b := match x.blockedSince with
        | some t => if x.blocked then 0 else cyc - t
        | none => 0
      { x with
        cmds := x.cmds.map fun k =>
          { k with readyAt := if H.ready h x k then (match k.readyAt with | some t => some t | none => some cyc) else none }
        blockedSince := if x.blocked then (match x.blockedSince with | some t => some t | none => some cyc) else none
        acct := { x.acct with readyCycles := x.acct.readyCycles + add, blockedCycles := x.acct.blockedCycles + b } } }

/-! ### Banks -/

/-- R149, R298: the banks of a core after a run was killed `t` cycles after its issue: loads that have landed stay, a load in progress
leaves its bank not VALID, and the reads begun set the recency. -/
def Core.afterRun (k : Core) (b : Built) (t : Nat) : Core :=
  let banks := b.bankLoads.foldl (fun bs e =>
    if e.landing ≤ t then modAt bs e.bank fun o => { e.content with off := o.off, errs := o.errs }
    else if e.landing ≤ t + 127 then modAt bs e.bank fun o => { o with valid := o.valid && !e.whole, sideValid := false }
    else bs) k.banks
  let rec' := b.bankReads.foldl (fun l e => if e.1 ≤ t then (l.filter (· != e.2)) ++ [e.2] else l) k.recency
  { k with banks := banks, recency := rec' }

/-! ### Kills -/

/-- R577: the busy cycles of the engine that runs a command: ARRAY_BUSY, VRU_BUSY or MOVER_BUSY of core c. -/
def Hall.countBusy (H : Hall) (c : Nat) (d : List Byte) (n : Nat) : Hall :=
  match engineOf d with
  | some 1 => H.count (12 * c) n
  | some 2 => H.count (12 * c + 5) n
  | some 3 => H.count (12 * c + 6) n
  | _ => H

/-- R284, R227: everything that a Running command holds is released as its run stops, its bank loads at cycle `stop`. -/
def Hall.letGo (H : Hall) (core : Nat) (k : Cmd) (stop : Nat) : Hall :=
  k.built.resFrames.foldl (fun H n => H.freeFrame n) ((H.onCore core fun c => c.afterRun k.built (stop - k.issued)).landed k.serial)

/-- The cycle at which a command's run stops where it is killed in cycle cyc: that of the request, if there was one (R149). -/
def Cmd.stopAt (k : Cmd) (cyc : Nat) : Nat := if k.killReq.isSome then k.killAt else cyc

/-- R298: a kill is complete: everything that the command holds is released; `keep` leaves it in its queue, from where it starts afresh. -/
def Hall.releaseRun (H : Hall) (ctx : Nat) (k : Cmd) (cyc : Nat) (keep : Bool) (counted : Bool) : Hall :=
  match H.ctx ctx with
  | none => H
  | some x =>
    let dt := cyc - k.issued
    let H3 := H.letGo x.core k (k.stopAt cyc)
    let H4 := H3.onCtx ctx fun x =>
      { x with
        cmds :=
          if keep then
            x.cmds.map fun j =>
              if j.pos = k.pos then
                { j with stage := .queued, built := Built.empty, killReq := none, kills := j.kills + 1, readyAt := none,
                         lockWaited := false, slotWaited := false, haloHeld := false }
              else j
          else x.cmds.filter fun j => j.pos != k.pos
        acct := if k.suppress then x.acct else { x.acct with kills := x.acct.kills + 1, killedCycles := x.acct.killedCycles + dt } }
    if counted then ((H4.count (12 * x.core + 8) 1).count (12 * x.core + 9) dt).countBusy x.core k.desc dt else H4

/-- R295: a kill counted in its gallery. -/
def Hall.countKill (H : Hall) (core : Nat) (c : KillCause) : Hall :=
  H.onGal (galOf core) fun g =>
    match c with
    | .preempt => { g with preempt := inc16 g.preempt }
    | _ => { g with otherKills := inc16 g.otherKills }

/-! ### Reading past publications -/

/-- The commands of the hall that are publishing, in the order of their commit points. -/
def Hall.publishing (H : Hall) : List Cmd :=
  (sortKeys ((H.ctxs.flatMap fun x => x.cmds.filter fun k => k.stage == .publishing).map fun k => (k.commit, k))).map (·.2)

/-- R288: the hall as it is read past publications: a byte being published is read once its publication has ended. -/
def Hall.settled (H : Hall) : Hall :=
  H.publishing.foldl (fun H k =>
    let H1 := k.built.writes.foldl (fun (H : Hall) w =>
      match w.place with
      | .op c => H.onCore c fun x => { x with op := x.op.write w.addr w.data }
      | .gal g => H.onGal g fun x => { x with store := x.store.write w.addr w.data }
      | .dram => { H with mem := { H.mem with dram := H.mem.dram.writeAll w.addr w.data } }) H
    k.built.pages.foldl (fun (H : Hall) p => H.frameFill p.1 p.2) (k.built.marks.foldl Hall.setMark H1)) H

/-- The spans that a command publishes, with the pages of its new frames. -/
def Hall.pubSpans (H : Hall) (b : Built) : List (Place × Nat × Nat) :=
  (b.writes.filterMap fun w => if w.data.isEmpty then none else some (w.place, w.addr, w.addr + w.data.length - 1))
    ++ b.pages.map fun p => H.frameSpan p.1 p.2.length

/-- R288: the publications that hold back a read of these spans, by serial. -/
def Hall.publishers (H : Hall) (ins : List (Place × Nat × Nat)) : List Nat :=
  (H.publishing.filter fun k => anyMeet (H.pubSpans k.built) ins).map (·.serial)

/-- R288: a publication that the command reads has not ended. -/
def Hall.reading (H : Hall) (k : Cmd) : Bool := H.publishing.any fun j => k.built.awaits.contains j.serial

/-- R34: the stops that a command's publication crosses the Corridor to: galleries, and 8 for DRAM. -/
def Hall.pubStops (H : Hall) (g : Nat) (b : Built) : List Nat :=
  ((H.pubSpans b).filterMap fun r =>
    match r.1 with
    | .op _ => none
    | .gal i => if i = g then none else some i
    | .dram => some 8).eraseDups

/-- R34: a publication of the same gallery and class to a common stop, with an earlier commit point, has not ended. -/
def Hall.behind (H : Hall) (x : Ctx) (k : Cmd) : Bool :=
  let stops := H.pubStops (galOf x.core) k.built
  H.ctxs.any fun y => galOf y.core == galOf x.core && y.cls == x.cls && y.cmds.any fun j =>
    j.stage == .publishing && decide (j.commit < k.commit) && (H.pubStops (galOf x.core) j.built).any fun s => stops.contains s

/-! ### Sampling and the commit point -/

/-- R586: samplers whose counter belongs to the core, with a wrap waiting, name this command. -/
def Hall.sampleCommit (H : Hall) (c ctx op seq : Nat) : Hall :=
  (List.range 8).foldl (fun H i =>
    match H.cnt.samplers[i]? with
    | none => H
    | some p =>
      match p.wrap with
      | none => H
      | some w =>
        if p.en && p.counter / 12 == c then
          let cnt := { H.cnt with samplers := modAt H.cnt.samplers i fun p => { p with wrap := none } }
          { H with cnt :=
              if cnt.samples.length < 64 then
                { cnt with samples := cnt.samples ++ [⟨i, false, c, ctx, op, seq, w.1, w.2⟩] }
              else { cnt with lost := inc8 cnt.lost } }
        else H) H

/-- R211, R266: a command that issued in cycle cyc has read what the commit of k changes: in one cycle the commit comes first, so k does not commit
in that cycle. -/
def Hall.outOfTurn (H : Hall) (k : Cmd) (cyc : Nat) : Bool :=
  H.ctxs.any fun y => y.cmds.any fun j => j.stage == .running && j.issued == cyc &&
    (((j.op == 0x30 || j.op == 0x34) && k.built.streams.any fun e => e.1 == fld j.desc 24 4)
      || (k.op == 0x51 && anyMeet j.built.ins k.built.outs))

/-- R266: Running commands of the receiving core read bytes that the band of HALO_SEND k writes. -/
def Hall.haloConflict (H : Hall) (x : Ctx) (k : Cmd) : Bool :=
  let a := HaloCmd.ofDesc k.desc
  k.op == 0x51 && decide (a.dest < 4) &&
    match a.peer x with
    | none => false
    | some n => H.ctxs.any fun y => y.core == n && y.cmds.any fun j => j.stage == .running && anyMeet j.built.ins k.built.outs

/-- R287, R577: the commit point of a Running command: its engine is free, its banks stand as the run left them, its events count. -/
def Hall.commit (H : Hall) (x : Ctx) (k : Cmd) (cyc : Nat) : Hall :=
  let c := x.core
  let g := galOf c
  let b := k.built
  let H1 := (H.onCore c fun o => { o.afterRun b (b.run + 128) with lastCommit := some (x.num, k.op, k.seq) }).landed k.serial
  let H2 := H1.onCtx x.num fun y =>
    { y.onCmd k.pos fun j => { j with stage := .publishing, commit := cyc, killReq := none } with
      acct := if k.suppress then y.acct else { y.acct with runCycles := y.acct.runCycles + (cyc - k.issued) } }
  let H3 := ((((H2.countBusy c k.desc (cyc - k.issued)).count (12 * c + 7) 1).countK (12 * c + 1) b.macs).count (12 * c + 2) b.loads).count (12 * c + 3) b.hits
  let H4 := b.gsReads.foldl (fun H e => H.countK (1152 + 16 * e.1 + 1) e.2) H3
  let H5 := H4.countK (1152 + 16 * g + 2) b.haloBytes
  let H6 := if k.op = 0x31 then (H5.count (1664 + 13) 1).count (1664 + 14) b.pages.length else H5
  H6.sampleCommit c x.num k.op k.seq

/-- R287: the cycles that a publication takes: 512 B per cycle into the operand store, 256 into the own gallery store, 128 elsewhere. -/
def pubTime (x : Ctx) (b : Built) : Nat :=
  let bytes := fun (f : Place → Bool) => (b.writes.filter fun w => f w.place).foldl (fun a w => a + w.data.length) 0
  let own := bytes fun p => p == .op x.core
  let gal := bytes fun p => p == .gal (galOf x.core)
  let far := bytes fun p => p != .op x.core && p != .gal (galOf x.core)
  max (cdiv own 512) (max (cdiv gal 256) (cdiv far 128))

end Sys2Proof.Machine
end

