-- ==== Sys2Proof/Machine/Contexts.lean ====
section
/-! DEFINITION. Contexts on cores (09, R301 to R317; 07, R243): footprints, residence, admission, swapping, and the move of a fenced
core's contexts. -/

namespace Sys2Proof.Machine

/-- R301: a context descriptor's fields. -/
def CtxDesc.ofBytes (d : List Byte) : CtxDesc :=
  { gallery := fld d 1 1
    footprint := (List.range (min 8 (fld d 3 1))).map fun i => (fld d (32 + 2 * i) 1, fld d (33 + 2 * i) 1 + 1)
    streamTier := fld d 8 4 / 2 ^ 31, streamAddr := fld d 8 4 % 2 ^ 31, streamLen := fld d 12 4, liveTable := fld d 16 4
    liveCount := fld d 20 2, complCount := fld d 22 2, complAddr := fld d 24 4 }

/-- R301 to R303: the rules of a descriptor that do not depend on its session: `part` and the gallery that holds its structures. -/
def Hall.descOk (H : Hall) (part gal : Nat) (d : List Byte) : Bool :=
  let c := CtxDesc.ofBytes d
  let fpOk := decide (1 ≤ fld d 3 1) && decide (fld d 3 1 ≤ 8) && c.footprint.all (fun e => decide (e.1 + e.2 ≤ 256))
    && (List.range c.footprint.length).all fun i => (List.range i).all fun j =>
      match c.footprint[i]?, c.footprint[j]? with
      | some a, some b => !(decide (a.1 < b.1 + b.2) && decide (b.1 < a.1 + a.2))
      | _, _ => true
  let pow2 := ([16, 32, 64, 128, 256, 512, 1024, 2048, 4096] : List Nat).contains c.complCount
  (decide (fld d 2 1 < 12) || fld d 2 1 == 255) && bits (fld d 4 4) 18 14 == 0 && decide (1 ≤ c.streamLen)
    && decide (c.streamLen ≤ 1048576) && c.liveTable % 64 == 0 && decide (1 ≤ c.liveCount) && decide (c.liveCount ≤ 4096)
    && pow2 && c.complAddr % 64 == 0 && zeros d 28 4 && zeros d 48 16
    && fpOk && H.galOk part gal c.liveTable (64 * c.liveCount) && H.galOk part gal c.complAddr (16 * c.complCount)

/-- R303: two footprints share a unit. -/
def footprintsMeet (a b : List (Nat × Nat)) : Bool :=
  a.any fun x => b.any fun y => decide (x.1 < y.1 + y.2) && decide (y.1 < x.1 + x.2)

/-- R303: the contexts resident on a core. -/
def Hall.residents (H : Hall) (c : Nat) : List Ctx := H.ctxs.filter fun x => x.core == c && x.rslot.isSome

/-- R303: context x fits on core c once the contexts `gone` have left. -/
def Hall.fitsWithout (H : Hall) (h : Nat) (x : Ctx) (c : Nat) (gone : List Nat) : Bool :=
  let rs := (H.residents c).filter fun y => !(gone.contains y.num) && y.num != x.num
  let all := H.ctxs.filter fun y => y.rslot.isSome && !(gone.contains y.num) && y.num != x.num
  let quota := ((H.partEntry x.part).map fun e => e.contexts h).getD 0
  let slotFree := match x.saved with | some s => rs.all fun y => y.rslot != some s.slot | none => true
  decide (rs.length < 16) && decide (all.length < 1024) && decide ((all.filter fun y => y.part == x.part).length < quota)
    && rs.all (fun y => !(footprintsMeet x.desc.footprint y.desc.footprint)) && slotFree

/-- R303: context x fits on core c. -/
def Hall.fits (H : Hall) (h : Nat) (x : Ctx) (c : Nat) : Bool := H.fitsWithout h x c []

/-- R303: the resident slot of a context: the one it returns to, else the lowest free. -/
def Hall.freeSlot (H : Hall) (x : Ctx) (c : Nat) : Nat :=
  match x.saved with
  | some s => s.slot
  | none => ((List.range 16).find? fun i => (H.residents c).all fun y => y.rslot != some i).getD 0

/-- R309, R310: a context becomes resident; one that was saved is restored first. -/
def Hall.seat (H : Hall) (x : Ctx) (c cyc : Nat) : Hall :=
  let i := H.freeSlot x c
  H.onCtx x.num fun y =>
    { y with
      core := c
      rslot := some i
      st := if y.st == .waiting then .resident else y.st
      swap := if y.saved.isSome then .restoring else .none
      swapForced := false
      acct := { y.acct with admitCycles := y.acct.admitCycles + (cyc - y.waitSince.getD cyc) }
      waitSince := none }

/-! ### Swapping -/

/-- R307: a live-range list's byte ranges. -/
def Hall.liveRanges (H : Hall) (x : Ctx) (live : Nat) : List (Nat × Nat) :=
  let bs := (H.gal x.desc.gallery).store.read (x.desc.liveTable + 64 * live) 64
  (List.range (min 15 (fld bs 0 1))).map fun i =>
    let e := fld bs (4 + 4 * i) 4
    (64 * bits e 0 14, 64 * (bits e 16 14 + 1))

/-- R310, R312: the ranges that a swap-out of x saves: the live ranges of its oldest unissued command, or the whole footprint of a victim that was not
blocked when it was chosen. -/
def Hall.saveRanges (H : Hall) (x : Ctx) : List (Nat × Nat) :=
  match x.cmds with
  | k :: _ => if x.swapWhole then x.desc.footprint.map fun e => (4096 * e.1, 4096 * e.2) else H.liveRanges x k.live
  | [] => x.desc.footprint.map fun e => (4096 * e.1, 4096 * e.2)

/-- R243: the pins of a context's queued and running commands on state blocks of its operand store. -/
def Ctx.blockPins (x : Ctx) : List (Place × Nat) :=
  (x.cmds.filter fun k => k.stage != .publishing).flatMap fun k => (blocksNamed x k.desc).filter fun b => b.1 == .op x.core

/-- R310, R336, R337: frames for a save of n bytes, 64 KB each; none where one is lacking, or where the partition has no route to the DRAM home
of one (R32). -/
def Hall.takeFrames (H : Hall) (h : Nat) (x : Ctx) (n : Nat) : Option (List Nat × Hall) :=
  let g := galOf x.core
  (List.range (cdiv (256 + n) 65536)).foldl (fun a _ =>
    match a with
    | none => none
    | some (ns, H) =>
      match H.allocFrame x.part x.dom none 0 g 4 1 h with
      | none => none
      | some (f, H1) =>
        if (H1.missingRoute h x.part x.cls (H1.placePairs g (H1.frameSpan f 1).1 true)).isSome then none else some (ns ++ [f], H1))
    (some ([], H))

/-- The bytes of operand-store ranges, and the markers of their words. -/
def Store.keep (st : Store) (rs : List (Nat × Nat)) : List (Nat × List Byte) × List (Nat × Bool) :=
  (rs.map fun r => (r.1, st.read r.1 r.2),
    (rs.flatMap fun r => wordsOf r.1 r.2).filterMap fun w =>
      if st.isPoison (32 * w) then some (w, true) else if st.isUnwritten (32 * w) then some (w, false) else none)

/-- R243: the length of the state block at an operand-store address. -/
def Hall.blockLen (H : Hall) (c a : Nat) : Nat := StateCmd.lenOf (Block.ofBytes ((H.core c).op.read a 64))

/-- R310, R311, R243: the save of victim x begins, or stalls for want of a frame. Its pinned state blocks are saved later. -/
def Hall.beginSave (H : Hall) (h : Nat) (x : Ctx) : Hall :=
  let rs := H.saveRanges x
  let total := rs.foldl (fun a r => a + r.2) 0
  match H.takeFrames h x total with
  | none =>
    let g := galOf x.core
    let H1 := (H.onGal g fun G => { G with swapStalls := inc16 G.swapStalls }).count (1152 + 16 * g + 8) 1
    H1.onCtx x.num fun y =>
      { y with swap := .none, swapForced := false, swapStalled := true
               acct := { y.acct with swapStalls := y.acct.swapStalls + 1 } }
  | some (ns, H1) =>
    let k := (H.core x.core).op.keep rs
    let late := x.blockPins.map fun b => (b.2, H.blockLen x.core b.2)
    let s : Saved := { slot := x.rslot.getD 0, frames := ns, bytes := k.1, marks := k.2, late := late }
    H1.onCtx x.num fun y => { y with swap := if late.isEmpty then .saving else .pinWait, saved := some s }

/-- R243: the pins of victim x have gone: what they held back is saved as it now stands. -/
def Hall.endSave (H : Hall) (x : Ctx) : Hall :=
  match x.saved with
  | none => H
  | some s =>
    let k := (H.core x.core).op.keep (s.late.map fun r => (r.1, max r.2 (H.blockLen x.core r.1)))
    H.onCtx x.num fun y => { y with swap := .saving, saved := some { s with bytes := s.bytes ++ k.1, marks := s.marks ++ k.2, late := [] } }

/-- R312, R243: what keeps a chosen victim's save from beginning: another save of its core, and where it is forced its commands that have not finished. -/
def Hall.saveWaits (H : Hall) (x : Ctx) : Bool :=
  (x.swapForced && x.cmds.any fun k => k.stage != .queued)
    || (H.residents x.core).any fun y => y.num != x.num && (y.swap == .saving || y.swap == .pinWait)

/-- R243: what keeps the rest of a save waiting: commands that have not finished, or, where it is not forced, pins. -/
def Ctx.pinsWait (x : Ctx) : Bool := (x.cmds.any fun k => k.stage != .queued) || (!x.swapForced && !x.blockPins.isEmpty)

/-- R310, R313: saves that nothing keeps waiting go on, the first of each core's chosen ones among them, from the cycle after the choice. -/
def Hall.resumeSaves (H : Hall) (h : Nat) : Hall :=
  H.ctxs.foldl (fun H x0 =>
    match H.ctx x0.num with
    | none => H
    | some x =>
      if x.swap == .pinWait && !x.pinsWait then H.endSave x
      else if x.swap == .chosen && decide (x.chosenAt < H.now) && !H.saveWaits x then
        let H1 := H.beginSave h x
        if x.blockPins.isEmpty || x.swapForced then H1
        else H1.onGal (galOf x.core) fun G => { G with pinWaits := inc16 G.pinWaits }
      else H) H

/-- R310, R312: context x chosen as a victim: where the swap-out is forced, its Running commands are killed and its pins released. -/
def Hall.chooseVictim (H : Hall) (forced : Bool) (x : Ctx) : Hall :=
  let H1 := H.onCtx x.num fun y =>
    { y with swap := if y.swap == .pinWait then .pinWait else .chosen
             chosenAt := H.now
             swapForced := forced, swapWhole := if y.swap == .none then !x.blocked else y.swapWhole }
  if forced then
    let n := x.blockPins.length
    let H2 := H1.onGal (galOf x.core) fun G => { G with forcedKills := satAdd 0xFFFF G.forcedKills n }
    (x.cmds.filter fun k => k.stage == .running).foldl (fun H k => H.requestKill x.num k.pos .swap) H2
  else H1

/-- R309, R312: the order of candidates: class number descending, blocked contexts first and earliest, then context number. -/
def candidateKey (x : Ctx) : Nat :=
  ((3 - min 3 x.cls) * 2 + (if x.blocked then 0 else 1)) * 2 ^ 80 + (x.blockedSince.getD 0) * 2 ^ 14 + x.num

/-- R312: a forced choice takes blocked contexts first, whatever their class. -/
def forcedKey (x : Ctx) : Nat := (if x.blocked then 0 else 1) * 2 ^ 90 + candidateKey x

/-- R309: the victims for waiting context w on core c, in order; none where they would not do. -/
def Hall.victims (H : Hall) (h : Nat) (w : Ctx) (c : Nat) : List Ctx :=
  let forced := w.cls == 0
  let cands := (H.residents c).filter fun x =>
    x.swap == .none && (if forced then decide (w.cls < x.cls) else x.blocked && decide (0 < x.cls))
  let sorted := (sortKeys (cands.map fun x => (if forced then forcedKey x else candidateKey x, x))).map (·.2)
  let n := (List.range (sorted.length + 1)).find? fun n => H.fitsWithout h w c ((sorted.take n).map (·.num))
  match n with
  | some n => sorted.take n
  | none => []

/-- R309: the context that core c admits next: class order, then the longest waiting. -/
def Hall.nextWaiting (H : Hall) (c : Nat) : Option Ctx :=
  let l := (H.ctxs.filter fun x => x.core == c && x.st == .waiting && x.rslot.isNone).map fun x =>
    (x.cls * 2 ^ 80 + (match x.waitSince with | some t => t * 2 ^ 14 | none => 2 ^ 79) + x.num, x)
  ((sortKeys l).map (·.2)).head?

/-- R309 to R313: core c admits waiting contexts while they fit, then chooses victims for the next, unless a swap-out of the core is
in progress or has stalled in this tick. Swap-outs that wait on pins become forced ahead of a class-0 context (R312). The fuel bounds
the admissions. -/
def Hall.admitCtx : Nat → Hall → Nat → Nat → Nat → Hall
  | 0, H, _, _, _ => H
  | fuel + 1, H, h, c, cyc =>
    match H.nextWaiting c with
    | none => H
    | some w =>
      if !H.coreTakes c || H.pwr.drains.getLsbD (galOf c) then H
      else if H.fits h w c then Hall.admitCtx fuel (H.seat w c cyc) h c cyc
      else
        let rs := H.residents c
        let held := rs.filter fun x => x.swap == .pinWait && !x.swapForced
        if w.cls = 0 && !held.isEmpty then (held.foldl (fun H x => H.chooseVictim true x) H).resumeSaves h
        else if rs.any (fun x => x.swap != .none || x.swapStalled) then H
        else ((H.victims h w c).foldl (fun H x => H.chooseVictim (w.cls == 0) x) H).resumeSaves h

/-- The frames of a save that is no longer wanted are freed. -/
def Hall.dropSaved (H : Hall) (x : Ctx) : Hall :=
  let H1 := match x.saved with | some s => s.frames.foldl (fun (H : Hall) n => H.freeFrame n) H | none => H
  H1.onCtx x.num fun y => { y with saved := none, swap := .none, swapForced := false, swapStalled := false }

/-- R310, R313, R558: the save of a context ends: it leaves its core. One that was not blocked, or whose gallery drains, waits for admission; one that
has ended meanwhile needs its frames no more. -/
def Hall.swapOutDone (H : Hall) (h ctx cyc : Nat) : Hall :=
  match H.ctx ctx with
  | none => H
  | some x =>
    if x.swap ≠ .saving then H else
    let g := galOf x.core
    let asleep := !(H.pwr.drains.getLsbD g) && match x.cmds with | k :: _ => !k.waitDone | [] => false
    let H1 := H.onCtx ctx fun y =>
      { y with
        rslot := none
        swap := .none
        swapForced := false
        st := if y.st == .faulted || y.st == .ended || !y.alive then y.st else if asleep then .swapped else .waiting
        waitSince := if asleep || y.st == .ended || !y.alive then none else some cyc
        acct := { y.acct with swapOuts := y.acct.swapOuts + 1 } }
    let H2 := (H1.onGal g fun G => { G with swapOuts := inc16 G.swapOuts }).count (12 * x.core + 11) 1
    let H3 := if x.alive then H2 else H2.dropSaved x
    Hall.admitCtx 32 H3 h x.core cyc

/-- R310: the restore of a context ends: its ranges are back at their addresses, markers unchanged (R536), its frames freed. -/
def Hall.swapInDone (H : Hall) (ctx : Nat) : Hall :=
  match H.ctx ctx with
  | none => H
  | some x =>
    match x.swap, x.saved with
    | .restoring, some s =>
      let H1 := H.onCore x.core fun c =>
        let st := s.bytes.foldl (fun (st : Store) r => st.write r.1 r.2) c.op
        let st2 := s.marks.foldl (fun (st : Store) m =>
          st.setMark m.1 m.2) st
        { s.bytes.foldl (fun (k : Core) r => k.invalidate r.1 r.2.length) c with op := st2 }
      let H2 := s.frames.foldl (fun H n => H.freeFrame n) H1
      H2.onCtx ctx fun y => { y with swap := .none, saved := none }
    | _, _ => H

/-! ### Creation and end -/

/-- R303: the number of a new context: the lowest not listed, else the lowest whose context has ended or been lost. -/
def Hall.newNumber (H : Hall) : Option Nat :=
  let used := H.ctxs.map (·.num)
  let top := used.length
  match (List.range (min 16384 (top + 1))).find? fun n => !(used.contains n) with
  | some n => some n
  | none => (H.ctxs.find? fun x => !x.alive && x.cmds.isEmpty).map (·.num)

/-- A context as created, not yet placed. -/
def Ctx.fresh (num cls part dom : Nat) (desc : CtxDesc) (home : Nat) : Ctx :=
  { num := num, st := .waiting, cls := cls, part := part, dom := dom, session := none, slot := none, flight := none, desc := desc,
    home := home, core := home, moved := false, rslot := none, fetching := false, fetch := 0, horizon := 0,
    doneMask := [], replayTo := 0, replayDone := [], waitsMet := [], killsHad := [], cmds := [], blockedSince := none, waitSince := none, swap := .none, chosenAt := 0,
    swapForced := false, swapWhole := false, swapStalled := false, saved := none, lastFault := 0, faultPos := 0, acct := Account.zero,
    shown := Account.zero, shownState := 2, shownFault := 0 }

/-- A context put into the list, contexts rising; an ended one of its number goes. -/
def Hall.insertCtx (H : Hall) (x : Ctx) : Hall :=
  { H with ctxs := (sortKeys ((H.ctxs.filter fun y => y.num != x.num).map (fun y => (y.num, y)) ++ [(x.num, x)])).map (·.2) }

/-- R309: a new, returning or moved context is placed where there is room and waits for admission from the present cycle on where there is none. -/
def Hall.settleCtx (H : Hall) (h num : Nat) : Hall :=
  match H.ctx num with
  | none => H
  | some x =>
    if x.st != .waiting then H
    else
      let H1 := H.onCtx num fun y => { y with waitSince := some H.now }
      Hall.admitCtx 32 H1 h x.core H.now

/-- R318: the times of a context that leaves its queues are booked at cycle cyc. -/
def Ctx.settled (x : Ctx) (cyc : Nat) : Ctx :=
  let b := match x.blockedSince with | some t => cyc - t | none => 0
  let a := match x.waitSince with | some t => cyc - t | none => 0
  { x with
    blockedSince := none
    waitSince := none
    acct := { x.acct with blockedCycles := x.acct.blockedCycles + b, admitCycles := x.acct.admitCycles + a } }

/-- R284, R313: a context leaves its core for good in state `st`: its Running commands are killed at once, its others are gone; what publishes
ends with it, and a save that has begun completes. -/
def Hall.endCtx (H : Hall) (num : Nat) (st : CtxState) (cyc : Nat) : Hall :=
  match H.ctx num with
  | none => H
  | some x =>
    let H1 := (x.cmds.filter fun k => k.stage == .running).foldl (fun H k => H.releaseRun num k cyc false true) H
    let saving := x.swap == .saving || x.swap == .pinWait
    let H2 := if saving then H1.onCtx num fun y => { y with swap := .saving } else H1.dropSaved x
    H2.onCtx num fun y0 =>
      let y := y0.settled cyc
      { y with
        st := st
        slot := none
        rslot := if saving then y.rslot else none
        fetching := false
        cmds := y.cmds.filter fun k => k.stage == .publishing }

/-- R283, R304: a slot context has ended its stream in cycle cyc: it is ENDED until its slot issues again, and one of class 0 stays resident. -/
def Hall.idleCtx (H : Hall) (num cyc : Nat) : Hall :=
  H.onCtx num fun y0 =>
    if y0.cls = 0 || y0.swap == .saving || y0.swap == .pinWait then y0
    else
      let y := y0.settled cyc
      { y with st := .ended, rslot := none, swap := .none, swapForced := false, swapStalled := false }

/-- R309: every core admits what waits for it. -/
def Hall.admitWaiting (H : Hall) (h : Nat) : Hall :=
  (((H.ctxs.filter fun x => x.st == .waiting && x.rslot.isNone).map fun x => x.core).eraseDups).foldl
    (fun (H : Hall) c => Hall.admitCtx 32 H h c H.now) H

/-- R318: STATE of an account. -/
def Ctx.stateCode (x : Ctx) : Nat :=
  match x.st with
  | .resident => if x.blocked then 1 else 0
  | .waiting => 2
  | .swapped => 3
  | .faulted => 4
  | .ended => 5
  | .lost => 6

/-! ### Moves -/

/-- R314: the cores that may replace a core of gallery g for partition p, in order: unfenced cores of the gallery, then those of the
partition's other galleries of the hall. -/
def Hall.replacements (H : Hall) (p g : Nat) : List Nat :=
  let gs := g :: (List.range 8).filter fun j => j != g && (H.gal j).partition == some p
  gs.flatMap fun j => ((List.range 12).map fun i => 12 * j + i).filter fun c => H.coreTakes c

/-- R282: the descriptor at a position of a stream. -/
def Hall.streamBytes (H : Hall) (h : Nat) (x : Ctx) (pos : Nat) : Option (List Byte) :=
  if x.desc.streamTier = 0 then
    let a := x.desc.streamAddr + 64 * pos
    if H.galOk x.part x.desc.gallery a 64 then some ((H.gal x.desc.gallery).store.read a 64) else none
  else (H.extentAddr h x.dom (64 * (x.desc.streamAddr + pos)) 64).map fun a => H.dramRead h a 64

/-- R315: the restart point: the highest position with RESTART at or below the oldest command not Done; position 0 counts as one. -/
def Hall.restartPoint (H : Hall) (h : Nat) (x : Ctx) : Nat :=
  let isRestart := fun (i : Nat) =>
    i == 0 || match H.streamBytes h x i with | some d => bit (fld d 1 1) 4 | none => false
  ((List.range (x.horizon + 1)).reverse.find? isRestart).getD 0

/-- The context has a stream under way. -/
def Ctx.streaming (x : Ctx) : Bool := x.fetching || !x.cmds.isEmpty

/-- R315: a context's replay begins: every command in flight goes, and fetching restarts at the restart point. -/
def Hall.beginReplay (H : Hall) (h : Nat) (x : Ctx) : Hall :=
  if !x.streaming then H.onCtx x.num fun y => { y with cmds := [] }
  else
    let r := H.restartPoint h x
    let top := x.doneMask.foldl max 0
    H.onCtx x.num fun y =>
      { y with
        fetch := r
        fetching := y.st != .faulted && y.st != .ended
        replayTo := max y.horizon (if y.doneMask.isEmpty then 0 else top + 1)
        replayDone := y.doneMask
        waitsMet := (y.cmds.filter fun k => k.waitDone).map (·.pos)
        killsHad := (y.cmds.filter fun k => decide (0 < k.kills)).map fun k => (k.pos, k.kills)
        cmds := [] }

/-- R313: a save that has begun as its core is fenced completes then: it counts, and its frames are not needed. -/
def Hall.savedAtFence (H : Hall) (x : Ctx) : Hall :=
  if x.swap == .saving || x.swap == .pinWait then
    let g := galOf x.core
    ((H.onGal g fun G => { G with swapOuts := inc16 G.swapOuts }).count (12 * x.core + 11) 1).onCtx x.num fun y =>
      { y with acct := { y.acct with swapOuts := y.acct.swapOuts + 1 } }
  else H

/-- R314: context x leaves fenced core; the answer says whether it is lost. -/
def Hall.moveCtx (H : Hall) (h : Nat) (x : Ctx) (cyc : Nat) : Hall × Bool :=
  let cands := H.replacements x.part (galOf x.core)
  let H0 := ((H.savedAtFence x).dropSaved x).beginReplay h x
  let H1 := H0.onCtx x.num fun y => { y.settled cyc with rslot := none, st := if y.st == .faulted || y.st == .ended then y.st else .waiting }
  match cands with
  | [] => (H1.endCtx x.num .lost cyc, true)
  | c0 :: _ =>
    let x1 := (H1.ctx x.num).getD x
    let dest := (cands.find? fun c => H1.fits h x1 c).getD c0
    let H2 := H1.onCtx x.num fun y => { y with core := dest, moved := decide (dest ≠ y.home) }
    (H2.settleCtx h x.num, false)

/-- R314: every context of a fenced core moves, class-0 contexts first. The answer names those that are lost. -/
def Hall.moveAll (H : Hall) (h c cyc : Nat) : Hall × List Nat :=
  let xs := (sortKeys ((H.ctxs.filter fun x => x.core == c && x.alive).map fun x => (x.cls * 16384 + x.num, x))).map (·.2)
  xs.foldl (fun a x =>
    let r := a.1.moveCtx h x cyc
    (r.1, if r.2 then a.2 ++ [x.num] else a.2)) (H, [])

end Sys2Proof.Machine
end

