-- ==== Sys2Proof/Machine/Stair.lean ====
section
/-! DEFINITION. The sending side of the Stair (01, R39 to R49): the head flit, the receiver's buffer pools and the credits for them, the
arbiter, and the framing of CONTROL payloads. -/

namespace Sys2Proof

open Machine

/-! ### The head flit (R40) -/

/-- R40: the 256 data bits of a message's head flit; the bits that the table does not list are zero. -/
def StairMsg.head (m : StairMsg) : Nat :=
  m.kind % 2 ^ 4 + 2 ^ 4 * (m.cls % 2 ^ 2) + 2 ^ 6 * (m.len % 2 ^ 5) + 2 ^ 11 * (m.part % 2 ^ 5) + 2 ^ 16 * (m.seq % 2 ^ 16)
    + 2 ^ 32 * (m.arg0 % 2 ^ 32) + 2 ^ 64 * (m.arg1 % 2 ^ 32) + 2 ^ 96 * (m.arg2 % 2 ^ 32)

/-- R40: the message that a head flit and the payload of its data flits spell; bits 128 and up are ignored. -/
def StairMsg.ofHead (w : Nat) (data : List Byte) : StairMsg :=
  { kind := bits w 0 4, cls := bits w 4 2, len := bits w 6 5, part := bits w 11 5, seq := bits w 16 16, arg0 := bits w 32 32
    arg1 := bits w 64 32, arg2 := bits w 96 32, data := data }

/-- R39: the flits of a message. -/
def StairMsg.flits (m : StairMsg) : Nat := 1 + m.len

end Sys2Proof

namespace Sys2Proof.Machine

/-! ### Pools and credits (R46) -/

/-- R46: the receiver's buffer pool of a kind, in flits. -/
def poolSize : Nat → Nat
  | 0 => 64
  | 1 => 512
  | 2 => 256
  | 3 => 32
  | 4 => 4
  | _ => 0

/-- R46: the flits of kind k, of the classes that `low` takes, that hold a place in the far pool: those of messages sent and not yet taken out
by the receiver (DESIGN CHOICE 261: a message leaves its pool when the receiver takes it), and those of the message begun. -/
def Stair.held (t : Stair) (k : Nat) (low : Nat → Bool) : Nat :=
  ((t.outbox ++ t.ctlSent).filter fun (m : StairMsg) => m.kind == k && low m.cls).foldl (fun a m => a + m.flits) 0
    + (t.begun.filter fun (b : StairMsg × Nat) => b.1.kind == k && low b.1.cls).foldl (fun a b => a + b.2) 0

/-- R46: the credits that a flit of kind k and class c may use: a quarter of the SYNC, MOVE and COMPARE pools is kept for class 0. -/
def Stair.credits (t : Stair) (k c : Nat) : Nat :=
  let all := poolSize k - t.held k fun _ => true
  if c = 0 || 2 < k then all else min all (3 * (poolSize k / 4) - t.held k (· != 0))

/-- R46, R48: the class-0 credits of some pool are exhausted: STAIR_STATUS.CREDIT_STALL. -/
def Stair.creditStall (t : Stair) : Bool := (List.range 5).any fun k => t.credits k 0 == 0

/-! ### The arbiter (R47) -/

/-- R47: the kinds in the order in which the arbiter looks, from its pointer on. -/
def Stair.kinds (t : Stair) : List Nat := (([4, 3, 0, 2, 1, 4, 3, 0, 2, 1] : List Nat).drop (t.ptr % 5)).take 5

/-- R47: what kind k sends next, with the flits of it already sent: the message begun, else the waiting one of the lowest class, oldest
first. -/
def Stair.front (t : Stair) (k : Nat) : Option (StairMsg × Nat) :=
  match t.begun.find? fun (b : StairMsg × Nat) => b.1.kind == k with
  | some b => some b
  | none => ((List.range 4).findSome? fun c => t.waits.find? fun (m : StairMsg) => m.kind == k && m.cls == c).map fun m => (m, 0)

/-- R46, R47: the message whose flits go next: by class, then by kind in rotating order, among those that hold a credit. -/
def Stair.choose (t : Stair) : Option (StairMsg × Nat) :=
  let fs := t.kinds.filterMap fun k => (t.front k).filter fun b => decide (0 < t.credits k b.1.cls)
  (List.range 4).findSome? fun c => fs.find? fun (b : StairMsg × Nat) => b.1.cls == c

/-- R40, R46: the chosen message sends the flits that it holds credits for. Its SEQ is given with its head flit. -/
def Stair.sendFlits (t : Stair) (m : StairMsg) (n : Nat) : Stair :=
  let k := min (m.flits - n) (t.credits m.kind m.cls)
  let m' := if n = 0 then { m with seq := (t.seq[m.kind]?).getD 0 } else m
  let t1 :=
    if n = 0 then { t with waits := t.waits.erase m, seq := modAt t.seq m.kind fun q => (q + 1) % 65536 }
    else { t with begun := t.begun.erase (m, n) }
  if m.flits ≤ n + k then { t1 with outbox := t1.outbox ++ [m'] } else { t1 with begun := t1.begun ++ [(m', n + k)] }

/-- R49, R51, R56: this end may send. -/
def Stair.runs (t : Stair) : Bool := t.enable && t.trained

/-- R46, R47: every flit that holds a credit goes. A message is counted when its last flit has gone. The fuel bounds the messages. -/
def Hall.pump : Nat → Hall → Hall
  | 0, H => H
  | fuel + 1, H =>
    if !H.stair.runs then H
    else
      match H.stair.choose with
      | none => H
      | some (m, n) =>
        let H1 := { H with stair := H.stair.sendFlits m n }
        if H.stair.outbox.length < H1.stair.outbox.length then
          ((H1.count (1536 + m.kind) 1).count (1536 + 10 + m.cls) m.flits).pump fuel
        else H1.pump fuel

/-- R46: the flits that hold a credit go now. -/
def Hall.flush (H : Hall) : Hall := H.pump (H.stair.waits.length + H.stair.begun.length + 1)

/-- R42, R49: a message handed to the Stair; SYNC, MOVE and COMPARE are dropped while the partner is lost. -/
def Hall.sendStair (H : Hall) (m : StairMsg) : Hall :=
  if H.stair.lost && decide (m.kind ≤ 2) then H.count (1536 + 17) 1
  else ({ H with stair := { H.stair with waits := H.stair.waits ++ [m] } } : Hall).flush

/-! ### CONTROL payloads (R41, R46) -/

/-- R41: how many bytes a payload has: as many as what it carries (DESIGN CHOICE 7: the contents are the firmware's). -/
def controlLen : ControlMsg → Nat
  | .firmware obj => obj.length
  | .bootImage bs => bs.length
  | .imageAccepted => 0
  | .imageRefused => 0
  | .digestExchange d => d.length
  | .imageRequest => 0
  | .activeImage bs => bs.length
  | .stagedImage bs => bs.length
  | .stagedVerified d _ => d.length + 1
  | .schedule _ => 4
  | .scheduleAck _ => 4
  | .withdraw _ => 4
  | .capsule _ bs => 4 + bs.length
  | .capsuleAnswer _ _ _ pl => 8 + pl.length
  | .upRecord r => r.length
  | .landingsHeld _ => 1
  | .powerRequest _ _ _ => 4
  | .readmitConfirm => 0
  | .other => 0

/-- R41, R86: the CONTROL messages of a payload: PART 31, class 0, at most 4 data flits each, in ascending offset. -/
def controlMsgs (c : ControlMsg) : List StairMsg :=
  let n := controlLen c
  let bs := fit (Config.controlBytes c) n
  (List.range (max 1 ((n + 127) / 128))).map fun i =>
    let part := (bs.drop (128 * i)).take 128
    let len := (min 128 (n - 128 * i) + 31) / 32
    { kind := 3, cls := 0, len := len, part := 31, seq := 0, arg0 := Config.controlOp c % 65536, arg1 := n, arg2 := 128 * i, data := fit part (32 * len) }

/-- R46: the steward keeps to 4 CONTROL flits a microsecond: a class-0 slot of a paired partition has a table in force. -/
def Hall.controlLimited (H : Hall) : Bool :=
  match H.image with
  | none => false
  | some im => im.partitions.any fun (e : PartEntry) => e.paired && match H.tableOf e.part with
    | some t => t.slots.any fun (x : Slot) => x.cls == 0
    | none => false

/-- R40, R41, R46: the waiting CONTROL messages that hold credits and lie within the budget go, in order. -/
def Stair.sendControl (limited : Bool) : List StairMsg → Stair → Stair
  | [], t => t
  | m :: r, t =>
    if t.credits 3 0 < m.flits || (limited && decide (t.ctlBudget < m.flits)) then { t with ctlWaits := m :: r }
    else
      Stair.sendControl limited r
        { t with
          ctlWaits := r
          ctlSent := t.ctlSent ++ [{ m with seq := (t.seq[3]?).getD 0 }]
          seq := modAt t.seq 3 fun q => (q + 1) % 65536
          ctlBudget := if limited then t.ctlBudget - m.flits else t.ctlBudget }

/-- R46: what CONTROL traffic may go now, counted by kind and class. -/
def Hall.flushControl (H : Hall) : Hall :=
  if !H.stair.runs then H
  else
    let t := Stair.sendControl H.controlLimited H.stair.ctlWaits H.stair
    let gone := H.stair.ctlWaits.take (H.stair.ctlWaits.length - t.ctlWaits.length)
    (({ H with stair := t } : Hall).count (1536 + 3) gone.length).count (1536 + 10) (gone.foldl (fun a (m : StairMsg) => a + m.flits) 0)

/-- R41: a CONTROL payload handed to the Stair. -/
def Hall.tell (H : Hall) (c : ControlMsg) : Hall :=
  ({ H with stair := { H.stair with ctlOut := H.stair.ctlOut ++ [c], ctlWaits := H.stair.ctlWaits ++ controlMsgs c } } : Hall).flushControl

/-- R45, R46: the far end has taken message m out of its pool. -/
def Stair.taken (t : Stair) (m : StairMsg) : Stair :=
  { t with
    outbox := t.outbox.erase m
    ctlSent := match t.ctlSent with
      | x :: r => if m.kind = 3 && x.arg1 = m.arg1 && x.arg2 = m.arg2 then r else t.ctlSent
      | [] => [] }

/-- R45: an earlier message of m's kind is still on its way, so that m cannot have arrived. -/
def Stair.tooEarly (t : Stair) (m : StairMsg) : Bool :=
  t.outbox.contains m && (t.outbox.find? fun (x : StairMsg) => x.kind == m.kind) != some m

/-- R49: how many SYNC, MOVE and COMPARE messages wait to be sent. -/
def Stair.queued (t : Stair) : Nat :=
  (t.waits.filter fun (m : StairMsg) => decide (m.kind ≤ 2)).length + (t.begun.filter fun b => decide (b.1.kind ≤ 2)).length

/-- R49: the SYNC, MOVE and COMPARE messages that wait to be sent are dropped. -/
def Stair.dropQueued (t : Stair) : Stair :=
  { t with
    waits := t.waits.filter fun (m : StairMsg) => decide (2 < m.kind)
    begun := t.begun.filter fun b => decide (2 < b.1.kind) }

/-- What is on its way is lost with the link: its messages, its CONTROL payloads and what this end held of the far one's. -/
def Stair.cleared (t : Stair) : Stair :=
  { t with
    outbox := [], begun := [], ctlOut := [], ctlWaits := [], ctlSent := [], control := none, moves := [], syncs := [], beat := none }

/-- R46: what may go now that credits have returned or traffic is permitted again. -/
def Hall.sendOn (H : Hall) : Hall := H.flush.flushControl

/-- R46: the budget of CONTROL flits until the next BEAT: 4 for each of BEAT_PERIOD's microseconds (DESIGN CHOICE 261: the budget is kept over a
BEAT period). -/
def Hall.refillControl (H : Hall) : Hall :=
  ({ H with stair := { H.stair with ctlBudget := 4 * max 1 H.stair.beatPeriod.toNat } } : Hall).flushControl

end Sys2Proof.Machine
end

