-- ==== Sys2Proof/Machine/Sched.lean ====
section
/-! DEFINITION. The schedule (03, R108 to R124; 14, R476 to R478; 16, R541 to R543): slot issue, deadlines, the deadline monitor,
compare marks, result records and the fault pin. -/

namespace Sys2Proof.Machine

/-! ### The fault pin -/

/-- R71: the partition holds galleries in hall h. -/
def PartEntry.inHall (e : PartEntry) (h : Nat) : Bool := e.gals h != 0

/-- R542: the causes present in a hall, bit n for cause n. -/
def Hall.causes (H : Hall) (h : Nat) : Nat :=
  let im := H.image
  let parts := match im with | some m => m.partitions.filter fun (e : PartEntry) => e.inHall h | none => []
  let limit := match im with | some m => m.timebase.divergeLimit | none => 256
  let miss := match H.swp.lastMiss with
    | some s => s == H.swp.sweep || (s + 1) % 2 ^ 32 == H.swp.sweep
    | none => false
  b2n (!H.swp.tableChosen) + 2 * b2n (im.isNone && (H.dev.imgState == 4 || H.dev.noSource)) + 4 * b2n (H.stair.lost && parts.any fun e => e.paired)
    + 8 * b2n (im.isSome && H.swp.parts.any fun p => decide (limit ≤ p.consec)) + 16 * b2n (H.swp.lock == .generator)
    + 32 * b2n miss + 64 * b2n (parts.any fun e => bit e.classes 0 && (H.part e.part).monitor != 0)

/-- R541, R542: an unmasked cause is present. -/
def Hall.asserting (H : Hall) (h : Nat) : Bool := (H.causes h) &&& (0x7F - 16 * H.err.mask.toNat) != 0

/-- R541, R543: the pin changes: logged, with a DEVICE event. -/
def State.setPin (s : State) (h : HallId) (v : Bool) : State :=
  let c := (s.hall h).causes h.idx
  let s1 := s.onHall h fun H => { H with err := { H.err with pin := v } }
  (s1.log h 0x0402 (b2n v) c).deviceEvent h 0x0402 c

/-- R541: the pin is asserted when an unmasked cause appears. -/
def State.pinCheck (s : State) (h : HallId) : State :=
  let H := s.hall h
  if H.dev.up && !H.err.pin && H.asserting h.idx then s.setPin h true else s

/-! ### Tables, models and slot contexts -/

/-- R486: the domain whose model range holds a model number. -/
def Image.domOfModel (im : Image) (m : Nat) : Option Nat :=
  (im.tenancy.find? fun e => decide (e.modelFirst ≤ m) && decide (m < e.modelFirst + e.modelCount)).map (·.domain)

/-- R504: a model LOADED in the hall. -/
def Hall.loaded (H : Hall) (m : Nat) : Option Model := H.sec.models.find? fun x => x.num == m && x.st == .loaded

/-- R501, R304: a model's descriptor for core bit c of logical gallery j; none where it is all zeros. -/
def Model.desc (m : Model) (j c : Nat) : Option (List Byte) :=
  match (m.descs.find? fun e => e.1 == j).bind fun e => e.2[c]? with
  | none => none
  | some d => if d.all (· == 0) then none else some d

/-- R304: the contexts of a slot. -/
def Hall.slotCtxs (H : Hall) (p table slot : Nat) : List Ctx :=
  H.ctxs.filter fun x => x.part == p && x.alive && match x.slot with
    | some o => o.table == table && o.slot == slot
    | none => false

/-- A slot of a table. -/
def SweepTable.slot (t : SweepTable) (i : Nat) : Option Slot := t.slots.find? fun s => s.slot == i

/-- R120: the marks of a table whose tensor the slot produces. -/
def Image.marksOf (im : Image) (t : SweepTable) (slot : Nat) : List MarkEntry :=
  im.marks.filter fun m => m.table == t.table &&
    match t.buffers[m.tensor]? with | some b => b.producer == slot | none => false

/-- R111: E of a slot. -/
def Image.slotE (im : Image) (t : SweepTable) (s : Slot) : Nat :=
  let ws := (im.marksOf t s.slot).filter fun m => m.policy == 1
  match (ws.map (·.tick)).min? with
  | some e => e
  | none => s.endTick

/-- R485: the clock at an operating point in MHz. -/
def clockMHz (op : Nat) : Nat := 200 * (op + 1)

/-- Timebase cycles that n array cycles take. -/
def Hall.toTb (H : Hall) (n : Nat) : Nat := cdiv (100 * n) (clockMHz H.pwr.op)

/-- The timebase instant of array cycle cyc, within the current tick (DESIGN CHOICE 302). -/
def Hall.tbAt (H : Hall) (cyc : Nat) : Nat :=
  let t := max (H.tickStart H.swp.tick) (H.swp.clk.1 + H.toTb (cyc - H.swp.clk.2))
  if H.swp.tick < 4095 then min t (H.tickStart (H.swp.tick + 1)) else t

/-- The array cycle that falls on timebase instant tb. -/
def Hall.cycAt (H : Hall) (tb : Nat) : Nat := H.swp.clk.2 + (tb - H.swp.clk.1) * clockMHz H.pwr.op / 100

/-- R115: the flit time of a table in units of 10⁻⁵ ns. -/
def flitTime (p : PartEntry) (t : SweepTable) : Nat :=
  if t.halves = 1 then 0 else if p.minStair = 32 then 28125 else if p.minStair = 16 then 56250 else 112500

/-- R115: both tests for a class-0 slot with a budget. -/
def boundedOk (im : Image) (t : SweepTable) (p : PartEntry) (s : Slot) (budget : Nat) : Bool :=
  let n := budget + 256 * s.cmdCount
  let f := clockMHz p.lowestOp
  let m := im.timebase.minUs
  let ft := flitTime p t
  let e := im.slotE t s
  decide (n * 40960 ≤ (s.endTick - s.startTick) * 9 * m * f)
    && decide (n * 40960 * 100000000 + s.stairFlits * ft * f * 40960 ≤ (e - s.startTick) * 9 * m * f * (100000000 - 5 * ft))

/-- R115: FALLBACK_OK of a slot. -/
def fallbackOk (im : Image) (t : SweepTable) (p : PartEntry) (s : Slot) : Bool := boundedOk im t p s s.fallbackBudget

/-- The run of a slot in a sweep. -/
def Hall.run (H : Hall) (p table slot sweep : Nat) : Option SlotRun :=
  H.swp.runs.find? fun r => r.part == p && r.table == table && r.slot == slot && r.sweep == sweep

/-- The run whose stream a slot's contexts run: the latest issued one. -/
def Hall.activeRun (H : Hall) (p table slot : Nat) : Option SlotRun :=
  (H.swp.runs.filter fun r => r.part == p && r.table == table && r.slot == slot && r.issued).getLast?

/-- A hall with a slot's run changed. -/
def Hall.onRun (H : Hall) (r : SlotRun) (f : SlotRun → SlotRun) : Hall :=
  { H with swp := { H.swp with runs := H.swp.runs.map fun x =>
      if x.part = r.part && x.table = r.table && x.slot = r.slot && x.sweep = r.sweep then f x else x } }

/-- R111, R290: a context's stream starts afresh from its first command. -/
def Ctx.start (x : Ctx) (now : Nat) : Ctx :=
  let back := x.st == .faulted || x.st == .ended
  { x with
    waitSince := if back && x.rslot.isNone then some now else x.waitSince
    cmds := x.cmds.filter fun k => k.stage != .queued
    killsHad := []
    st := if back then (if x.rslot.isSome then .resident else .waiting) else x.st
    fetching := decide (0 < x.desc.streamLen)
    fetch := 0
    horizon := 0
    doneMask := []
    replayTo := 0
    replayDone := []
    waitsMet := [] }

/-! ### The deadline monitor -/

/-- R118: cycles of a slot's stream still to commit on one core, 256 a command included; the budget is taken in proportion to the commands
(DEDUCED 23). -/
def Slot.remaining (s : Slot) (committed : Nat) : Nat :=
  let left := s.cmdCount - committed
  cdiv (s.cycleBudget * left) (max 1 s.cmdCount) + 256 * left

/-- The commands of a context's stream that have committed. -/
def Ctx.committed (x : Ctx) : Nat :=
  x.horizon + x.doneMask.length + (x.cmds.filter fun k => k.stage == .publishing && !k.suppress).length

/-- R292: the place of a context in the order in which its core's engines take commands of one class. -/
def Hall.turn (H : Hall) (x : Ctx) : Nat := ((x.rslot.getD 0) + 16 - (H.core x.core).ptr % 16) % 16

/-- R118, R292: class-0 work queued ahead of context x on its core: what slot contexts with a Running command, or with an earlier turn, still have to
commit (DEDUCED 23). -/
def Hall.workAhead (H : Hall) (x : Ctx) : Nat :=
  (H.ctxs.map fun y =>
    if y.num ≠ x.num && y.core = x.core && y.cls = 0 && (y.fetching || !y.cmds.isEmpty)
        && (decide (H.turn y < H.turn x) || y.cmds.any fun k => k.stage == .running) then
      match y.slot.bind fun o => ((H.image.bind fun im => im.table o.table).bind fun t => t.slot o.slot) with
      | some s => s.remaining y.committed
      | none => 0
    else 0).foldl (· + ·) 0

/-- R118: the predicted completion of a slot from timebase instant `now` on: that of its slowest context. -/
def Hall.completion (H : Hall) (p : Nat) (t : SweepTable) (s : Slot) (now : Nat) : Nat :=
  (H.slotCtxs p t.table s.slot).foldl (fun a x => max a (now + H.toTb (s.remaining x.committed + H.workAhead x))) now

/-- R118, R115: the deadline monitor may switch a slot to its fallback: it has one, whose FALLBACK_OK is set (DEDUCED 303) and whose model is LOADED
(DESIGN CHOICE 74). -/
def Hall.maySwitch (H : Hall) (p : Nat) (t : SweepTable) (s : Slot) : Bool :=
  s.fallback != 0xFFFF && (H.loaded s.fallback).isSome && match H.image with
    | none => false
    | some im => match im.part p with
      | none => false
      | some e => fallbackOk im t e s

/-- R118: a slot under the monitor whose predicted completion passes D switches to its fallback: what its contexts have not committed
is killed, and each starts FALLBACK's stream once its commands have gone. -/
def Hall.predict (H : Hall) (p : Nat) (t : SweepTable) (s : Slot) (r : SlotRun) (now : Nat) : Hall :=
  if !(r.monitored || (H.part p).monitor != 0) || r.fallback || r.done || !(H.maySwitch p t s) || decide (H.completion p t s now ≤ r.deadline) then H
  else
    let xs := H.slotCtxs p t.table s.slot
    let H1 := xs.foldl (fun H x =>
      let H' := (x.cmds.filter fun k => k.stage == .running).foldl (fun H k => H.requestKill x.num k.pos .fallback) H
      H'.onCtx x.num fun y => { y with fetching := false, cmds := y.cmds.filter fun k => k.stage != .queued }) H
    let H2 := (H1.onRun r fun r => { r with fallback := true }).count (1600 + 4) 1
    { H2 with swp := { H2.swp with fallbacks := inc32 H2.swp.fallbacks } }

/-- R118: contexts of a switched slot whose commands have gone start FALLBACK's stream. -/
def Hall.startFallbacks (H : Hall) : Hall :=
  H.ctxs.foldl (fun H x =>
    match x.slot with
    | none => H
    | some o =>
      match H.activeRun x.part o.table o.slot, (H.image.bind fun im => im.table o.table).bind fun t => t.slot o.slot with
      | some r, some s =>
        if r.fallback && o.model == s.model && s.fallback != s.model && x.cmds.isEmpty && x.alive && !r.done then
          match (H.loaded s.fallback).bind fun m => m.desc s.lgallery o.bit with
          | some d => H.onCtx x.num fun y => ({ y with desc := { CtxDesc.ofBytes d with gallery := galOf y.home }, slot := some { o with model := s.fallback } }).start H.now
          | none => H.onCtx x.num fun y => { y with slot := some { o with model := s.fallback } }
        else H
      | _, _ => H) H

/-! ### Slot issue -/

/-- R111 to R113: the slot's stream issues in tick n: its contexts start, and D is fixed, its share of the period rounded down by itself (DESIGN CHOICE 72). -/
def Hall.issueSlot (H : Hall) (im : Image) (p : Nat) (t : SweepTable) (s : Slot) (n : Nat) (late : Bool) (dataTick dataSweep : Nat) :
    Hall :=
  let e := im.slotE t s
  let mon := (H.part p).monitor != 0
  let r : SlotRun :=
    { part := p, table := t.table, slot := s.slot, cls := s.cls, sweep := H.swp.sweep, issued := true, dataTick := dataTick,
      dataSweep := dataSweep, deadline := H.tickStart n + (e - n) * H.period / 4096, eTick := e, fallback := false, late := late,
      monitored := mon || late, missed := false, done := false, cancelled := false, waiting := false, committed := 0,
      withheld := false, rseq := none }
  let runs := H.swp.runs.filter fun x => !(x.part == p && x.table == t.table && x.slot == s.slot && !x.withheld)
  let H1 := { H with swp := { H.swp with runs := runs ++ [r] } }
  let H2 := H1.count (1600 + 1 + s.cls) 1
  let H3 := (H2.slotCtxs p t.table s.slot).foldl (fun H x =>
    H.onCtx x.num fun y =>
      match y.slot with
      | some o =>
        if o.model ≠ s.model then
          (match (H.loaded s.model).bind fun m => m.desc s.lgallery o.bit with
           | some d => ({ y with desc := { CtxDesc.ofBytes d with gallery := galOf y.home }, slot := some { o with model := s.model } }).start H.now
           | none => y)
        else y.start H.now
      | none => y) H2
  (H3.predict p t s r (H.tickStart n)).startFallbacks

/-- A slot that does not issue yet in the sweep: it waits for its trigger, or for its previous stream. -/
def Hall.holdSlot (H : Hall) (im : Image) (p : Nat) (t : SweepTable) (s : Slot) (waiting late : Bool) (dataTick dataSweep : Nat) : Hall :=
  let r : SlotRun :=
    { part := p, table := t.table, slot := s.slot, cls := s.cls, sweep := H.swp.sweep, issued := false, dataTick := dataTick,
      dataSweep := dataSweep, deadline := 0, eTick := im.slotE t s, fallback := false, late := late, monitored := false,
      missed := false, done := false, cancelled := false, waiting := waiting, committed := 0, withheld := false, rseq := none }
  let runs := H.swp.runs.filter fun x =>
    !(x.part == p && x.table == t.table && x.slot == s.slot && x.sweep == H.swp.sweep)
  { H with swp := { H.swp with runs := runs ++ [r] } }

/-- R113, R290: no context of the slot runs its previous stream; one that has faulted has ended it once what it had issued has finished. -/
def Hall.slotIdle (H : Hall) (p table slot : Nat) : Bool :=
  (H.slotCtxs p table slot).all fun x => !x.streaming || (x.st == .faulted && x.cmds.all fun k => k.stage == .queued)

/-- R111 to R113, R486: the slot would issue in tick n: cancelled without its model, held behind its previous stream, or issued. No
slot issues in a gallery that drains (R558). -/
def Hall.tryIssue (H : Hall) (im : Image) (p : Nat) (t : SweepTable) (s : Slot) (n : Nat) (late : Bool) (dataTick dataSweep : Nat) :
    Hall :=
  if (H.mapLog p s.lgallery).any fun g => H.pwr.drains.getLsbD g then H
  else if (H.loaded s.model).isNone then
    let H1 := (H.holdSlot im p t s false late dataTick dataSweep).addLog 0x0205 p s.slot 0
    { H1 with swp := { H1.swp with runs := H1.swp.runs.map fun r =>
        if r.part = p && r.table = t.table && r.slot = s.slot && r.sweep = H.swp.sweep then { r with cancelled := true } else r } }
  else if H.slotIdle p t.table s.slot then H.issueSlot im p t s n late dataTick dataSweep
  else H.holdSlot im p t s true late dataTick dataSweep

/-- R111: the slots that start in tick n. -/
def Hall.startSlots (H : Hall) (n : Nat) : Hall :=
  match H.image with
  | none => H
  | some im =>
    (List.range 16).foldl (fun H p =>
      match H.tableOf p with
      | none => H
      | some t =>
        t.slots.foldl (fun H s =>
          if s.startTick ≠ n || (H.run p t.table s.slot H.swp.sweep).isSome then H
          else if s.trigger = 0xFFFF then H.tryIssue im p t s n false n H.swp.sweep
          else
            match H.swp.triggers.find? fun e => e.1 == s.trigger with
            | some e => H.tryIssue im p t s n false e.2.1 e.2.2
            | none => H.holdSlot im p t s false false 0 0) H) H

/-- R111, R112: data-complete event ev arrives now: slots that wait for it issue; those whose START_TICK has passed run under the
monitor and are logged. -/
def Hall.trigger (H : Hall) (ev : Nat) : Hall :=
  let n := H.swp.tick
  let H0 := { H with swp := { H.swp with triggers := H.swp.triggers ++ [(ev, n, H.swp.sweep)] } }
  match H0.image with
  | none => H0
  | some im =>
    (List.range 16).foldl (fun H p =>
      match H.tableOf p with
      | none => H
      | some t =>
        t.slots.foldl (fun H s =>
          if s.trigger ≠ ev then H
          else
            match H.run p t.table s.slot H.swp.sweep with
            | some r =>
              if r.issued || r.waiting || r.cancelled then H
              else
                let late := decide (s.startTick < n)
                let H1 := if late then (H.addLog 0x0201 p s.slot 0).count (1600 + 5) 1 else H
                H1.tryIssue im p t s n late n H.swp.sweep
            | none => H) H) H0

/-- R113, R558: a slot whose issue waits for its previous stream issues now, its streams having ended, unless its gallery drains. -/
def Hall.deferredIssue (H : Hall) (p slot : Nat) : Hall :=
  match H.image, H.tableOf p with
  | some im, some t =>
    match t.slot slot, H.run p t.table slot H.swp.sweep with
    | some s, some r =>
      let drains := (H.mapLog p s.lgallery).any fun g => H.pwr.drains.getLsbD g
      if r.waiting && !r.cancelled && !r.issued && H.slotIdle p t.table slot && !drains then
        H.issueSlot im p t s H.swp.tick r.late r.dataTick r.dataSweep
      else H
    | _, _ => H
  | _, _ => H

/-! ### Deadlines -/

/-- R113: a slot has not committed by D: a miss. -/
def Hall.miss (H : Hall) (r : SlotRun) : Hall :=
  let H1 := (H.onRun r fun r => { r with missed := true }).addLog 0x0203 r.part r.slot 0
  if r.cls = 0 then
    let H2 := H1.count (1600 + 3) 1
    { H2 with swp := { H2.swp with misses := inc32 H2.swp.misses, lastMiss := some H2.swp.sweep } }
  else H1

/-- R104, R113: at timebase instant tb the deadlines that have come are checked (one that falls later within the tick is settled by the commit, or at the
next boundary). -/
def Hall.checkDeadlines (H : Hall) (tb : Nat) : Hall :=
  H.swp.runs.foldl (fun H r => if r.issued && !r.done && !r.missed && decide (r.deadline ≤ tb) then H.miss r else H) H

/-- R112, R113: at the start of tick n, slots of the sweep whose E it is and which have not issued are cancelled: NO_DATA or
SLOT_BUSY. -/
def Hall.expire (H : Hall) (n sweep : Nat) : Hall :=
  H.swp.runs.foldl (fun H r =>
    if r.sweep = sweep && decide (r.eTick ≤ n) && !r.issued && !r.cancelled then
      let H1 := H.onRun r fun r => { r with cancelled := true, waiting := false }
      if r.waiting then H1.addLog 0x0209 r.part r.slot 0 else (H1.addLog 0x0202 r.part r.slot 0).count (1600 + 6) 1
    else H) H

/-! ### Result records -/

/-- R108, R476: the bytes of a buffer of the table in force. -/
def Hall.bufferBytes (H : Hall) (h p : Nat) (t : SweepTable) (b : Buffer) : List Byte :=
  if b.tier = 0 then
    match H.mapLog p b.lgallery with
    | some g => (H.gal g).store.read b.address b.bytes
    | none => []
  else
    match (t.slot b.producer).bind fun s => H.image.bind fun im => im.domOfModel s.model with
    | some d =>
      match H.extentAddr h d (64 * b.address) b.bytes with
      | some a => H.dramRead h a b.bytes
      | none => []
    | none => []

/-- R476: the payload of a slot's RESULT record on a stream. -/
def Hall.resultPayload (H : Hall) (h p : Nat) (t : SweepTable) (slot : Nat) (x : TxStream) : List Byte :=
  (x.emitBuf.filterMap fun i =>
    match t.buffers[i]? with
    | some b => if b.producer = slot then some (H.bufferBytes h p t b) else none
    | none => none).flatten

/-- R124, R546: the hall emits as the only half: its partner is not alive, or the re-admitted half is still warming. -/
def Hall.single (H : Hall) : Bool := !H.stair.alive || (decide (0 < H.swp.warming) && !H.swp.readmitted)

/-- R474: RFLAGS of a record about a slot's run. -/
def recordFlags (single : Bool) (r : SlotRun) : Nat := b2n single + 2 * b2n r.missed + 4 * b2n r.fallback + 8 * b2n r.monitored

/-- R476: a slot's RESULT record is emitted, with the verdict and mark it carries. -/
def Hall.emitResult (H : Hall) (h : Nat) (t : SweepTable) (s : Slot) (r : SlotRun) (single : Bool) (verdict mark : Nat) : Hall :=
  if s.emit = 0xFFFF then H else
  match H.stream s.emit with
  | none => H.count (1600 + 26) 1
  | some x =>
    if x.ring || x.part ≠ r.part then H.count (1600 + 26) 1
    else
      let e := H.emit h s.emit
        { rkind := 0, rflags := recordFlags single r, rseq := 0, sweep := r.dataSweep, tick := r.dataTick, slot := s.slot,
          part := r.part, verdict := verdict, mark := mark, judged := 0, cls := s.cls
          payload := H.resultPayload h r.part t s.slot x, emitKb := s.emitKb }
      e.2.onRun r fun r => { r with withheld := false, rseq := e.1 }

/-- R478: a VERDICT record. -/
def Hall.emitVerdict (H : Hall) (h : Nat) (s : Slot) (r : SlotRun) (single : Bool) (verdict mark judged : Nat) : Hall :=
  if s.emit = 0xFFFF then H else
  match H.stream s.emit with
  | none => H.count (1600 + 26) 1
  | some x =>
    if x.ring || x.part ≠ r.part then H.count (1600 + 26) 1
    else
      (H.emit h s.emit
        { rkind := 1, rflags := recordFlags single r, rseq := 0, sweep := r.dataSweep, tick := r.dataTick, slot := s.slot,
          part := r.part, verdict := verdict, mark := mark, judged := judged, cls := s.cls, payload := [], emitKb := s.emitKb }).2

/-! ### Compare marks -/

/-- The run of a mark in a sweep. -/
def Hall.mark (H : Hall) (p m sweep : Nat) : Option MarkRun :=
  H.swp.marks.find? fun x => x.part == p && x.mark == m && x.sweep == sweep

/-- A mark's run changed, or begun. -/
def Hall.onMark (H : Hall) (p m sweep : Nat) (f : MarkRun → MarkRun) : Hall :=
  match H.mark p m sweep with
  | some _ => { H with swp := { H.swp with marks := H.swp.marks.map fun x =>
      if x.part = p && x.mark = m && x.sweep = sweep then f x else x } }
  | none => { H with swp := { H.swp with marks := H.swp.marks ++ [f ⟨p, m, sweep, none, [], false, 0⟩] } }

/-- R121: element i of two copies lies within a tolerance. -/
def insideTol (absTol relTol a b : Fp) : Bool :=
  if a.isNan || b.isNan then false
  else if a.isInf || b.isInf then a == b
  else
    let d := (a.sub32 b).abs
    !(absTol.lt d) && !absTol.isNan || (!(((relTol.mul32 (a.abs.larger b.abs))).lt d) && !relTol.isNan)

/-- R121: the verdict on two copies: 1 MATCH, 2 DIVERGED. -/
def MarkEntry.judge (m : MarkEntry) (a b : List Byte) : Nat :=
  let f := fElem m.format
  let outside := (List.range m.elements).filter fun i =>
    !insideTol (fp32 m.absTol) (fp32 m.relTol) (elemAt f a i).round32 (elemAt f b i).round32
  if outside.length ≤ m.maxOutside then 1 else 2

/-- R121 to R123, R478: a mark's verdict takes effect: counts, the log, the divergence count, and the records that follow from it. -/
def Hall.verdict (H : Hall) (h : Nat) (im : Image) (t : SweepTable) (m : MarkEntry) (sweep v : Nat) : Hall :=
  let p := t.part
  let H1 := H.onMark p m.mark sweep fun x => { x with verdict := v }
  let H2 :=
    if v = 1 then H1
    else
      let c := if v = 2 then { H1.swp with cmpDiverged := inc16 H1.swp.cmpDiverged }
        else { H1.swp with cmpMissing := inc16 H1.swp.cmpMissing }
      let H' := ({ H1 with swp := c }).addLog 0x0208 p m.mark 0
      if 0 < H'.swp.warming || (H'.part p).diverged then H'
      else H'.onPart p fun x => { x with diverged := true, consec := inc8 x.consec }
  let warm := decide (0 < H2.swp.warming)
  let speaks := if warm then !H2.swp.readmitted else m.primaryHall == h
  match t.slots.find? fun s => (im.marksOf t s.slot).any fun e => e.mark == m.mark with
  | none => H2
  | some s =>
    let r : SlotRun :=
      (H2.run p t.table s.slot sweep).getD
        { part := p, table := t.table, slot := s.slot, cls := s.cls, sweep := sweep, issued := false, dataTick := s.startTick,
          dataSweep := sweep, deadline := 0, eTick := 0, fallback := false, late := false, monitored := false, missed := false,
          done := false, cancelled := false, waiting := false, committed := 0, withheld := false, rseq := none }
    if !speaks then H2
    else if m.policy = 0 || warm then H2.emitVerdict h s r warm v m.mark (match r.rseq with | some q => q | none => 0xFFFFFFFF)
    else if v ≠ 1 then H2.emitVerdict h s r false v m.mark 0xFFFFFFFF
    else
      let ws := (im.marksOf t s.slot).filter fun e => e.policy == 1
      if r.withheld && ws.all fun e => ((H2.mark p e.mark sweep).map (·.verdict)) == some 1 then
        H2.emitResult h t s r false 1 m.mark
      else H2

/-- R96: sweep `sweep` is the one before this one. -/
def Hall.wasBefore (H : Hall) (sweep : Nat) : Bool := H.swp.past.2.1.isSome && H.swp.past.1 == sweep && H.swp.sweep != sweep

/-- R96: the image in force in a sweep: in the one before this one what was in force then, else the active one. -/
def Hall.imageIn (H : Hall) (sweep : Nat) : Option Image := if H.wasBefore sweep then H.swp.past.2.1 else H.image

/-- R96: the table of partition p in force in a sweep. -/
def Hall.tableIn (H : Hall) (p sweep : Nat) : Option SweepTable :=
  if H.wasBefore sweep then
    match H.swp.past.2.1, H.swp.past.2.2.find? fun e => e.1 == p with
    | some im, some e => im.table e.2
    | _, _ => none
  else H.tableOf p

/-- R121, R96: a mark is judged once both copies are held, while the partner is alive. -/
def Hall.tryJudge (H : Hall) (h p mark sweep : Nat) : Hall :=
  match H.imageIn sweep, H.tableIn p sweep, H.mark p mark sweep with
  | some im, some t, some x =>
    match im.marks.find? fun m => m.table == t.table && m.mark == mark with
    | none => H
    | some m =>
      match x.own with
      | none => H
      | some own =>
        if x.farDone && x.verdict == 0 && !H.stair.lost then
          let far := ((sortKeys x.far).map (·.2)).flatten
          H.verdict h im t m sweep (m.judge own far)
        else H
  | _, _, _ => H

/-- R121: at the start of tick n, marks whose TICK it is and which have no verdict are MISSING. -/
def Hall.missingMarks (H : Hall) (h n : Nat) : Hall :=
  match H.image with
  | none => H
  | some im =>
    if H.stair.lost then H else
    (List.range 16).foldl (fun H p =>
      match H.tableOf p with
      | none => H
      | some t =>
        if t.halves ≠ 2 then H else
        im.marks.foldl (fun H m =>
          if m.table = t.table && m.tick = n && ((H.mark p m.mark H.swp.sweep).map (·.verdict)).getD 0 == 0 then
            H.verdict h im t m H.swp.sweep 3
          else H) H) H

/-- R120, R42, R32: a producer slot has committed: its tensors are this hall's copies and are sent to the other hall, where the partition has a route to
the Stair's stop (DESIGN CHOICE 304: else the messages are not sent; counted and logged). -/
def Hall.sendMarks (H : Hall) (h : Nat) (im : Image) (t : SweepTable) (s : Slot) (r : SlotRun) : Hall :=
  (im.marksOf t s.slot).foldl (fun H m =>
    match t.buffers[m.tensor]? with
    | none => H
    | some b =>
      let bs := H.bufferBytes h r.part t b
      let n := cdiv bs.length 512
      let H1 := H.onMark r.part m.mark r.sweep fun x => { x with own := some bs }
      let g := (H.mapLog r.part b.lgallery).getD 0
      let from' := if b.tier = 0 then [(g, 14)] else H.mem.mcStops.map fun k => (k, 14)
      let H2 :=
        if (H1.missingRoute h r.part s.cls from').isSome then (H1.count (1280 + 8 * g + 5) 1).addLog 0x0701 g (256 * r.part + 14) 0
        else (List.range n).foldl (fun H i =>
          let d := slice bs (512 * i) 512
          H.sendStair
            { kind := 2, cls := s.cls, len := cdiv d.length 32, part := r.part, seq := 0, arg0 := m.mark, arg1 := r.sweep
              arg2 := i + if i + 1 = n then 65536 else 0, data := d }) H1
      H2.tryJudge h r.part m.mark r.sweep) H

/-- R476, R478, R122, R124, R546: a slot's last command has committed: its tensors go out, and its RESULT record is emitted, held for
its verdicts, or left to the other hall. -/
def Hall.slotDone (H : Hall) (h : Nat) (r : SlotRun) : Hall :=
  match H.imageIn r.sweep with
  | none => H
  | some im =>
    match im.table r.table, im.part r.part with
    | some t, some pe =>
      match t.slot r.slot with
      | none => H
      | some s =>
        let H1 := H.onRun r fun r => { r with done := true }
        let r1 := (H1.run r.part r.table r.slot r.sweep).getD r
        if !pe.paired then H1.emitResult h t s r1 false 0 0xFFFF
        else
          let ms := im.marksOf t s.slot
          let single := H1.single
          if single || decide (0 < H1.swp.warming) then
            let H2 := if single then H1.emitResult h t s r1 true 0 0xFFFF else H1
            if t.halves = 2 then H2.sendMarks h im t s r1 else H2
          else
            match ms with
            | [] =>
              let home := ((H1.stream s.emit).map (·.homeHall)).getD h
              if home = h then H1.emitResult h t s r1 false 0 0xFFFF else H1
            | m :: _ =>
              let hold := ms.any fun m => m.policy == 1
              let H2 :=
                if m.primaryHall ≠ h then H1
                else if hold then H1.onRun r1 fun r => { r with withheld := true }
                else H1.emitResult h t s r1 false 0 0xFFFF
              H2.sendMarks h im t s r1
    | _, _ => H

/-- R124: the partner is lost: a record of this sweep or the one before that its WITHHOLD verdicts held back, and that no verdict has stopped, is
emitted as though this hall were PRIMARY_HALL. -/
def Hall.emitHeld (H : Hall) (h : Nat) : Hall :=
  H.swp.runs.foldl (fun H r =>
    if r.issued && r.done && r.rseq.isNone && (r.sweep == H.swp.sweep || H.wasBefore r.sweep) then
      match H.imageIn r.sweep with
      | none => H
      | some im =>
        match im.table r.table with
        | none => H
        | some t =>
          match t.slot r.slot with
          | none => H
          | some s =>
            let ws := (im.marksOf t s.slot).filter fun m => m.policy == 1
            let stopped := ws.any fun m => decide (1 < ((H.mark r.part m.mark r.sweep).map (·.verdict)).getD 0)
            if t.halves = 2 && !ws.isEmpty && !stopped then H.emitResult h t s r true 0 0xFFFF else H
    else H) H

/-- R113, R476: a stream of a slot context has ended: the slot is done once no context of it runs and none has faulted. One that commits after D has
missed. -/
def Hall.slotCheck (H : Hall) (h p table slot cyc : Nat) : Hall :=
  match H.activeRun p table slot with
  | none => H
  | some r0 =>
    let late := !r0.missed && decide (r0.deadline < H.tbAt cyc)
    let r := if late then { r0 with missed := true } else r0
    let xs := H.slotCtxs p table slot
    let model := ((H.image.bind fun im => im.table table).bind fun t => t.slot slot).map fun s => if r.fallback then s.fallback else s.model
    if !r.done && xs.all (fun x => !x.streaming && x.st != .faulted && (x.slot.map (·.model)) == model) then
      (if late then H.miss r0 else H).slotDone h r
    else H

end Sys2Proof.Machine
end

