-- ==== Sys2Proof/Machine/Run.lean ====
section
/-! DEFINITION. The life of a command (09, R281 to R300, R314, R315): fetching, faults, completion records, issue, commit, publication
and kills; and the reset of a core or gallery (16, R529 to R533; 01, R57, R58) that ends lives early. -/

namespace Sys2Proof.Machine

/-! ### Completion records and faults -/

/-- R463: a context handle. -/
def ctxHandle (h n : Nat) : Nat := h * 16384 + n

/-- The host port of a context's session. -/
def Hall.ctxPort (H : Hall) (x : Ctx) : Option Nat :=
  x.session.bind fun n => (H.sec.sessions.find? fun e => e.num == n).map (·.port)

/-- R467: a CONTEXT event for a context of a session. -/
def State.ctxEvent (s : State) (h : HallId) (x : Ctx) (st : Nat) : State :=
  match (s.hall h).ctxPort x with
  | none => s
  | some p =>
    let k := ctxHandle h.idx x.num
    s.event p ⟨4, k, leBytes 2 k ++ leBytes 1 st, false⟩

/-- R289: the bytes of a completion record. -/
def recordBytes (seq op nstat status kills flags run queue : Nat) : List Byte :=
  leBytes 2 seq ++ leBytes 1 op ++ leBytes 1 nstat ++ leBytes 2 status ++ leBytes 1 (min 255 kills) ++ leBytes 1 flags
    ++ leBytes 4 run ++ leBytes 4 queue

/-- R289, R467: a completion record written into its context's ring, then its event. -/
def State.complete (s : State) (h : HallId) (x : Ctx) (seq : Nat) (bs : List Byte) : State :=
  let s1 := s.onHall h fun H => H.writeAt (.gal x.desc.gallery) (x.desc.complAddr + 16 * (seq % max 1 x.desc.complCount)) bs
  match (s.hall h).ctxPort x with
  | none => s1
  | some p =>
    let k := ctxHandle h.idx x.num
    s1.event p ⟨2, k, leBytes 2 k ++ bs, false⟩

/-- R290: what a fault of the command at `pos` does to its context and its counts; `stops` is the route that R32 found missing. -/
def Hall.faultCtx (H : Hall) (x : Ctx) (pos code : Nat) (stops : Nat) : Hall :=
  let g := galOf x.core
  let H1 := H.onCtx x.num fun y =>
    { y with
      st := .faulted
      fetching := false
      lastFault := code
      faultPos := pos
      cmds := y.cmds.filter fun k => k.pos != pos && !(decide (pos < k.pos) && k.stage == .queued) }
  let H2 := H1.count (12 * x.core + 10) 1
  match code with
  | 0x0608 => (H2.count (1280 + 8 * g + 5) 1).addLog 0x0701 g (256 * x.part + stops) 0
  | 0x0508 => H2.onGal g fun G => { G with noPeer := inc16 G.noPeer }
  | 0x030B => { H2 with mem := { H2.mem with kvPosition := inc16 H2.mem.kvPosition } }
  | 0x0308 => H2.mismatch
  | _ => H2

/-- R289, R290: a command faults. -/
def State.faultCmd (s : State) (h : HallId) (x : Ctx) (pos op code kills queue stops : Nat) : State :=
  let s1 := s.onHall h fun H => H.faultCtx x pos code stops
  s1.complete h x (pos % 65536) (recordBytes (pos % 65536) op 0 code kills (b2n x.moved) 0 queue)

/-- R32: the stop to or from which a descriptor's transfer has no declared route. -/
def routeStop (H : Hall) (h : Nat) (x : Ctx) (d : List Byte) : Nat :=
  let g := galOf x.core
  let other := fun (l : List (Nat × Nat)) =>
    match H.missingRoute h x.part x.cls l with
    | some p => if p.1 = g then p.2 else p.1
    | none => 14
  match fld d 0 1 with
  | 0x10 => other ((CopyCmd.ofDesc d).pairs H h x)
  | 0x30 => other ((AttnCmd.ofDesc d).pairs H.settled h x)
  | 0x31 => other ((AppendCmd.ofDesc d).pairs H H.settled h x)
  | 0x32 => other ((PageCmd.ofDesc d).pairs H H.settled h x)
  | 0x34 => other ((BwdCmd.ofDesc d).pairs H.settled x)
  | 0x51 => (HaloCmd.ofDesc d).gal
  | _ => 14

/-! ### What follows a change of the queues -/

/-- R204, R343, R346, R323: pins stand as the queues have them, what nothing holds any more is released, and shrinking frame areas lose the blocks that
have emptied. -/
def Hall.release (H : Hall) : Hall :=
  (List.range 8).foldl (fun H g => Hall.shrinkArea 97 H g) ((H.onward H.now).releaseDeferred.dropPieces)

/-- R204, R310, R340, R118, R297: released frames go back, saves and fallbacks go on, held frames are promoted, and class-0 commands ask
for what they need. -/
def Hall.after (H : Hall) (h : Nat) : Hall := (((H.release.resumeSaves h).promote).startFallbacks).settle h

/-- The same at array cycle cyc, with the times of R318 booked and core c's waiting contexts admitted. -/
def State.afterAt (s : State) (h : HallId) (c cyc : Nat) : State :=
  (s.onHall h fun H => ((Hall.admitCtx 32 ((H.onward cyc).after h.idx) h.idx c cyc).settle h.idx).book h.idx cyc).pinCheck h

/-! ### Fetch -/

/-- R307: the live-range list of a cheap point breaks its rules. -/
def Hall.liveBad (H : Hall) (x : Ctx) (live : Nat) : Bool :=
  if x.desc.liveCount ≤ live then true
  else
    let bs := (H.gal x.desc.gallery).store.read (x.desc.liveTable + 64 * live) 64
    let n := fld bs 0 1
    decide (15 < n) || !zeros bs 1 3
      || (List.range (min 15 n)).any (fun i => bits (fld bs (4 + 4 * i) 4) 14 2 != 0 || bits (fld bs (4 + 4 * i) 4) 30 2 != 0)
      || (H.liveRanges x live).any fun r => !footprintOk x.desc.footprint r.1 r.2

/-- R282, R283, R307, R320: the lowest fault of a descriptor as it enters its queue at position pos. -/
def Hall.headerFault (H : Hall) (h : Nat) (x : Ctx) (pos : Nat) (d : List Byte) : Option Nat :=
  let op := fld d 0 1
  let fl := fld d 1 1
  let wait := bit fl 0
  let sig := bit fl 1
  let live := fld d 10 2
  lowest [((engineOf d).isNone, 0x0101),
    (bits fl 5 3 != 0 || !zeros d 12 4 || fld d 2 2 != pos % 65536 || (wait && live == 0xFFFF)
      || ((op == 1 || op == 2) && !zeros d 16 48), 0x0102),
    ((wait && !H.cellOk h x.part (galOf x.core) (fld d 4 2)) || (sig && !H.cellOk h x.part (galOf x.core) (fld d 8 2)), 0x0103),
    (wait && live != 0xFFFF && H.liveBad x live, 0x0104)]

/-- R288: a publication has not ended whose bytes the fetch of position pos reads: the descriptor, or its live-range list. -/
def Hall.fetchHeld (H : Hall) (h : Nat) (x : Ctx) (pos : Nat) : Bool :=
  let span := fun (a : Nat) => (Place.gal x.desc.gallery, a, a + 63)
  let own :=
    if x.desc.streamTier = 0 then [span (x.desc.streamAddr + 64 * pos)]
    else ((H.extentAddr h x.dom (64 * (x.desc.streamAddr + pos)) 64).map fun a => (Place.dram, a, a + 63)).toList
  let live := ((H.streamBytes h x pos).map fun d => span (x.desc.liveTable + 64 * fld d 10 2)).toList
  !(H.publishers (own ++ live)).isEmpty

/-- R536: the fault of reading a descriptor from a gallery-store stream. -/
def Hall.streamFault (H : Hall) (x : Ctx) (pos : Nat) : Option Nat :=
  if x.desc.streamTier = 0 then (H.gal x.desc.gallery).store.readFault (x.desc.streamAddr + 64 * pos) 64 else none

/-- R315: a Done command that a moved context runs again. -/
def Hall.rerunnable (H : Hall) (h : Nat) (x : Ctx) (d : List Byte) : Bool :=
  let op := fld d 0 1
  let outs := (rangesOf H h x d).2.filter Rng.some?
  !(([1, 2, 0x11, 0x12, 0x31, 0x32, 0x41] : List Nat).contains op)
    && !(op == 0x40 && !(RecCmd.ofDesc d).noOut)
    && !(op == 0x10 && (CopyCmd.ofDesc d).dst.kind == 5)
    && !outs.isEmpty && outs.all fun r => r.place == .op x.core

/-- R350: a waiting command is tested against its cell as it enters the queue. -/
def Hall.testWait (H : Hall) (ctx : Nat) (k : Cmd) : Hall :=
  if k.waitDone || decide (H.cell k.waitCell < k.waitN) then H
  else
    let H1 := if k.take then H.takeCell k.waitCell k.waitN else H
    H1.satisfy ctx k.pos

/-- R284, R285: the context's sequencer fetches its next command, checks its header and places it in a queue; a position that R315 skips
is passed over. -/
def State.fetch (s : State) (h : HallId) (ctx cyc : Nat) : State :=
  let H := s.hall h
  match H.ctx ctx with
  | none => s
  | some x =>
    if !(x.placed && x.st == .resident && x.fetching && decide (x.cmds.length < 8) && H.coreRuns x.core) || H.fetchHeld h.idx x x.fetch then s
    else
      let pos := x.fetch
      match if pos < x.desc.streamLen then H.streamBytes h.idx x pos else none with
      | none => (s.faultCmd h x pos 0 0x0106 0 0 0).afterAt h x.core cyc
      | some d =>
        let op := fld d 0 1
        let done := decide (pos < x.replayTo) && (decide (pos < x.horizon) || x.replayDone.contains pos)
        match H.streamFault x pos with
        | some c => (s.faultCmd h x pos op c 0 0 0).afterAt h x.core cyc
        | none =>
          if done && !H.rerunnable h.idx x d then
            s.onHall h fun H => H.onCtx ctx fun y =>
              { y with fetch := pos + 1, acct := { y.acct with replays := y.acct.replays + 1 } }
          else
            match H.headerFault h.idx x pos d with
            | some c => (s.faultCmd h x pos op c 0 0 0).afterAt h x.core cyc
            | none =>
              let k : Cmd :=
                { pos := pos, serial := H.serial, desc := d, waitDone := !(bit (fld d 1 1) 0) || done || x.waitsMet.contains pos,
                  stage := .queued, enq := cyc, issued := 0, commit := 0, killReq := none, killAt := 0, lockWaited := false,
                  kills := ((x.killsHad.find? fun e => e.1 == pos).map (·.2)).getD 0,
                  slotWaited := false, haloHeld := false, readyAt := none, suppress := done, poisoned := none,
                  built := Built.empty }
              let s1 := s.onHall h fun H =>
                ({ H with serial := H.serial + 1 }.onCtx ctx fun y =>
                  { y with
                    fetch := pos + 1
                    fetching := op != 1
                    cmds := y.cmds ++ [k]
                    acct := { y.acct with replays := y.acct.replays + b2n done } }).testWait ctx k
              s1.afterAt h x.core cyc

/-! ### Issue -/

/-- R292: the command that an engine of core c takes next among those that `want` accepts, with its context. -/
def Hall.pick (H : Hall) (h c cyc : Nat) (want : List Byte → Bool) : Option (Ctx × Cmd) :=
  ([1, 2, 3] : List Nat).findSome? fun e =>
    match H.choice h c e cyc with
    | some y => if want y.2.desc then some y else none
    | none => none

/-- R284, R318: hall H1, in which the issue has reserved what it needs, with command k of context x Running from cycle cyc on what it has
built, and its wait booked. -/
def Hall.started (H1 : Hall) (x : Ctx) (k : Cmd) (b : Built) (cyc : Nat) : Hall :=
  H1.onCtx x.num fun y =>
    { y.onCmd k.pos fun j =>
        { j with stage := .running, issued := cyc, built := { b with awaits := H1.publishers b.ins }, readyAt := none } with
      acct := { y.acct with readyCycles := y.acct.readyCycles + (match k.readyAt with | some t => if k.suppress then 0 else cyc - t | none => 0) } }

/-- R284, R298: an engine of core c takes the command that R292 chooses, where `want` accepts its descriptor; `run` is its chapter's
issue. One that would pin a frame beyond what PINS counts waits (R343). -/
def State.issue (s : State) (h : HallId) (c cyc : Nat) (want : List Byte → Bool)
    (run : Hall → Hall → Ctx → Cmd → Except Nat (Hall × Built)) : State :=
  let H := (s.hall h).onward cyc
  match H.pick h.idx c cyc want with
  | none => s
  | some (x, k) =>
    match run H H.settled x k with
    | .error code => (s.faultCmd h x k.pos k.op code k.kills (cyc - k.enq) (routeStop H h.idx x k.desc)).afterAt h c cyc
    | .ok (H1, b) => if H.pinsFull b then s else (s.onHall h fun _ => H1.started x k b cyc).afterAt h c cyc

/-- An issue that reserves nothing in the hall. -/
def plainIssue (f : Hall → Ctx → Cmd → Issue) (H R : Hall) (x : Ctx) (k : Cmd) : Except Nat (Hall × Built) :=
  match f R x k with
  | .error e => .error e
  | .ok b => .ok (H, b)

/-- R166: where a command's random bits begin. -/
def seedOf (h : Nat) (k : Cmd) : Nat := ((k.serial * 65536 + k.kills) * 2 + h) * 2 ^ 40

/-! ### Resets of a core or gallery -/

/-- R57, R59: a partition one of whose galleries has lost a core or its work runs under the monitor for FENCE_CHANGE; both halves of a paired one do,
while the partner is alive (R82: both stewards hold the same counts). -/
def State.fenceChange (s : State) (h : HallId) (g : Nat) : State :=
  let H := s.hall h
  let mark := fun (p : Nat) (H : Hall) => H.onPart p fun x => { x with monitor := x.monitor ||| 4 }
  match (H.gal g).partition with
  | none => s
  | some p =>
    let s1 := s.onHall h (mark p)
    let both := H.stair.alive && !H.stair.lost && match H.partEntry p with | some (e : PartEntry) => e.paired | none => false
    if both then s1.onHall h.other (mark p) else s1

/-- R298, R295: a Running command's kill is complete: everything is released; what follows depends on its cause. -/
def State.killed (s : State) (h : HallId) (x : Ctx) (k : Cmd) (cause : KillCause) (cyc : Nat) : State :=
  let s1 := s.onHall h fun H => (H.releaseRun x.num k cyc cause.reruns true).countKill x.core cause
  match cause with
  | .cancel =>
    (s1.onHall h fun H => H.onCtx x.num fun y => { y with lastFault := 0x0108 }).complete h x k.seq
      (recordBytes k.seq k.op 0 0x0108 k.kills (b2n x.moved) 0 (k.issued - k.enq))
  | .overrun => s1.faultCmd h x k.pos k.op 0x0107 k.kills (k.issued - k.enq) 0
  | _ => s1

/-- R295: every command of the core that has not reached its commit point is killed; where a kill has been requested of it for a cause that stands
over the fence, it ends as that cause says. -/
def State.killCore (s : State) (h : HallId) (c cyc : Nat) : State :=
  ((s.hall h).ctxs.filter fun x => x.core == c).foldl (fun s x =>
    (x.cmds.filter fun k => k.stage == .running).foldl (fun s k => s.killed h x k (k.fenceCause cyc) cyc) s) s

/-- A core's memories after the fill of R535 or R536. -/
def Core.filled (k : Core) (wbr : Bool) : Core :=
  { Core.reset with op := if wbr then Store.unwritten else Store.zero, lastCommit := k.lastCommit }

/-- R314: the contexts of a core that is fenced move, and the lost ones are reported. -/
def State.moveOff (s : State) (h : HallId) (c cyc : Nat) : State :=
  let H := s.hall h
  let r := H.moveAll h.idx c cyc
  let s1 := s.onHall h fun _ => r.1
  r.2.foldl (fun s n =>
    match H.ctx n with
    | none => s
    | some x =>
      let s2 := s.onHall h fun H => H.onCtx n fun y => { y with lastFault := 0x0109 }
      let s3 := match x.cmds with
        | k :: _ => s2.complete h x k.seq (recordBytes k.seq k.op 0 0x0109 k.kills (b2n x.moved) 0 (cyc - k.enq))
        | [] => s2
      s3.ctxEvent h x 6) s1

/-- R58: gallery g is fenced: every core bit set, its contexts moved. -/
def State.fenceGallery (s : State) (h : HallId) (g cyc : Nat) : State :=
  let s0 := (List.range 12).foldl (fun s i => s.killCore h (12 * g + i) cyc) s
  let s1 := s0.onHall h fun H =>
    H.onGal g fun G =>
      { G with st := .fenced, fence := Voted.all 0xFFF, galFence := true, fenceDue := H.swp.boundaryDue
               strikes := modAt G.strikes 0 fun n => min 3 (n + 1), clean := modAt G.clean 0 fun _ => 0 }
  (List.range 12).foldl (fun s i => s.moveOff h (12 * g + i) cyc) (s1.fenceChange h g)

/-- R57, R529, R531: core c resets: killed, fenced, one strike more, its contexts moved; below 6 unfenced cores its gallery is fenced. -/
def State.coreReset (s : State) (h : HallId) (c cyc : Nat) : State :=
  let g := galOf c
  let i := c % 12
  let s1 := (s.killCore h c cyc).onHall h fun H =>
    let H2 := H.onCore c fun k => k.filled (H.gal g).wbr
    H2.onGal g fun G =>
      { G with
        fence := Voted.all (G.fence.val ||| BitVec.ofNat 12 (2 ^ i))
        rejoin := G.rejoin &&& ~~~(BitVec.ofNat 12 (2 ^ i))
        resetting := G.resetting ||| BitVec.ofNat 12 (2 ^ i)
        strikes := modAt G.strikes i fun n => min 3 (n + 1)
        clean := modAt G.clean i fun _ => 0 }
  let s2 := (s1.fenceChange h g).moveOff h c cyc
  let G := (s2.hall h).gal g
  let free := ((List.range 12).filter fun j => !(G.fence.val.getLsbD j)).length
  if free < 6 && G.st == .run then s2.fenceGallery h g cyc else s2

/-- R532: a core reset falls due: it waits while a publication into a tier outside the core runs. -/
def State.coreResetDue (s : State) (h : HallId) (c cyc : Nat) : State :=
  let H := s.hall h
  let G := H.gal (galOf c)
  if G.galResetting then s
  else if H.ctxs.any fun x => x.core == c && x.cmds.any fun k =>
      k.stage == .publishing && k.built.writes.any fun w => w.place != .op c then
    s.onHall h fun H => H.onCore c fun k => { k with resetDue := true }
  else s.coreReset h c cyc

/-- R529, R530: gallery g resets: its store, local cells and cores; its frames and slots are handled under R345 and R212. -/
def State.galleryReset (s : State) (h : HallId) (g cyc : Nat) : State :=
  let s1 := s.fenceGallery h g cyc
  s1.onHall h fun H =>
    let H1 := (List.range 12).foldl (fun H i => H.onCore (12 * g + i) fun k => k.filled (H.gal g).wbr) H
    let H2 := H1.storeLostFrames g
    let H3 := H2.onGal g fun G =>
      { G with store := if G.wbr then Store.unwritten else Store.zero, galResetting := true, resetting := 0, rejoin := 0, ptr := 0 }
    { H3 with mem := { H3.mem with cells := H3.mem.cells.filter fun e => !(decide (e.1 < 8192) && e.1 / 1024 == g) } }

/-! ### Commit, publication, kill -/

/-- R118: a command of a slot has committed in cycle cyc: it counts, and the prediction is made again. -/
def Hall.slotCommit (H : Hall) (x : Ctx) (cyc : Nat) : Hall :=
  match x.slot with
  | none => H
  | some o =>
    match H.activeRun x.part o.table o.slot with
    | none => H
    | some r =>
      let H1 := H.onRun r fun r => { r with committed := r.committed + 1 }
      match (H1.image.bind fun im => im.table o.table) with
      | none => H1
      | some t =>
        match t.slot o.slot with
        | none => H1
        | some s => (H1.predict x.part t s { r with committed := r.committed + 1 } (H1.tbAt cyc)).startFallbacks

/-- R357: the PLACE commands of this cycle apply once more, after a commit on their streams. -/
def Hall.replace (H : Hall) : Hall := H.placed.foldl (fun H p => H.placeStreams p.1 p.2.1 p.2.2) H

/-- R200, R206, R210, R357: what a command does to caches, streams, frames and slots as it commits. -/
def Hall.commitDevice (H : Hall) (h : Nat) (x : Ctx) (k : Cmd) : Hall :=
  let b := k.built
  let kv := b.create.isSome || b.destroy.isSome || !b.streams.isEmpty || !b.resFrames.isEmpty
  let H1 := if kv then ((H.commitKv h x k).replace).holdsChanged x.cls else H
  let H2 := match b.place with
    | some (f, n, hold) => (({ H1 with placed := H1.placed ++ [(f, n, hold)] } : Hall).placeStreams f n hold).holdsChanged x.cls
    | none => H1
  H2.onCtx x.num fun y => y.onCmd k.pos fun j => { j with built := { j.built with resFrames := [] } }

/-- R284: from the commit point on a command holds its region only. -/
def Hall.unlock (H : Hall) (x : Ctx) (k : Cmd) : Hall :=
  H.onCtx x.num fun y => y.onCmd k.pos fun j =>
    { j with built := { j.built with resSlots := [], streamLocks := [], blockLocks := [], pins := [] } }

/-- R243: what a pinning command of a context whose save waits on it will publish into the operand store is saved with the block. -/
def Hall.saveLate (H : Hall) (x : Ctx) (k : Cmd) : Hall :=
  if x.swap != .pinWait then H
  else
    let outs := k.built.writes.filterMap fun w => if w.place == .op x.core && !w.data.isEmpty then some (w.addr, w.data.length) else none
    H.onCtx x.num fun y => { y with saved := y.saved.map fun s => { s with late := s.late ++ outs.filter fun r => !(s.late.contains r) } }

/-- R227: the run of a command ends in a fault where its commit point would have been. -/
def State.endRun (s : State) (h : HallId) (x : Ctx) (k : Cmd) (code cyc : Nat) : State :=
  (s.onHall h fun H => (H.letGo x.core k cyc).countBusy x.core k.desc (cyc - k.issued)).faultCmd h x k.pos k.op code k.kills (k.issued - k.enq) 0

/-- R287, R293, R299, R288, R211: a Running command has its commit point in cycle cyc: its run is over, no kill was requested in an earlier cycle, what it
reads has been published, and no command has issued in that cycle on what it changes. -/
def Hall.commits (H : Hall) (k : Cmd) (cyc : Nat) : Bool :=
  k.stage == .running && !(k.killReq.isSome && decide (k.killAt < cyc)) && decide (k.issued + k.built.run ≤ cyc) && !H.reading k && !H.outOfTurn k cyc

/-- R287, R299: the commit point of a Running command. A halo band whose receiver
reads it is held (R266). -/
def State.commitPoint (s : State) (h : HallId) (ctx pos cyc : Nat) : State :=
  let H := (s.hall h).onward cyc
  match H.ctx ctx with
  | none => s
  | some x =>
    match x.cmd pos with
    | none => s
    | some k =>
      if !H.commits k cyc then s
      else if k.built.ends.isSome then
        ((s.onHall h fun _ => H).endRun h x k (k.built.ends.getD 0) cyc).afterAt h x.core cyc
      else if H.haloConflict x k then
        if k.haloHeld then s
        else
          s.onHall h fun H =>
            let g := galOf x.core
            ((H.onGal g fun G => { G with haloHolds := inc16 G.haloHolds }).count (1152 + 16 * g + 3) 1).onCtx ctx fun y =>
              y.onCmd pos fun j => { j with haloHeld := true }
      else
        (s.onHall h fun _ =>
          let H1 := (H.commit x k cyc).saveLate x k
          (if k.suppress then H1 else (H1.commitDevice h.idx x k).slotCommit x cyc).unlock x k).afterAt h x.core cyc

/-- R315: a position becomes Done. -/
def Ctx.markDone (x : Ctx) (pos : Nat) : Ctx :=
  let m := if pos < x.horizon then x.doneMask else sins x.doneMask pos
  let r := m.foldl (fun (a : Nat × List Nat) p => if p = a.1 then (a.1 + 1, a.2) else (a.1, a.2 ++ [p])) (x.horizon, [])
  { x with horizon := r.1, doneMask := r.2 }

/-- R351: local cells that a publication of core c has reached in this cycle, by its SETs or by its signals. -/
def Hall.noteStruck (H : Hall) (c : Nat) (sets signals : List (Nat × Nat)) : Hall :=
  let l : List (Nat × Option Nat) := (sets.map fun e => (e.1, some c)) ++ signals.map fun e => (e.1, none)
  { H with struck := H.struck ++ l.filter fun e => decide (e.1 < 8192) }

/-- R351: the SETs of a publication that ends on core c come after a signal to their cell, or after the SET of a higher core, of the same cycle. -/
def Hall.struckLater (H : Hall) (c : Nat) (sets : List (Nat × Nat)) : Bool :=
  sets.any fun e => H.struck.any fun q => q.1 == e.1 && match q.2 with
    | none => true
    | some d => decide (c < d)

/-- R288: the signals of a command's publication: SIGNAL_CELL's, then its own. -/
def Cmd.signals (k : Cmd) : List (Nat × Nat) := (if k.signalEn then [(k.signalCell, 1)] else []) ++ k.built.signals

/-- R288: the effects of a publication's end, in order: bytes; SETs and signals (R351); Stair messages. A rerun of a Done command has only its bytes
(R315). -/
def Hall.publishAll (H : Hall) (h : Nat) (x : Ctx) (k : Cmd) : Hall :=
  let b := k.built
  let H1 := H.publishBytes b
  if k.suppress then H1
  else
    let H2 := b.pages.foldl (fun H p => H.frameFill p.1 p.2) H1
    let H3 := (H2.strikeAll h b.sets k.signals).noteStruck x.core b.sets k.signals
    b.stair.foldl (fun H m => H.sendStair m) H3

/-- R284, R289: a command becomes Done: its record, its account, its context's horizon. -/
def State.finish (s : State) (h : HallId) (x : Ctx) (k : Cmd) (cyc : Nat) : State :=
  let s1 :=
    if k.report && !k.suppress then
      s.complete h x k.seq (recordBytes k.seq k.op k.built.nstat 0 k.kills (b2n x.moved) (k.commit - k.issued) (k.issued - k.enq))
    else s
  let s2 := s1.onHall h fun H => H.onCtx x.num fun y =>
    { y.markDone k.pos with
      cmds := y.cmds.filter fun j => j.pos != k.pos
      acct := if k.suppress then y.acct else { y.acct with committed := y.acct.committed + 1 } }
  let s3 :=
    if k.op ≠ 1 then s2
    else s2.onHall h fun H => if x.slot.isSome then H.idleCtx x.num cyc else H.endCtx x.num .ended cyc
  s3.onHall h fun H =>
    match x.slot with
    | some o => H.startFallbacks.slotCheck h.idx x.part o.table o.slot cyc
    | none => H

/-- R533: the words of a publication with the word at commit-buffer address `a` written as POISON. -/
def Hall.poisonWord (H : Hall) (k : Cmd) (a : Nat) : Hall :=
  let ws := k.built.writes.flatMap fun w => (wordsOf w.addr w.data.length).map fun i => (w.place, i)
  match ws[Config.publishedWord a ws.length % max 1 ws.length]? with
  | some (.op c, i) => H.onCore c fun o => { o with op := o.op.setPoison i }
  | some (.gal g, i) => H.onGal g fun G => { G with store := G.store.setPoison i }
  | some (.dram, _) => H
  | none => H

/-- R287, R34, R351: a publication ends in cycle cyc: its last byte has been sent, those sent before it on its way have ended, and its SETs come in their
turn. -/
def Hall.ends (H : Hall) (x : Ctx) (k : Cmd) (cyc : Nat) : Bool :=
  k.stage == .publishing && decide (k.commit + pubTime x k.built ≤ cyc) && !H.behind x k && !H.struckLater x.core k.built.sets

/-- R288: publication ends. -/
def State.publicationEnd (s : State) (h : HallId) (ctx pos cyc : Nat) : State :=
  let H := (s.hall h).onward cyc
  match H.ctx ctx with
  | none => s
  | some x =>
    match x.cmd pos with
    | none => s
    | some k =>
      if !H.ends x k cyc then s
      else
        let s1 :=
          match k.poisoned with
          | some a =>
            let s1 := s.onHall h fun _ => (H.publishBytes k.built).poisonWord k a
            s1.onHall h fun H => H.onCore x.core fun c => { c with resetDue := true }
          | none => (s.onHall h fun _ => H.publishAll h.idx x k).finish h x k cyc
        let s2 :=
          if ((s1.hall h).core x.core).resetDue then
            let s' := s1.onHall h fun H => (H.onCore x.core fun c => { c with resetDue := false }).onCtx ctx fun y =>
              { y with cmds := y.cmds.filter fun j => !(j.pos == pos && j.poisoned.isSome) }
            s'.coreResetDue h x.core cyc
          else s1
        s2.afterAt h x.core cyc

/-- R283: SYNC or END, at the head of its context's queue with its wait satisfied, commits at once. -/
def State.sequencer (s : State) (h : HallId) (ctx op cyc : Nat) : State :=
  match (s.hall h).ctx ctx with
  | none => s
  | some x =>
    match x.cmds with
    | [] => s
    | k :: _ =>
      if k.op ≠ op || !k.waitDone || !x.placed || k.stage ≠ .queued then s
      else
        let k1 := { k with issued := cyc, commit := cyc }
        let s1 := s.onHall h fun H0 =>
          let H := H0.onward cyc
          let H1 := H.onCore x.core fun c => { c with lastCommit := some (x.num, k.op, k.seq) }
          let H2 := (H1.count (12 * x.core + 7) 1).sampleCommit x.core x.num k.op k.seq
          (if k.suppress then H2 else H2.slotCommit x cyc).publishAll h.idx x k1
        (s1.finish h x k1 cyc).afterAt h x.core cyc

/-- R291: a Running command has worked 65,536 cycles: it is killed, ends with CMD_OVERRUN, and is logged. -/
def State.overrun (s : State) (h : HallId) (ctx pos cyc : Nat) : State :=
  let H := s.hall h
  match H.ctx ctx with
  | none => s
  | some x =>
    match x.cmd pos with
    | none => s
    | some k =>
      if k.stage ≠ .running || decide (cyc < k.issued + 65536) then s
      else
        s.onHall h fun H => ((H.onward cyc).requestKill ctx pos .overrun).addLog 0x0403 x.core ctx 0

/-- R298: a requested kill is complete: everything is released; what follows depends on its cause (R295). -/
def State.killComplete (s : State) (h : HallId) (ctx pos cyc : Nat) : State :=
  let H := s.hall h
  match H.ctx ctx with
  | none => s
  | some x =>
    match x.cmd pos with
    | none => s
    | some k =>
      match k.stage, k.killReq with
      | .running, some cause => (s.killed h x k cause cyc).afterAt h x.core cyc
      | _, _ => s

/-- R154: a run's loads into bank b leave nothing VALID behind. -/
def Built.dropBank (b : Built) (n : Nat) : Built := { b with bankLoads := b.bankLoads.filter fun e => e.bank != n }

/-- R154: an uncorrectable error in a read of a weight bank, or of its sidecar: VALID clears, the error counts, the array's command is
killed; the second takes the bank out of service, and below 4 banks the core resets. -/
def State.bankError (s : State) (h : HallId) (c b : Nat) (cyc : Nat) : State :=
  let s1 := s.onHall h fun H0 =>
    let H := H0.onward cyc
    let H0 := H.onCore c fun k =>
      { k with
        bankErr := inc8 k.bankErr
        banks := modAt k.banks b fun x =>
          { x with valid := false, sideValid := false, errs := x.errs + 1, off := x.off || decide (1 ≤ x.errs) } }
    let H1 : Hall := { H0 with ctxs := H0.ctxs.map fun (x : Ctx) =>
      if x.core = c then { x with cmds := x.cmds.map fun k => { k with built := k.built.dropBank b } } else x }
    (H1.engineHolders c 1).foldl (fun H e => H.requestKill e.1.num e.2.pos .bank) H1
  let n := (((s1.hall h).core c).banks.filter fun x => !x.off).length
  if n < 4 then s1.coreResetDue h c cyc else s1

/-! ### A command of the block -/

/-- R541: the fault pins as the causes of both halls ask. -/
def State.pins (s : State) : State := (s.pinCheck .a).pinCheck .b

/-- R579: the occupancy sources of hall h that are not empty, by number, each with its value; `far` is the other end of the Stair, whose sent
and untaken flits this hall's receive pools hold. Sources 192 to 247 are below the array cycle that the model sees (DESIGN CHOICE 260). -/
def Hall.occupancy (H : Hall) (h : Nat) (far : Stair) : List (Nat × Nat) :=
  let queues := (List.range 96).map fun c =>
    (c, (H.ctxs.filter fun (x : Ctx) => x.core == c).foldl
      (fun a (x : Ctx) => a + x.cmds.countP fun (k : Cmd) => k.stage == .queued && engineOf k.desc == some 1) 0)
  let blocked := (List.range 96).map fun c => (96 + c, H.ctxs.countP fun (x : Ctx) => x.core == c && x.blocked)
  let pools := (List.range 5).map fun k => (248 + k, far.held k fun _ => true)
  let pieces := (List.range 32).countP fun n =>
    H.cam.piece != some n && match H.ctxCamera h n with | some e => H.pieceReady e | none => false
  let rest := [(253, pieces), (254, H.mem.total - H.mem.free), (255, H.mem.deferred.countP fun (d : Deferred) => d.item.isFrame)]
  (queues ++ blocked ++ pools ++ rest).filter fun e => decide (0 < e.2)

/-- R577, R579: what the array cycles since `old` add: to each threshold counter whose source exceeded N in them, and to the count of cycles with
CREDIT_STALL set (DESIGN CHOICE 318: a source keeps its value from one command to the next). -/
def Hall.tally (H old : Hall) (h : Nat) (far : Stair) : Hall :=
  let dt := H.now - old.now
  if dt = 0 || !old.dev.up then H
  else
    let H1 := (old.occupancy h far).foldl
      (fun (H : Hall) e => if tget old.cnt.thresh e.1 < e.2 then H.count (1792 + e.1) dt else H) H
    if old.stair.creditStall then H1.count (1536 + 14) dt else H1

/-- R579: both halls' cycle counts after the cycles that a command has brought. -/
def State.tallied (t s : State) : State :=
  { t with a := t.a.tally s.a 0 s.b.stair, b := t.b.tally s.b 1 s.a.stair }

/-- R468, R541, R579: a command's effects fall in one cycle, the fault pins follow them, and the cycles up to it are counted. -/
def State.whole (s : State) (f : State → State) : State := s.inCycle fun s => (f s).pins.tallied s

/-- R613: nothing happens while the package is held in reset. -/
def State.live (s : State) (f : State → State) : State := if s.por then s else s.whole f

/-- What needs hall h's steward to run. -/
def State.ifUp (s : State) (h : HallId) (f : State → State) : State := if (s.hall h).dev.up then f s else s

/-- What happens within hall h alone, while its steward runs. -/
def State.inHall (s : State) (h : HallId) (f : Hall → Hall) : State := s.ifUp h fun s => s.onHall h f

/-- The latest count of the 32.768 kHz timebase that a command has carried. -/
def State.atVt (s : State) (vt : Nat) : State := { s with pkg := { s.pkg with now := vt } }

end Sys2Proof.Machine
end

