-- ==== Sys2Proof/Machine/Array.lean ====
section
/-! DEFINITION. The commands of the cores (04 to 10): fetch, the issue of each descriptor, commit, publication, kill, admission and
swaps. -/

namespace Sys2Proof.Machine

/-- R285: a descriptor has this OPCODE. -/
def opIs (op : Nat) (d : List Byte) : Bool := fld d 0 1 == op

/-- A descriptor has this OPCODE and SUBOP, or a reserved SUBOP above `last`, with which any row of the opcode issues it to its fault. -/
def opSub (op sub last : Nat) (d : List Byte) : Bool := opIs op d && (fld d 16 1 == sub || decide (last < fld d 16 1))

/-- R284: context ctx fetches its next command. -/
def execCommandFetch (h : HallId) (ctx cyc : Nat) (s : State) : Host.Outcome State Fault Refusal := .next (s.live fun s => s.fetch h ctx cyc)

/-- R283: END at the head of its queue. -/
def execEndStream (h : HallId) (ctx cyc : Nat) (s : State) : Host.Outcome State Fault Refusal := .next (s.live fun s => s.sequencer h ctx 1 cyc)

/-- R283: SYNC at the head of its queue. -/
def execSync (h : HallId) (ctx cyc : Nat) (s : State) : Host.Outcome State Fault Refusal := .next (s.live fun s => s.sequencer h ctx 2 cyc)

/-- R354: core c's engine takes the COPY that R292 chooses. -/
def execCopy (h : HallId) (c cyc : Nat) (s : State) : Host.Outcome State Fault Refusal :=
  .next (s.live fun s => s.issue h c cyc (opIs 0x10) (fun H R x k => issueCopy H R h.idx x k.desc))

/-- R339: core c's engine takes the PLACE with HOLD that R292 chooses. -/
def execPlaceHold (h : HallId) (c cyc : Nat) (s : State) : Host.Outcome State Fault Refusal :=
  .next (s.live fun s => s.issue h c cyc (opSub 0x11 0 1) (plainIssue fun R x k => issuePlace R x k.desc))

/-- R339: core c's engine takes the PLACE with RELEASE that R292 chooses. -/
def execPlaceRelease (h : HallId) (c cyc : Nat) (s : State) : Host.Outcome State Fault Refusal :=
  .next (s.live fun s => s.issue h c cyc (opSub 0x11 1 1) (plainIssue fun R x k => issuePlace R x k.desc))

/-- R358: core c's engine takes the CELL_OP with SET that R292 chooses. -/
def execCellOpSet (h : HallId) (c cyc : Nat) (s : State) : Host.Outcome State Fault Refusal :=
  .next (s.live fun s => s.issue h c cyc (opSub 0x12 0 2) (plainIssue fun R x k => issueCell R h.idx x k.desc))

/-- R358: core c's engine takes the CELL_OP with ADD that R292 chooses. -/
def execCellOpAdd (h : HallId) (c cyc : Nat) (s : State) : Host.Outcome State Fault Refusal :=
  .next (s.live fun s => s.issue h c cyc (opSub 0x12 1 2) (plainIssue fun R x k => issueCell R h.idx x k.desc))

/-- R358: core c's engine takes the CELL_OP with FAR_SIGNAL that R292 chooses. -/
def execFarSignal (h : HallId) (c cyc : Nat) (s : State) : Host.Outcome State Fault Refusal :=
  .next (s.live fun s => s.issue h c cyc (opSub 0x12 2 2) (plainIssue fun R x k => issueCell R h.idx x k.desc))

/-- R146: core c's engine takes the MATRIX that R292 chooses. -/
def execMatrix (h : HallId) (c cyc : Nat) (s : State) : Host.Outcome State Fault Refusal :=
  .next (s.live fun s => s.issue h c cyc (opIs 0x20) (plainIssue fun R x k => issueMatrix R h.idx x k.desc))

/-- R218: core c's engine takes the ATTN that R292 chooses. -/
def execAttn (h : HallId) (c cyc : Nat) (s : State) : Host.Outcome State Fault Refusal :=
  .next (s.live fun s => s.issue h c cyc (opIs 0x30) (fun H R x k => issueAttn H R h.idx x k.serial k.desc))

/-- R200: core c's engine takes the KV_APPEND that R292 chooses. -/
def execKvAppend (h : HallId) (c cyc : Nat) (s : State) : Host.Outcome State Fault Refusal :=
  .next (s.live fun s => s.issue h c cyc (opIs 0x31) (fun H R x k => issueAppend H R h.idx x k.desc))

/-- R207: core c's engine takes the KV_PAGEOP with CREATE that R292 chooses. -/
def execKvPageopCreate (h : HallId) (c cyc : Nat) (s : State) : Host.Outcome State Fault Refusal :=
  .next (s.live fun s => s.issue h c cyc (opSub 0x32 0 5) (fun H R x k => issuePage H R h.idx x k.desc))

/-- R206: core c's engine takes the KV_PAGEOP with DESTROY that R292 chooses. -/
def execKvPageopDestroy (h : HallId) (c cyc : Nat) (s : State) : Host.Outcome State Fault Refusal :=
  .next (s.live fun s => s.issue h c cyc (opSub 0x32 1 5) (fun H R x k => issuePage H R h.idx x k.desc))

/-- R208: core c's engine takes the KV_PAGEOP with FORK that R292 chooses. -/
def execKvPageopFork (h : HallId) (c cyc : Nat) (s : State) : Host.Outcome State Fault Refusal :=
  .next (s.live fun s => s.issue h c cyc (opSub 0x32 2 5) (fun H R x k => issuePage H R h.idx x k.desc))

/-- R206: core c's engine takes the KV_PAGEOP with DROP that R292 chooses. -/
def execKvPageopDrop (h : HallId) (c cyc : Nat) (s : State) : Host.Outcome State Fault Refusal :=
  .next (s.live fun s => s.issue h c cyc (opSub 0x32 3 5) (fun H R x k => issuePage H R h.idx x k.desc))

/-- R209: core c's engine takes the KV_PAGEOP with TRUNCATE that R292 chooses. -/
def execKvPageopTruncate (h : HallId) (c cyc : Nat) (s : State) : Host.Outcome State Fault Refusal :=
  .next (s.live fun s => s.issue h c cyc (opSub 0x32 4 5) (fun H R x k => issuePage H R h.idx x k.desc))

/-- R206: core c's engine takes the KV_PAGEOP with SEAL that R292 chooses. -/
def execKvPageopSeal (h : HallId) (c cyc : Nat) (s : State) : Host.Outcome State Fault Refusal :=
  .next (s.live fun s => s.issue h c cyc (opSub 0x32 5 5) (fun H R x k => issuePage H R h.idx x k.desc))

/-- R223: core c's engine takes the ATTN_MERGE that R292 chooses. -/
def execAttnMerge (h : HallId) (c cyc : Nat) (s : State) : Host.Outcome State Fault Refusal :=
  .next (s.live fun s => s.issue h c cyc (opIs 0x33) (plainIssue fun R x k => issueMerge R h.idx x k.desc))

/-- R225: core c's engine takes the ATTN_BWD that R292 chooses. -/
def execAttnBwd (h : HallId) (c cyc : Nat) (s : State) : Host.Outcome State Fault Refusal :=
  .next (s.live fun s => s.issue h c cyc (opIs 0x34) (fun H R x k => issueBwd H R h.idx x k.serial k.desc))

/-- R235: core c's engine takes the REC that R292 chooses. -/
def execRecur (h : HallId) (c cyc : Nat) (s : State) : Host.Outcome State Fault Refusal :=
  .next (s.live fun s => s.issue h c cyc (opIs 0x40) (plainIssue fun R x k => issueRec R h.idx x (seedOf h.idx k) k.desc))

/-- R247: core c's engine takes the STATE_OP with INIT that R292 chooses. -/
def execStateOpInit (h : HallId) (c cyc : Nat) (s : State) : Host.Outcome State Fault Refusal :=
  .next (s.live fun s => s.issue h c cyc (opSub 0x41 0 1) (plainIssue fun R x k => issueState R h.idx x (seedOf h.idx k) k.desc))

/-- R247: core c's engine takes the STATE_OP with ANCHOR that R292 chooses. -/
def execStateOpAnchor (h : HallId) (c cyc : Nat) (s : State) : Host.Outcome State Fault Refusal :=
  .next (s.live fun s => s.issue h c cyc (opSub 0x41 1 1) (plainIssue fun R x k => issueState R h.idx x (seedOf h.idx k) k.desc))

/-- R256: core c's engine takes the CONV that R292 chooses. -/
def execConv (h : HallId) (c cyc : Nat) (s : State) : Host.Outcome State Fault Refusal :=
  .next (s.live fun s => s.issue h c cyc (opIs 0x50) (plainIssue fun R x k => issueConv R h.idx x k.desc))

/-- R266: core c's engine takes the HALO that R292 chooses. -/
def execHaloSend (h : HallId) (c cyc : Nat) (s : State) : Host.Outcome State Fault Refusal :=
  .next (s.live fun s => s.issue h c cyc (opIs 0x51) (plainIssue fun R x k => issueHalo R h.idx x k.desc))

/-- R269: core c's engine takes the CROP_RESIZE that R292 chooses. -/
def execCropResize (h : HallId) (c cyc : Nat) (s : State) : Host.Outcome State Fault Refusal :=
  .next (s.live fun s => s.issue h c cyc (opIs 0x52) (plainIssue fun R x k => issueCrop R h.idx x k.desc))

/-- R271: core c's engine takes the BOX_DECODE that R292 chooses. -/
def execBoxDecode (h : HallId) (c cyc : Nat) (s : State) : Host.Outcome State Fault Refusal :=
  .next (s.live fun s => s.issue h c cyc (opIs 0x53) (plainIssue fun R x k => issueBox R h.idx x k.desc))

/-- R275: core c's engine takes the NMS that R292 chooses. -/
def execNms (h : HallId) (c cyc : Nat) (s : State) : Host.Outcome State Fault Refusal :=
  .next (s.live fun s => s.issue h c cyc (opIs 0x54) (plainIssue fun R x k => issueNms R h.idx x k.desc))

/-- R341: a frame's move commits. -/
def execFrameMoveCommit (h : HallId) (frame : Nat) (s : State) : Host.Outcome State Fault Refusal :=
  .next (s.live fun s => s.onHall h fun H => (H.frameMoveCommit h.idx frame).after h.idx)

/-- R287: the commit point of a running command. -/
def execCommitPoint (h : HallId) (ctx pos cyc : Nat) (s : State) : Host.Outcome State Fault Refusal := .next (s.live fun s => s.commitPoint h ctx pos cyc)

/-- R288: a command's publication ends. -/
def execPublicationEnd (h : HallId) (ctx pos cyc : Nat) (s : State) : Host.Outcome State Fault Refusal :=
  .next (s.live fun s => s.publicationEnd h ctx pos cyc)

/-- R352: a signal arrives at a hall cell. -/
def execHallCellSignal (h : HallId) (s : State) : Host.Outcome State Fault Refusal :=
  .next (s.live fun s => s.onHall h fun H => (H.cellArrive h.idx).after h.idx)

/-- R296, R298: a kill is complete. -/
def execKillComplete (h : HallId) (ctx pos cyc : Nat) (s : State) : Host.Outcome State Fault Refusal := .next (s.live fun s => s.killComplete h ctx pos cyc)

/-- R291: a command has run for 65,536 cycles. -/
def execCmdOverrun (h : HallId) (ctx pos cyc : Nat) (s : State) : Host.Outcome State Fault Refusal := .next (s.live fun s => s.overrun h ctx pos cyc)

/-- R309: admission on core c. -/
def execContextAdmit (h : HallId) (c cyc : Nat) (s : State) : Host.Outcome State Fault Refusal :=
  .next (s.live fun s => (s.onHall h fun H => (H.onward cyc).admitCtx 32 h.idx c cyc).afterAt h c cyc)

/-- R310: a swap-out has saved its context. -/
def execSwapOutDone (h : HallId) (ctx cyc : Nat) (s : State) : Host.Outcome State Fault Refusal :=
  .next (s.live fun s => s.onHall h fun H => (((H.onward cyc).resumeSaves h.idx).swapOutDone h.idx ctx cyc).after h.idx)

/-- R310: a swap-in has restored its context. -/
def execSwapInDone (h : HallId) (ctx cyc : Nat) (s : State) : Host.Outcome State Fault Refusal :=
  let c := (((s.hall h).ctx ctx).map fun (x : Ctx) => x.core).getD 0
  .next (s.live fun s => (s.onHall h fun H => H.swapInDone ctx).afterAt h c cyc)

end Sys2Proof.Machine
end

