-- ==== Sys2Proof/Machine/Capsule.lean ====
section
/-! DEFINITION. Capsules and their responses (14, R450 to R453): the wire form, the answer to a port, and the answer sent across the
Stair for a capsule of the other hall (R456). -/

namespace Sys2Proof.Machine

/-- R450, R451: the bytes of a capsule or response. -/
def capsuleBytes (op cflags tag status session : Nat) (payload : List Byte) : List Byte :=
  let head := fun (crc : Nat) => leBytes 1 op ++ leBytes 1 cflags ++ leBytes 2 tag ++ leBytes 2 payload.length ++ leBytes 2 status
    ++ leBytes 4 session ++ leBytes 2 crc ++ leBytes 2 0
  head (crc16 (head 0 ++ payload)) ++ payload

/-- R481: a partner violation at host port p, with the offset of its HST register. -/
def State.logHst (s : State) (p off : Nat) : State := s.logPort (portHall p) p 0x01FF (portIdx p) off

/-- R452, R467, R482: a response becomes ready at host port p, with its RESPONSE event and what its status counts in. -/
def State.respond (s : State) (p op tag session status : Nat) (payload : List Byte) : State :=
  let s1 := s.onPort p fun P =>
    { P with
      resps := P.resps ++ [⟨tag, capsuleBytes op 1 tag status session payload, 0⟩]
      crc := if status = 1 then inc8 P.crc else P.crc
      malformed := if status = 2 || status = 3 then inc8 P.malformed else P.malformed
      partner := if status = 0xC then inc8 P.partner else P.partner }
  let s2 := if status = 1 || status = 2 || status = 3 then s1.logHst p (4 + 0x10 * portIdx p) else s1
  s2.event p ⟨1, 0, leBytes 2 tag ++ leBytes 2 status ++ leBytes 2 payload.length, false⟩

/-- R456: hall h answers host port p: at once where the port is its own, over CONTROL where it is the other hall's. -/
def State.answer (s : State) (h : HallId) (p op tag session status : Nat) (payload : List Byte) : State :=
  if portHall p = h then s.respond p op tag session status payload
  else s.onHall h fun H => H.tell (.capsuleAnswer p tag status payload)

/-- What a capsule's execution gives. -/
inductive Reply where
  /-- STATUS OK with this payload -/
  | ok (payload : List Byte)
  /-- another STATUS with its DETAIL (R452) -/
  | err (status detail : Nat)
  /-- the response follows later -/
  | later (w : Wait)
  /-- it belongs to the other hall (R456) -/
  | forward
  deriving DecidableEq, Repr

/-- R624: the first rule broken, in order of status; each entry says whether it is broken. -/
def firstErr : List (Bool × Nat × Nat) → Option (Nat × Nat)
  | [] => none
  | (true, st, d) :: _ => some (st, d)
  | (false, _, _) :: r => firstErr r

/-- R453, R624: BAD_PAYLOAD entries in ascending offset. -/
def badAt (off : Nat) (bad : Bool) : Bool × Nat × Nat := (bad, 4, off)

/-- A wait of a port that has been answered is gone: the first that satisfies `f`. -/
def State.dropWait (s : State) (p : Nat) (f : Wait → Bool) : State := s.onPort p fun P => { P with waits := P.waits.eraseP f }

end Sys2Proof.Machine
end

