-- ==== Sys2Proof/Machine/Parse.lean ====
section
/-! DEFINITION. Reading an Aizan image (02, R65 to R80 and the entry formats of the other chapters): header, section table and the
entries of each section. -/

namespace Sys2Proof.Machine

/-- R67: an entry of the section table. -/
structure Section where
  type : Nat
  layout : Nat
  off : Nat
  len : Nat
  entries : Nat
  deriving DecidableEq, Repr

/-- R66: SECTION_COUNT. -/
def sectionCount (bs : List Byte) : Nat := fld bs 0x12 2

/-- R67: the section table. -/
def sectionsOf (bs : List Byte) : List Section :=
  (List.range (min 32 (sectionCount bs))).map fun i =>
    let a := 0x100 + 16 * i
    ⟨fld bs a 2, fld bs (a + 2) 2, fld bs (a + 4) 4, fld bs (a + 8) 4, fld bs (a + 12) 4⟩

/-- The section of a type. -/
def sectionOf (bs : List Byte) (t : Nat) : Option Section := (sectionsOf bs).find? fun s => s.type == t

/-- The body of the section of a type; empty where there is none. -/
def bodyOf (bs : List Byte) (t : Nat) : List Byte :=
  match sectionOf bs t with
  | some s => slice bs s.off s.len
  | none => []

/-- The entries of a section whose entries are `n` bytes long, from byte `at'` of its body on. -/
def fixedEntries (bs : List Byte) (t at' n : Nat) : List (List Byte) :=
  match sectionOf bs t with
  | some s => (List.range s.entries).map fun i => slice bs (s.off + at' + n * i) n
  | none => []

/-- R71. -/
def PartEntry.ofBytes (e : List Byte) : PartEntry :=
  { part := fld e 0 1, kind := fld e 1 1, hall := fld e 2 1, minStair := fld e 3 1, galA := fld e 4 1, galB := fld e 5 1,
    classes := fld e 6 1, lowestOp := fld e 7 1, syncBaseA := fld e 8 2, syncCountA := fld e 10 2, syncBaseB := fld e 12 2,
    syncCountB := fld e 14 2, contextsA := fld e 16 2, contextsB := fld e 18 2, gatherA := fld e 20 2, gatherB := fld e 22 2,
    framesA := fld e 24 4, framesB := fld e 28 4 }

/-- R72. -/
def RouteEntry.ofBytes (e : List Byte) : RouteEntry := ⟨fld e 0 1, fld e 1 1, fld e 2 1, fld e 3 1, fld e 4 1⟩

/-- R73: the fields lie in the order the rule gives, without gaps. -/
def WindowEntry.ofBytes (e : List Byte) : WindowEntry :=
  { window := fld e 0 2, kind := fld e 2 1, hall := fld e 3 1, partX := fld e 4 1, partY := fld e 5 1, tier := fld e 6 1,
    gallery := fld e 7 1, base := fld e 8 4, size := fld e 12 4, syncBase := fld e 16 2, syncCount := fld e 18 2 }

/-- R74. -/
def RightsEntry.ofBytes (e : List Byte) : RightsEntry := ⟨fld e 0 1, fld e 2 2, fld e 4 2, fld e 8 2, fld e 10 2⟩

/-- R75. -/
def CompatEntry.ofBytes (e : List Byte) : CompatEntry := ⟨fld e 0 1, fld e 1 1⟩

/-- R76. -/
def LinkEntry.ofBytes (e : List Byte) : LinkEntry := ⟨fld e 0 1, fld e 1 1, fld e 2 1⟩

/-- R484. -/
def TenantEntry.ofBytes (e : List Byte) : TenantEntry :=
  { domain := fld e 0 2, halls := fld e 2 1, tflags := fld e 3 1, parts := fld e 4 2, ports := fld e 6 1,
    extentBaseA := fld e 8 4, extentLenA := fld e 12 4, extentBaseB := fld e 16 4, extentLenB := fld e 20 4,
    modelFirst := fld e 24 2, modelCount := fld e 26 2, sessionQuota := fld e 28 2, ownerHash := slice e 32 48 }

/-- R553. -/
def PowerEntry.ofBytes (e : List Byte) : PowerEntry := ⟨fld e 0 1, fld e 1 1, fld e 2 1, fld e 3 1, fld e 4 1, fld e 5 1⟩

/-- R414. -/
def CameraBody.ofBytes (e : List Byte) : CameraBody :=
  { port := fld e 0 1, phy := fld e 1 1, lanes := fld e 2 1, laneMap := fld e 3 1, pnSwap := fld e 4 1, vc := fld e 5 1,
    dt := fld e 6 1, embDt := fld e 7 1, rateMbps := fld e 8 2, width := fld e 10 2, height := fld e 12 2, pad := fld e 14 2,
    frameUs := fld e 16 4, timeoutUs := fld e 20 4, lineNs := fld e 24 2, sync := fld e 26 1, syncWin := fld e 27 1,
    ctrl := fld e 28 1, bus := fld e 29 1, saddr := fld e 30 1, daddr := fld e 31 1, regBytes := fld e 32 1,
    delay := fld e 33 1, writeLine := fld e 34 2, deadlineLine := fld e 36 2, cflags := fld e 38 1, part := fld e 39 1,
    setAddr := fld e 40 4, setCell := fld e 44 2, setGallery := fld e 46 1, degradeAddr := fld e 48 4, pipe := fld e 52 2 }

/-- R424. -/
def PipeOut.ofBytes (e : List Byte) : PipeOut :=
  { fmt := fld e 0 1, part := fld e 1 1, tier := fld e 2 1, bufs := fld e 3 1, base := fld e 4 4, bufStride := fld e 8 4,
    rowStride := fld e 12 2, cell := fld e 14 2, event := fld e 16 2, domain := fld e 18 2, cropY := fld e 20 2,
    cropX := fld e 22 2, cropH := fld e 24 2, cropW := fld e 26 2, outW := fld e 28 2, outH := fld e 30 2 }

/-- R423. -/
def PipeBody.ofBytes (e : List Byte) : PipeBody :=
  { ctx := fld e 0 1, mode := fld e 1 1, mosaic := fld e 2 1, bits := fld e 3 1, stripeLines := fld e 4 2, lbLines := fld e 6 2,
    cls := fld e 8 1, out0 := PipeOut.ofBytes (slice e 16 48), out1 := PipeOut.ofBytes (slice e 64 48),
    statsAddr := fld e 112 4, statsCell := fld e 116 2 }

/-- R442: the fields lie in the order the rule gives, without gaps. -/
def HostFeedBody.ofBytes (e : List Byte) : HostFeedBody :=
  { port := fld e 0 1, vc := fld e 1 1, host := fld e 2 1, kinds := fld e 3 1, phy := fld e 4 1, lanes := fld e 5 1,
    laneMap := fld e 6 1, pnSwap := fld e 7 1, rateMbps := fld e 8 2, dt := fld e 10 1 }

/-- R443: as R442's. -/
def PresenceBody.ofBytes (e : List Byte) : PresenceBody :=
  ⟨fld e 0 1, fld e 1 1, fld e 2 2, fld e 4 2, fld e 6 2⟩

/-- R391. -/
def MicArrayBody.ofBytes (e : List Byte) : MicArrayBody :=
  { clock := fld e 0 1, aflags := fld e 1 1, settleMs := fld e 2 1, rate := fld e 3 1, mics := fld e 4 4, part := fld e 8 1,
    gallery := fld e 9 1, blocks := fld e 10 2, streamAddr := fld e 12 4, cell := fld e 16 2,
    cal := (List.range 8).map fun c => (fld e (20 + 4 * c) 2, fld e (22 + 4 * c) 2) }

/-- R405. -/
def TdmOutBody.ofBytes (e : List Byte) : TdmOutBody :=
  ⟨fld e 0 1, fld e 1 1, fld e 2 1, fld e 3 1, fld e 4 2, fld e 6 2, fld e 8 4⟩

/-- R409: the body length of a kind; 0 for no kind. -/
def sensorLen : Nat → Nat
  | 1 => 64
  | 2 => 128
  | 3 => 16
  | 4 => 16
  | 5 => 64
  | 6 => 16
  | _ => 0

/-- R408, R409: one entry of the sensor graph with its header. -/
def SensorEntry.ofBytes (e : List Byte) : SensorEntry :=
  let b := e.drop 8
  { id := fld e 0 2, hall := fld e 3 1,
    body := match fld e 2 1 with
      | 1 => .camera (CameraBody.ofBytes b)
      | 2 => .pipe (PipeBody.ofBytes b)
      | 3 => .hostFeed (HostFeedBody.ofBytes b)
      | 4 => .presence (PresenceBody.ofBytes b)
      | 5 => .micArray (MicArrayBody.ofBytes b)
      | _ => .tdmOut (TdmOutBody.ofBytes b) }

/-- R408: the entries' bytes, headers included, as far as their kinds and lengths can be read, and whether the body ends with the
last one. The fuel bounds the entries. -/
def sensorEntries : Nat → List Byte → List (List Byte) × Bool
  | 0, bs => ([], bs.isEmpty)
  | fuel + 1, bs =>
    if bs.isEmpty then ([], true)
    else
      let n := 8 + sensorLen (fld bs 2 1)
      if n = 8 || bs.length < n then ([bs], false)
      else
        let r := sensorEntries fuel (bs.drop n)
        (bs.take n :: r.1, r.2)

/-- R106. -/
def Timebase.ofBytes (b : List Byte) : Timebase :=
  { source := fld b 0 1, edge := fld b 1 1, refPort := fld b 2 1, refVc := fld b 3 1, nominalUs := fld b 4 4, minUs := fld b 8 4,
    maxUs := fld b 12 4, holdover := fld b 16 1, relock := fld b 17 1, divergeLimit := fld b 18 1,
    fsyncOut := (List.range 4).map fun i => ⟨fld b (20 + 4 * i) 1, fld b (21 + 4 * i) 1, fld b (22 + 4 * i) 2⟩ }

/-- R108: a slot. -/
def Slot.ofBytes (e : List Byte) : Slot :=
  { slot := fld e 0 2, cls := fld e 2 1, lgallery := fld e 3 1, coreMask := fld e 4 2, startTick := fld e 6 2,
    endTick := fld e 8 2, trigger := fld e 10 2, model := fld e 12 2, fallback := fld e 14 2, cycleBudget := fld e 16 4,
    fallbackBudget := fld e 20 4, cmdCount := fld e 24 2, stairFlits := fld e 26 2, emit := fld e 28 2, emitKb := fld e 30 2 }

/-- R108: a buffer entry; its fields lie in the order the rule gives, without gaps. -/
def Buffer.ofBytes (e : List Byte) : Buffer := ⟨fld e 0 2, fld e 2 1, fld e 3 1, fld e 4 4, fld e 8 4⟩

/-- R107: TABLE_COUNT. -/
def tableCount (body : List Byte) : Nat := fld body 36 2

/-- R107: a table of the directory. -/
def tableAt (body : List Byte) (i : Nat) : SweepTable :=
  let d := slice body (64 + 16 * i) 16
  let off := fld d 12 4
  let ns := fld d 6 2
  { table := fld d 0 2, part := fld d 2 1, halves := fld d 3 1, galleryCount := fld d 4 1,
    slots := (List.range ns).map fun j => Slot.ofBytes (slice body (off + 32 * j) 32),
    buffers := (List.range (fld d 8 2)).map fun j => Buffer.ofBytes (slice body (off + 32 * ns + 16 * j) 16) }

/-- R107: the tables of a SWEEP_TABLES body. -/
def tablesOf (body : List Byte) : List SweepTable := (List.range (tableCount body)).map (tableAt body)

/-- R80. -/
def MapEntry.ofBytes (e : List Byte) : MapEntry := ⟨fld e 0 1, fld e 1 1, fld e 2 1, fld e 4 2⟩

/-- R79: the fields lie in the order the rule gives, without gaps. -/
def MarkEntry.ofBytes (e : List Byte) : MarkEntry :=
  { mark := fld e 0 2, table := fld e 2 2, tick := fld e 4 2, tensor := fld e 6 2, format := fld e 8 1, policy := fld e 9 1,
    primaryHall := fld e 10 1, elements := fld e 12 4, absTol := fld e 16 4, relTol := fld e 20 4, maxOutside := fld e 24 4 }

/-- R362. -/
def FlightEntry.ofBytes (e : List Byte) : FlightEntry :=
  { flight := fld e 0 1, part := fld e 1 1, hall := fld e 2 1, gallery := fld e 3 1, powerConfig := fld e 4 1, micMode := fld e 5 1,
    coreMask := fld e 6 2, model := fld e 8 2, tenant := fld e 10 2, port := fld e 12 1, fflags := fld e 13 1,
    landingCell := fld e 14 2, landingAddr := fld e 16 4, upAddr := fld e 20 4, upCell := fld e 24 2, mirrorCell := fld e 26 2,
    mirrorAddr := fld e 28 4, idleMs := fld e 32 2, minDwellMs := fld e 34 2, holdThresh := fld e 36 2, openThresh := fld e 38 2,
    closeThresh := fld e 40 2, closeMs := fld e 42 2, maxCandMs := fld e 44 2, prerollMs := fld e 46 2, ringClock := fld e 48 1,
    ringChans := fld e 49 1, presenceFrames := fld e 50 1,
    target := (List.range 16).map fun c => bits (fld e (52 + c / 2) 1) (4 * (c % 2)) 4,
    wakeThresh := (List.range 16).map fun c => fld e (60 + 2 * c) 2 }

/-- R69: the bytes that the structure digest covers. -/
def structureBytes (bs : List Byte) : List Byte :=
  ([1, 2, 3, 4, 5, 6, 7, 8, 9] : List Nat).flatMap fun t =>
    match sectionOf bs t with
    | some s => leBytes 2 t ++ leBytes 4 s.len ++ slice bs s.off s.len
    | none => []

/-- R65: an image as read. -/
def Image.ofBytes (bs : List Byte) : Image :=
  let pw := bodyOf bs 7
  { bytes := bs
    version := fld bs 0xC 4
    digest := sha384 (bs.take (bs.length - 96))
    sdigest := sha384 (structureBytes bs)
    partitions := (fixedEntries bs 1 0 32).map PartEntry.ofBytes
    routes := (fixedEntries bs 2 0 8).map RouteEntry.ofBytes
    windows := (fixedEntries bs 3 0 32).map WindowEntry.ofBytes
    sensors := ((sensorEntries 512 (bodyOf bs 4)).1).map SensorEntry.ofBytes
    tenancy := (fixedEntries bs 5 0 128).map TenantEntry.ofBytes
    rights := (fixedEntries bs 6 0 16).map RightsEntry.ofBytes
    pins := (List.range 8).map fun n => ⟨fld pw (2 * n) 1, fld pw (2 * n + 1) 1⟩
    initialReq := (List.range 4).map fun p => fld pw (16 + p) 1
    pflags := fld pw 20 1
    powers := (fixedEntries bs 7 32 8).map PowerEntry.ofBytes
    compat := (fixedEntries bs 8 0 4).map CompatEntry.ofBytes
    link := ((fixedEntries bs 9 0 4).map LinkEntry.ofBytes).head?
    timebase := Timebase.ofBytes (bodyOf bs 0x10)
    tables := tablesOf (bodyOf bs 0x10)
    degraded := (fixedEntries bs 0x11 0 8).map MapEntry.ofBytes
    marks := (fixedEntries bs 0x12 0 32).map MarkEntry.ofBytes
    cascade := (sectionOf bs 0x13).map fun _ => (fixedEntries bs 0x13 0 96).map FlightEntry.ofBytes }

end Sys2Proof.Machine
end

