-- ==== Sys2Proof/Machine/Verify.lean ====
section
/-! DEFINITION. Verification and validation of an Aizan image (02, R90, with the rules of 03, 10 to 13, 15 and 17 that it checks). A
failure is a code, a section TYPE and an entry index. -/

namespace Sys2Proof.Machine

/-- R90: a failure: code, TYPE, entry. -/
abbrev Refused := Nat × Nat × Nat

/-- The index of the first element that breaks a rule. -/
def firstBad {α : Type} (l : List α) (ok : Nat → α → Bool) : Option Nat :=
  (List.range l.length).find? fun i => match l[i]? with | some x => !ok i x | none => false

/-- A section's check: its entries in order, then the section as a whole. -/
def checkSection {α : Type} (code type : Nat) (l : List α) (ok : Nat → α → Bool) (whole : Bool) : Option Refused :=
  match firstBad l ok with
  | some i => some (code, type, i)
  | none => if whole then none else some (code, type, 0xFFFF)

/-- Two ranges of a base and a length share a member. -/
def rangesMeet (a n b m : Nat) : Bool := decide (0 < n) && decide (0 < m) && decide (a < b + m) && decide (b < a + n)

/-- Bits set of a mask of n bits. -/
def popcount (n m : Nat) : Nat := ((List.range n).filter fun i => bit m i).length

/-! ### Header and section table -/

/-- R66: the device's stepping, B1. -/
def stepping : Nat := 0xB1

/-- R68: the most entries of a section; none where the type is unknown. WINDOWS and TENANCY count by hall and are checked with their
entries. -/
def maxEntries : Nat → Option Nat
  | 1 => some 16
  | 2 => some 1024
  | 3 => some 512
  | 4 => some 512
  | 5 => some 8192
  | 6 => some 4
  | 7 => some 16
  | 8 => some 16
  | 9 => some 1
  | 0x10 => some 64
  | 0x11 => some 512
  | 0x12 => some 4096
  | 0x13 => some 4
  | _ => none

/-- R623: the length of a section of n entries; none where it follows from the contents. -/
def fixedLen : Nat → Nat → Option Nat
  | 1, n => some (32 * n)
  | 2, n => some (8 * n)
  | 3, n => some (32 * n)
  | 5, n => some (128 * n)
  | 6, n => some (16 * n)
  | 7, n => some (32 + 8 * n)
  | 8, n => some (4 * n)
  | 9, n => some (4 * n)
  | 0x11, n => some (8 * n)
  | 0x12, n => some (32 * n)
  | 0x13, n => some (96 * n)
  | _, _ => none

/-- R67, R68, R623: the i-th row of the section table, `before` it the earlier ones. A section over its maximum is refused with SECTION_LAYOUT, the limits
per hall of WINDOWS and TENANCY with WINDOW_INVALID and TENANCY_INVALID (DESIGN CHOICE 50). -/
def sectionOk (len : Nat) (count : Nat) (before : List Section) (s : Section) : Bool :=
  (match maxEntries s.type with | some m => decide (s.entries ≤ m) | none => false)
    && s.layout == 1 && s.off % 32 == 0 && decide (0x100 + 16 * count ≤ s.off) && decide (s.off + s.len ≤ len - 96)
    && (match fixedLen s.type s.entries with | some n => s.len == n | none => true)
    && (s.type != 0x10 || decide (s.len ≤ 262144))
    && before.all fun b => b.type != s.type && !(rangesMeet b.off b.len s.off s.len)

/-- R68: the lowest-numbered required section that is absent. LINK and COMPARE_MARKS are required by what PARTITIONS declares. -/
def missingSection (bs : List Byte) : Option Nat :=
  let ps := (fixedEntries bs 1 0 32).map PartEntry.ofBytes
  let need := fun (t : Nat) =>
    ([1, 2, 4, 5, 6, 7, 0x10, 0x11] : List Nat).contains t || (t == 9 && ps.any fun (p : PartEntry) => p.galB != 0)
      || (t == 0x12 && ps.any fun (p : PartEntry) => p.kind == 1)
  ([1, 2, 4, 5, 6, 7, 9, 0x10, 0x11, 0x12] : List Nat).find? fun t => need t && (sectionOf bs t).isNone

/-- R90, codes 0x01 to 0x09. A SECTION_COUNT outside 1 to 32 is refused with code 0x07 and entry 0xFFFF (DESIGN CHOICE 51). -/
def checkHeader (signer : List Byte) (bs : List Byte) : Option Refused :=
  let n := fld bs 8 4
  let key := slice bs 0x50 96
  let ss := sectionsOf bs
  let head := fun (c : Nat) => some (c, 0, 0xFFFF)
  if fld bs 0 4 ≠ 0x4E5A4941 then head 0x01
  else if fld bs 4 2 ≠ 3 then head 0x02
  else if n < 1024 || 786432 < n || n % 32 != 0 || n != bs.length then head 0x03
  else if stepping < fld bs 0x10 1 then head 0x04
  else if sha384 key ≠ signer then head 0x05
  else if !(ecdsaOk key (sha384 (bs.take (n - 96))) (bs.drop (n - 96))) then head 0x06
  else if sectionCount bs < 1 || 32 < sectionCount bs || n < 0x100 + 16 * sectionCount bs + 96 then head 0x07
  else
    match firstBad ss fun i s => sectionOk n ss.length (ss.take i) s with
    | some i => some (0x07, 0, i)
    | none =>
      match missingSection bs with
      | some t => some (0x08, t, 0xFFFF)
      | none => if slice bs 0x20 48 ≠ sha384 (structureBytes bs) then head 0x09 else none

/-! ### Structure sections -/

/-- R71: galleries of a partition in hall h. -/
def PartEntry.count (e : PartEntry) (h : Nat) : Nat := popcount 8 (e.gals h)

/-- R348: a range of hall cells. -/
def hallCells (b n : Nat) : Bool := n == 0 || (decide (8192 ≤ b) && decide (b + n ≤ 65536))

/-- R71: a partition that issues class 0 work, in a class-0 slot of a table, has class 0 in CLASSES. -/
def Image.zeroOk (im : Image) (e : PartEntry) : Bool :=
  bit e.classes 0 || im.tables.all fun t => t.part != e.part || t.slots.all fun s => s.cls != 0

/-- R71: an entry, the earlier ones before it. -/
def partOk (before : List PartEntry) (e : PartEntry) : Bool :=
  let single := e.kind == 0
  decide (e.part < 16) && decide (e.kind < 2) && decide (e.lowestOp < 4)
    && (if single then decide (e.hall < 2) && e.minStair == 0 && e.gals (1 - e.hall) == 0 && e.contexts (1 - e.hall) == 0
          && e.gather (1 - e.hall) == 0 && e.frames (1 - e.hall) == 0
        else e.hall == 0xFF && ([8, 16, 32] : List Nat).contains e.minStair && decide (0 < e.count 0) && e.count 0 == e.count 1)
    && hallCells e.syncBaseA e.syncCountA && hallCells e.syncBaseB e.syncCountB
    && before.all fun b => b.part != e.part && b.galA &&& e.galA == 0 && b.galB &&& e.galB == 0
      && !(rangesMeet b.syncBaseA b.syncCountA e.syncBaseA e.syncCountA)
      && !(rangesMeet b.syncBaseB b.syncCountB e.syncBaseB e.syncCountB)

/-- R324: F of a hall. -/
def Image.frameTotal (im : Image) (h : Nat) : Nat := im.partitions.foldl (fun a (e : PartEntry) => a + e.frames h) 0

/-- R71, R324: what the partitions together must meet in this hall and the other. -/
def partsOk (im : Image) (h usable : Nat) : Bool :=
  (([0, 1] : List Nat).all fun k =>
    decide (im.partitions.foldl (fun a (e : PartEntry) => a + e.contexts k) 0 ≤ 1024)
      && decide (im.partitions.foldl (fun a (e : PartEntry) => a + e.gather k) 0 ≤ 2048) && decide (im.frameTotal k ≤ 262144))
    && decide (im.frameTotal h * 65536 ≤ usable)

/-- R71: gallery g of hall h belongs to partition p. -/
def Image.owns (im : Image) (p h g : Nat) : Bool :=
  match im.part p with
  | some e => bit (e.gals h) g
  | none => false

/-- R72. -/
def routeOk (im : Image) (e : RouteEntry) : Bool :=
  let stop := fun (s : Nat) =>
    decide (s < 16) && (decide (8 ≤ s) || im.owns e.part e.hall s) && (s != 15 || e.hall == 0)
      && (s != 14 || (match im.part e.part with | some p => p.paired | none => false)
        || im.windows.any fun (w : WindowEntry) => w.kind == 0 && (w.partX == e.part || w.partY == e.part))
  (im.part e.part).isSome && decide (e.hall < 2) && stop e.src && stop e.dst

/-- R73, R324: a window, the earlier ones before it, in the image of hall h whose DRAM frame region begins at `fb`. -/
def windowOk (im : Image) (h fb : Nat) (before : List WindowEntry) (w : WindowEntry) : Bool :=
  let px := im.part w.partX
  let py := im.part w.partY
  let stair :=
    match px, py with
    | some x, some y => !x.paired && !y.paired && x.hall != y.hall
    | _, _ => false
  decide (w.kind < 2) && decide (w.hall < 2) && px.isSome && py.isSome && decide (w.tier < 2) && w.base % 4096 == 0
    && w.size % 4096 == 0 && decide (4096 ≤ w.size) && decide (w.size ≤ 67108864) && hallCells w.syncBase w.syncCount
    && (w.kind != 0 || stair)
    && (if w.tier = 0 then
          (im.owns w.partX w.hall w.gallery || im.owns w.partY w.hall w.gallery) && decide (w.base + w.size ≤ galSize)
        else
          (w.hall != h || decide (w.base + w.size ≤ fb)) && im.tenancy.all fun (t : TenantEntry) =>
            !(rangesMeet w.base w.size ((t.extent w.hall).1 * 65536) ((t.extent w.hall).2 * 65536)))
    && before.all fun b => b.hall != w.hall || (b.window != w.window
      && !(b.tier == w.tier && (w.tier == 1 || b.gallery == w.gallery) && rangesMeet b.base b.size w.base w.size))

/-! ### The sensor graph -/

/-- R413, R414: bits per pixel of an image data type. -/
def bppOf : Nat → Option Nat
  | 0x2A => some 8
  | 0x2B => some 10
  | 0x2C => some 12
  | 0x2D => some 14
  | 0x2E => some 16
  | 0x2F => some 20
  | 0x27 => some 24
  | _ => none

/-- R411, R412: a port's PHY, LANES, LANE_MAP and RATE_MBPS. -/
def phyOk (phy lanes laneMap rate : Nat) : Bool :=
  let c := bit phy 0
  let ls := (List.range lanes).map fun l => bits laneMap (2 * l) 2
  bits phy 2 6 == 0 && (if c then ([1, 2, 3] : List Nat).contains lanes else ([1, 2, 4] : List Nat).contains lanes)
    && decide (80 ≤ rate) && decide (rate ≤ if c then 6000 else 9000) && ls.Nodup && (!c || ls.all fun l => decide (l < 3))

/-- R412: the port settings of an entry that uses a receive port: port, PHY, LANES, LANE_MAP, PN_SWAP, RATE_MBPS. -/
def SensorEntry.rx (e : SensorEntry) : Option (List Nat) :=
  match e.body with
  | .camera b => some [b.port, b.phy, b.lanes, b.laneMap, b.pnSwap, b.rateMbps]
  | .hostFeed b => some [b.port, b.phy, b.lanes, b.laneMap, b.pnSwap, b.rateMbps]
  | _ => none

/-- R413: the pairs of virtual channel and data type that an entry claims. -/
def SensorEntry.vcs (e : SensorEntry) : List (Nat × Nat) :=
  match e.body with
  | .camera b => (b.vc, b.dt) :: if b.embDt = 0 then [] else [(b.vc, b.embDt)]
  | .hostFeed b => [(b.vc, b.dt)]
  | _ => []

/-- R412, R413: an entry agrees with the earlier ones of its port. -/
def rxAgree (before : List SensorEntry) (e : SensorEntry) : Bool :=
  match e.rx with
  | none => true
  | some r =>
    e.vcs.Nodup && before.all fun b =>
      match b.rx with
      | none => true
      | some q => b.hall != e.hall || q.head? != r.head? || (q == r && e.vcs.all fun v => !(b.vcs.contains v))

/-- R438, R440: nanoseconds of a bus clock. -/
def busNs : Nat → Nat
  | 0 => 2500
  | 1 => 1000
  | _ => 80

/-- A range of a gallery store that lies in program space when the image loads. -/
def progOk (a n : Nat) : Bool := decide (a + n ≤ galSize)

/-- R414, R415. -/
def cameraOk (im : Image) (raw : List Byte) (hall id : Nat) (b : CameraBody) : Bool :=
  match bppOf b.dt with
  | none => false
  | some bpp =>
    let udf := fun (d : Nat) => d == 0x12 || (decide (0x30 ≤ d) && decide (d ≤ 0x37))
    let cap := if bit b.phy 0 then 9 * b.lanes * b.rateMbps * 228 * b.lineNs else 9 * b.lanes * b.rateMbps * 100 * b.lineNs
    decide (b.port < 8) && phyOk b.phy b.lanes b.laneMap b.rateMbps && decide (b.vc < if bit b.phy 1 then 32 else 16)
      && (b.embDt == 0 || udf b.embDt) && decide (16 ≤ b.width) && decide (b.width ≤ 8192) && b.width % 2 == 0
      && decide (16 ≤ b.height) && decide (b.height ≤ 8192) && b.height % 2 == 0 && decide (b.pad < 2 ^ bpp)
      && decide (b.lineNs * b.height ≤ 1000 * b.frameUs) && decide (b.lineNs * b.height ≤ 1000 * b.timeoutUs)
      && decide (b.width * bpp * 1000000 ≤ cap) && decide (b.sync ≤ 4) && (decide (b.ctrl < 2) || b.ctrl == 0xFF)
      && decide (b.bus < 3) && decide (b.saddr < 128) && (if b.bus = 2 then decide (b.daddr < 128) else b.daddr == 0)
      && (b.regBytes == 1 || b.regBytes == 2) && decide (1 ≤ b.delay) && decide (b.delay ≤ 3) && bits b.cflags 2 6 == 0
      && zeros raw (8 + 47) 1 && zeros raw (8 + 54) 10 && im.owns b.part hall b.setGallery && b.setAddr % 64 == 0
      && progOk b.setAddr 512 && decide (b.setCell < 8192) && b.setCell / 1024 == b.setGallery
      && (b.degradeAddr == 0xFFFFFFFF || progOk b.degradeAddr 128)
      && (b.ctrl == 0xFF || (decide (b.writeLine < b.deadlineLine) && decide (b.deadlineLine < b.height)
        && decide (6 * (9 * (1 + b.regBytes + 4) + 2) * busNs b.bus ≤ (b.deadlineLine - b.writeLine) * b.lineNs)))
      && (im.pipe hall b.pipe).isSome
      && im.sensors.all fun (o : SensorEntry) =>
        match o.body with
        | .camera c => o.id == id || o.hall != hall || c.pipe != b.pipe
        | _ => true

/-- R431: bytes of an output's image. -/
def PipeOut.imageBytes (o : PipeOut) : Nat :=
  (if o.fmt = 5 then o.outH + o.outH / 2 else o.outH) * o.rowStride * 64

/-- R431: bytes that a row of an output needs. -/
def PipeOut.rowBytes (o : PipeOut) : Nat :=
  o.outW * match o.fmt with
    | 1 => 2
    | 2 => 3
    | 3 => 6
    | 6 => 2
    | 7 => 4
    | _ => 1

/-- R431: the mosaics that a format takes. -/
def fmtMosaic (fmt mosaic : Nat) : Bool :=
  match fmt with
  | 1 => true
  | 2 => mosaic == 1 || mosaic == 2 || mosaic == 4
  | 3 => mosaic == 1 || mosaic == 2 || mosaic == 4
  | 4 => mosaic != 3
  | 5 => mosaic != 3 && mosaic != 0
  | 6 => mosaic == 3
  | 7 => mosaic == 4
  | _ => false

/-- R424, R425: an enabled output of a pipe in a hall; `mc` names the memory-controller stops a DRAM ring needs. -/
def pipeOutOk (im : Image) (hall : Nat) (mc : List Nat) (cls mosaic : Nat) (cam : Option CameraBody) (o : PipeOut) : Bool :=
  let g := bits o.tier 0 3
  let routes := fun (l : List Nat) => l.all fun d => im.route o.part hall 13 d cls
  decide (o.fmt ≤ 7) && fmtMosaic o.fmt mosaic && bits o.tier 3 4 == 0 && decide (2 ≤ o.bufs) && decide (o.bufs ≤ 8)
    && o.bufStride % 64 == 0 && decide (64 + o.imageBytes ≤ o.bufStride) && decide (o.rowBytes ≤ 64 * o.rowStride)
    && (im.part o.part).isSome
    && (if bit o.tier 7 then routes mc
        else im.owns o.part hall g && routes [g] && progOk o.base (o.bufs * o.bufStride))
    && ((!(bit o.tier 7) && decide (o.cell < 8192) && o.cell / 1024 == g)
      || (match im.part o.part with
          | some p => decide ((p.sync hall).1 ≤ o.cell) && decide (o.cell < (p.sync hall).1 + (p.sync hall).2)
          | none => false))
    && (decide (o.event < 1024) || o.event == 0xFFFF)
    && o.cropY % 2 == 0 && o.cropX % 2 == 0 && o.cropH % 2 == 0 && o.cropW % 2 == 0
    && (match cam with
        | some c => decide (o.cropX + o.cropW ≤ c.width) && decide (o.cropY + o.cropH ≤ c.height)
        | none => true)
    && decide (o.cropW ≤ 8 * o.outW) && decide (o.outW ≤ o.cropW) && decide (o.cropH ≤ 8 * o.outH) && decide (o.outH ≤ o.cropH)
    && (o.fmt != 5 || (o.outW % 2 == 0 && o.outH % 2 == 0))

/-- The camera that feeds a pipe. -/
def Image.pipeCamera (im : Image) (hall id : Nat) : Option CameraBody :=
  im.sensors.findSome? fun e =>
    match e.body with
    | .camera b => if e.hall = hall && b.pipe = id then some b else none
    | _ => none

/-- The outputs of a pipe that are enabled. -/
def PipeBody.outs (b : PipeBody) : List PipeOut := [b.out0, b.out1].filter fun o => o.fmt != 0

/-- R425: the events of the pipes of a hall. -/
def Image.events (im : Image) (hall : Nat) : List (Nat × Nat) :=
  im.sensors.flatMap fun e =>
    match e.body with
    | .pipe b => if e.hall = hall then (b.outs.filter fun o => o.event != 0xFFFF).map fun o => (o.event, o.part) else []
    | _ => []

/-- R428: n of a pattern. -/
def patternN : Nat → Nat
  | 0 => 1
  | 4 => 4
  | _ => 2

/-- R423 to R425. -/
def pipeOk (im : Image) (raw : List Byte) (hall id : Nat) (mc : List Nat) (b : PipeBody) : Bool :=
  let cam := im.pipeCamera hall id
  let mos := bits b.mosaic 0 4
  decide (b.ctx < 32) && decide (b.mode < 2) && decide (mos ≤ 4) && decide (bits b.mosaic 4 4 < patternN mos * patternN mos)
    && decide (8 ≤ b.bits) && decide (b.bits ≤ 24) && decide (16 ≤ b.stripeLines) && decide (b.stripeLines ≤ 128)
    && b.stripeLines % 8 == 0 && decide (b.cls < 4) && b.out0.fmt != 0
    && (match im.part b.out0.part with | some p => bit p.classes b.cls | none => false)
    && zeros raw (8 + 9) 7 && zeros raw (8 + 118) 10 && zeros raw (8 + 48) 16 && zeros raw (8 + 96) 16
    && b.outs.all (pipeOutOk im hall mc b.cls mos cam)
    && (match cam with
        | some c => if b.mode = 0 then decide (2 * b.stripeLines + 8 ≤ b.lbLines) else decide (c.height ≤ b.lbLines)
        | none => true)
    && (b.statsAddr == 0xFFFFFFFF || (!(bit b.out0.tier 7) && progOk b.statsAddr 10368 && decide (b.statsCell < 8192)
      && b.statsCell / 1024 == bits b.out0.tier 0 3))
    && im.sensors.all (fun (o : SensorEntry) =>
      match o.body with
      | .pipe c => o.id == id || o.hall != hall || c.ctx != b.ctx
      | _ => true)
    && b.outs.all fun o => o.event == 0xFFFF || ((im.events hall).filter fun e => e.1 == o.event).length == 1

/-- R442. -/
def hostFeedOk (b : HostFeedBody) : Bool :=
  decide (b.port < 8) && phyOk b.phy b.lanes b.laneMap b.rateMbps && decide (b.vc < if bit b.phy 1 then 32 else 16)
    && decide (b.host < 4) && bits b.kinds 3 5 == 0 && decide (0x30 ≤ b.dt) && decide (b.dt ≤ 0x37)

/-- R443. -/
def presenceOk (b : PresenceBody) : Bool :=
  decide (b.vc < 32) && b.dt == 0x2A && decide (80 ≤ b.rateMbps) && decide (b.rateMbps ≤ 500) && b.width == 160 && b.height == 120

/-- R391: kHz of a RATE code. -/
def micKHz : Nat → Nat
  | 0 => 8
  | 1 => 16
  | 2 => 24
  | 3 => 32
  | _ => 48

/-- R401: BB of an array. -/
def MicArrayBody.blockBytes (b : MicArrayBody) : Nat := 64 + 40 * popcount 32 b.mics * micKHz b.rate

/-- Flight 0's entry (R362). -/
def Image.flight0 (im : Image) : Option FlightEntry := im.cascade.bind fun c => c.find? fun (f : FlightEntry) => f.flight == 0

/-- R71: p is a single partition of Hall A. -/
def Image.singleA (im : Image) (p : Nat) : Bool :=
  match im.part p with
  | some e => e.kind == 0 && e.hall == 0
  | none => false

/-- R392. -/
def micOk (im : Image) (raw : List Byte) (before : List SensorEntry) (b : MicArrayBody) : Bool :=
  let n := popcount 32 b.mics
  decide (b.clock < 8) && decide (4 ≤ n) && decide (n ≤ 8) && decide (2 ≤ b.settleMs) && decide (b.settleMs ≤ 10)
    && decide (b.rate < 5) && bits b.aflags 2 6 == 0 && zeros raw (8 + 18) 2 && zeros raw (8 + 52) 12
    && ((b.cal.take n).all fun c => decide (-128 ≤ sint 16 c.2) && decide (sint 16 c.2 ≤ 128))
    && (b.part == 0xFF || (im.singleA b.part && im.owns b.part 0 b.gallery && decide (2 ≤ b.blocks) && decide (b.blocks ≤ 64)
      && decide (b.cell < 8192) && b.cell / 1024 == b.gallery && b.streamAddr % 64 == 0
      && progOk b.streamAddr (b.blocks * b.blockBytes)))
    && before.all (fun (e : SensorEntry) =>
      match e.body with
      | .micArray o => o.clock != b.clock && (List.range 16).all fun d => bits o.mics (2 * d) 2 == 0 || bits b.mics (2 * d) 2 == 0
      | _ => true)
    && (match im.flight0 with
        | some f => f.ringClock != b.clock || (bit b.aflags 0 && decide (f.ringChans ≤ n))
        | none => true)

/-- R405. -/
def tdmOk (im : Image) (raw : List Byte) (before : List SensorEntry) (b : TdmOutBody) : Bool :=
  let wins := im.windows.filter fun (w : WindowEntry) => w.hall == 0 && (w.partX == b.part || w.partY == b.part)
  let n := b.blocks * 1920 * b.slots
  decide (b.port < 2) && decide (1 ≤ b.slots) && decide (b.slots ≤ 8) && im.singleA b.part && decide (2 ≤ b.blocks)
    && decide (b.blocks ≤ 64) && b.playAddr % 64 == 0 && zeros raw (8 + 12) 4
    && ((decide (b.cell < 8192) && b.cell / 1024 == b.gallery)
      || wins.any fun w => decide (w.syncBase ≤ b.cell) && decide (b.cell < w.syncBase + w.syncCount))
    && ((im.owns b.part 0 b.gallery && progOk b.playAddr n)
      || wins.any fun w => w.tier == 0 && w.gallery == b.gallery && decide (w.base ≤ b.playAddr) && decide (b.playAddr + n ≤ w.base + w.size))
    && before.all fun (e : SensorEntry) => match e.body with | .tdmOut o => o.port != b.port | _ => true

/-- R408 to R410: the i-th entry of the sensor graph, with its bytes. -/
def sensorOk (im : Image) (mc : Nat → List Nat) (raws : List (List Byte)) (i : Nat) (e : SensorEntry) : Bool :=
  let raw := raws.getD i []
  let before := im.sensors.take i
  let kind := fld raw 2 1
  sensorLen kind != 0 && fld raw 4 2 == sensorLen kind && raw.length == 8 + sensorLen kind && zeros raw 6 2
    && decide (e.hall < if kind < 4 then 2 else 1) && before.all (fun b => b.id != e.id) && rxAgree before e
    && match e.body with
      | .camera b => cameraOk im raw e.hall e.id b
      | .pipe b => pipeOk im raw e.hall e.id (mc e.hall) b
      | .hostFeed b => hostFeedOk b
      | .presence b => presenceOk b
      | .micArray b => micOk im raw before b
      | .tdmOut b => tdmOk im raw before b

/-- R427: the ISP's limits in a hall. -/
def ispOk (im : Image) (hall : Nat) : Bool :=
  let xs := im.sensors.filterMap fun (e : SensorEntry) =>
    match e.body with
    | .pipe b => if e.hall = hall then (im.pipeCamera hall e.id).map fun c => (b, c) else none
    | _ => none
  let load := xs.foldl (fun (a : Nat × Nat) x =>
    let cf := cdiv x.2.width 4 * x.2.height + cdiv x.2.height x.1.stripeLines * 256 + 2048
    (a.1 * x.2.frameUs + cf * a.2, a.2 * x.2.frameUs)) (0, 1)
  decide (load.1 ≤ 760 * load.2)
    && decide (xs.foldl (fun a x => a + x.1.lbLines * 64 * cdiv (2 * x.2.width) 64) 0 ≤ 7864320)

/-- R410, R427, R623: the SENSOR_GRAPH section. -/
def checkSensors (im : Image) (mc : Nat → List Nat) : Option Refused :=
  let r := sensorEntries 512 (bodyOf im.bytes 4)
  let n := ((sectionOf im.bytes 4).map (·.entries)).getD 0
  checkSection 0x0D 4 im.sensors (sensorOk im mc r.1) (r.2 && r.1.length == n && ispOk im 0 && ispOk im 1)

/-! ### Tenancy, rights, power, compatibility, link -/

/-- R484, R485, R324: a TENANCY entry with its bytes, the earlier ones before it; `fb` is FRAME_BASE of hall h. -/
def tenantOk (im : Image) (h fb : Nat) (raw : List Byte) (before : List TenantEntry) (e : TenantEntry) : Bool :=
  let ps := (List.range 16).filter fun p => bit e.parts p
  decide (e.domain < 4096) && decide (1 ≤ e.halls) && decide (e.halls < 4) && e.parts != 0
    && ps.all (fun p => match im.part p with
      | some q => ([0, 1] : List Nat).all (fun k => !(bit e.halls k) || q.gals k != 0) && (!q.paired || e.halls == 3)
      | none => false)
    && decide (1 ≤ e.ports) && decide (e.ports < 16) && bits e.tflags 2 6 == 0 && decide (e.modelCount ≤ 4096)
    && decide (e.modelFirst + e.modelCount ≤ 65535) && !(e.ownerHash.all (· == 0)) && zeros raw 7 1 && zeros raw 30 2
    && zeros raw 80 48
    && ([0, 1] : List Nat).all (fun k =>
      let x := e.extent k
      (bit e.halls k || x.2 == 0) && (k != h || x.2 == 0 || decide ((x.1 + x.2) * 65536 ≤ fb))
        && before.all fun b => !(rangesMeet (b.extent k).1 (b.extent k).2 x.1 x.2))
    && before.all fun b => b.domain != e.domain && !(rangesMeet b.modelFirst b.modelCount e.modelFirst e.modelCount)

/-- R425, R485: what the tenancy must meet as a whole. -/
def tenancyOk (im : Image) : Bool :=
  (([0, 1] : List Nat).all fun k => decide ((im.tenancy.filter fun e => bit e.halls k).length ≤ 4096))
    && im.sensors.all fun (s : SensorEntry) =>
      match s.body with
      | .pipe b => b.outs.all fun o => !(bit o.tier 7) || match im.tenant o.domain with
        | some e => bit e.parts o.part && bit e.halls s.hall
        | none => false
      | _ => true

/-- R74. An image that sets the MIC or VST bit of a Hall B port is accepted: the words are holes there (DESIGN CHOICE 56). -/
def rightsOk (im : Image) (before : List RightsEntry) (e : RightsEntry) : Bool :=
  decide (e.port < 4) && bits e.rights 10 6 == 0 && before.all (fun b => b.port != e.port)
    && ((List.range 16).all fun p => !(bit e.parts p) || (im.part p).isSome)

/-- R553, R554: a power configuration with its bytes. -/
def powerOk (im : Image) (raw : List Byte) (before : List PowerEntry) (e : PowerEntry) : Bool :=
  let on := fun (p : PartEntry) => p.galA &&& e.galA != 0 || p.galB &&& e.galB != 0
  let whole := fun (p : PartEntry) => p.galA &&& e.galA == p.galA && p.galB &&& e.galB == p.galB
  let all := fun (f : PartEntry → Nat) => im.partitions.foldl (fun a p => a ||| f p) 0
  decide (e.config < 16) && decide (e.state < 4) && decide (e.opA < 4) && decide (e.opB < 4) && zeros raw 6 2
    && before.all (fun b => b.config != e.config)
    && (match e.state with
        | 0 => e.galA == 0 && e.galB == 0
        | 1 => popcount 8 e.galA == 1 && e.galB == 0
        | 2 => e.galA != 0 && e.galB == 0
        | _ => e.galB != 0)
    && im.partitions.all (fun p => (e.state == 1 || !(on p) || whole p) && (!p.paired || !(on p) || e.state == 3)
      && (p.galA &&& e.galA == 0 || decide (p.lowestOp ≤ e.opA)) && (p.galB &&& e.galB == 0 || decide (p.lowestOp ≤ e.opB)))
    && (e.galA != 0 || e.opA == 0) && (e.galB != 0 || e.opB == 0)
    && all (·.galA) &&& e.galA == e.galA && all (·.galB) &&& e.galB == e.galB

/-- R552, R554: the header of POWER_CONFIGS. -/
def powerHeadOk (im : Image) : Bool :=
  let ex := fun (c : Nat) => c == 0xFF || im.powers.any fun (e : PowerEntry) => e.config == c
  im.pins.all (fun p => bits p.flags 3 5 == 0 && ex p.config) && im.initialReq.all ex && bits im.pflags 1 7 == 0
    && zeros (bodyOf im.bytes 7) 21 11

/-- R75. -/
def compatOk (e : CompatEntry) : Bool := decide (e.gallery < 16) && decide (e.mode < 2)

/-- R76. An ENABLE other than 0 and 1 is refused with LINK_INVALID (DESIGN CHOICE 52). -/
def linkOk (im : Image) (e : LinkEntry) : Bool :=
  decide (e.enable < 2) && (e.enable == 1 || im.partitions.all fun (p : PartEntry) => p.galB == 0)

/-! ### Tune sections -/

/-- R106: the timebase header. -/
def timebaseOk (im : Image) : Bool :=
  let t := im.timebase
  decide (t.source < 3) && decide (t.edge < 2) && decide (10000 ≤ t.minUs) && decide (t.minUs ≤ t.nominalUs)
    && decide (t.nominalUs ≤ t.maxUs) && decide (t.maxUs ≤ 200000) && decide (t.holdover ≤ 8) && decide (2 ≤ t.relock)
    && decide (t.relock ≤ 16) && decide (1 ≤ t.divergeLimit)
    && t.fsyncOut.all (fun f => !(bit f.flags 0) || (f.widthUs != 0 && decide (f.offsetTick ≤ 4095)))
    && (t.source != 1 || im.sensors.any fun (e : SensorEntry) =>
      match e.body with
      | .camera c => 8 * e.hall + c.port == t.refPort && c.vc == t.refVc
      | _ => false)

/-- The halls in which a partition's tables run. -/
def PartEntry.halls (p : PartEntry) : List Nat := if p.paired then [0, 1] else [p.hall]

/-- R486: a model's domain is bound to a partition. -/
def Image.modelIn (im : Image) (m p : Nat) : Bool :=
  im.tenancy.any fun (e : TenantEntry) => decide (e.modelFirst ≤ m) && decide (m < e.modelFirst + e.modelCount) && bit e.parts p

/-- R108, R110, R425, R486: a slot of a table. -/
def slotOk (im : Image) (t : SweepTable) (p : PartEntry) (i : Nat) (s : Slot) : Bool :=
  s.slot == i && decide (s.cls < 2) && bit p.classes s.cls && decide (s.lgallery < t.galleryCount) && decide (s.coreMask < 4096)
    && decide (s.startTick ≤ 4095) && decide (s.startTick < s.endTick) && decide (s.endTick ≤ 4096)
    && (decide (s.emit < 64) || s.emit == 0xFFFF) && im.modelIn s.model p.part
    && (s.fallback == 0xFFFF || im.modelIn s.fallback p.part)
    && (s.trigger == 0xFFFF || p.halls.all fun h => (im.events h).any fun e => e.1 == s.trigger && e.2 == p.part)
    && (s.cls != 0 || (t.slots.take i).all fun o =>
      o.cls != 0 || o.lgallery != s.lgallery || o.coreMask &&& s.coreMask == 0 || decide (o.endTick ≤ s.startTick)
        || decide (s.endTick ≤ o.startTick))

/-- R304: the class-0 contexts that a table gives core c of logical gallery j. -/
def SweepTable.class0On (t : SweepTable) (j c : Nat) : Nat :=
  (t.slots.filter fun s => s.cls == 0 && s.lgallery == j && bit s.coreMask c).length

/-- R107, R108, R110, R304: a table of the directory, the earlier ones before it. -/
def tableOk (im : Image) (before : List SweepTable) (i : Nat) (t : SweepTable) : Bool :=
  let body := bodyOf im.bytes 0x10
  let d := slice body (64 + 16 * i) 16
  match im.part t.part with
  | none => false
  | some p =>
    let n0 := (t.slots.map fun s => if s.cls = 0 then popcount 12 s.coreMask else 0).foldl (· + ·) 0
    before.all (fun b => b.table != t.table) && (t.halves == 1 || (t.halves == 2 && p.paired)) && decide (1 ≤ t.galleryCount)
      && decide (t.galleryCount ≤ 8) && decide (1 ≤ t.slots.length) && decide (t.slots.length ≤ 2048)
      && decide (t.buffers.length ≤ 1024) && fld d 12 4 % 32 == 0
      && decide (fld d 12 4 + 32 * t.slots.length + 16 * t.buffers.length ≤ body.length)
      && (firstBad t.slots (slotOk im t p)).isNone
      && t.buffers.all (fun b => decide (b.producer < t.slots.length) && decide (b.tier < 2)
        && (b.tier == 1 || decide (b.lgallery < t.galleryCount)))
      && ((List.range t.galleryCount).all fun j => (List.range 12).all fun c => decide (t.class0On j c ≤ 16))
      && p.halls.all fun h => decide (n0 ≤ p.contexts h)

/-- R107, R623: the contents of SWEEP_TABLES end at LENGTH. -/
def tablesEnd (bs : List Byte) : Bool :=
  let body := bodyOf bs 0x10
  let ends := (List.range (tableCount body)).map fun i =>
    let d := slice body (64 + 16 * i) 16
    fld d 12 4 + 32 * fld d 6 2 + 16 * fld d 8 2
  ends.foldl max (64 + 16 * tableCount body) == body.length

/-- R106, R107, R623: the SWEEP_TABLES section; `old` is the active image that a staged one must agree with. -/
def checkTables (im : Image) (old : Option Image) : Option Refused :=
  let body := bodyOf im.bytes 0x10
  let n := ((sectionOf im.bytes 0x10).map (·.entries)).getD 0
  let same := match old with
    | some o => slice (bodyOf o.bytes 0x10) 0 64 == slice body 0 64
    | none => true
  if !(timebaseOk im) || !same || tableCount body < 1 || 64 < tableCount body || tableCount body != n then some (0x13, 0x10, 0xFFFF)
  else checkSection 0x13 0x10 im.tables (fun i t => tableOk im (im.tables.take i) i t) (tablesEnd im.bytes)

/-- R80. -/
def mapOk (im : Image) (e : MapEntry) : Bool :=
  (im.part e.part).isSome && (e.halves == 1 || e.halves == 2) &&
    match im.table e.table with
    | some t => t.part == e.part && t.halves == e.halves && decide (t.galleryCount ≤ e.count)
    | none => false

/-- R81: every partition has the entries it must have. -/
def mapsComplete (im : Image) : Bool :=
  im.partitions.all fun (p : PartEntry) =>
    let n := if p.paired then p.count 0 else p.count p.hall
    let has := fun (k : Nat) => im.degraded.any fun (e : MapEntry) => e.part == p.part && e.halves == k && e.count == n
    if p.paired then has 2 && has 1 else has 1

/-- R188: an element format that a mark may name. -/
def markFormat (f : Nat) : Bool := ([2, 3, 5, 6, 7, 8, 9, 10] : List Nat).contains f

/-- R79, R120, R188: a mark, the earlier ones before it. -/
def markOk (im : Image) (before : List MarkEntry) (m : MarkEntry) : Bool :=
  match im.table m.table with
  | none => false
  | some t =>
    match t.buffers[m.tensor]? with
    | none => false
    | some b =>
      match t.slot b.producer with
      | none => false
      | some s =>
        let size := elemBytes m.format 1
        (match im.part t.part with | some p => p.paired | none => false)
          && before.all (fun o => o.table != m.table || (o.mark != m.mark
            && ((match t.buffers[o.tensor]? with | some c => c.producer != b.producer | none => true)
              || o.primaryHall == m.primaryHall)))
          && t.slots.any (fun s => decide (s.startTick ≤ m.tick) && decide (m.tick < s.endTick)) && markFormat m.format
          && decide (m.policy < 2) && decide (m.primaryHall < 2) && decide (s.endTick ≤ m.tick) && m.elements * size == b.bytes

/-! ### The cascade -/

/-- R361, R364: a flight's entry. -/
def flightOk (im : Image) (fs : List FlightEntry) (e : FlightEntry) : Bool :=
  let top := fs.foldl (fun a (f : FlightEntry) => max a f.flight) 0
  let conf := im.powers.find? fun (c : PowerEntry) => c.config == e.powerConfig
  let rings : List (Nat × Nat) :=
    [(e.landingAddr, 1024), (e.upAddr, 1024)] ++ if e.hall = 0 then [(e.mirrorAddr, 548864)] else []
  let mine := if e.hall = 0 then rings else [(e.upAddr, 1024)]
  let local' := fun (c : Nat) => decide (c < 8192) && c / 1024 == e.gallery
  let common :=
    decide (e.flight < 4) && (fs.filter fun f => f.flight == e.flight).length == 1 && decide (e.micMode < 2)
      && (match conf with | some c => c.state == e.flight | none => false)
      && (match im.tenant e.tenant with | some t => decide (e.port < 4) && bit t.ports e.port | none => false)
  if e.flight = 0 then
    common && e.micMode == 0 && decide (e.closeThresh ≤ e.openThresh) && decide (e.holdThresh ≤ e.openThresh)
      && ((List.range 16).all fun c => e.target.getD c 0 == 0 || decide (e.openThresh ≤ e.wakeThresh.getD c 0))
      && e.closeMs % 10 == 0 && e.maxCandMs % 10 == 0 && decide (10 ≤ e.closeMs) && decide (e.closeMs < e.maxCandMs)
      && decide (e.maxCandMs ≤ 1500) && decide (e.prerollMs + e.maxCandMs ≤ 1800) && e.target.all (fun t => decide (t ≤ top))
      && e.target.getD 14 0 == 0 && e.target.getD 15 0 == 0
  else
    common && im.owns e.part e.hall e.gallery && decide (e.hall < 2) && e.coreMask != 0 && decide (e.coreMask < 4096)
      && (if e.flight < 3 then im.singleA e.part && e.hall == 0
          else match im.part e.part with | some p => p.galB != 0 | none => false)
      && (e.flight != 1 || (match conf with | some c => c.galA == 2 ^ e.gallery | none => false))
      && mine.all (fun r => r.1 % 64 == 0 && progOk r.1 r.2)
      && ((List.range mine.length).all fun i => (List.range i).all fun j =>
        match mine[i]?, mine[j]? with
        | some a, some b => !(rangesMeet a.1 a.2 b.1 b.2)
        | _, _ => true)
      && (if e.hall = 0 then
            local' e.landingCell && local' e.upCell && local' e.mirrorCell && e.landingCell != e.upCell
              && e.landingCell != e.mirrorCell && e.upCell != e.mirrorCell
          else
            local' e.upCell && e.landingAddr % 64 == 0
              && im.windows.any fun (w : WindowEntry) => w.kind == 0 && w.hall == 1 && decide (e.landingAddr + 1024 ≤ w.size)
                && (w.partX == e.part || w.partY == e.part)
                && (match fs.find? fun (f : FlightEntry) => f.flight == 2 with
                    | some f => w.partX == f.part || w.partY == f.part
                    | none => false)
                && decide (w.syncBase ≤ e.landingCell) && decide (e.landingCell < w.syncBase + w.syncCount))
      && decide (100 ≤ e.idleMs) && decide (e.minDwellMs ≤ e.idleMs)

/-- R364: the CASCADE section as a whole. -/
def cascadeOk (fs : List FlightEntry) : Bool :=
  let top := fs.foldl (fun a (f : FlightEntry) => max a f.flight) 0
  (List.range (top + 1)).all fun n => fs.any fun (f : FlightEntry) => f.flight == n

/-! ### Class-0 validation -/

/-- R115: every class-0 slot of a table is bounded. -/
def tableBounded (im : Image) (t : SweepTable) : Bool :=
  match im.part t.part with
  | none => true
  | some p => t.slots.all fun s => s.cls != 0 || boundedOk im t p s s.cycleBudget

/-! ### The whole check -/

/-- R90: the check of an image in hall h: its signing-key hash, the usable capacity and memory-controller stops of the hall, and the
active image that a staged one must agree with. -/
def verifyImage (h : Nat) (signer : List Byte) (usable : Nat) (mcStops : List Nat) (old : Option Image) (bs : List Byte) :
    Except Refused Image :=
  match checkHeader signer bs with
  | some r => .error r
  | none =>
    let im := Image.ofBytes bs
    let fb := usable - im.frameTotal h * 65536
    let mc := fun (k : Nat) => if k = h then mcStops else []
    let raw := fun (t n : Nat) (i : Nat) => (fixedEntries bs t 0 n).getD i []
    let checks : List (Unit → Option Refused) :=
      [fun _ => checkSection 0x0A 1 im.partitions (fun i e => partOk (im.partitions.take i) e && im.zeroOk e) (partsOk im h usable),
       fun _ => checkSection 0x0B 2 im.routes (fun _ e => routeOk im e) true,
       fun _ => checkSection 0x0C 3 im.windows (fun i e => windowOk im h fb (im.windows.take i) e)
         (([0, 1] : List Nat).all fun k => decide ((im.windows.filter fun (w : WindowEntry) => w.hall == k).length ≤ 256)),
       fun _ => checkSensors im mc,
       fun _ => checkSection 0x0E 5 im.tenancy (fun i e => tenantOk im h fb (raw 5 128 i) (im.tenancy.take i) e) (tenancyOk im),
       fun _ => checkSection 0x0F 6 im.rights (fun i e => rightsOk im (im.rights.take i) e) true,
       fun _ => if powerHeadOk im then
           checkSection 0x10 7 im.powers
             (fun i e => powerOk im (slice (bodyOf bs 7) (32 + 8 * i) 8) (im.powers.take i) e) true
         else some (0x10, 7, 0xFFFF),
       fun _ => checkSection 0x11 8 im.compat (fun _ e => compatOk e) true,
       fun _ => checkSection 0x12 9 (match im.link with | some l => [l] | none => []) (fun _ e => linkOk im e) true,
       fun _ => checkTables im old,
       fun _ => checkSection 0x14 0x11 im.degraded (fun _ e => mapOk im e) (mapsComplete im),
       fun _ => checkSection 0x15 0x12 im.marks (fun i e => markOk im (im.marks.take i) e) true,
       fun _ => match im.cascade with
         | some fs => checkSection 0x16 0x13 fs (fun _ e => flightOk im fs e) (cascadeOk fs)
         | none => none,
       fun _ => checkSection 0x17 0x10 im.tables (fun _ t => tableBounded im t) true]
    match checks.findSome? fun c => c () with
    | some r => .error r
    | none => .ok im

end Sys2Proof.Machine
end

