-- ==== Sys2Proof/Machine/Tenancy.lean ====
section
/-! DEFINITION. Tenancy and keys (15): sessions, their release and scrubs, key slots, models, attestation, epochs and the re-encryption
sweep. -/

namespace Sys2Proof.Machine

/-! ### Names -/

/-- R489: PACKAGE_ID. -/
def State.packageId (s : State) : List Byte := sha384 (s.a.keyArray.identity ++ s.b.keyArray.identity)

/-- R493: a new challenge for host port p. -/
def State.newChallenge (s : State) (p : Nat) : State :=
  let d := s.draw 16
  d.2.onPort p fun P => { P with challenge := d.1 }

/-- R459: a session of the hall that is not being released. -/
def Hall.session (H : Hall) (n : Nat) : Option Session := H.sec.sessions.find? fun e => e.num == n && !e.releasing

/-- R519: the sessions of a domain in the hall. -/
def Hall.sessionsOf (H : Hall) (d : Nat) : Nat := (H.sec.sessions.filter fun e => e.dom == d).length

/-- A hall with a domain changed. -/
def Hall.onDom (H : Hall) (d : Nat) (f : Dom → Dom) : Hall :=
  { H with sec := { H.sec with doms := H.sec.doms.map fun (x : Dom) => if x.num = d then f x else x } }

/-- R486: domain d is bound to partition p in the hall. -/
def Hall.bound (H : Hall) (d p : Nat) : Bool := H.domIn d p

/-- R508: two epoch slots of the domain are live. -/
def Hall.oldLive (H : Hall) (d : Nat) : Bool := H.sec.sweeps.contains d

/-- R486: the model numbers of a domain. -/
def TenantEntry.hasModel (e : TenantEntry) (m : Nat) : Bool := decide (e.modelFirst ≤ m) && decide (m < e.modelFirst + e.modelCount)

/-- R442: the HOST_FEED entry of an image with an ID, in hall h. -/
def Image.hostFeed (im : Image) (h id : Nat) : Option HostFeedBody :=
  im.sensors.findSome? fun e =>
    match e.body with
    | .hostFeed b => if e.hall = h && e.id = id then some b else none
    | _ => none

/-! ### Key slots (R499) -/

/-- R499: the key slot that a handle names for a session and use; none where it is free or another's. -/
def Hall.keyFor (H : Hall) (h handle session use : Nat) : Option KeySlot :=
  match H.keyOf h handle with
  | some k => if k.session = session && k.use = use && bits handle 24 6 = 0 then some k else none
  | none => none

/-- R498: a key placed in the lowest free slot. The answer is its handle; none where every slot is in use. -/
def Hall.placeKey (H : Hall) (h use session model : Nat) (key : List Byte) : Option (Nat × Hall) :=
  let used := H.sec.keys.map (·.slot)
  match (List.range (min 4096 (used.length + 1))).find? fun i => !(used.contains i) with
  | none => none
  | some i =>
    let k : KeySlot := { slot := i, gen := tget H.sec.gens i, use := use, session := session, model := model, key := key, bound := false }
    some (keyHandle h k, { H with sec := { H.sec with keys := H.sec.keys ++ [k] } })

/-! ### Models (R500 to R504) -/

/-- R501: an entry of a part's segment table. -/
structure Segment where
  target : Nat
  gallery : Nat
  dest : Nat
  offset : Nat
  length : Nat
  /-- its 32 bytes -/
  raw : List Byte
  deriving DecidableEq, Repr

/-- R501: the segments of a part. -/
def segmentsOf (bs : List Byte) : List Segment :=
  (List.range (fld bs 12 2)).map fun i =>
    let e := slice bs (256 + 32 * i) 32
    { target := fld e 0 1, gallery := fld e 1 1, dest := fld e 4 4, offset := fld e 8 4, length := fld e 12 4, raw := e }

/-- R502: the IV of a segment, or of the header for 0xFFFF. -/
def partIv (bs : List Byte) (s : Nat) : List Byte := slice bs 24 8 ++ slice bs 8 2 ++ leBytes 2 s

/-- R502: HEADER_TAG authenticates the header and the table. -/
def headerOk (key bs : List Byte) : Bool :=
  let aad := bs.take 240 ++ List.replicate 16 0 ++ slice bs 256 (32 * fld bs 12 2)
  (gcmOpen key (partIv bs 0xFFFF) aad [] (slice bs 240 16)).isSome

/-- R502: the plaintext of segment s; none where its tag fails. -/
def Segment.plain (g : Segment) (key bs : List Byte) (s : Nat) : Option (List Byte) :=
  gcmOpen key (partIv bs s) g.raw (slice bs g.offset g.length) (slice bs (g.offset + g.length) 16)

/-- R503: MODEL_FORMAT does not apply: `next` is the part expected, `parts` PARTS of the model where it has begun. -/
def partFormatOk (bs : List Byte) (total next : Nat) (parts : Option Nat) : Bool :=
  let n := fld bs 12 2
  decide (fld bs 0 4 = 0x4C444D54) && decide (fld bs 4 2 = 1) && decide (fld bs 14 1 ≤ stepping) && decide (fld bs 16 4 = total)
    && decide (bs.length = total) && decide (1 ≤ fld bs 10 2) && decide (fld bs 10 2 ≤ 4096) && decide (fld bs 8 2 < fld bs 10 2)
    && decide (fld bs 8 2 = next) && (match parts with | some p => p == fld bs 10 2 | none => true)
    && decide (1 ≤ n) && decide (n ≤ 4095) && decide (256 + 32 * n ≤ total)
    && (segmentsOf bs).all fun g =>
      decide (g.target < 4) && decide (g.offset + g.length + 16 ≤ total) && (g.target != 3 || (decide (g.length = 768) && decide (g.dest = 0)))

/-- R503: where a segment's plaintext goes: target, gallery, first byte and length. -/
def Hall.segPlace (H : Hall) (h dom : Nat) (g : Segment) : Nat × Nat × Nat × Nat :=
  match g.target with
  | 0 => (0, 0, (H.extentAddr h dom (64 * g.dest) g.length).getD 0, g.length)
  | t => (t, g.gallery, g.dest, g.length)

/-- R503: two destinations overlap. -/
def placesMeet (a b : Nat × Nat × Nat × Nat) : Bool :=
  a.1 == b.1 && (a.2.1 == b.2.1 || a.1 == 0 || a.1 == 2) && rangesMeet a.2.2.1 a.2.2.2 b.2.2.1 b.2.2.2

/-- R503: a segment's destination is one that the session may write. -/
def Hall.segTargetOk (H : Hall) (h part dom : Nat) (g : Segment) : Bool :=
  match g.target with
  | 0 => (H.extentAddr h dom (64 * g.dest) g.length).isSome
  | 1 => H.galOk part g.gallery g.dest g.length && (H.gal g.gallery).st == .run
  | 2 => decide (h = 0) && decide (g.dest + g.length ≤ 2097152)
  | _ => decide (g.gallery < 8)

/-- No destination overlaps another, nor one that the model has used already. -/
def placesApart : List (Nat × Nat × Nat × Nat) → List (Nat × Nat × Nat × Nat) → Bool
  | _, [] => true
  | before, p :: r => !(before.any fun q => placesMeet q p) && placesApart (before ++ [p]) r

/-- R625: footprints that do not overlap. -/
def footprintsApart : List (List (Nat × Nat)) → Bool
  | [] => true
  | f :: r => !(r.any fun e => footprintsMeet f e) && footprintsApart r

/-- R625: the class-0 contexts of a table on one core, with these models, have footprints that do not overlap. -/
def SweepTable.footprintsOk (t : SweepTable) (models : List Model) : Bool :=
  (List.range 8).all fun j => (List.range 12).all fun c =>
    footprintsApart (t.slots.filterMap fun (s : Slot) =>
      if s.cls = 0 && s.lgallery = j && bit s.coreMask c then
        ((models.find? fun (m : Model) => m.num == s.model).bind fun m => m.desc j c).map fun d => (CtxDesc.ofBytes d).footprint
      else none)

/-- R107: a table names a model. -/
def SweepTable.names (t : SweepTable) (m : Nat) : Bool := t.slots.any fun (s : Slot) => s.model == m || s.fallback == m

/-- R625: the descriptors of a model whose last part has been authenticated meet R301 and R302 in the gallery that each logical gallery
maps to (the partition's first, where it maps to none), and the footprint rule of the tables that name it. -/
def Hall.descsOk (H : Hall) (h part : Nat) (m : Model) : Bool :=
  let first := ((List.range 8).find? fun g => (H.gal g).partition == some part).getD 0
  let one := fun (j : Nat) (d : List Byte) =>
    d.all (· == 0) || H.descOk part ((H.mapLog part j).getD first) (List.replicate 3 0 ++ slice d 3 1 ++ List.replicate 4 0 ++ d.drop 8)
  let loaded := (H.sec.models.filter fun (x : Model) => x.st == .loaded && x.num != m.num) ++ [m]
  m.descs.all (fun e => e.2.all fun d => one e.1 d) && match H.image with
    | some im => im.tables.all fun t => !(t.names m.num) || !((im.part t.part).any fun p => p.inHall h) || t.footprintsOk loaded
    | none => true

/-- Bytes put into the Flight 1 stage (R369) for a model. -/
def State.stageWrite (s : State) (m off : Nat) (bs : List Byte) : State :=
  let old := match s.vst.stage with
    | some (n, l) => if n = m then l else []
    | none => []
  { s with vst := { s.vst with stage := some (m, old ++ [(off, bs)]) } }

/-- R503: plaintext goes to its destination; a TARGET 3 segment's descriptors stay with the model. -/
def State.placePlain (s : State) (h : HallId) (m : Nat) (p : Nat × Nat × Nat × Nat) (bs : List Byte) : State :=
  match p.1 with
  | 0 => s.onHall h fun H => H.writeAt .dram p.2.2.1 bs
  | 1 => s.onHall h fun H => H.writeAt (.gal p.2.1) p.2.2.1 bs
  | 2 => s.stageWrite m p.2.2.1 bs
  | _ => s

/-- R93, R625: the staged tables meet the footprint rule with the models LOADED in a hall. -/
def Hall.stagedFits (H : Hall) (h : Nat) (im : Image) : Bool :=
  im.tables.all fun t => !((im.part t.part).any fun (p : PartEntry) => p.inHall h) || t.footprintsOk (H.sec.models.filter fun (m : Model) => m.st == .loaded)

/-- R93: what this hall reports of its staged image to the other: that it is VERIFIED, and whether its tables fit the models LOADED here. -/
def Hall.reportStaged (H : Hall) (h : Nat) : Hall :=
  match H.dev.stagedImg with
  | some im => if 2 ≤ H.dev.staged && H.stair.enable && H.stair.trained then H.tell (.stagedVerified im.digest (H.stagedFits h im)) else H
  | none => H

/-- R504: bytes that a model wrote are zeroed. -/
def State.zeroPlace (s : State) (h : HallId) (m : Nat) (p : Nat × Nat × Nat × Nat) : State :=
  match p.1 with
  | 2 => if (s.vst.stage.map (·.1)) = some m then { s with vst := { s.vst with stage := none } } else s
  | _ => s.placePlain h m p (List.replicate p.2.2.2 0)

/-- R504: model m of hall h returns to NONE: its bytes are zeroed and its key is erased. -/
def State.dropModel (s : State) (h : HallId) (m : Nat) : State :=
  match (s.hall h).sec.models.find? fun (x : Model) => x.num == m with
  | none => s
  | some x =>
    let s1 := x.segs.foldl (fun (s : State) p => s.zeroPlace h m p) s
    s1.onHall h fun H =>
      let H1 := if x.st == .loading then H.eraseHandle h.idx x.key else H
      ({ H1 with sec := { H1.sec with models := H1.sec.models.filter fun (y : Model) => y.num != m } } : Hall).reportStaged h.idx

/-- R452, R500: the response of an open LOADMODEL, which is then no longer open. -/
def State.answerLoad (s : State) (h : HallId) (l : Load) (status : Nat) (payload : List Byte) : State :=
  let s1 := s.onHall h fun H => { H with sec := { H.sec with loads := H.sec.loads.erase l } }
  let mine := fun (w : Wait) => match w with | .load t _ m => t == l.tag && m == l.model | _ => false
  if portHall l.port ≠ h then s1.answer h l.port 8 l.tag l.session status payload
  else if (s1.port l.port).waits.any mine then (s1.dropWait l.port mine).answer h l.port 8 l.tag l.session status payload
  else s1

/-- R504: a part refused with a code: the model returns to NONE, and so do the bytes that the part has written. -/
def State.refusePart (s : State) (h : HallId) (l : Load) (code : Nat) (wrote : List (Nat × Nat × Nat × Nat)) : State :=
  let s1 := wrote.foldl (fun (s : State) p => s.zeroPlace h l.model p) s
  (s1.dropModel h l.model).answerLoad h l 0xD (leBytes 4 code)

/-- R503, R504: a part that has arrived whole is checked, decrypted and placed; the last one makes the model LOADED. -/
def State.loadPart (s : State) (h : HallId) (l : Load) (bs : List Byte) : State :=
  let H := s.hall h
  match H.sec.sessions.find? (fun e => e.num == l.session), (H.sec.sessions.find? (fun e => e.num == l.session)).bind (fun e => H.image.bind fun im => im.tenant e.dom) with
  | some ses, some ten =>
    let old := H.sec.models.find? fun (x : Model) => x.num == l.model
    let key := ((H.keyOf h.idx l.key).map fun (k : KeySlot) => k.key).getD []
    let next := (old.map (·.next)).getD 0
    let gs := segmentsOf bs
    let ps := gs.map fun g => H.segPlace h.idx ses.dom g
    let before := (old.map (·.segs)).getD []
    let formatBad := match old with
      | some (x : Model) => x.ivBase != slice bs 24 8 || x.digest != slice bs 80 48
      | none => false
    if !(partFormatOk bs l.total next (old.map (·.parts))) || formatBad then s.refusePart h l 0x0709 []
    else if fld bs 6 2 ≠ l.model || slice bs 32 48 ≠ ten.ownerHash then s.refusePart h l 0x070A []
    else if !(headerOk key bs) then s.refusePart h l 0x070B []
    else
      let opened := (List.range gs.length).map fun i => match gs[i]? with | some g => g.plain key bs i | none => none
      let badAt := opened.findIdx? (·.isNone)
      let last := decide (next + 1 = fld bs 10 2)
      let plain := (old.map (·.plain)).getD [] ++ (opened.filterMap id).flatten
      let digestBad := last && sha384 plain ≠ slice bs 80 48
      let targetBad := !(gs.all fun g => H.segTargetOk h.idx ses.part ses.dom g) || !(placesApart before ps)
      if targetBad then s.refusePart h l (if badAt.isSome || digestBad then 0x070B else 0x070C) []
      else
        match badAt with
        | some i => s.refusePart h l 0x070B (ps.take (i + 1))
        | none =>
          if digestBad then s.refusePart h l 0x070B ps
          else
            let descs := (List.range gs.length).filterMap fun i =>
              match gs[i]?, opened[i]? with
              | some g, some (some b) => if g.target = 3 then some (g.gallery, (List.range 12).map fun c => slice b (64 * c) 64) else none
              | _, _ => none
            let m : Model :=
              { num := l.model, dom := ses.dom, part := ses.part, st := if last then .loaded else .loading, key := l.key, next := next + 1
                parts := fld bs 10 2, ivBase := slice bs 24 8, digest := slice bs 80 48, plain := if last then [] else plain
                segs := before ++ ps, descs := (old.map (·.descs)).getD [] ++ descs }
            if last && !(H.descsOk h.idx ses.part m) then s.refusePart h l 0x070C ps
            else
              let s1 := (List.range gs.length).foldl (fun (s : State) i =>
                match ps[i]?, opened[i]? with
                | some p, some (some b) => s.placePlain h l.model p b
                | _, _ => s) s
              let s2 := s1.onHall h fun H =>
                let H1 := { H with sec := { H.sec with models := (H.sec.models.filter fun (x : Model) => x.num != l.model) ++ [m] } }
                if last then (H1.eraseHandle h.idx l.key).reportStaged h.idx else H1
              (s2.count h 1672 1).answerLoad h l 0 []
  | _, _ => s.refusePart h l 0x0709 []

/-- R504: model `m`'s part has arrived: from the host feed, or from the boot flash as `fromFlash`. -/
def State.partDone (s : State) (h : HallId) (m : Nat) (fromFlash : List Byte) : State :=
  match (s.hall h).sec.loads.find? fun (l : Load) => l.model == m && (l.complete || l.source == 1) with
  | none => s
  | some l => s.loadPart h l (if l.source = 1 then fit fromFlash l.total else l.bytes)

/-- R462, R504: an open LOADMODEL is abandoned. -/
def State.abandonLoad (s : State) (h : HallId) (l : Load) (status : Nat) (payload : List Byte) : State :=
  let s1 := s.dropModel h l.model
  let s2 := s1.onHall h fun H =>
    { H with feeds := H.feeds.filter fun (f : FeedObj) => !(f.kind == 2 && f.channel == l.channel && l.source == 0
        && match H.image.bind fun im => im.hostFeed h.idx l.feedId with
          | some b => b.port == f.port && b.vc == f.vc
          | none => false) }
  s2.answerLoad h l status payload

/-! ### Streams and rings unbound (R462) -/

/-- R462, R513: a stream is unbound: its queued records go, a record whose frame has started completes, its key is erased. -/
def Hall.unbindStream (H : Hall) (h num : Nat) : Hall :=
  match H.stream num with
  | none => H
  | some x =>
    let H1 := H.eraseHandle h x.key
    if x.sending.isSome then H1.onStream num fun y => { y with closing := true, queue := y.queue.take 1 }
    else ({ H1 with streams := H1.streams.filter fun (y : TxStream) => y.num != num }).txStart h x.tx

/-- R462: a feed ring is unbound: the object being assembled is abandoned. -/
def Hall.unbindRing (H : Hall) (h feedId channel : Nat) : Hall :=
  { H with
    rings := H.rings.filter fun (r : FeedRing) => !(r.feedId == feedId && r.channel == channel)
    feeds := H.feeds.filter fun (f : FeedObj) => !(f.kind == 3 && f.channel == channel
      && match H.image.bind fun im => im.hostFeed h feedId with
        | some b => b.port == f.port && b.vc == f.vc
        | none => false) }

/-! ### Release of a session (R462, R514) -/

/-- R464, R295, R313: a context is cancelled: its Running commands are killed, its others end with CMD_CANCELLED, and it is ENDED. A save that has begun
completes. -/
def State.cancelCtx (s : State) (h : HallId) (x : Ctx) : State :=
  let queued := x.cmds.filter fun k => k.stage == .queued
  let s1 := s.onHall h fun H =>
    let H1 := (x.cmds.filter fun k => k.stage == .running).foldl (fun (H : Hall) k => H.requestKill x.num k.pos .cancel) H
    let saving := x.swap == .saving || x.swap == .pinWait
    let H2 := if saving then H1.onCtx x.num fun y => { y with swap := .saving } else H1.dropSaved x
    H2.onCtx x.num fun y0 =>
      let y := y0.settled H.now
      { y with
        st := .ended, rslot := if saving then y.rslot else none, fetching := false
        lastFault := if queued.isEmpty then y.lastFault else 0x0108
        cmds := y.cmds.filter fun k => k.stage != .queued }
  let s2 := queued.foldl (fun (s : State) k => s.complete h x k.seq (recordBytes k.seq k.op 0 0x0108 k.kills (b2n x.moved) 0 0)) s1
  (s2.onHall h fun H => (Hall.admitCtx 32 (H.after h.idx) h.idx x.core H.now).settle h.idx).pinCheck h

/-- R514 step 5: the bytes of a frame zeroed: its SRAM piece, and its DRAM home where that holds any. -/
def Hall.zeroFrame (H : Hall) (n : Nat) : Hall :=
  match H.frame n with
  | none => H
  | some f =>
    let H1 := match f.piece with
      | some (b, i) => H.onGal f.gal fun G => { G with store := G.store.scrub (pieceAddr b i f.size) (frameSize f.size) }
      | none => H
    if f.homeValid then H1.dramWrite (H1.homeAddr n) (List.replicate (frameSize f.size) 0) else H1

/-- R514 step 5: the swap-out frames of a session's contexts zeroed: of those whose save has ended, or of all. -/
def Hall.zeroSaved (H : Hall) (session : Nat) (all : Bool) : Hall :=
  (H.ctxs.filter fun (x : Ctx) => x.session == some session && (all || !(x.swap == .saving || x.swap == .pinWait))).foldl (fun (H : Hall) x =>
    ((x.saved.map (·.frames)).getD []).foldl (fun (H : Hall) n => H.zeroFrame n) H) H

/-- R514 steps 1 to 3: session n of hall h begins its release: contexts end with CONTEXT events, streams, rings and loads are unbound, keys
are erased. -/
def State.startRelease (s : State) (h : HallId) (n : Nat) : State :=
  let s0 := s.onHall h fun H => H.zeroSaved n false
  let s1 := ((s0.hall h).ctxs.filter fun (x : Ctx) => x.session == some n && x.alive).foldl (fun (s : State) x => (s.cancelCtx h x).ctxEvent h x 5) s0
  let s2 := s1.onHall h fun H =>
    let H1 := (H.streams.filter fun (x : TxStream) => x.session == n).foldl (fun (H : Hall) x => H.unbindStream h.idx x.num) H
    (H1.rings.filter fun (r : FeedRing) => r.session == n).foldl (fun (H : Hall) r => H.unbindRing h.idx r.feedId r.channel) H1
  let s3 := ((s2.hall h).sec.loads.filter fun (l : Load) => l.session == n).foldl (fun (s : State) l => s.abandonLoad h l 0xB (leBytes 4 0)) s2
  s3.onHall h fun H =>
    let H1 := (H.sec.keys.filter fun (k : KeySlot) => k.session == n).foldl (fun (H : Hall) k => H.eraseSlot k.slot) H
    { H1 with sec := { H1.sec with
        ephs := H1.sec.ephs.filter fun (e : Ephemeral) => e.session != n
        sessions := H1.sec.sessions.map fun (e : Session) => if e.num = n then { e with releasing := true } else e } }

/-- R137, R173: the tags of a core that name a domain are cleared. -/
def Core.untag (k : Core) (d : Nat) : Core :=
  { k with banks := k.banks.map fun (b : Bank) => if b.dom = d then { b with valid := false, sideValid := false } else b }

/-- R137: what the runs on the cores that `on` names have loaded for a domain is not VALID either. -/
def Hall.untagRuns (H : Hall) (d : Nat) (on : Nat → Bool) : Hall :=
  { H with ctxs := H.ctxs.map fun (x : Ctx) =>
      if on x.core then { x with cmds := x.cmds.map fun k => { k with built := { k.built with
        bankLoads := k.built.bankLoads.map fun e => if e.content.dom = d then { e with content := { e.content with valid := false, sideValid := false } } else e } } }
      else x }

/-- R514 step 4: an ended context's footprint is zeroed, where no resident context's footprint has taken its place. -/
def Hall.scrubFootprint (H : Hall) (x : Ctx) : Hall :=
  let units := (x.desc.footprint.flatMap fun e => List.range' e.1 e.2).filter fun u =>
    (H.residents x.core).all fun y => !(footprintsMeet [(u, 1)] y.desc.footprint)
  (H.untagRuns x.dom fun c => c == x.core).onCore x.core fun k =>
    let k1 := units.foldl (fun (k : Core) u => { k.invalidate (4096 * u) 4096 with op := k.op.scrub (4096 * u) 4096 }) k
    k1.untag x.dom

/-- R462, R514, R515: UNBINDs whose scrubs are over in both halls are answered. -/
def State.answerScrubs (s : State) : State :=
  let busy := fun (n d : Nat) (H : Hall) =>
    H.dev.up && (H.sec.sessions.any (fun e => e.num == n) || H.sec.doms.any fun (x : Dom) => x.num == d && x.releasing)
  (List.range 4).foldl (fun (s : State) p =>
    (s.port p).waits.foldl (fun (s : State) w =>
      match w with
      | .scrub tag n d =>
        if busy n d s.a || busy n d s.b then s
        else (s.dropWait p fun v => v == w).respond p 2 tag n 0 []
      | _ => s) s) s

/-- R514, R515: the scrub of a session has ended in hall h; when it was its domain's last and the domain is not RETAIN, the domain's release
begins. -/
def State.scrubDone (s : State) (h : HallId) (n : Nat) : State :=
  match (s.hall h).sec.sessions.find? fun e => e.num == n && e.releasing with
  | none => s
  | some e =>
    let s1 := s.onHall h fun H =>
      let H0 := (H.ctxs.filter fun (x : Ctx) => x.session == some n).foldl (fun (H : Hall) x => H.scrubFootprint x) H
      let H1 := ((H0.zeroSaved n true).ctxs.filter fun (x : Ctx) => x.session == some n && x.saved.isSome).foldl (fun (H : Hall) x => H.dropSaved x)
        (H0.zeroSaved n true)
      let H2 := { H1 with
        ctxs := (H1.ctxs.filter fun (x : Ctx) => !(x.session == some n && x.cmds.isEmpty)).map fun (x : Ctx) =>
          if x.session = some n then { x with session := none } else x
        sec := { H1.sec with sessions := H1.sec.sessions.filter fun (y : Session) => y.num != n } }
      let retain := match H2.image.bind fun im => im.tenant e.dom with
        | some (t : TenantEntry) => bit t.tflags 1
        | none => true
      if retain || 0 < H2.sessionsOf e.dom then H2 else H2.onDom e.dom fun x => { x with releasing := true }
    s1.answerScrubs

/-! ### Epochs (R508 to R512, R515) -/

/-- R509: the epoch table's entry of a domain in a hall. -/
def State.epoch (s : State) (h d : Nat) : Epochs := (s.epochs.find? fun (e : Epochs) => e.hall == h && e.dom == d).getD ⟨h, d, none, none⟩

/-- R509: an epoch entry set. -/
def State.setEpoch (s : State) (e : Epochs) : State :=
  { s with epochs := (s.epochs.filter fun (x : Epochs) => !(x.hall == e.hall && x.dom == e.dom)) ++ [e] }

/-- R508: a random 32-bit epoch number. -/
def State.drawEpoch (s : State) : Nat × State :=
  let d := s.draw 4
  (le d.1, d.2)

/-- R509: domain d of hall h takes a fresh number in slot 0, and slot 1 holds none. -/
def State.freshEpoch (s : State) (h d : Nat) : State :=
  let r := s.drawEpoch
  r.2.setEpoch ⟨h, d, some r.1, none⟩

/-- R511: the frames of a domain whose homes carry the old epoch, in ascending number. -/
def Hall.oldFrames (H : Hall) (d : Nat) : List Nat :=
  let cur := ((H.dom d).map (·.current)).getD 0
  H.mem.frames.filterMap fun e => if e.2.dom = d && e.2.homeValid && e.2.epoch != cur then some e.1 else none

/-- R511: the first queued sweep starts. -/
def Hall.startSweep (H : Hall) : Hall :=
  match H.sec.sweeps with
  | [] => { H with sec := { H.sec with sweepFrames := [], sweepSkipped := [], cursor := 0 } }
  | d :: _ => { H with sec := { H.sec with sweepFrames := H.oldFrames d, sweepSkipped := [], cursor := 0 } }

/-- R511: a queued or running sweep of a domain is abandoned. -/
def Hall.dropSweep (H : Hall) (d : Nat) : Hall :=
  let first := H.sec.sweeps.head? == some d
  let H1 := { H with sec := { H.sec with sweeps := H.sec.sweeps.filter fun x => x != d } }
  if first then H1.startSweep else H1

/-- R510: a rotation of domain d in hall h is asked for. The answer is 0 where it is accepted, else the refusal's code. -/
def State.rotate (s : State) (h : HallId) (d : Nat) : Nat × State :=
  let H := s.hall h
  let releasing := match H.dom d with | some (x : Dom) => x.releasing | none => false
  if !H.sec.trngOk then (0x0708, s)
  else if H.oldLive d || decide (16 ≤ H.sec.sweeps.tail.length) then
    (0x070E, s.onHall h fun H => { H with sec := { H.sec with busy := inc8 H.sec.busy } })
  else if releasing then (0x070F, s)
  else
    let cur := ((H.dom d).map (·.current)).getD 0
    let r := s.drawEpoch
    let e := r.2.epoch h.idx d
    let s1 := r.2.setEpoch (if cur = 0 then { e with e1 := some r.1 } else { e with e0 := some r.1 })
    (0, s1.onHall h fun H =>
      let H1 := H.onDom d fun x => { x with current := 1 - cur }
      let H2 := { H1 with sec := { H1.sec with sweeps := H1.sec.sweeps ++ [d] } }
      if H.sec.sweeps.isEmpty then H2.startSweep else H2)

/-- R347: the sweep may rewrite a frame's home now. -/
def Frame.rewritable (f : Frame) : Bool := (f.st == .dram || f.st == .sram) && f.pins == 0

/-- R511, R558: one step of the running sweep: a frame's home rewritten or passed over, one line of the extent, a frame revisited, or the
completion. The sweep pauses while the hall's DRAM is in self-refresh. -/
def State.sweepStep (s : State) (h : HallId) : State :=
  let H := s.hall h
  match (if H.mem.selfRefresh then [] else H.sec.sweeps) with
  | [] => s
  | d :: rest =>
    let cur := ((H.dom d).map (·.current)).getD 0
    let lines := match H.image.bind fun im => im.tenant d with
      | some (t : TenantEntry) => (t.extent h.idx).2 * 256
      | none => 0
    let visit := fun (n : Nat) (H : Hall) =>
      match H.frame n with
      | some f =>
        if f.dom = d && f.homeValid && f.epoch != cur then
          if f.rewritable then (H.onFrame n fun f => { f with epoch := cur }).count 1673 (frameSize f.size / 256)
          else { H with sec := { H.sec with sweepSkipped := H.sec.sweepSkipped ++ [n] } }
        else H
      | none => H
    match H.sec.sweepFrames with
    | n :: r => s.onHall h fun H => visit n { H with sec := { H.sec with sweepFrames := r } }
    | [] =>
      if H.sec.cursor < lines then s.onHall h fun H => { H with sec := { H.sec with cursor := H.sec.cursor + 1 } }.count 1673 1
      else
        match H.sec.sweepSkipped with
        | n :: r => s.onHall h fun H => visit n { H with sec := { H.sec with sweepSkipped := r } }
        | [] =>
          match H.oldFrames d with
          | n :: r => s.onHall h fun H => { H with sec := { H.sec with sweepFrames := n :: r } }
          | [] =>
            let e := s.epoch h.idx d
            (s.setEpoch (if cur = 0 then { e with e1 := none } else { e with e0 := none })).onHall h fun H =>
              ({ H with sec := { H.sec with sweeps := rest, rotations := inc8 H.sec.rotations } }).startSweep

/-- R515: a frame of a released domain: its SRAM piece is zeroed and it joins the Cullet list. -/
def Hall.scrubFrame (H : Hall) (n : Nat) : Hall :=
  match H.frame n with
  | none => H
  | some f =>
    let H1 := match f.piece with
      | some (b, i) => H.onGal f.gal fun G => { G with store := G.store.scrub (pieceAddr b i f.size) (frameSize f.size) }
      | none => H
    (H1.dramLose (H1.homeAddr n) (frameSize f.size)).freeFrame n

/-- R515: the release of a domain in hall h is done. -/
def State.domainDone (s : State) (h : HallId) (d : Nat) : State :=
  match (s.hall h).dom d with
  | none => s
  | some x =>
    if !x.releasing then s
    else
      let s1 := ((s.hall h).sec.models.filter fun (m : Model) => m.dom == d).foldl (fun (s : State) m => s.dropModel h m.num) s
      let s2 := s1.onHall h fun H =>
        let ns := (H.mem.frames.filter fun e => e.2.dom == d).map (·.1)
        let gone := H.mem.caches.filter fun (c : Cache) => c.dom == d
        let H1 := { H with mem := { H.mem with
            caches := H.mem.caches.filter fun (c : Cache) => c.dom != d
            deferred := H.mem.deferred.filter fun (e : Deferred) =>
              !(match e.item with
                | .frame n => ns.contains n
                | .slot _ g a _ => gone.any fun c => c.prm.slotGal == g && decide (c.prm.slotBase ≤ a)
                    && decide (a < c.prm.slotBase + c.prm.slotCount * frameSize c.prm.frameCode)) } }
        let H2 := ns.foldl (fun (H : Hall) n => H.scrubFrame n) H1
        let H3 := { H2.untagRuns d (fun _ => true) with cores := H2.cores.map fun (k : Core) => k.untag d }
        let ext := match H3.image.bind fun im => im.tenant d with
          | some (t : TenantEntry) => t.extent h.idx
          | none => (0, 0)
        let H4 := (H3.dramLose (65536 * ext.1) (65536 * ext.2)).dropSweep d
        H4.onDom d fun x => { x with releasing := false }
      let r0 := s2.drawEpoch
      let r1 := r0.2.drawEpoch
      (r1.2.setEpoch ⟨h.idx, d, some r0.1, some r1.1⟩).answerScrubs

/-! ### Attestation and key release (R494 to R498) -/

/-- R495: bytes 0 to 479 of a report. -/
def State.reportBytes (s : State) (h : HallId) (e : Session) (purpose model : Nat) (nonce dh : List Byte) : List Byte :=
  let H := s.hall h
  let pe := H.partEntry e.part
  let m := H.sec.models.find? fun (x : Model) => x.num == model
  let state := match m with | some (x : Model) => (if x.st == .loaded then 2 else 1) | none => 0
  let im := H.image
  leBytes 2 1 ++ leBytes 1 h.idx ++ leBytes 1 stepping ++ leBytes 4 H.sec.report ++ leBytes 1 purpose ++ leBytes 1 e.part
    ++ leBytes 1 ((pe.map (·.kind)).getD 0) ++ leBytes 1 H.stair.mode.code ++ leBytes 1 ((pe.map (·.galA)).getD 0)
    ++ leBytes 1 ((pe.map (·.galB)).getD 0) ++ leBytes 2 e.dom ++ leBytes 4 e.num ++ leBytes 4 ((im.map (·.version)).getD 0)
    ++ leBytes 4 H.dev.tuneGen ++ leBytes 4 H.swp.sweep ++ leBytes 2 model ++ leBytes 1 state ++ List.replicate 13 0
    ++ fit s.packageId 48 ++ fit H.dev.fwDigest 48 ++ fit ((im.map (·.digest)).getD []) 48 ++ fit ((im.map (·.sdigest)).getD []) 48
    ++ fit (((im.bind fun (i : Image) => i.tenant e.dom).map (·.ownerHash)).getD []) 48
    ++ fit (if state = 2 then (m.map (·.digest)).getD [] else []) 48 ++ fit nonce 48 ++ fit dh 96

/-- R494 to R496: a report for session e. PURPOSE 1 draws an ephemeral key; a session's fifth erases its oldest. -/
def State.attest (s : State) (h : HallId) (e : Session) (purpose model : Nat) (nonce : List Byte) : State × Reply :=
  let H := s.hall h
  let cert := H.keyArray.cert
  let draws := if purpose = 1 then s.draw 48 else ([], s)
  let priv := le draws.1 % (p384N - 1) + 1
  let dh := if purpose = 1 then ((ecMul priv p384G).map ecBytes).getD [] else []
  let s1 := draws.2
  let body := s1.reportBytes h e purpose model nonce dh
  let sig := fit (Config.signature h.idx (sha384 body) s1.free) 96
  let report := body ++ sig
  let s2 := { s1 with free := s1.free + 1 }
  let s3 := s2.onHall h fun H =>
    let mine := H.sec.ephs.filter fun (x : Ephemeral) => x.session == e.num
    let kept := if 4 ≤ mine.length then H.sec.ephs.eraseP fun (x : Ephemeral) => x.session == e.num else H.sec.ephs
    let eph : Ephemeral := { report := H.sec.report, session := e.num, nonce := nonce, priv := priv, hash := sha384 report }
    { H with sec := { H.sec with
        report := (H.sec.report + 1) % 2 ^ 32
        ephs := if purpose = 1 then kept ++ [eph] else H.sec.ephs } }
  (s3, .ok (report ++ leBytes 2 cert.length ++ leBytes 2 0 ++ cert))

/-- R498: a wrapped key is opened and placed. The ephemeral key is erased whatever follows. -/
def State.unwrapKey (s : State) (h : HallId) (e : Session) (pl : List Byte) : State × Reply :=
  let H := s.hall h
  let use := fld pl 0 1
  let model := fld pl 2 2
  let ten := H.image.bind fun im => im.tenant e.dom
  let modelOk := use == 1 || (match ten with | some (t : TenantEntry) => t.hasModel model | none => false)
  let full := decide (4096 ≤ H.sec.keys.length)
  match H.sec.ephs.find? fun (x : Ephemeral) => x.report == fld pl 4 4 && x.session == e.num with
  | none => (s, .err 0xD 0x0703)
  | some x =>
    let s1 := s.onHall h fun H => { H with sec := { H.sec with ephs := H.sec.ephs.erase x } }
    let key := (ecdh x.priv (slice pl 16 96)).bind fun z =>
      let wk := hkdf32 x.nonce z ([0x54#8, 0x56#8, 0x4D#8, 0x57#8, 0x52#8, 0x41#8, 0x50#8, 0x31#8] ++ x.hash)
      gcmOpen wk (slice pl 112 12) (pl.take 4) (slice pl 128 32) (slice pl 160 16)
    match key with
    | none => (s1, .err 0xD 0x0704)
    | some k =>
      if full then (s1, .err 0xD 0x0705)
      else if !modelOk then (s1, .err 0xD 0x0706)
      else
        match (s1.hall h).placeKey h.idx use e.num (if use = 0 then model else 0) k with
        | none => (s1, .err 0xD 0x0705)
        | some (handle, H2) => (s1.onHall h fun _ => H2.count 1671 1, .ok (leBytes 4 handle))

end Sys2Proof.Machine
end

