-- ==== Sys2Proof/Machine/DramCrypt.lean ====
section
/-! DEFINITION. DRAM encryption (15, R505 to R508; 10, R326): the inverse cipher, XTS-AES-256, the key derivation, the key of a line, and what a
line holds in its channel. State keeps the plaintext of hall DRAM (DESIGN CHOICE 311); these definitions say what it is stored as. -/

namespace Sys2Proof.Machine

/-! ### The inverse cipher (FIPS 197, PRESUMED 4) -/

/-- The inverse S-box on a byte. -/
def invSubByte (b : Byte) : Byte := BitVec.ofNat 8 (aesS.idxOf b.toNat)

/-- InvShiftRows on a column-major block. -/
def invShiftRows (b : List Byte) : List Byte := (List.range 16).map fun i => b.getD ((i + 16 - 4 * (i % 4)) % 16) 0

/-- Multiplication in AES's field by a constant below 16. -/
def aesTimes (k : Nat) (b : Byte) : Byte :=
  ((List.range 4).foldl (fun (a : Byte × Byte) i => (if bit k i then a.1 ^^^ a.2 else a.1, xtime a.2)) (0, b)).1

/-- InvMixColumns on one column. -/
def invMixColumn (c : List Byte) : List Byte :=
  (List.range 4).map fun i =>
    aesTimes 14 (c.getD i 0) ^^^ aesTimes 11 (c.getD ((i + 1) % 4) 0) ^^^ aesTimes 13 (c.getD ((i + 2) % 4) 0)
      ^^^ aesTimes 9 (c.getD ((i + 3) % 4) 0)

/-- AES-256 of one block under expanded words, inverted. -/
def aesInverse (ws : List (List Byte)) (b : List Byte) : List Byte :=
  let rk := fun (r : Nat) => ((ws.drop (4 * r)).take 4).flatten
  let st := (List.range 13).foldl (fun st r =>
    let t := xorBytes ((invShiftRows st).map invSubByte) (rk (13 - r))
    (List.range 4).flatMap fun i => invMixColumn (slice t (4 * i) 4)) (xorBytes b (rk 14))
  xorBytes ((invShiftRows st).map invSubByte) (rk 0)

/-! ### XTS-AES-256 (IEEE 1619) -/

/-- IEEE 1619: a tweak multiplied by α: 16 bytes, least significant first. -/
def xtsNext (t : List Byte) : List Byte :=
  let v := le t
  leBytes 16 (if 2 ^ 127 ≤ v then (2 * v % 2 ^ 128) ^^^ 0x87 else 2 * v)

/-- IEEE 1619: the blocks of a data unit, each between two additions of its tweak; the fuel is their count. -/
def xtsBlocks (cipher : List Byte → List Byte) : Nat → List Byte → List Byte → List Byte
  | 0, _, _ => []
  | n + 1, t, m => xorBytes (cipher (xorBytes (m.take 16) t)) t ++ xtsBlocks cipher n (xtsNext t) (m.drop 16)

/-- R505: the first tweak of a line: its number, little-endian, enciphered under the second key. -/
def xtsTweak (key : List Byte) (line : Nat) : List Byte := aesBlock (aesKey (slice key 32 32)) (leBytes 16 line)

/-- R505: a 256 B line encrypted under a 64 B key. -/
def xtsSeal (key : List Byte) (line : Nat) (p : List Byte) : List Byte :=
  xtsBlocks (aesBlock (aesKey (slice key 0 32))) 16 (xtsTweak key line) p

/-- R505: a 256 B line decrypted. -/
def xtsOpen (key : List Byte) (line : Nat) (c : List Byte) : List Byte :=
  xtsBlocks (aesInverse (aesKey (slice key 0 32))) 16 (xtsTweak key line) c

/-! ### Keys (R506) -/

/-- R506, SP 800-108r1: 64 B of the counter-mode KDF with HMAC-SHA-384. PRESUMED 312: a 4 B counter from 1 before the label, a zero byte after
it, and the length in bits, 4 B, after the context, each most significant byte first. -/
def kdf108 (key label context : List Byte) : List Byte :=
  ((List.range 2).flatMap fun i => hmac key (beBytes 4 (i + 1) ++ label ++ [0] ++ context ++ beBytes 4 512)).take 64

/-- R506: "TVMXTS01". -/
def xtsLabel : List Byte := [0x54, 0x56, 0x4D, 0x58, 0x54, 0x53, 0x30, 0x31]

/-- R506: "TVMWIN01". -/
def winLabel : List Byte := [0x54, 0x56, 0x4D, 0x57, 0x49, 0x4E, 0x30, 0x31]

/-- R506: the domain key of an epoch. -/
def Hall.domainKey (H : Hall) (h dom : Nat) (owner : List Byte) (epoch : Nat) : List Byte :=
  kdf108 H.keyArray.root xtsLabel (leBytes 1 h ++ leBytes 2 dom ++ owner ++ leBytes 4 epoch)

/-- R506: the key of a window. DESIGN CHOICE 312: the window index takes 2 bytes, as WINDOW of R73. -/
def Hall.windowKey (H : Hall) (h w : Nat) (digest : List Byte) : List Byte :=
  kdf108 H.keyArray.root winLabel (leBytes 1 h ++ leBytes 2 w ++ digest)

/-- R508: the number in an epoch slot. -/
def Epochs.slot (e : Epochs) (i : Nat) : Option Nat := if i = 0 then e.e0 else e.e1

/-- R508: the epoch slot of a line of a domain's extent, `i` lines from its base: the new one below the cursor of the sweep that runs, else the
old one while it is live. -/
def State.extentSlot (s : State) (h : HallId) (d i : Nat) : Nat :=
  let H := s.hall h
  let cur := ((H.dom d).map (·.current)).getD 0
  if H.oldLive d then (if H.sec.sweeps.head? = some d && decide (i < H.sec.cursor) then cur else 1 - cur) else cur

/-- R505, R508: what encrypts line l of hall h: a window's key, the key of the epoch that a frame's home carries, or that of the extent's line; none
for a line that holds no data of a program. -/
def State.lineKey (s : State) (h : HallId) (l : Nat) : Option (List Byte) :=
  let H := s.hall h
  let a := 256 * l
  match H.image with
  | none => none
  | some im =>
    let dk := fun (d slot : Nat) => (im.tenant d).bind fun t => ((s.epoch h.idx d).slot slot).map fun e => H.domainKey h.idx d t.ownerHash e
    match im.windows.find? fun (w : WindowEntry) => w.hall == h.idx && w.tier == 1 && decide (w.base ≤ a) && decide (a < w.base + w.size) with
    | some w => some (H.windowKey h.idx w.window im.sdigest)
    | none =>
      if H.mem.frameBase ≤ a then
        match H.frame ((a - H.mem.frameBase) / 65536) with
        | some f => dk f.dom f.epoch
        | none => none
      else
        match im.tenancy.find? fun (t : TenantEntry) =>
            let e := t.extent h.idx
            decide (65536 * e.1 ≤ a) && decide (a < 65536 * (e.1 + e.2)) with
        | some t => dk t.domain (s.extentSlot h t.domain (l - 256 * (t.extent h.idx).1))
        | none => none

/-! ### A line in its channel (R326, R505, R521, R535) -/

/-- R521: 256 B with the check symbols of their eight words, word j's at byte 256 + 4j. -/
def withChecks (c : List Byte) : List Byte :=
  c ++ (List.range 8).flatMap fun j => (rsCheck (slice c (32 * j) 32)).map (BitVec.ofNat 8)

/-- R326, R505, R535: the 288 B of line l in its channel: the ciphertext of its 256 B and the check symbols over that ciphertext; zeros, as the
fill leaves them, where no program's data lie. -/
def State.storedLine (s : State) (h : HallId) (l : Nat) : List Byte :=
  match s.lineKey h l with
  | some key => withChecks (xtsSeal key l ((s.hall h).dramRead h.idx (256 * l) 256))
  | none => withChecks (List.replicate 256 0)

/-- R505: what a controller of hall h makes of 288 stored bytes at line l: their first 256 decrypted under the line's key. -/
def State.loadLine (s : State) (h : HallId) (l : Nat) (stored : List Byte) : Option (List Byte) :=
  (s.lineKey h l).map fun key => xtsOpen key l (stored.take 256)

end Sys2Proof.Machine
end

