-- ==== Sys2Proof/Machine/Power.lean ====
section
/-! DEFINITION. Power states (17, R550 to R573): requests, the effective configuration, lowerings with their refusals, drains and entry
window, rises with their rows, operating points, temperature and wake pins. -/

namespace Sys2Proof.Machine

/-! ### Requests and the effective configuration -/

/-- R362: the CASCADE entry of a flight in an image. -/
def Image.flight (im : Image) (n : Nat) : Option FlightEntry := im.cascade.bind fun c => c.find? fun (f : FlightEntry) => f.flight == n

/-- R555: the configurations requested by the cascade, the ports and the wake pins. -/
def State.requests (s : State) : List Nat :=
  let cas := match (s.a.image.bind fun im => im.flight s.vst.level) with
    | some f => [f.powerConfig]
    | none => []
  let esc := match s.vst.esc with
    | some e => (match s.a.image.bind fun im => im.flight e.target with | some f => [f.powerConfig] | none => [])
    | none => []
  let ports := (s.a.pwr.reqs ++ s.pkg.farReqs).filterMap fun r => if r.1 then some r.2 else none
  cas ++ esc ++ ports ++ s.pkg.pinReqs.map (·.2)

/-- R556: a package configuration: state, galleries and operating points of the halls. -/
structure Config' where
  state : Nat
  galA : Nat
  galB : Nat
  opA : Nat
  opB : Nat
  deriving DecidableEq, Repr

/-- R556: the effective configuration: the union of the requested ones. -/
def State.effective (s : State) : Config' :=
  let es := s.requests.filterMap fun c => s.a.image.bind fun im => im.powers.find? fun (e : PowerEntry) => e.config == c
  let galA := es.foldl (fun a (e : PowerEntry) => a ||| e.galA) 0
  let galB := es.foldl (fun a (e : PowerEntry) => a ||| e.galB) 0
  { state := if galB ≠ 0 then 3 else es.foldl (fun a (e : PowerEntry) => max a e.state) 0
    galA := galA
    galB := galB
    opA := es.foldl (fun a (e : PowerEntry) => if e.galA = 0 then a else max a e.opA) 0
    opB := es.foldl (fun a (e : PowerEntry) => if e.galB = 0 then a else max a e.opB) 0 }

/-! ### Operating points -/

/-- R570: the thermal cap in force. -/
def Pwr.capNow (p : Pwr) (hot : BitVec 32) : Nat := if hot = 0 then p.cap else min p.cap 1

/-- R569: a hall's operating point on its way to the lower of what is asked and the cap. -/
def Hall.opSettle (H : Hall) : Hall :=
  let t := min H.pwr.opReq (H.pwr.capNow H.mem.hotChannels)
  let p :=
    if t < H.pwr.op then { H.pwr with opSwitch := some t, ramp := none }
    else if H.pwr.op < t then
      if H.pwr.ramp = some t || H.pwr.opSwitch = some t then H.pwr else { H.pwr with opSwitch := none, ramp := some t }
    else { H.pwr with opSwitch := none, ramp := none }
  { H with pwr := p }

/-- R116: a partition whose LOWEST_OP the hall's point has fallen below runs under the monitor. -/
def Hall.belowOp (H : Hall) (h : Nat) : Hall :=
  match H.image with
  | none => H
  | some im => im.partitions.foldl (fun (H : Hall) (e : PartEntry) =>
      if e.inHall h && decide (H.pwr.op < e.lowestOp) then H.onPart e.part fun x => { x with monitor := x.monitor ||| 32 } else H) H

/-- R569: the clocks switch at a tick boundary. -/
def Hall.opTick (H : Hall) (h : Nat) : Hall :=
  match H.pwr.opSwitch with
  | none => H
  | some t => ({ H with pwr := { H.pwr with op := t, opSwitch := none, ramp := none } }).belowOp h

/-- R569: the ramp for a raised point has ended. -/
def Hall.rampDone (H : Hall) : Hall :=
  match H.pwr.ramp with
  | none => H
  | some t => { H with pwr := { H.pwr with opSwitch := some t, ramp := none } }

/-! ### Drains and power-off -/

/-- R558: gallery g drains: its host contexts are swapped out with their whole footprints, its frame area empties. -/
def Hall.startDrain (H : Hall) (g : Nat) : Hall :=
  let H1 := { H with pwr := { H.pwr with drains := H.pwr.drains ||| BitVec.ofNat 8 (2 ^ g) } }
  let xs := H1.ctxs.filter fun x => galOf x.core == g && x.rslot.isSome && x.slot.isNone && x.alive && x.swap == .none
  let H2 := xs.foldl (fun (H : Hall) x => (H.chooseVictim true x).onCtx x.num fun y => { y with swapWhole := true }) H1
  H2.startShrink g 0

/-- R558: the drain of gallery g has nothing left to wait for. -/
def Hall.drained (H : Hall) (g : Nat) : Bool :=
  (H.gal g).area == 0 && H.ctxs.all fun x =>
    galOf x.core != g || !x.alive || (if x.slot.isSome then !x.streaming else x.rslot.isNone)

/-- R559, R311: a swap-out of the drain of gallery g has found no frame. -/
def Hall.drainStalled (H : Hall) (g : Nat) : Bool :=
  H.ctxs.any fun x => galOf x.core == g && x.slot.isNone && x.rslot.isSome && x.swapStalled

/-- R558, R212, R345: gallery g is powered off; its contents are lost. -/
def Hall.powerOff (H : Hall) (g : Nat) : Hall :=
  let H1 := H.storeLostFrames g
  let H2 := (H1.ctxs.filter fun x => galOf x.core == g && x.slot.isSome).foldl (fun (H : Hall) x => H.endCtx x.num .ended H.now) H1
  let H3 := (List.range 12).foldl (fun (H : Hall) i => H.onCore (12 * g + i) fun k => k.filled (H.gal g).wbr) H2
  let H4 := H3.onGal g fun G =>
    { G with st := .off, store := if G.wbr then Store.unwritten else Store.zero, rejoin := 0, resetting := 0, galResetting := false,
             added := false, fenceDue := false, areaWait := [], ptr := 0 }
  { H4 with
    mem := { H4.mem with cells := H4.mem.cells.filter fun e => !(decide (e.1 < 8192) && e.1 / 1024 == g) }
    pwr := { H4.pwr with
      galOn := Voted.all (H4.pwr.galOn.val &&& ~~~(BitVec.ofNat 8 (2 ^ g)))
      drains := H4.pwr.drains &&& ~~~(BitVec.ofNat 8 (2 ^ g)) } }

/-- R558, R426, R332: a hall leaves HALL or PAIR: its ISP stops, open frames are dropped, its LPDDR5X goes into self-refresh. -/
def Hall.leaveHall (H : Hall) : Hall :=
  { H with
    cam := { H.cam with
      cameras := H.cam.cameras.map fun (c : Camera) => { c with cur := none, dropping := false }
      ctxs := H.cam.ctxs.map fun (x : IspCtx) => { x with frames := [] }
      ports := H.cam.ports.map fun (p : RxPort) => { p with active := false, feedOpen := [] }
      piece := none }
    feeds := []
    mem := { H.mem with selfRefresh := true } }

/-- R551: the Stair end is down by configuration: MODE reads SINGLE. -/
def Hall.stairDown (H : Hall) : Hall :=
  { H with stair := { H.stair with
      mode := .single, alive := false, trained := false, lanesRx := 0, lanesTx := 0, outbox := [], waits := [], begun := [], ctlOut := []
      ctlWaits := [], ctlSent := [], moves := [], syncs := [], control := none, beat := none, lost := false, retrain := false } }

/-- R551: the domain states of the halls in a package state below the present one. -/
def State.dropDomains (s : State) (dest : Nat) : State :=
  let s1 :=
    if dest < 3 && s.b.pwr.hall != .retention then
      let s' := s.onHall .b fun H =>
        let H1 := H.leaveHall.stairDown
        { H1 with pwr := { H1.pwr with hall := .retention }, dev := { H1.dev with up := false } }
      s'.onHall .a Hall.stairDown
    else s
  let s2 := if dest < 2 && s1.a.pwr.hall == .on then
      s1.onHall .a fun H => let H1 := H.leaveHall; { H1 with pwr := { H1.pwr with hall := .reduced } }
    else s1
  if dest < 1 && s2.a.pwr.hall != .retention then
    s2.onHall .a fun H => { H with pwr := { H.pwr with hall := .retention }, dev := { H.dev with up := false } }
  else s2

/-- R610: the enables that a package state needs; vt stamps those that rise. -/
def State.setEnables (s : State) (dest : Nat) (vt : Option Nat) : State :=
  let core := [decide (1 ≤ dest), decide (3 ≤ dest)]
  let phy := [decide (2 ≤ dest), decide (3 ≤ dest)]
  let rises := fun (i : Nat) =>
    (core.getD i false && !(s.pkg.enCore.getD i false)) || (phy.getD i false && !(s.pkg.enPhy.getD i false))
  { s with pkg := { s.pkg with
      enCore := core, enPhy := phy
      enVt := (List.range 2).map fun i => if rises i then vt else s.pkg.enVt.getD i none } }

/-- PWR_STATUS.ENTRY of both halls. -/
def State.setEntry (s : State) (v : Bool) : State :=
  let f := fun (H : Hall) => { H with pwr := { H.pwr with entry := v } }
  (s.onHall .a f).onHall .b f

/-- R559, R561, R568: a refusal or abort in hall h's PWR block and event log; `which` counts 0 ABORTED, 1 NO_SWAP_FRAME, 2 DRIVE_HOLD,
3 VST_DETECTOR. -/
def State.refuse (s : State) (h : HallId) (which dest reason refuser : Nat) : State :=
  let s1 := s.onHall h fun H =>
    let p := H.pwr
    let p1 := match which with
      | 0 => { p with aborted := inc8 p.aborted }
      | 1 => { p with noSwap := inc8 p.noSwap }
      | 2 => { p with holdRefusals := inc8 p.holdRefusals }
      | _ => { p with vstRefusals := inc8 p.vstRefusals }
    { H with pwr := { p1 with lastRefusal := (dest, reason, refuser) } }
  s1.log h 0x0301 refuser reason

/-- The gallery masks that are on. -/
def State.onMasks (s : State) : Nat × Nat := (s.a.pwr.galOn.val.toNat, s.b.pwr.galOn.val.toNat)

/-- Bits of `a` that are not in `b`, of 8. -/
def maskOff (a b : Nat) : List Nat := (List.range 8).filter fun g => bit a g && !(bit b g)

/-- R559: a steward holds back a lowering: it would power off a gallery of a partition that issues class 0 while DRIVE_HOLD is set. -/
def Hall.driveHold (H : Hall) (h : Nat) (off : List Nat) : Bool :=
  H.pwr.driveHold && match H.image with
    | some im => im.partitions.any fun (e : PartEntry) => bit e.classes 0 && off.any fun g => bit (e.gals h) g
    | none => false

/-! ### Rises -/

/-- R567: the galleries that the row reaching state `to` powers. -/
def State.rowGals (s : State) (e : Config') (dest : Nat) : Nat × Nat :=
  if dest = e.state then (e.galA, e.galB)
  else if dest = 1 then
    match s.a.image.bind fun im => (im.flight 1).bind fun f => im.powers.find? fun (c : PowerEntry) => c.config == f.powerConfig with
    | some c => (c.galA &&& e.galA, 0)
    | none => (0, 0)
  else (e.galA, 0)

/-- Galleries whose power-up has been decided are filled (R535). -/
def Hall.fillGals (H : Hall) (gs : List Nat) : Hall :=
  gs.foldl (fun (H : Hall) g => H.onGal g fun G => { G with st := .fill }) H

/-- R567: the row of a rise towards configuration e begins. -/
def State.startRow (s : State) (e : Config') (vt : Nat) : State :=
  let dest := if s.pkg.state < e.state then s.pkg.state + 1 else s.pkg.state
  let g := s.rowGals e dest
  let on := s.onMasks
  let s1 := (s.setEnables (max dest s.pkg.state) (some vt)).setEntry true
  let s2 := (s1.onHall .a fun H => H.fillGals (maskOff g.1 on.1)).onHall .b fun H => H.fillGals (maskOff g.2 on.2)
  { s2 with pkg := { s2.pkg with rise := some ⟨dest, BitVec.ofNat 8 g.1, BitVec.ofNat 8 g.2, e.state⟩ } }

/-- R566: a rise of the package state is recorded. -/
def State.recordRise (s : State) (dest : Nat) (cause : Option (Nat × Nat)) (vt : Nat) : State :=
  match cause with
  | none => s
  | some (source, detail) => { s with pkg := { s.pkg with lastWake := (dest, detail, source), lastWakeVt := vt % 2 ^ 32 } }

/-- R535, R61: galleries released after their power-up: filled, and added to their partition from a sweep boundary. -/
def Hall.releaseGals (H : Hall) (gs : List Nat) : Hall :=
  let H1 := gs.foldl (fun (H : Hall) g => H.onGal g fun G =>
    { G with st := if G.galFence then .fenced else .run, added := true }) H
  { H1 with pwr := { H1.pwr with
      galOn := Voted.all (H1.pwr.galOn.val ||| BitVec.ofNat 8 (gs.foldl (fun a g => a ||| 2 ^ g) 0)) } }

/-- R558, R426: a hall's transmit ports start frames again. -/
def Hall.txResume (H : Hall) (h : Nat) : Hall :=
  (List.range 4).foldl (fun (H : Hall) t => H.txStart h t) { H with pwr := { H.pwr with txStop := false } }

/-- R332: a hall enters HALL or PAIR: self-refresh ends with a tracking pass. -/
def Hall.enterHall (H : Hall) : Hall :=
  { H with
    pwr := { H.pwr with hall := .on }
    dev := { H.dev with up := true }
    mem := { H.mem with selfRefresh := false, tracked := H.mem.tracked + b2n H.mem.selfRefresh } }

/-- R551: the domain states that a rise's row reaching state `to` gives. -/
def State.raiseDomains (s : State) (dest : Nat) : State :=
  let s1 := if dest = 1 && s.a.pwr.hall == .retention then
      s.onHall .a fun H => { H with pwr := { H.pwr with hall := .reduced }, dev := { H.dev with up := true } }
    else s
  let s2 := if 2 ≤ dest && s1.a.pwr.hall != .on then (s1.onHall .a fun H => H.enterHall.txResume 0).prepareBuses .a else s1
  if dest = 3 && s2.b.pwr.hall != .on then (s2.onHall .b fun H => H.enterHall.txResume 1).prepareBuses .b else s2

/-! ### Decisions -/

/-- R558 step 5, R560: the domains have been powered off: the entry window runs if the state falls, else the entry is over. -/
def State.lowerOff (s : State) (l : Lowering) : State :=
  let on := s.onMasks
  let s1 := s.onHall .a fun H => (maskOff on.1 l.galA.toNat).foldl (fun (H : Hall) g => H.powerOff g) H
  let s2 := s1.onHall .b fun H => (maskOff on.2 l.galB.toNat).foldl (fun (H : Hall) g => H.powerOff g) H
  let s3 := s2.dropDomains l.toState
  if l.toState < s3.pkg.state then { s3 with pkg := { s3.pkg with lower := some { l with window := true } } }
  else { s3 with pkg := { s3.pkg with lower := none } }.setEntry false

/-- R551: lowering l takes hall h out of HALL or PAIR. -/
def State.leaves (s : State) (l : Lowering) (h : HallId) : Bool :=
  match h with
  | .a => decide (l.toState < 2) && s.a.pwr.hall == .on
  | .b => decide (l.toState < 3) && s.b.pwr.hall != .retention

/-- R558 step 3: a transmit frame is open in a hall that lowering l takes out of HALL or PAIR. -/
def State.txAwaited (s : State) (l : Lowering) : Bool :=
  ([HallId.a, .b]).any fun h => s.leaves l h && (s.hall h).streams.any fun (x : TxStream) => x.sending.isSome

/-- R558 steps 3 to 5: the drains have ended: a hall that leaves HALL or PAIR starts no transmit frame, and once its open ones have ended the
domains are powered off. -/
def State.drainsOver (s : State) (l : Lowering) : State :=
  let s1 := ([HallId.a, .b]).foldl (fun (s : State) h =>
    if s.leaves l h then s.onHall h fun H => { H with pwr := { H.pwr with txStop := true } } else s) s
  if s1.txAwaited l then s1 else s1.lowerOff l

/-- R558: a lowering to configuration e begins: refusers, then the drains. The answer has the drains running, or the domains off where there
is nothing to drain. -/
def State.startLower (s : State) (e : Config') : State :=
  let on := s.onMasks
  let offA := maskOff on.1 e.galA
  let offB := maskOff on.2 e.galB
  let vst := e.state == 0 && s.pkg.state != 0 && !s.vst.cands.isEmpty
  let hA := s.a.driveHold 0 offA
  let hB := s.b.driveHold 1 offB
  let s0 := if vst then { (s.refuse .a 3 e.state 1 1) with vst := { s.vst with retryEntry := true } } else s
  let s1 := if hA then s0.refuse .a 2 e.state 2 2 else s0
  let s2 := if hB then s1.refuse .b 2 e.state 2 3 else s1
  if vst || hA || hB then s2
  else
    let a := s.a
    let b := s.b
    let dA := offA.foldl (fun (H : Hall) g => H.startDrain g) a
    let dB := offB.foldl (fun (H : Hall) g => H.startDrain g) b
    let stA := offA.any fun g => dA.drainStalled g
    let stB := offB.any fun g => dB.drainStalled g
    if stA || stB then
      let s3 := if stA then s.refuse .a 1 e.state 3 2 else s
      if stB then s3.refuse .b 1 e.state 3 3 else s3
    else
      let l : Lowering := ⟨e.state, BitVec.ofNat 8 e.galA, BitVec.ofNat 8 e.galB, false, none⟩
      let s3 := { s with a := dA, b := dB, pkg := { s.pkg with lower := some l } }.setEntry true
      if offA.isEmpty && offB.isEmpty then s3.drainsOver l else s3

/-- R556: the effective configuration is formed and acted on; `cause` is the source of a rise (R566), `abort` what an aborted lowering
names (R561). -/
def State.applyPower (s : State) (cause : Option (Nat × Nat)) (abort : Nat × Nat) (vt : Nat) : State :=
  if !s.pkg.applies || s.a.image.isNone then s
  else
    let e := s.effective
    let s1 := (s.onHall .a fun H => ({ H with pwr := { H.pwr with opReq := e.opA } }).opSettle).onHall .b fun H =>
      ({ H with pwr := { H.pwr with opReq := e.opB } }).opSettle
    let on := s1.onMasks
    match s1.pkg.rise, s1.pkg.lower with
    | some r, _ =>
      if r.goal < e.state then ({ s1 with pkg := { s1.pkg with rise := some { r with goal := e.state } } }).recordRise e.state cause vt
      else s1
    | none, some l =>
      if l.toState < e.state || !(maskOff e.galA l.galA.toNat).isEmpty || !(maskOff e.galB l.galB.toNat).isEmpty then
        let s2 := { s1 with pkg := { s1.pkg with lower := some { l with abort := some (l.abort.getD abort) } } }
        if s2.pkg.state < e.state || l.toState < e.state then s2.recordRise e.state cause vt else s2
      else s1
    | none, none =>
      if s1.pkg.state < e.state || !(maskOff e.galA on.1).isEmpty || !(maskOff e.galB on.2).isEmpty then
        let s2 := if s1.pkg.state < e.state then s1.recordRise e.state cause vt else s1
        s2.startRow e vt
      else if e.state < s1.pkg.state || !(maskOff on.1 e.galA).isEmpty || !(maskOff on.2 e.galB).isEmpty then s1.startLower e
      else s1

/-- R561: a lowering that a rise aborts ends here: counted, and the domains rise from the point reached. -/
def State.abortLower (s : State) (l : Lowering) (vt : Nat) : State :=
  match l.abort with
  | none => s
  | some (refuser, reason) =>
    let clear := fun (h : Nat) (H : Hall) => ({ H with pwr := { H.pwr with drains := 0 } } : Hall).txResume h
    let s1 := (s.onHall .a (clear 0)).onHall .b (clear 1)
    let s2 := { s1 with pkg := { s1.pkg with lower := none } }.setEntry false
    (s2.refuse .a 0 l.toState reason refuser).applyPower none (0, 0) vt

/-- R558: the drain of gallery g of hall h has ended; when it is the last, the lowering goes on. A drain without a frame for a swap-out
refuses the entry. -/
def State.drainDone (s : State) (h : HallId) (g : Nat) : State :=
  match s.pkg.lower with
  | none => s
  | some l =>
    let H := s.hall h
    if !(H.pwr.drains.getLsbD g) then s
    else if H.drainStalled g then
      let clear := fun (H : Hall) => { H with pwr := { H.pwr with drains := 0 } }
      let s1 := (s.onHall .a clear).onHall .b clear
      ({ s1 with pkg := { s1.pkg with lower := none } }.setEntry false).refuse h 1 l.toState 3 (2 + h.idx)
    else if !(H.drained g) then s
    else
      let s1 := s.onHall h fun H => { H with pwr := { H.pwr with drains := H.pwr.drains &&& ~~~(BitVec.ofNat 8 (2 ^ g)) } }
      if s1.a.pwr.drains != 0 || s1.b.pwr.drains != 0 then s1
      else if l.abort.isSome then s1.abortLower l s1.pkg.lastWakeVt
      else s1.drainsOver l

/-- R558 step 3, R561: a packet has left a transmit port: the lowering that waits for the last open frame goes on. -/
def State.txOver (s : State) : State :=
  match s.pkg.lower with
  | none => s
  | some l =>
    if l.window || s.a.pwr.drains != 0 || s.b.pwr.drains != 0 || !(s.a.pwr.txStop || s.b.pwr.txStop) || s.txAwaited l then s
    else if l.abort.isSome then s.abortLower l s.pkg.lastWakeVt
    else s.lowerOff l

/-- R560: the entry window has ended: the state is the one aimed at. -/
def State.windowEnd (s : State) (vt : Nat) : State :=
  match s.pkg.lower with
  | none => s
  | some l =>
    if !l.window then s
    else
      let s1 := ({ s with pkg := { s.pkg with state := l.toState } }.setEnables l.toState none).setEntry false
      if l.abort.isSome then s1.abortLower l vt
      else { s1 with pkg := { s1.pkg with lower := none } }.applyPower none (0, 0) vt

/-- R567: the row of a rise has ended: its domains are released, and the next row begins or the rise is over. -/
def State.riseDone (s : State) (vt : Nat) : State :=
  match s.pkg.rise with
  | none => s
  | some r =>
    let ready := s.pkg.pg.getD 0 false && (r.toState < 3 || s.pkg.pg.getD 1 false)
    if !ready then s
    else
      let on := s.onMasks
      let s1 := s.raiseDomains r.toState
      let s2 := (s1.onHall .a fun H => H.releaseGals (maskOff r.galA.toNat on.1)).onHall .b fun H =>
        H.releaseGals (maskOff r.galB.toNat on.2)
      let s3 := { s2 with pkg := { s2.pkg with state := max s2.pkg.state r.toState, rise := none } }
      if r.toState < r.goal then
        let e := s3.effective
        if s3.pkg.state < e.state then s3.startRow e vt else (s3.setEntry false).applyPower none (0, 0) vt
      else (s3.setEntry false).applyPower none (0, 0) vt

/-- R568: hall h's power-good has not come in twice the row's time: its new domains stay off, and the rise ends at the last state reached. -/
def State.goodTimeout (s : State) (h : HallId) : State :=
  match s.pkg.rise with
  | none => s
  | some r =>
    if s.pkg.pg.getD h.idx false then s
    else
      let on := s.onMasks
      let off := fun (gs : List Nat) (H : Hall) => gs.foldl (fun (H : Hall) g => H.onGal g fun G => { G with st := .off }) H
      let s1 := (s.onHall .a (off (maskOff r.galA.toNat on.1))).onHall .b (off (maskOff r.galB.toNat on.2))
      let s2 := ({ s1 with pkg := { s1.pkg with rise := none } }.setEnables s1.pkg.state none).setEntry false
      s2.refuse h 0 r.toState 6 6

/-! ### Requests that change -/

/-- R555: a host port's request, written in its hall; a Hall B port's reaches Hall A's steward over CONTROL. -/
def State.powerReq (s : State) (p : Nat) (valid : Bool) (config vt : Nat) : State :=
  let h := portHall p
  let s1 := s.onHall h fun H => { H with pwr := { H.pwr with reqs := modAt H.pwr.reqs (portIdx p) fun _ => (valid, config) } }
  match h with
  | .a => s1.applyPower (some (4, portIdx p)) (0, 0) vt
  | .b => s1.onHall .b fun H => H.tell (.powerRequest (portIdx p) valid config)

/-- R565: every pin-held request is released. -/
def State.wakeRelease (s : State) (vt : Nat) : State :=
  ({ s with pkg := { s.pkg with pinReqs := [] } }).applyPower none (0, 0) vt

/-! ### Temperature -/

/-- R570: the cap steps. -/
def Hall.capStep (H : Hall) (cap : Nat) (temp : Int) : Hall :=
  ({ H with pwr := { H.pwr with cap := cap, temp := max (-128) (min 127 temp) } }).opSettle

/-- R571: at 125 °C every gallery of the hall is powered off and fenced, its strike counts at 3. -/
def State.thermalTrip (s : State) (h : HallId) (temp : Int) : State :=
  let s1 := (List.range 8).foldl (fun (s : State) g =>
    if ((s.hall h).gal g).st == .off then s else s.fenceGallery h g 0) s
  s1.onHall h fun H =>
    let H1 := (List.range 8).foldl (fun (H : Hall) g => H.powerOff g) H
    let H2 := (List.range 8).foldl (fun (H : Hall) g => H.onGal g fun G =>
      { G with fence := Voted.all 0xFFF, galFence := true, strikes := G.strikes.map fun _ => 3 }) H1
    { H2 with pwr := { H2.pwr with trip := true, temp := max (-128) (min 127 temp) } }

/-! ### Wake pins -/

/-- R552: an image's entry of pin n. -/
def State.pin (s : State) (n : Nat) : PinEntry :=
  ((s.a.image.bind fun im => im.pins[n]?).getD ⟨0, 0xFF⟩)

/-- R563 to R565: pin n gives a wake: counted against R564, then delivered as a class 13 WAKE, or without a cascade as a request. -/
def State.pinWake (s : State) (n vt : Nat) : State :=
  let stuck := s.pkg.stuck.getLsbD n
  if !(s.pkg.wakeEn.getLsbD n) || stuck || 8 ≤ n then s
  else
    let ts := (vt :: s.pkg.times.getD n []).take 17
    let s1 := { s with pkg := { s.pkg with times := modAt s.pkg.times n fun _ => ts } }
    if (match ts[16]? with | some t => decide (vt ≤ t + 32768) | none => false) then
      ({ s1 with pkg := { s1.pkg with stuck := s1.pkg.stuck ||| BitVec.ofNat 8 (2 ^ n) } }).log .a 0x0302 0 n
    else
      match s1.a.image.bind fun im => im.cascade with
      | some _ => { s1 with vst := { s1.vst with pinWakes := s1.vst.pinWakes ++ [n] } }
      | none =>
        let c := (s1.pin n).config
        if c = 0xFF then s1
        else ({ s1 with pkg := { s1.pkg with pinReqs := s1.pkg.pinReqs.filter (fun (r : Nat × Nat) => r.1 != n) ++ [(n, c)] } }).applyPower (some (1, n)) (4, 4) vt

/-- R560, R562, R563: a debounced pin becomes active; in the entry window no samples are taken. -/
def State.wakePinAccept (s : State) (n vt : Nat) : State :=
  if (match s.pkg.lower with | some l => l.window | none => false) || 8 ≤ n || s.pkg.active.getLsbD n then s
  else ({ s with pkg := { s.pkg with active := s.pkg.active ||| BitVec.ofNat 8 (2 ^ n) } }).pinWake n vt

/-- R563: a level pin still active gives another wake. -/
def State.levelRepeat (s : State) (n vt : Nat) : State :=
  if (match s.pkg.lower with | some l => l.window | none => false) || !(s.pkg.active.getLsbD n) || !(bit (s.pin n).flags 1) then s
  else s.pinWake n vt

/-- R562: a debounced pin becomes inactive. -/
def State.wakePinInactive (s : State) (n vt : Nat) : State :=
  if (match s.pkg.lower with | some l => l.window | none => false) || 8 ≤ n || !(s.pkg.active.getLsbD n) then s
  else { s with pkg := { s.pkg with
      active := s.pkg.active &&& ~~~(BitVec.ofNat 8 (2 ^ n)), inactive := modAt s.pkg.inactive n fun _ => vt } }

/-- R564: a stuck pin that has been inactive for 1 s loses its mark. -/
def State.stuckClear (s : State) (n vt : Nat) : State :=
  if 8 ≤ n || s.pkg.active.getLsbD n || decide (vt < s.pkg.inactive.getD n 0 + 32768) then s
  else { s with pkg := { s.pkg with
      stuck := s.pkg.stuck &&& ~~~(BitVec.ofNat 8 (2 ^ n)), times := modAt s.pkg.times n fun _ => [] } }

end Sys2Proof.Machine
end

