-- ==== Sys2Proof/Machine/Boundary.lean ====
section
/-! DEFINITION. The steward's sweep-boundary work (01, R57 to R63; 02, R82, R94; 03, R104, R117, R123; 09, R304, R317, R319; 10, R323; 16,
R537, R545, R599). -/

namespace Sys2Proof.Machine

/-! ### Rejoins, additions, strikes (R60 to R62) -/

/-- R60: the cores of a gallery that may run: not resetting, and fewer than three strikes. -/
def Gallery.fit (G : Gallery) : BitVec 12 :=
  (List.range 12).foldl (fun (a : BitVec 12) i =>
    if !(G.resetting.getLsbD i) && decide (G.strikes.getD i 0 < 3) then a ||| BitVec.ofNat 12 (2 ^ i) else a) 0

/-- R60, R62: the rejoins of a gallery at a sweep boundary: the gallery itself, its store and cores filled, or the cores that wait. -/
def Gallery.rejoins (G : Gallery) : Gallery :=
  if G.galFence then
    if !G.galResetting && !G.fenceDue && decide (6 ≤ popcount 12 G.fit.toNat) && decide (G.strikes.getD 0 0 < 3) && G.st == .fenced then
      { G with galFence := false, st := .run, fence := Voted.all (~~~G.fit), rejoin := 0 }
    else G
  else
    let back := G.rejoin &&& G.fit
    { G with fence := Voted.all (G.fence.val &&& ~~~back), rejoin := G.rejoin &&& ~~~back }

/-- R60: the sweeps that each core has completed without a fence, as a boundary finds it before its rejoins. -/
def Gallery.countClean (G : Gallery) : Gallery :=
  { G with clean := (List.range 12).map fun i => if G.fence.val.getLsbD i then 0 else min 1024 (G.clean.getD i 0 + 1) }

/-- R61: a gallery that waits to be added is added. -/
def Gallery.add (G : Gallery) : Gallery := { G with added := false }

/-- R60: core c of a gallery has run 1,024 sweeps without a fence: its strikes return to 0. -/
def Gallery.strikeReset (G : Gallery) (c : Nat) : Gallery :=
  if 1024 ≤ G.clean.getD c 0 then { G with strikes := modAt G.strikes c fun _ => 0, clean := modAt G.clean c fun _ => 0 } else G

/-- R62: rejoins, then additions. -/
def Hall.rejoinAll (H : Hall) : Hall :=
  { H with gals := H.gals.map fun (G : Gallery) => { G.countClean.rejoins.add with fenceDue := false } }

/-- R317: contexts of slots that run away from a home core which works again go home between issues. -/
def Hall.goHome (H : Hall) (h : Nat) : Hall :=
  (H.ctxs.filter fun (x : Ctx) => x.slot.isSome && x.moved && x.alive && !x.streaming && H.coreRuns x.home).foldl (fun (H : Hall) x =>
    let H1 := (H.dropSaved x).onCtx x.num fun y0 =>
      let y := y0.settled H.now
      { y with core := y.home, moved := false, rslot := none, st := if y.st == .faulted || y.st == .ended then y.st else .waiting }
    H1.settleCtx h x.num) H

/-! ### The frame area (R323) -/

/-- R323: a new block of gallery g's frame area would overlap a slot pool or a window. -/
def Hall.growthBlocked (H : Hall) (h g : Nat) : Bool :=
  let G := H.gal g
  let a := galSize - 65536 * min 96 G.areaReq
  let n := 65536 * (min 96 G.areaReq - G.area)
  H.inPool g a n || match H.image with
    | none => false
    | some im => im.windows.any fun (w : WindowEntry) => w.hall == h && w.tier == 0 && w.gallery == g && rangesMeet a n w.base w.size

/-- R323: the area requested of gallery g is applied. -/
def Hall.applyArea (H : Hall) (h g : Nat) : Hall :=
  let G := H.gal g
  let t := min 96 G.areaReq
  if G.st == .off || H.pwr.drains.getLsbD g then H
  else if G.area < t then
    if H.growthBlocked h g then H.logOther 0x0E g 0x20
    else
      let wait := H.ctxs.flatMap fun (x : Ctx) =>
        (x.cmds.filter fun k => k.stage != .queued).map fun k => (k.serial, k.kills)
      H.onGal g fun G => { G with areaOld := G.area, area := t, areaWait := wait, shrinkTo := none }
  else if t < G.area then H.startShrink g t
  else H.onGal g fun G => { G with shrinkTo := none }

/-! ### The table choice (R82) -/

/-- R557: gallery g is powered. -/
def Hall.powered (H : Hall) (g : Nat) : Bool := H.pwr.galOn.val.getLsbD g

/-- R557: a partition without a powered gallery in the hall is dormant there. -/
def Hall.dormant (H : Hall) (p : Nat) : Bool :=
  !((List.range 8).any fun g => (H.gal g).partition == some p && H.powered g)

/-- R82: the other hall's working galleries of a partition as they stand at the boundary that starts sweep `sweep`. -/
def Hall.countAt (H : Hall) (p sweep : Nat) : Nat :=
  if H.swp.sweep = sweep && !H.swp.boundaryDue then (H.workingOf p).length else (H.rejoinAll.workingOf p).length

/-- R53, R82: the partner of a paired partition is alive. -/
def Hall.partnerUp (H : Hall) : Bool := H.stair.alive && !H.stair.lost

/-- R82: HALVES and the working gallery count of a partition. -/
def Hall.halvesOf (H other : Hall) (e : PartEntry) : Nat × Nat :=
  let own := (H.workingOf e.part).length
  if e.paired && H.partnerUp then (2, min own (other.countAt e.part H.swp.sweep)) else (1, own)

/-- R82: the table of the candidate with the largest count; of equal entries the first (DESIGN CHOICE 53). -/
def Image.choose (im : Image) (p halves n : Nat) : Option Nat :=
  let c := im.degraded.filter fun (m : MapEntry) => m.part == p && m.halves == halves && decide (m.count ≤ n)
  (c.foldl (fun (a : Option MapEntry) m =>
    match a with
    | none => some m
    | some b => if b.count < m.count then some m else some b) none).map (·.table)

/-- R349: the hall cells of partition e are set to 0. -/
def Hall.clearCells (H : Hall) (h : Nat) (e : PartEntry) : Hall :=
  let r := e.sync h
  { H with mem := { H.mem with cells := H.mem.cells.filter fun c => !(decide (r.1 ≤ c.1) && decide (c.1 < r.1 + r.2)) } }

/-- R82, R557, R349: the table of partition e chosen at a boundary, or none. -/
def Hall.chooseTable (H : Hall) (h : Nat) (other : Hall) (im : Image) (e : PartEntry) : Hall :=
  let v := H.halvesOf other e
  if H.dormant e.part then H.onPart e.part fun x => { x with table := Voted.all 0xFFFF, lastCount := 0 }
  else
    match im.choose e.part v.1 v.2 with
    | none => (H.onPart e.part fun x => { x with table := Voted.all 0xFFFF }).addLog 0x0204 e.part v.2 0
    | some t =>
      let H0 := if (H.part e.part).table.val = BitVec.ofNat 16 t then H else H.clearCells h e
      let H1 := H0.onPart e.part fun x => { x with table := Voted.all (BitVec.ofNat 16 t) }
      { H1 with swp := { H1.swp with tableChosen := true } }

/-! ### Slot contexts (R304) -/

/-- R304, R625: the contexts that the slots of partition p's table need: slot, core bit, home core, descriptor, class and domain. -/
def Hall.slotNeeds (H : Hall) (im : Image) (p : Nat) (t : SweepTable) : List (Slot × Nat × Nat × CtxDesc × Nat) :=
  t.slots.flatMap fun (s : Slot) =>
    match H.mapLog p s.lgallery, H.loaded s.model, im.domOfModel s.model with
    | some g, some m, some d =>
      ((List.range 12).filter fun c => bit s.coreMask c).filterMap fun c =>
        (m.desc s.lgallery c).map fun bs => (s, c, 12 * g + c, { CtxDesc.ofBytes bs with gallery := g }, d)
    | _, _, _ => []

/-- R304: a context of a slot is created on its home core, or on a replacement where the core is fenced; a class-0 context is made
resident. -/
def Hall.newSlotCtx (H : Hall) (h p table : Nat) (n : Slot × Nat × Nat × CtxDesc × Nat) : Hall :=
  match H.newNumber with
  | none => H
  | some num =>
    let s := n.1
    let home := n.2.2.1
    let x := { Ctx.fresh num s.cls p n.2.2.2.2 n.2.2.2.1 home with slot := some ⟨table, s.slot, n.2.1, s.model⟩ }
    let cands := H.replacements p (galOf home)
    let core := if H.coreTakes home then home else ((cands.find? fun c => H.fits h x c).orElse fun _ => cands.head?).getD home
    (H.insertCtx { x with core := core, moved := decide (core ≠ home) }).settleCtx h num

/-- R304: the slot contexts of partition p at a table choice. Contexts of a slot that still stand where the table needs them stay; others
end once idle, and missing ones are created. -/
def Hall.slotContexts (H : Hall) (h : Nat) (im : Image) (p : Nat) : Hall :=
  let needs := match H.tableOf p with
    | some t => H.slotNeeds im p t
    | none => []
  let tab := (H.tableOf p).map fun (t : SweepTable) => t.table
  let isFor := fun (x : Ctx) (n : Slot × Nat × Nat × CtxDesc × Nat) =>
    x.part == p && x.alive && x.home == n.2.2.1 &&
      match x.slot with
      | some o => some o.table == tab && o.slot == n.1.slot && o.bit == n.2.1
      | none => false
  let H1 := (H.ctxs.filter fun (x : Ctx) => x.part == p && x.alive && x.slot.isSome && !x.streaming && !(needs.any fun n => isFor x n)).foldl
    (fun (H : Hall) x => H.endCtx x.num .ended H.now) H
  needs.foldl (fun (H : Hall) n =>
    if H.ctxs.any fun x => isFor x n then H else H.newSlotCtx h p (tab.getD 0) n) H1

/-! ### Deadline-monitor reasons (R117) -/

/-- R117: every slot context of partition p's table in force runs on its home core. -/
def Hall.allHome (H : Hall) (p : Nat) : Bool := H.ctxs.all fun x => !(x.part == p && x.alive && x.slot.isSome) || !x.moved

/-- R117, R59: the reasons of partition e at a sweep boundary, after its table choice; the working gallery count is that of R82. -/
def Hall.reasons (H O : Hall) (e : PartEntry) : Hall :=
  let p := e.part
  let n := (H.halvesOf O e).2
  let home := H.allHome p && (!(e.paired && H.partnerUp) || O.allHome p)
  let tab := H.tableOf p
  if H.dormant p then H.onPart p fun x => { x with monitor := 0 }
  else
    H.onPart p fun x =>
      let startUp := x.monitor.getLsbD 0 && !(H.swp.lock == .locked && tab.isSome)
      let fence := x.lastCount != n || (x.monitor.getLsbD 2 && !home)
      let lost := x.monitor.getLsbD 6 && !((tab.map fun (t : SweepTable) => t.halves) == some 1 || H.partnerUp)
      let m := b2n startUp + 2 * b2n (H.swp.monitorReq.getLsbD p) + 4 * b2n fence + 8 * b2n tab.isNone
        + 16 * b2n (H.swp.lock == .generator) + 32 * b2n (decide (H.pwr.op < e.lowestOp)) + 64 * b2n lost
      { x with monitor := BitVec.ofNat 7 m, lastCount := n }

/-- R123: every mark that partition p's table had in the sweep that has ended was MATCH. -/
def Hall.allMatched (H : Hall) (p : Nat) : Bool :=
  let sw := H.swp.past.1
  match H.imageIn sw, H.tableIn p sw with
  | some im, some t => t.halves != 2 || (im.marks.filter fun m => m.table == t.table).all fun m => ((H.mark p m.mark sw).map (·.verdict)) == some 1
  | _, _ => true

/-- R123: the divergence counts at the end of a sweep. -/
def Hall.settleDiverged (H : Hall) : Hall :=
  { H with swp := { H.swp with parts := (List.range H.swp.parts.length).zipWith (fun p (x : PartState) =>
      { x with consec := if x.diverged || H.stair.lost || !(H.allMatched p) then x.consec else 0, diverged := false }) H.swp.parts } }

/-! ### Accounts, counters, streams -/

/-- R319: a value rounded down to 4,096. -/
def coarse (n : Nat) : Nat := n / 4096 * 4096

/-- R319: an account as its readers see it. -/
def Account.coarsened (a : Account) : Account :=
  { committed := coarse (min a.committed 0xFFFFFFFF), kills := coarse (min a.kills 0xFFFFFFFF)
    runCycles := coarse (min a.runCycles (2 ^ 64 - 1)), killedCycles := coarse (min a.killedCycles (2 ^ 64 - 1))
    readyCycles := coarse (min a.readyCycles (2 ^ 64 - 1)), blockedCycles := coarse (min a.blockedCycles (2 ^ 64 - 1))
    swapOuts := coarse (min a.swapOuts 0xFFFFFFFF), swapStalls := coarse (min a.swapStalls 0xFFFFFFFF)
    admitCycles := coarse (min a.admitCycles 0xFFFFFFFF), replays := coarse (min a.replays 0xFFFFFFFF) }

/-- R318: the account of a context at cycle now, the spells that have not ended included. -/
def Ctx.running (x : Ctx) (now : Nat) : Account :=
  let since := fun (t : Option Nat) => match t with | some t => now - t | none => 0
  { x.acct with
    readyCycles := x.acct.readyCycles + ((x.cmds.filter fun k => !k.suppress).map fun k => since k.readyAt).foldl (· + ·) 0
    blockedCycles := x.acct.blockedCycles + since x.blockedSince
    admitCycles := x.acct.admitCycles + since x.waitSince }

/-- R319, R582, R465, R601: what is refreshed once a sweep: accounts, the sweep bank, stream counts, the log limits of the ports. -/
def Hall.refresh (H : Hall) : Hall :=
  { H with
    ctxs := H.ctxs.map fun (x : Ctx) => { x with shown := (x.running H.now).coarsened, shownState := x.stateCode, shownFault := x.lastFault }
    cnt := { H.cnt with bank := (H.cnt.live.map fun e => (e.1, coarse e.2)).filter fun e => e.2 != 0 }
    streams := H.streams.map fun (x : TxStream) => { x with shown := (x.sent, x.dropped, x.oversize) }
    ports := H.ports.map fun (P : Port) => { P with logged := 0 } }

/-- R539: a pass of the steward's own. -/
def Pass.own : Pass := ⟨0, 0, 0, 0, false⟩

/-- R537, R539: the scrub mode chosen at a sweep boundary; in PASSES mode the steward's passes follow one another. -/
def Hall.scrubChoice (H : Hall) : Hall :=
  let n := (H.gals.filter fun (G : Gallery) => G.st == .run).length
  let mode := if !H.err.scrubEn then 0 else if n ≤ 2 then 1 else 2
  let ps := if mode = 2 && H.err.passes.isEmpty then [Pass.own] else H.err.passes
  { H with err := { H.err with scrubMode := mode, passes := ps, passBusy := !ps.isEmpty } }

/-- R444: ISP_STATUS.LOAD of the sweep that has ended, and the busy cycles begun again. -/
def Hall.ispLoad (H : Hall) : Hall :=
  let total := H.swp.per * 8
  { H with cam := { H.cam with load := if total = 0 then 0 else min 255 (100 * H.cam.busy / total), busy := 0 } }

/-! ### Voted fields (R599) -/

/-- A voted field repaired, with whether a copy differed. -/
def Voted.repair {w : Nat} (v : Voted w) : Voted w × Bool := (Voted.all v.val, !(v.c0 == v.val && v.c1 == v.val && v.c2 == v.val))

/-- R599: a repair counted and logged. -/
def Hall.repaired (H : Hall) (code inst : Nat) : Hall :=
  ({ H with dev := { H.dev with repaired := inc16 H.dev.repaired, lastField := code } }).addLog 0x0007 code inst 0

/-- R599: every voted field of the hall compared and repaired, in ascending field code and instance. -/
def Hall.repairVotes (H : Hall) : Hall :=
  let H0 := (List.range 8).foldl (fun (H : Hall) g =>
    let r := (H.gal g).part.repair
    if r.2 then (H.onGal g fun G => { G with part := r.1 }).repaired 0 g else H) H
  let rp := H0.pwr.galOn.repair
  let H1 := if rp.2 then ({ H0 with pwr := { H0.pwr with galOn := rp.1 } }).repaired 1 0 else H0
  let H2 := (List.range 16).foldl (fun (H : Hall) p =>
    let r := (H.part p).table.repair
    if r.2 then (H.onPart p fun x => { x with table := r.1 }).repaired 2 p else H) H1
  let H3 := H2.sec.doms.foldl (fun (H : Hall) d =>
    let r := d.bind.repair
    if r.2 then
      ({ H with sec := { H.sec with doms := H.sec.doms.map fun (x : Dom) => if x.num = d.num then { x with bind := r.1 } else x } }).repaired 3
        d.num
    else H) H2
  (List.range 8).foldl (fun (H : Hall) g =>
    let r := (H.gal g).fence.repair
    if r.2 then (H.onGal g fun G => { G with fence := r.1 }).repaired 4 g else H) H3

/-! ### Partner loss and re-admission -/

/-- R90: a refusal recorded, with its log entry and DEVICE event (where no section or entry is at fault, DESIGN CHOICE 54). -/
def State.recordRefusal (s : State) (h : HallId) (r : Refused) : State :=
  ((s.onHall h fun H => { H with dev := { H.dev with lastError := r.1, errorAt := (r.2.1, r.2.2) } }).log h 0x0010 0 r.1).deviceEvent h
    0x0010 r.1

/-- R93, R95: a scheduled activation is refused with PARTNER_LOST; the staged copy stays VERIFIED. -/
def State.unschedule (s : State) (h : HallId) : State :=
  if (s.hall h).dev.staged = 3 then
    (s.onHall h fun H => { H with dev := { H.dev with staged := 2, activate := false, ackBy := none } }).recordRefusal h (0x22, 0, 0xFFFF)
  else s

/-- R49, R63, R95, R124, R544: hall h has lost its partner. -/
def State.losePartner (s : State) (h : HallId) : State :=
  let H := s.hall h
  if H.stair.lost then s
  else
    let s1 := s.onHall h fun H =>
      let H1 := (H.count (1536 + 17) H.stair.queued).addLog 0x0F02 0 H.stair.lanesRx 0
      let parts := match H1.image with
        | some im => im.partitions.filter fun (e : PartEntry) => e.paired && e.inHall h.idx
        | none => []
      let H2 := parts.foldl (fun (H : Hall) e => H.onPart e.part fun x => { x with monitor := x.monitor ||| 64 }) H1
      { H2 with
        stair := { H2.stair.dropQueued with
          alive := false, mode := .partnerLost, lost := true, retrain := H2.swp.started, trained := H2.stair.trained && H2.swp.started
          moves := [], syncs := [], control := none }
        swp := { H2.swp with warming := 0, readmitOk := false } }.emitHeld h.idx
    (((s1.deviceEvent h 0x0F02 H.stair.lanesRx).unschedule h).unschedule h.other).pinCheck h

/-- R63: the narrowest Stair width that the image's paired partitions need. -/
def Image.minWidth (im : Image) : Nat := (im.partitions.filter fun (e : PartEntry) => e.paired).foldl (fun a e => max a e.minStair) 0

/-- R545: the conditions of re-admission as hall h sees them. -/
def State.readmitReady (s : State) (h : HallId) : Bool :=
  let H := s.hall h
  let O := s.hall h.other
  match H.image, O.image with
  | some im, some om =>
    let re := if H.swp.readmitted then H else O
    let reh := if H.swp.readmitted then h.idx else h.other.idx
    H.stair.lost && H.stair.trained && O.stair.trained && decide (im.minWidth ≤ min H.stair.lanesRx H.stair.lanesTx)
      && im.digest == om.digest && (match H.stair.beat with | some b => b.1 == H.swp.sweep && b.2.2.2.2 | none => false)
      && im.partitions.all fun (e : PartEntry) =>
        !e.paired || (List.range 8).all fun g => !(bit (e.gals reh) g) || (re.gal g).st == .run
  | _, _ => false

/-- R545: a steward that finds the conditions met says so to the other. -/
def State.confirmReadmit (s : State) (h : HallId) : State :=
  if s.readmitReady h then
    s.onHall h fun H => H.tell .readmitConfirm
  else s

/-- R545, R546: one end is re-admitted; `n` warming sweeps are left to it. -/
def Hall.readmit (H : Hall) (back : Bool) (n : Nat) : Hall :=
  let mode := match H.image with
    | some im => if im.hasPaired then Mode.paired else Mode.split
    | none => .split
  { H with
    stair := { H.stair with alive := true, lost := false, mode := mode }
    swp := { H.swp with warming := n, readmitted := back, readmitOk := false } }

/-- R545: at a sweep boundary of hall h the partner is re-admitted, where both stewards have confirmed. Where neither hall has reset since the
loss, Hall B counts as the re-admitted one (DESIGN CHOICE 25). The other hall's end changes at the same instant; its own boundary counts its
first warming sweep. -/
def State.readmitPair (s : State) (h : HallId) : State :=
  if s.a.swp.readmitOk && s.b.swp.readmitOk && s.a.stair.lost && s.b.stair.lost then
    let aBack := s.a.swp.readmitted && !s.b.swp.readmitted
    let due := fun (H : Hall) (k : HallId) => if k = h || (H.swp.sweep == (s.hall h).swp.sweep && !H.swp.boundaryDue) then 8 else 9
    { s with a := s.a.readmit aBack (due s.a .a), b := s.b.readmit (!aBack) (due s.b .b) }
  else s.onHall h fun H => { H with swp := { H.swp with readmitOk := false } }

/-- R546: a warming sweep has ended at hall h's boundary. -/
def Hall.countWarming (H : Hall) : Hall :=
  { H with swp := { H.swp with warming := H.swp.warming - 1, readmitted := H.swp.readmitted && decide (1 < H.swp.warming) } }

/-! ### Activation (R94) -/

/-- R94: the staged image becomes the active one. -/
def Hall.activateStaged (H : Hall) : Hall :=
  match H.dev.stagedImg with
  | none => H
  | some im =>
    { H with dev := { H.dev with
        image := some im, stagedImg := none, staged := 0, activate := false, ackBy := none, farVerified := none, imgSource := 5
        tuneGen := inc32 H.dev.tuneGen } }

/-- R94: an activation is scheduled for the sweep that begins. -/
def Hall.activationDue (H : Hall) : Bool :=
  H.dev.staged == 3 && H.dev.actSweep == H.swp.sweep && H.dev.stagedImg.isSome

/-! ### The boundary -/

/-- R104 step 1: the steward's work of hall h at tick 0 of a sweep. -/
def State.boundary (s : State) (h : HallId) : State :=
  let h' := h.idx
  let s1 := s.onHall h fun H => (H.settleDiverged.rejoinAll.goHome h').ispLoad
  let s2 := if 0 < (s1.hall h).swp.warming then s1.onHall h Hall.countWarming else s1
  let s3 := s2.readmitPair h
  let s4 :=
    if (s3.hall h).activationDue then
      let s' := s3.onHall h Hall.activateStaged
      let g := (s'.hall h).dev.tuneGen % 65536
      (s'.log h 0x0011 0 g).deviceEvent h 0x0011 g
    else s3
  let s5 := s4.onHall h fun H => (List.range 8).foldl (fun (H : Hall) g => H.applyArea h' g) H
  let O := s5.hall h.other
  let s6 := s5.onHall h fun H =>
    match H.image with
    | none => H
    | some im =>
      let ps := (List.range 16).filterMap fun p => (im.part p).bind fun (e : PartEntry) => if e.inHall h' then some e else none
      let H1 := ps.foldl (fun (H : Hall) e => H.chooseTable h' O im e) H
      let H2 := ps.foldl (fun (H : Hall) e => H.slotContexts h' im e.part) H1
      ps.foldl (fun (H : Hall) e => H.reasons O e) H2
  let s7 := s6.onHall h fun H =>
    let H1 := if H.stair.retrain then { H with stair := { H.stair with trained := false, retrain := false } } else H
    let sw := H1.swp
    { H1.refresh.scrubChoice with swp := { sw with
        boundaryDue := false
        triggers := sw.triggers.filter fun e => e.2.2 == sw.sweep
        marks := sw.marks.filter fun (m : MarkRun) => decide ((sw.sweep + 2 ^ 32 - m.sweep) % 2 ^ 32 ≤ 1) || decide (2 ^ 31 < (sw.sweep + 2 ^ 32 - m.sweep) % 2 ^ 32) } }
  let s8 :=
    if h = .a && !s7.pkg.applies then { s7 with pkg := { s7.pkg with applies := true } }.applyPower none (0, 0) s7.pkg.now else s7
  (s8.onHall h fun H => H.after h').pinCheck h

end Sys2Proof.Machine
end

