-- ==== Sys2Proof/Machine/Flash.lean ====
section
/-! DEFINITION. The boot flash (20, R615, R616): its directory and entries. -/

namespace Sys2Proof.Machine

/-- Bytes of the flash. -/
def flashRead (f : Flash) (a n : Nat) : List Byte := f.data.getAll a n

/-- R616: a directory copy that may be used: MAGIC, FORMAT and CRC are valid. -/
def dirOk (d : List Byte) : Bool :=
  decide (fld d 0 4 = 0x54445654) && decide (fld d 4 2 = 1) && decide (fld d 8 4 = crc32 (d.take 8 ++ List.replicate 4 0 ++ d.drop 12))

/-- R616: the directory in use: the first valid copy. -/
def flashDirectory (f : Flash) : Option (List Byte) :=
  let d0 := flashRead f 0 4096
  let d1 := flashRead f 4096 4096
  if dirOk d0 then some d0 else if dirOk d1 then some d1 else none

/-- R616: a directory entry. -/
structure DirEntry where
  kind : Nat
  slot : Nat
  offset : Nat
  length : Nat
  deriving DecidableEq, Repr

/-- R616: every entry of a directory. -/
def dirEntries (d : List Byte) : List DirEntry :=
  (List.range (min 252 (fld d 6 2))).map fun i =>
    ⟨fld d (64 + 16 * i) 1, fld d (65 + 16 * i) 1, fld d (68 + 16 * i) 4, fld d (72 + 16 * i) 4⟩

/-- R616: an entry that is used: its range lies in the flash and overlaps no other entry and not the directory, and its (KIND, SLOT) comes
first. -/
def DirEntry.ok (f : Flash) (es : List DirEntry) (i : Nat) (e : DirEntry) : Bool :=
  decide (e.offset % 4096 = 0) && decide (8192 ≤ e.offset) && decide (e.offset + e.length ≤ f.size)
    && (e.kind == 3 || decide (e.slot < 2)) && (List.range es.length).all fun j =>
      match es[j]? with
      | some o => j == i || !(rangesMeet e.offset e.length o.offset o.length)
      | none => true

/-- R616: the entries in use, and those ignored. -/
def flashEntries (f : Flash) : List DirEntry × List DirEntry :=
  match flashDirectory f with
  | none => ([], [])
  | some d =>
    let es := dirEntries d
    let tagged := (List.range es.length).filterMap fun i => es[i]?.map fun e => (e, e.ok f es i)
    ((tagged.filter (·.2)).map (·.1), (tagged.filter fun t => !t.2).map (·.1))

/-- R616: the entry of a kind and slot. -/
def flashEntry (f : Flash) (kind slot : Nat) : Option DirEntry := (flashEntries f).1.find? fun e => e.kind == kind && e.slot == slot

end Sys2Proof.Machine
end

