-- ==== Sys2Proof/Machine/Timebase.lean ====
section
/-! DEFINITION. The timebase (03, R98 to R104, R119): sweeps started by references, BEATs, holdover and the generator, and tick
boundaries. -/

namespace Sys2Proof.Machine

/-! ### Who leads (R98, R100) -/

/-- R98: a pulse is the sweep reference of hall h. -/
def Timebase.takes (t : Timebase) (h : Nat) (src : RefSource) : Bool :=
  match src with
  | .fsyncIn rising => t.source == 0 && (rising == (t.edge == 0))
  | .camera port vc => t.source == 1 && t.refPort == port && t.refVc == vc && port / 8 == h

/-- R76, R100: the image links the halls. -/
def Image.linked (im : Image) : Bool :=
  match im.link with
  | some l => bit l.enable 0
  | none => false

/-- R100: hall h samples no reference of its own and follows the other hall's BEATs. -/
def Image.followsBeats (im : Image) (h : Nat) : Bool :=
  im.linked && match im.timebase.source with
    | 0 => false
    | 1 => decide (im.timebase.refPort / 8 ≠ h)
    | _ => h == 1

/-- R100: hall h leads the other hall's timebase. -/
def Image.leads (im : Image) (h : Nat) : Bool :=
  !im.linked || match im.timebase.source with
    | 1 => decide (im.timebase.refPort / 8 = h)
    | _ => h == 0

/-- R620: hall h accepts references: it has started, or every hall that it waits for waits or has started too. -/
def State.accepts (s : State) (h : HallId) : Bool :=
  let H := s.hall h
  let O := s.hall h.other
  H.swp.started || (H.swp.waiting && match H.image with
    | none => false
    | some im => !im.linked || H.stair.mode == .partnerLost || O.swp.waiting || O.swp.started)

/-! ### Starting a sweep -/

/-- R102: the reference is lost: flagged in the event log, with a DEVICE event. -/
def State.refLost (s : State) (h : HallId) (lock : Lock) : State := (s.log h 0x0206 0 lock.code).deviceEvent h 0x0206 lock.code

/-- R117: the lock state is set; GENERATOR puts every partition of the hall under the monitor for REF_LOST. -/
def Hall.setLock (H : Hall) (h : Nat) (l : Lock) : Hall :=
  let H1 := { H with swp := { H.swp with lock := l } }
  if l != .generator then H1
  else
    match H1.image with
    | none => H1
    | some im => im.partitions.foldl (fun (H : Hall) (e : PartEntry) =>
        if e.inHall h && !(H.dormant e.part) then H.onPart e.part fun x => { x with monitor := x.monitor ||| 16 } else H) H1

/-- R119: the period of a sweep that begins in a lock state. -/
def Hall.periodFor (H : Hall) (l : Lock) : Nat :=
  match H.image with
  | none => H.swp.pv
  | some im => if H.swp.pv = 0 || l == .unlocked || l == .generator then im.timebase.nominal else H.swp.pv

/-- R99, R620: sweep number `n` begins at timebase t0 in lock state l. Tick 0's work is done at the tick boundary that follows. The period of
its ticks is fixed here: one measured later applies from the next sweep (DESIGN CHOICE 71). -/
def Hall.beginSweep (H0 : Hall) (h : Nat) (l : Lock) (short : Bool) (n t0 tb : Nat) : Hall :=
  let H := (H0.setLock h l).count 1600 1
  { H with
    swp := { H.swp with
      past := (H.swp.sweep, if H.swp.started then H.image else none,
        (List.range H.swp.parts.length).map fun p => (p, (H.part p).table.val.toNat))
      sweep := n % 2 ^ 32, tick := 0, begun := 0, t0 := t0, per := H.periodFor l, short := short, boundaryDue := true, started := true
      waiting := false, relock := if l == .holdover || l == .generator then H.swp.relock else 0 }
    dev := { H.dev with
      stage := .running
      bootTime := if H.swp.started then H.dev.bootTime else min ((tb - H.dev.releaseTb) / 100) 0xFFFFFFFF } }

/-- R101: the FSYNC_OUT pulses that start in tick n of Hall A. -/
def Hall.startPulses (H : Hall) (n : Nat) : Hall :=
  match H.image with
  | none => H
  | some im =>
    (List.range 4).foldl (fun (H : Hall) i =>
      match im.timebase.fsyncOut[i]? with
      | some o =>
        if bit o.flags 0 && o.offsetTick = n then
          { H with swp := { H.swp with
              pulse := H.swp.pulse ||| BitVec.ofNat 4 (2 ^ i)
              pulseEnd := modAt H.swp.pulseEnd i fun _ => H.tickStart n + 100 * o.widthUs } }
        else H
      | none => H) H

/-- R101: the pulse of output n ends. -/
def Hall.endPulse (H : Hall) (n tb : Nat) : Hall :=
  if H.swp.pulse.getLsbD n && decide (H.swp.pulseEnd.getD n 0 ≤ tb) then
    { H with swp := { H.swp with pulse := H.swp.pulse &&& ~~~(BitVec.ofNat 4 (2 ^ n)) } }
  else H

/-- R101: the levels of FSYNC_OUT_3 to FSYNC_OUT_0: an enabled output carries its pulse at its polarity; one that is not is low (DESIGN CHOICE 306). -/
def Hall.fsyncOut (H : Hall) : BitVec 4 :=
  match H.image with
  | none => 0
  | some im => (List.range 4).foldl (fun (a : BitVec 4) i =>
      match im.timebase.fsyncOut[i]? with
      | some o => if bit o.flags 0 && (H.swp.pulse.getLsbD i == bit o.flags 1) then a ||| BitVec.ofNat 4 (2 ^ i) else a
      | none => a) 0

/-- R104 step 4, R112: the slot starts of tick n, once a sweep; slots whose E it is are cancelled. -/
def Hall.tickStarts (H : Hall) (n : Nat) : Hall :=
  let H1 := H.expire n H.swp.sweep
  if n < H1.swp.begun then H1 else ({ H1 with swp := { H1.swp with begun := n + 1 } } : Hall).startSlots n

/-- R102, R100: the ticks after the current one, up to tick m, are passed in tick order: their slot starts are issued. `whole` where the sweep goes on: then
their marks fall due and their pulses start too (R121, R101). -/
def Hall.passTicks (H : Hall) (h m : Nat) (whole : Bool) : Hall :=
  (List.range (m - H.swp.tick)).foldl (fun (H : Hall) _ =>
    let n := H.swp.tick + 1
    let H1 := { H with swp := { H.swp with tick := n } }
    if !whole then H1.tickStarts n
    else
      let H2 := H1.missingMarks h n
      (if h = 0 && !(decide (n < H2.swp.begun)) then H2.startPulses n else H2).tickStarts n) H

/-- R102: the slot starts of every tick not yet begun, at an Early reference. The tick counter does not move, and marks
whose TICK had not begun get no verdict (DESIGN CHOICE 70). -/
def Hall.flushTicks (H : Hall) (h : Nat) : Hall :=
  let H1 := H.passTicks h 4095 false
  { H1 with swp := { H1.swp with tick := H.swp.tick } }

/-! ### The hall's own reference -/

/-- R99: a measured period lies between 0.9 × MIN_US and MAX_US. -/
def Timebase.periodOk (t : Timebase) (p : Nat) : Bool := decide (90 * t.minUs ≤ p) && decide (p ≤ 100 * t.maxUs)

/-- R100 step 4: distance in ticks of a time from the nearer boundary of the sweep, at most 4,096. -/
def Hall.refTicks (H : Hall) (tb : Nat) : Nat :=
  let e := (tb - H.swp.t0) * 4096 / max 1 H.swp.per
  if e ≤ 4096 then min e (4096 - e) else e - 4096

/-- R99: a measured period that is not valid is counted: in SWP_REF_COUNTS.LATE (DESIGN CHOICE 305). -/
def Hall.badPeriod (H : Hall) (bad : Bool) : Hall :=
  if bad then { H with swp := { H.swp with refLate := inc16 H.swp.refLate } } else H

/-- R102, R103, R119: a reference starts the next sweep: Early, On time or Late. HOLDOVER_LEFT keeps its count (DESIGN CHOICE 73). -/
def Hall.refSweep (H : Hall) (h : Nat) (pv : Nat) (bad : Bool) (tb : Nat) : Hall :=
  let early := decide (tb < H.tickStart 4095)
  let late := decide (H.swp.t0 + H.swp.per + H.swp.per / 4096 < tb)
  let H1 := if early then H.flushTicks h else H
  let H2 := ({ H1 with swp := { H1.swp with pv := pv } } : Hall).badPeriod (late || bad)
  H2.beginSweep h (if pv = 0 then .unlocked else .locked) early (H.swp.sweep + 1) tb tb

/-- R98 to R103, R119, R620: a pulse of the hall's reference at timebase tb. -/
def Hall.reference (H : Hall) (h : Nat) (im : Image) (tb : Nat) : Hall :=
  let t := im.timebase
  let p := match H.swp.lastRef with | some l => tb - l | none => 0
  if H.swp.lastRef.isSome && decide (p < 90 * t.minUs) then { H with swp := { H.swp with refEarly := inc16 H.swp.refEarly } }
  else
    let valid := H.swp.lastRef.isSome && t.periodOk p
    let pv := if valid then p else H.swp.pv
    let first := H.swp.lastRef.isNone
    let bad := !first && !valid
    let H1 := { H with swp := { H.swp with lastRef := some tb, validP := H.swp.validP || valid } }
    if !H1.swp.started then
      match H1.stair.beat with
      | some (n, _, _, _, true) =>
        let H2 := (H1.badPeriod bad).beginSweep h .unlocked false (n + 1) tb tb
        { H2 with swp := { H2.swp with renumber := true } }
      | _ => (H1.badPeriod bad).beginSweep h .unlocked false 0 tb tb
    else if H1.swp.timingLost then
      ({ H1 with swp := { H1.swp with
        pv := pv, ownRef := some tb, followGood := if H1.refTicks tb ≤ 2 then H1.swp.followGood + 1 else 0 } } : Hall).badPeriod bad
    else if H1.swp.reanchor then
      let H2 := { H1 with swp := { H1.swp with reanchor := false, pv := pv } }
      if (tb - H2.swp.t0) * 4096 / max 1 H2.swp.per ≤ 2 then ({ H2 with swp := { H2.swp with t0 := tb } } : Hall).badPeriod bad
      else H2.refSweep h pv bad tb
    else if (H1.swp.lock == .holdover || H1.swp.lock == .generator) && !H1.swp.relockReady then
      let n := if valid then H1.swp.relock + 1 else 0
      ({ H1 with swp := { H1.swp with relock := n, relockReady := decide (t.relock ≤ n), pv := pv } } : Hall).badPeriod bad
    else if first && (H1.swp.lock == .holdover || H1.swp.lock == .generator) then H1
    else
      let H2 := { H1 with swp := { H1.swp with relock := 0, relockReady := false } }
      H2.refSweep h pv bad tb

/-- R98, R620: a pulse arrives. It is ignored where it is not the hall's reference, where the hall does not accept references yet, and in a
hall that follows BEATs. -/
def State.reference (s : State) (h : HallId) (src : RefSource) (tb : Nat) : State :=
  match (s.hall h).image with
  | none => s
  | some im =>
    if im.timebase.takes h.idx src && s.accepts h then s.onHall h fun H => H.reference h.idx im tb else s

/-! ### Holdover and the generator (R102, R119) -/

/-- R102, R100 step 3: a free-running sweep begins: one of the HOLDOVER sweeps, or the generator's. -/
def Hall.freeSweep (H : Hall) (h n t0 tb : Nat) : Hall :=
  if 0 < H.swp.holdLeft then
    ({ H with swp := { H.swp with holdLeft := H.swp.holdLeft - 1 } }).beginSweep h .holdover false n t0 tb
  else H.beginSweep h .generator false n t0 tb

/-- R102: no reference by t0 + 1.5 × NOMINAL_US. -/
def State.referenceLost (s : State) (h : HallId) (tb : Nat) : State :=
  let H := s.hall h
  match H.image with
  | none => s
  | some im =>
    let free := (H.swp.lock == .holdover || H.swp.lock == .generator) && !H.swp.follower
    if !H.swp.started || free || decide (tb < H.swp.t0 + im.timebase.nominal * 3 / 2) then s
    else
      let left := if H.swp.lock == .generator then 0 else im.timebase.holdover
      let s1 := s.onHall h fun H =>
        ({ H with swp := { H.swp with holdLeft := left, relock := 0, relockReady := false, follower := false, timingLost := false, reanchor := false } }).freeSweep
          h.idx (H.swp.sweep + 1) tb tb
      s1.refLost h (s1.hall h).swp.lock

/-- R102: in HOLDOVER a sweep begins every Pv; when the holdover sweeps have run, the generator takes over. -/
def Hall.holdoverSweep (H : Hall) (h tb : Nat) : Hall :=
  if H.swp.lock != .holdover || H.swp.follower || decide (tb < H.swp.t0 + H.swp.per) then H
  else H.freeSweep h (H.swp.sweep + 1) (H.swp.t0 + H.swp.per) tb

/-- R98, R119: a pulse of the internal generator: in GENERATOR it starts a sweep; where it is the hall's reference it acts as one. -/
def State.generatorSweep (s : State) (h : HallId) (tb : Nat) : State :=
  let H := s.hall h
  match H.image with
  | none => s
  | some im =>
    if im.timebase.source = 2 && !(im.followsBeats h.idx) then
      let back := !H.swp.started && (match H.stair.beat with | some (_, _, _, _, st) => st | none => false)
      if s.accepts h && !back && (H.swp.lock != .generator || H.swp.follower) then s.onHall h fun H => H.reference h.idx im tb
      else if H.swp.lock == .generator && decide (H.swp.t0 + H.swp.per ≤ tb) then
        s.onHall h fun H => H.beginSweep h.idx .generator false (H.swp.sweep + 1) (H.swp.t0 + H.swp.per) tb
      else s
    else if H.swp.lock != .generator || H.swp.follower || decide (tb < H.swp.t0 + H.swp.per) then s
    else s.onHall h fun H => H.beginSweep h.idx .generator false (H.swp.sweep + 1) (H.swp.t0 + H.swp.per) tb

/-! ### BEATs (R100, R620) -/

/-- R100: when the sender's tick `tick` began, for a BEAT that arrives at tb. -/
def sweepBack (tb tick per : Nat) : Nat := tb - tick * per / 4096

/-- The lock state of a code. -/
def Lock.ofCode : Nat → Lock
  | 1 => .locked
  | 2 => .stretch
  | 3 => .holdover
  | 4 => .generator
  | _ => .unlocked

/-- R100: a sweep starts from a BEAT that shows a new sweep number, at the tick the BEAT shows; the slot starts of the old sweep's ticks not yet begun are
issued first. -/
def Hall.beatSweep (H0 : Hall) (h : Nat) (im : Image) (n tick pv lock tb : Nat) : Hall :=
  let H := if H0.swp.started then H0.flushTicks h else H0
  let design := im.followsBeats h
  if !H.swp.started then
    let t0 := sweepBack tb tick (H.periodFor .unlocked)
    ({ H with swp := { H.swp with lastRef := if design then none else some t0 } }).beginSweep h .unlocked false n t0 tb
  else if H.swp.timingLost then
    let own := (H.refTicks (sweepBack tb tick H.swp.per)) ≤ 2
    let good := if design then (if own then H.swp.followGood + 1 else 0)
      else match H.swp.ownRef with
        | some r => if r + 2 * H.swp.per / 4096 < H.swp.t0 then 0 else H.swp.followGood
        | none => 0
    if im.timebase.relock ≤ good then
      let H1 := { H with swp := { H.swp with
        timingLost := false, follower := design, followGood := 0, ownRef := none, reanchor := !design, skewBeats := 0, holdLeft := 0
        pv := if design && 0 < pv then pv else H.swp.pv } }
      let l := if design then Lock.ofCode lock else .locked
      H1.beginSweep h l false n (sweepBack tb tick (H1.periodFor l)) tb
    else
      let H1 := { H with swp := { H.swp with followGood := good } }
      H1.freeSweep h n (sweepBack tb tick (H1.periodFor (if 0 < H1.swp.holdLeft then .holdover else .generator))) tb
  else
    let H1 := { H with swp := { H.swp with pv := if 0 < pv then pv else H.swp.pv } }
    let l := Lock.ofCode lock
    H1.beginSweep h l false n (sweepBack tb tick (H1.periodFor l)) tb

/-- R100 step 2: a hall whose timing is lost sets its tick from a BEAT, and issues the slot starts it passes over. The ticks that it sets back have had
theirs. -/
def Hall.setTick (H : Hall) (h tick tb : Nat) : Hall :=
  let H1 := { H with swp := { H.swp with t0 := sweepBack tb tick H.swp.per } }
  if H1.swp.boundaryDue then H1
  else if tick ≤ H1.swp.tick then { H1 with swp := { H1.swp with tick := tick } }
  else H1.passTicks h tick true

/-- R100: signed difference in ticks between this hall and a BEAT, as its magnitude. -/
def Hall.beatDiff (H : Hall) (n tick tb : Nat) : Nat :=
  let mine := min 4095 (((tb - H.swp.t0) * 4096 + 4095) / max 1 H.swp.per)
  let ds := sint 32 ((H.swp.sweep + 2 ^ 32 - n) % 2 ^ 32)
  (ds * 4096 + (mine : Int) - (tick : Int)).natAbs

/-- R100: the halls' ticks differ by d at a BEAT. -/
def Hall.skewed (H : Hall) (d : Nat) : Hall :=
  let exceeds := decide (2 < d)
  let H1 := if exceeds && !H.swp.skew then H.addLog 0x0207 0 (min d 0xFFFF) 0 else H
  { H1 with swp := { H1.swp with skew := exceeds, skewBeats := if exceeds then H1.swp.skewBeats + 1 else 0 } }

/-- R100, R101: a BEAT that starts no sweep here, d ticks off: the period and lock a following hall takes from it, and the
tick where the hall's own timing is lost. -/
def Hall.beatHeard (H2 : Hall) (h : Nat) (design : Bool) (d tick pv lock tb : Nat) : Hall :=
  let H3 := if 0 < pv then { H2 with swp := { H2.swp with pv := pv } } else H2
  let H4 := if design && !H2.swp.timingLost then H3.setLock h (Lock.ofCode lock) else H2
  if H4.swp.timingLost then
    let H5 := if decide (2 < d) && design then { H4 with swp := { H4.swp with followGood := 0 } } else H4
    H5.setTick h tick tb
  else H4

/-- R100, R620: a BEAT with the sender's sweep, tick, Pv, lock state and STARTED arrives at timebase tb. -/
def State.beatTime (s : State) (h : HallId) (n tick pv lock : Nat) (began : Bool) (tb : Nat) : State :=
  let H := s.hall h
  match H.image with
  | none => s
  | some im =>
    let design := im.followsBeats h.idx
    let prev := H.stair.beat
    let fresh := match prev with | some (k, _, _, _, true) => k != n | _ => true
    if !began then s
    else if !H.swp.started then
      if !(s.accepts h) then s
      else if design && (fresh || (match prev with | some (_, _, _, _, b) => !b | none => true)) then
        s.onHall h fun H =>
          ({ H with swp := { H.swp with follower := true } }.beatSweep h.idx im n tick pv lock tb)
      else if im.timebase.source = 2 && !design && fresh && (match prev with | some (_, _, _, _, b) => b | none => false) then
        s.onHall h fun H => H.beatSweep h.idx im n tick pv lock tb
      else s
    else
      let H1 := if H.swp.renumber then { H with swp := { H.swp with renumber := false, sweep := n } } else H
      let follows := design || H1.swp.timingLost
      let H2 := { H1 with swp := { H1.swp with follower := follows } }
      let d := H2.beatDiff n tick tb
      let H3 := H2.skewed d
      let s1 := s.onHall h fun _ =>
        if follows && n != H3.swp.sweep then H3.beatSweep h.idx im n tick pv lock tb else H3.beatHeard h.idx design d tick pv lock tb
      let H6 := s1.hall h
      if !(im.leads h.idx) && !H6.swp.timingLost && decide (4 < H6.swp.skewBeats) then
        let s2 := s1.onHall h fun H =>
          (({ H with swp := { H.swp with
            timingLost := true, follower := true, skewBeats := 0, followGood := 0, ownRef := none, relock := 0, relockReady := false
            holdLeft := im.timebase.holdover } }).setLock h.idx .holdover).setTick h.idx tick tb
        s2.refLost h .holdover
      else s1

/-! ### Ticks (R104) -/

/-- R104 step 2: every arbiter advances its pointer. -/
def Hall.advance (H : Hall) : Hall :=
  { H with
    gals := H.gals.map fun (G : Gallery) => { G with ptr := (G.ptr + 1) % 12 }
    cores := H.cores.map fun (c : Core) => { c with ptr := (c.ptr + 1) % 16 }
    stair := { H.stair with ptr := (H.stair.ptr + 1) % 5 }
    dev := { H.dev with portPtr := (H.dev.portPtr + 1) % 2 }
    cam := { H.cam with ptr := (H.cam.ptr + 1) % 32 }
    tx := H.tx.map fun (t : TxPort) => { t with ptr := (t.ptr + 1) % 16 }
    mem := { H.mem with
      stopPtr := H.mem.stopPtr.map fun n => (n + 1) % 16
      mcPtr := H.mem.mcPtr.map fun n => (n + 1) % 16
      lockPtr := (H.mem.lockPtr + 1) % 96
      takePtr := (H.mem.takePtr + 1) % 96 } }

/-- R311: swap-outs that stalled are tried again from this tick. -/
def Hall.clearStalls (H : Hall) : Hall :=
  { H with ctxs := H.ctxs.map fun (x : Ctx) => { x with swapStalled := false } }

/-- R444: a port that has received no packet of a declared virtual channel for a second, 100,000,000 counts of the timebase, is no longer
ACTIVE. DESIGN CHOICE 307: seen at tick starts. -/
def Hall.rxIdle (H : Hall) (tb : Nat) : Hall :=
  { H with cam := { H.cam with ports := H.cam.ports.map fun (P : RxPort) =>
      if P.activeTb + 100000000 < tb then { P with active := false } else P } }

/-- R104 steps 2 to 4, R599, R569, R121, R311: what happens at the start of tick n. -/
def Hall.tickWork (H : Hall) (h n : Nat) : Hall :=
  let tb := H.tickStart n
  let H0 := { H with swp := { H.swp with clk := (tb, H.cycAt tb) } }
  let H1 := (H0.opTick h).repairVotes.advance.clearStalls
  let H2 := (if n = 0 then (H1.expire 4096 H1.swp.past.1) else H1).rxIdle tb
  let H3 := (H2.checkDeadlines tb).missingMarks h n
  let H4 := if h = 0 && !(decide (n < H3.swp.begun)) then H3.startPulses n else H3
  ((H4.tickStarts n).after h).admitWaiting h

/-- R104: a tick boundary of hall h at timebase tb: tick 0 of a sweep that has begun, or the next tick once its time has come. While the
reference is late, tick 4,095 goes on in STRETCH (R102). -/
def State.tickBoundary (s : State) (h : HallId) (tb : Nat) : State :=
  let H := s.hall h
  if !H.dev.up || !H.swp.started then s
  else if H.swp.boundaryDue then ((s.boundary h).onHall h fun H => H.tickWork h.idx 0).pinCheck h
  else if H.swp.tick < 4095 then
    if tb < H.tickStart (H.swp.tick + 1) then s
    else
      let n := H.swp.tick + 1
      let s1 := s.onHall h fun H => ({ H with swp := { H.swp with tick := n } }).tickWork h.idx n
      (if n = 2048 then s1.confirmReadmit h else s1).pinCheck h
  else if H.swp.t0 + H.swp.per + H.swp.per / 4096 < tb && H.swp.lock == .locked then
    s.onHall h fun H => { H with swp := { H.swp with lock := .stretch } }
  else s

end Sys2Proof.Machine
end

