-- ==== Sys2Proof/Machine/Boot.lean ====
section
/-! DEFINITION. Reset and start-up (20, R610 to R621; 16, R529 to R535, R544, R547; 02, R83 to R95): package and hall resets, firmware, memory
training and fills, image load, staging and activation. -/

namespace Sys2Proof.Machine

/-! ### Resets -/

/-- A hall at its reset values whose DRAM contents have been lost once more (R535). -/
def Hall.again (old : Hall) (h cause : Nat) : Hall :=
  let N := Hall.reset h cause
  { N with keyArray := old.keyArray, dev := { N.dev with releaseTb := old.dev.releaseTb }, mem := { N.mem with dramGen := old.mem.dramGen + 1 } }

/-- R613: the whole package resets, the Vestibule included, and stays in reset. -/
def State.packageReset (s : State) (cause : Nat) (supply : Bool) : State :=
  { State.reset with
    supply := supply, imageSeen := s.imageSeen, jtag := s.jtag, xspiResets := s.xspiResets, free := s.free, pending := s.pending
    a := s.a.again 0 cause, b := s.b.again 1 cause }

/-- R613: POR_N is low for ns nanoseconds. Between 1 µs and 10 µs the outcome is a free value. -/
def State.porLow (s : State) (ns : Nat) : State :=
  if s.por || decide (ns < 1000) then s
  else if 10000 ≤ ns then s.packageReset 1 true
  else
    let s1 := { s with free := s.free + 1 }
    if Config.porPulse s.free then s1.packageReset 1 true else s1

/-- R613, R619 step 1: release: the straps are latched, the Vestibule raises EN_CORE_A and EN_PHY_A with VID 3 and draws the epoch table. -/
def State.release (s : State) (straps : Straps) (tb : Nat) : State :=
  if !s.por then s
  else
    { s with
      a := { s.a with dev := { s.a.dev with releaseTb := tb } }, b := { s.b with dev := { s.b.dev with releaseTb := tb } }
      por := false, supply := true, straps := straps, imageSeen := false
      pkg := { s.pkg with
        enCore := [true, false], enPhy := [true, false], vid := [3, 0], enVt := [some s.pkg.now, none] } }

/-- R493: new challenges for the ports of a hall. -/
def State.newChallenges (s : State) (h : HallId) : State := (s.newChallenge (2 * h.idx)).newChallenge (2 * h.idx + 1)

/-- A hall that has reset alone comes back as the re-admitted one; where the other is resetting too, neither has survived (R547). -/
def State.pairReset (s : State) (h : HallId) (linked : Bool) : State :=
  let alone := linked && (s.hall h.other).swp.started
  let f := fun (v : Bool) (H : Hall) => { H with stair := { H.stair with lost := v }, swp := { H.swp with readmitted := v } }
  if alone then s.onHall h (f true)
  else if (s.hall h.other).swp.started then s
  else s.onHall h.other (f false)

/-- R549, R547: hall h resets for a cause. `powered`: its rails stay up, so its steward starts again at its ROM. A hall that resets in GALLERY
or VESTIBULE comes up in HALL, where its LPDDR5X can be trained. -/
def State.hallReset (s : State) (h : HallId) (cause : Nat) (powered : Bool) : State :=
  let old := s.hall h
  let linked := match old.image with | some im => im.linked | none => false
  let N := old.again h.idx cause
  let N1 :=
    if powered then
      { N with
        dev := { N.dev with up := true }
        pwr := { N.pwr with
          galOn := Voted.all 0xFF, hall := .on } }
    else N
  let s1 := (s.onHall h fun _ => N1).newChallenges h
  let s2 := s1.pairReset h linked
  let s3 := { s2 with
    epochs := s2.epochs.filter fun (e : Epochs) => e.hall != h.idx
    pkg := { s2.pkg with
      lower := none, rise := none
      watts := if h = .a then 0 else s2.pkg.watts
      farReqs := if h = .b then [(false, 0), (false, 0)] else s2.pkg.farReqs } }
  if powered && h = .a && decide (s3.pkg.state < 2) then
    ({ s3 with pkg := { s3.pkg with state := 2 } }).setEnables 2 (some s3.pkg.now)
  else s3

/-- R529, R549, R611: a reset for a cause of a hall that runs. -/
def State.resetFor (s : State) (h : HallId) (cause : Nat) : State := if (s.hall h).dev.up then s.hallReset h cause true else s

/-- R610, R615, R619 steps 2 and 4: PG_x rises; at a cold start the hall's boot ROM begins, its domains fully powered at VID 3, and Hall A's
drives XSPI_RESET_N. -/
def State.pgRise (s : State) (h : HallId) : State :=
  let s1 := { s with pkg := { s.pkg with pg := modAt s.pkg.pg h.idx fun _ => true } }
  let H := s1.hall h
  if s.por || H.dev.up || H.dev.stage != .rom || !(s.pkg.enCore.getD h.idx false) then s1
  else
    let s2 := (s1.onHall h fun H =>
      { H with
        dev := { H.dev with
          up := true
          stage := if s.straps.rsvd then .halted else .rom
          fwError := if s.straps.rsvd then 6 else 0 }
        pwr := { H.pwr with galOn := Voted.all 0xFF, op := 3, opReq := 3, hall := .on } }).newChallenges h
    { s2 with
      xspiResets := if h = .a then s2.xspiResets + 1 else s2.xspiResets
      pkg := { s2.pkg with state := max s2.pkg.state (2 + h.idx), vid := modAt s2.pkg.vid h.idx fun _ => 3 } }

/-- R611: PG_x falls: with an enable high, more than 2.2 ms after either rose, and not with a fall of an enable in the same cycle, it resets
hall x as at cold power-on. 2.2 ms are 72.0896 cycles of the 32.768 kHz clock. -/
def State.pgFall (s : State) (h : HallId) (vt : Nat) (planned : Bool) : State :=
  let s1 := { s with pkg := { s.pkg with pg := modAt s.pkg.pg h.idx fun _ => false } }
  let low := !(s.pkg.enCore.getD h.idx false) && !(s.pkg.enPhy.getD h.idx false)
  let fresh := match s.pkg.enVt.getD h.idx none with
    | some t => decide ((vt - t) * 10000 < 720896)
    | none => false
  if s.por || low || fresh || planned || !(s.pkg.enCore.getD h.idx false) then s1 else s1.hallReset h 0 false

/-! ### Firmware (R616 to R618) -/

/-- R617: what a firmware object fails on: 5 its length or MAGIC, 3 its signature, 4 its stepping; 0 for none. -/
def firmwareError (key obj : List Byte) : Nat :=
  let n := fld obj 10 4
  if obj.length < 224 || fld obj 0 4 ≠ 0x57464C53 || 393216 < n || obj.length < 224 + n then 5
  else if !(ecdsaOk key (sha384 (obj.take (128 + n))) (slice obj (128 + n) 96)) then 3
  else if stepping < fld obj 8 1 then 4
  else 0

/-- R617: MAJOR, MINOR and BUILD as one number to compare. -/
def firmwareRank (obj : List Byte) : Nat := fld obj 4 1 * 2 ^ 24 + fld obj 5 1 * 2 ^ 16 + fld obj 6 2

/-- R619 steps 3a and 3b: the firmware runs: it trains the LPDDR5X and fills the galleries. -/
def Hall.runFirmware (H : Hall) (src : Nat) (obj : List Byte) : Hall :=
  let n := fld obj 10 4
  let on := H.pwr.galOn.val
  let H1 := (List.range 8).foldl (fun (H : Hall) g => H.onGal g fun G => { G with st := if on.getLsbD g then .fill else .off }) H
  { H1 with
    dev := { H1.dev with
      stage := .dramTrain, fwSource := src, fwVersion := (fld obj 4 1, fld obj 5 1, fld obj 6 2), fwObject := obj.take (224 + n)
      fwDigest := sha384 (obj.take (128 + n)), filling := on } }

/-- R618: a hall stops at the ROM stage. -/
def Hall.halt (H : Hall) (err : Nat) : Hall := { H with dev := { H.dev with stage := .halted, fwError := err } }

/-- R616 to R618: Hall A's boot ROM reads the flash, verifies both FIRMWARE slots and runs the newer. -/
def State.firmwareLoad (s : State) (f : Flash) : State :=
  let H := s.a
  if s.por || !H.dev.up || H.dev.stage != .rom then s
  else if !f.responds then s.onHall .a fun H => H.halt 1
  else
    match flashDirectory f with
    | none => s.onHall .a fun H => H.halt 2
    | some _ =>
      let s1 := (flashEntries f).2.foldl (fun (s : State) e => s.logOther .a 0 e.slot 0x40) s
      let slow := s.straps.xspiMode && (!f.sfdp || !f.dqs)
      let s2 := s1.onHall .a fun H => { H with dev := { H.dev with slow := slow } }
      let obj := fun (i : Nat) => (flashEntry f 1 i).map fun e => flashRead f e.offset e.length
      let err := fun (i : Nat) => match obj i with | some o => firmwareError H.keyArray.firmware o | none => 3
      let rank := fun (i : Nat) => firmwareRank ((obj i).getD [])
      let pick := if err 0 = 0 && (err 1 ≠ 0 || rank 1 ≤ rank 0) then some 0 else if err 1 = 0 then some 1 else none
      match pick with
      | some i => s2.onHall .a fun H =>
        let H1 := H.runFirmware (i + 1) ((obj i).getD [])
        { H1 with dev := { H1.dev with imgState := if s.straps.bootSrc == 2 then 1 else 0 } }
      | none => s2.onHall .a fun H => H.halt (if err 0 = 4 || err 1 = 4 then 4 else if err 0 = 5 && err 1 = 5 then 5 else 3)

/-- R617: Hall B's boot ROM receives the running firmware. -/
def State.firmwareArrives (s : State) (h : HallId) (obj : List Byte) : State :=
  let H := s.hall h
  if h = .a || !H.dev.up || H.dev.stage != .rom then s
  else
    let e := firmwareError H.keyArray.firmware obj
    s.onHall h fun H => if e = 0 then H.runFirmware 3 obj else H.halt e

/-! ### Image load (R77, R84 to R91) -/

/-- R84, R90: an image checked in hall h against its key and its trained memory. -/
def State.verify (s : State) (h : HallId) (old : Option Image) (bs : List Byte) : Except Refused Image :=
  let H := s.hall h
  verifyImage h.idx H.keyArray.signer H.mem.usable H.mem.mcStops old bs

/-- R52, R598: the partition of gallery g of hall h; 0x1F for none. -/
def Image.galPart (im : Image) (h g : Nat) : Nat :=
  match im.partitions.find? fun (e : PartEntry) => bit (e.gals h) g with
  | some e => e.part
  | none => 0x1F

/-- R75: gallery g of hall h runs in write-before-read mode. -/
def Image.wbr (im : Image) (h g : Nat) : Bool := im.compat.any fun (e : CompatEntry) => e.gallery == 8 * h + g && e.mode == 1

/-- R411, R422: the CPHY bit and declared width of receive port p of hall h, where the image declares it. -/
def Image.rxPort (im : Image) (h p : Nat) : Option (Bool × Nat) :=
  im.sensors.findSome? fun (e : SensorEntry) =>
    if e.hall ≠ h then none
    else match e.body with
      | .camera b => if b.port = p then some (bit b.phy 0, b.lanes) else none
      | .hostFeed b => if b.port = p then some (bit b.phy 0, b.lanes) else none
      | _ => none

/-- R416: a camera at image load. -/
def Camera.fresh (id : Nat) : Camera :=
  { id := id, frame := 0, lastNum := 0, lastUs := none, cur := none, dropping := false, taken := 0, recs := [], setSeq := 0 }

/-- The camera units at image load (R411, R416, R430, R437). -/
def Hall.loadCams (H : Hall) (h : Nat) (im : Image) : Hall :=
  { H with cam := { H.cam with
      ports := (List.range 8).map fun p =>
        let P := (H.cam.ports[p]?).getD RxPort.reset
        let Q := { RxPort.reset with
          laneBad := P.laneBad, degraded := P.degraded, hdrCorr := P.hdrCorr, hdrUncorr := P.hdrUncorr, crc := P.crc, unknownDt := P.unknownDt
          badVc := P.badVc, orphan := P.orphan, lineLen := P.lineLen, frameLen := P.frameLen, timeout := P.timeout, late := P.late
          early := P.early, sot := P.sot, narrowings := P.narrowings }
        match im.rxPort h p with
        | some (c, w) => { Q with cphy := c, width := if P.degraded then min w P.width else w }
        | none => Q
      cameras := (im.sensors.filterMap fun (e : SensorEntry) =>
        match e.body with | .camera _ => if e.hall = h then some (Camera.fresh e.id) else none | _ => none)
      ctxs := H.cam.ctxs.map fun (x : IspCtx) => { x with active := none, shadow := none, shadowOk := false, swapDue := false, frames := [] } } }

/-- R77, R486: hall h's registers and tables as an image sets them. -/
def Hall.loadImage (H : Hall) (h : Nat) (im : Image) (src : Nat) : Hall :=
  let H1 := (List.range 8).foldl (fun (H : Hall) g =>
    let wbr := im.wbr h g
    let H' := H.onGal g fun G =>
      { G with part := Voted.all (BitVec.ofNat 5 (im.galPart h g)), wbr := wbr, store := if wbr then Store.unwritten else Store.zero }
    (List.range 12).foldl (fun (H : Hall) i => H.onCore (12 * g + i) fun k => k.filled wbr) H') H
  let H2 := H1.loadCams h im
  let doms : List Dom := im.tenancy.filterMap fun (t : TenantEntry) =>
    if bit t.halls h then some ⟨t.domain, Voted.all (BitVec.ofNat 17 (65536 + t.parts)), false, 0⟩ else none
  { H2 with
    dev := { H2.dev with image := some im, imgState := 3, imgSource := src, lastError := 0, errorAt := (0, 0), tuneGen := 0, waitingImg := none }
    pwr := { H2.pwr with
      driveHold := bit im.pflags 0
      reqs := (List.range 2).map fun i => let c := im.initialReq.getD (2 * h + i) 0xFF; (c != 0xFF, if c = 0xFF then 0 else c) }
    mem := { H2.mem with total := im.frameTotal h }
    stair := match im.link with
      | some l => { H2.stair with missLimit := BitVec.ofNat 4 l.missLimit, beatPeriod := BitVec.ofNat 8 l.beatPeriod, enable := l.enable == 1 }
      | none => { H2.stair with enable := false }
    sec := { H2.sec with doms := doms } }

/-- R509: every domain of a hall takes a fresh number in slot 0. -/
def State.freshEpochs (s : State) (h : HallId) : State :=
  (s.hall h).sec.doms.foldl (fun (s : State) (d : Dom) => s.freshEpoch h.idx d.num) { s with
    epochs := s.epochs.filter fun (e : Epochs) => e.hall != h.idx }

/-- R398, R405, R552: what Hall A's image sets in the Vestibule: calibration, wake pins and the requests known to Hall A's steward. -/
def State.loadVestibule (s : State) (im : Image) : State :=
  let en := (List.range 8).foldl (fun a n => if bit ((im.pins.getD n ⟨0, 0xFF⟩).flags) 0 then a + 2 ^ n else a) 0
  let cal := im.sensors.foldl (fun (c : List (Nat × Nat)) (e : SensorEntry) =>
    match e.body with
    | .micArray b => (List.range 32).foldl (fun c m =>
        if bit b.mics m then modAt c m fun _ =>
          let v := b.cal.getD (popcount m b.mics) (0x4000, 0)
          (v.1, v.2 % 512) else c) c
    | _ => c) (List.replicate 32 (0x4000, 0))
  { s with
    pkg := { s.pkg with
      wakeEn := BitVec.ofNat 8 en
      farReqs := (List.range 2).map fun i => let c := im.initialReq.getD (2 + i) 0xFF; (c != 0xFF, if c = 0xFF then 0 else c) }
    vst := ({ s.vst with cal := cal, calNew := cal, micK := [] }).restartMics }

/-- R619 step 4: with LINK.ENABLE 1 the Vestibule raises EN_CORE_B and EN_PHY_B. -/
def State.raiseB (s : State) (im : Image) : State :=
  if im.linked && !(s.pkg.enCore.getD 1 false) then
    { s with pkg := { s.pkg with
        enCore := modAt s.pkg.enCore 1 fun _ => true, enPhy := modAt s.pkg.enPhy 1 fun _ => true
        vid := modAt s.pkg.vid 1 fun _ => 3, enVt := modAt s.pkg.enVt 1 fun _ => some s.pkg.now } }
  else s

/-- R619 step 3b, R91: a gallery reads FILL while its memories are filled; then it runs where an image is active, and is kept off where
none is. -/
def Hall.showGals (H : Hall) (active : Bool) : Hall :=
  (List.range 8).foldl (fun (H : Hall) g => H.onGal g fun G =>
    { G with st :=
        if !(H.pwr.galOn.val.getLsbD g) then .off
        else if H.dev.filling.getLsbD g then .fill
        else if active then .run else .off }) H

/-- R88: the running hall's digest differs from the image of hall h, which therefore keeps its galleries off. -/
def State.digestDiffers (s : State) (h : HallId) (im : Image) : Bool :=
  im.linked && (s.hall h).stair.lost && (s.hall h.other).swp.started && (s.hall h).stair.farDigest != im.digest

/-- R88, R91: hall h has an active image that the running hall's digest bears out. -/
def State.imageStands (s : State) (h : HallId) : Bool :=
  match (s.hall h).image with
  | some im => !(s.digestDiffers h im)
  | none => false

/-- R619 step 8, R88: a hall whose fills have ended, with an active image that the running hall's digest bears out, releases its cores and
waits for the reference. -/
def State.tryRelease (s : State) (h : HallId) : State :=
  let H := s.hall h
  let booting := H.dev.up && (H.dev.stage == .fill || H.dev.stage == .image)
  if !booting then s
  else
    let active := s.imageStands h
    let s1 := s.onHall h fun H => H.showGals active
    if H.dev.filling != 0 || !H.mem.filled then s1.onHall h fun H => { H with dev := { H.dev with stage := .fill } }
    else if active then
      s1.onHall h fun H => { H with dev := { H.dev with stage := .waitReference }, swp := { H.swp with waiting := true } }
    else s1.onHall h fun H => { H with dev := { H.dev with stage := .image } }

/-- R77, R436, R619 step 7: an image that has passed its checks becomes active in hall h. -/
def State.loadImage (s : State) (h : HallId) (im : Image) (src : Nat) : State :=
  let jtag := if s.jtag.instr < 2 then s.jtag else { s.jtag with instr := 0, data := 0, driving := false }
  let s1 := (({ s with imageSeen := true, jtag := jtag }).onHall h fun H => H.loadImage h.idx im src).freshEpochs h
  let s2 := if h = .a then (s1.loadVestibule im).raiseB im else s1
  (s2.tryRelease h).prepareBuses h

/-- R84, R87, R91: image bytes from source `src` arrive in hall h before an image is active there: they wait for the end of training, then
the image becomes active or is refused (R85: the boot feed waits on, STATE reading LOADING). Hall B reports over CONTROL. -/
def State.takeImage (s : State) (h : HallId) (src : Nat) (bs : List Byte) : State :=
  let H := s.hall h
  let tell := fun (c : ControlMsg) (s : State) =>
    if h = .b then s.onHall h fun H => H.tell c else s
  if !H.mem.trained then s.onHall h fun H => { H with dev := { H.dev with waitingImg := some (src, bs), imgState := 1 } }
  else
    match s.verify h none bs with
    | .ok im => tell .imageAccepted (s.loadImage h im src)
    | .error r =>
      tell .imageRefused ((s.onHall h fun H => { H with dev := { H.dev with imgState := if h = .a && s.straps.bootSrc != 0 then 1 else 4, waitingImg := none } }).recordRefusal h r)

/-- R84, R83: Hall A's steward verifies both IMAGE slots and activates the newer; with none it waits for the boot feed, or every source has
refused. -/
def State.flashImageLoad (s : State) (f : Flash) : State :=
  let H := s.a
  let boot := H.dev.up && (H.dev.stage == .fill || H.dev.stage == .image) && H.image.isNone
  if s.por || !boot || s.straps.bootSrc == 2 || !H.mem.trained then s
  else
    let res := fun (i : Nat) => (flashEntry f 2 i).map fun e => s.verify .a none (flashRead f e.offset e.length)
    let logBad := fun (s : State) (i : Nat) => match res i with | some (.error r) => s.recordRefusal .a r | _ => s
    let s1 := logBad (logBad s 0) 1
    let feed := s.straps.bootSrc == 1
    match res 0, res 1 with
    | some (.ok x), some (.ok y) => if x.version < y.version then s1.loadImage .a y 2 else s1.loadImage .a x 1
    | some (.ok x), _ => s1.loadImage .a x 1
    | _, some (.ok y) => s1.loadImage .a y 2
    | none, none => s1.onHall .a fun H => { H with dev := { H.dev with imgState := if feed then 1 else 0, noSource := !feed } }
    | _, _ => s1.onHall .a fun H => { H with dev := { H.dev with imgState := if feed then 1 else 4 } }

/-- R85: the boot feed is open: the straps select it and no image is active. -/
def State.bootFeedOpen (s : State) : Bool :=
  s.a.dev.up && s.a.dev.stage != .rom && s.a.dev.stage != .halted && s.a.image.isNone
    && (s.straps.bootSrc == 2 || (s.straps.bootSrc == 1 && s.a.dev.imgState != 0))

/-! ### Memory (R328, R331, R535) -/

/-- R328, R331, R333: a channel outside `good`, one that failed training or tracking, is logged: event 0x06FF, whose ARG R602 makes the
register's offset and whose UNIT is the channel (DEDUCED 308). -/
def State.logChannels (s : State) (h : HallId) (good : BitVec 32) : State :=
  (List.range 32).foldl (fun (s : State) c => if good.getLsbD c then s else s.logOther h 6 c 0) s

/-- R328: fewer than 16 channels: the hall is unusable and keeps its galleries off. -/
def Hall.unusable (H : Hall) : Hall :=
  { H with gals := H.gals.map fun (G : Gallery) => { G with st := .off }, dev := { H.dev with stage := .halted, filling := 0 } }

/-- R331, R324, R332: LPDDR5X training has ended. At start-up the DRAM fill begins and a waiting image is checked; in operation (R332) the
channels whose tracking failed, `again`, are logged (R333), a change of the number of working channels resets the hall, and a change of which they
are loses the contents. -/
def State.trainingDone (s : State) (h : HallId) (good again : BitVec 32) (rate density ranks : Nat) : State :=
  let H := s.hall h
  let chans := ((List.range 32).filter fun c => good.getLsbD c).length
  if !H.dev.up then s
  else if H.dev.stage == .dramTrain then
    let s1 := (s.onHall h fun H =>
      { H with mem := { H.mem with chanGood := good, rate := rate, density := density, ranks := ranks, trained := true, filled := false } }).logChannels
        h good
    if chans < 16 then s1.onHall h Hall.unusable
    else
      let s2 := s1.onHall h fun H => { H with dev := { H.dev with stage := .fill } }
      match (s2.hall h).dev.waitingImg with
      | some (src, bs) => s2.takeImage h src bs
      | none => s2
  else if H.mem.trained then
    let s1 := s.logChannels h ((good &&& ~~~again) ||| ~~~H.mem.chanGood)
    if H.mem.chanGood = good then s1
    else if chans ≠ H.mem.channels.length then s1.hallReset h 9 true
    else s1.onHall h fun H =>
      { H with mem := { H.mem with chanGood := good, dram := ⟨[]⟩, dramLost := [], dramGen := H.mem.dramGen + 1 } }
  else s

/-- R535, R530: a hardware fill has ended. -/
def State.fillDone (s : State) (h : HallId) (what : FillTarget) : State :=
  let H := s.hall h
  match what with
  | .dram =>
    if H.mem.trained && !H.mem.filled then (s.onHall h fun H => { H with mem := { H.mem with filled := true } }).tryRelease h else s
  | .gallery g =>
    if g < 8 && H.dev.filling.getLsbD g then
      let active := s.imageStands h
      (s.onHall h fun H =>
        { H with dev := { H.dev with filling := H.dev.filling &&& ~~~(BitVec.ofNat 8 (2 ^ g)) } }.showGals active).tryRelease h
    else s

/-! ### The other hall's image (R86 to R88) -/

/-- R87: Hall B has not accepted in 20 ms, or refuses: Hall A runs alone. -/
def State.acceptFailed (s : State) : State :=
  let linked := match s.a.image with | some im => im.linked | none => false
  if linked && !s.a.stair.farAccepted && !s.b.swp.started then s.losePartner .a else s

/-- R88: the running hall's digest is known in hall h. -/
def State.digestArrives (s : State) (h : HallId) (d : List Byte) : State :=
  let s1 := s.onHall h fun H => { H with stair := { H.stair with farDigest := d } }
  let H := s1.hall h
  let other := match H.image with | some im => im.digest != d | none => true
  if (s.hall h.other).swp.started && !H.swp.started && !d.isEmpty && other then
    s1.onHall h fun H => H.tell .imageRequest
  else s1.tryRelease h

/-- R88: a resetting hall that cannot take the running hall's image keeps its galleries off and reports the partner lost. -/
def State.mismatch (s : State) (h : HallId) : State :=
  let s1 := (s.onHall h fun H =>
    { H with
      gals := H.gals.map fun (G : Gallery) => { G with st := .off }
      dev := { H.dev with mismatch := true, lastError := 0x23, errorAt := (0, 0xFFFF) } }).log h 0x0012 0 0
  s1.onHall h fun H => { H with stair := { H.stair with mode := .partnerLost, alive := false, lost := true } }

/-- R88: the running hall's active image arrives in the resetting hall, which takes it if it verifies and has the same structure digest;
SOURCE then reads 4 in Hall A too (DESIGN CHOICE 55). -/
def State.activeArrives (s : State) (h : HallId) (bs : List Byte) : State :=
  let H := s.hall h
  if H.swp.started || !H.dev.up || !H.mem.trained then s
  else
    match s.verify h none bs with
    | .error r => (s.recordRefusal h r).mismatch h
    | .ok im =>
      let same := match H.image with | some o => o.sdigest == im.sdigest | none => true
      if same then s.loadImage h im 4 else s.mismatch h

/-! ### Staging and activation (R92 to R96) -/

/-- R92: an IMAGE object has arrived whole, from a host feed or (`forwarded`) from the other hall: it is verified and becomes the staged
image. -/
def State.stageImage (s : State) (h : HallId) (bs : List Byte) (forwarded : Bool) : State :=
  let H := s.hall h
  if H.image.isNone then s
  else if H.dev.staged = 3 then s.recordRefusal h (0x21, 0, 0xFFFF)
  else
    match s.verify h H.image bs with
    | .error r => (s.onHall h fun H => { H with dev := { H.dev with staged := 0, stagedImg := none, farVerified := none } }).recordRefusal h r
    | .ok im =>
      s.onHall h fun H =>
        let H1 := { H with dev := { H.dev with staged := 2, stagedImg := some im, farVerified := if forwarded then H.dev.farVerified else none } }
        (if !forwarded && H.stair.enable && H.stair.trained then H1.tell (.stagedImage bs) else H1).reportStaged h.idx

/-- R93: an activation asked for in hall h. Where something else than the conditions with a code fails, the request is refused without one. -/
def State.activate (s : State) (h : HallId) : State :=
  let H := s.hall h
  match H.image, H.dev.stagedImg with
  | some old, some im =>
    let both := H.stair.mode == .split || H.stair.mode == .paired
    if H.dev.staged = 3 then s.recordRefusal h (0x21, 0, 0xFFFF)
    else if H.dev.staged ≠ 2 then s
    else if im.sdigest != old.sdigest then s.recordRefusal h (0x20, 0, 0xFFFF)
    else if both && H.dev.farVerified.map (·.1) != some im.digest then s
    else if !(H.stagedFits h.idx im) || (both && H.dev.farVerified.map (·.2) != some true) then s.recordRefusal h (0x13, 0x10, 0xFFFF)
    else
      let n := (H.swp.sweep + 2) % 2 ^ 32
      s.onHall h fun H =>
        let H1 := { H with dev := { H.dev with
          staged := 3, actSweep := n, activate := true, ackBy := if both then some ((H.swp.sweep + 1) % 2 ^ 32) else none } }
        if both then H1.tell (.schedule n) else H1
  | _, _ => s

/-- R93: the other hall schedules the activation for a sweep: this hall schedules its staged image and acknowledges. -/
def State.scheduleArrives (s : State) (h : HallId) (n : Nat) : State :=
  let H := s.hall h
  if H.dev.staged = 2 && H.dev.stagedImg.isSome then
    s.onHall h fun H =>
      ({ H with dev := { H.dev with staged := 3, actSweep := n, activate := true } } : Hall).tell (.scheduleAck n)
  else s

/-- R36, R93: the sender of the schedule for sweep n has withdrawn it: this hall does not apply its staged image either. -/
def State.withdrawn (s : State) (h : HallId) (n : Nat) : State := if (s.hall h).dev.actSweep = n then s.unschedule h else s

/-- R93, R95: the other hall has not acknowledged before the boundary that starts sweep S + 1: this hall refuses, and tells the other. -/
def State.ackTimeout (s : State) (h : HallId) : State :=
  match (s.hall h).dev.ackBy with
  | none => s
  | some _ =>
    let n := (s.hall h).dev.actSweep
    (s.unschedule h).onHall h fun H => H.tell (.withdraw n)

/-- R96: a staged image that is not SCHEDULED is discarded. -/
def State.discard (s : State) (h : HallId) : State :=
  if (s.hall h).dev.staged = 3 then s
  else s.onHall h fun H => { H with dev := { H.dev with staged := 0, stagedImg := none, farVerified := none } }

end Sys2Proof.Machine
end

