-- ==== Sys2Proof/Machine/Capsules.lean ====
section
/-! DEFINITION. The capsules (14, R457 to R466): rights, BIND and UNBIND, SUBMIT, CANCEL, QUERY, ATTEST, KEYWRAP and LOADMODEL. Each function
executes one capsule in hall h for host port p; `far` says that it came from the other hall under R456. -/

namespace Sys2Proof.Machine

/-! ### Rights and sessions (R457) -/

/-- R459: the session that a capsule names. -/
def Hall.named (H : Hall) (c : Capsule) : Option Session := if c.session < 2 ^ 31 then H.session (c.session % 2 ^ 18) else none

/-- R457: right `r` is missing, or, with `parts`, the session's partition is not in the port's PARTS. -/
def Hall.denied (H : Hall) (p r : Nat) (parts : Bool) (e : Option Session) : Bool :=
  !(H.hasRight p r) || (parts && match e with | some e => !(H.hasPart p e.part) | none => false)

/-- R74, R457: the session's tenant does not list port p. -/
def Hall.unlisted (H : Hall) (p : Nat) (e : Option Session) : Bool :=
  match e with
  | none => false
  | some e => match H.image.bind fun im => im.tenant e.dom with
    | some t => !(bit t.ports p)
    | none => true

/-- R453: NO_SESSION: the session does not exist or is not bound through port p. -/
def unbound (p : Nat) (e : Option Session) : Bool := match e with | some e => e.port != p | none => true

/-- R453: the entry that answers NO_IMAGE (R89). -/
def Hall.noImage (H : Hall) : Bool × Nat × Nat := (H.image.isNone, 5, 0)

/-- R453: a payload shorter than n bytes. -/
def short (pl : List Byte) (n : Nat) : Bool × Nat × Nat := (decide (pl.length < n), 3, 0)

/-- R53: the halls of a partition. -/
def PartEntry.hallIds (e : PartEntry) : List HallId := if e.paired then [.a, .b] else [HallId.ofIdx e.hall]

/-- The halls of a partition that take a binding now: hall h, and the other one of a pair while its steward runs and is not lost. -/
def State.bindHalls (s : State) (h : HallId) (e : PartEntry) : List HallId :=
  e.hallIds.filter fun k => k == h || ((s.hall k).dev.up && (s.hall k).image.isSome && !(s.hall h).stair.lost)

/-- R551: gallery g of the hall is off. -/
def Hall.galOff (H : Hall) (g : Nat) : Bool := decide (g < 8) && (H.gal g).st == .off

/-- R551: the hall's LPDDR5X and CSI-2 ports are not on. -/
def Hall.portsOff (H : Hall) : Bool := H.pwr.hall != .on

/-! ### BIND (R459 to R461, R492) -/

/-- R459: the lowest free session number of hall h. -/
def Hall.freeSession (H : Hall) (h : Nat) : Option Nat :=
  let base := if h = 0 then 0 else 131072
  let top := if h = 0 then 131072 else 262141
  let used := H.sec.sessions.map (·.num)
  (List.range (min (top - base) (used.length + 1))).findSome? fun i => if used.contains (base + i) then none else some (base + i)

/-- R491: the 76 bytes that a proof of tenancy signs. -/
def State.bindMessage (s : State) (p part dom : Nat) : List Byte :=
  [0x54#8, 0x56#8, 0x4D#8, 0x42#8, 0x49#8, 0x4E#8, 0x44#8, 0x31#8] ++ s.packageId ++ leBytes 1 p ++ leBytes 1 part ++ leBytes 2 dom
    ++ (s.port p).challenge

/-- R492: BIND_DOMAIN applies. -/
def State.bindDomainBad (s : State) (h : HallId) (p part dom : Nat) (t : TenantEntry) : Bool :=
  let H := s.hall h
  !(H.bound dom part) || !(bit t.ports p) || match H.partEntry part with
    | none => true
    | some pe => (s.bindHalls h pe).any fun k => decide (0 < t.sessionQuota) && decide (t.sessionQuota ≤ (s.hall k).sessionsOf dom)

/-- R459, R491 to R493: BIND of a session. -/
def State.bindSession (s : State) (h : HallId) (p : Nat) (c : Capsule) : State × Reply :=
  let H := s.hall h
  let pl := c.payload
  let auth := fld pl 4 4
  let part := fld pl 1 1
  let dom := fld pl 2 2
  let ten := H.image.bind fun im => im.tenant dom
  let listed := match ten with | some t => bit t.ports p | none => false
  let releasing := match H.dom dom with | some (x : Dom) => x.releasing | none => false
  let proofBad := match ten with
    | none => true
    | some t => !(bit t.tflags 0) && (auth != 192 || sha384 (slice pl 8 96) != t.ownerHash
        || !(ecdsaOk (slice pl 8 96) (sha384 (s.bindMessage p part dom)) (slice pl 104 96)))
  let domainBad := match ten with | some t => s.bindDomainBad h p part dom t | none => true
  let num := H.freeSession h.idx
  let bad := firstErr [short pl 8, (decide (auth = 192) && decide (pl.length < 200), 3, 0), badAt 4 (auth != 0 && auth != 192), H.noImage,
    (!(H.hasRight p 0) || !listed, 6, 0), (num.isNone, 0xA, 0), (domainBad, 0xD, 0x0701), (proofBad, 0xD, 0x0702),
    (!H.sec.trngOk, 0xD, 0x0708), (releasing, 0xD, 0x070F)]
  let s1 := s.newChallenge p
  match bad, num with
  | some (st, d), _ =>
    (s1.onHall h fun H => if d = 0x0701 || d = 0x0702 then { H with sec := { H.sec with bindFail := inc16 H.sec.bindFail } } else H, .err st d)
  | none, none => (s1, .err 0xA 0)
  | none, some n =>
    let e : Session := { num := n, port := p, part := part, dom := dom, flight := none, releasing := false }
    let ks := match H.partEntry part with | some pe => s.bindHalls h pe | none => [h]
    (ks.foldl (fun (s : State) k => s.onHall k fun H => { H with sec := { H.sec with sessions := H.sec.sessions ++ [e] } }) s1,
      .ok (leBytes 4 n))

/-- R480, R473: a transmit configuration can carry a class-0 stream. -/
def txFast (w : BitVec 32) : Bool :=
  let lanes := bits w.toNat 26 3
  let rate := bits w.toNat 0 13
  decide (2124 * 100 ≤ lanes * rate * (if w.getLsbD 30 then 228 else 100))

/-- R460, R461: a ring's cell is a local cell of its gallery. -/
def localCell (g i : Nat) : Bool := decide (i < 8192) && i / 1024 == g

/-- R460, R461: the fields of a ring, from its offsets: GALLERY, BLOCKS, RING_ADDR and BLOCK_BYTES. -/
def Hall.ringBad (H : Hall) (part : Option Nat) (gal blocks addr bytes : Nat) (og ob oa oB : Nat) : List (Bool × Nat × Nat) :=
  let outside := match part with
    | some p => decide (gal < 8) && (H.gal gal).partition == some p && !(H.galOk p gal addr (blocks * bytes))
    | none => false
  let foreign := match part with | some p => decide (gal < 8) && (H.gal gal).partition != some p | none => false
  [badAt og (decide (8 ≤ gal) || foreign), badAt ob (decide (blocks < 2) || decide (64 < blocks)), badAt oa (addr % 64 != 0 || outside),
    badAt oB (bytes % 64 != 0 || decide (bytes < 128) || decide (262144 < bytes))]

/-- R460, R624: what a stream BIND breaks that is answered BAD_PAYLOAD, in ascending offset. -/
def State.streamBad (s : State) (h : HallId) (e : Option Session) (pl : List Byte) : List (Bool × Nat × Nat) :=
  let H := s.hall h
  let ring := decide (fld pl 1 1 = 1)
  let pe := e.bind fun e => H.partEntry e.part
  let class0 := match pe with | some (q : PartEntry) => bit q.classes 0 | none => false
  let txBad := fun (k : HallId) (t : Nat) =>
    (decide (3 < t) && t != 0xFF) || match pe with
      | some q =>
        if q.hallIds.contains k then
          t == 0xFF || (class0 && decide (t < 4) && (!(txFast ((s.hall k).txPort t).eff) || !(txFast ((s.hall k).txPort t).cfg)))
        else t != 0xFF
      | none => false
  let rg := if ring then H.ringBad (e.map (·.part)) (fld pl 29 1) (fld pl 30 1) (fld pl 32 4) (fld pl 36 4) 29 30 32 36 else []
  [badAt 1 (decide (1 < fld pl 1 1) || (ring && match pe with | some (q : PartEntry) => q.paired | none => false)),
    badAt 2 (decide (63 < fld pl 2 1)), badAt 3 (txBad .a (fld pl 3 1)), badAt 4 (txBad .b (fld pl 4 1)), badAt 5 (decide (15 < fld pl 5 1)),
    badAt 6 (decide (fld pl 6 1 < 0x30) || decide (0x37 < fld pl 6 1)), badAt 7 (!ring && decide (1 < fld pl 7 1)),
    badAt 28 (ring && ((fld pl 28 1 != 2 && fld pl 28 1 != 3) || match pe with
      | some (q : PartEntry) => !(bit q.classes (fld pl 28 1)) | none => false))]
    ++ rg ++ (if ring then [badAt 40 (!(localCell (fld pl 29 1) (fld pl 40 2))), badAt 42 (!(localCell (fld pl 29 1) (fld pl 42 2)))] else [])

/-- R460: the transmit port that a stream BIND names for hall k. -/
def txNamed (pl : List Byte) (k : HallId) : Nat := fld pl (3 + k.idx) 1

/-- R460: NO_ROOM in hall k: the number or the virtual channel is taken, or the port already carries a class-0 stream. -/
def Hall.streamFull (H : Hall) (pl : List Byte) (k : HallId) (class0 : Bool) : Bool :=
  let t := txNamed pl k
  H.streams.any fun (x : TxStream) => x.num == fld pl 2 1 || (x.tx == t && (x.vc == fld pl 5 1
    || (class0 && match H.partEntry x.part with | some q => bit q.classes 0 | none => false)))

/-- R460: the stream that capsule c of session e binds in halls ks, with key k. -/
def State.addStream (s : State) (h : HallId) (c : Capsule) (e : Session) (k : KeySlot) (ks : List HallId) : State :=
  let pl := c.payload
  let x := fun (i : HallId) => ({
      num := fld pl 2 1, session := e.num, part := e.part, ring := fld pl 1 1 == 1, tx := txNamed pl i,
      vc := fld pl 5 1, dt := fld pl 6 1, homeHall := fld pl 7 1, key := fld pl 8 4, secret := k.key,
      emitBuf := ((List.range 8).map fun j => fld pl (12 + 2 * j) 2).filter fun j => j != 0xFFFF,
      cls := if fld pl 1 1 = 1 then fld pl 28 1 else 0, gallery := fld pl 29 1, blocks := fld pl 30 1, ringAddr := fld pl 32 4,
      blockBytes := fld pl 36 4, cell := fld pl 40 2, freeCell := fld pl 42 2, rseq := 0, sent := 0, dropped := 0, oversize := 0,
      shown := (0, 0, 0), k := 0, queue := [], sending := none, closing := false } : TxStream)
  let s1 := s.onHall (HallId.ofIdx (fld pl 8 4 / 2 ^ 31)) fun H => { H with sec := { H.sec with
    keys := H.sec.keys.map fun (y : KeySlot) => if y.slot = k.slot then { y with bound := true } else y } }
  let s2 := ks.foldl (fun (s : State) i => s.onHall i fun H => { H with streams := H.streams ++ [x i] }) s1
  s2.onHall h fun H => if fld pl 1 1 = 1 then H.wake wakeFuel h.idx (fld pl 40 2) else H

/-- R460: BIND of a stream. -/
def State.bindStream (s : State) (h : HallId) (p : Nat) (c : Capsule) : State × Reply :=
  let H := s.hall h
  let pl := c.payload
  let e := H.named c
  let pe := e.bind fun e => H.partEntry e.part
  let class0 := match pe with | some (q : PartEntry) => bit q.classes 0 | none => false
  let ks := match pe with | some q => s.bindHalls h q | none => []
  let kh := HallId.ofIdx (fld pl 8 4 / 2 ^ 31)
  let key := e.bind fun e => (s.hall kh).keyFor kh.idx (fld pl 8 4) e.num 1
  let keyBad := match key with | some (k : KeySlot) => k.bound | none => true
  match firstErr ([short pl 44] ++ s.streamBad h e pl ++ [H.noImage, (H.denied p 2 true e, 6, 0), (unbound p e, 7, 0),
      (ks.any (fun k => (s.hall k).streamFull pl k class0), 0xA, 0),
      (ks.any (fun k => (s.hall k).portsOff || (fld pl 1 1 == 1 && (s.hall k).galOff (fld pl 29 1))), 0xB, 0), (keyBad, 0xD, 0x0707)]), e, key with
  | some (st, d), _, _ => (s, .err st d)
  | none, some e, some k => (s.addStream h c e k ks, .ok [])
  | none, _, _ => (s, .err 7 0)

/-- R442, R461: the hall and entry of a FEED_ID: this hall's, else the other's. -/
def Hall.feedNamed (H : Hall) (h : HallId) (id : Nat) : Option (HallId × HostFeedBody) :=
  match H.image with
  | none => none
  | some im =>
    match im.hostFeed h.idx id with
    | some b => some (h, b)
    | none => (im.hostFeed h.other.idx id).map fun b => (h.other, b)

/-- R461: BIND of a feed ring. -/
def State.bindRing (s : State) (h : HallId) (p : Nat) (far : Bool) (c : Capsule) : State × Reply :=
  let H := s.hall h
  let pl := c.payload
  let e := H.named c
  let feed := H.feedNamed h (fld pl 2 2)
  let host := match feed with | some (_, b) => b.host == p | none => true
  let away := match feed with | some (k, _) => k != h | none => false
  let inPart := match feed, e.bind fun e => H.partEntry e.part with | some (k, _), some q => q.hallIds.contains k | _, _ => true
  let rules := if away then [] else H.ringBad (e.map (·.part)) (fld pl 1 1) (fld pl 6 1) (fld pl 8 4) (fld pl 12 4) 1 6 8 12
  let bads := rules.take 1 ++ [badAt 2 ((H.image.isSome && feed.isNone) || !inPart), badAt 4 (decide (4095 < fld pl 4 2))] ++ rules.drop 1
    ++ [badAt 16 (!(localCell (fld pl 1 1) (fld pl 16 2)))]
  match firstErr ([short pl 20] ++ bads ++ [H.noImage, (!(H.hasRight p 8) || !host, 6, 0), (unbound p e, 7, 0)]), e with
  | some (st, d), _ => (s, .err st d)
  | none, none => (s, .err 7 0)
  | none, some e =>
    if away && !far then (s, .forward)
    else if H.rings.any fun (r : FeedRing) => r.feedId == fld pl 2 2 && r.channel == fld pl 4 2 then (s, .err 0xA 0)
    else if H.portsOff || H.galOff (fld pl 1 1) then (s, .err 0xB 0)
    else
      let r : FeedRing :=
        { session := e.num, feedId := fld pl 2 2, channel := fld pl 4 2, gallery := fld pl 1 1, blocks := fld pl 6 1, addr := fld pl 8 4
          blockBytes := fld pl 12 4, cell := fld pl 16 2, n := 0 }
      (s.onHall h fun H => { H with rings := H.rings ++ [r] }, .ok [])

/-! ### UNBIND (R462) -/

/-- R462: UNBIND of a session. -/
def State.unbindSession (s : State) (h : HallId) (p : Nat) (c : Capsule) : State × Reply :=
  let H := s.hall h
  let e := H.named c
  match firstErr [short c.payload 1, badAt 0 (decide (2 < fld c.payload 0 1)), H.noImage, (!(H.hasRight p 0) || H.unlisted p e, 6, 0),
      (unbound p e || (match e with | some e => e.flight.isSome | none => false), 7, 0)], e with
  | some (st, d), _ => (s, .err st d)
  | none, none => (s, .err 7 0)
  | none, some e =>
    let s1 := ([HallId.a, .b]).foldl (fun (s : State) k => if ((s.hall k).session e.num).isSome then s.startRelease k e.num else s) s
    (s1, .later (.scrub c.tag e.num e.dom))

/-- R462: UNBIND of a stream, in each hall that holds it. -/
def State.unbindStream (s : State) (h : HallId) (p : Nat) (c : Capsule) : State × Reply :=
  let H := s.hall h
  let n := fld c.payload 2 1
  let e := H.named c
  let found := match e with | some e => H.streams.any fun (x : TxStream) => x.num == n && x.session == e.num && !x.closing | none => false
  match firstErr [short c.payload 3, badAt 2 (decide (63 < n)), H.noImage, (H.denied p 2 true e, 6, 0), (unbound p e, 7, 0),
      (!found, 8, 0)] with
  | some (st, d) => (s, .err st d)
  | none =>
    let num := (e.map (·.num)).getD 0
    (([HallId.a, .b]).foldl (fun (s : State) k => s.onHall k fun H =>
      match H.stream n with
      | some x => if x.session = num then H.unbindStream k.idx n else H
      | none => H) s, .ok [])

/-- R462: UNBIND of a feed ring. -/
def State.unbindRing (s : State) (h : HallId) (p : Nat) (far : Bool) (c : Capsule) : State × Reply :=
  let H := s.hall h
  let pl := c.payload
  let e := H.named c
  let feed := H.feedNamed h (fld pl 2 2)
  let host := match feed with | some (_, b) => b.host == p | none => true
  let away := match feed with | some (k, _) => k != h | none => false
  let found := match e with
    | some e => H.rings.any fun (r : FeedRing) => r.feedId == fld pl 2 2 && r.channel == fld pl 4 2 && r.session == e.num
    | none => false
  match firstErr [short pl 6, badAt 2 (H.image.isSome && feed.isNone), badAt 4 (decide (4095 < fld pl 4 2)), H.noImage,
      (!(H.hasRight p 8) || !host, 6, 0), (unbound p e, 7, 0)] with
  | some (st, d) => (s, .err st d)
  | none =>
    if away && !far then (s, .forward)
    else if !found then (s, .err 8 0)
    else (s.onHall h fun H => H.unbindRing h.idx (fld pl 2 2) (fld pl 4 2), .ok [])

/-! ### SUBMIT and CANCEL (R463, R464) -/

/-- R463: a context of a session named by a handle of hall h. -/
def Hall.handleCtx (H : Hall) (h handle session : Nat) : Option Ctx :=
  if handle / 16384 % 2 = h then
    match H.ctx (handle % 16384) with
    | some x => if x.session = some session then some x else none
    | none => none
  else none

/-- R305, R314: the core on which a new context is placed, its home core, and whether it is a moved context. -/
def Hall.placeNew (H : Hall) (h : Nat) (x : Ctx) (gal core : Nat) : Option (Nat × Nat) :=
  let own := ((List.range 12).map fun i => 12 * gal + i).filter fun c => H.coreTakes c
  let away := fun (home : Nat) =>
    let cs := H.replacements x.part gal
    ((cs.find? fun c => H.fits h x c).orElse fun _ => cs.head?).map fun c => (c, home)
  if core < 12 then
    if H.coreTakes (12 * gal + core) then some (12 * gal + core, 12 * gal + core) else away (12 * gal + core)
  else
    match own.find? fun c => H.fits h x c with
    | some c => some (c, c)
    | none =>
      match own with
      | [] => away (12 * gal)
      | c0 :: r =>
        let best := r.foldl (fun b c => if (H.residents c).length < (H.residents b).length then c else b) c0
        some (best, best)

/-- R463, R301 to R305: SUBMIT CREATE. -/
def State.submitCreate (s : State) (h : HallId) (p : Nat) (far : Bool) (c : Capsule) : State × Reply :=
  let H := s.hall h
  let pl := c.payload
  let d := slice pl 8 64
  let e := H.named c
  let away := decide (fld pl 1 1 ≠ h.idx)
  let pe := e.bind fun e => H.partEntry e.part
  let clsBad := match pe with | some (q : PartEntry) => !(bit q.classes (fld d 0 1)) | none => false
  let num := H.newNumber
  let part := (e.map (·.part)).getD 16
  let x := fun (n : Nat) => ({ Ctx.fresh n (fld d 0 1) part ((e.map (·.dom)).getD 0) (CtxDesc.ofBytes d) 0 with
    session := e.map (·.num) } : Ctx)
  let place := H.placeNew h.idx (x (num.getD 0)) (fld d 1 1) (fld d 2 1)
  let descBad := !(H.descOk part (fld d 1 1) d) || decide (8 ≤ fld d 1 1) || (H.gal (fld d 1 1)).partition != some part
    || bits (fld d 4 4) 0 18 != (e.map (·.num)).getD 0 || place.isNone
  match firstErr [short pl 8, (decide (fld pl 0 1 = 0) && decide (pl.length < 72), 3, 0), badAt 0 (decide (1 < fld pl 0 1)),
      badAt 1 (decide (1 < fld pl 1 1)), H.noImage, (H.denied p 1 true e, 6, 0), (unbound p e, 7, 0)] with
  | some (st, det) => (s, .err st det)
  | none =>
    if away && !far then (s, .forward)
    else
      match firstErr [((fld d 0 1 != 2 && fld d 0 1 != 3) || clsBad, 9, 0), (num.isNone, 0xA, 0),
          (H.galOff (fld d 1 1) || (bit (fld d 8 4) 31 && H.portsOff), 0xB, 0), (descBad, 0xD, 0x010A)], num, place with
      | some (st, det), _, _ => (s, .err st det)
      | none, some n, some (core, home) =>
        let s1 := s.onHall h fun H =>
          let y := { x n with core := core, home := home, moved := decide (core ≠ home), fetching := true }
          ((H.insertCtx y).settleCtx h.idx n).settle h.idx
        (s1, .ok (leBytes 2 (ctxHandle h.idx n) ++ leBytes 1 core))
      | none, _, _ => (s, .err 0xA 0)

/-- R463: SUBMIT RESUME. -/
def State.submitResume (s : State) (h : HallId) (p : Nat) (far : Bool) (c : Capsule) : State × Reply :=
  let H := s.hall h
  let pl := c.payload
  let e := H.named c
  let handle := fld pl 2 2
  let fr := fld pl 4 4
  let away := decide (fld pl 1 1 ≠ h.idx)
  let x := e.bind fun e => H.handleCtx h.idx handle e.num
  let frBad := match x with
    | some (x : Ctx) => (x.st == .faulted && decide (fr < x.faultPos)) || decide (x.desc.streamLen ≤ fr)
    | none => false
  match firstErr [short pl 8, badAt 0 (decide (1 < fld pl 0 1)), badAt 1 (decide (1 < fld pl 1 1)), badAt 2 (bit handle 15),
      badAt 4 (!away && frBad), H.noImage, (H.denied p 1 true e, 6, 0), (unbound p e, 7, 0)] with
  | some (st, d) => (s, .err st d)
  | none =>
    if away && !far then (s, .forward)
    else
      match x with
      | none => (s, .err 8 0)
      | some x =>
        if x.st != .faulted then (s, .err 0xB 0)
        else
          let s1 := s.onHall h fun H =>
            let H1 := H.onCtx x.num fun y =>
              { y with
                st := if y.rslot.isSome then .resident else .waiting
                fetching := true, fetch := fr, horizon := max fr y.horizon, doneMask := y.doneMask.filter fun i => decide (fr ≤ i) }
            (H1.settleCtx h.idx x.num).settle h.idx
          (s1, .ok [])

/-- R464: CANCEL. -/
def State.cancelCapsule (s : State) (h : HallId) (p : Nat) (far : Bool) (c : Capsule) : State × Reply :=
  let H := s.hall h
  let handle := fld c.payload 0 2
  let e := H.named c
  match firstErr [short c.payload 2, badAt 0 (bit handle 15), H.noImage, (H.denied p 1 true e, 6, 0), (unbound p e, 7, 0)] with
  | some (st, d) => (s, .err st d)
  | none =>
    if handle / 16384 % 2 ≠ h.idx && !far then (s, .forward)
    else
      match e.bind fun e => H.handleCtx h.idx handle e.num with
      | none => (s, .err 8 0)
      | some x => if !x.alive then (s, .err 0xB 0) else (s.cancelCtx h x, .ok [])

/-! ### QUERY (R465) -/

/-- R318, R319: the 64 bytes of an account. -/
def Ctx.account (x : Ctx) : List Byte :=
  let a := x.shown
  leBytes 2 x.num ++ leBytes 1 x.part ++ leBytes 1 x.cls ++ leBytes 1 x.shownState ++ leBytes 1 x.home ++ leBytes 2 x.shownFault
    ++ leBytes 4 a.committed ++ leBytes 4 a.kills ++ leBytes 8 a.runCycles ++ leBytes 8 a.killedCycles ++ leBytes 8 a.readyCycles
    ++ leBytes 8 a.blockedCycles ++ leBytes 4 a.swapOuts ++ leBytes 4 a.swapStalls ++ leBytes 4 a.admitCycles ++ leBytes 4 a.replays

/-- R465: QUERY of a context: ACCOUNT or COMPLETIONS. -/
def State.queryCtx (s : State) (h : HallId) (p : Nat) (far : Bool) (kind : Nat) (c : Capsule) : State × Reply :=
  let H := s.hall h
  let pl := c.payload
  let handle := fld pl 2 2
  let n := fld pl 6 2
  let e := H.named c
  match firstErr [short pl 1, (decide (fld pl 0 1 = kind) && decide (pl.length < 4 + 4 * kind), 3, 0), badAt 0 (decide (4 < fld pl 0 1)),
      badAt 2 (bit handle 15), badAt 6 (kind == 1 && (n == 0 || decide (64 < n))), H.noImage, (H.denied p 1 true e, 6, 0),
      (unbound p e, 7, 0)] with
  | some (st, d) => (s, .err st d)
  | none =>
    if handle / 16384 % 2 ≠ h.idx && !far then (s, .forward)
    else
      match e.bind fun e => H.handleCtx h.idx handle e.num with
      | none => (s, .err 8 0)
      | some x =>
        if kind = 0 then (s, .ok x.account)
        else if H.galOff x.desc.gallery then (s, .err 0xB 0)
        else
          let st := (H.gal x.desc.gallery).store
          (s, .ok ((List.range n).flatMap fun i => st.read (x.desc.complAddr + 16 * ((fld pl 4 2 + i) % 65536 % max 1 x.desc.complCount)) 16))

/-- R465, R516: QUERY STREAM. -/
def State.queryStream (s : State) (h : HallId) (p : Nat) (far : Bool) (c : Capsule) : State × Reply :=
  let H := s.hall h
  let pl := c.payload
  let e := H.named c
  match firstErr [short pl 3, badAt 1 (decide (1 < fld pl 1 1)), badAt 2 (decide (63 < fld pl 2 1)), H.noImage, (H.denied p 2 true e, 6, 0),
      (unbound p e, 7, 0)] with
  | some (st, d) => (s, .err st d)
  | none =>
    if fld pl 1 1 ≠ h.idx && !far then (s, .forward)
    else
      match H.stream (fld pl 2 1), e with
      | some x, some e =>
        if x.session ≠ e.num || x.closing then (s, .err 8 0)
        else
          let r := fun (n : Nat) => leBytes 4 (n / 4096 * 4096)
          (s, .ok (leBytes 4 (min x.rseq 0xFFFFFFFF) ++ r x.shown.1 ++ r x.shown.2.1 ++ r x.shown.2.2))
      | _, _ => (s, .err 8 0)

/-- R467: a held event in 32 bytes. -/
def Event.bytes (e : Event) : List Byte := fit (leBytes 1 e.mand ++ e.payload) 32

/-- R465: QUERY EVENTS: held events leave with the response. -/
def State.queryEvents (s : State) (h : HallId) (p : Nat) (c : Capsule) : State × Reply :=
  let n := fld c.payload 1 1
  match firstErr [short c.payload 2, badAt 1 (n == 0 || decide (64 < n)), (s.hall h).noImage] with
  | some (st, d) => (s, .err st d)
  | none => (s.onPort p fun P => { P with events := P.events.drop n }, .ok ((((s.port p).events.take n).map Event.bytes).flatten))

/-- R454: capsules outstanding on a port. -/
def Port.outstanding (P : Port) : Nat := P.queue.length + P.waits.length + P.resps.length

/-- R465: QUERY PORT. The query itself, taken from its queue, is outstanding too. -/
def State.queryPort (s : State) (h : HallId) (p : Nat) (c : Capsule) : State × Reply :=
  let H := s.hall h
  match firstErr [short c.payload 1, H.noImage] with
  | some (st, d) => (s, .err st d)
  | none =>
    let r := H.rightsEntry p
    let P := s.port p
    (s, .ok (leBytes 4 ((r.map (·.rights)).getD 0) ++ leBytes 4 ((r.map (·.parts)).getD 0) ++ leBytes 4 (P.outstanding + 1)
      ++ leBytes 4 P.events.length))

/-! ### ATTEST, KEYWRAP, LOADMODEL (R466) -/

/-- R494, R496: ATTEST. -/
def State.attestCapsule (s : State) (h : HallId) (p : Nat) (far : Bool) (c : Capsule) : State × Reply :=
  let H := s.hall h
  let pl := c.payload
  let e := H.named c
  let purpose := fld pl 48 1
  let model := fld pl 50 2
  let modelBad := match e.bind fun e => H.image.bind fun im => im.tenant e.dom with
    | some (t : TenantEntry) => model != 0xFFFF && !(t.hasModel model)
    | none => false
  let full := purpose == 1 && decide (256 ≤ H.sec.ephs.length) && (match e with
    | some e => decide ((H.sec.ephs.filter fun (x : Ephemeral) => x.session == e.num).length < 4) | none => false)
  match firstErr [short pl 64, badAt 48 (decide (1 < purpose)), badAt 49 (decide (1 < fld pl 49 1)), badAt 50 modelBad, H.noImage,
      (!(H.hasRight p 9), 6, 0), (e.isNone, 7, 0)], e with
  | some (st, d), _ => (s, .err st d)
  | none, none => (s, .err 7 0)
  | none, some e =>
    if fld pl 49 1 ≠ h.idx && !far then (s, .forward)
    else if full then (s, .err 0xA 0)
    else if purpose = 1 && !H.sec.trngOk then (s, .err 0xD 0x0708)
    else s.attest h e purpose model (pl.take 48)

/-- R457, R497: what every KEYWRAP must meet; `n` is the length its SUBOP needs. -/
def Hall.keywrapBad (H : Hall) (p n : Nat) (pl : List Byte) (e : Option Session) : Option (Nat × Nat) :=
  firstErr [short pl n, badAt 0 (decide (3 < fld pl 0 1)), badAt 1 (decide (1 < fld pl 1 1)), H.noImage,
    (!(H.hasRight p 3) || H.unlisted p e, 6, 0), (unbound p e, 7, 0)]

/-- R498: KEYWRAP MODEL_KEY and STREAM_KEY. -/
def State.keywrapKey (s : State) (h : HallId) (p : Nat) (far : Bool) (c : Capsule) : State × Reply :=
  let H := s.hall h
  let e := H.named c
  match H.keywrapBad p 176 c.payload e, e with
  | some (st, d), _ => (s, .err st d)
  | none, none => (s, .err 7 0)
  | none, some e => if fld c.payload 1 1 ≠ h.idx && !far then (s, .forward) else s.unwrapKey h e c.payload

/-- R510: KEYWRAP ROTATE. -/
def State.keywrapRotate (s : State) (h : HallId) (p : Nat) (far : Bool) (c : Capsule) : State × Reply :=
  let H := s.hall h
  let e := H.named c
  match H.keywrapBad p 16 c.payload e, e with
  | some (st, d), _ => (s, .err st d)
  | none, none => (s, .err 7 0)
  | none, some e =>
    if fld c.payload 1 1 ≠ h.idx && !far then (s, .forward)
    else
      let r := s.rotate h e.dom
      (r.2, if r.1 = 0 then .ok [] else .err 0xD r.1)

/-- R499: KEYWRAP ERASE. -/
def State.keywrapErase (s : State) (h : HallId) (p : Nat) (far : Bool) (c : Capsule) : State × Reply :=
  let H := s.hall h
  let e := H.named c
  let handle := fld c.payload 8 4
  match H.keywrapBad p 16 c.payload e, e with
  | some (st, d), _ => (s, .err st d)
  | none, none => (s, .err 7 0)
  | none, some e =>
    if fld c.payload 1 1 ≠ h.idx && !far then (s, .forward)
    else
      match H.keyFor h.idx handle e.num (handle / 2 ^ 30 % 2) with
      | none => (s, .err 0xD 0x0707)
      | some k => (s.onHall h fun H => H.eraseSlot k.slot, .ok [])

/-- R500: the model number of a LOADMODEL lies outside the session's domain's range. -/
def Hall.modelBad (H : Hall) (e : Option Session) (m : Nat) : Bool :=
  match e.bind fun e => H.image.bind fun im => im.tenant e.dom with
  | some (t : TenantEntry) => !(t.hasModel m)
  | none => false

/-- R500: the flash entry and range of a SOURCE 1 load can be read. -/
def flashPartOk (f : Flash) (slot off total : Nat) : Bool × Bool :=
  match flashEntry f 3 slot with
  | none => (false, true)
  | some e => (true, decide (off + total ≤ e.length))

/-- R500, R503: LOADMODEL LOAD: the load is open until its part has been taken. -/
def State.loadmodelLoad (s : State) (h : HallId) (p : Nat) (far : Bool) (flash : Flash) (c : Capsule) : State × Reply :=
  let H := s.hall h
  let pl := c.payload
  let e := H.named c
  let m := fld pl 2 2
  let src := fld pl 8 1
  let away := decide (fld pl 1 1 ≠ h.idx)
  let total := fld pl 16 4
  let fl := flashPartOk flash (fld pl 9 1) (fld pl 20 4) total
  let feedBad := src == 0 && !away && match H.image with | some im => (im.hostFeed h.idx (fld pl 10 2)).isNone | none => false
  let key := H.sec.keys.find? fun (k : KeySlot) => keyHandle h.idx k == fld pl 4 4
  let handleBad := match e with | some e => (H.keyFor h.idx (fld pl 4 4) e.num 0).isNone | none => true
  let keyModelBad := match key with | some (k : KeySlot) => k.use == 0 && k.model != m | none => false
  let busy := H.sec.models.any (fun (x : Model) => x.num == m && x.st == .loaded)
    || (decide (1024 ≤ H.sec.models.length) && !(H.sec.models.any fun (x : Model) => x.num == m))
  let openPair := src == 0 && H.sec.loads.any fun (l : Load) => l.source == 0 && l.feedId == fld pl 10 2 && l.channel == fld pl 12 2
  match firstErr [short pl 24, badAt 0 (decide (1 < fld pl 0 1)), badAt 1 (decide (1 < fld pl 1 1)), badAt 2 (H.modelBad e m),
      badAt 8 (decide (1 < src)), badAt 9 (src == 1 && !far && !fl.1), badAt 10 feedBad, badAt 12 (src == 0 && decide (4095 < fld pl 12 2)),
      badAt 16 (decide (total < 512) || decide (67107840 < total)), badAt 20 (src == 1 && !far && !fl.2), H.noImage,
      (!(H.hasRight p 3) || H.unlisted p e || (src == 0 && !(H.hasRight p 8)), 6, 0), (unbound p e, 7, 0)], e with
  | some (st, d), _ => (s, .err st d)
  | none, none => (s, .err 7 0)
  | none, some e =>
    if away && !far then (s, .forward)
    else
      match firstErr [(openPair || (src == 0 && H.portsOff), 0xB, 0), (keyModelBad, 0xD, 0x0706), (handleBad, 0xD, 0x0707), (busy, 0xD, 0x070D)] with
      | some (st, d) => (s, .err st d)
      | none =>
        let l : Load :=
          { port := p, tag := c.tag, session := e.num, model := m, key := fld pl 4 4, source := src, feedId := fld pl 10 2
            channel := fld pl 12 2, total := total, flashOffset := fld pl 20 4, bytes := [], complete := false }
        (s.onHall h fun H => { H with sec := { H.sec with loads := H.sec.loads ++ [l] } }, .later (.load c.tag e.num m))

/-- R503: a table in force, or a flight that runs, names a model. -/
def State.modelInUse (s : State) (h : HallId) (m : Nat) : Bool :=
  let H := s.hall h
  (List.range 16).any (fun p => match H.tableOf p with | some t => t.names m | none => false)
    || match H.image.bind fun im => im.cascade with
      | some fs => fs.any fun (f : FlightEntry) => f.model == m && f.hall == h.idx && decide (f.flight ≤ s.vst.level)
      | none => false

/-- R503, R504: LOADMODEL UNLOAD. -/
def State.loadmodelUnload (s : State) (h : HallId) (p : Nat) (far : Bool) (c : Capsule) : State × Reply :=
  let H := s.hall h
  let pl := c.payload
  let e := H.named c
  let m := fld pl 2 2
  match firstErr [short pl 24, badAt 0 (decide (1 < fld pl 0 1)), badAt 1 (decide (1 < fld pl 1 1)), badAt 2 (H.modelBad e m), H.noImage,
      (!(H.hasRight p 3) || H.unlisted p e, 6, 0), (unbound p e, 7, 0)] with
  | some (st, d) => (s, .err st d)
  | none =>
    if fld pl 1 1 ≠ h.idx && !far then (s, .forward)
    else if !(H.sec.models.any fun (x : Model) => x.num == m) then (s, .err 8 0)
    else if s.modelInUse h m then (s, .err 0xD 0x070D)
    else
      let s1 := (H.sec.loads.filter fun (l : Load) => l.model == m).foldl (fun (s : State) l => s.abandonLoad h l 0xB (leBytes 4 0)) s
      (s1.dropModel h m, .ok [])

/-! ### Starting and answering (R452, R454, R456) -/

/-- R456: a capsule can cross the Stair: both ends are up and not lost. -/
def Hall.canForward (H : Hall) : Bool := H.stair.trained && (H.stair.mode == .split || H.stair.mode == .paired)

/-- R452, R456: what a capsule's execution in its port's hall gives its port. -/
def State.settleReply (s : State) (p : Nat) (c : Capsule) (r : Reply) : State :=
  match r with
  | .ok pl => s.respond p c.opcode c.tag c.session 0 pl
  | .err st d => s.respond p c.opcode c.tag c.session st (leBytes 4 d)
  | .later w => s.onPort p fun P => { P with waits := P.waits ++ [w] }
  | .forward =>
    let h := portHall p
    if (s.hall h).canForward then
      let s1 := s.onHall h fun H => H.tell (.capsule p (capsuleBytes c.opcode 0 c.tag 0 c.session c.payload))
      s1.onPort p fun P => { P with waits := P.waits ++ [.far c.opcode c.tag c.session] }
    else s.respond p c.opcode c.tag c.session 0xC (leBytes 4 0)

/-- R456: what a forwarded capsule's execution in hall h sends back. -/
def State.settleFar (s : State) (h : HallId) (p : Nat) (c : Capsule) (r : Reply) : State :=
  match r with
  | .ok pl => s.answer h p c.opcode c.tag c.session 0 pl
  | .err st d => s.answer h p c.opcode c.tag c.session st (leBytes 4 d)
  | .later _ => s
  | .forward => s.answer h p c.opcode c.tag c.session 0xC (leBytes 4 0)

/-- The hall's steward runs its firmware and serves its host ports (R618, R619). -/
def Hall.serves (H : Hall) : Bool := H.dev.up && H.dev.stage != .rom && H.dev.stage != .halted

/-- R454: between the two ports of a hall it is port p's turn: the pointer stands at it, or the other port has nothing to start. -/
def State.capsuleTurn (s : State) (p : Nat) : Bool :=
  let h := portHall p
  (s.hall h).dev.portPtr == portIdx p || (s.port (2 * h.idx + (1 - portIdx p))).queue.isEmpty

/-- R454: the steward starts the capsule at the head of port p's queue in its turn, where it has this OPCODE and, with `kinds`, this first
payload byte or one that no kind has; `run` executes it. -/
def State.startCapsule (s : State) (p op : Nat) (kinds : Option (Nat × Nat)) (run : HallId → Capsule → State → State × Reply) : State :=
  match (s.port p).queue with
  | [] => s
  | c :: rest =>
    let h := portHall p
    let mine := match kinds, c.payload with
      | some (k, last), b :: _ => b.toNat == k || decide (last < b.toNat)
      | _, _ => true
    if 4 ≤ p || c.opcode ≠ op || !mine || !(s.hall h).serves || !(s.capsuleTurn p) then s
    else
      let r := run h c (s.onPort p fun P => { P with queue := rest })
      if (r.1.hall h).serves then r.1.settleReply p c r.2 else r.1

/-- R456: a capsule of the other hall's port p is executed in hall h. -/
def State.runForwarded (s : State) (h : HallId) (p : Nat) (bs : List Byte) : State :=
  let c : Capsule := { opcode := fld bs 0 1, tag := fld bs 2 2, session := fld bs 8 4, payload := bs.drop 16 }
  let k := fld c.payload 0 1
  let none' : Flash := ⟨0, ⟨[]⟩, false, false, false⟩
  let r := match c.opcode, k with
    | 1, 2 => s.bindRing h p true c
    | 2, 2 => s.unbindRing h p true c
    | 3, 0 => s.submitCreate h p true c
    | 3, _ => s.submitResume h p true c
    | 4, _ => s.cancelCapsule h p true c
    | 5, 2 => s.queryStream h p true c
    | 5, _ => s.queryCtx h p true (if k = 1 then 1 else 0) c
    | 6, _ => s.attestCapsule h p true c
    | 7, 2 => s.keywrapRotate h p true c
    | 7, 3 => s.keywrapErase h p true c
    | 7, _ => s.keywrapKey h p true c
    | 8, 1 => s.loadmodelUnload h p true c
    | 8, _ => s.loadmodelLoad h p true none' c
    | _, _ => (s, .forward)
  r.1.settleFar h p c r.2

/-- R456: the far steward's answer, or its absence, ends a forwarded capsule of port p. -/
def State.endForwarded (s : State) (p tag status : Nat) (payload : List Byte) : State :=
  match (s.port p).waits.find? fun w => match w with | .far _ t _ => t == tag | _ => false with
  | some (.far op t ses) => (s.dropWait p fun w => w == .far op t ses).respond p op t ses status payload
  | _ => s

end Sys2Proof.Machine
end

