-- ==== Sys2Proof/Machine/HostPort.lean ====
section
/-! DEFINITION. The I3C target ports (14, R445 to R456, R467, R468, R481, R482): common command codes, private writes and reads, timeouts,
in-band interrupts and port resets. -/

namespace Sys2Proof.Machine

/-! ### Whether a port answers -/

/-- R551, R618, R619: the steward of port p's hall runs its firmware, so that the port acknowledges transfers. -/
def State.portUp (s : State) (p : Nat) : Bool := decide (p < 4) && !s.por && (s.hall (portHall p)).serves

/-- The port does not acknowledge. -/
def State.nack (s : State) (p : Nat) : State := s.onPort p fun P => { P with reply := none }

/-- The port acknowledges, with these bytes. -/
def State.ack (s : State) (p : Nat) (bs : List Byte) : State := s.onPort p fun P => { P with reply := some bs }

/-- R447: a direct CCC to the port's dynamic address: acknowledged, with a change of the port and its answer; else not acknowledged. -/
def State.direct (s : State) (p : Nat) (f : Port → Port) (r : Port → List Byte) : State :=
  if s.portUp p && (s.port p).dyn != 0 then (s.ack p (r (s.port p))).onPort p f else s.nack p

/-- R447: a broadcast CCC; it has no answer. -/
def State.broadcast (s : State) (p : Nat) (f : Port → Port) : State := if s.portUp p then s.onPort p f else s

/-! ### Addresses and identity (R445, R446) -/

/-- R446: the provisional ID, 6 bytes, most significant first. -/
def provisionalId (p : Nat) : List Byte := beBytes 6 (0x2C5 * 2 ^ 33 + 0x2960 * 2 ^ 16 + p * 2 ^ 12 + stepping)

/-- R445, R447: ENTDAA: a port without a dynamic address takes part with its provisional ID, BCR and DCR, and takes the one assigned. -/
def State.entdaa (s : State) (p : Nat) (addr : BitVec 7) : State :=
  if s.portUp p && (s.port p).dyn == 0 then (s.ack p (provisionalId p ++ [0x26#8, 0x00#8])).onPort p fun P => { P with dyn := addr }
  else s.nack p

/-- R445, R447: SETDASA: a port addressed at its static address takes the dynamic address. -/
def State.setdasa (s : State) (p : Nat) (static addr : BitVec 7) : State :=
  if s.portUp p && static == BitVec.ofNat 7 (0x50 + p) && (s.port p).dyn == 0 then
    (s.ack p []).onPort p fun P => { P with dyn := addr }
  else s.nack p

/-- R447, R543: the two bytes of GETSTATUS, most significant first. -/
def State.statusWord (s : State) (p : Nat) : Nat :=
  let H := s.hall (portHall p)
  let P := s.port p
  min 15 (P.events.filter fun (e : Event) => !e.raised).length + 32 * b2n P.protoErr + 256 * b2n H.image.isSome
    + 512 * b2n (H.stair.mode == .partnerLost) + 1024 * b2n H.err.pin

/-! ### Resets of a port (R447, R493, R595) -/

/-- R447: the port reset: held capsules, responses and IBIs are discarded; rights and the dynamic address stay. -/
def Port.resetPort (P : Port) : Port :=
  { P with
    mwl := 4112, mrl := 4112, ibiSize := 31, hdr := false, protoErr := false, nackNext := false, partialBytes := [], queue := []
    waits := [], resps := [], events := [], armed := [] }

/-- R447, R493: RSTACT action 0x01. -/
def State.portReset (s : State) (p : Nat) : State :=
  if s.portUp p then (s.onPort p Port.resetPort).newChallenge p else s

/-- R447: RSTACT action 0x02: with SAFETY the port's hall resets. -/
def State.rstactHall (s : State) (p : Nat) : State :=
  if s.portUp p && (s.hall (portHall p)).hasRight p 7 then s.resetFor (portHall p) 7 else s.portReset p

/-! ### Private writes (R449 to R455) -/

/-- R455: the budget at timebase tb: one capsule in 50,000 timebase cycles, a burst of 64. -/
def Port.refill (P : Port) (tb : Nat) : Port := { P with budget := min 3200000 (P.budget + (tb - P.budgetTb)), budgetTb := max tb P.budgetTb }

/-- R450: a header that breaks BAD_HEADER. -/
def headerBad (bs : List Byte) : Bool :=
  let op := fld bs 0 1
  let ses := fld bs 8 4
  op == 0 || decide (10 < op) || fld bs 1 1 != 0 || fld bs 6 2 != 0 || bits ses 18 13 != 0 || (bit ses 31 && bits ses 0 18 != 0)
    || fld bs 14 2 != 0

/-- R451: the CRC of a whole capsule. -/
def capsuleCrcOk (bs : List Byte) : Bool :=
  let n := 16 + fld bs 4 2
  fld bs 12 2 == crc16 (bs.take 12 ++ [0, 0] ++ (bs.take n).drop 14)

/-- R450 to R453: what the bytes joined so far come to: none while bytes are missing, else the status of the capsule's first broken rule, or
0. -/
def capsuleStatus (bs : List Byte) : Option Nat :=
  let n := fld bs 4 2
  if bs.length < 16 then none
  else if 4096 < n then some (if headerBad bs then 2 else 3)
  else if bs.length < 16 + n then none
  else if !(capsuleCrcOk bs) then some 1
  else if headerBad bs then some 2
  else if 16 + n < bs.length then some 3
  else some 0

/-- R452, R453: a partial or broken capsule answered. -/
def State.answerBad (s : State) (p status : Nat) (bs : List Byte) : State :=
  (s.onPort p fun P => { P with partialBytes := [] }).respond p (fld bs 0 1) (fld bs 2 2) (fld bs 8 4) status (leBytes 4 0)

/-- R449, R455: one private write. -/
def State.privateWrite (s : State) (p : Nat) (bytes : List Byte) (tb : Nat) : State :=
  if !(s.portUp p) || (s.port p).dyn == 0 then s.nack p
  else if (s.port p).nackNext then s.onPort p fun P => { P with nackNext := false, reply := none }
  else
    let s1 := s.onPort p fun P => P.refill tb
    let P := s1.port p
    if 8 ≤ P.outstanding || P.budget < 50000 then
      (s1.count (portHall p) (1666 + portIdx p) 1).onPort p fun P => { P with reply := none, floods := inc16 P.floods }
    else
      let bs := P.partialBytes ++ bytes
      let s2 := s1.onPort p fun P => { P with reply := some [], partialBytes := bs }
      match capsuleStatus bs with
      | none => s2
      | some st =>
        let s3 := s2.onPort p fun P => { P with budget := P.budget - 50000 }
        if st = 0 then
          s3.onPort p fun P =>
            { P with
              partialBytes := []
              queue := P.queue ++ [{ opcode := fld bs 0 1, tag := fld bs 2 2, session := fld bs 8 4, payload := bs.drop 16 }] }
        else s3.answerBad p st bs

/-- R449: a partial capsule has been idle for 10 ms. -/
def State.capsuleTimeout (s : State) (p : Nat) : State :=
  let bs := (s.port p).partialBytes
  if !(s.portUp p) || bs.isEmpty then s else s.answerBad p 3 bs

/-- R482: a private write with a parity or CRC5 error. -/
def State.parityError (s : State) (p : Nat) (crc5 : Bool) : State :=
  if !(s.portUp p) || (s.port p).dyn == 0 then s.nack p
  else
    (s.onPort p fun P =>
      { P with
        nackNext := true, protoErr := true
        parity := if crc5 then P.parity else inc8 P.parity
        crc := if crc5 then inc8 P.crc else P.crc }).logHst p (4 + 0x10 * portIdx p)

/-! ### Private reads and IBIs (R449, R467, R468) -/

/-- R449: a private read of at most n bytes of the oldest response not fully read. -/
def State.responseRead (s : State) (p n : Nat) : State :=
  let P := s.port p
  if !(s.portUp p) || P.dyn == 0 then s.nack p
  else if P.nackNext then s.onPort p fun P => { P with nackNext := false, reply := none }
  else
    match P.resps with
    | [] => s.nack p
    | r :: rest =>
      let got := (r.bytes.drop r.read).take (min n P.mrl)
      let done := decide (r.bytes.length ≤ r.read + got.length)
      let s1 := if done then s.count (portHall p) (1664 + portIdx p) 1 else s
      s1.onPort p fun P =>
        { P with
          reply := some got
          resps := if done then rest else { r with read := r.read + got.length } :: rest
          answered := if done then inc32 P.answered else P.answered }

/-- R468: the first event not raised yet is marked raised. -/
def raiseFirst : List Event → List Event
  | [] => []
  | e :: r => if e.raised then e :: raiseFirst r else { e with raised := true } :: r

/-- R467, R468: the bus grants an IBI slot: the oldest event held and not raised yet is raised; it stays readable through QUERY EVENTS. -/
def State.ibiSlot (s : State) (p : Nat) : State :=
  let P := s.port p
  match P.events.find? fun (e : Event) => !e.raised with
  | some e =>
    if s.portUp p && P.dyn != 0 && P.enint then
      (s.count (portHall p) 1668 1).onPort p fun P => { P with events := raiseFirst P.events, reply := some (leBytes 1 e.mand ++ e.payload.take P.ibiSize) }
    else s.nack p
  | none => s.nack p

/-! ### Forwarded capsules (R456) -/

/-- R456: 50 ms have passed without the far steward's answer. -/
def State.forwardTimeout (s : State) (p tag : Nat) : State := if p < 4 then s.endForwarded p tag 0xC (leBytes 4 0) else s

end Sys2Proof.Machine
end

