-- ==== Sys2Proof/Machine/Feeds.lean ====
section
/-! DEFINITION. Host feeds and the transmit ports' configuration (14, R469 to R473, R480 to R482). -/

namespace Sys2Proof.Machine

/-! ### The feed of a packet -/

/-- R442: the HOST_FEED entry of a receive port and virtual channel in hall h: its ID and body. -/
def Image.feedOn (im : Image) (h port vc : Nat) : Option (Nat × HostFeedBody) :=
  im.sensors.findSome? fun (e : SensorEntry) =>
    match e.body with
    | .hostFeed b => if e.hall = h && b.port = port && b.vc = vc then some (e.id, b) else none
    | _ => none

/-- R483: HST_FEED_ERR: 0 BAD_KIND, 1 SEQ_GAP, 2 MODEL_FAIL, 3 RING_FULL count one more. -/
def Hall.feedCount (H : Hall) (i : Nat) : Hall := { H with feedErr := modAt H.feedErr i inc8 }

/-- R481: a feed fault counted and logged. -/
def Hall.feedFault (H : Hall) (i : Nat) : Hall := (H.feedCount i).logOther 1 0 0x100

/-- R419: a packet of a port outside a frame. -/
def Hall.orphan (H : Hall) (port : Nat) : Hall :=
  ({ H with cam := { H.cam with ports := modAt H.cam.ports port fun (P : RxPort) => { P with orphan := inc16 P.orphan } } }).logOther 0xA port
    (8 + 0x20 * port)

/-- R419, R469: a feed's packet with a payload CRC error is discarded. -/
def Hall.feedCrc (H : Hall) (port : Nat) : Hall :=
  ({ H with cam := { H.cam with ports := modAt H.cam.ports port fun (P : RxPort) => { P with crc := inc16 P.crc } } }).logOther 0xA port
    (4 + 0x20 * port)

/-- R470: the object of a kind and channel on a feed. -/
def Hall.feedObj (H : Hall) (port vc kind chan : Nat) : Option FeedObj :=
  H.feeds.find? fun (f : FeedObj) => f.port == port && f.vc == vc && f.kind == kind && f.channel == chan

/-- A hall without that object. -/
def Hall.dropObj (H : Hall) (port vc kind chan : Nat) : Hall :=
  { H with feeds := H.feeds.filter fun (f : FeedObj) => !(f.port == port && f.vc == vc && f.kind == kind && f.channel == chan) }

/-! ### TOTAL and the checks of R470 -/

/-- R469, R471: an object's TOTAL where it is known: IMAGE_LEN, the LOADMODEL's TOTAL, or for DATA the length at LAST. -/
def feedTotal (kind : Nat) (load : Option Load) (bs : List Byte) (last : Bool) : Option Nat :=
  match kind with
  | 1 => if 12 ≤ bs.length then some (fld bs 8 4) else none
  | 2 => load.map (·.total)
  | _ => if last then some bs.length else none

/-- R469, R470: a record fits its object: RSEQ, OFFSET, LEN, the word count, TOTAL_KB and TOTAL. -/
def feedOk (o : FeedObj) (load : Option Load) (r : FeedRecord) : Bool :=
  let last := bit r.rflags 1
  let bs := o.bytes ++ r.data
  r.rseq == o.rseq && r.offset == o.bytes.length && decide (1 ≤ r.len) && decide (r.len ≤ 16384) && r.wordCount == 16 + r.len
    && r.data.length == r.len && decide (bs.length ≤ 1024 * r.totalKb)
    && match feedTotal o.kind load bs last with
      | some n => cdiv n 1024 == r.totalKb && decide (bs.length ≤ n) && (!last || bs.length == n)
      | none => !last

/-! ### Objects abandoned and delivered -/

/-- R470, R471: an object abandoned: an IMAGE leaves STAGED NONE, a MODEL ends its LOADMODEL with FEED. -/
def State.feedAbandon (s : State) (h : HallId) (o : FeedObj) (load : Option Load) : State :=
  let s1 := s.onHall h fun H => ((H.dropObj o.port o.vc o.kind o.channel).count 1670 1).feedFault 1
  if o.kind = 1 then s1.onHall h fun H => if H.dev.staged = 1 then { H with dev := { H.dev with staged := 0 } } else H
  else
    match load with
    | some l =>
      if o.kind = 2 then (s1.onHall h fun H => H.feedCount 2).abandonLoad h l 0xE (leBytes 4 (Config.feedDetail 1).toNat) else s1
    | none => s1

/-- R472: a DATA object delivered to its ring, or dropped. -/
def Hall.feedDeliver (H : Hall) (h id chan : Nat) (bs : List Byte) : Hall :=
  match H.rings.find? fun (r : FeedRing) => r.feedId == id && r.channel == chan with
  | none => H.feedFault 3
  | some r =>
    if r.blocks ≤ H.cell r.cell || r.blockBytes - 64 < bs.length || (H.gal r.gallery).st == .off then H.feedFault 3
    else
      let hd := leBytes 4 bs.length ++ leBytes 2 chan ++ leBytes 2 0 ++ leBytes 4 H.swp.sweep ++ leBytes 2 H.swp.tick ++ List.replicate 50 0
      let at' := r.addr + r.n % r.blocks * r.blockBytes
      let H1 := H.writeAt (.gal r.gallery) at' (hd ++ bs)
      let H2 := { H1 with rings := H1.rings.map fun (x : FeedRing) =>
        if x.feedId = r.feedId && x.channel = r.channel then { x with n := x.n + 1 } else x }
      ((H2.count 1669 1).signal h r.cell 1).after h

/-- R471: an object that has ended with LAST at TOTAL. -/
def State.feedDone (s : State) (h : HallId) (id : Nat) (o : FeedObj) (load : Option Load) : State :=
  let s1 := s.onHall h fun H => H.dropObj o.port o.vc o.kind o.channel
  match o.kind with
  | 1 =>
    let s1 := s1.count h 1669 1
    if (s.hall h).image.isNone then s1.takeImage h 3 o.bytes else s1.stageImage h o.bytes false
  | 2 =>
    match load with
    | some l => (s1.count h 1669 1).onHall h fun H => { H with sec := { H.sec with
        loads := H.sec.loads.map fun (x : Load) => if x = l then { x with bytes := o.bytes, complete := true } else x } }
    | none => s1
  | _ => s1.onHall h fun H => H.feedDeliver h.idx id o.channel o.bytes

/-! ### A record (R469 to R472, R482) -/

/-- R470: a record taken into its object. -/
def State.feedTake (s : State) (h : HallId) (id port vc : Nat) (r : FeedRecord) (load : Option Load) : State :=
  let old := (s.hall h).feedObj port vc r.kind r.channel
  let first := bit r.rflags 0
  let s1 := match old with
    | some _ => if first then s.onHall h fun H => ((H.dropObj port vc r.kind r.channel).count 1670 1).feedFault 1 else s
    | none => s
  let base : Option FeedObj := if first then some ⟨port, vc, r.kind, r.channel, 0, []⟩ else old
  match base with
  | none => s1
  | some o =>
    if !(feedOk o load r) then s1.feedAbandon h o load
    else
      let o' := { o with rseq := o.rseq + 1, bytes := o.bytes ++ r.data }
      let s2 := s1.onHall h fun H =>
        let H1 := H.dropObj port vc r.kind r.channel
        let H2 := { H1 with feeds := H1.feeds ++ [o'] }
        if r.kind = 1 && first && H2.image.isSome then
          { H2 with dev := { H2.dev with staged := 1, stagedImg := none, farVerified := none } }
        else H2
      if bit r.rflags 1 then s2.feedDone h id o' load else s2

/-- R469 to R472, R482, R85: a host-feed record on a receive port of hall h. -/
def State.feedRecord (s : State) (h : HallId) (port vc : Nat) (r : FeedRecord) : State :=
  let H := s.hall h
  let isOpen := match H.cam.ports[port]? with | some (P : RxPort) => P.feedOpen.contains vc | none => false
  let up := H.dev.up && H.pwr.hall == .on
  match H.image with
  | none =>
    if !(up && h == .a && port == 0 && vc == 0 && s.bootFeedOpen) then s
    else if !isOpen then s.onHall h fun H => H.orphan port
    else if r.kind ≠ 1 || r.channel ≠ 0 then s.onHall h fun H => H.feedFault 0
    else s.feedTake h 0 port vc r none
  | some im =>
    match im.feedOn h.idx port vc with
    | none => s
    | some (id, b) =>
      let load := H.sec.loads.find? fun (l : Load) => l.source == 0 && l.feedId == id && l.channel == r.channel && !l.complete
      let badKind := r.kind == 0 || decide (3 < r.kind) || !(bit b.kinds (r.kind - 1))
        || (r.kind == 1 && (r.channel != 0 || !(H.hasRight b.host 8) || !(H.hasRight b.host 6))) || (r.kind == 2 && load.isNone)
      if !up then s
      else if !isOpen then s.onHall h fun H => H.orphan port
      else if badKind then s.onHall h fun H => H.feedFault 0
      else if r.kind = 1 && H.dev.staged = 3 then
        if bit r.rflags 0 then s.recordRefusal h (0x21, 0, 0xFFFF) else s
      else s.feedTake h id port vc r load

/-! ### Transmit ports (R473, R479, R480) -/

/-- R473: LANES and RATE_MBPS lie in the range of the PHY that CPHY selects. -/
def txRange (w : Word) : Bool :=
  let lanes := bits w.toNat 26 3
  let rate := bits w.toNat 0 13
  if w.getLsbD 30 then decide (1 ≤ lanes) && decide (lanes ≤ 3) && decide (80 ≤ rate) && decide (rate ≤ 3500)
  else (lanes == 1 || lanes == 2 || lanes == 4) && decide (80 ≤ rate) && decide (rate ≤ 4500)

/-- R460: a bound class-0 stream uses the transmit port. -/
def Hall.txClass0 (H : Hall) (t : Nat) : Bool :=
  H.streams.any fun (x : TxStream) => x.tx == t && match H.partEntry x.part with | some q => bit q.classes 0 | none => false

/-- R473: a write of CSI_TX_CFG_t, ignored and logged where it would break R480 for a bound class-0 stream or would enable the port outside
its ranges; it takes effect once no frame is open. -/
def Hall.txConfigure (H : Hall) (h t : Nat) (w : Word) : Hall :=
  let v := w &&& 0xFCFF1FFF#32
  if (H.txClass0 t && !(txFast v)) || (txEnable v && !(txRange v)) then H.logOther 0xB t (0x10 * t)
  else (H.onTx t fun (P : TxPort) => { P with cfg := v }).txStart h t

/-- R477, R479: a packet has left transmit port t; RING streams on the port whose queues have room again take blocks. -/
def Hall.txEnd (H : Hall) (h t : Nat) : Hall :=
  let H1 := H.txPacketEnd h t
  let rings := H1.streams.filter fun (x : TxStream) => x.tx == t && x.mayTake
  (rings.foldl (fun (H : Hall) x => H.wake wakeFuel h x.cell) H1).after h

end Sys2Proof.Machine
end

