-- ==== Sys2Proof/Machine/Isp.lean ====
section
/-! DEFINITION. The ISP's arithmetic (13, R428 to R434): the stages over a frame's lines, the output formats, the frame header and the
statistics buffer. -/

namespace Sys2Proof.Machine

/-- R429: a quotient rounded to nearest, ties to even. -/
def divEven (n : Int) (d : Nat) : Int :=
  let q := n / (d : Int)
  let r := n % (d : Int)
  if 2 * r > d || (2 * r = d && q % 2 = 1) then q + 1 else q

/-- A value held between 0 and 2^b - 1. -/
def clampBits (b : Nat) (v : Int) : Nat := min v.toNat (2 ^ b - 1)

/-- A pixel of a frame. -/
def pixel (rows : List (List Nat)) (y x : Nat) : Option Nat := (rows[y]?).bind fun r => r[x]?

/-- A pixel at an offset of a site; none outside the frame. -/
def pixelAt (rows : List (List Nat)) (y x : Nat) (dy dx : Int) : Option Nat :=
  let yy := (y : Int) + dy
  let xx := (x : Int) + dx
  if yy < 0 || xx < 0 then none else pixel rows yy.toNat xx.toNat

/-- Every pixel mapped with its place. -/
def mapPixels (rows : List (List Nat)) (f : Nat → Nat → Nat → Nat) : List (List Nat) :=
  rows.mapIdx fun y r => r.mapIdx fun x v => f y x v

/-! ### Colours (R428) -/

/-- R428: the pattern's side. -/
def mosaicSize (code : Nat) : Nat := if code = 0 then 1 else if code = 4 then 4 else 2

/-- R428: the pattern at phase 0 in raster order, as colour indices R 0, G or C 1, B 2, IR 3. -/
def mosaicCells : Nat → List Nat
  | 0 => [1]
  | 1 => [0, 1, 1, 2]
  | 2 => [0, 1, 1, 2]
  | 3 => [0, 1, 1, 1]
  | _ => [2, 1, 0, 1, 1, 3, 1, 3, 0, 1, 2, 1, 1, 3, 1, 3]

/-- R428: pattern row and column of a site. -/
def mosaicPlace (m y x : Nat) : Nat × Nat :=
  let n := mosaicSize (m % 16)
  let p := m / 16
  ((p / n + y) % n, (p % n + x) % n)

/-- R428: the colour index of a site. -/
def colour (m y x : Nat) : Nat :=
  let q := mosaicPlace m y x
  ((mosaicCells (m % 16))[q.1 * mosaicSize (m % 16) + q.2]?).getD 1

/-- R428: how many planes a mosaic gives: C; R, G or C, B; C, R; R, G, B, IR. -/
def planeCount : Nat → Nat
  | 0 => 1
  | 3 => 2
  | 4 => 4
  | _ => 3

/-! ### The parameter set (R430) -/

/-- R430: the default set; CSC is BT.709's full range. -/
def defaultSet : List Byte :=
  let wb := (List.replicate 4 (leBytes 2 0x1000)).flatten
  let ccm := ([0x1000, 0, 0, 0, 0x1000, 0, 0, 0, 0x1000] : List Nat).flatMap (leBytes 2)
  let csc := ([3483, 11718, 1183, -1877, -6315, 8192, 8192, -7441, -751] : List Int).flatMap fun (v : Int) => leBytes 2 (sbits 16 v)
  let off := (List.range 3).flatMap fun i => leBytes 2 (Config.cscOff i).toNat
  fit (leBytes 2 1 ++ List.replicate 0x12E 0 ++ wb ++ List.replicate 8 0 ++ ccm ++ List.replicate 14 0 ++ csc ++ List.replicate 2 0 ++ off) 8192

/-- R430: bit i of ENABLE. -/
def enabled (p : List Byte) (i : Nat) : Bool := bit (fld p 2 2) i

/-- A signed field of n bytes. -/
def sfld (p : List Byte) (off n : Nat) : Int := sint (8 * n) (fld p off n)

/-! ### Stages 1 to 6 (R429) -/

/-- R430: knee i of the decompanding map. -/
def knee (p : List Byte) (i : Nat) : Nat × Nat := (fld p (0x10 + 8 * i) 4, fld p (0x14 + 8 * i) 4)

/-- R429 stage 1. A code below X_0 gives Y_0. -/
def decompand (p : List Byte) (b v : Nat) : Nat :=
  if !(enabled p 0) then min v (2 ^ b - 1)
  else
    match (List.range 32).find? fun i => decide (v < (knee p (i + 1)).1) with
    | none => min (knee p 32).2 (2 ^ b - 1)
    | some i =>
      let k := knee p i
      let l := knee p (i + 1)
      if v ≤ k.1 then clampBits b k.2
      else clampBits b (divEven ((k.2 : Int) * (l.1 - k.1 : Nat) + ((l.2 : Int) - k.2) * (v - k.1 : Nat)) (l.1 - k.1))

/-- R429 stage 2. -/
def blackLevel (p : List Byte) (c v : Nat) : Nat := v - fld p (0x120 + 4 * c) 4

/-- R429 stage 3: the 8 nearest neighbours of a site's colour within the lines that count. -/
def nearSame (m : Nat) (rows : List (List Nat)) (y x : Nat) : List Nat :=
  let offs := (List.range 9).flatMap fun (i : Nat) => (List.range 9).map fun (j : Nat) => (((i : Int) - 4), ((j : Int) - 4))
  let near := offs.filterMap fun (o : Int × Int) =>
    if o = (0, 0) then none else
    match pixelAt rows y x o.1 o.2 with
    | none => none
    | some v =>
      if colour m ((y : Int) + o.1).toNat ((x : Int) + o.2).toNat = colour m y x then some ((o.1 * o.1 + o.2 * o.2).toNat, v) else none
  ((sortKeys near).map (·.2)).take 8

/-- R429 stage 3. -/
def defect (p : List Byte) (m : Nat) (rows : List (List Nat)) : List (List Nat) :=
  if !(enabled p 1) then rows
  else
    let t := fld p 4 4
    mapPixels rows fun y x v =>
      match nearSame m rows y x with
      | [] => v
      | n :: ns =>
        let hi := ns.foldl max n
        let lo := ns.foldl min n
        if hi + t < v then hi else if v + t < lo then lo else v

/-- R430: shading node (i, j) of colour c. -/
def shadeNode (p : List Byte) (c i j : Nat) : Nat := fld p (0x200 + 2 * (289 * c + 17 * i + j)) 2

/-- R429 stage 4: the gain of a site, times 2^14 x WIDTH x HEIGHT. -/
def shadeGain (p : List Byte) (w h c y x : Nat) : Nat :=
  let i := 16 * y / h
  let j := 16 * x / w
  let fy := 16 * y % h
  let fx := 16 * x % w
  shadeNode p c i j * (h - fy) * (w - fx) + shadeNode p c i (j + 1) * (h - fy) * fx + shadeNode p c (i + 1) j * fy * (w - fx)
    + shadeNode p c (i + 1) (j + 1) * fy * fx

/-- R429 stages 1 to 5 on a frame's lines. -/
def stage5 (p : List Byte) (b m w h : Nat) (rows : List (List Nat)) : List (List Nat) :=
  let r2 := mapPixels rows fun y x v => blackLevel p (colour m y x) (decompand p b v)
  let r3 := defect p m r2
  let r4 := if enabled p 2 then
      mapPixels r3 fun y x v => clampBits b (divEven ((v * shadeGain p w h (colour m y x) y x : Nat) : Int) (2 ^ 14 * w * h))
    else r3
  mapPixels r4 fun y x v => clampBits b (divEven ((v * fld p (0x130 + 2 * colour m y x) 2 : Nat) : Int) 4096)

/-- R429 stage 6: the IR plane at a site, the mean of the nearest IR sites of its row, its column or its four corners. -/
def irAt (m : Nat) (rows : List (List Nat)) (y x : Nat) : Nat :=
  let q := mosaicPlace m y x
  let offs : List (Int × Int) :=
    if q.1 % 2 = 1 && q.2 % 2 = 1 then [(0, 0)] else if q.1 % 2 = 1 then [(0, -1), (0, 1)] else if q.2 % 2 = 1 then [(-1, 0), (1, 0)]
    else [(-1, -1), (-1, 1), (1, -1), (1, 1)]
  let vs := offs.filterMap fun (o : Int × Int) => pixelAt rows y x o.1 o.2
  if vs.isEmpty then 0 else (divEven ((vs.foldl (· + ·) 0 : Nat) : Int) vs.length).toNat

/-- R429 stage 6. -/
def irRemove (p : List Byte) (m : Nat) (rows : List (List Nat)) : List (List Nat) :=
  if m % 16 ≠ 4 || !(enabled p 3) then rows
  else mapPixels rows fun y x v =>
    let c := colour m y x
    if c = 3 then v else v - (divEven ((fld p (0x138 + 2 * c) 2 * irAt m rows y x : Nat) : Int) 32768).toNat

/-! ### Stages 7 to 11: a site's planes -/

/-- R429 stage 7: the planes of a site. -/
def planesAt (n m : Nat) (b : Nat) (rows : List (List Nat)) (y x : Nat) : List Nat :=
  let near := (List.range 5).flatMap fun (i : Nat) => (List.range 5).map fun (j : Nat) => pixelAt rows y x ((i : Int) - 2) ((j : Int) - 2)
  let q := mosaicPlace m y x
  (List.range (planeCount (m % 16))).map fun k =>
    if m % 16 = 0 then (pixel rows y x).getD 0 else Config.demosaic n k q.1 q.2 near % 2 ^ b

/-- R429 stage 8, with a matrix at `off` of fraction `q` and an offset of `on` bytes each at `ob`. -/
def matrix3 (p : List Byte) (off q ob on b : Nat) (v : List Nat) : List Nat :=
  (List.range 3).map fun i =>
    let sum := (List.range 3).foldl (fun (a : Int) j => a + sfld p (off + 2 * (3 * i + j)) 2 * ((v[j]?).getD 0 : Nat)) 0
    clampBits b (divEven sum (2 ^ q) + sfld p (ob + on * i) on)

/-- R429 stage 8. -/
def stage8 (p : List Byte) (m b : Nat) (v : List Nat) : List Nat :=
  if m % 16 = 1 || m % 16 = 2 then matrix3 p 0x140 12 0x154 4 b v else v

/-- The base-2 logarithm of a number of at least 1, with k fraction bits: the fraction by repeated squaring of a 60-bit mantissa. -/
def log2Fixed (v k : Nat) : Nat :=
  let e := Nat.log2 v
  let m := v * 2 ^ 60 / 2 ^ e
  let r := (List.range k).foldl (fun (a : Nat × Nat) _ =>
    let s := a.1 * a.1 / 2 ^ 60
    if 2 ^ 61 ≤ s then (s / 2, 2 * a.2 + 1) else (s, 2 * a.2)) (m, 0)
  e * 2 ^ k + r.2

/-- R429 stages 9 and 10: linear interpolation at p = num / den in the 257 codes at `off`. -/
def curve (p : List Byte) (off num den : Nat) : Nat :=
  let i := min (num / den) 256
  let f := num - i * den
  let a := fld p (off + 2 * i) 2
  if 256 ≤ i then a else clampBits 16 (divEven ((a : Int) * den + ((fld p (off + 2 * (i + 1)) 2 : Int) - a) * f) den)

/-- R429 stage 9. -/
def tone (n : Nat) (p : List Byte) (b v : Nat) : Nat :=
  if enabled p 4 then
    clampBits 16 ((curve p 0xC00 (256 * log2Fixed (1 + v) 40) (b * 2 ^ 40) : Int) + ((Config.toneError n v % 3 : Nat) : Int) - 1)
  else if b ≤ 16 then v * 2 ^ (16 - b) else v / 2 ^ (b - 16)

/-- R429 stage 10. -/
def encodeTone (p : List Byte) (v : Nat) : Nat := if enabled p 5 then curve p 0x1000 v 256 else v

/-- R429 stages 9 and 10 on the planes of stage 8. -/
def stage10 (n : Nat) (p : List Byte) (b : Nat) (v : List Nat) : List Nat := v.map fun x => encodeTone p (tone n p b x)

/-- R429 stage 11: Y, U and V; a MONO sensor's one plane stands for R, G and B. -/
def stage11 (p : List Byte) (v : List Nat) : List Nat :=
  matrix3 p 0x160 14 0x174 2 16 (match v with | [c] => [c, c, c] | _ => v)

/-- R431: the values of a site that an output of format f carries, one for each channel, before stage 12. -/
def formatAt (n : Nat) (p : List Byte) (b m f : Nat) (r5 r6 : List (List Nat)) (y x : Nat) : List Nat :=
  let pl := planesAt n m b r6 y x
  let s8 := stage8 p m b pl
  match f with
  | 1 => [(pixel r5 y x).getD 0]
  | 3 => s8.take 3
  | 4 => (stage11 p (stage10 n p b s8)).take 1
  | 5 => stage11 p (stage10 n p b s8)
  | 2 => (stage10 n p b s8).take 3
  | _ => stage10 n p b s8

/-! ### Stage 12 and the formats -/

/-- R429 stage 12: channel k of output place (row, col) of an output scaled to h x w: the value itself where the crop is not scaled, else the
polyphase filter's. `at'` gives a site's channels. -/
def scaleAt (n : Nat) (o : PipeOut) (k h w row col : Nat) (at' : Nat → Nat → List Nat) : Nat :=
  let value := fun (y x : Nat) => ((at' (o.cropY + y) (o.cropX + x))[k]?).getD 0
  if h = o.cropH && w = o.cropW then value row col
  else
    let y0 := row * o.cropH / h
    let x0 := col * o.cropW / w
    let near := (List.range 4).flatMap fun i => (List.range 4).map fun j =>
      if y0 + i = 0 || x0 + j = 0 || o.cropH < y0 + i || o.cropW < x0 + j then none else some (value (y0 + i - 1) (x0 + j - 1))
    Config.scaled n k [o.cropH, h, o.cropW, w] row col near

/-- The INT8 code of an 8-bit code (R431). -/
def int8Code (v : Nat) : Byte := BitVec.ofNat 8 (v % 256 + 128)

/-- R431: the bytes of a channel's value. -/
def formatBytes (f b v : Nat) : List Byte :=
  match f with
  | 1 => leBytes 2 (if b ≤ 16 then v % 2 ^ b * 2 ^ (16 - b) else v % 2 ^ b / 2 ^ (b - 16))
  | 3 => leBytes 2 (toFloat fmtFP16 false (.fin false (v % 2 ^ b) (-(b : Int)))).1
  | 5 => [BitVec.ofNat 8 (v % 65536 / 256)]
  | _ => [int8Code (v % 65536 / 256)]

/-- R431: the channels of a format; of NV12 those of its first plane. -/
def formatChannels (f m : Nat) : Nat :=
  match f with
  | 1 | 4 | 5 => 1
  | 6 => 2
  | 7 => 4
  | 2 | 3 => 3
  | _ => planeCount (m % 16)

/-- R431, R252: row `row` of an output's image. -/
def outRow (n : Nat) (b m : Nat) (o : PipeOut) (row : Nat) (at' : Nat → Nat → List Nat) : List Byte :=
  (List.range o.outW).flatMap fun col => (List.range (formatChannels o.fmt m)).flatMap fun k =>
    formatBytes o.fmt b (scaleAt n o k o.outH o.outW row col at')

/-- R431: row `row` of NV12's plane of U and V, at half the size in each direction. -/
def uvRow (n : Nat) (b : Nat) (o : PipeOut) (row : Nat) (at' : Nat → Nat → List Nat) : List Byte :=
  (List.range (o.outW / 2)).flatMap fun col => ([1, 2] : List Nat).flatMap fun k =>
    formatBytes 5 b (scaleAt n o k (o.outH / 2) (o.outW / 2) row col at')

/-- Output rows whose source rows, with the lines below that the stages look at, lie above line `lim` and the four after it; every row once the frame is whole. -/
def rowDone (o : PipeOut) (h lim : Nat) (whole : Bool) (row : Nat) : Bool := whole || decide (o.cropY + row * o.cropH / h + 4 < lim)

/-- R433: the rows that a piece completes, with their place in the image: those that line `lim` completes and line `old` did not. -/
def pieceRows (n b m : Nat) (o : PipeOut) (old lim : Nat) (whole : Bool) (at' : Nat → Nat → List Nat) : List (Nat × List Byte) :=
  let fresh := fun (h row : Nat) => rowDone o h lim whole row && !(rowDone o h old false row)
  let main := (List.range o.outH).filterMap fun row => if fresh o.outH row then some (row * o.rowStride * 64, outRow n b m o row at') else none
  let uv := if o.fmt = 5 then
      (List.range (o.outH / 2)).filterMap fun row =>
        if fresh (o.outH / 2) row then some ((o.outH + row) * o.rowStride * 64, uvRow n b o row at') else none
    else []
  main ++ uv

/-- R431: the image bytes of an output: where R432's embedded data begin. -/
def imageBytes (o : PipeOut) : Nat := (o.outH + if o.fmt = 5 then o.outH / 2 else 0) * o.rowStride * 64

/-! ### The header and the statistics -/

/-- R432: the header of a frame. -/
def RxFrame.header (f : RxFrame) (camera doneSweep doneTick lanes : Nat) : List Byte :=
  leBytes 4 f.frame ++ leBytes 4 f.setSeq ++ leBytes 4 f.flags ++ leBytes 4 f.fsSweep ++ leBytes 2 f.fsTick ++ leBytes 2 camera
    ++ leBytes 4 doneSweep ++ leBytes 2 doneTick ++ leBytes 1 lanes ++ List.replicate 37 0

/-- The sum of the colour-c sites of zone (i, j) after stage 5. -/
def zoneValue (m w h c i j : Nat) (r5 : List (List Nat)) : Nat :=
  (r5.mapIdx fun y r => (r.mapIdx fun x v =>
    if y * 16 / h = i && x * 16 / w = j && colour m y x = c then v else 0).foldl (· + ·) 0).foldl (· + ·) 0

/-- R434: a frame's statistics buffer. -/
def statsBuffer (f : RxFrame) (n : Nat) (p : List Byte) (b m w h : Nat) (r5 r6 : List (List Nat)) : List Byte :=
  let lumas := r6.mapIdx fun y r => r.mapIdx fun x _ => Config.luma (stage10 n p b (stage8 p m b (planesAt n m b r6 y x))) % 65536 / 256
  let hist := (List.range 256).flatMap fun k => leBytes 4 (lumas.flatten.filter (· == k)).length
  let zones := (List.range 16).flatMap fun i => (List.range 16).flatMap fun j => (List.range 4).flatMap fun c =>
    let v := zoneValue m w h c i j r5
    leBytes 4 (if v < 2 ^ 32 then v else (Config.zoneSum v).toNat)
  leBytes 4 f.frame ++ List.replicate 60 0 ++ hist ++ zones

end Sys2Proof.Machine
end

