-- ==== Sys2Proof/Machine/Cameras.lean ====
section
/-! DEFINITION. Camera ingest and the ISP's work (13, R411 to R441): frames, lines, faults, lane degradation, pieces and delivery, sensor
buses. -/

namespace Sys2Proof.Machine

/-! ### Ports and cameras -/

/-- A receive port. -/
def Hall.rx (H : Hall) (p : Nat) : RxPort := (H.cam.ports[p]?).getD RxPort.reset

/-- A hall with a receive port changed. -/
def Hall.onRx (H : Hall) (p : Nat) (f : RxPort → RxPort) : Hall := { H with cam := { H.cam with ports := modAt H.cam.ports p f } }

/-- R419: an entry of the event log for a CSI_RX register of a port. -/
def Hall.rxLog (H : Hall) (port off : Nat) : Hall := H.logOther 0xA port (off + 0x20 * port)

/-- R426: the hall's ports and ISP run. -/
def State.camerasOn (s : State) (h : HallId) : Bool := !s.por && (s.hall h).dev.up && (s.hall h).pwr.hall == .on

/-- The cameras of an image on a receive port of hall h: ID, CAMERA body and PIPE body. -/
def Hall.camsOnPort (H : Hall) (h port : Nat) : List (Nat × CameraBody × PipeBody) :=
  H.cam.cameras.filterMap fun (c : Camera) =>
    match H.camEntry h c.id with
    | some (b, p) => if b.port = port then some (c.id, b, p) else none
    | none => none

/-- Those on one of its virtual channels. -/
def Hall.camsOn (H : Hall) (h port vc : Nat) : List (Nat × CameraBody × PipeBody) :=
  (H.camsOnPort h port).filter fun (e : Nat × CameraBody × PipeBody) => e.2.1.vc == vc

/-- R85, R442: the data type of the host feed on a virtual channel: one that the image declares, or 0x37 of the boot feed before an image. -/
def Hall.feedDt (H : Hall) (h port vc : Nat) : Option Nat :=
  match H.image with
  | some im => (im.feedOn h port vc).map fun f => f.2.dt
  | none => if h = 0 && port = 0 && vc = 0 then some 0x37 else none

/-- R413: a virtual channel that an entry declares on the port, or the boot feed's. -/
def Hall.vcDeclared (H : Hall) (h port vc : Nat) : Bool := !(H.camsOn h port vc).isEmpty || (H.feedDt h port vc).isSome

/-- R413: a data type that an entry declares on the virtual channel, or the boot feed's. -/
def Hall.dtDeclared (H : Hall) (h port vc dt : Nat) : Bool :=
  ((H.camsOn h port vc).any fun (e : Nat × CameraBody × PipeBody) => e.2.1.dt == dt || (e.2.1.embDt == dt && dt != 0))
    || H.feedDt h port vc == some dt

/-- R444: ACTIVE follows a packet of a declared virtual channel. -/
def Hall.rxActive (H : Hall) (h port vc : Nat) : Hall :=
  if H.vcDeclared h port vc then H.onRx port fun (P : RxPort) => { P with active := true, activeTb := H.swp.clk.1 } else H

/-- A hall with a camera's open frame changed. -/
def Hall.onOpen (H : Hall) (id : Nat) (f : RxFrame → RxFrame) : Hall :=
  H.onCamera id fun (c : Camera) => { c with cur := c.cur.map f }

/-- R419: fault `i` of a camera's frame: its FLAGS bit (below 16), and an entry of the event log at its first occurrence in the frame. -/
def Hall.frameFault (H : Hall) (port id i off : Nat) : Hall :=
  match H.openFrame id with
  | none => H.rxLog port off
  | some f =>
    let H1 := H.onOpen id fun (f : RxFrame) => { f with flags := if i < 16 then f.flags ||| 2 ^ i else f.flags, logged := f.logged ||| 2 ^ i }
    if bit f.logged i then H1 else H1.rxLog port off

/-- R419: a fault of every open frame of a virtual channel. -/
def Hall.vcFault (H : Hall) (h port vc i off : Nat) : Hall :=
  match (H.camsOn h port vc).filter fun (e : Nat × CameraBody × PipeBody) => (H.openFrame e.1).isSome with
  | [] => H.rxLog port off
  | es => es.foldl (fun (H : Hall) e => H.frameFault port e.1 i off) H

/-- R419: a packet of a data type or virtual channel that no entry declares. -/
def Hall.undeclared (H : Hall) (h port vc : Nat) : Hall :=
  if H.vcDeclared h port vc then (H.onRx port fun (P : RxPort) => { P with unknownDt := inc8 P.unknownDt }).vcFault h port vc 17 8
  else (H.onRx port fun (P : RxPort) => { P with badVc := inc8 P.badVc }).rxLog port 8

/-! ### Lanes (R421, R422) -/

/-- R422: the physical lanes in use on a port. -/
def Hall.lanesInUse (H : Hall) (h port : Nat) : List Nat :=
  match H.image.bind fun im => im.sensors.findSome? fun (e : SensorEntry) =>
      if e.hall ≠ h then none
      else match e.body with
        | .camera b => if b.port = port then some (b.lanes, b.laneMap) else none
        | .hostFeed b => if b.port = port then some (b.lanes, b.laneMap) else none
        | _ => none with
  | none => []
  | some (n, m) =>
    let P := H.rx port
    (((List.range n).map fun l => bits m (2 * l) 2).filter fun k => !(P.laneBad.getLsbD k)).take P.width

/-- R421: a lane is bad; a port with degrade records narrows at the next frame close. -/
def Hall.laneBad (H : Hall) (h port k : Nat) : Hall :=
  if (H.rx port).laneBad.getLsbD k then H
  else
    let due := (H.lanesInUse h port).contains k
      && (H.camsOnPort h port).any fun (e : Nat × CameraBody × PipeBody) => e.2.1.degradeAddr != 0xFFFFFFFF
    H.onRx port fun (P : RxPort) =>
      { P with laneBad := P.laneBad ||| BitVec.ofNat 4 (2 ^ k), narrowDue := P.narrowDue || due }

/-- R421: lanes with 16 sync errors in this frame and in the one before. -/
def Hall.judgeSot (H : Hall) (h port : Nat) : Hall :=
  (List.range 4).foldl (fun (H : Hall) k =>
    let P := H.rx port
    if 16 ≤ P.sotCur.getD k 0 && 16 ≤ P.sotPrev.getD k 0 then H.laneBad h port k else H) H

/-- R421: lanes without a burst in a frame in which another lane in use had one. -/
def Hall.judgeBursts (H : Hall) (h port : Nat) (bursts : BitVec 4) : Hall :=
  let use := H.lanesInUse h port
  use.foldl (fun (H : Hall) k =>
    if !(bursts.getLsbD k) && use.any fun j => bursts.getLsbD j then H.laneBad h port k else H) H

/-- R421: a frame of the port has ended. -/
def Hall.nextSot (H : Hall) (port : Nat) : Hall :=
  H.onRx port fun (P : RxPort) => { P with sotPrev := P.sotCur, sotCur := [0, 0, 0, 0] }

/-- R422: the next narrower width. -/
def narrower (cphy : Bool) (w : Nat) : Nat := if w = 4 || (w = 3 && cphy) then 2 else if w = 2 then 1 else 0

/-- R422 step 2: a camera's degrade record, sent as an immediate settings record. -/
def Hall.sendDegrade (H : Hall) (h n : Nat) (e : Nat × CameraBody × PipeBody) : Hall :=
  let b := e.2.1
  if b.degradeAddr = 0xFFFFFFFF then H
  else
    let st := (H.gal b.setGallery).store
    let bs := st.read (b.degradeAddr + 64 * n) 64
    let pa := fld bs 8 4
    let hasParam := decide (pa ≠ 0xFFFFFFFF)
    if !(recOk bs) || (hasParam && !(H.galOk b.part b.setGallery pa 8192)) then H.snsCount e.2.2.ctx 1
    else
      let ws := if b.ctrl > 1 || H.cam.failedCams.contains e.1 then [] else recWrites bs
      let r : SetRec :=
        { seq := fld bs 0 4, writes := ws, left := ws.length, retried := false, begun := ws.isEmpty, sent := ws.isEmpty,
          target := none, failed := false, hasParam := hasParam, degrade := true }
      let H1 := H.onCamera e.1 fun (c : Camera) => { c with recs := c.recs ++ [r] }
      let H2 := if hasParam then H1.onIsp e.2.2.ctx fun (x : IspCtx) => { x with shadow := some (st.read pa 8192), shadowOk := false } else H1
      (if ws.isEmpty then H2.snsCount e.2.2.ctx (b2n (decide (0 < fld bs 5 1))) else H2).busStart h b.ctrl

/-- R422: a port narrowed to w has fewer good lanes than that, and narrows again at the next frame close. -/
def Hall.stillDue (H : Hall) (h port w : Nat) : Hall :=
  if (H.lanesInUse h port).length < w then H.onRx port fun (P : RxPort) => { P with narrowDue := true } else H

/-- R422: a port with a narrowing due acts at a frame close. -/
def Hall.narrow (H : Hall) (h port : Nat) : Hall :=
  let P := H.rx port
  if !P.narrowDue || P.width = 0 then H
  else
    let w := narrower P.cphy P.width
    let H1 := H.onRx port fun (P : RxPort) =>
      { P with accepting := false, narrowing := decide (0 < w), narrowDue := false, narrowings := P.narrowings + 1, width := w, degraded := true }
    if w = 0 then H1 else (H.camsOnPort h port).foldl (fun (H : Hall) e => H.sendDegrade h P.narrowings e) (H1.stillDue h port w)

/-- R422 step 4: the degrade writes of the port have been sent, or abandoned. -/
def Hall.degradeDone (H : Hall) (h port : Nat) : Hall :=
  let busy := (H.camsOnPort h port).any fun (e : Nat × CameraBody × PipeBody) =>
    match H.camera e.1 with
    | some (c : Camera) => c.recs.any fun (r : SetRec) => r.degrade && !r.failed && decide (0 < r.left)
    | none => false
  if (H.rx port).narrowing && !busy then H.onRx port fun (P : RxPort) => { P with narrowing := false, accepting := true } else H

/-! ### A frame closes (R416, R419, R420) -/

/-- R416, R419, R438: a camera's open frame closes. -/
def Hall.closeFrame (H : Hall) (h : Nat) (e : Nat × CameraBody × PipeBody) (timedOut : Bool) : Hall :=
  let id := e.1
  let b := e.2.1
  match H.openFrame id with
  | none => H
  | some f =>
    let H1 := if timedOut then (H.onRx b.port fun (P : RxPort) => { P with timeout := inc8 P.timeout }).frameFault b.port id 4 0xC else H
    let H2 := if f.lines.length < b.height then
        (H1.onRx b.port fun (P : RxPort) => { P with frameLen := inc8 P.frameLen }).frameFault b.port id 2 0xC
      else H1
    let H3 := if f.lines.length ≤ b.writeLine then H2.takeSettings h id true else H2
    let H4 := match H3.openFrame id with
      | some f => H3.onIsp e.2.2.ctx fun (x : IspCtx) => { x with frames := x.frames ++ [{ f with closed := true }] }
      | none => H3
    let H5 := H4.onCamera id fun (c : Camera) => { c with cur := none }
    (H5.takeSettings h id false).narrow h b.port

/-! ### A frame starts (R416 to R418, R439) -/

/-- R439, R440: a record comes into force at a frame start. The answer carries the frame's flags and SEQ. -/
def Hall.applyRecord (ctx : Nat) (a : Hall × Nat × Nat) (r : SetRec) : Hall × Nat × Nat :=
  if r.failed then (a.1, a.2.1 ||| 2 ^ 11, a.2.2)
  else if !r.hasParam then (a.1, a.2.1, r.seq)
  else (a.1.onIsp ctx fun (x : IspCtx) => { x with swapDue := x.swapDue || x.shadow.isSome }, a.2.1, r.seq)

/-- R439: a due swap of the parameter banks, or PARAM_LATE while the copy has not completed. -/
def Hall.swapBank (H : Hall) (ctx : Nat) : Hall × Nat :=
  let x := H.isp ctx
  if !x.swapDue then (H, 0)
  else if x.shadowOk then
    (H.onIsp ctx fun (x : IspCtx) => { x with active := x.shadow, shadow := none, shadowOk := false, swapDue := false }, 0)
  else (H.onIsp ctx fun (x : IspCtx) => { x with paramLate := inc8 x.paramLate }, 2 ^ 10)

/-- R433: whether an output takes the frame that opens: it is enabled and CELL leaves a buffer with the consumer. -/
def Hall.outTakes (H : Hall) (o : PipeOut) : Bool := o.fmt != 0 && decide (H.cell o.cell + 1 < o.bufs)

/-- R433: DROP_FULL counts an enabled output that does not take the frame. -/
def Hall.countFull (H : Hall) (ctx : Nat) (o : PipeOut) : Hall :=
  if o.fmt != 0 && !(H.outTakes o) then H.onIsp ctx fun (x : IspCtx) => { x with dropFull := inc16 x.dropFull } else H

/-- R416: how FRAME advances: by 1, or with FNUM by the difference of the frame numbers. -/
def frameStep (b : CameraBody) (last num : Nat) : Nat :=
  if bit b.cflags 1 && last != 0 && num != 0 then (num + 65535 - last) % 65535 else 1

/-- R417: the frame start comes too early. -/
def tooEarly (b : CameraBody) (c : Camera) (us : Nat) : Bool :=
  match c.lastUs with
  | some t => decide (10 * (us - t) < 9 * b.frameUs)
  | none => false

/-- R416, R418, R433, R439: a camera's frame opens. -/
def Hall.openAt (H : Hall) (e : Nat × CameraBody × PipeBody) (c : Camera) (fnum us sincePulse : Nat) : Hall :=
  let b := e.2.1
  let p := e.2.2
  let step := frameStep b c.lastNum fnum
  let frame := (c.frame + step) % 2 ^ 32
  let due := fun (r : SetRec) => match r.target with
    | some t => decide (t ≤ frame)
    | none => r.sent || r.failed
  let a := (c.recs.filter due).foldl (Hall.applyRecord p.ctx) (H, 0, c.setSeq)
  let sw := a.1.swapBank p.ctx
  let H1 := sw.1
  let late := b.sync != 0 && decide (10 * b.syncWin < sincePulse)
  let dflt := if (H1.isp p.ctx).active.isNone then 2 ^ 9 else 0
  let dg := if (H1.rx b.port).degraded then 2 ^ 12 else 0
  let f : RxFrame :=
    { frame := frame, lines := [], flags := a.2.1 ||| sw.2 ||| dflt ||| dg, fsSweep := H.swp.sweep, fsTick := H.swp.tick, emb := [], us := us,
      setSeq := a.2.2, closed := false, out0 := H1.outTakes p.out0, out1 := H1.outTakes p.out1, pieces := 0,
      params := (H1.isp p.ctx).active, logged := 0, tookTimed := false }
  let H2 := (H1.countFull p.ctx p.out0).countFull p.ctx p.out1
  let H3 := H2.onCamera e.1 fun (c : Camera) =>
    { c with frame := frame, lastNum := fnum, lastUs := some us, cur := some f, dropping := false, setSeq := a.2.2
             recs := c.recs.filter fun (r : SetRec) => !(due r) }
  let H4 := if late then (H3.onRx b.port fun (P : RxPort) => { P with late := min 15 (P.late + 1) }).frameFault b.port e.1 7 0xC else H3
  if bit b.cflags 1 && c.lastNum != 0 && step != 1 then H4.logOther 0xC p.ctx (0x104 + 8 * p.ctx) else H4

/-- R419: a packet header that was corrected. -/
def Hall.header (H : Hall) (h port vc : Nat) (corr : Bool) : Hall :=
  if corr then (H.onRx port fun (P : RxPort) => { P with hdrCorr := inc8 P.hdrCorr }).vcFault h port vc 16 4 else H

/-- R416, R417, R420, R422: a frame start for one camera. -/
def Hall.frameStartAt (H : Hall) (h : Nat) (e : Nat × CameraBody × PipeBody) (fnum us sincePulse : Nat) : Hall :=
  let b := e.2.1
  let H1 := H.closeFrame h e true
  match H1.camera e.1 with
  | none => H1
  | some c =>
    if tooEarly b c us then
      ((H1.onRx b.port fun (P : RxPort) => { P with early := min 15 (P.early + 1) }).onCamera e.1 fun (c : Camera) =>
        { c with dropping := true }).rxLog b.port 0xC
    else if !(H1.rx b.port).accepting || (H1.rx b.port).width = 0 then
      H1.onCamera e.1 fun (c : Camera) => { c with dropping := true }
    else H1.openAt e c fnum us sincePulse

/-- R416: a frame start on a receive port: of its cameras, and of a host feed or the boot feed. -/
def State.frameStart (s : State) (h : HallId) (port vc fnum us sincePulse : Nat) (hdrCorr : Bool) : State :=
  let H := s.hall h
  if !(s.camerasOn h) then s
  else
    let feed : Bool := match H.image with
      | none => h == .a && port == 0 && vc == 0 && s.bootFeedOpen
      | some im => (im.feedOn h.idx port vc).isSome
    s.onHall h fun H =>
      let H0 := if feed then H.onRx port fun (P : RxPort) => { P with feedOpen := sins P.feedOpen vc } else H
      let H1 := (if H0.vcDeclared h.idx port vc then H0.rxActive h.idx port vc else H0.undeclared h.idx port vc).header h.idx port vc hdrCorr
      ((H1.camsOn h.idx port vc).foldl (fun (H : Hall) e => H.frameStartAt h.idx e fnum us sincePulse) H1).after h.idx

/-! ### Lines and other packets -/

/-- R419: a payload CRC error in a packet of a camera's open frame. -/
def Hall.crcError (H : Hall) (port id : Nat) : Hall := (H.onRx port fun (P : RxPort) => { P with crc := inc16 P.crc }).frameFault port id 5 4

/-- R427: the lines that a STRIPE context's line buffer holds. -/
def Hall.linesHeld (H : Hall) (p : PipeBody) (f : RxFrame) : Nat :=
  let held := fun (f : RxFrame) => (f.lines.drop (p.stripeLines * f.pieces)).countP fun l => !l.isEmpty
  ((H.isp p.ctx).frames.map held).foldl (· + ·) (held f)

/-- R416, R419, R427, R438, R440: a line of the image data type for a camera. -/
def Hall.lineAt (H : Hall) (h : Nat) (e : Nat × CameraBody × PipeBody) (pixels : List Nat) (crcOk : Bool) : Hall :=
  let id := e.1
  let b := e.2.1
  let p := e.2.2
  match H.camera id, H.openFrame id with
  | some c, none => if c.dropping then H else (H.onRx b.port fun (P : RxPort) => { P with orphan := inc16 P.orphan }).rxLog b.port 8
  | _, some f0 =>
    let i := f0.lines.length
    let HA := if i = b.writeLine then H.takeSettings h id true else H
    let HB := if i = b.deadlineLine then HA.deadlineMiss h id else HA
    let HC := if crcOk then HB else HB.crcError b.port id
    if b.height ≤ i then
      (if bit f0.flags 3 then HC else HC.onRx b.port fun (P : RxPort) => { P with frameLen := inc8 P.frameLen }).frameFault b.port id 3 0xC
    else
      let n := pixels.length
      let HD := if n = b.width then HC
        else (HC.onRx b.port fun (P : RxPort) => { P with lineLen := inc8 P.lineLen }).frameFault b.port id (if n < b.width then 0 else 1) 0xC
      let full := p.mode = 0 && decide (p.lbLines ≤ HD.linesHeld p f0)
      let line :=
        if full then []
        else if !crcOk && bit b.cflags 0 then List.replicate b.width b.pad
        else (pixels ++ List.replicate (b.width - n) b.pad).take b.width
      let HE := if full && !(bit f0.flags 8) then HD.onIsp p.ctx fun (x : IspCtx) => { x with lbOverflow := inc8 x.lbOverflow } else HD
      HE.onOpen id fun (f : RxFrame) => { f with lines := f.lines ++ [line], flags := if full then f.flags ||| 2 ^ 8 else f.flags }
  | none, none => H

/-- R416: a long packet of pixels. -/
def Hall.linePacket (H : Hall) (h port vc dt : Nat) (pixels : List Nat) (crcOk hdrCorr : Bool) : Hall :=
  let H1 := (H.rxActive h port vc).header h port vc hdrCorr
  match (H1.camsOn h port vc).filter fun (e : Nat × CameraBody × PipeBody) => e.2.1.dt == dt with
  | [] => if H1.dtDeclared h port vc dt then H1 else H1.undeclared h port vc
  | es => (es.foldl (fun (H : Hall) e => H.lineAt h e pixels crcOk) H1).after h

/-- R416: a packet of embedded data, at most 64 bytes a frame. -/
def Hall.embedded (H : Hall) (h port vc dt : Nat) (data : List Byte) (crcOk hdrCorr : Bool) : Hall :=
  let H1 := (H.rxActive h port vc).header h port vc hdrCorr
  match (H1.camsOn h port vc).filter fun (e : Nat × CameraBody × PipeBody) => e.2.1.embDt == dt && dt != 0 with
  | [] => if H1.dtDeclared h port vc dt then H1 else H1.undeclared h port vc
  | es =>
    es.foldl (fun (H : Hall) e =>
      match H.camera e.1, H.openFrame e.1 with
      | some c, none => if c.dropping then H else (H.onRx port fun (P : RxPort) => { P with orphan := inc16 P.orphan }).rxLog port 8
      | _, some _ => (if crcOk then H else H.crcError port e.1).onOpen e.1 fun (f : RxFrame) => { f with emb := (f.emb ++ data).take 64 }
      | none, none => H) H1

/-- R419: an uncorrectable header. -/
def Hall.headerLost (H : Hall) (h port vc : Nat) : Hall :=
  (H.onRx port fun (P : RxPort) => { P with hdrUncorr := inc8 P.hdrUncorr }).vcFault h port vc 6 4

/-- R419: a packet of an unknown data type or an undeclared virtual channel. -/
def Hall.undeclaredPacket (H : Hall) (h port vc dt : Nat) (hdrCorr : Bool) : Hall :=
  let H1 := (H.rxActive h port vc).header h port vc hdrCorr
  if H1.dtDeclared h port vc dt then H1 else H1.undeclared h port vc

/-- R421: a start-of-transmission sync error. -/
def Hall.sotError (H : Hall) (h port lane : Nat) : Hall :=
  let first := (H.rx port).sotCur.getD lane 0 = 0
  let H1 := H.onRx port fun (P : RxPort) => { P with sot := modAt P.sot lane inc8, sotCur := modAt P.sotCur lane (· + 1) }
  ((if first then H1.rxLog port 0x10 else H1).judgeSot h port)

/-- R416, R419, R421: a frame end on a virtual channel. -/
def Hall.frameEnd (H : Hall) (h port vc : Nat) (bursts : BitVec 4) (hdrCorr : Bool) : Hall :=
  let H0 := (H.rxActive h port vc).header h port vc hdrCorr
  if !(H0.vcDeclared h port vc) then H0.undeclared h port vc
  else
    let H1 := H0.onRx port fun (P : RxPort) => { P with feedOpen := P.feedOpen.filter (· != vc) }
    let H2 := ((H1.judgeSot h port).judgeBursts h port bursts)
    let H3 := (H2.camsOn h port vc).foldl (fun (H : Hall) e =>
      (H.closeFrame h e false).onCamera e.1 fun (c : Camera) => { c with dropping := false }) H2
    (H3.nextSot port).after h

/-- R419: the frames of a virtual channel whose TIMEOUT_US has passed. -/
def Hall.frameTimeout (H : Hall) (h port vc us : Nat) : Hall :=
  let late := (H.camsOn h port vc).filter fun (e : Nat × CameraBody × PipeBody) =>
    match H.openFrame e.1 with
    | some f => decide (f.us + e.2.1.timeoutUs ≤ us)
    | none => false
  if late.isEmpty then H
  else ((late.foldl (fun (H : Hall) e => H.closeFrame h e true) (H.judgeSot h port)).nextSot port).after h

/-! ### The ISP (R426, R433, R434) -/

/-- R426: the free ISP takes the next ready piece by class, then by the rotating pointer. -/
def Hall.pieceStart (H : Hall) (h : Nat) : Hall :=
  if H.cam.piece.isSome then H
  else
    let ready := (List.range 32).filterMap fun n =>
      match H.ctxCamera h n with
      | some e => if H.pieceReady e then some (e.2.2.cls * 32 + (n + 32 - H.cam.ptr % 32) % 32, e) else none
      | none => none
    match sortKeys ready with
    | [] => H
    | (_, e) :: _ =>
      let p := e.2.2
      let switch := H.cam.lastCtx != some p.ctx
      let done := match H.ispFrame p.ctx e.1 with | some f => p.stripeLines * f.pieces | none => 0
      let cycles := (if switch then 256 else 0) + min p.stripeLines (e.2.1.height - done) * cdiv e.2.1.width 4
      ({ H with cam := { H.cam with piece := some p.ctx, lastCtx := some p.ctx, busy := H.cam.busy + cycles } }.count 1623 cycles).count 1624
        (b2n switch)

/-- R424: bytes written to an output's ring, at an offset from its base; nothing while its gallery is off. -/
def Hall.outWrite (H : Hall) (h : Nat) (o : PipeOut) (off : Nat) (bs : List Byte) : Hall :=
  if bit o.tier 7 then
    match H.extentAddr h o.domain (64 * o.base + off) bs.length with
    | some a => H.dramWrite a bs
    | none => H
  else if (H.gal (o.tier % 8)).st == .off then H
  else H.writeAt (.gal (o.tier % 8)) (o.base + off) bs

/-- R433: the rows of one output that a piece completes. -/
def Hall.outPiece (H : Hall) (h : Nat) (o : PipeOut) (f : RxFrame) (rows : List (Nat × List Byte)) : Hall :=
  rows.foldl (fun (H : Hall) r => H.outWrite h o (f.frame % o.bufs * o.bufStride + 64 + r.1) r.2) H

/-- R432, R433: an output's frame delivered: embedded data, header, CELL and the data-complete event. -/
def Hall.deliver (H : Hall) (h : Nat) (o : PipeOut) (f : RxFrame) (id lanes : Nat) : Hall :=
  let at' := f.frame % o.bufs * o.bufStride
  let H1 := if f.emb.isEmpty then H else H.outWrite h o (at' + 64 + imageBytes o) f.emb
  let H2 := (H1.outWrite h o at' (f.header id H.swp.sweep H.swp.tick lanes)).signal h o.cell 1
  if o.event = 0xFFFF then H2 else H2.trigger o.event

/-- R434: the statistics buffer written and signalled. -/
def Hall.deliverStats (H : Hall) (h : Nat) (p : PipeBody) (f : RxFrame) (bs : List Byte) : Hall :=
  if p.statsAddr = 0xFFFFFFFF then H
  else
    let g := p.out0.tier % 8
    let H1 := if (H.gal g).st == .off then H else H.writeAt (.gal g) (p.statsAddr + f.frame % 2 * 5184) bs
    H1.signal h p.statsCell 1

/-- R419, R427: the lines of a frame as the ISP sees them: missing and discarded ones are PAD. -/
def RxFrame.rows (f : RxFrame) (b : CameraBody) (n : Nat) : List (List Nat) :=
  (List.range (min n b.height)).map fun i =>
    match f.lines[i]? with
    | some (x :: l) => x :: l
    | _ => List.replicate b.width b.pad

/-- R433, R434: the piece in progress completes. -/
def Hall.pieceDone (H0 : Hall) (h : Nat) : Hall :=
  match H0.cam.piece.bind fun n => H0.ctxCamera h n with
  | none => H0
  | some e =>
    let H := { H0 with cam := { H0.cam with piece := none } }
    let b := e.2.1
    let p := e.2.2
    match H.ispFrame p.ctx e.1 with
    | none => H
    | some f =>
      let set := f.params.getD defaultSet
      let lim := p.stripeLines * (f.pieces + 1)
      let whole := decide (b.height ≤ lim)
      let rows := f.rows b (lim + 4)
      let r5 := stage5 set p.bits p.mosaic b.width b.height rows
      let r6 := irRemove set p.mosaic r5
      let n := (((f.fsSweep * 4096 + f.fsTick) * 2 ^ 32 + f.frame) * 32 + p.ctx) * 2 + h
      let out := fun (H : Hall) (o : PipeOut) (on : Bool) =>
        if on then
          H.outPiece h o f (pieceRows n p.bits p.mosaic o (p.stripeLines * f.pieces) lim whole (formatAt n set p.bits p.mosaic o.fmt r5 r6))
        else H
      let H1 := out (out H p.out0 f.out0) p.out1 f.out1
      let f' := { f with pieces := f.pieces + 1 }
      if !whole then
        if f.closed then H1.onIsp p.ctx fun (x : IspCtx) => { x with frames := f' :: x.frames.drop 1 }
        else H1.onOpen e.1 fun _ => f'
      else
        let H2 := H1.onIsp p.ctx fun (x : IspCtx) => { x with frames := x.frames.drop 1 }
        let lanes := (H2.rx b.port).width
        let H3 := if f.out0 then H2.deliver h p.out0 f e.1 lanes else H2
        let H4 := if f.out1 then H3.deliver h p.out1 f e.1 lanes else H3
        let H5 := H4.deliverStats h p f (statsBuffer f n set p.bits p.mosaic b.width b.height r5 r6)
        let H6 := if f.out0 || f.out1 then (H5.count (1607 + b.port) 1).count (1615 + b.port) (b2n (f.flags != 0)) else H5
        H6.after h

/-! ### Sensor buses (R439, R440) -/

/-- The record on a bus changed. -/
def Hall.onBusRec (H : Hall) (id : Nat) (r : SetRec) (f : SetRec → SetRec) : Hall :=
  H.onCamera id fun (c : Camera) => { c with recs := modFirst c.recs (fun (x : SetRec) => x == r) f }

/-- The ISP context of a camera. -/
def Hall.camCtx (H : Hall) (h id : Nat) : Nat := match H.camEntry h id with | some (_, p) => p.ctx | none => 0

/-- R440: the record on the bus is abandoned. -/
def Hall.abandonRec (H : Hall) (h ctrl id : Nat) (r : SetRec) : Hall :=
  (((H.onBusRec id r fun (x : SetRec) => { x with failed := true, left := 0 }).snsFail (H.camCtx h id) 1).busStart h ctrl)

/-- R440: a write on a sensor bus was acknowledged, or not. -/
def Hall.sensorWrite (H : Hall) (h ctrl : Nat) (ack : Bool) : Hall :=
  match H.busRec h ctrl with
  | none => H
  | some (id, r) =>
    if ack then
      let H1 := H.onBusRec id r fun (x : SetRec) => { x with left := x.left - 1, retried := false, sent := x.left == 1 }
      if r.left = 1 then (H1.snsCount (H.camCtx h id) 0).busStart h ctrl else H1
    else
      let H1 := { H with cam := { H.cam with nacks := modAt H.cam.nacks ctrl inc16 } }
      if r.retried then H1.abandonRec h ctrl id r else H1.onBusRec id r fun (x : SetRec) => { x with retried := true }

/-- R440: an I2C target holds the bus. -/
def Hall.busTimeout (H : Hall) (h ctrl : Nat) : Hall :=
  match H.busRec h ctrl with
  | none => H
  | some (id, r) =>
    match H.camEntry h id with
    | some (b, _) =>
      if b.bus < 2 then ({ H with cam := { H.cam with busResets := modAt H.cam.busResets ctrl inc8 } }.abandonRec h ctrl id r) else H
    | none => H

/-- R439: a copy into a context's shadow bank completes. -/
def Hall.copyDone (H : Hall) (ctx : Nat) : Hall :=
  H.onIsp ctx fun (x : IspCtx) => if x.shadow.isSome then { x with shadowOk := true } else x

/-- A hall's camera units at work while the hall is in HALL or PAIR (R426). -/
def State.inCams (s : State) (h : HallId) (f : Hall → Hall) : State := if s.camerasOn h then s.onHall h f else s

/-- R85, R442: a receive port of the hall runs: with an image its ports, before one only CSI_RX_0 of Hall A with the boot feed. -/
def State.inRx (s : State) (h : HallId) (port : Nat) (f : Hall → Hall) : State :=
  if (s.hall h).image.isSome || (h == .a && port == 0 && s.bootFeedOpen) then s.inCams h f else s

end Sys2Proof.Machine
end

