-- ==== Sys2Proof/Machine/Pdm.lean ====
section
/-! DEFINITION. The microphones (12, R390 to R403): clock outputs, modes, decimation of the PDM bit streams, calibration, the ring's and the
full-mode streams' samples, stuck microphones. -/

namespace Sys2Proof.Machine

/-- R366: the modulus of ring positions. -/
def posMod : Nat := 4294944000

/-- R366: a difference of positions. -/
def posDiff (a b : Nat) : Nat := (a + posMod - b) % posMod

/-- R365: Hall A's image has a CASCADE section with an entry for flight n. -/
def State.flight (s : State) (n : Nat) : Option FlightEntry := s.a.image.bind fun im => im.flight n

/-! ### Arrays, modes and clock outputs (R391 to R395) -/

/-- The MIC_ARRAY entries of Hall A's image: entry ID and body. -/
def State.arrays (s : State) : List (Nat × MicArrayBody) :=
  match s.a.image with
  | none => []
  | some im => im.sensors.filterMap fun (e : SensorEntry) => match e.body with | .micArray b => some (e.id, b) | _ => none

/-- R391: the microphones of a mask, in channel order. -/
def micsOf (mics : Nat) : List Nat := (List.range 32).filter fun m => bit mics m

/-- R391: microphone of channel c of an array. -/
def micOf (mics c : Nat) : Nat := (micsOf mics).getD c 0

/-- R366: the array that feeds the ring. -/
def State.ringArray (s : State) : Option MicArrayBody :=
  match s.flight 0 with
  | none => none
  | some f => (s.arrays.find? fun (e : Nat × MicArrayBody) => e.2.clock == f.ringClock).map (·.2)

/-- R394: an array runs in the present mode. -/
def State.arrayRuns (s : State) (b : MicArrayBody) : Bool := s.vst.micFull || bit b.aflags 0

/-- R393: clock output c: the divider of the 24.576 MHz audio clock that it carries, 8 in full mode and 32 in listening mode; none while it is
held low, because its array does not run or no array uses it. -/
def State.pdmClock (s : State) (c : Nat) : Option Nat :=
  if s.arrays.any fun (e : Nat × MicArrayBody) => e.2.clock == c && s.arrayRuns e.2 then some (if s.vst.micFull then 8 else 32) else none

/-- R393, R389: bits that a clock output takes of each of its microphones in an audio frame of 10 ms. -/
def frameBits (full : Bool) : Nat := if full then 30720 else 7680

/-- R395: position p lies in the settle gap that began at a mode change or at the start of a clock. -/
def State.inGap (s : State) (b : MicArrayBody) (p : Nat) : Bool :=
  match s.vst.gapFrom with
  | some q => decide (posDiff p q < 16 * b.settleMs)
  | none => false

/-- R407: MIC_STATUS.GAP: a settle gap is in progress. -/
def State.gapNow (s : State) : Bool := s.arrays.any fun (e : Nat × MicArrayBody) => s.arrayRuns e.2 && s.inGap e.2 s.vst.writePos

/-! ### Decimation (R396, R397) -/

/-- R396: the five integrators take a bit: each adds the one before it, wrapping at 40 bits. -/
def integrate (x : BitVec 40) : List (BitVec 40) → List (BitVec 40)
  | [] => []
  | i :: r => (i + x) :: integrate (i + x) r

/-- R396: the five differences at the comb's output rate: the states after them, and the output. -/
def difference (x : BitVec 40) : List (BitVec 40) → List (BitVec 40) × BitVec 40
  | [] => ([], x)
  | d :: r => let a := difference (x - d) r; (x :: a.1, a.2)

/-- R396: the comb takes a bit, a one as 1 and a zero as -1; every R_c bits it gives a value. -/
def Comb.take (c : Comb) (rc : Nat) (one : Bool) : Comb × Option Int :=
  let i := integrate (if one then 1 else BitVec.allOnes 40) c.integ
  if c.count + 1 < rc then ({ c with integ := i, count := c.count + 1 }, none)
  else
    let d := difference (i.getLastD 0) c.diff
    ({ integ := i, diff := d.1, count := 0 }, some d.2.toInt)

/-- The values that a stage keeps, newest first. DESIGN CHOICE 310: at most 512. -/
def keepNew (v : Int) (l : List Int) : List Int := (v :: l).take 512

/-- R396, R397: a half-band stage takes a value and gives one for every two: a steady input passes, any other output is a free value. -/
def Half.take (s : Half) (rc stage : Nat) (v : Int) : Half × Option Int :=
  let l := keepNew v s.past
  ({ past := l, odd := !s.odd },
    if !s.odd then none
    else if l.length = 512 && l.all (fun x => x == v) then some v
    else some (Config.halfBand rc stage l))

/-- A value held to 24 bits, two's complement. -/
def clamp24 (v : Int) : Int := max (-(2 ^ 23)) (min (2 ^ 23 - 1) v)

/-- R397: the 24-bit sample of the second half-band stage's value, whose full scale is R_c to the fifth: exact where it is a whole number. -/
def pcmSample (rc : Nat) (v : Int) : Int :=
  if (v * 2 ^ 23) % ((rc : Int) ^ 5) = 0 then clamp24 (v * 2 ^ 23 / (rc : Int) ^ 5) else clamp24 (Config.pcmSample rc v)

/-- R396, R397: a path takes a bit; the answer carries the sample that it completes. -/
def Decim.take (d : Decim) (rc : Nat) (hpf : Bool) (one : Bool) : Decim × Option Int :=
  let c := d.comb.take rc one
  match c.2 with
  | none => ({ d with comb := c.1 }, none)
  | some v =>
    let a := d.first.take rc 1 v
    match a.2 with
    | none => ({ d with comb := c.1, first := a.1 }, none)
    | some w =>
      let b := d.second.take rc 2 w
      match b.2 with
      | none => ({ d with comb := c.1, first := a.1, second := b.1 }, none)
      | some u =>
        let x := pcmSample rc u
        let y := if hpf then clamp24 (Config.highPass rc x d.high.1 d.high.2) else x
        ({ comb := c.1, first := a.1, second := b.1, high := (x, y), past := keepNew y d.past }, some y)

/-! ### Calibration (R398) -/

/-- R398: the GAIN of microphone m on a 24-bit sample. -/
def State.gain (s : State) (m : Nat) (v : Int) : Int :=
  clamp24 (divEven (v * sint 16 ((s.vst.cal.getD m (0x4000, 0)).1 % 65536)) 16384)

/-- R398, R407: the newest sample of a path at `khz` kHz delayed by 2 + PHASE / 64 periods of 16 kHz: a sample of the past where that is a whole number
of its own periods, else the fractional-delay filter's value, which is free. -/
def delayed (khz phase : Nat) (past : List Int) : Int :=
  let n := ((128 + max (-128) (min 128 (sint 9 (phase % 512)))) * (khz : Int)).toNat
  if n % 1024 = 0 then past.getD (n / 1024) 0 else clamp24 (Config.fracDelay khz phase past)

/-- R396 to R398: a microphone's bits of a frame through a path of rate `khz` and comb ratio rc: the path's state and its samples. -/
def State.path (s : State) (m rc khz : Nat) (hpf : Bool) (d : Decim) (bits : List Bool) : Decim × List Int :=
  let r := bits.foldl (fun (a : Decim × List Int) one =>
    let b := a.1.take rc hpf one
    match b.2 with
    | none => (b.1, a.2)
    | some _ => (b.1, s.gain m (delayed khz (s.vst.cal.getD m (0x4000, 0)).2 b.1.past) :: a.2)) (d, [])
  (r.1, r.2.reverse)

/-! ### Streams (R399 to R403) -/

/-- R391: RATE as kHz. -/
def rateKhz (r : Nat) : Nat := [8, 16, 24, 32, 48].getD r 48

/-- R396: R_c of a full-mode path at a rate. -/
def combRatio (khz : Nat) : Nat := 768 / khz

/-- R390: a microphone's bits of a frame; a line that brings none reads as zeros. -/
def audioBits (f : AudioFrame) (full : Bool) (m : Nat) : List Bool :=
  (f.pdm.getD m [] ++ List.replicate (frameBits full) false).take (frameBits full)

/-- R400: a ring sample from a 24-bit value. -/
def ringSample (v : Int) : Int := max (-32768) (min 32767 (divEven v 256))

/-- R396: the frame through the paths of the microphones of an array that runs: the samples of the 16 kHz path, and in full mode of the array's
own rate, by channel. -/
def State.arrayFrame (s : State) (f : AudioFrame) (b : MicArrayBody) : State × List (List Int) × List (List Int) :=
  let full := s.vst.micFull
  let khz := rateKhz b.rate
  (micsOf b.mics).foldl (fun (a : State × List (List Int) × List (List Int)) m =>
    let v := a.1.vst
    let bits := audioBits f full m
    let r := a.1.path m (if full then 48 else 12) 16 (bit b.aflags 1) (v.ringDec.getD m Decim.zero) bits
    let q := if full then a.1.path m (combRatio khz) khz (bit b.aflags 1) (v.fullDec.getD m Decim.zero) bits else (v.fullDec.getD m Decim.zero, [])
    ({ a.1 with vst := { v with ringDec := modAt v.ringDec m fun _ => r.1, fullDec := modAt v.fullDec m fun _ => q.1 } },
      a.2.1 ++ [r.2], a.2.2 ++ [q.2])) (s, [], [])

/-- R395, R401: the samples of a full-mode block, instant by instant and in each by channel, with their gap flags. -/
def State.blockSamples (s : State) (b : MicArrayBody) (chans : List (List Int)) : List (Int × Bool) :=
  let khz := rateKhz b.rate
  (List.range (10 * khz)).flatMap fun i =>
    let gap := s.inGap b ((s.vst.writePos + 16 * i / khz) % posMod)
    chans.map fun c => if gap then (0, true) else (c.getD i 0, false)

/-- R367: a ring sample and its gap flag written into the capture area. -/
def putSlot (m : Memory) (slot : Nat) (chans : List Int) (gap : Bool) : Memory :=
  let bs := (List.range 8).flatMap fun k => leBytes 2 (sbits 16 (chans.getD k 0))
  let at' := 512000 + slot / 8
  let old := (m.get at').toNat
  let v := old - (if bit old (slot % 8) then 2 ^ (slot % 8) else 0) + (if gap then 2 ^ (slot % 8) else 0)
  (m.putAll (16 * slot) bs).put at' (BitVec.ofNat 8 v)

/-- R366, R392, R395, R400: an array's 160 ring samples of a frame, written into the capture area where the array feeds the ring. -/
def State.ringFrame (s : State) (b : MicArrayBody) (chans : List (List Int)) : State :=
  match s.flight 0, s.ringArray with
  | some fl, some r =>
    if r.clock ≠ b.clock then s
    else
      { s with vst := { s.vst with cap := (List.range 160).foldl (fun (m : Memory) i =>
          let p := (s.vst.writePos + i) % posMod
          let gap := s.inGap b p
          putSlot m (p % 32000) ((chans.take fl.ringChans).map fun c => if gap then 0 else ringSample (c.getD i 0)) gap) s.vst.cap } }
  | _, _ => s

/-- R394 to R401: a frame of an array that runs: its paths, its ring samples and its block. -/
def State.takeArray (s : State) (f : AudioFrame) (e : Nat × MicArrayBody) : State :=
  let r := s.arrayFrame f e.2
  let s1 := r.1.ringFrame e.2 r.2.1
  { s1 with vst := { s1.vst with
      blocks := if s1.vst.micFull then s1.vst.blocks ++ [(e.1, s1.blockSamples e.2 r.2.2)] else s1.vst.blocks } }

/-- R403: the density of a microphone's bits over the frame lies below 0.1 % or above 99.9 %. -/
def stuckBits (l : List Bool) : Bool :=
  let ones := l.countP id
  decide (1000 * ones < l.length) || decide (999 * l.length < 1000 * ones)

/-- R403: the stuck microphones of the arrays that run, in a frame. -/
def State.stuckMics (s : State) (f : AudioFrame) : BitVec 32 :=
  BitVec.ofNat 32 (((s.arrays.filter fun (e : Nat × MicArrayBody) => s.arrayRuns e.2).flatMap fun (e : Nat × MicArrayBody) =>
    (micsOf e.2.mics).filter fun m => stuckBits (audioBits f s.vst.micFull m)).foldl (fun a m => a ||| 2 ^ m) 0)

/-- R403: the stuck microphones of the frame just ended, with an entry of the event log for each that has become so. -/
def State.stuckFrame (s : State) (f : AudioFrame) : State :=
  let now := s.stuckMics f
  let s1 := (List.range 32).foldl (fun (s : State) m =>
    if now.getLsbD m && !(s.vst.stuck.getLsbD m) then s.logOther .a 8 m 8 else s) s
  { s1 with vst := { s1.vst with stuck := now, stuckFrame := now } }

/-- R401: a block's bytes. -/
def State.micBlock (s : State) (b : MicArrayBody) (samples : List (Int × Bool)) : List Byte :=
  let n := (b.blockBytes - 64) / 4
  let stuck := s.vst.stuckFrame &&& BitVec.ofNat 32 b.mics != 0
  leBytes 4 (posDiff s.vst.writePos 160) ++ leBytes 1 (b2n (samples.any (·.2)) + 2 * b2n stuck) ++ List.replicate 59 0
    ++ (List.range n).flatMap fun i =>
      let x := samples.getD i (0, false)
      leBytes 4 (256 * sbits 24 x.1 + b2n x.2)

/-- R401, R402: an array's block written into its stream ring, or dropped. -/
def State.micBlockWrite (s : State) (id : Nat) : State :=
  match s.arrays.find? fun (e : Nat × MicArrayBody) => e.1 == id with
  | none => s
  | some (_, b) =>
    match s.vst.blocks.find? fun (e : Nat × List (Int × Bool)) => e.1 == id with
    | none => s
    | some (_, samples) =>
      let s0 := { s with vst := { s.vst with blocks := s.vst.blocks.filter fun (e : Nat × List (Int × Bool)) => e.1 != id } }
      if s.por || b.part = 0xFF then s
      else if b.blocks ≤ s.a.cell b.cell || (s.a.gal b.gallery).st != .run then
        { s0 with vst := { s0.vst with blockDrops := inc16 s0.vst.blockDrops } }
      else
        let k := tget s.vst.micK id
        let s1 := s0.onHall .a fun H =>
          ((H.writeAt (.gal b.gallery) (b.streamAddr + k % b.blocks * b.blockBytes) (s.micBlock b samples)).signal 0 b.cell 1).after 0
        { s1 with vst := { s1.vst with micK := tset s1.vst.micK id (k + 1) } }

end Sys2Proof.Machine
end

