-- ==== Sys2Proof/Machine/Vest.lean ====
section
/-! DEFINITION. The Vestibule (11, 12): capture ring and mirrors, Flight 0's verdicts, landings, up records, escalation and entry to
flights, descent, microphone modes, streams and TDM outputs. -/

namespace Sys2Proof.Machine

/-! ### Times, positions and the cascade -/

/-- R389: at least `ms` milliseconds have passed between two counts of the 32.768 kHz timebase. -/
def vtPassed (since now ms : Nat) : Bool := decide (ms * 32768 ≤ (now - since) * 1000)

/-- R362: the hall of a flight's models: that of its entry gallery, Hall A for Flight 0. -/
def FlightEntry.at' (f : FlightEntry) : HallId := if f.hall = 1 then .b else .a

/-- R365: a flight is available. -/
def State.available (s : State) (n : Nat) : Bool :=
  match s.flight n with
  | none => false
  | some f =>
    ((s.hall f.at').sec.models.any fun (m : Model) => m.num == f.model && m.st == .loaded && m.dom == f.tenant)
      && (n != 1 || (match s.vst.stage with | some (m, _) => m == f.model | none => false))

/-- R365: the highest available flight up to n; Flight 0 where there is none. -/
def State.highest (s : State) (n : Nat) : Nat := ((List.range (n + 1)).filter fun i => s.available i).getLastD 0

/-- R363: TARGET of a class in Flight 0's entry. -/
def State.target (s : State) (c : Nat) : Nat := match s.flight 0 with | some f => f.target.getD c 0 | none => 0

/-! ### Capture (R366 to R370) -/

/-- R367: the header of the capture area. -/
def State.putHeader (s : State) (vt : Nat) : State :=
  { s with vst := { s.vst with
      cap := s.vst.cap.putAll 548800 (leBytes 4 s.vst.writePos ++ leBytes 4 s.vst.cropSeq ++ leBytes 4 vt) } }

/-- R366, R395, R396, R400, R401: a frame taken: the arrays that run through their paths, the ring's 160 positions and the full-mode blocks. -/
def State.takeFrame (s : State) (vt : Nat) (f : AudioFrame) : State :=
  let s0 := { s with vst := { s.vst with blocks := [] } }
  let s1 := (s0.arrays.filter fun (e : Nat × MicArrayBody) => s0.arrayRuns e.2).foldl (fun (s : State) e => s.takeArray f e) s0
  ({ s1 with vst := { s1.vst with
      writePos := (s.vst.writePos + 160) % posMod, written := min posMod (s.vst.written + 160)
      frameFull := s.vst.micFull } }).putHeader vt

/-- R367: the gap flag of a position still in the ring. -/
def State.gapAt (s : State) (p : Nat) : Bool := bit (s.vst.cap.get (512000 + p % 32000 / 8)).toNat (p % 32000 % 8)

/-- R375: a gap flag lies in a span. -/
def State.spanGap (s : State) (start stop : Nat) : Bool := (List.range (posDiff stop start)).any fun i => s.gapAt ((start + i) % posMod)

/-- R370: bytes of the capture area written to a flight's mirror. -/
def State.mirrorTo (s : State) (f : FlightEntry) (off n : Nat) : State :=
  s.onHall .a fun H =>
    if (H.gal f.gallery).st == .run then H.writeAt (.gal f.gallery) (f.mirrorAddr + off) (s.vst.cap.getAll off n) else H

/-- R370: the flights that run with a mirror. -/
def State.mirrors (s : State) : List FlightEntry :=
  (List.range (s.vst.level + 1)).filterMap fun n =>
    match s.flight n with
    | some f => if n ≠ 0 && f.hall = 0 && s.available n then some f else none
    | none => none

/-- R370: the mirror update after an audio frame: its slots, gap flags and new crops, then the header, then MIRROR_CELL. -/
def State.mirrorUpdate (s : State) : State :=
  let w := s.vst.writePos
  let slot := posDiff w 160 % 32000
  let fresh := (List.range (min 8 (s.vst.cropSeq - s.vst.mirrored))).map fun i => (s.vst.cropSeq - 1 - i) % 8
  let s1 := s.mirrors.foldl (fun (s : State) f =>
    let s1 := (s.mirrorTo f (16 * slot) 2560).mirrorTo f (512000 + slot / 8) 20
    let s2 := fresh.foldl (fun (s : State) k => s.mirrorTo f (516032 + 4096 * k) 4096) s1
    (s2.mirrorTo f 548800 64).onHall .a fun H => (H.signal 0 f.mirrorCell 1).after 0) s
  { s1 with vst := { s1.vst with mirrored := s1.vst.cropSeq } }

/-! ### Presence (R368, R373, R443) -/

/-- R443: Hall A's image has a PRESENCE entry. -/
def State.hasPresence (s : State) : Bool :=
  match s.a.image with
  | none => false
  | some im => im.sensors.any fun (e : SensorEntry) => match e.body with | .presence _ => true | _ => false

/-- R443: CSI_RX_PRESENCE counts. -/
def State.countPresence (s : State) (accepted : Bool) : State :=
  s.onHall .a fun H =>
    { H with cam :=
        if accepted then { H.cam with presAccepted := inc16 H.cam.presAccepted }
        else { H.cam with presDiscarded := inc16 H.cam.presDiscarded } }

/-- R368: a crop written. -/
def State.crop (s : State) (box : Nat × Nat × Nat × Nat) (luma : List Byte) : State :=
  let bs := (List.range 4096).map fun i => Config.cropPixel box (i / 64) (i % 64) luma
  { s with vst := { s.vst with
      cap := s.vst.cap.putAll (516032 + 4096 * (s.vst.cropSeq % 8)) bs, cropSeq := (s.vst.cropSeq + 1) % 2 ^ 32 } }

/-- R368, R373, R382, R443: a presence frame. -/
def State.presenceFrame (s : State) (vt : Nat) (f : PresenceFrame) : State :=
  if s.por || !s.hasPresence then s
  else
    let early := match s.vst.presVt with | some t => !(vtPassed t vt 400) | none => false
    if f.faulty || early then s.countPresence false
    else
      let s1 := s.countPresence true
      let s2 := { s1 with vst := { s1.vst with presVt := some vt } }
      match s.flight 0 with
      | none => s2
      | some fl =>
        if !(s.available 0) then s2
        else
          let s3 := match f.box with
            | some b => s2.crop b f.luma
            | none => s2
          let hit := decide (fl.wakeThresh.getD 12 0 ≤ f.score)
          let n := if hit then s3.vst.presence + 1 else 0
          let wake := decide (fl.presenceFrames ≤ n)
          let box := match f.box with | some (y0, x0, y1, x1) => [y0, x0, y1, x1] | none => []
          let held := match s.flight s.vst.level with
            | some g => decide (g.holdThresh ≤ f.score) && decide (s.vst.level ≤ s.target 12)
            | none => false
          { s3 with vst := { s3.vst with
              presence := if wake then 0 else n
              scores := modAt s3.vst.scores 12 fun _ => f.score
              idleVt := if held then vt else s3.vst.idleVt
              presWake := if wake then some ⟨f.score, f.box.map fun _ => s2.vst.cropSeq, box⟩ else s3.vst.presWake } }

/-! ### Candidates (R372, R374) -/

/-- R372: what a frame makes of a class: whether a candidate stays open, and the candidate that woke. -/
structure ClassFrame where
  cand : Option Candidate
  woke : Option Candidate
  rejected : Bool
  deriving DecidableEq, Repr

/-- R372: a candidate that is to be rejected. -/
def Candidate.exceeds (c : Candidate) : Bool := decide (c.maxMs ≤ 10 * c.frames) || (decide (0 < c.low) && decide (c.closeMs ≤ 10 * c.low))

/-- R372, R374: a frame of a class; `score` is none in a frame with a gap flag. -/
def classFrame (old : Option Candidate) (fresh : Candidate) (openAt : Nat) (score : Option Nat) : ClassFrame :=
  let cand := match old, score with
    | some c, _ => some c
    | none, some v => if openAt ≤ v then some fresh else none
    | none, none => none
  match cand with
  | none => ⟨none, none, false⟩
  | some c =>
    let c1 := { c with
      frames := c.frames + 1
      low := match score with | some v => if v < c.closeAt then c.low + 1 else 0 | none => c.low }
    if (match score with | some v => decide (c.wakeAt ≤ v) | none => false) then ⟨none, some c1, false⟩
    else if c1.exceeds then ⟨none, none, true⟩
    else ⟨some c1, none, false⟩

/-- R372: a candidate of class c that opens in the frame whose end is the present WRITE_POS. -/
def State.newCandidate (s : State) (fl : FlightEntry) (c : Nat) : Candidate :=
  let start := posDiff s.vst.writePos 160
  let pre := 16 * fl.prerollMs
  { cls := c, start := if s.vst.written < pre + 160 then 0 else posDiff start pre, frames := 0, low := 0
    deferred := s.vst.deferred.isSome, wakeAt := fl.wakeThresh.getD c 0, closeAt := fl.closeThresh, closeMs := fl.closeMs
    maxMs := fl.maxCandMs, target := fl.target.getD c 0 }

/-- R371 step 2: Flight 0 scores a frame and updates the candidates of classes 0 to 11. The answer lists the candidates that woke. -/
def State.scoreFrame (s : State) (f : AudioFrame) (vt : Nat) : State × List Candidate :=
  match s.flight 0 with
  | none => (s, [])
  | some fl =>
    if !(s.available 0) then (s, [])
    else
      let w := s.vst.writePos
      let gap := s.spanGap (posDiff w 160) w
      (List.range 12).foldl (fun (a : State × List Candidate) c =>
        let s := a.1
        let old := s.vst.cands.find? fun (x : Candidate) => x.cls == c
        if s.target c = 0 && old.isNone then
          (if gap then s else { s with vst := { s.vst with scores := modAt s.vst.scores c fun _ => f.scores.getD c 0 } }, a.2)
        else
          let v := f.scores.getD c 0
          let r := classFrame old (s.newCandidate fl c) fl.openThresh (if gap then none else some v)
          let held := !gap && match s.flight s.vst.level with
            | some g => decide (g.holdThresh ≤ v) && decide (s.vst.level ≤ s.target c)
            | none => false
          let rest := s.vst.cands.filter fun (x : Candidate) => x.cls != c
          ({ s with vst := { s.vst with
              cands := match r.cand with | some x => rest ++ [x] | none => rest
              scores := if gap then s.vst.scores else modAt s.vst.scores c fun _ => v
              idleVt := if held then vt else s.vst.idleVt
              wakes := if r.woke.isSome then inc16 s.vst.wakes else s.vst.wakes
              rejects := if r.rejected then inc16 s.vst.rejects else s.vst.rejects } },
            match r.woke with | some x => a.2 ++ [x] | none => a.2)) (s, [])

/-- R372: class c's candidate is rejected once its condition holds. -/
def State.candidateReject (s : State) (c : Nat) : State :=
  if s.vst.cands.any fun (x : Candidate) => x.cls == c && x.exceeds then
    { s with vst := { s.vst with cands := s.vst.cands.filter (fun (x : Candidate) => x.cls != c), rejects := inc16 s.vst.rejects } }
  else s

/-! ### Landings (R375, R376, R378) -/

/-- R375: a landing from Flight 0. -/
def State.landing (s : State) (dest cls lflags score vt start stop crop : Nat) (box : List Nat) : List Byte :=
  leBytes 4 s.vst.lseq ++ leBytes 1 0 ++ leBytes 1 dest ++ leBytes 1 cls ++ leBytes 1 lflags ++ leBytes 2 score ++ leBytes 2 0
    ++ leBytes 4 vt ++ leBytes 4 start ++ leBytes 4 stop ++ leBytes 4 s.pkg.active.toNat ++ leBytes 4 crop
    ++ (List.range 4).flatMap (fun i => leBytes 1 (box.getD i 0)) ++ List.replicate 28 0
    ++ s.vst.scores.flatMap (leBytes 2) ++ List.replicate 32 0

/-- R375, R377: LSEQ counts. -/
def State.nextLseq (s : State) : State :=
  { s with vst := { s.vst with lastLseq := s.vst.lseq, lseq := (s.vst.lseq + 1) % 2 ^ 32 } }

/-- LANDING_DROPS counts. -/
def State.dropLanding (s : State) : State := { s with vst := { s.vst with drops := inc8 s.vst.drops } }

/-- R376, R467: the LANDING event to a flight's PORT. -/
def State.notifyLanding (s : State) (f : FlightEntry) (r : List Byte) : State :=
  if bit f.fflags 0 then s.event f.port ⟨3, 0, slice r 0 8 ++ slice r 8 2 ++ slice r 12 4, false⟩ else s

/-- R378: the window of Hall B declared for Flight 2's and Flight 3's partitions that holds LANDING_CELL. -/
def State.landingWindow (s : State) (f : FlightEntry) : Option (Nat × Nat) :=
  match s.a.image, s.flight 2 with
  | some im, some f2 =>
    (im.windows.find? fun (w : WindowEntry) =>
      w.hall == 1 && ((w.partX == f2.part && w.partY == f.part) || (w.partX == f.part && w.partY == f2.part))
        && decide (w.syncBase ≤ f.landingCell) && decide (f.landingCell < w.syncBase + w.syncCount)).map fun w => (w.window, f2.part)
  | _, _ => none

/-- R376, R378: flight f takes a landing: its cell holds fewer than 8. -/
def State.takesLanding (s : State) (f : FlightEntry) : Bool :=
  if f.hall = 0 then decide (s.a.cell f.landingCell < 8) && (s.a.gal f.gallery).st == .run
  else (s.landingWindow f).isSome && decide (s.vst.farHeld < 8)

/-- R376, R378: a landing delivered to flight f: written and signalled, or dropped where the cell holds 8. -/
def State.deliver (s : State) (f : FlightEntry) (r : List Byte) : State :=
  let off := f.landingAddr + 128 * (le (slice r 0 4) % 8)
  if !(s.takesLanding f) then s.dropLanding
  else if f.hall = 0 then
    (s.onHall .a fun H => (((H.writeAt (.gal f.gallery) off r).signal 0 f.landingCell 1).after 0)).notifyLanding f r
  else
    match s.landingWindow f with
    | none => s.dropLanding
    | some (w, part) =>
        (({ s with vst := { s.vst with farHeld := s.vst.farHeld + 1 } } : State).onHall .a fun H =>
          (H.sendStair { kind := 1, cls := 2, len := 4, part := part, seq := 0, arg0 := w, arg1 := off, arg2 := 1, data := r }).sendStair
            { kind := 0, cls := 2, len := 0, part := part, seq := 0, arg0 := f.landingCell, arg1 := 1, arg2 := 1, data := [] }).notifyLanding f r

/-- R376: a landing for flight n: delivered where the flight runs, which restarts the idle time, else pending. -/
def State.sendLanding (s : State) (n vt : Nat) (r : List Byte) : State :=
  if n ≤ s.vst.level then
    match s.flight n with
    | some f => if s.takesLanding f then { (s.deliver f r) with vst := { (s.deliver f r).vst with idleVt := vt } } else s.deliver f r
    | none => s.dropLanding
  else if s.vst.pending.length < 16 then { s with vst := { s.vst with pending := s.vst.pending ++ [(n, r)] } }
  else s.dropLanding

/-! ### Verdicts become landings (R371 steps 3 and 4) -/

/-- R375: a WAKE verdict of Flight 0. -/
structure Verdict where
  cls : Nat
  target : Nat
  score : Nat
  start : Nat
  stop : Nat
  deferred : Bool
  crop : Option Nat
  box : List Nat
  deriving DecidableEq, Repr

/-- R365: an escalation that finds no available flight. -/
def State.unavailableDrop (s : State) : State := { s with vst := { s.vst with unavailable := inc8 s.vst.unavailable } }

/-- R375, R379: a verdict's landing formed and sent. The answer gives the flight it goes to, 0 where it is dropped. -/
def State.formLanding (s : State) (vt : Nat) (v : Verdict) : State × Nat :=
  let dest := s.highest v.target
  if dest = 0 then (s.unavailableDrop, 0)
  else
    let fl := b2n (s.spanGap v.start v.stop) + 2 * b2n v.deferred + 4 * b2n v.crop.isSome
    let r := s.landing dest v.cls fl v.score vt v.start v.stop (v.crop.getD 0) v.box
    (s.nextLseq.sendLanding dest vt r, dest)

/-- R373: the verdicts of presence and the wake pins since the last boundary. -/
def State.otherVerdicts (s : State) : List Verdict :=
  let w := s.vst.writePos
  let pres := match s.vst.presWake with
    | some p => if s.target 12 = 0 then [] else [⟨12, s.target 12, p.score, w, w, false, p.crop, p.box⟩]
    | none => []
  let pins := if s.vst.pinWakes.isEmpty || s.target 13 = 0 then [] else [⟨13, s.target 13, Config.pinScore.toNat, w, w, false, none, []⟩]
  pres ++ pins

/-! ### Up records (R377, R378) -/

/-- Bytes put over part of a list. -/
def setBytes (bs : List Byte) (off : Nat) (new : List Byte) : List Byte := bs.take off ++ new ++ bs.drop (off + new.length)

/-- R377: an up record of flight n. The answer gives the flight it escalates to, 0 for none. -/
def State.acceptUp (s : State) (n vt : Nat) (r : List Byte) : State × Nat :=
  let dest := fld r 5 1
  if fld r 4 1 ≠ n || fld r 6 1 ≠ 15 || 3 < dest then ((s.dropLanding).logOther .a 9 n 0xC, 0)
  else
    let r1 := setBytes (setBytes r 0 (leBytes 4 s.vst.lseq)) 12 (leBytes 4 vt)
    let s1 := s.nextLseq
    let s2 := if n = s1.vst.level then { s1 with vst := { s1.vst with idleVt := vt } } else s1
    if dest < n then
      let ripe := match s2.flight s2.vst.level with
        | some f => vtPassed s2.vst.dwellVt vt f.minDwellMs
        | none => false
      (if ripe then { s2 with vst := { s2.vst with descReq := true } } else s2, 0)
    else if dest = n then ({ s2 with vst := { s2.vst with idleVt := vt } }, 0)
    else
      let t := s2.highest dest
      if t = 0 then (s2.unavailableDrop, 0) else (s2.sendLanding t vt (setBytes r1 5 (leBytes 1 t)), t)

/-- R377, R378: the up records signalled since the last boundary; those of a flight in Hall B come over CONTROL. -/
def State.takeUps (s : State) (vt : Nat) : State × Nat :=
  (List.range 4).foldl (fun (a : State × Nat) n =>
    if n = 0 || a.1.vst.level < n then a
    else
      match a.1.flight n with
      | none => a
      | some f =>
        if f.hall = 0 then
          (List.range (a.1.a.cell f.upCell)).foldl (fun (a : State × Nat) _ =>
            let s := a.1
            let k := s.vst.upSeen.getD n 0
            let r := (s.a.gal f.gallery).store.read (f.upAddr + 128 * (k % 8)) 128
            let s1 := s.onHall .a fun H => H.setCell f.upCell (H.cell f.upCell - 1)
            let s2 := { s1 with vst := { s1.vst with upSeen := modAt s1.vst.upSeen n (· + 1) } }
            let b := s2.acceptUp n vt r
            (b.1, max a.2 b.2)) a
        else
          let c := a.1.vst.upFar.foldl (fun (a : State × Nat) r => let b := a.1.acceptUp n vt r; (b.1, max a.2 b.2)) a
          ({ c.1 with vst := { c.1.vst with upFar := [] } }, c.2)) (s, 0)

/-- R24, R376, R378: Hall B's steward reports how many landings its flight has not taken, where that has changed. -/
def Hall.reportLandings (H : Hall) (cell : Nat) : Hall :=
  if H.cell cell = H.stair.landTold then H
  else ({ H with stair := { H.stair with landTold := H.cell cell } } : Hall).tell (.landingsHeld (H.cell cell))

/-- R378: Hall B's steward forwards Flight 3's up records. -/
def State.forwardUps (s : State) : State :=
  match s.flight 3 with
  | none => s
  | some f =>
    if f.hall ≠ 1 || s.vst.level < 3 then s
    else
      (List.range (s.b.cell f.upCell)).foldl (fun (s : State) _ =>
        let k := s.vst.upSeen.getD 3 0
        let r := (s.b.gal f.gallery).store.read (f.upAddr + 128 * (k % 8)) 128
        { (s.onHall .b fun H =>
            (H.setCell f.upCell (H.cell f.upCell - 1)).tell (.upRecord r)) with
          vst := { s.vst with upSeen := modAt s.vst.upSeen 3 (· + 1) } }) (s.onHall .b fun H => H.reportLandings f.landingCell)

/-! ### Entry to a flight (R379 to R381) -/

/-- R381: the session identifier of flight n. -/
def flightSession (n : Nat) : Nat := 262140 + n

/-- R381: flight n's session is being released or still held somewhere. -/
def State.sessionHeld (s : State) (n : Nat) : Bool :=
  (s.a.sec.sessions ++ s.b.sec.sessions).any fun (e : Session) => e.num == flightSession n

/-- R380: the next flight that an escalation to `target` enters from the present level. -/
def State.nextFlight (s : State) (target : Nat) : Option Nat :=
  (List.range (target + 1)).find? fun n => decide (s.vst.level < n) && s.available n

/-- R380 steps 1 and 2: entry to the next flight begins once its power state is reached: its session is opened, and the copies run. -/
def State.flightEntry (s : State) : State :=
  match s.vst.esc with
  | none => s
  | some e =>
    if e.copying then s
    else
      match s.nextFlight e.target with
      | none => { s with vst := { s.vst with esc := none } }
      | some n =>
        match s.flight n with
        | none => s
        | some f =>
          let H := s.hall f.at'
          if s.pkg.state < n || (H.gal f.gallery).st != .run || s.sessionHeld n then s
          else
            let ses : Session := ⟨flightSession n, f.port, f.part, f.tenant, some n, false⟩
            let add := fun (H : Hall) => { H with sec := { H.sec with sessions := H.sec.sessions ++ [ses] } }
            let s1 := s.onHall f.at' add
            let s2 := if (match H.partEntry f.part with | some (p : PartEntry) => p.paired | none => false) && f.hall = 1 then s1.onHall .a add
              else s1
            { s2 with vst := { s2.vst with esc := some { e with entering := n, copying := true } } }

/-- R380 step 5: one class-2 context on each core of CORE_MASK. -/
def Hall.flightContexts (H : Hall) (h : Nat) (f : FlightEntry) (n : Nat) : Hall :=
  match H.sec.models.find? fun (m : Model) => m.num == f.model with
  | none => H
  | some m =>
    let j := ((List.range f.gallery).filter fun g => (H.gal g).partition == some f.part && H.working g).length
    let H1 := ((List.range 12).filter fun c => bit f.coreMask c).foldl (fun (H : Hall) c =>
      match (m.desc j c).orElse fun _ => m.desc 0 c, H.newNumber with
      | some d, some num =>
        let x := { Ctx.fresh num 2 f.part f.tenant { CtxDesc.ofBytes d with gallery := f.gallery } (12 * f.gallery + c) with
          session := some (flightSession n) }
        match H.placeNew h x f.gallery c with
        | some (core, home) =>
          (H.insertCtx { x with core := core, home := home, moved := decide (core ≠ home), fetching := true }).settleCtx h num
        | none => H
      | _, _ => H) H
    H1.settle h

/-- R369, R380 step 3: the Flight 1 stage copied into the gallery. -/
def State.copyStage (s : State) (f : FlightEntry) : State :=
  match s.vst.stage with
  | none => s
  | some (_, l) => l.foldl (fun (s : State) (e : Nat × List Byte) => s.onHall .a fun H => H.writeAt (.gal f.gallery) e.1 e.2) s

/-- R376, R380 step 6: the landings pending for flight n are delivered. -/
def State.deliverPending (s : State) (f : FlightEntry) (n : Nat) : State :=
  let mine := s.vst.pending.filter fun (e : Nat × List Byte) => e.1 == n
  let s1 := { s with vst := { s.vst with pending := s.vst.pending.filter fun (e : Nat × List Byte) => e.1 != n } }
  mine.foldl (fun (s : State) e => s.deliver f e.2) s1

/-- R380 steps 3 to 6: the copies of an entry have ended. -/
def State.entryDone (s : State) (vt : Nat) : State :=
  match s.vst.esc with
  | none => s
  | some e =>
    let n := e.entering
    if !e.copying then s
    else
      match s.flight n with
      | none => { s with vst := { s.vst with esc := none } }
      | some f =>
        if ((s.hall f.at').gal f.gallery).st != .run || ((s.hall f.at').session (flightSession n)).isNone then
          { s with vst := { s.vst with esc := some { e with copying := false } } }
        else
          let s1 := if n = 1 then s.copyStage f else s
          let s2 := if f.hall = 0 then s1.mirrorTo f 0 548864 else s1
          let s3 := s2.onHall f.at' fun H => H.flightContexts f.at'.idx f n
          let s4 := s3.deliverPending f n
          let s5 := { s4 with vst := { s4.vst with
              level := n, dwellVt := vt, idleVt := vt, descReq := false, upSeen := modAt s4.vst.upSeen n fun _ => 0
              esc := if n < e.target then some { e with copying := false } else none } }
          (s5.applyPower none (0, 0) vt).flightEntry

/-- R379: an escalation to flight t, whose power rise records `cause`. -/
def State.escalate (s : State) (t vt : Nat) (cause : Nat × Nat) : State :=
  if t ≤ s.vst.level then s
  else
    let e := match s.vst.esc with
      | some e => { e with target := max e.target t }
      | none => ⟨t, 0, false⟩
    let s1 := { s with vst := { s.vst with esc := some e } }
    (s1.applyPower (some cause) (if cause.1 = 1 then (4, 4) else (5, 5)) vt).flightEntry

/-! ### Descent (R382 to R384) -/

/-- R383: the level falls by one: the flight's contexts end, its session closes, its mirror stops. -/
def State.leaveFlight (s : State) (vt : Nat) : State :=
  let n := s.vst.level
  let release := fun (s : State) (h : HallId) =>
    if ((s.hall h).session (flightSession n)).isSome then s.startRelease h (flightSession n) else s
  let s1 := release (release s .a) .b
  { s1 with vst := { s1.vst with level := n - 1, dwellVt := vt, idleVt := vt, descReq := false, upFar := [], farHeld := 0 } }

/-- R382, R365: the level descends now. -/
def State.descends (s : State) (vt : Nat) : Bool :=
  let n := s.vst.level
  decide (0 < n) && s.vst.esc.isNone &&
    match s.flight n with
    | none => true
    | some f =>
      decide (s.highest 3 < n)
        || (vtPassed s.vst.dwellVt vt f.minDwellMs && (s.vst.descReq || vtPassed s.vst.idleVt vt f.idleMs))

/-- R384: a host's DESCEND acts. -/
def State.hostDescend (s : State) (vt : Nat) : State :=
  if !s.vst.descend then s
  else
    let s1 := { s with vst := { s.vst with descend := false } }
    if s1.vst.level ≤ s1.vst.descendTo then s1
    else
      ((List.range (s1.vst.level - s1.vst.descendTo)).foldl (fun (s : State) _ => s.leaveFlight vt) s1).applyPower none (0, 0) vt

/-! ### Microphone modes (R385, R394, R395) -/

/-- R395: the mode changes at the present boundary. -/
def State.changeMode (s : State) (full : Bool) : State :=
  { s with vst := ({ s.vst with micFull := full, modeChanges := inc16 s.vst.modeChanges }).restartMics }

/-- R362: MIC_MODE of a flight, or the present mode where there is no entry. -/
def State.modeOf (s : State) (n : Nat) : Bool := match s.flight n with | some f => f.micMode == 1 | none => s.vst.micFull

/-- R385: the mode that a change is compared with when it would apply. -/
def State.modeWanted (s : State) : Bool := s.modeOf (match s.vst.esc with | some e => e.target | none => s.vst.level)

/-- R385: a candidate of a class with a non-zero TARGET is open. -/
def State.candOpen (s : State) : Bool := s.vst.cands.any fun (c : Candidate) => c.target != 0

/-- R385: the deferred change applies, or is dropped. -/
def State.endDeferral (s : State) (timedOut : Bool) : State :=
  let s1 := { s with vst := { s.vst with deferred := none } }
  let m := s1.modeWanted
  if m = s1.vst.micFull then s1
  else
    let s2 := s1.changeMode m
    if timedOut then { s2 with vst := { s2.vst with deferTimeouts := inc8 s2.vst.deferTimeouts } } else s2

/-- R385: 1,500 ms have passed since the request of a deferred change. -/
def State.deferLimit (s : State) (vt : Nat) : Bool := match s.vst.deferred with | some t => decide (t + 49152 ≤ vt) | none => false

/-- R385, R394: a boundary's microphone change: a deferred one that applies or is dropped, and a request that applies or is deferred. -/
def State.micStep (s : State) (vt : Nat) : State :=
  match s.flight 0 with
  | none => if s.vst.modeReq = s.vst.micFull || s.a.image.isNone then s else s.changeMode s.vst.modeReq
  | some _ =>
    match s.vst.deferred with
    | some _ => if !s.candOpen then s.endDeferral false else if s.deferLimit vt then s.endDeferral true else s
    | none =>
      if s.modeOf s.vst.level = s.vst.micFull then s
      else if s.candOpen then
        { s with vst := { s.vst with
            deferred := some vt, deferrals := inc8 s.vst.deferrals
            cands := s.vst.cands.map fun (c : Candidate) => { c with deferred := true } } }
      else s.endDeferral false

/-- R382 to R385: one flight's descent with what follows it. -/
def State.descentStep (s : State) (vt : Nat) : State :=
  if s.descends vt then ((s.leaveFlight vt).applyPower none (0, 0) vt).micStep vt else s

/-- R385: the change that has been deferred for 1,500 ms applies. -/
def State.micDeferTimeout (s : State) (vt : Nat) : State := if s.deferLimit vt then s.endDeferral true else s

/-! ### TDM outputs (R404 to R406) -/

/-- R406: a TDM port at a ring-frame boundary: the block taken before plays, and the next is taken. -/
def State.tdmStep (s : State) (b : TdmOutBody) : State :=
  let t := s.vst.tdm.getD b.port ⟨0, 0, 0, 0, false, none, none⟩
  let set := fun (s : State) (t : Tdm) => { s with vst := { s.vst with tdm := modAt s.vst.tdm b.port fun _ => t } }
  if (s.a.gal b.gallery).st != .run then set s { t with running := false, play := none, next := none }
  else
    let t1 := if t.running then { t with play := t.next, pos := if t.next.isSome then s.vst.writePos else t.pos }
      else { t with running := true, k := 0, play := none, next := none }
    if s.a.cell b.cell = 0 then set s { t1 with next := none, underruns := inc16 t1.underruns }
    else
      let blk := (s.a.gal b.gallery).store.read (b.playAddr + t1.k % b.blocks * (1920 * b.slots)) (1920 * b.slots)
      let s1 := s.onHall .a fun H => H.takeCell b.cell 1
      set s1 { t1 with
        next := some blk, k := t1.k + 1
        overruns := if b.blocks ≤ s1.a.cell b.cell then inc16 t1.overruns else t1.overruns }

/-- R406, R351: TDM port 0, then TDM port 1. A port tests its TAKE in the boundary's cycle alone (DEDUCED 309). -/
def State.tdmAll (s : State) : State :=
  match s.a.image with
  | none => s
  | some im =>
    [0, 1].foldl (fun (s : State) (p : Nat) =>
      im.sensors.foldl (fun (s : State) (e : SensorEntry) => match e.body with | .tdmOut b => if b.port = p then s.tdmStep b else s | _ => s) s) s

/-! ### The boundary (R371, R387, R399) -/

/-- R566: what an escalation's rise records: of the verdicts and up records whose targets lie above the level, the lowest source, then the
lowest class or pin. -/
def riseCause (level : Nat) (vs : List (Verdict × Nat)) (pins : List Nat) (up : Nat) : Nat × Nat :=
  let ups := vs.filter fun (v : Verdict × Nat) => decide (level < v.2)
  if ups.any fun (v : Verdict × Nat) => v.1.cls == 13 then (1, pins.foldl min 7)
  else
    match ups.find? fun (v : Verdict × Nat) => decide (v.1.cls < 12) with
    | some v => (2, v.1.cls)
    | none =>
      if ups.any fun (v : Verdict × Nat) => v.1.cls == 12 then (3, 12) else if level < up then (5, 0) else (0, 0)

/-- R371: an audio-frame boundary: the frame that has ended, then the eight steps, the calibrations and the TDM ports. -/
def State.audioBoundary (s : State) (vt : Nat) (f : AudioFrame) : State :=
  if s.por then s
  else
    let s0 := (s.takeFrame vt f).stuckFrame f
    let s1 := { s0 with vst := { s0.vst with cal := s0.vst.calNew, gapFrom := none } }
    let s2 := s1.hostDescend vt
    let level := s2.vst.level
    let r := s2.scoreFrame f vt
    let stop := r.1.vst.writePos
    let vs := (r.2.map fun (c : Candidate) =>
      (⟨c.cls, c.target, f.scores.getD c.cls 0, c.start, stop, c.deferred, none, []⟩ : Verdict)) ++ r.1.otherVerdicts
    let others := r.1.otherVerdicts.length
    let pins := r.1.vst.pinWakes
    let s3 := { r.1 with vst := { r.1.vst with
        presWake := none, pinWakes := [], wakes := min 0xFFFF (r.1.vst.wakes + others) } }
    let l := vs.foldl (fun (a : State × List (Verdict × Nat)) v => let b := a.1.formLanding vt v; (b.1, a.2 ++ [(v, b.2)])) (s3, [])
    let u := l.1.forwardUps.takeUps vt
    let top := l.2.foldl (fun a (v : Verdict × Nat) => max a v.2) u.2
    let s4 := (if level < top then u.1.escalate top vt (riseCause level l.2 pins u.2) else u.1).flightEntry
    let s5 := s4.micStep vt
    let s6 := s5.descentStep vt
    let s7 := if s6.vst.retryEntry && s6.vst.cands.isEmpty then
        { s6 with vst := { s6.vst with retryEntry := false } }.applyPower none (0, 0) vt
      else s6
    s7.tdmAll

end Sys2Proof.Machine
end

