-- ==== Sys2Proof/Machine/Link.lean ====
section
/-! DEFINITION. The Stair (01, R39 to R51): training, the arrival of messages of each kind, the firmware's CONTROL payloads, the heartbeat and
the loss of the partner. -/

namespace Sys2Proof.Machine

/-! ### Training (R50, R51, R63) -/

/-- R50: the largest width for which a contiguous, aligned group of good lanes exists. -/
def laneWidth (good : BitVec 32) : Nat :=
  let group := fun (w i : Nat) => (List.range w).all fun k => good.getLsbD (w * i + k)
  if group 32 0 then 32 else if (List.range 2).any (group 16) then 16 else if (List.range 4).any (group 8) then 8 else 0

/-- R56: the mode of a linked hall whose partner works. -/
def Hall.workMode (H : Hall) : Mode := match H.image with | some im => if im.hasPaired then .paired else .split | none => .single

/-- R87: the hall counts its partner as working: it has an active image and, in Hall A, Hall B has accepted it. -/
def Hall.joins (H : Hall) : Hall :=
  if H.stair.lost || !H.stair.trained || !H.stair.enable || H.image.isNone then H else { H with stair := { H.stair with mode := H.workMode } }

/-- The digest of a hall's active image; empty where there is none. -/
def Hall.imageDigest (H : Hall) : List Byte := match H.image with | some im => im.digest | none => []

/-- R50, R51: one end after training. -/
def Hall.trainedAt (H : Hall) (good : BitVec 32) (tx : Nat) : Hall :=
  let t := H.stair.cleared
  ({ H with stair := { t with
      enable := t.enable || H.image.isNone, trained := true, retrain := false, laneGood := good, lanesRx := laneWidth good, lanesTx := tx } } :
    Hall).sendOn

/-- R51, R56: training may begin at this end: traffic is permitted there, or it has no image yet (R86); its steward has come to the sweep boundary
at which it retrains. -/
def Hall.mayTrain (H : Hall) : Bool := (H.stair.enable || H.image.isNone) && !H.stair.retrain

/-- R100: at Stair training a following hall, and one that has not started, takes the running hall's sweep number. -/
def Hall.takeSweep (H O : Hall) (h : Nat) : Hall :=
  let follows := !H.swp.started || match H.image with | some im => !(im.leads h) | none => true
  if follows && O.swp.started then { H with swp := { H.swp with sweep := O.swp.sweep } } else H

/-- R86, R88: what the stewards send once the Stair is trained: the firmware to a Hall B at its boot ROM, else the digests, and Hall A's image to
a Hall B that has none. -/
def State.afterTraining (s : State) : State :=
  if s.b.dev.stage == .rom then s.onHall .a fun H => H.tell (.firmware H.dev.fwObject)
  else
    let s1 := (s.onHall .a fun H => H.tell (.digestExchange H.imageDigest)).onHall .b fun H => H.tell (.digestExchange H.imageDigest)
    match s1.a.image with
    | some im => if s1.b.image.isNone then s1.onHall .a fun H => H.tell (.bootImage im.bytes) else s1
    | none => s1

/-- R50, R51, R63: Stair training has ended with these good receive lanes. -/
def State.stairTrained (s : State) (goodA goodB : BitVec 32) : State :=
  let linked := match s.a.image with | some im => im.linked | none => false
  let up := s.a.dev.up && s.b.dev.up && s.b.dev.stage != .halted && s.a.pwr.hall == .on && s.b.pwr.hall == .on
  if s.por || !linked || !up || (s.a.stair.trained && s.b.stair.trained) || !s.a.mayTrain || !s.b.mayTrain then s
  else
    let wA := laneWidth goodA
    let wB := laneWidth goodB
    let need := match s.a.image with | some im => im.minWidth | none => 0
    if wA = 0 || wB = 0 then
      let set := fun (g : BitVec 32) (rx tx : Nat) (H : Hall) =>
        { H with stair := { H.stair with laneGood := g, lanesRx := rx, lanesTx := tx, trained := false, retrain := false } }
      (((s.onHall .a (set goodA wA wB)).onHall .b (set goodB wB wA)).losePartner .a).losePartner .b
    else
      let s1 := (s.onHall .a fun H => (H.trainedAt goodA wB).takeSweep s.b 0).onHall .b fun H => (H.trainedAt goodB wA).takeSweep s.a 1
      let narrow := decide (min wA wB < need)
      let s2 := if narrow then (s1.losePartner .a).losePartner .b else s1
      let s3 := s2.afterTraining
      if s3.b.image.isSome then (s3.onHall .a Hall.joins).onHall .b Hall.joins else s3

/-! ### Arrival (R43 to R45, R49) -/

/-- R45, R46: the far end's message, taken out of its pool; the credits return. -/
def State.pop (s : State) (h : HallId) (m : StairMsg) : State :=
  (s.onHall h.other fun H => ({ H with stair := H.stair.taken m } : Hall).sendOn).onHall h fun H => H.count (1536 + 5 + m.kind) 1

/-- R45, R49, R51: hall h receives message m: the Stair is trained, and not lost since; the earlier messages of its kind have arrived. -/
def State.hears (s : State) (h : HallId) (m : StairMsg) : Bool :=
  let t := (s.hall h).stair
  !s.por && (s.hall h).dev.up && t.enable && t.trained && !(t.lost && t.retrain) && !((s.hall h.other).stair.tooEarly m)

/-- R43: a message discarded whole, counted and logged. -/
def Hall.discardMsg (H : Hall) (m : StairMsg) : Hall :=
  ({ H with stair := { H.stair with discards := inc16 H.stair.discards } }.count (1536 + 15) 1).addLog 0x0F01 (32 * min 7 m.kind + m.part) m.seq 0

/-- R40: SEQ `a` was sent no later than SEQ `b`. -/
def seqUpTo (a b : Nat) : Bool := decide ((b + 65536 - a) % 65536 < 32768)

/-- R43, R55: a window of hall h that the partition may write from the other hall. -/
def Hall.rxWindow (H : Hall) (h i part : Nat) : Option WindowEntry :=
  match H.image.bind fun im => im.window h i with
  | some w => if w.kind = 0 && (w.partX == part || w.partY == part) then some w else none
  | none => none

/-- R43: a hall cell declared for signals of a partition of the other hall: of a window of its own, or of a paired partition's range. -/
def Hall.rxCell (H : Hall) (h i part : Nat) : Bool :=
  match H.image with
  | none => false
  | some im =>
    (im.windows.any fun (w : WindowEntry) =>
      w.hall == h && w.kind == 0 && (w.partX == part || w.partY == part) && decide (w.syncBase ≤ i) && decide (i < w.syncBase + w.syncCount))
    || (match im.part part with
        | some e => e.paired && decide ((e.sync h).1 ≤ i) && decide (i < (e.sync h).1 + (e.sync h).2)
        | none => false)

/-- R352: a SYNC takes effect on its cell. -/
def Hall.applySync (H : Hall) (h : Nat) (m : StairMsg) : Hall := ((H.addCell (m.arg0 % 65536) m.arg1).wake wakeFuel h (m.arg0 % 65536)).after h

/-- R45: a SYNC that follows the MOVE of SEQ n has nothing left to wait for. -/
def State.moved (s : State) (h : HallId) (m : StairMsg) (n : Nat) : Bool :=
  !(((s.hall h.other).stair.outbox ++ (s.hall h).stair.moves).any fun (x : StairMsg) => x.kind == 1 && x.part == m.part && seqUpTo x.seq n)

/-- R45: the SYNCs that wait no longer take effect, in the order in which they came. -/
def State.freeSyncs (s : State) (h : HallId) : State :=
  (s.hall h).stair.syncs.foldl (fun (s : State) e =>
    if s.moved h e.1 e.2 then
      s.onHall h fun H => { H with stair := { H.stair with syncs := H.stair.syncs.erase e } }.applySync h.idx e.1
    else s) s

/-- R43, R45, R49: a SYNC arrives. -/
def State.stairSync (s : State) (h : HallId) (m : StairMsg) : State :=
  if !(s.hears h m) then s
  else
    let before := ((s.hall h.other).stair.outbox.takeWhile fun x => x != m).filter fun (x : StairMsg) => x.kind == 1 && x.part == m.part
    let mine := (s.hall h).stair.moves.filter fun (x : StairMsg) => x.part == m.part
    let s1 := s.pop h m
    if (s1.hall h).stair.lost then s1
    else if m.kind ≠ 0 || !((s1.hall h).rxCell h.idx (m.arg0 % 65536) m.part) then s1.onHall h fun H => H.discardMsg m
    else
      let last := if (s.hall h.other).stair.outbox.contains m then before.getLast?.orElse fun _ => mine.getLast? else mine.getLast?
      match last with
      | some x =>
        if bit m.arg2 0 then s1.onHall h fun H => { H with stair := { H.stair with syncs := H.stair.syncs ++ [(m, x.seq)] } }
        else s1.onHall h fun H => H.applySync h.idx m
      | none => s1.onHall h fun H => H.applySync h.idx m

/-- R44: a MOVE's payload written into its window. -/
def Hall.applyMove (H : Hall) (h : Nat) (m : StairMsg) : Hall :=
  match H.rxWindow h (m.arg0 % 65536) m.part with
  | none => H
  | some w => H.writeAt (if w.tier = 0 then .gal w.gallery else .dram) (w.base + m.arg1) m.data

/-- R43 to R45, R49: a MOVE arrives; with LAST, it and the earlier MOVEs to its window become visible. -/
def State.stairMove (s : State) (h : HallId) (m : StairMsg) : State :=
  if !(s.hears h m) then s
  else
    let s1 := s.pop h m
    if (s1.hall h).stair.lost then s1
    else
      match (if m.kind = 1 then (s1.hall h).rxWindow h.idx (m.arg0 % 65536) m.part else none) with
      | none => s1.onHall h fun H => H.discardMsg m
      | some w =>
        if w.size < m.arg1 + m.data.length then s1.onHall h fun H => H.discardMsg m
        else if !(bit m.arg2 0) then s1.onHall h fun H => { H with stair := { H.stair with moves := H.stair.moves ++ [m] } }
        else
          let mine := fun (x : StairMsg) => x.arg0 % 65536 == m.arg0 % 65536
          (s1.onHall h fun H =>
            let H1 := (H.stair.moves.filter mine).foldl (fun (H : Hall) x => H.applyMove h.idx x) H
            ({ H1 with stair := { H1.stair with moves := H1.stair.moves.filter fun x => !(mine x) } }).applyMove h.idx m).freeSyncs h

/-- R43, R96, R121: a COMPARE fragment of a mark declared in the sweep that it names arrives; with the last one the mark is judged where
this hall's copy is held. -/
def State.stairCompare (s : State) (h : HallId) (m : StairMsg) : State :=
  if !(s.hears h m) then s
  else
    let s1 := s.pop h m
    let H := s1.hall h
    let mark := m.arg0 % 65536
    let declared := match H.imageIn m.arg1, H.tableIn m.part m.arg1 with
      | some im, some t => im.marks.any fun (e : MarkEntry) => e.table == t.table && e.mark == mark
      | _, _ => false
    if H.stair.lost then s1
    else if m.kind ≠ 2 || !declared then s1.onHall h fun H => H.discardMsg m
    else
      s1.onHall h fun H =>
        ((H.onMark m.part mark m.arg1 fun x =>
          { x with far := x.far ++ [(m.arg2 % 65536, m.data)], farDone := x.farDone || bit m.arg2 16 }).tryJudge h.idx m.part mark m.arg1).after h.idx

/-! ### CONTROL (R41, R46) -/

/-- R41: a fragment joined: the payload in progress, and whether it is complete. -/
def joinControl (old : Option (Nat × Nat × List Byte)) (m : StairMsg) : Option (Nat × Nat × List Byte) × Bool :=
  let op := m.arg0 % 65536
  let cur := match old with
    | some (o, t, bs) => if o = op && t = m.arg1 then bs else []
    | none => []
  let base : Option (List Byte) := if m.arg2 = cur.length then some cur else if m.arg2 = 0 then some [] else none
  match base with
  | none => (none, false)
  | some b =>
    let bs := b ++ m.data.take (m.arg1 - b.length)
    if m.arg1 ≤ bs.length then (none, true) else (some (op, m.arg1, bs), false)

/-- R86, R617: what Hall A's steward sends next once Hall B's firmware runs. -/
def State.afterFirmware (s : State) : State :=
  if s.b.dev.stage == .rom || s.b.dev.stage == .halted then s
  else
    match s.a.image with
    | some im => s.onHall .a fun H => (H.tell (.digestExchange im.digest)).tell (.bootImage im.bytes)
    | none => s

/-- R41: what a completed payload does in hall h. -/
def State.control (s : State) (h : HallId) (c : ControlMsg) (vt : Nat) : State :=
  match c with
  | .firmware obj => (s.firmwareArrives h obj).afterFirmware
  | .bootImage bs => if h == .b && s.b.image.isNone then s.takeImage .b 4 bs else s
  | .imageAccepted =>
    let s1 := s.onHall h fun H => { H with stair := { H.stair with farAccepted := true } }
    (s1.onHall h Hall.joins).onHall h.other Hall.joins
  | .imageRefused => if h == .a then s.acceptFailed else s
  | .digestExchange d => s.digestArrives h d
  | .imageRequest => match (s.hall h).image with | some im => s.onHall h fun H => H.tell (.activeImage im.bytes) | none => s
  | .activeImage bs => s.activeArrives h bs
  | .stagedImage bs => s.stageImage h bs true
  | .stagedVerified d fits => s.onHall h fun H => { H with dev := { H.dev with farVerified := some (d, fits) } }
  | .schedule n => s.scheduleArrives h n
  | .withdraw n => s.withdrawn h n
  | .scheduleAck n => s.onHall h fun H => if H.dev.actSweep = n then { H with dev := { H.dev with ackBy := none } } else H
  | .capsule p bs => s.runForwarded h p bs
  | .capsuleAnswer p tag status pl => s.endForwarded p tag status pl
  | .upRecord r => if h == .a then { s with vst := { s.vst with upFar := s.vst.upFar ++ [r] } } else s
  | .landingsHeld n => if h == .a then { s with vst := { s.vst with farHeld := n } } else s
  | .powerRequest i v cfg =>
    if h == .a then
      ({ s with pkg := { s.pkg with farReqs := modAt s.pkg.farReqs i fun _ => (v, cfg) } }).applyPower (some (4, i)) (0, 0) vt
    else s
  | .readmitConfirm => s.onHall h fun H => { H with swp := { H.swp with readmitOk := true } }
  | .other => s

/-- R41, R45: a CONTROL message arrives; `means` is what the firmware reads in the payload that it completes. -/
def State.stairControl (s : State) (h : HallId) (m : StairMsg) (means : ControlMsg) : State :=
  if !(s.hears h m) then s
  else
    let s1 := s.pop h m
    if m.kind ≠ 3 then s1.onHall h fun H => H.discardMsg m
    else
      let j := joinControl (s1.hall h).stair.control m
      let s2 := s1.onHall h fun H => { H with stair := { H.stair with control := j.1 } }
      if !j.2 then s2
      else
        (s2.onHall h.other fun H => { H with stair := { H.stair with ctlOut := H.stair.ctlOut.erase means } }).control h means s2.pkg.now

/-! ### The heartbeat (R49) -/

/-- R41, R49: the BEAT that a hall sends now. -/
def Hall.beatMsg (H : Hall) : StairMsg :=
  { kind := 4, cls := 0, len := 0, part := 31, seq := 0, arg0 := H.swp.sweep, arg1 := H.swp.tick + 4096 * H.stair.mode.code
    arg2 := H.swp.pv % 2 ^ 25 + 2 ^ 25 * H.swp.lock.code + 2 ^ 28 * b2n H.swp.started, data := [] }

/-- R49: a BEAT is sent while the Stair is enabled and trained. -/
def State.beatSend (s : State) (h : HallId) : State :=
  let H := s.hall h
  if !s.por && H.dev.up && H.stair.enable && H.stair.trained then s.onHall h fun H => (H.sendStair H.beatMsg).refillControl else s

/-- R49, R100: a BEAT arrives at timebase tb. -/
def State.stairBeat (s : State) (h : HallId) (m : StairMsg) (tb : Nat) : State :=
  if !(s.hears h m) then s
  else
    let s1 := s.pop h m
    if m.kind ≠ 4 then s1.onHall h fun H => H.discardMsg m
    else
      let tick := m.arg1 % 4096
      let pv := m.arg2 % 2 ^ 25
      let lock := bits m.arg2 25 3
      let began := bit m.arg2 28
      let s2 := s1.onHall h fun H =>
        if H.stair.lost || H.image.isNone then H else { H with stair := { H.stair with alive := true } }
      (s2.beatTime h m.arg0 tick pv lock began tb).onHall h fun H =>
        { H with stair := { H.stair with beat := some (m.arg0, tick, pv, lock, began) } }

/-- R49: no BEAT has come for BEAT_MISS_LIMIT periods. -/
def State.missBeats (s : State) (h : HallId) : State :=
  let H := s.hall h
  if !s.por && H.dev.up && H.stair.enable && H.stair.trained then s.losePartner h else s

end Sys2Proof.Machine
end

