-- ==== Sys2Proof/Machine/Integrity.lean ====
section
/-! DEFINITION. Integrity (16, R522 to R549; 10, R331, R333; 17, R570): correctable errors and their log, uncorrectable errors and the resets
that they bring, the scrubber, the fault pins, the memory's temperature and tracking. -/

namespace Sys2Proof.Machine

/-- A hall whose steward runs. -/
def State.hallUp (s : State) (h : HallId) : Bool := !s.por && (s.hall h).dev.up

/-! ### Correctable errors (R525 to R528) -/

/-- R527: the order in which new addresses of one cycle take free entries. -/
def ceKey (x : CeHit) : Nat := (x.place * 2 ^ 16 + x.unit) * 2 ^ 40 + x.addr

/-- R527: an entry of the address log names the error's place, unit and address. -/
def CeEntry.names (e : CeEntry) (x : CeHit) : Bool := e.valid && e.place == x.place && e.unit == x.unit && e.addr == x.addr

/-- R527: the address log takes an error. -/
def Err.logCe (e : Err) (x : CeHit) (sweep : Nat) : Err :=
  match e.ceLog.findIdx? fun (c : CeEntry) => c.names x with
  | some i =>
    { e with ceLog := modAt e.ceLog i fun (c : CeEntry) => { c with count := inc8 c.count, symbol := x.symbol, lastSweep := sweep } }
  | none =>
    match e.ceLog.findIdx? fun (c : CeEntry) => !c.valid with
    | some i => { e with ceLog := modAt e.ceLog i fun _ => ⟨true, x.place, x.unit, 1, x.symbol, x.addr, sweep, sweep⟩ }
    | none => { e with ceLost := inc8 e.ceLost }

/-- R577: the gallery whose SRAM an error lies in. -/
def ceGallery (x : CeHit) : Option Nat :=
  if x.place < 3 then some (galOf x.unit) else if x.place = 3 then some x.unit else none

/-- R526, R527: one correctable error. -/
def Hall.correctable (H : Hall) (x : CeHit) : Hall :=
  if x.place = 9 then { H with stair := { H.stair with flitCorr := inc32 H.stair.flitCorr } }.count (1536 + 16) 1
  else
    let H1 := { H with err := { H.err with ce := modAt H.err.ce x.place inc32 }.logCe x H.swp.sweep }
    match ceGallery x with
    | some g => if g < 8 then H1.count (1152 + 16 * g + 9) 1 else H1
    | none => H1

/-- R525 to R528: the correctable errors of one cycle. -/
def State.correctableError (s : State) (h : HallId) (hits : List CeHit) : State :=
  if !(s.hallUp h) then s
  else
    let order := (sortKeys (hits.map fun x => (ceKey x, x))).map fun (e : Nat × CeHit) => e.2
    s.onHall h fun H => order.foldl (fun (H : Hall) x => H.correctable x) H

/-! ### Uncorrectable errors (R529 to R533) -/

/-- R529, R549, R602: an uncorrectable error counted and logged. -/
def Hall.noteUe (H : Hall) (place unit : Nat) : Hall :=
  ({ H with err := { H.err with ue := tset H.err.ue place (inc8 (tget H.err.ue place)) } }).addLog 0x0401 place unit 0

/-- R529, R427: a line lost in a line buffer: PAD takes its place, and its frame carries LB_OVERFLOW. -/
def RxFrame.loseLine (f : RxFrame) (line : Nat) : RxFrame := { f with lines := modAt f.lines line fun _ => [], flags := f.flags ||| 2 ^ 8 }

/-- A frame that holds a line. -/
def RxFrame.holds (f : RxFrame) (line : Nat) : Bool := !((f.lines.getD line []).isEmpty)

/-- R529: an uncorrectable error in a line buffer of ISP context n: the oldest frame that holds the line loses it. -/
def Hall.ispLineLost (H : Hall) (h n line : Nat) : Hall :=
  let exceeds := fun (f : RxFrame) (H : Hall) =>
    if bit f.flags 8 then H else H.onIsp n fun (x : IspCtx) => { x with lbOverflow := inc8 x.lbOverflow }
  match (H.isp n).frames.findIdx? fun (f : RxFrame) => f.holds line with
  | some i =>
    match (H.isp n).frames[i]? with
    | some f => exceeds f (H.onIsp n fun (x : IspCtx) => { x with frames := modAt x.frames i fun (f : RxFrame) => f.loseLine line })
    | none => H
  | none =>
    match H.cam.cameras.find? fun (c : Camera) =>
      (match H.camEntry h c.id with | some (_, p) => p.ctx == n | none => false)
        && (match c.cur with | some f => f.holds line | none => false) with
    | some c =>
      match c.cur with
      | some f => exceeds f (H.onOpen c.id fun (f : RxFrame) => f.loseLine line)
      | none => H
    | none => H

/-- R529: an uncorrectable word of the capture area: samples read zero with their gap flags set, a gap-flag word reads as all flags set. -/
def State.captureLost (s : State) (addr : Nat) : State :=
  let w := addr / 32 * 32
  let cap := s.vst.cap
  if w < 512000 then
    let c1 := cap.putAll w (List.replicate 32 0)
    let c2 := ([w / 16, w / 16 + 1] : List Nat).foldl (fun (m : Memory) slot =>
      m.put (512000 + slot / 8) (m.get (512000 + slot / 8) ||| BitVec.ofNat 8 (2 ^ (slot % 8)))) c1
    { s with vst := { s.vst with cap := c2 } }
  else if w < 516000 then { s with vst := { s.vst with cap := cap.putAll w (List.replicate 32 0xFF) } }
  else
    { s with
      vst := { s.vst with cap := cap.putAll w ((List.range 32).map fun i => Config.lostCapture s.free (w + i)) }
      free := s.free + 1 }

/-- R529, R530: the Vestibule resets: Flight 0 and the ring restart at level 0. A hall that is not in HALL or PAIR keeps no copy of its part of the
epoch table. -/
def State.vestReset (s : State) : State :=
  let s1 := (List.range s.vst.level).foldl (fun (s : State) _ => s.leaveFlight s.pkg.now) s
  let down := fun (h : HallId) => (s1.hall h).pwr.hall != .on
  let s2 := { s1 with
    vst := { Vst.reset with fresh := ([.a, .b] : List HallId).map fun (h : HallId) => s1.vst.fresh.getD h.idx false || down h }
    epochs := s1.epochs.filter fun (e : Epochs) => !(down (HallId.ofIdx e.hall)) }
  let s3 := match s2.a.image with
    | some im => let s' := s2.loadVestibule im; { s' with pkg := { s2.pkg with wakeEn := s'.pkg.wakeEn } }
    | none => { s2 with pkg := { s2.pkg with wakeEn := 0 } }
  let s4 := { s3 with pkg := { s3.pkg with
    stuck := 0, active := 0, times := List.replicate 8 [], inactive := List.replicate 8 0, lastWake := (0, 0, 0), lastWakeVt := 0 } }
  s4.applyPower none (0, 0) s4.pkg.now

/-- R530: a hall that slept through a reset of the Vestibule resets, as at cold power-on, once it has woken. -/
def State.coldWake (s old : State) : State :=
  ([.a, .b] : List HallId).foldl (fun (s : State) h =>
    if s.vst.fresh.getD h.idx false && (s.hall h).dev.up && (s.hall h).pwr.hall != (old.hall h).pwr.hall then
      ({ s with vst := { s.vst with fresh := modAt s.vst.fresh h.idx fun _ => false } }).hallReset h 0 true
    else s) s

/-- R533: the command whose publication reads the commit-buffer word. -/
def Hall.publisher (H : Hall) (c addr : Nat) : Option (Ctx × Cmd) :=
  H.ctxs.findSome? fun x =>
    if x.core ≠ c then none
    else (x.cmds.find? fun (k : Cmd) =>
      let r := regionOf k.desc
      k.stage == .publishing && k.poisoned.isNone && decide (32 * r.1 ≤ addr) && decide (addr < 32 * (r.1 + r.2))).map fun k => (x, k)

/-- R529, R533: an uncorrectable word of a commit buffer: a publication that reads it writes POISON and completes before the core resets. -/
def State.commitBufferError (s : State) (h : HallId) (c addr cyc : Nat) : State :=
  let s1 := s.onHall h fun H => H.noteUe 2 c
  match (s1.hall h).publisher c addr with
  | some (x, k) => s1.onHall h fun H => H.onCtx x.num fun y => y.onCmd k.pos fun j => { j with poisoned := some addr }
  | none => s1.coreResetDue h c cyc

/-- R529: an uncorrectable error at a place of hall h resets the smallest domain that encloses it. -/
def State.uncorrectable (s : State) (h : HallId) (place : UePlace) (cyc : Nat) : State :=
  let lives := fun (g : Nat) => decide (g < 8) && ((s.hall h).gal g).st != .off
  match place with
  | .vestCapture addr => if s.por then s else (s.onHall .a fun H => H.noteUe 6 0).captureLost addr
  | .vestOther => if s.por then s else (s.onHall .a fun H => H.noteUe 6 0).vestReset
  | .operandStore c _ => if s.hallUp h && lives (galOf c) then (s.onHall h fun H => H.noteUe 0 c).coreResetDue h c cyc else s
  | .commitBuffer c addr => if s.hallUp h && lives (galOf c) then s.commitBufferError h c addr cyc else s
  | .galleryStore g _ => if s.hallUp h && lives g then (s.onHall h fun H => H.noteUe 3 g).galleryReset h g cyc else s
  | .ispLine n line => if s.hallUp h then s.onHall h fun H => (H.noteUe 4 n).ispLineLost h.idx n line else s
  | .ispParam n => if s.hallUp h then s.onHall h fun H => (H.noteUe 4 n).onIsp n fun (x : IspCtx) => { x with active := none } else s
  | .steward => if s.por then s else s.resetFor h 2
  | .corridor _ _ => if s.por then s else s.resetFor h 4
  | .dram _ => if s.por then s else s.resetFor h 3
  | .stair => if s.por then s else s.resetFor h 5

/-- R529, R154, R173: an uncorrectable error in a weight bank or, to the same effect, in its sidecar. -/
def State.weightBankUe (s : State) (h : HallId) (c b : Nat) (_sidecar : Bool) (cyc : Nat) : State :=
  if s.hallUp h && decide (c < 96) && decide (b < 16) && ((s.hall h).gal (galOf c)).st != .off then
    (s.onHall h fun H => H.noteUe 1 c).bankError h c b cyc
  else s

/-- R531: a core or gallery is released after its reset: it waits to rejoin, or after a failed march test stays fenced at three strikes. -/
def Hall.domainRelease (H : Hall) (g : Nat) (core : Option Nat) (passed : Bool) : Hall :=
  H.onGal g fun G =>
    match core with
    | some c =>
      if G.galResetting || !(G.resetting.getLsbD c) then G
      else
        let one := BitVec.ofNat 12 (2 ^ c)
        if passed then { G with resetting := G.resetting &&& ~~~one, rejoin := G.rejoin ||| one }
        else { G with resetting := G.resetting &&& ~~~one, strikes := modAt G.strikes c fun _ => 3 }
    | none =>
      if !G.galResetting then G
      else if passed then { G with galResetting := false, rejoin := 0xFFF }
      else { G with galResetting := false, strikes := modAt G.strikes 0 fun _ => 3 }

/-! ### Scrubbing (R537 to R540) -/

/-- R538: the SRAM words of the walker's round: of the galleries in RUN, of steward memory, and of the line buffers while the ISP runs. -/
def Hall.roundWords (H : Hall) : Nat :=
  694272 * (H.gals.filter fun (G : Gallery) => G.st == .run).length + 65536 + (if H.pwr.hall == .on then 262144 else 0)

/-- R538: the walker reads a word of SRAM, or repairs a line of DRAM. -/
def State.walkerStep (s : State) (h : HallId) (found : ScrubFind) : State :=
  if !(s.hallUp h) || (s.hall h).err.scrubMode ≠ 1 then s
  else
    let dram : Bool := match found with | .corrected x => x.place == 8 | _ => false
    let s1 := match found with | .corrected x => s.correctableError h [x] | _ => s
    if dram then s1
    else s1.onHall h fun H =>
      if H.roundWords ≤ H.err.walk + 1 then { H with err := { H.err with walk := 0, rounds := inc16 H.err.rounds } }
      else { H with err := { H.err with walk := H.err.walk + 1 } }

/-- R539: the pass in progress ends: its summary is written, and the next one runs. -/
def Hall.passEnd (H : Hall) (read corrected marked : Nat) (cut : Bool) : Hall :=
  match H.err.passes with
  | [] => H
  | _ :: rest =>
    let ps := if rest.isEmpty && H.err.scrubMode = 2 then [Pass.own] else rest
    { H with err := { H.err with
        passes := ps, passBusy := !ps.isEmpty, passGo := ps.any fun (p : Pass) => p.host, sumRead := read % 2 ^ 32
        sumCorr := min 0xFFFF corrected, sumMark := min 0xFF marked, sumCut := cut } }

/-- R539: ERR_PASS_CTL.GO queues a pass over the range that its registers name. -/
def Hall.passQueue (H : Hall) : Hall :=
  let p : Pass := ⟨H.err.passPlace, H.err.passUnit, H.err.passBase, max 1 H.err.passLen, true⟩
  { H with err := { H.err with passes := H.err.passes ++ [p], passBusy := true, passGo := true } }

/-! ### Pins, memory temperature, watchdog -/

/-- R541, R543: the pin's hold has ended: it is released where no unmasked cause is left. -/
def State.pinHoldEnd (s : State) (h : HallId) : State :=
  if s.hallUp h && (s.hall h).err.pin && !((s.hall h).asserting h.idx) then s.setPin h false else s

/-- R330, R333, R570: an MR4 read of a working channel. -/
def State.mr4Read (s : State) (h : HallId) (channel : Nat) (hot : Bool) : State :=
  let H := s.hall h
  if !(s.hallUp h) || !H.mem.trained || H.mem.selfRefresh || !(H.mem.chanGood.getLsbD channel) then s
  else
    s.onHall h fun H =>
      let one := BitVec.ofNat 32 (2 ^ channel)
      ({ H with mem := { H.mem with
          mr4Hot := if hot then inc8 H.mem.mr4Hot else H.mem.mr4Hot
          hotChannels := if hot then H.mem.hotChannels ||| one else H.mem.hotChannels &&& ~~~one } }).opSettle

/-- R331: a DQS tracking pass. -/
def State.dqsTracking (s : State) (h : HallId) : State :=
  let H := s.hall h
  if !(s.hallUp h) || !H.mem.trained || H.mem.selfRefresh then s
  else s.onHall h fun H => { H with mem := { H.mem with tracked := H.mem.tracked + 1 } }

end Sys2Proof.Machine
end

