-- ==== Sys2Proof/Machine/Regs.lean ====
section
/-! DEFINITION. The register space (19, R588 to R603, and the register tables of every chapter): what each register reads as, and which fields
are guarded. -/

namespace Sys2Proof.Machine

/-! ### Addresses (R588 to R590) -/

/-- The index of an element of a register table: `count` registers `stride` bytes apart from `base`. -/
def inTable (o base stride count : Nat) : Option Nat :=
  if base ≤ o && (o - base) % stride == 0 && decide ((o - base) / stride < count) then some ((o - base) / stride) else none

/-- R589: the index of the block at bits 23:16 of a hall offset. -/
def blockIndex (blk : Nat) : Option Nat :=
  if blk < 14 then some blk
  else if 0x10 ≤ blk && blk < 0x18 then some 14
  else if blk = 0x20 then some 15
  else none

/-- The package address of offset o of a block in a hall. -/
def regAddr (h : HallId) (blk o : Nat) : Nat := h.idx * 0x1000000 + blk * 0x10000 + o

/-- The 32-bit word at offset 4n of a byte list. -/
def wordAt (bs : List Byte) (n : Nat) : Nat := fld bs (4 * n) 4

/-! ### What the registers read as -/

/-- R600: word w of the log entry at place n. -/
def Hall.logWord (H : Hall) (n w : Nat) : Nat :=
  match H.dev.log.find? fun (e : LogEntry) => e.seq % 256 == n with
  | none => 0
  | some e =>
    match w with
    | 0 => e.seq
    | 1 => e.sweep
    | 2 => e.tick % 4096 * 65536 + e.code
    | _ => e.arg * 65536 + e.unit * 256 + e.port

/-- R622: DEV_BOOT.STAGE as coded. -/
def BootStage.code : BootStage → Nat
  | .rom => 0
  | .firmware => 1
  | .dramTrain => 2
  | .fill => 3
  | .image => 4
  | .waitReference => 5
  | .running => 6
  | .halted => 7

/-- R97, R600, R603, R622: the DEV block, as host port p reads it. -/
def State.devReg (s : State) (h : HallId) (p o : Nat) : Option Nat :=
  let H := s.hall h
  let d := H.dev
  let st := s.straps
  match inTable o 0x1000 4 1024, inTable o 0x120 4 12, inTable o 0x150 4 12 with
  | some i, _, _ => some (H.logWord (i / 4) (i % 4))
  | _, some i, _ => some (match d.image with | some im => wordAt im.digest i | none => 0)
  | _, _, some i => some (match d.image with | some im => wordAt im.sdigest i | none => 0)
  | _, _, _ =>
    match o with
    | 0x00 => some 0x296002C5
    | 0x04 => some (h.idx * 256 + stepping)
    | 0x08 => some (d.fwVersion.1 * 2 ^ 24 + d.fwVersion.2.1 * 2 ^ 16 + d.fwVersion.2.2)
    | 0x0C => some (if h = .a then 0xFFFF else 0xFCFF)
    | 0x10 => some ((match H.rightsEntry p with | some e => e.rights % 1024 | none => 0) * 2 ^ 16 + p)
    | 0x20 => some (d.repaired * 2 ^ 16 + d.lastField * 256)
    | 0x24 => some (d.lockedWrites * 2 ^ 16 + d.expired * 256 + d.badUnlock)
    | 0x30 => some d.nextSeq
    | 0x34 => some d.suppressed
    | 0x40 => some (d.fwSource * 2 ^ 24 + d.stage.code * 2 ^ 20 + d.fwError * 2 ^ 16 + b2n d.slow * 16 + b2n st.rsvd * 8 + b2n st.xspiMode * 4
        + st.bootSrc.toNat)
    | 0x44 => some d.bootTime
    | 0x100 => some (d.lastError * 2 ^ 16 + d.imgSource * 2 ^ 12 + d.staged * 2 ^ 10 + d.imgState)
    | 0x104 => some (d.errorAt.1 * 2 ^ 16 + d.errorAt.2)
    | 0x108 => some (match d.image with | some im => im.version | none => 0)
    | 0x10C => some d.actSweep
    | 0x110 => some d.tuneGen
    | 0x114 => some (b2n d.activate)
    | _ => none

/-- R483: the HST block. -/
def Hall.hstReg (H : Hall) (o : Nat) : Option Nat :=
  if o = 0x100 then some (be (H.feedErr.map fun n => BitVec.ofNat 8 n))
  else
    match inTable o 0 4 8 with
    | none => none
    | some i =>
      match H.ports[i / 4]? with
      | none => none
      | some P =>
        some (match i % 4 with
          | 0 => P.outstanding * 2 ^ 20 + P.events.length * 2 ^ 13 + b2n P.hdr * 256 + b2n P.enint * 128 + P.dyn.toNat
          | 1 => P.parity * 2 ^ 24 + P.crc * 2 ^ 16 + P.malformed * 256 + P.outWindow
          | 2 => P.floods * 2 ^ 16 + P.ibiLost * 256 + P.partner
          | _ => P.answered)

/-- R124: the SWP block. -/
def Hall.swpReg (H : Hall) (o : Nat) : Option Nat :=
  let w := H.swp
  match inTable o 0x100 4 16 with
  | some p => let x := H.part p; some (x.consec * 2 ^ 24 + x.monitor.toNat * 2 ^ 16 + x.table.val.toNat)
  | none =>
    match o with
    | 0x00 => some w.monitorReq.toNat
    | 0x04 => some (w.holdLeft * 256 + b2n w.short * 128 + b2n w.skew * 64 + b2n w.follower * 32
        + (match H.image with | some im => im.timebase.source % 4 | none => 0) * 8 + w.lock.code)
    | 0x08 => some w.sweep
    | 0x0C => some w.tick
    | 0x10 => some (w.pv % 2 ^ 32)
    | 0x14 => some (w.refLate * 2 ^ 16 + w.refEarly)
    | 0x18 => some w.misses
    | 0x1C => some w.fallbacks
    | 0x20 => some (w.cmpMissing * 2 ^ 16 + w.cmpDiverged)
    | _ => none

/-- R551: a hall's own domain as PWR_STATUS.HALL codes it. -/
def HallPower.code : HallPower → Nat
  | .retention => 0
  | .reduced => 1
  | .on => 2

/-- R574: the PWR block. The registers from 0x0040 read zero in Hall B. -/
def State.pwrReg (s : State) (h : HallId) (o : Nat) : Option Nat :=
  let p := (s.hall h).pwr
  let k := s.pkg
  let onlyA := fun (v : Nat) => some (if h = .a then v else 0)
  match o with
  | 0x00 => some (b2n p.entry * 2 ^ 16 + p.galOn.val.toNat * 256 + p.op * 64 + p.opReq * 16 + p.hall.code * 4 + k.state)
  | 0x04 => some (b2n p.driveHold)
  | 0x08 => some (s.requests.foldl (fun a c => a ||| 2 ^ (c % 16)) 0)
  | 0x10 => let r := p.reqs.getD 0 (false, 0); some (b2n r.1 * 16 + r.2)
  | 0x14 => let r := p.reqs.getD 1 (false, 0); some (b2n r.1 * 16 + r.2)
  | 0x20 => some (p.aborted * 2 ^ 24 + p.noSwap * 2 ^ 16 + p.holdRefusals * 256 + p.vstRefusals)
  | 0x24 => some (p.lastRefusal.1 * 256 + p.lastRefusal.2.1 * 16 + p.lastRefusal.2.2)
  | 0x30 => some (b2n p.trip * 2 ^ 31 + (Pwr.capNow p (s.hall h).mem.hotChannels) * 2 ^ 16 + sbits 8 p.temp)
  | 0x34 => some k.watts
  | 0x40 => onlyA (k.stuck.toNat * 256 + k.active.toNat)
  | 0x44 => onlyA k.wakeEn.toNat
  | 0x48 => onlyA (k.lastWake.1 * 256 + k.lastWake.2.1 * 16 + k.lastWake.2.2)
  | 0x4C => onlyA k.lastWakeVt
  | _ => none

/-- R549: word w of an entry of the correctable-error log. -/
def CeEntry.word (e : CeEntry) (w : Nat) : Nat :=
  match w with
  | 0 => b2n e.valid * 2 ^ 31 + e.place * 2 ^ 24 + e.unit * 2 ^ 16 + e.count * 256 + e.symbol
  | 1 => e.addr % 2 ^ 32
  | 2 => e.firstSweep
  | _ => e.lastSweep

/-- R549: the ERR block. -/
def Hall.errReg (H : Hall) (h o : Nat) : Option Nat :=
  let e := H.err
  let ue := fun (k : Nat) => tget e.ue k
  match inTable o 0x10 4 9, inTable o 0x100 4 128 with
  | some k, _ => some (e.ce.getD k 0)
  | _, some i => some ((e.ceLog.getD (i / 4) ⟨false, 0, 0, 0, 0, 0, 0, 0⟩).word (i % 4))
  | _, _ =>
    match o with
    | 0x00 => some (b2n e.pin * 128 + H.causes h)
    | 0x04 => some (e.mask.toNat * 16)
    | 0x08 => some e.lastCause
    | 0x40 => some (ue 3 * 2 ^ 24 + ue 2 * 2 ^ 16 + ue 1 * 256 + ue 0)
    | 0x44 => some (e.poisonReads * 2 ^ 24 + e.unwrittenReads * 2 ^ 16 + ue 6 * 256 + ue 4)
    | 0x80 => some (b2n e.scrubEn * 2 ^ 31 + e.dramRate.toNat * 256 + e.sramRate.toNat)
    | 0x84 => some (e.rounds * 2 ^ 16 + e.scrubMode)
    | 0x88 => some (e.ceLost * 256 + e.ceLog.countP fun (c : CeEntry) => c.valid)
    | 0x90 => some (b2n e.passGo * 2 ^ 31 + b2n e.passBusy * 2 ^ 30 + e.passPlace * 2 ^ 16 + e.passUnit)
    | 0x94 => some e.passBase
    | 0x98 => some e.passLen
    | 0x9C => some e.sumRead
    | 0xA0 => some (e.sumCorr * 2 ^ 16 + e.sumMark * 256 + b2n e.sumCut)
    | _ => none

/-- R519: a domain's binding and state registers. -/
def Hall.domBind (H : Hall) (d : Nat) : Nat :=
  match H.dom d with
  | some x => (x.bind.val.toNat / 2 ^ 16) * 2 ^ 31 + x.bind.val.toNat % 2 ^ 16
  | none => 0

/-- R519: SEC_DOM_STATE_d. -/
def Hall.domState (H : Hall) (d : Nat) : Nat :=
  match H.dom d with
  | some x => b2n x.releasing * 2 ^ 31 + b2n (H.oldLive d) * 2 ^ 30 + x.current * 2 ^ 29 + b2n (H.sec.sweeps.contains d) * 2 ^ 28 + H.sessionsOf d
  | none => 0

/-- R519: the SEC block. -/
def State.secReg (s : State) (h : HallId) (o : Nat) : Option Nat :=
  let H := s.hall h
  let c := H.sec
  match inTable o 0x10 4 12, inTable o 0x40 4 8, inTable o 0x4000 4 4096, inTable o 0x8000 4 4096 with
  | some i, _, _, _ => some (wordAt s.packageId i)
  | _, some i, _, _ => some (wordAt (H.ports.getD (i / 4) Port.reset).challenge (i % 4))
  | _, _, some d, _ => some (H.domBind d)
  | _, _, _, some d => some (H.domState d)
  | _, _, _, _ =>
    match o with
    | 0x00 => some (b2n (!c.sweeps.isEmpty) * 2 ^ 17 + b2n c.trngOk * 2 ^ 16 + c.keys.length)
    | 0x80 => some c.rotDomain
    | 0x84 => some c.rotLast
    | 0x88 => some c.rate.toNat
    | 0x8C => some (b2n (!c.sweeps.isEmpty) * 2 ^ 31 + c.sweeps.tail.length * 2 ^ 16 + c.sweeps.headD 0)
    | 0x90 => some (c.cursor / 256)
    | 0x94 => some (c.bindFail * 2 ^ 16 + c.rotations * 256 + c.busy)
    | _ => none

/-- The MEM block (10 and 06). -/
def Hall.memReg (H : Hall) (o : Nat) : Option Nat :=
  let m := H.mem
  match inTable o 0x100 4 16 with
  | some p => some (H.partFrames p)
  | none =>
    match o with
    | 0x00 => some m.chanGood.toNat
    | 0x04 => some (m.channels.length * 2 ^ 16 + m.rate * 256 + m.density * 16 + m.ranks)
    | 0x08 => some (m.usable / 65536)
    | 0x0C => some m.total
    | 0x10 => some m.free
    | 0x14 => some (m.movesUp * 2 ^ 16 + m.movesDown)
    | 0x18 => some (m.cancelled * 2 ^ 16 + m.pressure)
    | 0x1C => some (m.partials * 2 ^ 16 + m.mr4Hot * 256 + m.syncSat)
    | 0x400 => some ((m.deferred.countP fun (d : Deferred) => !d.item.isFrame) * 2 ^ 16
        + (m.caches.map fun (c : Cache) => c.streams.countP fun (e : Nat × Stream) => e.2.slot.isSome).foldl (· + ·) 0)
    | 0x404 => some (m.deferred.countP fun (d : Deferred) => d.item.isFrame)
    | 0x408 => some (m.lockWaits * 2 ^ 16 + m.slotWaits)
    | 0x40C => some (m.kvPosition * 2 ^ 16 + m.kvMismatch)
    | 0x410 => some m.caches.length
    | _ => none

/-- R587: word w of the head of the sample buffer. -/
def Cnt.headWord (c : Cnt) (w : Nat) : Nat :=
  match c.samples with
  | [] => 0
  | x :: _ =>
    match w with
    | 0 => x.ctx * 2 ^ 16 + x.core * 256 + b2n x.idle * 8 + x.sampler
    | 1 => x.opcode * 2 ^ 16 + x.seq
    | 2 => x.sweep
    | _ => x.tick

/-- R582, R584: the value of counter n in a window (0 live, 1 snapshot, 2 sweep bank); a port without HEALTH sees the sweep bank. -/
def Cnt.window (c : Cnt) (health : Bool) (w n : Nat) : Nat := tget (if !health || w = 2 then c.bank else if w = 0 then c.live else c.snap) n

/-- The counter window that an offset lies in: window, counter, and whether it is the HI word. -/
def counterAt (o : Nat) : Option (Nat × Nat × Bool) :=
  if 0x4000 ≤ o && o < 0x10000 then some (o / 0x4000 - 1, o % 0x4000 / 8, o % 8 == 4) else none

/-- R583 to R587: the CNT block, as a port with or without HEALTH reads it. -/
def Hall.cntReg (H : Hall) (health : Bool) (o : Nat) : Option Nat :=
  let c := H.cnt
  let hid := fun (v : Nat) => some (if health then v else 0)
  match inTable o 0x100 4 64, inTable o 0x200 4 256, inTable o 0x600 4 8, inTable o 0x690 4 4, counterAt o with
  | some w, _, _, _, _ => some (c.chain.foldl (fun a n => if n / 32 = w then a + 2 ^ (n % 32) else a) 0)
  | _, some t, _, _, _ => some (tget c.thresh t)
  | _, _, some k, _, _ =>
    match c.samplers[k]? with
    | some x => hid (b2n x.en * 2 ^ 31 + x.p * 2 ^ 16 + x.counter)
    | none => some 0
  | _, _, _, some w, _ => hid (c.headWord w)
  | _, _, _, _, some (w, n, hi) =>
    let v := c.window health w n
    some (if hi then v / 2 ^ 32 else v % 2 ^ 32)
  | _, _, _, _, _ =>
    match o with
    | 0x00 => some 0
    | 0x04 => hid c.snapSweep
    | 0x08 => hid c.snapTick
    | 0x680 => hid (c.lost * 256 + c.samples.length)
    | _ => none

/-- R407: the MIC block. -/
def State.micReg (s : State) (o : Nat) : Option Nat :=
  let v := s.vst
  match inTable o 0x100 4 32, inTable o 0x200 4 2, inTable o 0x210 4 2 with
  | some m, _, _ => let c := v.calNew.getD m (0x4000, 0); some (c.1 * 2 ^ 16 + c.2)
  | _, some p, _ => (v.tdm[p]?).map fun (t : Tdm) => t.overruns * 2 ^ 16 + t.underruns
  | _, _, some p => (v.tdm[p]?).map fun (t : Tdm) => t.pos
  | _, _, _ =>
    match o with
    | 0x00 => some (b2n v.modeReq)
    | 0x04 => some (b2n s.gapNow * 2 + b2n v.micFull)
    | 0x08 => some v.stuck.toNat
    | 0x0C => some (v.modeChanges * 2 ^ 16 + v.blockDrops)
    | _ => none

/-- R388: the VST block. -/
def State.vstReg (s : State) (o : Nat) : Option Nat :=
  let v := s.vst
  match o with
  | 0x00 => some (b2n v.descend * 4 + v.descendTo)
  | 0x04 =>
    let av := (List.range 4).foldl (fun a n => if s.available n then a + 2 ^ n else a) 0
    some (av * 2 ^ 16 + b2n v.deferred.isSome * 512 + b2n (!v.cands.isEmpty) * 256 + v.level)
  | 0x08 => some (v.wakes * 2 ^ 16 + v.rejects)
  | 0x0C => some (v.drops * 2 ^ 24 + v.unavailable * 2 ^ 16 + v.deferTimeouts * 256 + v.deferrals)
  | 0x10 => some v.writePos
  | 0x14 => some v.lastLseq
  | _ => none

/-- R444: the CSI_RX block; CSI_RX_PRESENCE reads zero in Hall B. -/
def Hall.rxReg (H : Hall) (h o : Nat) : Option Nat :=
  if o = 0x200 then some (if h = 0 then H.cam.presAccepted * 2 ^ 16 + H.cam.presDiscarded else 0)
  else
    match inTable o 0 4 64 with
    | none => none
    | some i =>
      let P := H.rx (i / 8)
      match i % 8 with
      | 0 => some (P.laneBad.toNat * 2 ^ 10 + P.width * 128 + b2n P.degraded * 64 + b2n P.cphy * 32 + b2n P.active * 16)
      | 1 => some (P.hdrCorr * 2 ^ 24 + P.hdrUncorr * 2 ^ 16 + P.crc)
      | 2 => some (P.unknownDt * 2 ^ 24 + P.badVc * 2 ^ 16 + P.orphan)
      | 3 => some (P.lineLen * 2 ^ 24 + P.frameLen * 2 ^ 16 + P.timeout * 256 + P.late * 16 + P.early)
      | 4 => some ((List.range 4).foldl (fun a k => a + P.sot.getD k 0 * 2 ^ (8 * k)) 0)
      | _ => none

/-- R483: the CSI_TX block. -/
def Hall.txReg (H : Hall) (o : Nat) : Option Nat :=
  match inTable o 0 4 16 with
  | none => none
  | some i =>
    let t := i / 4
    let P := H.txPort t
    match i % 4 with
    | 0 => some P.cfg.toNat
    | 1 => some ((H.streams.countP fun (x : TxStream) => x.tx == t) * 256 + b2n (H.txClass0 t) * 128 + b2n (!(H.txClosed t)) * 64)
    | 2 => some (P.sent * 2 ^ 16 + P.dropped * 256 + P.oversize)
    | _ => none

/-- The CAMERA and PIPE bodies of the hall's cameras. -/
def Hall.pipes (H : Hall) (h : Nat) : List (Nat × CameraBody × PipeBody) :=
  H.cam.cameras.filterMap fun (c : Camera) => (H.camEntry h c.id).map fun e => (c.id, e)

/-- R444: the ISP block. -/
def Hall.ispReg (H : Hall) (h o : Nat) : Option Nat :=
  match inTable o 0x100 4 64 with
  | some i =>
    let n := i / 2
    if i % 2 = 0 then
      let x := H.isp n
      some (x.dropFull * 2 ^ 16 + x.lbOverflow * 256 + x.paramLate)
    else
      some (match (H.pipes h).find? fun (e : Nat × CameraBody × PipeBody) => e.2.2.ctx == n with
        | some e => (match H.camera e.1 with | some (c : Camera) => c.frame | none => 0)
        | none => 0)
  | none =>
    match o with
    | 0x00 => some (H.cam.load * 256 + (H.pipes h).length)
    | 0x04 => some (((H.pipes h).map fun (e : Nat × CameraBody × PipeBody) => e.2.2.lbLines * cdiv (2 * e.2.1.width) 64).foldl (· + ·) 0 % 2 ^ 17)
    | _ => none

/-- R444: the SNS block. -/
def Hall.snsReg (H : Hall) (o : Nat) : Option Nat :=
  match inTable o 0 4 2, inTable o 0x100 4 32 with
  | some c, _ => some (H.cam.nacks.getD c 0 * 2 ^ 16 + H.cam.busResets.getD c 0 * 256 + b2n (H.cam.failed.getD c false))
  | _, some n => some (H.cam.written.getD n 0 * 2 ^ 16 + H.cam.abandoned.getD n 0 * 256 + H.cam.late.getD n 0)
  | _, _ => none

/-- R64: GAL_CTL.STATE as coded. -/
def GalState.code : GalState → Nat
  | .off => 0
  | .fill => 1
  | .run => 2
  | .fenced => 3

/-- The registers of gallery g's block. -/
def Hall.galReg (H : Hall) (g o : Nat) : Option Nat :=
  let G := H.gal g
  let core := fun (c : Nat) => H.core (12 * g + c)
  let busy := fun (c : Nat) => H.ctxs.any fun x => x.core == 12 * g + c && x.cmds.any fun (k : Cmd) => k.stage != .queued
  match inTable o 0x100 4 12, inTable o 0x180 4 12 with
  | some c, _ =>
    let off := ((core c).banks.zip (List.range 16)).foldl (fun a (e : Bank × Nat) => if e.1.off then a + 2 ^ e.2 else a) 0
    some ((core c).bankErr * 2 ^ 16 + off)
  | _, some c =>
    let r := H.residents (12 * g + c)
    some ((r.countP fun (x : Ctx) => x.blocked) * 256 + r.length)
  | _, _ =>
    match o with
    | 0x00 => some (G.part.val.toNat * 2 ^ 24 + G.fence.val.toNat * 2 ^ 12 + G.st.code)
    | 0x04 => some ((List.range 12).foldl (fun a c => if busy c then a + 2 ^ (16 + c) else a) 0 + G.rejoin.toNat * 16)
    | 0x08 => some ((List.range 12).foldl (fun a c => a + G.strikes.getD c 0 % 4 * 4 ^ c) 0)
    | 0x20 => some ((H.freeBlocks g).length * 2 ^ 16 + G.area * 256 + G.areaReq)
    | 0x140 => some (G.forcedKills * 2 ^ 16 + G.pinWaits)
    | 0x150 => some (G.haloHolds * 2 ^ 16 + G.noPeer)
    | 0x160 => some (G.swapOuts * 2 ^ 16 + G.swapStalls)
    | 0x164 => some (G.preempt * 2 ^ 16 + G.otherKills)
    | _ => none

/-- R51: the STAIR block. -/
def Hall.stairReg (H : Hall) (o : Nat) : Option Nat :=
  let t := H.stair
  let low := fun (n : Nat) => decide (0 < n) && decide (n < 32)
  match o with
  | 0x00 => some (t.missLimit.toNat * 2 ^ 16 + t.beatPeriod.toNat * 256 + b2n t.enable)
  | 0x04 => some (t.mode.code * 2 ^ 16 + t.lanesRx * 2 ^ 10 + t.lanesTx * 16 + b2n t.creditStall * 8 + b2n (low t.lanesRx || low t.lanesTx) * 4 + b2n t.alive * 2
      + b2n t.trained)
  | 0x08 => some t.laneGood.toNat
  | 0x0C => some t.flitCorr
  | 0x10 => some t.discards
  | _ => none

/-- R597: the registers that every block holds. -/
def Hall.lockReg (H : Hall) (h blk idx o : Nat) : Option Nat :=
  match o with
  | 0x3FF0 => some 0
  | 0x3FF4 => some ((List.range 2).foldl (fun a i => if (H.ports.getD i Port.reset).armed.contains blk then a + 2 ^ i else a) 0)
  | 0x3FFC => some (h * 2 ^ 20 + (if idx = 14 then blk - 0x10 else 0) * 2 ^ 16 + 0x100 + idx)
  | _ => none

/-- R590 to R603: what the register at offset o of a block of hall h reads as for host port p; none where no register lies. -/
def State.regValue (s : State) (h : HallId) (p blk o : Nat) : Option Nat :=
  let H := s.hall h
  match blockIndex blk with
  | none => none
  | some idx =>
    if o % 4 ≠ 0 || (h = .b && (idx = 8 || idx = 9)) then none
    else
      match H.lockReg h.idx blk idx o with
      | some v => some v
      | none =>
        match idx with
        | 0 => s.devReg h p o
        | 1 => H.hstReg o
        | 2 => H.swpReg o
        | 3 => s.pwrReg h o
        | 4 => H.errReg h.idx o
        | 5 => s.secReg h o
        | 6 => H.memReg o
        | 7 => H.cntReg (H.hasRight p 4) o
        | 8 => s.micReg o
        | 9 => s.vstReg o
        | 10 => H.rxReg h.idx o
        | 11 => H.txReg o
        | 12 => H.ispReg h.idx o
        | 13 => H.snsReg o
        | 14 => H.galReg (blk - 0x10) o
        | _ => H.stairReg o

end Sys2Proof.Machine
end

