-- ==== Sys2Proof/Machine/RegPort.lean ====
section
/-! DEFINITION. Register access from a host port (14, R458; 19, R590 to R597; 18, R583 to R587): rights, the unlock, the effects of writes and
of reads, and the REGRD and REGWR capsules. -/

namespace Sys2Proof.Machine

/-! ### Rights (R64, R89, R458, R519, R597, R603, R622) -/

/-- R64, R458: a mask of blocks and the port's PARTS let it reach a block. -/
def Hall.maskReaches (H : Hall) (p mask idx blk : Nat) : Bool :=
  bit mask idx && (idx != 14 || match (H.gal (blk - 0x10)).partition with
    | some q => H.hasPart p q
    | none => false)

/-- The registers that every port may read. -/
def publicReg (idx o : Nat) : Bool :=
  o == 0x3FF4 || o == 0x3FFC
    || (idx == 0 && (decide (o ≤ 0x10) || o == 0x40 || o == 0x44 || (decide (0x100 ≤ o) && decide (o < 0x180))))
    || (idx == 5 && decide (0x10 ≤ o) && decide (o < 0x60))

/-- R458: the port may read the register. Before an image is active it may read the DEV block (R89). -/
def Hall.mayRead (H : Hall) (p idx blk o : Nat) : Bool :=
  publicReg idx o || match H.image with
    | none => idx == 0
    | some _ =>
      let mask := match H.rightsEntry p with | some e => e.regRead | none => 0
      H.maskReaches p mask idx blk || (H.hasRight p 4 && ([4, 7, 14, 15] : List Nat).contains idx)

/-- R458, R519, R574, R584, R549: the rights beside REG_WRITE that the word needs: POWER for a request, IMAGE, SAFETY, HEALTH. -/
def Hall.writeRights (H : Hall) (p idx o : Nat) (w : Word) : Bool :=
  match idx, o with
  | 0, 0x114 => H.hasRight p 6
  | 3, 0x04 => if w.getLsbD 1 then H.hasRight p 5 else H.hasRight p 5 || H.hasRight p 7
  | 3, 0x10 => H.hasRight p 5
  | 3, 0x14 => H.hasRight p 5
  | 3, 0x44 => H.hasRight p 7
  | 4, 0x08 => !(w.getLsbD 31) || H.hasRight p 7
  | 7, _ => (inTable o 0x600 4 8).isNone || H.hasRight p 4
  | 9, 0x00 => H.hasRight p 7
  | _, _ => true

/-- R458: the port may write the word. -/
def Hall.mayWrite (H : Hall) (p idx blk o : Nat) (w : Word) : Bool :=
  let mask := match H.rightsEntry p with | some e => e.regWrite | none => 0
  H.image.isSome && H.maskReaches p mask idx blk && H.writeRights p idx o w

/-- R16: the registers that hold an RW-L field. -/
def guarded (h : HallId) (idx o : Nat) : Bool :=
  match idx with
  | 0 => o == 0x114
  | 2 => o == 0x00
  | 3 => ([0x04, 0x10, 0x14] : List Nat).contains o || (h == .a && o == 0x44)
  | 4 => ([0x04, 0x08, 0x80, 0x88, 0x90, 0x94, 0x98] : List Nat).contains o
  | 5 => o == 0x80 || o == 0x88
  | 7 => (inTable o 0x100 4 64).isSome || (inTable o 0x200 4 256).isSome || (inTable o 0x600 4 8).isSome
  | 8 => o == 0x00 || (inTable o 0x100 4 32).isSome
  | 9 => o == 0x00
  | 11 => (inTable o 0 0x10 4).isSome
  | 14 => o == 0x20
  | 15 => o == 0x00
  | _ => false

/-- R590, R458: a word of a port's refused: counted, and logged with the address's bits 23:16 and 15:2. -/
def State.refuseWord (s : State) (p code addr : Nat) : State :=
  (s.logPort (portHall p) p code (addr / 2 ^ 16 % 256) (addr % 2 ^ 16 / 4)).onPort p fun P => { P with outWindow := inc8 P.outWindow }

/-- R458, R590: what stops a word of port p from reaching a register: the code to log, or none with its block and offset. -/
def State.wordRefusal (s : State) (p addr : Nat) (may : Nat → Nat → Nat → Bool) : Except Nat (Nat × Nat × Nat) :=
  let h := portHall p
  let blk := addr / 2 ^ 16 % 256
  let o := addr % 2 ^ 16
  if 0x2000000 ≤ addr then .error 0x0003
  else if addr / 2 ^ 24 ≠ h.idx then .error 0x0002
  else
    match blockIndex blk, s.regValue h p blk o with
    | some idx, some _ => if may idx blk o then .ok (idx, blk, o) else .error 0x0002
    | _, _ => .error 0x0003

/-! ### Writes -/

/-- R585: a write of CNT_SAMPLER_k; one that names a counter above 1,151 or a P outside 10 to 40 is ignored and logged. -/
def State.samplerWrite (s : State) (p k : Nat) (w : Word) : State :=
  let h := portHall p
  let n := bits w.toNat 0 11
  let e := bits w.toNat 16 6
  if 1151 < n || e < 10 || 40 < e then s.logPort h p 0x07FF k ((0x600 + 4 * k) / 4)
  else s.onHall h fun H => { H with cnt := { H.cnt with samplers := modAt H.cnt.samplers k fun _ => ⟨w.getLsbD 31, e, n, none⟩ } }

/-- R582: a snapshot of every counter. -/
def Hall.snapshot (H : Hall) : Hall :=
  { H with cnt := { H.cnt with snap := H.cnt.live, snapSweep := H.swp.sweep, snapTick := H.swp.tick } }

/-- R580: the chain map's word w. -/
def Cnt.setChain (c : Cnt) (w : Nat) (v : Word) : Cnt :=
  let new := ((List.range 32).filter fun b => v.getLsbD b).map fun b => 32 * w + b
  { c with chain := (c.chain.filter fun n => n / 32 < w) ++ new ++ (c.chain.filter fun n => w < n / 32) }

/-- The register tables: a guarded write of the CNT block. -/
def State.cntWrite (s : State) (p o : Nat) (w : Word) : State :=
  let h := portHall p
  match inTable o 0x100 4 64, inTable o 0x200 4 256, inTable o 0x600 4 8 with
  | some i, _, _ => s.onHall h fun H => { H with cnt := H.cnt.setChain i w }
  | _, some t, _ => s.onHall h fun H => { H with cnt := { H.cnt with thresh := tset H.cnt.thresh t (bits w.toNat 0 16) } }
  | _, _, some k => s.samplerWrite p k w
  | _, _, _ => s

/-- R94, R96: a guarded write of DEV_IMG_CTL. -/
def State.imgCtl (s : State) (h : HallId) (w : Word) : State :=
  let s1 := if w.getLsbD 0 then s.activate h else s
  if w.getLsbD 1 then s1.discard h else s1

/-- R565, R574: a guarded write of PWR_CTL: WAKE_RELEASE needs POWER, DRIVE_HOLD needs SAFETY. -/
def State.pwrCtl (s : State) (p : Nat) (w : Word) (vt : Nat) : State :=
  let h := portHall p
  let s1 := if (s.hall h).hasRight p 7 then s.onHall h fun H => { H with pwr := { H.pwr with driveHold := w.getLsbD 0 } } else s
  if w.getLsbD 1 && (s.hall h).hasRight p 5 then s1.wakeRelease vt else s1

/-- R549: a guarded write of the ERR block. -/
def State.errWrite (s : State) (h : HallId) (o : Nat) (w : Word) : State :=
  let f := fun (g : Err → Err) => s.onHall h fun H => { H with err := g H.err }
  match o with
  | 0x04 => (f fun e => { e with mask := w.extractLsb' 4 3 }).pinCheck h
  | 0x08 => if w.getLsbD 31 then s.hallReset h 8 true else s
  | 0x80 => f fun e =>
    { e with
      scrubEn := w.getLsbD 31, dramRate := w.extractLsb' 8 8, sramRate := w.extractLsb' 0 8
      scrubMode := if w.getLsbD 31 then e.scrubMode else 0 }
  | 0x88 => if w.getLsbD 31 then f fun e => { e with ceLog := e.ceLog.map fun _ => ⟨false, 0, 0, 0, 0, 0, 0, 0⟩ } else s
  | 0x90 =>
    let s1 := f fun e => { e with passPlace := bits w.toNat 16 4, passUnit := bits w.toNat 0 8 }
    if w.getLsbD 31 then s1.onHall h Hall.passQueue else s1
  | 0x94 => f fun e => { e with passBase := w.toNat }
  | 0x98 => f fun e => { e with passLen := bits w.toNat 0 17 }
  | _ => s

/-- R510: a guarded write of SEC_ROTATE; LAST gives the outcome. -/
def State.rotateWrite (s : State) (h : HallId) (w : Word) : State :=
  let d := bits w.toNat 0 12
  let last := fun (n : Nat) (s : State) => s.onHall h fun H => { H with sec := { H.sec with rotLast := n } }
  let s1 := s.onHall h fun H => { H with sec := { H.sec with rotDomain := d } }
  if !(w.getLsbD 31) then s1
  else if ((s1.hall h).dom d).isNone then last 4 s1
  else
    match s1.rotate h d with
    | (0, t) => last 1 t
    | (0x070E, t) => last 2 t
    | (0x070F, t) => last 3 t
    | (_, t) => t

/-- R394, R399: a guarded write of the MIC block; with a CASCADE section MODE_REQ is ignored and logged. -/
def State.micWrite (s : State) (p o : Nat) (w : Word) : State :=
  match inTable o 0x100 4 32 with
  | some m => { s with vst := { s.vst with calNew := modAt s.vst.calNew m fun _ => (bits w.toNat 16 16, bits w.toNat 0 9) } }
  | none =>
    if (s.a.image.bind fun im => im.cascade).isSome then s.logPort .a p 0x08FF 0 0
    else { s with vst := { s.vst with modeReq := w.getLsbD 0 } }

/-- R384: a guarded write of VST_CTL. -/
def State.vstWrite (s : State) (w : Word) : State :=
  { s with vst := { s.vst with descend := s.vst.descend || w.getLsbD 2, descendTo := bits w.toNat 0 2 } }

/-- R51: a guarded write of STAIR_CTL. -/
def Stair.control' (t : Stair) (w : Word) : Stair :=
  { t with missLimit := w.extractLsb' 16 4, beatPeriod := w.extractLsb' 8 8, enable := w.getLsbD 0 }

/-- R51, R56: a hall's Stair end under the STAIR_CTL written to it: MODE is SINGLE while ENABLE is 0, and traffic passes again once it is 1. -/
def Hall.stairWrite (H : Hall) (w : Word) : Hall :=
  let H1 : Hall := { H with stair := H.stair.control' w }
  if !H1.stair.enable then
    { H1 with stair := { H1.stair with mode := if H1.stair.lost then H1.stair.mode else .single, alive := false } }
  else if H.stair.enable then H1
  else H1.joins.sendOn

/-- R473: a guarded write of CSI_TX_CFG_t. -/
def State.txWrite (s : State) (p t : Nat) (w : Word) : State :=
  let h := portHall p
  let H := s.hall h
  let v := w &&& 0xFCFF1FFF#32
  if (H.txClass0 t && !(txFast v)) || (txEnable v && !(txRange v)) then s.logPort h p 0x0BFF t (0x10 * t / 4)
  else s.onHall h fun H => H.txConfigure h.idx t w

/-- R596: a word of port p reaches a guarded register under its unlock. -/
def State.guardedWrite (s : State) (p idx blk o : Nat) (w : Word) (vt : Nat) : State :=
  let h := portHall p
  match idx with
  | 0 => s.imgCtl h w
  | 2 => s.onHall h fun H => { H with swp := { H.swp with monitorReq := w.extractLsb' 0 16 } }
  | 3 =>
    if o = 0x04 then s.pwrCtl p w vt
    else if o = 0x44 then { s with pkg := { s.pkg with wakeEn := w.extractLsb' 0 8 } }
    else s.powerReq (2 * h.idx + (if o = 0x14 then 1 else 0)) (w.getLsbD 4) (bits w.toNat 0 4) vt
  | 4 => s.errWrite h o w
  | 5 =>
    if o = 0x80 then s.rotateWrite h w
    else s.onHall h fun H => { H with sec := { H.sec with rate := w.extractLsb' 0 11 } }
  | 7 => s.cntWrite p o w
  | 8 => s.micWrite p o w
  | 9 => s.vstWrite w
  | 11 => s.txWrite p (o / 0x10) w
  | 14 => s.onHall h fun H => H.onGal (blk - 0x10) fun G => { G with areaReq := bits w.toNat 0 8 }
  | 15 => s.onHall h fun H => H.stairWrite w
  | _ => s

/-- R595: a word written to a block's UNLOCK register. -/
def State.unlockWrite (s : State) (p blk : Nat) (w : Word) : State :=
  let h := portHall p
  if w.toNat = 0x5EA1 then s.onPort p fun P => { P with armed := sins P.armed blk }
  else
    ((s.onPort p fun P => { P with armed := P.armed.filter (· != blk) }).logPort h p 0x0005 blk (bits w.toNat 0 16)).onHall h fun H =>
      { H with dev := { H.dev with badUnlock := inc8 H.dev.badUnlock } }

/-- R458, R590 to R597: one word of port p written at a package address. -/
def State.regWrite (s : State) (p addr : Nat) (w : Word) (vt : Nat) : State :=
  let h := portHall p
  match s.wordRefusal p addr fun idx blk o => (s.hall h).mayWrite p idx blk o w with
  | .error code => s.refuseWord p code addr
  | .ok (idx, blk, o) =>
    if o = 0x3FF0 then s.unlockWrite p blk w
    else
      let armed := (s.port p).armed.contains blk
      let s1 := s.onPort p fun P => { P with armed := P.armed.filter (· != blk) }
      if guarded h idx o then
        if armed then s1.guardedWrite p idx blk o w vt
        else
          (s1.logPort h p 0x0004 blk (o / 4)).onHall h fun H => { H with dev := { H.dev with lockedWrites := inc16 H.dev.lockedWrites } }
      else if idx = 7 && o = 0 && w.getLsbD 0 then s1.onHall h Hall.snapshot
      else s1

/-- R595: an unlock not used within 10 ms. -/
def State.unlockExpired (s : State) (p blk : Nat) : State :=
  if (s.port p).armed.contains blk then
    ((s.onPort p fun P => { P with armed := P.armed.filter (· != blk) }).logPort (portHall p) p 0x0006 blk 0).onHall (portHall p) fun H =>
      { H with dev := { H.dev with expired := inc8 H.dev.expired } }
  else s

/-! ### Reads -/

/-- R583: what a read of the CNT block at an offset does to the port's latch, and the value it gives. -/
def Cnt.readLatch (c : Cnt) (health : Bool) (i o v : Nat) : Nat × Cnt :=
  let old := c.latch.getD i none
  let set := fun (l : Option (Nat × Nat × Nat)) => { c with latch := modAt c.latch i fun _ => l }
  match counterAt o with
  | some (w, n, false) => (v, set (some (w, n, c.window health w n / 2 ^ 32)))
  | some (w, n, true) =>
    match old with
    | some (w', n', hi) => (if w' = w && n' = n then hi else v, set none)
    | none => (v, set none)
  | none => (v, set none)

/-- R587: a read of CNT_SAMPLE_HEAD_3 removes the head entry. -/
def Cnt.popSample (c : Cnt) : Cnt := { c with samples := c.samples.drop 1 }

/-- R458, R583, R587, R593: one word read by port p at a package address: its value and what the read changes. -/
def State.regRead (s : State) (p addr : Nat) : Nat × State :=
  let h := portHall p
  match s.wordRefusal p addr fun idx blk o => (s.hall h).mayRead p idx blk o with
  | .error code => (0, s.refuseWord p code addr)
  | .ok (idx, blk, o) =>
    let v := (s.regValue h p blk o).getD 0
    if idx = 7 then
      let health := (s.hall h).hasRight p 4
      let r := (s.hall h).cnt.readLatch health (portIdx p) o v
      let c := if o = 0x69C && health then r.2.popSample else r.2
      (r.1, s.onHall h fun H => { H with cnt := c })
    else (v, s)

/-- R591: a word that the steward writes for host port p. -/
def State.hostWord (s : State) (p addr : Nat) (w : Word) (vt : Nat) : State := if s.portUp p then s.regWrite p addr w vt else s

/-- R591: a word that the steward reads for host port p. -/
def State.hostRead (s : State) (p addr : Nat) : State := if s.portUp p then (s.regRead p addr).2 else s

/-! ### Capsules (R458, R592) -/

/-- R458: what is wrong with a REGRD or REGWR payload. -/
def regPayloadBad (write : Bool) (pl : List Byte) : List (Bool × Nat × Nat) :=
  let n := fld pl 4 2
  [(decide (pl.length < 8), 3, 0), (write && decide (8 ≤ pl.length) && decide (1 ≤ n) && decide (n ≤ 1024) && decide (pl.length < 8 + 4 * n), 3, 0),
    badAt 0 (fld pl 0 4 % 4 != 0), badAt 4 (decide (n < 1) || decide (1024 < n))]

/-- R89: before an image, a REGRD that stays in its own hall's DEV block. -/
def devOnly (h : HallId) (a n : Nat) : Bool := decide (regAddr h 0 0 ≤ a) && decide (a + 4 * n ≤ regAddr h 1 0)

/-- R458: REGRD. -/
def State.regrd (s : State) (h : HallId) (p : Nat) (c : Capsule) : State × Reply :=
  let pl := c.payload
  let a := fld pl 0 4
  let n := fld pl 4 2
  match firstErr (regPayloadBad false pl ++ [((s.hall h).image.isNone && !(devOnly h a n), 5, 0)]) with
  | some (st, d) => (s, .err st d)
  | none =>
    let r := (List.range n).foldl (fun (r : List Byte × State) i =>
      let x := r.2.regRead p (a + 4 * i)
      (r.1 ++ leBytes 4 x.1, x.2)) (([] : List Byte), s)
    (r.2, .ok r.1)

/-- R458: REGWR. -/
def State.regwr (s : State) (h : HallId) (p : Nat) (c : Capsule) : State × Reply :=
  let pl := c.payload
  let a := fld pl 0 4
  let n := fld pl 4 2
  match firstErr (regPayloadBad true pl ++ [(s.hall h).noImage]) with
  | some (st, d) => (s, .err st d)
  | none => ((List.range n).foldl (fun (s : State) i =>
      if (s.hall h).serves then s.regWrite p (a + 4 * i) (BitVec.ofNat 32 (fld pl (8 + 4 * i) 4)) s.pkg.now else s) s, .ok [])

end Sys2Proof.Machine
end

