-- ==== Sys2Proof/Machine/BootRows.lean ====
section
/-! DEFINITION. The commands of reset, start-up and JTAG (20; 02, R83 to R96). -/

namespace Sys2Proof.Machine

/-- R614: the bypass register selected. -/
def Jtag.bypass (j : Jtag) : Jtag := { j with instr := 0, data := 0, driving := false }

/-- R614: the identification register selected. -/
def Jtag.idcode (j : Jtag) : Jtag := { j with instr := 1, data := 0x1296058B#32, driving := false }

/-- R613: POR_N is low for ns nanoseconds. -/
def execPorNAssert (ns : Nat) (s : State) : Host.Outcome State Fault Refusal := .next (s.porLow ns)

/-- R613, R619: release of POR_N with every supply in range. -/
def execPorNRelease (straps : Straps) (tb : Nat) (s : State) : Host.Outcome State Fault Refusal := .next (s.release straps tb)

/-- R613: VDD_VST or VDD_IO has left its range: the device holds itself in reset. -/
def execSupplyOutOfRange (s : State) : Host.Outcome State Fault Refusal := .next (s.packageReset 0 false)

/-- R610, R619: PG_x rises. -/
def execPgRise (h : HallId) (s : State) : Host.Outcome State Fault Refusal := .next (s.whole fun s => s.pgRise h)

/-- R611: PG_x falls. -/
def execPgFall (h : HallId) (vt : Nat) (planned : Bool) (s : State) : Host.Outcome State Fault Refusal :=
  .next (s.whole fun s => (s.atVt vt).pgFall h vt planned)

/-- R616 to R618: Hall A's boot ROM loads its firmware. -/
def execFirmwareLoad (flash : Flash) (s : State) : Host.Outcome State Fault Refusal := .next (s.live fun s => s.firmwareLoad flash)

/-- R331, R328, R332: LPDDR5X training has ended. -/
def execDramTrainingDone (h : HallId) (found : TrainedChannels) (rate density ranks : Nat) (s : State) :
    Host.Outcome State Fault Refusal :=
  .next (s.live fun s => s.trainingDone h found.good found.again rate density ranks)

/-- R535: a memory fill has ended. -/
def execMemoryFillDone (h : HallId) (what : FillTarget) (s : State) : Host.Outcome State Fault Refusal := .next (s.live fun s => s.fillDone h what)

/-- R84: Hall A's steward loads its image from the flash. -/
def execFlashImageLoad (flash : Flash) (s : State) : Host.Outcome State Fault Refusal := .next (s.live fun s => s.flashImageLoad flash)

/-- R87: 20 ms have passed without Hall B's acceptance. -/
def execHallBAcceptTimeout (s : State) : Host.Outcome State Fault Refusal := .next (s.live fun s => s.acceptFailed)

/-- R93: a host writes ACTIVATE. -/
def execActivate (p : Nat) (s : State) : Host.Outcome State Fault Refusal :=
  .next (s.live fun s => s.hostWord p (regAddr (portHall p) 0 0x114) 1#32 s.pkg.now)

/-- R96: a host writes DISCARD. -/
def execDiscard (p : Nat) (s : State) : Host.Outcome State Fault Refusal :=
  .next (s.live fun s => s.hostWord p (regAddr (portHall p) 0 0x114) 2#32 s.pkg.now)

/-- R93: the other hall has not acknowledged the activation in time. -/
def execActivationAckTimeout (h : HallId) (s : State) : Host.Outcome State Fault Refusal := .next (s.live fun s => s.ackTimeout h)

/-- R614: BYPASS. -/
def execJtagBypass (s : State) : Host.Outcome State Fault Refusal := .next ({ s with jtag := s.jtag.bypass })

/-- R614: IDCODE. -/
def execJtagIdcode (s : State) : Host.Outcome State Fault Refusal := .next ({ s with jtag := s.jtag.idcode })

/-- R614: SAMPLE/PRELOAD, until the first image is active. -/
def execJtagSamplePreload (pins : List Bool) (s : State) : Host.Outcome State Fault Refusal :=
  .next ({ s with jtag := if s.imageSeen then s.jtag.bypass else { s.jtag with instr := 2, data := 0, sampled := pins, driving := false } })

/-- R614: EXTEST, until the first image is active. -/
def execJtagExtest (s : State) : Host.Outcome State Fault Refusal :=
  .next ({ s with jtag := if s.imageSeen then s.jtag.bypass else { s.jtag with instr := 3, data := 0, driving := true } })

/-- R614: TRST_N low holds the TAP in reset, where IEEE 1149.1 selects IDCODE. -/
def execJtagTrst (s : State) : Host.Outcome State Fault Refusal := .next ({ s with jtag := s.jtag.idcode })

end Sys2Proof.Machine
end

