-- ==== Sys2Proof/Machine/CameraRows.lean ====
section
/-! DEFINITION. The commands of the receive ports, the ISP and the sensor buses (13). -/

namespace Sys2Proof.Machine

/-- R416: a frame start. -/
def execFrameStart (h : HallId) (port : Nat) (head : PacketHead) (fnum : Nat) (us : Nat) (sincePulse : Nat) (_tb : Nat) (s : State) : Host.Outcome State Fault Refusal :=
  .next (s.live fun s => s.frameStart h port head.vc fnum us sincePulse head.corrected)

/-- R416: a long packet of pixels. -/
def execLinePacket (h : HallId) (port vc dt : Nat) (pixels : List Nat) (crcOk : Bool) (hdrCorr : Bool) (s : State) : Host.Outcome State Fault Refusal :=
  .next (s.live fun s => s.inRx h port fun H => H.linePacket h.idx port vc dt pixels crcOk hdrCorr)

/-- R416: a packet of embedded data. -/
def execEmbeddedDataPacket (h : HallId) (port : Nat) (head : PacketHead) (dt : Nat) (data : Payload) (s : State) : Host.Outcome State Fault Refusal :=
  .next (s.live fun s => s.inRx h port fun H => H.embedded h.idx port head.vc dt data.bytes data.crcOk head.corrected)

/-- R413: a short packet that the device ignores, of data type dt. -/
def execIgnoredShortPacket (h : HallId) (port : Nat) (head : PacketHead) (dt : Nat) (s : State) : Host.Outcome State Fault Refusal :=
  .next (s.live fun s => s.inRx h port fun H => if dt < 64 then (H.rxActive h.idx port head.vc).header h.idx port head.vc head.corrected else H)

/-- R416: a frame end. -/
def execFrameEnd (h : HallId) (port : Nat) (head : PacketHead) (bursts : BitVec 4) (s : State) : Host.Outcome State Fault Refusal :=
  .next (s.live fun s => s.inRx h port fun H => H.frameEnd h.idx port head.vc bursts head.corrected)

/-- R419: TIMEOUT_US has passed without a frame end. -/
def execFrameTimeout (h : HallId) (port vc : Nat) (us : Nat) (s : State) : Host.Outcome State Fault Refusal :=
  .next (s.live fun s => s.inCams h fun H => H.frameTimeout h.idx port vc us)

/-- R422: the degrade writes have been sent. -/
def execDegradeWritesDone (h : HallId) (port : Nat) (s : State) : Host.Outcome State Fault Refusal :=
  .next (s.live fun s => s.inCams h fun H => H.degradeDone h.idx port)

/-- R426: the ISP takes a piece. -/
def execIspPieceStart (h : HallId) (s : State) : Host.Outcome State Fault Refusal := .next (s.live fun s => s.inCams h fun H => H.pieceStart h.idx)

/-- R426, R433: the ISP has finished its piece. -/
def execIspPieceDone (h : HallId) (_tb : Nat) (s : State) : Host.Outcome State Fault Refusal :=
  .next (s.live fun s => s.inCams h fun H => (H.pieceDone h.idx).after h.idx)

/-- R440: a sensor write has ended. -/
def execSensorWriteDone (h : HallId) (ctrl : Nat) (ack : Bool) (s : State) : Host.Outcome State Fault Refusal :=
  .next (s.live fun s => s.inCams h fun H => H.sensorWrite h.idx ctrl ack)

/-- R440: a sensor bus is stuck. -/
def execSensorBusTimeout (h : HallId) (ctrl : Nat) (s : State) : Host.Outcome State Fault Refusal :=
  .next (s.live fun s => s.inCams h fun H => H.busTimeout h.idx ctrl)

/-- R439: a parameter set has been copied. -/
def execParamCopyDone (h : HallId) (ctx : Nat) (s : State) : Host.Outcome State Fault Refusal :=
  .next (s.live fun s => s.inCams h fun H => H.copyDone ctx)

/-- R419: an uncorrectable packet header. -/
def execHeaderUncorrectable (h : HallId) (port : Nat) (vc : Nat) (s : State) : Host.Outcome State Fault Refusal :=
  .next (s.live fun s => s.inRx h port fun H => H.headerLost h.idx port vc)

/-- R419: a packet of an undeclared type or channel. -/
def execUndeclaredPacket (h : HallId) (port : Nat) (head : PacketHead) (dt : Nat) (s : State) : Host.Outcome State Fault Refusal :=
  .next (s.live fun s => s.inRx h port fun H => H.undeclaredPacket h.idx port head.vc dt head.corrected)

/-- R421: a sync error on a lane. -/
def execSotError (h : HallId) (port lane : Nat) (s : State) : Host.Outcome State Fault Refusal :=
  .next (s.live fun s => s.inRx h port fun H => H.sotError h.idx port lane)

end Sys2Proof.Machine
end

