-- ==== Sys2Proof/Machine/CapsuleRows.lean ====
section
/-! DEFINITION. The capsules (14, R459 to R466; 15) and their transport. -/

namespace Sys2Proof.Machine

/-- R469 to R472: a host-feed record, a long packet of its data type (R442: on a feed's virtual channel, another data type is UNKNOWN_DT). One with
a payload CRC error is discarded. -/
def execHostFeedRecord (h : HallId) (port : Nat) (head : PacketHead) (packet : FeedPacket) (s : State) : Host.Outcome State Fault Refusal :=
  .next (s.live fun s =>
    if (s.hall h).feedDt h.idx port head.vc ≠ some packet.dt then
      s.inRx h port fun H => H.undeclaredPacket h.idx port head.vc packet.dt head.corrected
    else
      let s1 := s.inRx h port fun H => (H.rxActive h.idx port head.vc).header h.idx port head.vc head.corrected
      if packet.crcOk then s1.feedRecord h port head.vc packet.record else s1.inRx h port fun H => H.feedCrc port)

/-- R504: a model part has arrived. -/
def execModelPartDone (h : HallId) (model : Nat) (fromFlash : List Byte) (s : State) : Host.Outcome State Fault Refusal :=
  .next (s.live fun s => s.ifUp h fun s => s.partDone h model fromFlash)

/-- R492: BIND of a session. -/
def execBindSession (p : Nat) (s : State) : Host.Outcome State Fault Refusal :=
  .next (s.live fun s => s.startCapsule p 1 (some (0, 2)) fun h c s => s.bindSession h p c)

/-- R460: BIND of a stream. -/
def execBindStream (p : Nat) (s : State) : Host.Outcome State Fault Refusal :=
  .next (s.live fun s => s.startCapsule p 1 (some (1, 2)) fun h c s => s.bindStream h p c)

/-- R461: BIND of a feed ring. -/
def execBindFeedRing (p : Nat) (s : State) : Host.Outcome State Fault Refusal :=
  .next (s.live fun s => s.startCapsule p 1 (some (2, 2)) fun h c s => s.bindRing h p false c)

/-- R462: UNBIND of a session. -/
def execUnbindSession (p : Nat) (s : State) : Host.Outcome State Fault Refusal :=
  .next (s.live fun s => s.startCapsule p 2 (some (0, 2)) fun h c s => s.unbindSession h p c)

/-- R462: UNBIND of a stream. -/
def execUnbindStream (p : Nat) (s : State) : Host.Outcome State Fault Refusal :=
  .next (s.live fun s => s.startCapsule p 2 (some (1, 2)) fun h c s => s.unbindStream h p c)

/-- R462: UNBIND of a feed ring. -/
def execUnbindFeedRing (p : Nat) (s : State) : Host.Outcome State Fault Refusal :=
  .next (s.live fun s => s.startCapsule p 2 (some (2, 2)) fun h c s => s.unbindRing h p false c)

/-- R463: SUBMIT CREATE. -/
def execSubmitCreate (p : Nat) (s : State) : Host.Outcome State Fault Refusal :=
  .next (s.live fun s => s.startCapsule p 3 (some (0, 1)) fun h c s => s.submitCreate h p false c)

/-- R463: SUBMIT RESUME. -/
def execSubmitResume (p : Nat) (s : State) : Host.Outcome State Fault Refusal :=
  .next (s.live fun s => s.startCapsule p 3 (some (1, 1)) fun h c s => s.submitResume h p false c)

/-- R464: CANCEL. -/
def execCancel (p : Nat) (s : State) : Host.Outcome State Fault Refusal :=
  .next (s.live fun s => s.startCapsule p 4 none fun h c s => s.cancelCapsule h p false c)

/-- R465: QUERY ACCOUNT. -/
def execQueryAccount (p : Nat) (s : State) : Host.Outcome State Fault Refusal :=
  .next (s.live fun s => s.startCapsule p 5 (some (0, 4)) fun h c s => s.queryCtx h p false 0 c)

/-- R465: QUERY COMPLETIONS. -/
def execQueryCompletions (p : Nat) (s : State) : Host.Outcome State Fault Refusal :=
  .next (s.live fun s => s.startCapsule p 5 (some (1, 4)) fun h c s => s.queryCtx h p false 1 c)

/-- R465: QUERY STREAM. -/
def execQueryStream (p : Nat) (s : State) : Host.Outcome State Fault Refusal :=
  .next (s.live fun s => s.startCapsule p 5 (some (2, 4)) fun h c s => s.queryStream h p false c)

/-- R465: QUERY EVENTS. -/
def execQueryEvents (p : Nat) (s : State) : Host.Outcome State Fault Refusal :=
  .next (s.live fun s => s.startCapsule p 5 (some (3, 4)) fun h c s => s.queryEvents h p c)

/-- R465: QUERY PORT. -/
def execQueryPort (p : Nat) (s : State) : Host.Outcome State Fault Refusal :=
  .next (s.live fun s => s.startCapsule p 5 (some (4, 4)) fun h c s => s.queryPort h p c)

/-- R494: ATTEST. -/
def execAttest (p : Nat) (s : State) : Host.Outcome State Fault Refusal :=
  .next (s.live fun s => s.startCapsule p 6 none fun h c s => s.attestCapsule h p false c)

/-- R498: KEYWRAP of a model key. -/
def execKeywrapModelKey (p : Nat) (s : State) : Host.Outcome State Fault Refusal :=
  .next (s.live fun s => s.startCapsule p 7 (some (0, 3)) fun h c s => s.keywrapKey h p false c)

/-- R498: KEYWRAP of a stream key. -/
def execKeywrapStreamKey (p : Nat) (s : State) : Host.Outcome State Fault Refusal :=
  .next (s.live fun s => s.startCapsule p 7 (some (1, 3)) fun h c s => s.keywrapKey h p false c)

/-- R510: KEYWRAP ROTATE. -/
def execKeywrapRotate (p : Nat) (s : State) : Host.Outcome State Fault Refusal :=
  .next (s.live fun s => s.startCapsule p 7 (some (2, 3)) fun h c s => s.keywrapRotate h p false c)

/-- R499: KEYWRAP ERASE. -/
def execKeywrapErase (p : Nat) (s : State) : Host.Outcome State Fault Refusal :=
  .next (s.live fun s => s.startCapsule p 7 (some (3, 3)) fun h c s => s.keywrapErase h p false c)

/-- R500: LOADMODEL LOAD. -/
def execLoadmodelLoad (p : Nat) (flash : Flash) (s : State) : Host.Outcome State Fault Refusal :=
  .next (s.live fun s => s.startCapsule p 8 (some (0, 1)) fun h c s => s.loadmodelLoad h p false flash c)

/-- R504: LOADMODEL UNLOAD. -/
def execLoadmodelUnload (p : Nat) (s : State) : Host.Outcome State Fault Refusal :=
  .next (s.live fun s => s.startCapsule p 8 (some (1, 1)) fun h c s => s.loadmodelUnload h p false c)

/-- R458: REGRD. -/
def execRegrd (p : Nat) (s : State) : Host.Outcome State Fault Refusal := .next (s.live fun s => s.startCapsule p 9 none fun h c s => s.regrd h p c)

/-- R458: REGWR. -/
def execRegwr (p : Nat) (s : State) : Host.Outcome State Fault Refusal := .next (s.live fun s => s.startCapsule p 10 none fun h c s => s.regwr h p c)

/-- R449: a private read. -/
def execResponseRead (p n : Nat) (s : State) : Host.Outcome State Fault Refusal := .next (s.live fun s => s.responseRead p n)

/-- R449: a private write. -/
def execPrivateWrite (p : Nat) (bytes : List Byte) (tb : Nat) (s : State) : Host.Outcome State Fault Refusal :=
  .next (s.live fun s => s.privateWrite p bytes tb)

/-- R449: a partial capsule has been idle for 10 ms. -/
def execCapsuleTimeout (p : Nat) (s : State) : Host.Outcome State Fault Refusal := .next (s.live fun s => s.capsuleTimeout p)

/-- R456: a forwarded capsule has had no answer for 50 ms. -/
def execCapsuleForwardTimeout (p tag : Nat) (s : State) : Host.Outcome State Fault Refusal := .next (s.live fun s => s.forwardTimeout p tag)

end Sys2Proof.Machine
end

