-- ==== Sys2Proof/Machine/HostRows.lean ====
section
/-! DEFINITION. The commands of the host ports, registers and security (14, R445 to R448, R468; 15; 18; 19). -/

namespace Sys2Proof.Machine

/-- R447: a maximum write or read length. -/
def clampLen (n : Nat) : Nat := max 16 (min 4112 n)

/-- R447: what the read form of RSTACT returns, in ms. -/
def rstactTime (a : Byte) : Byte := if a = 1 then 1 else if a = 2 then 100 else Config.rstactTime a

/-- R496: the ephemeral key of a report is erased. -/
def Hall.dropEph (H : Hall) (report : Nat) : Hall :=
  { H with sec := { H.sec with ephs := H.sec.ephs.filter fun (e : Ephemeral) => e.report != report } }

/-- R490: the health of the random-bit generator. -/
def Hall.setTrng (H : Hall) (ok : Bool) : Hall := { H with sec := { H.sec with trngOk := ok } }

/-- R586, R587: sampler k's sample names the core's last commit, with IDLE. A core that has never committed has none to name: its fields
are free. -/
def Hall.sampleIdle (H : Hall) (k : Nat) : Hall :=
  match H.cnt.samplers[k]? with
  | none => H
  | some x =>
    match x.wrap with
    | none => H
    | some w =>
      let c := x.counter / 12
      let last := (H.core c).lastCommit.getD (Config.noCommit 0 % 16384, Config.noCommit 1 % 256, Config.noCommit 2 % 65536)
      let e : Sample := ⟨k, true, c, last.1, last.2.1, last.2.2, w.1, w.2⟩
      let cnt := { H.cnt with samplers := modAt H.cnt.samplers k fun x => { x with wrap := none } }
      { H with cnt := if cnt.samples.length < 64 then { cnt with samples := cnt.samples ++ [e] } else { cnt with lost := inc8 cnt.lost } }

/-- R482: a private write with a parity or CRC5 error. -/
def execI3cParityError (p : Nat) (crc5 : Bool) (s : State) : Host.Outcome State Fault Refusal := .next (s.live fun s => s.parityError p crc5)

/-- R447: ENTDAA. -/
def execEntdaa (p : Nat) (addr : BitVec 7) (s : State) : Host.Outcome State Fault Refusal := .next (s.live fun s => s.entdaa p addr)

/-- R447: SETDASA. -/
def execSetdasa (p : Nat) (static addr : BitVec 7) (s : State) : Host.Outcome State Fault Refusal := .next (s.live fun s => s.setdasa p static addr)

/-- R447: RSTDAA. -/
def execRstdaa (p : Nat) (s : State) : Host.Outcome State Fault Refusal := .next (s.live fun s => s.broadcast p fun P => { P with dyn := 0 })

/-- R446, R447: GETPID. -/
def execGetpid (p : Nat) (s : State) : Host.Outcome State Fault Refusal := .next (s.live fun s => s.direct p id fun _ => provisionalId p)

/-- R446, R447: GETBCR. -/
def execGetbcr (p : Nat) (s : State) : Host.Outcome State Fault Refusal := .next (s.live fun s => s.direct p id fun _ => [0x26])

/-- R446, R447: GETDCR. -/
def execGetdcr (p : Nat) (s : State) : Host.Outcome State Fault Refusal := .next (s.live fun s => s.direct p id fun _ => [0x00])

/-- R447: GETSTATUS; the protocol-error bit clears. -/
def execGetstatus (p : Nat) (s : State) : Host.Outcome State Fault Refusal :=
  .next (s.live fun s => s.direct p (fun P => { P with protoErr := false }) fun _ => beBytes 2 (s.statusWord p))

/-- R447: ENEC; only ENINT has an effect. -/
def execEnec (p : Nat) (events : Byte) (s : State) : Host.Outcome State Fault Refusal :=
  .next (s.live fun s => s.broadcast p fun P => { P with enint := P.enint || events.getLsbD 0 })

/-- R447: DISEC; only DISINT has an effect. -/
def execDisec (p : Nat) (events : Byte) (s : State) : Host.Outcome State Fault Refusal :=
  .next (s.live fun s => s.broadcast p fun P => { P with enint := P.enint && !(events.getLsbD 0) })

/-- R447: SETMWL. -/
def execSetmwl (p : Nat) (len : Nat) (s : State) : Host.Outcome State Fault Refusal :=
  .next (s.live fun s => s.broadcast p fun P => { P with mwl := clampLen len })

/-- R447: SETMRL. -/
def execSetmrl (p : Nat) (len ibi : Nat) (s : State) : Host.Outcome State Fault Refusal :=
  .next (s.live fun s => s.broadcast p fun P => { P with mrl := clampLen len, ibiSize := min 31 ibi })

/-- R447: GETMWL. -/
def execGetmwl (p : Nat) (s : State) : Host.Outcome State Fault Refusal := .next (s.live fun s => s.direct p id fun P => beBytes 2 P.mwl)

/-- R447: GETMRL. -/
def execGetmrl (p : Nat) (s : State) : Host.Outcome State Fault Refusal :=
  .next (s.live fun s => s.direct p id fun P => beBytes 2 P.mrl ++ leBytes 1 P.ibiSize)

/-- R448: ENTHDR0. -/
def execEnthdr0 (p : Nat) (s : State) : Host.Outcome State Fault Refusal := .next (s.live fun s => s.broadcast p fun P => { P with hdr := true })

/-- R448: the HDR exit pattern. -/
def execHdrExit (p : Nat) (s : State) : Host.Outcome State Fault Refusal := .next (s.live fun s => s.broadcast p fun P => { P with hdr := false })

/-- R447: RSTACT action 0x01. -/
def execRstactPortReset (p : Nat) (s : State) : Host.Outcome State Fault Refusal := .next (s.live fun s => s.portReset p)

/-- R447: RSTACT action 0x02. -/
def execRstactHallReset (p : Nat) (s : State) : Host.Outcome State Fault Refusal := .next (s.live fun s => s.rstactHall p)

/-- R447: the read form of RSTACT. -/
def execRstactRead (p : Nat) (action : Byte) (s : State) : Host.Outcome State Fault Refusal :=
  .next (s.live fun s => s.direct p id fun _ => [rstactTime action])

/-- R467, R468: the bus grants an IBI slot. -/
def execIbiSlot (p : Nat) (s : State) : Host.Outcome State Fault Refusal := .next (s.live fun s => s.ibiSlot p)

/-- R479, R558: a packet has left a transmit port. -/
def execTxPacketEnd (h : HallId) (t : Nat) (s : State) : Host.Outcome State Fault Refusal :=
  .next (s.live fun s => (s.inHall h fun H => H.txEnd h.idx t).txOver)

/-- R473: a host writes CSI_TX_CFG_t. -/
def execCsiTxCfgWrite (p t : Nat) (w : Word) (s : State) : Host.Outcome State Fault Refusal :=
  .next (s.live fun s => s.hostWord p (regAddr (portHall p) 0xB (0x10 * t)) w s.pkg.now)

/-- R496: 60 s have passed since a report was signed. -/
def execEphemeralKeyExpire (h : HallId) (report : Nat) (s : State) : Host.Outcome State Fault Refusal :=
  .next (s.live fun s => s.inHall h fun H => H.dropEph report)

/-- R514: a session's scrub has ended. -/
def execSessionScrubDone (h : HallId) (session : Nat) (s : State) : Host.Outcome State Fault Refusal :=
  .next (s.live fun s => (s.ifUp h fun s => s.scrubDone h session).flightEntry)

/-- R515: a domain's release has ended. -/
def execDomainReleaseDone (h : HallId) (domain : Nat) (s : State) : Host.Outcome State Fault Refusal :=
  .next (s.live fun s => s.ifUp h fun s => s.domainDone h domain)

/-- R510: a host writes SEC_ROTATE. -/
def execSecRotate (p : Nat) (w : Word) (s : State) : Host.Outcome State Fault Refusal :=
  .next (s.live fun s => s.hostWord p (regAddr (portHall p) 5 0x80) w s.pkg.now)

/-- R490: the entropy source's health tests fail. -/
def execTrngHealthFail (h : HallId) (s : State) : Host.Outcome State Fault Refusal := .next (s.live fun s => s.inHall h fun H => H.setTrng false)

/-- R490: the health tests pass. -/
def execTrngHealthPass (h : HallId) (s : State) : Host.Outcome State Fault Refusal := .next (s.live fun s => s.inHall h fun H => H.setTrng true)

/-- R582: a host writes CNT_SNAP.GO. -/
def execSnapshot (p : Nat) (s : State) : Host.Outcome State Fault Refusal :=
  .next (s.live fun s => s.hostWord p (regAddr (portHall p) 7 0x00) 1#32 s.pkg.now)

/-- R585: a host writes CNT_SAMPLER_k. -/
def execSamplerWrite (p k : Nat) (w : Word) (s : State) : Host.Outcome State Fault Refusal :=
  .next (s.live fun s => s.hostWord p (regAddr (portHall p) 7 (0x600 + 4 * k)) w s.pkg.now)

/-- R586: a core has committed nothing for 65,536 cycles after a wrap. -/
def execSampleIdleTimeout (h : HallId) (k : Nat) (s : State) : Host.Outcome State Fault Refusal :=
  .next (s.live fun s => s.inHall h fun H => H.sampleIdle k)

/-- R587: a host reads CNT_SAMPLE_HEAD_3. -/
def execSampleHeadRead (p : Nat) (s : State) : Host.Outcome State Fault Refusal := .next (s.live fun s => s.hostRead p (regAddr (portHall p) 7 0x69C))

/-- R583: a host reads the LO word of a counter. -/
def execCounterLoRead (p window n : Nat) (s : State) : Host.Outcome State Fault Refusal :=
  .next (s.live fun s => s.hostRead p (regAddr (portHall p) 7 (0x4000 * (window + 1) + 8 * n)))

/-- R595: a host writes a block's UNLOCK register. -/
def execUnlock (p block : Nat) (w : Word) (_tb : Nat) (s : State) : Host.Outcome State Fault Refusal :=
  .next (s.live fun s => s.hostWord p (regAddr (portHall p) block 0x3FF0) w s.pkg.now)

/-- R595: an armed unlock has not been used for 10 ms. -/
def execUnlockExpired (p block : Nat) (s : State) : Host.Outcome State Fault Refusal :=
  .next (s.live fun s => if s.portUp p then s.unlockExpired p block else s)

/-- R596: a host word reaches a register. -/
def execRegisterWrite (p addr : Nat) (w : Word) (s : State) : Host.Outcome State Fault Refusal :=
  .next (s.live fun s => s.hostWord p addr w s.pkg.now)

end Sys2Proof.Machine
end

