-- ==== Sys2Proof/Machine/IntegrityRows.lean ====
section
/-! DEFINITION. The commands of memory and integrity (10, R323 to R333; 15, R511; 16). -/

namespace Sys2Proof.Machine

/-- R154, R529: a weight bank read is uncorrectable. -/
def execWeightBankError (h : HallId) (c b : Nat) (sidecar : Bool) (cyc : Nat) (s : State) : Host.Outcome State Fault Refusal :=
  .next (s.live fun s => s.weightBankUe h c b sidecar cyc)

/-- R323: a host writes GAL_FRAME_AREA of gallery g. -/
def execFrameAreaRequest (p g : Nat) (w : Word) (s : State) : Host.Outcome State Fault Refusal :=
  .next (s.live fun s => s.hostWord p (regAddr (portHall p) (0x10 + g) 0x20) w s.pkg.now)

/-- R330, R333, R570: an MR4 read. -/
def execMr4Read (h : HallId) (channel : Nat) (hot : Bool) (s : State) : Host.Outcome State Fault Refusal :=
  .next (s.live fun s => s.mr4Read h channel hot)

/-- R331: a DQS tracking pass. -/
def execDqsTracking (h : HallId) (s : State) : Host.Outcome State Fault Refusal := .next (s.live fun s => s.dqsTracking h)

/-- R511: the re-encryption sweep takes one step. -/
def execReencryptStep (h : HallId) (s : State) : Host.Outcome State Fault Refusal := .next (s.live fun s => s.ifUp h fun s => s.sweepStep h)

/-- R538: the walker reads a word. -/
def execScrubWalkerStep (h : HallId) (found : ScrubFind) (s : State) : Host.Outcome State Fault Refusal :=
  .next (s.live fun s => s.walkerStep h found)

/-- R539: a scrub pass has ended. -/
def execScrubPassEnd (h : HallId) (read corrected marked : Nat) (cut : Bool) (s : State) : Host.Outcome State Fault Refusal :=
  .next (s.live fun s => s.inHall h fun H => H.passEnd read corrected marked cut)

/-- R539: a host writes ERR_PASS_CTL. -/
def execPassGo (p : Nat) (w : Word) (s : State) : Host.Outcome State Fault Refusal :=
  .next (s.live fun s => s.hostWord p (regAddr (portHall p) 4 0x90) w s.pkg.now)

/-- R527: a host writes ERR_CE_CTL.CLEAR. -/
def execCeLogClear (p : Nat) (s : State) : Host.Outcome State Fault Refusal :=
  .next (s.live fun s => s.hostWord p (regAddr (portHall p) 4 0x88) 0x80000000#32 s.pkg.now)

/-- R525 to R528: the correctable errors of one cycle. -/
def execCorrectableError (h : HallId) (hits : List CeHit) (s : State) : Host.Outcome State Fault Refusal :=
  .next (s.live fun s => s.correctableError h hits)

/-- R529 to R533: an uncorrectable error. -/
def execUncorrectableError (h : HallId) (place : UePlace) (cyc : Nat) (s : State) : Host.Outcome State Fault Refusal :=
  .next (s.live fun s => s.uncorrectable h place cyc)

/-- R531: a core or gallery is released after its reset. -/
def execDomainResetRelease (h : HallId) (g : Nat) (core : Option Nat) (passed : Bool) (s : State) : Host.Outcome State Fault Refusal :=
  .next (s.live fun s => s.inHall h fun H => H.domainRelease g core passed)

/-- R541: the fault pin's hold has ended. -/
def execFaultPinHoldEnd (h : HallId) (_tb : Nat) (s : State) : Host.Outcome State Fault Refusal := .next (s.live fun s => s.pinHoldEnd h)

/-- R549: the steward watchdog has expired. -/
def execWatchdogExpire (h : HallId) (s : State) : Host.Outcome State Fault Refusal := .next (s.live fun s => s.resetFor h 6)

/-- R549: a host writes ERR_RESET. -/
def execHallResetWrite (p : Nat) (w : Word) (s : State) : Host.Outcome State Fault Refusal :=
  .next (s.live fun s => s.hostWord p (regAddr (portHall p) 4 0x08) w s.pkg.now)

end Sys2Proof.Machine
end

