-- ==== Sys2Proof/Machine/PowerRows.lean ====
section
/-! DEFINITION. The commands of power control (17). -/

namespace Sys2Proof.Machine

/-- R555: a host writes its PWR_REQ. -/
def execPowerRequest (p : Nat) (w : Word) (vt : Nat) (s : State) : Host.Outcome State Fault Refusal :=
  .next (s.live fun s => (s.atVt vt).hostWord p (regAddr (portHall p) 3 (0x10 + 4 * portIdx p)) w vt)

/-- R565: a host writes PWR_CTL.WAKE_RELEASE. -/
def execWakeRelease (p : Nat) (vt : Nat) (s : State) : Host.Outcome State Fault Refusal :=
  .next (s.live fun s => (s.atVt vt).hostWord p (regAddr (portHall p) 3 0x04) (2#32 ||| BitVec.ofNat 32 (b2n (s.hall (portHall p)).pwr.driveHold)) vt)

/-- R558: a gallery's drain has ended. -/
def execGalleryDrainDone (h : HallId) (g : Nat) (s : State) : Host.Outcome State Fault Refusal := .next (s.live fun s => s.drainDone h g)

/-- R560: the entry window has ended. -/
def execEntryWindowEnd (vt : Nat) (s : State) : Host.Outcome State Fault Refusal := .next (s.live fun s => (s.atVt vt).windowEnd vt)

/-- R567: a row of a rise has ended. -/
def execPowerRiseDone (vt : Nat) (s : State) : Host.Outcome State Fault Refusal :=
  .next (s.live fun s => (((s.atVt vt).riseDone vt).coldWake s).flightEntry)

/-- R568: power-good has not come in time. -/
def execPowerGoodTimeout (h : HallId) (s : State) : Host.Outcome State Fault Refusal := .next (s.live fun s => s.goodTimeout h)

/-- R569: the voltage ramp has ended. -/
def execVoltageRampDone (h : HallId) (s : State) : Host.Outcome State Fault Refusal := .next (s.live fun s => s.inHall h fun H => H.rampDone)

/-- R570: 110 °C or above. -/
def execThermalStepDown (h : HallId) (temp : Int) (s : State) : Host.Outcome State Fault Refusal :=
  .next (s.live fun s => s.inHall h fun H => if temp < 110 then H else H.capStep (H.pwr.cap - 1) temp)

/-- R570: below 105 °C for 100 ms. -/
def execThermalStepUp (h : HallId) (temp : Int) (s : State) : Host.Outcome State Fault Refusal :=
  .next (s.live fun s => s.inHall h fun H => if 105 ≤ temp then H else H.capStep (min 3 (H.pwr.cap + 1)) temp)

/-- R571: 125 °C. -/
def execThermalTrip (h : HallId) (temp : Int) (s : State) : Host.Outcome State Fault Refusal :=
  .next (s.live fun s => s.ifUp h fun s => if temp < 125 then s else s.thermalTrip h temp)

/-- R562, R563: a debounced wake pin becomes active. -/
def execWakePinAccept (n : Nat) (vt : Nat) (s : State) : Host.Outcome State Fault Refusal := .next (s.live fun s => (s.atVt vt).wakePinAccept n vt)

/-- R563: a level pin is still active. -/
def execLevelWakeRepeat (n : Nat) (vt : Nat) (s : State) : Host.Outcome State Fault Refusal := .next (s.live fun s => (s.atVt vt).levelRepeat n vt)

/-- R564: a stuck pin has been inactive for 1 s. -/
def execWakeStuckClear (n : Nat) (vt : Nat) (s : State) : Host.Outcome State Fault Refusal := .next (s.live fun s => (s.atVt vt).stuckClear n vt)

/-- R562: a debounced wake pin becomes inactive. -/
def execWakePinInactive (n : Nat) (vt : Nat) (s : State) : Host.Outcome State Fault Refusal :=
  .next (s.live fun s => (s.atVt vt).wakePinInactive n vt)

/-- R517: a window of 250 ms has ended. -/
def execPackagePowerWindow (milliwatts : Nat) (s : State) : Host.Outcome State Fault Refusal :=
  .next (s.live fun s => { s with pkg := { s.pkg with watts := min 1022 (milliwatts / 2000 * 2) } })

end Sys2Proof.Machine
end

