-- ==== Sys2Proof/Machine/StairRows.lean ====
section
/-! DEFINITION. The commands of the Stair (01, R39 to R51). -/

namespace Sys2Proof.Machine

/-- R50, R51, R63: Stair training has ended. -/
def execStairTrainingDone (goodA goodB : BitVec 32) (s : State) : Host.Outcome State Fault Refusal :=
  .next (s.live fun s => s.stairTrained goodA goodB)

/-- R43, R45: a SYNC arrives. -/
def execStairSync (h : HallId) (m : StairMsg) (s : State) : Host.Outcome State Fault Refusal := .next (s.live fun s => s.stairSync h m)

/-- R43, R44: a MOVE arrives. -/
def execStairMove (h : HallId) (m : StairMsg) (s : State) : Host.Outcome State Fault Refusal := .next (s.live fun s => s.stairMove h m)

/-- R43, R121: a COMPARE fragment arrives. -/
def execStairCompare (h : HallId) (m : StairMsg) (s : State) : Host.Outcome State Fault Refusal := .next (s.live fun s => s.stairCompare h m)

/-- R41, R45: a CONTROL fragment arrives. -/
def execStairControl (h : HallId) (m : StairMsg) (means : ControlMsg) (s : State) : Host.Outcome State Fault Refusal :=
  .next (s.live fun s => s.stairControl h m means)

/-- R49, R100: a BEAT arrives. -/
def execStairBeat (h : HallId) (m : StairMsg) (tb : Nat) (s : State) : Host.Outcome State Fault Refusal := .next (s.live fun s => s.stairBeat h m tb)

/-- R49: a BEAT is sent. -/
def execBeatSend (h : HallId) (s : State) : Host.Outcome State Fault Refusal := .next (s.live fun s => s.beatSend h)

/-- R49: BEAT_MISS_LIMIT periods have passed without a BEAT. -/
def execPartnerLost (h : HallId) (s : State) : Host.Outcome State Fault Refusal := .next (s.live fun s => s.missBeats h)

end Sys2Proof.Machine
end

