-- ==== Sys2Proof/Machine/TimeRows.lean ====
section
/-! DEFINITION. The commands of the timebase and the schedule (03; 01, R60; 16, R546). -/

namespace Sys2Proof.Machine

/-- R546: the last warming sweep of a hall ends with the sweep that has just begun. -/
def Hall.endWarming (H : Hall) : Hall :=
  if H.swp.warming = 1 && H.swp.boundaryDue then { H with swp := { H.swp with warming := 0, readmitted := false } } else H

/-- R102: a sweep reference arrives. -/
def execReference (h : HallId) (src : RefSource) (tb : Nat) (s : State) : Host.Outcome State Fault Refusal :=
  .next (s.live fun s => s.reference h src tb)

/-- R102: the reference is lost. -/
def execReferenceLost (h : HallId) (tb : Nat) (s : State) : Host.Outcome State Fault Refusal :=
  .next (s.live fun s => s.ifUp h fun s => s.referenceLost h tb)

/-- R102: a sweep begins in HOLDOVER. -/
def execHoldoverSweep (h : HallId) (tb : Nat) (s : State) : Host.Outcome State Fault Refusal :=
  .next (s.live fun s => s.inHall h fun H => H.holdoverSweep h.idx tb)

/-- R119: the internal generator's pulse. -/
def execGeneratorSweep (h : HallId) (tb : Nat) (s : State) : Host.Outcome State Fault Refusal :=
  .next (s.live fun s => s.ifUp h fun s => s.generatorSweep h tb)

/-- R104: a tick boundary. -/
def execTickBoundary (h : HallId) (tb : Nat) (s : State) : Host.Outcome State Fault Refusal :=
  .next (s.live fun s => (s.ifUp h fun s => s.tickBoundary h tb).flightEntry)

/-- R60: a core has gone 1,024 sweeps without a fence. -/
def execStrikeReset (h : HallId) (g c : Nat) (s : State) : Host.Outcome State Fault Refusal :=
  .next (s.live fun s => s.inHall h fun H => H.onGal g fun G => G.strikeReset c)

/-- R101: the pulse on FSYNC_OUT n has run its width. -/
def execFsyncOutPulseEnd (n : Nat) (tb : Nat) (s : State) : Host.Outcome State Fault Refusal :=
  .next (s.live fun s => s.inHall .a fun H => H.endPulse n tb)

/-- R113: a slot that waited for its previous stream issues. -/
def execSlotDeferredIssue (h : HallId) (part slot : Nat) (_tb : Nat) (s : State) : Host.Outcome State Fault Refusal :=
  .next (s.live fun s => s.inHall h fun H => ((H.deferredIssue part slot).after h.idx).admitWaiting h.idx)

/-- R546: the eighth warming sweep has ended. -/
def execWarmingEnd (h : HallId) (s : State) : Host.Outcome State Fault Refusal := .next (s.live fun s => s.inHall h fun H => H.endWarming)

end Sys2Proof.Machine
end

