-- ==== Sys2Proof/Machine/VestRows.lean ====
section
/-! DEFINITION. The commands of the Vestibule and the microphones (11, 12). -/

namespace Sys2Proof.Machine

/-- R371: an audio-frame boundary. -/
def execAudioFrameBoundary (vt : Nat) (f : AudioFrame) (s : State) : Host.Outcome State Fault Refusal :=
  .next (s.live fun s => (s.atVt vt).audioBoundary vt f)

/-- R372: a candidate is rejected. -/
def execCandidateReject (c : Nat) (s : State) : Host.Outcome State Fault Refusal := .next (s.live fun s => s.candidateReject c)

/-- R382: the level descends for idleness. -/
def execIdleDescent (vt : Nat) (s : State) : Host.Outcome State Fault Refusal := .next (s.live fun s => (s.atVt vt).descentStep vt)

/-- R385: a microphone change has been deferred for 1,500 ms. -/
def execMicDeferTimeout (vt : Nat) (s : State) : Host.Outcome State Fault Refusal := .next (s.live fun s => (s.atVt vt).micDeferTimeout vt)

/-- R384: a host writes VST_CTL. -/
def execDescend (p : Nat) (w : Word) (s : State) : Host.Outcome State Fault Refusal :=
  .next (s.live fun s => s.hostWord p (regAddr (portHall p) 9 0x00) w s.pkg.now)

/-- R370: the mirror update. -/
def execCaptureMirrorUpdate (vt : Nat) (s : State) : Host.Outcome State Fault Refusal := .next (s.live fun s => (s.atVt vt).mirrorUpdate)

/-- R443: a frame of the Vestibule camera lane. -/
def execPresenceFrame (vt : Nat) (f : PresenceFrame) (s : State) : Host.Outcome State Fault Refusal :=
  .next (s.live fun s => (s.atVt vt).presenceFrame vt f)

/-- R394: a host writes MIC_CTL. -/
def execModeReq (p : Nat) (w : Word) (s : State) : Host.Outcome State Fault Refusal :=
  .next (s.live fun s => s.hostWord p (regAddr (portHall p) 8 0x00) w s.pkg.now)

/-- R399: a host writes MIC_CAL_m. -/
def execMicCalWrite (p m : Nat) (w : Word) (s : State) : Host.Outcome State Fault Refusal :=
  .next (s.live fun s => s.hostWord p (regAddr (portHall p) 8 (0x100 + 4 * m)) w s.pkg.now)

/-- R401, R402: an array's block. -/
def execMicBlockWrite (array vt : Nat) (s : State) : Host.Outcome State Fault Refusal := .next (s.live fun s => (s.atVt vt).micBlockWrite array)

/-- R380: the copies of a flight's entry have ended. -/
def execFlightEntryCopyDone (vt : Nat) (s : State) : Host.Outcome State Fault Refusal := .next (s.live fun s => (s.atVt vt).entryDone vt)

end Sys2Proof.Machine
end

