-- ==== Sys2Proof/Machine/Dispatch.lean ====
section
/-! DEFINITION. One arm for each command of the opcode table: its meaning. -/

namespace Sys2Proof.Machine

def exec (i : Instr) (s : State) : Host.Outcome State Fault Refusal :=
  match i with
  | .porNAssert ns => Sys2Proof.Machine.execPorNAssert ns s
  | .porNRelease straps tb => Sys2Proof.Machine.execPorNRelease straps tb s
  | .pgFall h vt planned => Sys2Proof.Machine.execPgFall h vt planned s
  | .firmwareLoad flash => Sys2Proof.Machine.execFirmwareLoad flash s
  | .dramTrainingDone h found rate density ranks => Sys2Proof.Machine.execDramTrainingDone h found rate density ranks s
  | .memoryFillDone h what => Sys2Proof.Machine.execMemoryFillDone h what s
  | .flashImageLoad flash => Sys2Proof.Machine.execFlashImageLoad flash s
  | .hallBAcceptTimeout => Sys2Proof.Machine.execHallBAcceptTimeout s
  | .stairTrainingDone goodA goodB => Sys2Proof.Machine.execStairTrainingDone goodA goodB s
  | .stairSync h m => Sys2Proof.Machine.execStairSync h m s
  | .stairMove h m => Sys2Proof.Machine.execStairMove h m s
  | .stairCompare h m => Sys2Proof.Machine.execStairCompare h m s
  | .stairControl h m means => Sys2Proof.Machine.execStairControl h m means s
  | .stairBeat h m tb => Sys2Proof.Machine.execStairBeat h m tb s
  | .beatSend h => Sys2Proof.Machine.execBeatSend h s
  | .partnerLost h => Sys2Proof.Machine.execPartnerLost h s
  | .warmingEnd h => Sys2Proof.Machine.execWarmingEnd h s
  | .reference h src tb => Sys2Proof.Machine.execReference h src tb s
  | .referenceLost h tb => Sys2Proof.Machine.execReferenceLost h tb s
  | .holdoverSweep h tb => Sys2Proof.Machine.execHoldoverSweep h tb s
  | .generatorSweep h tb => Sys2Proof.Machine.execGeneratorSweep h tb s
  | .tickBoundary h tb => Sys2Proof.Machine.execTickBoundary h tb s
  | .strikeReset h g c => Sys2Proof.Machine.execStrikeReset h g c s
  | .fsyncOutPulseEnd n tb => Sys2Proof.Machine.execFsyncOutPulseEnd n tb s
  | .slotDeferredIssue h part slot tb => Sys2Proof.Machine.execSlotDeferredIssue h part slot tb s
  | .activate p => Sys2Proof.Machine.execActivate p s
  | .discard p => Sys2Proof.Machine.execDiscard p s
  | .activationAckTimeout h => Sys2Proof.Machine.execActivationAckTimeout h s
  | .commandFetch h ctx cyc => Sys2Proof.Machine.execCommandFetch h ctx cyc s
  | .endStream h ctx cyc => Sys2Proof.Machine.execEndStream h ctx cyc s
  | .sync h ctx cyc => Sys2Proof.Machine.execSync h ctx cyc s
  | .copy h c cyc => Sys2Proof.Machine.execCopy h c cyc s
  | .placeHold h c cyc => Sys2Proof.Machine.execPlaceHold h c cyc s
  | .placeRelease h c cyc => Sys2Proof.Machine.execPlaceRelease h c cyc s
  | .frameMoveCommit h frame => Sys2Proof.Machine.execFrameMoveCommit h frame s
  | .cellOpSet h c cyc => Sys2Proof.Machine.execCellOpSet h c cyc s
  | .cellOpAdd h c cyc => Sys2Proof.Machine.execCellOpAdd h c cyc s
  | .farSignal h c cyc => Sys2Proof.Machine.execFarSignal h c cyc s
  | .matrix h c cyc => Sys2Proof.Machine.execMatrix h c cyc s
  | .attn h c cyc => Sys2Proof.Machine.execAttn h c cyc s
  | .kvAppend h c cyc => Sys2Proof.Machine.execKvAppend h c cyc s
  | .kvPageopCreate h c cyc => Sys2Proof.Machine.execKvPageopCreate h c cyc s
  | .kvPageopDestroy h c cyc => Sys2Proof.Machine.execKvPageopDestroy h c cyc s
  | .kvPageopFork h c cyc => Sys2Proof.Machine.execKvPageopFork h c cyc s
  | .kvPageopDrop h c cyc => Sys2Proof.Machine.execKvPageopDrop h c cyc s
  | .kvPageopTruncate h c cyc => Sys2Proof.Machine.execKvPageopTruncate h c cyc s
  | .kvPageopSeal h c cyc => Sys2Proof.Machine.execKvPageopSeal h c cyc s
  | .attnMerge h c cyc => Sys2Proof.Machine.execAttnMerge h c cyc s
  | .attnBwd h c cyc => Sys2Proof.Machine.execAttnBwd h c cyc s
  | .recur h c cyc => Sys2Proof.Machine.execRecur h c cyc s
  | .stateOpInit h c cyc => Sys2Proof.Machine.execStateOpInit h c cyc s
  | .stateOpAnchor h c cyc => Sys2Proof.Machine.execStateOpAnchor h c cyc s
  | .conv h c cyc => Sys2Proof.Machine.execConv h c cyc s
  | .haloSend h c cyc => Sys2Proof.Machine.execHaloSend h c cyc s
  | .cropResize h c cyc => Sys2Proof.Machine.execCropResize h c cyc s
  | .boxDecode h c cyc => Sys2Proof.Machine.execBoxDecode h c cyc s
  | .nms h c cyc => Sys2Proof.Machine.execNms h c cyc s
  | .commitPoint h ctx pos cyc => Sys2Proof.Machine.execCommitPoint h ctx pos cyc s
  | .publicationEnd h ctx pos cyc => Sys2Proof.Machine.execPublicationEnd h ctx pos cyc s
  | .hallCellSignal h => Sys2Proof.Machine.execHallCellSignal h s
  | .killComplete h ctx pos cyc => Sys2Proof.Machine.execKillComplete h ctx pos cyc s
  | .cmdOverrun h ctx pos cyc => Sys2Proof.Machine.execCmdOverrun h ctx pos cyc s
  | .weightBankError h c b sidecar cyc => Sys2Proof.Machine.execWeightBankError h c b sidecar cyc s
  | .contextAdmit h c cyc => Sys2Proof.Machine.execContextAdmit h c cyc s
  | .swapOutDone h ctx cyc => Sys2Proof.Machine.execSwapOutDone h ctx cyc s
  | .swapInDone h ctx cyc => Sys2Proof.Machine.execSwapInDone h ctx cyc s
  | .frameAreaRequest p g w => Sys2Proof.Machine.execFrameAreaRequest p g w s
  | .mr4Read h channel hot => Sys2Proof.Machine.execMr4Read h channel hot s
  | .dqsTracking h => Sys2Proof.Machine.execDqsTracking h s
  | .reencryptStep h => Sys2Proof.Machine.execReencryptStep h s
  | .scrubWalkerStep h found => Sys2Proof.Machine.execScrubWalkerStep h found s
  | .scrubPassEnd h read corrected marked cut => Sys2Proof.Machine.execScrubPassEnd h read corrected marked cut s
  | .passGo p w => Sys2Proof.Machine.execPassGo p w s
  | .ceLogClear p => Sys2Proof.Machine.execCeLogClear p s
  | .correctableError h hits => Sys2Proof.Machine.execCorrectableError h hits s
  | .uncorrectableError h place cyc => Sys2Proof.Machine.execUncorrectableError h place cyc s
  | .domainResetRelease h g core passed => Sys2Proof.Machine.execDomainResetRelease h g core passed s
  | .faultPinHoldEnd h tb => Sys2Proof.Machine.execFaultPinHoldEnd h tb s
  | .watchdogExpire h => Sys2Proof.Machine.execWatchdogExpire h s
  | .hallResetWrite p w => Sys2Proof.Machine.execHallResetWrite p w s
  | .audioFrameBoundary vt f => Sys2Proof.Machine.execAudioFrameBoundary vt f s
  | .candidateReject c => Sys2Proof.Machine.execCandidateReject c s
  | .idleDescent vt => Sys2Proof.Machine.execIdleDescent vt s
  | .micDeferTimeout vt => Sys2Proof.Machine.execMicDeferTimeout vt s
  | .descend p w => Sys2Proof.Machine.execDescend p w s
  | .captureMirrorUpdate vt => Sys2Proof.Machine.execCaptureMirrorUpdate vt s
  | .presenceFrame vt f => Sys2Proof.Machine.execPresenceFrame vt f s
  | .modeReq p w => Sys2Proof.Machine.execModeReq p w s
  | .micCalWrite p m w => Sys2Proof.Machine.execMicCalWrite p m w s
  | .micBlockWrite array vt => Sys2Proof.Machine.execMicBlockWrite array vt s
  | .frameStart h port head fnum us sincePulse tb => Sys2Proof.Machine.execFrameStart h port head fnum us sincePulse tb s
  | .linePacket h port vc dt pixels crcOk hdrCorr => Sys2Proof.Machine.execLinePacket h port vc dt pixels crcOk hdrCorr s
  | .embeddedDataPacket h port head dt data => Sys2Proof.Machine.execEmbeddedDataPacket h port head dt data s
  | .ignoredShortPacket h port head dt => Sys2Proof.Machine.execIgnoredShortPacket h port head dt s
  | .frameEnd h port head bursts => Sys2Proof.Machine.execFrameEnd h port head bursts s
  | .frameTimeout h port vc us => Sys2Proof.Machine.execFrameTimeout h port vc us s
  | .degradeWritesDone h port => Sys2Proof.Machine.execDegradeWritesDone h port s
  | .ispPieceStart h => Sys2Proof.Machine.execIspPieceStart h s
  | .ispPieceDone h tb => Sys2Proof.Machine.execIspPieceDone h tb s
  | .sensorWriteDone h ctrl ack => Sys2Proof.Machine.execSensorWriteDone h ctrl ack s
  | .sensorBusTimeout h ctrl => Sys2Proof.Machine.execSensorBusTimeout h ctrl s
  | .paramCopyDone h ctx => Sys2Proof.Machine.execParamCopyDone h ctx s
  | .hostFeedRecord h port head packet => Sys2Proof.Machine.execHostFeedRecord h port head packet s
  | .modelPartDone h model fromFlash => Sys2Proof.Machine.execModelPartDone h model fromFlash s
  | .bindSession p => Sys2Proof.Machine.execBindSession p s
  | .bindStream p => Sys2Proof.Machine.execBindStream p s
  | .bindFeedRing p => Sys2Proof.Machine.execBindFeedRing p s
  | .unbindSession p => Sys2Proof.Machine.execUnbindSession p s
  | .unbindStream p => Sys2Proof.Machine.execUnbindStream p s
  | .unbindFeedRing p => Sys2Proof.Machine.execUnbindFeedRing p s
  | .submitCreate p => Sys2Proof.Machine.execSubmitCreate p s
  | .submitResume p => Sys2Proof.Machine.execSubmitResume p s
  | .cancel p => Sys2Proof.Machine.execCancel p s
  | .queryAccount p => Sys2Proof.Machine.execQueryAccount p s
  | .queryCompletions p => Sys2Proof.Machine.execQueryCompletions p s
  | .queryStream p => Sys2Proof.Machine.execQueryStream p s
  | .queryEvents p => Sys2Proof.Machine.execQueryEvents p s
  | .queryPort p => Sys2Proof.Machine.execQueryPort p s
  | .attest p => Sys2Proof.Machine.execAttest p s
  | .keywrapModelKey p => Sys2Proof.Machine.execKeywrapModelKey p s
  | .keywrapStreamKey p => Sys2Proof.Machine.execKeywrapStreamKey p s
  | .keywrapRotate p => Sys2Proof.Machine.execKeywrapRotate p s
  | .keywrapErase p => Sys2Proof.Machine.execKeywrapErase p s
  | .loadmodelLoad p flash => Sys2Proof.Machine.execLoadmodelLoad p flash s
  | .loadmodelUnload p => Sys2Proof.Machine.execLoadmodelUnload p s
  | .regrd p => Sys2Proof.Machine.execRegrd p s
  | .regwr p => Sys2Proof.Machine.execRegwr p s
  | .responseRead p n => Sys2Proof.Machine.execResponseRead p n s
  | .capsuleTimeout p => Sys2Proof.Machine.execCapsuleTimeout p s
  | .capsuleForwardTimeout p tag => Sys2Proof.Machine.execCapsuleForwardTimeout p tag s
  | .i3cParityError p crc5 => Sys2Proof.Machine.execI3cParityError p crc5 s
  | .entdaa p addr => Sys2Proof.Machine.execEntdaa p addr s
  | .setdasa p static addr => Sys2Proof.Machine.execSetdasa p static addr s
  | .rstdaa p => Sys2Proof.Machine.execRstdaa p s
  | .getpid p => Sys2Proof.Machine.execGetpid p s
  | .getbcr p => Sys2Proof.Machine.execGetbcr p s
  | .getdcr p => Sys2Proof.Machine.execGetdcr p s
  | .getstatus p => Sys2Proof.Machine.execGetstatus p s
  | .enec p events => Sys2Proof.Machine.execEnec p events s
  | .disec p events => Sys2Proof.Machine.execDisec p events s
  | .setmwl p len => Sys2Proof.Machine.execSetmwl p len s
  | .setmrl p len ibi => Sys2Proof.Machine.execSetmrl p len ibi s
  | .getmwl p => Sys2Proof.Machine.execGetmwl p s
  | .getmrl p => Sys2Proof.Machine.execGetmrl p s
  | .enthdr0 p => Sys2Proof.Machine.execEnthdr0 p s
  | .rstactPortReset p => Sys2Proof.Machine.execRstactPortReset p s
  | .rstactHallReset p => Sys2Proof.Machine.execRstactHallReset p s
  | .rstactRead p action => Sys2Proof.Machine.execRstactRead p action s
  | .ibiSlot p => Sys2Proof.Machine.execIbiSlot p s
  | .txPacketEnd h t => Sys2Proof.Machine.execTxPacketEnd h t s
  | .csiTxCfgWrite p t w => Sys2Proof.Machine.execCsiTxCfgWrite p t w s
  | .ephemeralKeyExpire h report => Sys2Proof.Machine.execEphemeralKeyExpire h report s
  | .sessionScrubDone h session => Sys2Proof.Machine.execSessionScrubDone h session s
  | .domainReleaseDone h domain => Sys2Proof.Machine.execDomainReleaseDone h domain s
  | .secRotate p w => Sys2Proof.Machine.execSecRotate p w s
  | .trngHealthFail h => Sys2Proof.Machine.execTrngHealthFail h s
  | .powerRequest p w vt => Sys2Proof.Machine.execPowerRequest p w vt s
  | .wakeRelease p vt => Sys2Proof.Machine.execWakeRelease p vt s
  | .galleryDrainDone h g => Sys2Proof.Machine.execGalleryDrainDone h g s
  | .entryWindowEnd vt => Sys2Proof.Machine.execEntryWindowEnd vt s
  | .powerRiseDone vt => Sys2Proof.Machine.execPowerRiseDone vt s
  | .powerGoodTimeout h => Sys2Proof.Machine.execPowerGoodTimeout h s
  | .voltageRampDone h => Sys2Proof.Machine.execVoltageRampDone h s
  | .thermalStepDown h temp => Sys2Proof.Machine.execThermalStepDown h temp s
  | .thermalStepUp h temp => Sys2Proof.Machine.execThermalStepUp h temp s
  | .thermalTrip h temp => Sys2Proof.Machine.execThermalTrip h temp s
  | .wakePinAccept n vt => Sys2Proof.Machine.execWakePinAccept n vt s
  | .levelWakeRepeat n vt => Sys2Proof.Machine.execLevelWakeRepeat n vt s
  | .wakeStuckClear n vt => Sys2Proof.Machine.execWakeStuckClear n vt s
  | .snapshot p => Sys2Proof.Machine.execSnapshot p s
  | .samplerWrite p k w => Sys2Proof.Machine.execSamplerWrite p k w s
  | .sampleIdleTimeout h k => Sys2Proof.Machine.execSampleIdleTimeout h k s
  | .sampleHeadRead p => Sys2Proof.Machine.execSampleHeadRead p s
  | .counterLoRead p window n => Sys2Proof.Machine.execCounterLoRead p window n s
  | .unlock p block w tb => Sys2Proof.Machine.execUnlock p block w tb s
  | .unlockExpired p block => Sys2Proof.Machine.execUnlockExpired p block s
  | .registerWrite p addr w => Sys2Proof.Machine.execRegisterWrite p addr w s
  | .jtagBypass => Sys2Proof.Machine.execJtagBypass s
  | .jtagIdcode => Sys2Proof.Machine.execJtagIdcode s
  | .jtagSamplePreload pins => Sys2Proof.Machine.execJtagSamplePreload pins s
  | .jtagExtest => Sys2Proof.Machine.execJtagExtest s
  | .jtagTrst => Sys2Proof.Machine.execJtagTrst s
  | .privateWrite p bytes tb => Sys2Proof.Machine.execPrivateWrite p bytes tb s
  | .hdrExit p => Sys2Proof.Machine.execHdrExit p s
  | .headerUncorrectable h port vc => Sys2Proof.Machine.execHeaderUncorrectable h port vc s
  | .undeclaredPacket h port head dt => Sys2Proof.Machine.execUndeclaredPacket h port head dt s
  | .sotError h port lane => Sys2Proof.Machine.execSotError h port lane s
  | .trngHealthPass h => Sys2Proof.Machine.execTrngHealthPass h s
  | .wakePinInactive n vt => Sys2Proof.Machine.execWakePinInactive n vt s
  | .packagePowerWindow milliwatts => Sys2Proof.Machine.execPackagePowerWindow milliwatts s
  | .pgRise h => Sys2Proof.Machine.execPgRise h s
  | .supplyOutOfRange => Sys2Proof.Machine.execSupplyOutOfRange s
  | .flightEntryCopyDone vt => Sys2Proof.Machine.execFlightEntryCopyDone vt s

end Sys2Proof.Machine
end

