-- ==== Sys2Proof/Safety.lean ====
section
/-! DEFINITION. Safe runs, and the invariants that claims are stated with. -/

namespace Sys2Proof.Machine

/-- The outcome is a next state. -/
def isNext : Host.Outcome State Fault Refusal → Bool
  | .next _ => true
  | .fault _ => false
  | .refused _ => false

/-- A state from which the next step goes on. -/
def State.safe (s : State) : Bool := isNext (step s)

/-- The command answers a next state of which P holds. -/
def Gives (c : Instr) (s : State) (P : State → Prop) : Prop := ∃ t, exec c s = .next t ∧ P t

/-- What every state of a hall that a run reaches meets: its host ports (R6), galleries and cores (R22), transmit ports (R473) and
partitions (R52) are as many as the spec gives it; the event log holds at most 256 entries (R600) and each host port at most 64 events
(R468); every memory is in its canonical form. -/
structure Hall.Wf (H : Hall) : Prop where
  ports : H.ports.length = 2
  gals : H.gals.length = 8
  cores : H.cores.length = 96
  tx : H.tx.length = 4
  parts : H.swp.parts.length = 16
  log : H.dev.log.length ≤ 256
  held : ∀ P ∈ H.ports, P.events.length ≤ 64
  op : ∀ k ∈ H.cores, k.op.wf = true
  store : ∀ G ∈ H.gals, G.store.wf = true
  dram : H.mem.dram.rising = true

/-- R614: once an image has been active since the release of POR_N, neither SAMPLE/PRELOAD nor EXTEST is selected; the TAP drives balls only
under EXTEST. -/
def State.TapClosed (s : State) : Prop := (s.imageSeen = true → s.jtag.instr < 2) ∧ (s.jtag.driving = true → s.jtag.instr = 3)

/-- Both halls meet `Hall.Wf`. -/
def State.Wf (s : State) : Prop := s.a.Wf ∧ s.b.Wf

/-- What a command's effect on s, which leads to t, respects whatever the command: the queue is not its business, a free value is drawn
once, the TAP's lock and the halls' invariant are kept. -/
structure State.Keeps (s t : State) : Prop where
  pending : t.pending = s.pending
  free : s.free ≤ t.free
  tap : s.TapClosed → t.TapClosed
  wf : s.Wf → t.Wf

/-! ### What a command leaves alone beside its own effect -/

/-- A hall without its event log, the level of its fault pin and the events that its ports hold for their hosts: what R541 and R468 may still
change once a command has had its effect. -/
def Hall.bare (H : Hall) : Hall :=
  { H with
    dev := { H.dev with log := [], nextSeq := 0 }
    err := { H.err with pin := false }
    ports := H.ports.map fun (P : Port) => { P with events := [], ibiLost := 0 } }

/-- The package without them. -/
def State.bare (s : State) : State := { s with a := s.a.bare, b := s.b.bare }

/-- The hall without its counters either, which the array cycles that a command brings may change too (R579). -/
def Hall.uncounted (H : Hall) : Hall := { H.bare with cnt := Cnt.reset }

/-- Both halls without them. -/
def State.uncounted (s : State) : State := { s with a := s.a.uncounted, b := s.b.uncounted }

/-- R541: the fault pin of hall h stands asserted while its steward finds an unmasked cause. -/
def Hall.PinFollows (H : Hall) (h : Nat) : Prop := H.dev.up = true → H.asserting h = true → H.err.pin = true

/-- The fault pins of both halls do. -/
def State.PinsFollow (s : State) : Prop := s.a.PinFollows 0 ∧ s.b.PinFollows 1

/-! ### The conditions under which a command takes effect -/

/-- R595, R596: the word w of host port p, written at a package address, reaches the register at offset o of block blk (entry idx of the block
index), whose unlock the port has armed, or which needs none. -/
structure State.Reaches (s : State) (p addr : Nat) (w : Word) (idx blk o : Nat) : Prop where
  por : s.por = false
  up : s.portUp p = true
  word : s.wordRefusal p addr (fun i b o => (s.hall (portHall p)).mayWrite p i b o w) = .ok (idx, blk, o)
  armed : (s.port p).armed.contains blk = true

/-- R595: the port's unlock of block blk used up. -/
def State.spent (s : State) (p blk : Nat) : State := s.onPort p fun P => { P with armed := P.armed.filter (· != blk) }

/-- R454: capsule c, of the row's OPCODE and first payload byte, stands first in port p's queue, with rest behind it; the port's hall serves it, and it is
the port's turn. -/
structure State.Heads (s : State) (p : Nat) (c : Capsule) (rest : List Capsule) (op : Nat) (kind : Option Nat) : Prop where
  por : s.por = false
  port : p < 4
  queue : (s.port p).queue = c :: rest
  op : c.opcode = op
  kind : ∀ k, kind = some k → ∃ b r, c.payload = b :: r ∧ b.toNat = k
  serves : (s.hall (portHall p)).serves = true
  turn : s.capsuleTurn p = true

/-- The port's queue with its first capsule taken. -/
def State.taken (s : State) (p : Nat) (rest : List Capsule) : State := s.onPort p fun P => { P with queue := rest }

/-- R457: capsule c of port p names session e, which the port's hall holds bound through port p, and the port holds right r. -/
structure State.Named (u : State) (p : Nat) (c : Capsule) (e : Session) (r : Nat) : Prop where
  image : (u.hall (portHall p)).image.isSome = true
  right : (u.hall (portHall p)).hasRight p r = true
  session : (u.hall (portHall p)).named c = some e
  bound : e.port = p

/-- A row of the engines: where an engine of core c takes command k of context x (R292) and the command's own operation `run` accepts the descriptor
and builds b, the command runs on b from this cycle, unless a frame that it pins at once has all its pins (R343); where the operation finds a
fault, the command ends in that fault (R290). -/
def Issues (row : HallId → Nat → Nat → Instr) (want : List Byte → Bool)
    (run : HallId → Hall → Hall → Ctx → Cmd → Except Nat (Hall × Built)) : Prop :=
  ∀ (s : State) (h : HallId) (c cyc : Nat) (x : Ctx) (k : Cmd), s.por = false →
    let H := (s.hall h).onward cyc
    H.pick h.idx c cyc want = some (x, k) →
    (∀ H1 b, run h H H.settled x k = .ok (H1, b) →
      (H.pinsFull b = false → exec (row h c cyc) s = .next (s.whole fun _ => (s.onHall h fun _ => H1.started x k b cyc).afterAt h c cyc)) ∧
      (H.pinsFull b = true → exec (row h c cyc) s = .next (s.whole fun _ => s))) ∧
    (∀ code, run h H H.settled x k = .error code →
      exec (row h c cyc) s = .next (s.whole fun _ =>
        (s.faultCmd h x k.pos k.op code k.kills (cyc - k.enq) (routeStop H h.idx x k.desc)).afterAt h c cyc))

/-! ### When a command of an engine executes normally: none of the conditions that its chapter's fault table lists holds -/

/-- R302, R322, R145, R147: the ranges and the commit-buffer region of a command. -/
structure Work.Sound (w : Work) (R : Hall) (x : Ctx) : Prop where
  footprint : x.footOk (w.ins ++ w.outs) = true
  ranges : ∀ r ∈ w.ins ++ w.outs, R.rngOk x r = true
  halo : ∀ r ∈ w.outs, r.inHalo = false
  region : w.base + w.kb ≤ 128

/-- R286, R300: two lists of ranges share no byte. -/
abbrev Apart (a b : List Rng) : Prop := anyMeet (spans a) (spans b) = false

/-- R140: an address field is a multiple of n, its reserved bits 0. -/
abbrev At (n a : Nat) : Prop := a % n = 0 ∧ addrOk a = true

/-- What a command builds, with the ranges of its issue. -/
def Built.withWork (b : Built) (w : Work) : Built := { b with ins := spans w.ins, outs := spans w.outs, gsReads := gsBytes w.ins }

/-- R153: no fault of a MATRIX. -/
structure MatrixCmd.Sound (a : MatrixCmd) (R : Hall) (x : Ctx) : Prop where
  work : (a.work x).Sound R x
  apart : Apart (a.work x).outs (a.work x).ins
  inputs : R.inputFault (a.work x).ins = none
  format : a.formatOk = true
  shape : a.shapeOk = true
  align : a.alignOk = true
  room : a.m * 512 + a.m * (64 * cdiv (elemBytes (fElem a.oFmt) a.n) 64) ≤ a.kb * 1024
  time : a.worst ≤ 65536

/-- R249: no fault of a REC of descriptor d; `hd` is the header found at STATE_ADDR. -/
structure RecCmd.Sound (a : RecCmd) (R : Hall) (x : Ctx) (hd : Block) (d : List Byte) : Prop where
  pad : zeros d 62 2 = true
  work : (a.work x).Sound R x
  inputs : R.inputFault (a.work x).ins = none
  apart : Apart [a.rngY x] [a.rngX x, a.rngW x, a.rngSW x] ∧ Apart [a.rngY x] [a.rngSt x, a.rngIn x] ∧
    Apart [a.rngSt x, a.rngIn x] [a.rngX x, a.rngW x, a.rngSW x]
  format : a.formatOk = true
  shape : RecCmd.shapeOf a.cell a.layers a.h a.b = true ∧ 1 ≤ a.t ∧ a.t ≤ 4096 ∧ 1 ≤ a.tOut ∧ a.tOut ≤ a.t ∧ (a.dir = false → a.tOut = a.t) ∧
    a.wTotal ≤ 64
  align : (a.xAddr % 64 = 0 ∧ addrIn a.xAddr = true) ∧ (a.yAddr % 64 = 0 ∧ addrIn a.yAddr = true) ∧
    (a.wAddr % 128 = 0 ∧ addrIn a.wAddr = true) ∧ (a.swEn = true → a.swAddr % 64 = 0 ∧ addrIn a.swAddr = true) ∧
    (a.named = true → a.stAddr % 64 = 0 ∧ addrIn a.stAddr = true)
  room : (if a.noOut then 0 else a.block.len) + a.tOut * a.b * a.ys +
    ((List.range a.layers).map fun l => 4 * (if a.lssm then 2 else a.gates l) * a.h * a.b).foldl (· + ·) 0 ≤ a.kb * 1024
  time : a.time 4 (a.resident 4) ≤ 65536
  header : a.named = true → hd.fmtOk = true ∧ hd.fmt = a.sFmt ∧ hd.same a.block = true ∧ hd.step = a.stepIn
  since : a.sFmt = 12 → a.noOut = false → hd.since + a.t ≤ 4096

/-- R249: no fault of a STATE_OP of descriptor d; `hd` and `sh` are the headers found at DST_ADDR and SRC_ADDR. -/
structure StateCmd.Sound (a : StateCmd) (R : Hall) (x : Ctx) (hd sh : Block) (d : List Byte) : Prop where
  pad : zeros d 39 25 = true
  work : (a.work x hd sh).Sound R x
  inputs : R.inputFault (a.work x hd sh).ins = none
  apart : a.usesSrc = true → Apart (a.work x hd sh).outs ((a.work x hd sh).ins.take 1)
  op : a.subop ≤ 1 ∧ a.flags < 2
  init : a.subop = 0 → (a.dstBlock hd).fmtOk = true ∧ a.cell ≤ 3 ∧ RecCmd.shapeOf a.cell a.layers a.h a.b = true
  anchor : a.subop = 1 → hd.fmtOk = true ∧ sh.fmtOk = true ∧ hd.same sh = true ∧ hd.cell ≤ 3 ∧
    RecCmd.shapeOf hd.cell hd.layers hd.h hd.b = true ∧ ¬(hd.fmt = 12 ∧ sh.fmt = 12)
  align : (a.dst % 64 = 0 ∧ addrIn a.dst = true) ∧ (a.usesSrc = true → a.src % 64 = 0 ∧ addrIn a.src = true)
  room : cdiv (if a.subop = 1 then StateCmd.lenOf hd else (a.dstBlock hd).len) 1024 ≤ a.kb

/-- R227: no fault of an ATTN_MERGE. -/
structure MergeCmd.Sound (a : MergeCmd) (R : Hall) (x : Ctx) : Prop where
  work : (a.work x).Sound R x
  apart : Apart (a.work x).outs (a.work x).ins ∧ Apart ((a.work x).outs.take 1) ((a.work x).outs.drop 1)
  inputs : R.inputFault (a.work x).ins = none
  format : a.oFmt ∈ [5, 6, 7, 8, 9] ∧ a.flags < 4 ∧ (a.stats = true → a.final = true)
  shape : 2 ≤ a.nIn ∧ a.nIn ≤ 16 ∧ 1 ≤ a.m ∧ a.m ≤ 2048 ∧ a.d ∈ [64, 128, 256]
  align : At 64 a.inAddr ∧ At 64 a.oAddr ∧ (a.stats = true → At 64 a.statAddr)
  room : cdiv (a.m * stateRow a.d + a.m * a.os) 1024 ≤ a.kb
  time : a.time ≤ 65536

/-- R227: no fault of an ATTN on cache c, and no marker in the pages that its run fetches (R536). -/
structure AttnCmd.Sound (a : AttnCmd) (R : Hall) (h : Nat) (x : Ctx) (c : Cache) : Prop where
  cache : R.cacheFor x a.stream = some c
  work : (a.work x c.prm).Sound R x
  apart : Apart (a.work x c.prm).outs (a.work x c.prm).ins ∧ Apart ((a.work x c.prm).outs.take 1) ((a.work x c.prm).outs.drop 1)
  inputs : R.inputFault (a.work x c.prm).ins = none ∧ R.pagesFault c ((a.run R h x c).flatMap (·.2)) = none
  format : a.qFmt ∈ [5, 6, 7, 8] ∧ a.oFmt ∈ [5, 6, 7, 8, 9] ∧ a.allow ≠ 0 ∧
    (∀ pf < 16, bit a.allow pf = true → pf < 8 ∧ attnPair a.qFmt pf = true) ∧ a.rot ≠ 3 ∧ bit a.flags 7 = false ∧ (a.stats = true → a.final = true)
  shape : 1 ≤ a.m ∧ a.m ≤ 2048 ∧ 1 ≤ a.rq ∧ a.rq ≤ 16 ∧ a.kvBegin < a.kvEnd ∧ a.m % (c.prm.hg * a.rq) = 0 ∧ a.mg c.prm ≤ 256
  align : At 64 a.qAddr ∧ At 64 a.oAddr ∧ (a.rot ≠ 0 ∨ a.cont = true ∨ a.mapped = true → At 64 a.auxAddr) ∧
    (a.stats = true → At 64 a.statAddr) ∧ a.kvBegin % 32 = 0
  room : a.accBytes c.prm ≤ a.kb * 1024
  time : 400 + (tokenTiles (snapshot (c.stream (handleIdx a.stream)) c.prm a.kvBegin a.kvEnd)).foldl (fun n g => n + a.tileTime c.prm g.1) 0 ≤ 65536
  tokens : a.kvEnd ≤ (c.stream (handleIdx a.stream)).len ∧ (c.stream (handleIdx a.stream)).lost = false
  route : R.missingRoute h x.part x.cls (a.pairs R h x) = none

/-- R227: no fault of an ATTN_BWD on the page g of cache c, and no marker in it where it is fetched (R536). -/
structure BwdCmd.Sound (a : BwdCmd) (R : Hall) (h : Nat) (x : Ctx) (c : Cache) (g : Page) : Prop where
  cache : R.cacheFor x a.stream = some c
  page : a.page (c.stream (handleIdx a.stream)) c.prm = some g
  work : (a.work x c.prm).Sound R x
  apart : Apart (a.work x c.prm).outs (a.work x c.prm).ins ∧ Apart ((a.work x c.prm).outs.take 1) ((a.work x c.prm).outs.drop 1)
  inputs : R.inputFault (a.work x c.prm).ins = none ∧ R.pagesFault c (BwdCmd.fetched g) = none
  format : a.qFmt = 7 ∧ a.flags < 8
  shape : 1 ≤ a.m ∧ a.m ≤ 64 ∧ 1 ≤ a.rq ∧ a.rq ≤ 16 ∧ a.m % a.rq = 0 ∧ a.head < c.prm.hg
  align : At 64 a.inAddr ∧ At 64 a.statAddr ∧ At 64 a.dqOut ∧ At 64 a.dkvOut ∧ a.kvBegin % 32 = 0
  room : cdiv (pageBytes c.prm c.prm.pfmt + 64 * BwdCmd.sd c.prm + a.m * BwdCmd.sd c.prm + 256 * a.m) 1024 ≤ a.kb
  time : a.time c.prm ≤ 65536
  tokens : (c.stream (handleIdx a.stream)).lost = false
  route : R.missingRoute h x.part x.cls (a.pairs R x) = none

/-- R227: no fault of a KV_APPEND to cache c; a frame and a slot are there where it needs one (R202). -/
structure AppendCmd.Sound (a : AppendCmd) (H R : Hall) (h : Nat) (x : Ctx) (c : Cache) : Prop where
  cache : H.cacheFor x a.stream = some c
  footprint : x.footOk (a.work x c.prm).ins = true
  ranges : ∀ r ∈ (a.work x c.prm).ins, H.rngOk x r = true
  inputs : R.inputFault (a.work x c.prm).ins = none
  format : a.inFmt ∈ [7, 8, 9] ∧ a.rot ≠ 3 ∧ a.flags < 4
  shape : 1 ≤ a.t ∧ a.t ≤ 32
  align : At 64 a.kAddr ∧ At 64 a.vAddr ∧ (a.rot ≠ 0 → At 64 a.rotAddr)
  room : a.base + a.kb ≤ 128 ∧ cdiv (pageBytes c.prm c.prm.stage + pageBytes c.prm c.prm.pfmt) 1024 ≤ a.kb
  tokens : a.pos = (c.stream (handleIdx a.stream)).len ∧ (c.stream (handleIdx a.stream)).lost = false ∧ a.pos + a.t ≤ 131072
  entries : (c.stream (handleIdx a.stream)).entries.length - (if (AppendCmd.tail (c.stream (handleIdx a.stream))).2.isSome then 1 else 0) +
    (if a.needsFrame (c.stream (handleIdx a.stream)) then 1 else 0) ≤ 4096
  frame : a.needsFrame (c.stream (handleIdx a.stream)) = true →
    (H.allocFrame c.part c.dom (some c.num) c.prm.quota c.prm.slotGal c.prm.frameCode c.prm.tierFlags h).isSome = true
  slot : a.needsSlot (c.stream (handleIdx a.stream)) = true → H.askSlot h c ≠ .none
  route : H.missingRoute h x.part x.cls (a.pairs H R h x) = none

/-- R227: what every KV_PAGEOP meets. -/
structure PageCmd.Sound (a : PageCmd) (H R : Hall) (h : Nat) (x : Ctx) : Prop where
  footprint : x.footOk (a.work x).ins = true
  ranges : ∀ r ∈ (a.work x).ins, R.rngOk x r = true
  inputs : R.inputFault (a.work x).ins = none
  room : a.base + a.kb ≤ 128 ∧ 1 ≤ a.kb
  route : H.missingRoute h x.part x.cls (a.pairs H R h x) = none

/-- R206 to R209: what SUBOP FORK, DROP, TRUNCATE and SEAL meet on a stream of cache c: a frame for the slot that the operation seals. -/
structure PageCmd.SoundOn (a : PageCmd) (H : Hall) (h : Nat) (x : Ctx) (c : Cache) : Prop where
  cache : H.cacheFor x a.stream = some c
  room : a.subop ≠ 3 → cdiv (pageBytes c.prm c.prm.stage + pageBytes c.prm c.prm.pfmt) 1024 ≤ a.kb
  frame : ∀ y k n f, a.seals H x = some (y, k, n, f) →
    (H.allocFrame k.part k.dom (some k.num) k.prm.quota k.prm.slotGal k.prm.frameCode k.prm.tierFlags h).isSome = true

/-- R206, R207: no fault of a CREATE. -/
structure PageCmd.CreateSound (a : PageCmd) (H R : Hall) (h : Nat) (x : Ctx) : Prop where
  op : a.subop = 0
  sound : a.Sound H R h x
  align : At 64 a.param
  geometry : H.geometryOk x.part (CacheParam.ofBytes (R.readAt h (x.placeOf a.param) (tierAddr a.param) 32)) = true
  handle : handleIdx a.stream = 0 ∧ H.cacheTaken (handleCache a.stream) = false

/-- R206: no fault of a DESTROY. -/
structure PageCmd.DestroySound (a : PageCmd) (H R : Hall) (h : Nat) (x : Ctx) : Prop where
  op : a.subop = 1
  sound : a.Sound H R h x
  handle : handleIdx a.stream = 0
  cache : ∃ c, H.cache (handleCache a.stream) = some c ∧ c.part = x.part ∧ c.dom = x.dom ∧ ∀ e ∈ c.streams, e.2.isEmpty = true

/-- R208: no fault of a FORK. -/
structure PageCmd.ForkSound (a : PageCmd) (H R : Hall) (h : Nat) (x : Ctx) : Prop where
  op : a.subop = 2
  sound : a.Sound H R h x
  caches : ∃ c e, a.SoundOn H h x c ∧ H.cacheFor x a.src = some e ∧ c.prm.hg = e.prm.hg ∧ c.prm.d = e.prm.d ∧ c.prm.frameCode = e.prm.frameCode ∧
    (c.stream (handleIdx a.stream)).isEmpty = true ∧ (c.stream (handleIdx a.stream)).lost = false ∧ (e.stream (handleIdx a.src)).lost = false ∧
    ∀ y ∈ (e.stream (handleIdx a.src)).entries, ((H.frame y.frame).map (·.refs)).getD 0 < 65535

/-- R206: no fault of a DROP. -/
structure PageCmd.DropSound (a : PageCmd) (H R : Hall) (h : Nat) (x : Ctx) : Prop where
  op : a.subop = 3
  sound : a.Sound H R h x
  cache : ∃ c, a.SoundOn H h x c

/-- R209: no fault of a TRUNCATE; a slot is there where it cuts a page. -/
structure PageCmd.TruncateSound (a : PageCmd) (H R : Hall) (h : Nat) (x : Ctx) : Prop where
  op : a.subop = 4
  sound : a.Sound H R h x
  cache : ∃ c, a.SoundOn H h x c ∧ a.tokens ≤ (c.stream (handleIdx a.stream)).len ∧ (c.stream (handleIdx a.stream)).lost = false ∧
    ((a.cutEntry (c.stream (handleIdx a.stream))).isSome = true → H.askSlot h c ≠ .none)

/-- R206: no fault of a SEAL. -/
structure PageCmd.SealSound (a : PageCmd) (H R : Hall) (h : Nat) (x : Ctx) : Prop where
  op : a.subop = 5
  sound : a.Sound H R h x
  cache : ∃ c, a.SoundOn H h x c ∧ (c.stream (handleIdx a.stream)).lost = false

/-- R277: no fault of a CONV of descriptor d. -/
structure ConvCmd.Sound (a : ConvCmd) (R : Hall) (x : Ctx) (d : List Byte) : Prop where
  pad : zeros d 31 1 = true
  work : (a.work x).Sound R x
  apart : Apart (a.work x).outs (a.work x).ins
  inputs : R.inputFault (a.work x).ins = none
  format : a.formatOk = true
  shape : a.shapeOk = true
  align : a.alignOk = true
  bands : a.haloOk x R = true
  room : a.m * 4 * min a.oc 128 + a.oh * 64 * cdiv (a.ow * a.oPixel) 64 ≤ a.kb * 1024
  time : a.worst ≤ 65536

/-- R277: no fault of a HALO_SEND of descriptor d. -/
structure HaloCmd.Sound (a : HaloCmd) (R : Hall) (h : Nat) (x : Ctx) (d : List Byte) : Prop where
  pad : zeros d 34 2 = true ∧ zeros d 62 2 = true
  footprint : x.footOk (a.rngSegs x) = true
  ranges : ∀ r ∈ a.rngSegs x, R.rngOk x r = true
  apart : Apart [a.rngOut x] (a.rngSegs x)
  format : a.dest ≤ 4 ∧ (a.dest = 4 → a.quarter ≤ 3) ∧ a.flags < 2
  shape : 1 ≤ a.rowBytes ∧ a.rowBytes ≤ 16384
  align : a.dstOff % 64 = 0 ∧ (a.dest = 4 → At 4096 a.dstBlock ∧ bit a.dstBlock 31 = true) ∧ ∀ s ∈ a.segs, s.2.2 ≠ 0 → addrOk s.1 = true
  band : 1 ≤ a.rt ∧ (a.rt ≤ 1 ∨ a.rowBytes ≤ a.dstRs * 64) ∧ a.dstOff + (a.rt - 1) * (a.dstRs * 64) + a.rowBytes ≤ 16384 ∧
    (a.dest = 4 → R.galOk x.part a.gal (a.rngOut x).addr (a.rngOut x).len = true)
  cell : a.signal = true → R.cellOk h x.part (galOf x.core) a.sync = true ∧ (a.dest = 4 → 8192 ≤ a.sync) ∧ (a.dest ≠ 4 → a.sync < 8192)
  room : a.base + a.kb ≤ 128 ∧ cdiv (a.rt * 64 * cdiv a.rowBytes 64) 1024 ≤ a.kb
  time : a.time ≤ 65536
  peer : a.dest < 4 → ∃ n, a.peer x = some n ∧ R.fenced n = false
  route : a.dest = 4 → a.gal ≠ galOf x.core → R.missingRoute h x.part x.cls [(galOf x.core, a.gal)] = none

/-- R277: no fault of a CROP_RESIZE of descriptor d. -/
structure CropCmd.Sound (a : CropCmd) (R : Hall) (x : Ctx) (d : List Byte) : Prop where
  pad : zeros d 54 6 = true ∧ zeros d 62 2 = true
  work : (a.work x).Sound R x
  apart : Apart (a.work x).outs (a.work x).ins
  inputs : R.inputFault (a.work x).ins = none
  format : a.aFmt ∈ [2, 5, 6, 7, 8] ∧ a.oFmt ∈ [2, 5, 6, 7, 8, 9] ∧ a.mode ≤ 2
  shape : (if a.mode = 2 then 1 ≤ a.samples ∧ a.samples ≤ 4 else a.samples = 1) ∧ 1 ≤ a.ih ∧ a.ih ≤ 4096 ∧ 1 ≤ a.iw ∧ a.iw ≤ 4096 ∧
    1 ≤ a.c ∧ a.c ≤ 4096 ∧ 1 ≤ a.boxes ∧ a.boxes ≤ 1024 ∧ 1 ≤ a.oh ∧ a.oh ≤ 64 ∧ 1 ≤ a.ow ∧ a.ow ≤ 64 ∧ (a.ih ≠ 1 → a.iw * a.pixel ≤ a.inRs * 64)
  align : At 64 a.inAddr ∧ At 64 a.oAddr ∧ At 16 a.boxAddr ∧ a.boxStride % 16 = 0 ∧ 16 ≤ a.boxStride ∧ a.boxStride ≤ 256
  room : cdiv (a.boxes * a.cs) 1024 ≤ a.kb
  time : a.time ≤ 65536

/-- R277: no fault of a BOX_DECODE of descriptor d. -/
structure BoxCmd.Sound (a : BoxCmd) (R : Hall) (x : Ctx) (d : List Byte) : Prop where
  pad : zeros d 19 1 = true ∧ zeros d 30 2 = true ∧ zeros d 62 2 = true
  work : (a.work x).Sound R x
  apart : Apart (a.work x).outs (a.work x).ins
  inputs : R.inputFault (a.work x).ins = none
  format : a.dFmt ∈ [7, 8, 9] ∧ a.sFmt ∈ [7, 8, 9] ∧ a.fn ≠ 3 ∧ a.flags < 8
  shape : 1 ≤ a.anchors ∧ a.anchors ≤ 65535 ∧ (if a.fn = 2 then 2 else 1) ≤ a.classes ∧ a.classes ≤ 1024 ∧ 1 ≤ a.maxOut ∧ a.maxOut ≤ 4032
  align : At 64 a.anchorAddr ∧ At 64 a.deltaAddr ∧ At 64 a.scoreAddr ∧ At 64 a.outAddr
  room : cdiv (64 + 32 * a.maxOut) 1024 ≤ a.kb
  time : a.time ≤ 65536

/-- R277: no fault of an NMS. -/
structure NmsCmd.Sound (a : NmsCmd) (R : Hall) (h : Nat) (x : Ctx) : Prop where
  work : (a.work x).Sound R x
  apart : Apart (a.work x).outs (a.work x).ins
  inputs : R.inputFault (a.reads R h x) = none
  format : a.flags < 2
  shape : 1 ≤ a.lists ∧ a.lists ≤ 8 ∧ 1 ≤ a.maxKeep ∧ a.maxKeep ≤ 1024 ∧ 1 ≤ a.maxIn ∧ a.maxIn ≤ 32256 ∧ (fp32 a.iou).isNan = false ∧
    (fp32 a.iou).lt Fp.zero = false ∧ (Fp.int 1).lt (fp32 a.iou) = false
  align : (∀ l ∈ a.addrs.take a.lists, At 64 l) ∧ At 64 a.outAddr
  room : cdiv (64 + 32 * a.maxKeep) 1024 ≤ a.kb
  time : a.time ≤ 65536

/-- R359: no fault of a COPY of descriptor d. -/
structure CopyCmd.Sound (a : CopyCmd) (R : Hall) (h : Nat) (x : Ctx) (d : List Byte) : Prop where
  pad : zeros d 44 16 = true ∧ zeros d 62 2 = true
  footprint : x.footOk ((a.work R h x).ins ++ (a.work R h x).outs) = true
  sides : (a.rngS R h x).isSome = true ∧ (a.rngD R h x).isSome = true ∧ a.pastOp a.src = false ∧ a.pastOp a.dst = false
  apart : Apart (a.work R h x).outs (a.work R h x).ins
  inputs : R.inputFault (a.work R h x).ins = none
  format : a.src.kind ≤ 4 ∧ a.dst.kind ≤ 5 ∧ a.flags < 2
  shape : 1 ≤ a.rows ∧ a.rows ≤ 4096 ∧ 1 ≤ a.rowBytes ∧ a.rowBytes ≤ 131072 ∧ (1 < a.rows → a.rowBytes ≤ a.dst.stride) ∧
    (a.dst.kind = 5 → a.dst.stride = a.rowBytes)
  align : (a.src.isDram R h x.part = true → a.rowBytes % 64 = 0 ∧ a.src.stride % 64 = 0) ∧
    (a.dst.isDram R h x.part = true → a.rowBytes % 64 = 0 ∧ a.dst.stride % 64 = 0) ∧ (a.dst.kind = 5 → a.dst.addr % 32 = 0 ∧ a.bytes % 32 = 0)
  room : a.base + a.kb ≤ 128 ∧ cdiv a.bytes 1024 ≤ a.kb
  time : a.time ≤ 65536
  route : R.missingRoute h x.part x.cls (a.pairs R h x) = none

/-- R357: the page-list entries of the COUNT streams from STREAM that a PLACE names. -/
def placeEntries (R : Hall) (x : Ctx) (d : List Byte) : Nat :=
  (((List.range (fld d 24 2)).map fun i => fld d 20 4 + i).map fun t =>
    (((R.cacheFor x t).map fun (c : Cache) => c.stream (handleIdx t)).getD Stream.empty).entries.length).foldl (· + ·) 0

/-- R357, R359: no fault of a PLACE of descriptor d. -/
structure PlaceSound (R : Hall) (x : Ctx) (d : List Byte) : Prop where
  format : fld d 16 1 ≤ 1 ∧ zeros d 17 3 = true ∧ zeros d 26 34 = true ∧ zeros d 62 2 = true
  shape : 1 ≤ fld d 24 2 ∧ fld d 24 2 ≤ 4096
  room : fld d 60 1 + fld d 61 1 ≤ 128 ∧ 1 ≤ fld d 61 1
  time : 32 + cdiv (placeEntries R x d) 16 ≤ 65536
  streams : ∀ i < fld d 24 2, handleCache (fld d 20 4 + i) = handleCache (fld d 20 4) ∧
    ∃ c : Cache, R.cacheFor x (fld d 20 4 + i) = some c ∧ (c.stream (handleIdx (fld d 20 4 + i))).lost = false

/-- R358, R359: no fault of a CELL_OP of descriptor d. -/
structure CellSound (R : Hall) (h : Nat) (x : Ctx) (d : List Byte) : Prop where
  format : fld d 16 1 ≤ 2 ∧ fld d 17 1 < 2 ∧ zeros d 22 2 = true ∧ zeros d 28 32 = true ∧ zeros d 62 2 = true
  shape : 1 ≤ fld d 18 2 ∧ fld d 18 2 ≤ 256 ∧ (fld d 16 1 = 2 → fld d 18 2 = 1)
  cells : fld d 16 1 ≠ 2 → ∀ i < fld d 18 2, fld d 20 2 + i < 65536 ∧ R.cellOk h x.part (galOf x.core) (fld d 20 2 + i) = true
  far : fld d 16 1 = 2 → R.farCellOk h x.part (fld d 20 2) = true ∧ R.missingRoute h x.part x.cls [(galOf x.core, 14)] = none
  room : fld d 60 1 + fld d 61 1 ≤ 128 ∧ 1 ≤ fld d 61 1

/-- R577: the hall with the DRAM lines that a COPY reads counted. -/
def CopyCmd.counted (a : CopyCmd) (H R : Hall) (h : Nat) (x : Ctx) : Hall :=
  match a.rngS R h x with
  | some r => if r.place == .dram then (List.range r.rows).foldl (fun H i => H.countReads (r.row i) r.bytes) H else H
  | none => H

/-- R229: the header that a state block's address field points at. -/
def headerAt (R : Hall) (h : Nat) (x : Ctx) (a : Nat) : Block := Block.ofBytes (R.readAt h (x.placeOf a) (tierAddr a) 64)

/-- A row of the engines: the command that the row issues, if `sound` holds of it, runs from this cycle on on what `made` builds of the hall as it
is read, where no frame that it pins at once has all its pins (R343). -/
def Runs (row : HallId → Nat → Nat → Instr) (want : List Byte → Bool) (sound : HallId → Hall → Hall → Ctx → Cmd → Prop)
    (made : HallId → Hall → Hall → Ctx → Cmd → Hall × Built) : Prop :=
  ∀ (s : State) (h : HallId) (c cyc : Nat) (x : Ctx) (k : Cmd), s.por = false →
    let H := (s.hall h).onward cyc
    H.pick h.idx c cyc want = some (x, k) → sound h H H.settled x k → H.pinsFull (made h H H.settled x k).2 = false →
    exec (row h c cyc) s = .next (s.whole fun _ =>
      (s.onHall h fun _ => (made h H H.settled x k).1.started x k (made h H H.settled x k).2 cyc).afterAt h c cyc)

end Sys2Proof.Machine
end

