-- ==== Sys2Proof/Certificates/Slice0/Obligations.lean ====
section
/-! DEFINITION. The statements about this model: what its commands do, and what every step keeps. -/

open Sys2Proof Sys2Proof.Machine

/-- The model's queue discipline (log entry 1): in every state, with command c at the front of the queue and q behind it, step is exec of c on the
same state with q as its queue. (Rests on 00_scope (R2).) -/
def Obligations.StepRunsFrontCommand : Prop :=
  ∀ (s : State) (c : Instr) (q : List Instr), step { s with pending := c :: q } = exec c { s with pending := q }

/-- The model's choice (log entry 1): on an empty queue a step changes nothing. (Rests on 00_scope (R2).) -/
def Obligations.EmptyQueueIdles : Prop :=
  ∀ s : State, s.pending = [] → step s = .next s

/-- No command of the table ends in a fault or a refusal of the model, in any state and for any operands: what the manual calls a fault is a state
of the block (a fault code, a status, a reset). (Rests on 00_scope (R2).) -/
def Obligations.EveryCommandAnswersNext : Prop :=
  ∀ (c : Instr) (s : State), ∃ t, exec c s = .next t

/-- The model's choices (log entries 1 and 3): whatever the state, a step that answers a next state leaves the queue without its front command and
nothing else changed in it, and the number of free values drawn never falls, so that no free value is drawn twice. (Rests on 15_tenancy_and_keys
(R490).) -/
def Obligations.StepDrawsQueueAndFreeValues : Prop :=
  ∀ s t : State, step s = .next t → t.pending = s.pending.tail ∧ s.free ≤ t.free

/-- From every state whose halls have 2 host ports (R6), 8 galleries and 96 cores (R22), 4 transmit ports (R473) and 16 partitions (R52), event logs
of at most 256 entries (R600), at most 64 events held for each host port (R468), and whose operand stores, gallery stores and hall DRAM are lists in
their canonical form (the model's form of memory), every step leads to such a state. (Rests on R6, R22, R473, R52, R600, R468, R323,
16_integrity_and_faults (R535).) -/
def Obligations.StepKeepsTheHalls : Prop :=
  ∀ s t : State, s.Wf → step s = .next t → t.Wf

/-- After an image has been active since the release of POR_N, neither SAMPLE/PRELOAD nor EXTEST is in force, and the balls are driven only under
EXTEST (R614): every step, of any command, keeps this from every state that meets it. That the instruction in force falls back to BYPASS when the
first image becomes active is the model's reading (log entry 31). (Rests on 20_package_and_startup (R614).) -/
def Obligations.StepKeepsTapClosed : Prop :=
  ∀ s t : State, s.TapClosed → step s = .next t → t.TapClosed

/-- R541: from every state in which each hall's fault pin is asserted while an unmasked cause of R542 is present in the hall (and its steward runs),
every step of any command leads to such a state. (Rests on 16_integrity_and_faults (R541).) -/
def Obligations.StepKeepsPinsFollowing : Prop :=
  ∀ s t : State, s.PinsFollow → step s = .next t → t.PinsFollow

/-- State.reset has halls of the stated make-up with canonical memories, a closed TAP, and fault pins that follow their causes: with the three
invariant statements, so has every state that a run from reset reaches. (Rests on R6, R22, R473, R52, R600, R468, 20_package_and_startup (R614),
16_integrity_and_faults (R541).) -/
def Obligations.ResetMeetsTheInvariants : Prop :=
  State.reset.Wf ∧ State.reset.TapClosed ∧ State.reset.PinsFollow

/-- R613: while the package is held in reset, no command but those of POR_N, of the supply and power-good balls and of the JTAG port changes
anything. (Rests on 20_package_and_startup (R613).) -/
def Obligations.HeldInResetNothingHappens : Prop :=
  ∀ (c : Instr) (s : State), s.por = true →
    (match c with
      | .porNAssert _ => False
      | .porNRelease _ _ => False
      | .supplyOutOfRange => False
      | .pgRise _ => False
      | .pgFall _ _ _ => False
      | .jtagBypass => False
      | .jtagIdcode => False
      | .jtagSamplePreload _ => False
      | .jtagExtest => False
      | .jtagTrst => False
      | _ => True) → exec c s = .next s

/-- Where a statement here says that a command leads to s.whole (fun _ => u), the next state is u except that fault pins are asserted for causes
that u has (R541), with their log entries and DEVICE events, that the log entries and events raised by the command stand in the order of R600 and
R468, and that the array cycles it brings are counted (R579, log entry 318): everything else of the package is as in u. Where the array clocks have
not advanced, the counters too are as in u, and where u has neither a cause to assert nor a new event or log entry, the next state is u itself.
(Rests on 16_integrity_and_faults (R541), 14_host_ports (R468), 16_integrity_and_faults (R600), 16_integrity_and_faults (R579).) -/
def Obligations.SettlingChangesOnlyLogPinsEvents : Prop :=
  ∀ s u : State,
    (s.whole fun _ => u).uncounted = u.uncounted ∧ (s.whole fun _ => u).bare = (u.tallied s).bare ∧ (s.whole fun _ => u).PinsFollow ∧
    ((∀ h, (u.hall h).now ≤ (s.hall h).now) →
      (s.whole fun _ => u).bare = u.bare ∧
      (u.PinsFollow → (∀ p, (u.port p).events = (s.port p).events) → (∀ h, (u.hall h).dev.nextSeq = (s.hall h).dev.nextSeq) →
        (s.whole fun _ => u) = u))

/-- At reset both halls and the Vestibule hold, immediately after reset (R18), the values that the register tables state: the event log with its
RESET entry and NEXT_SEQ 1, ERR_FAULT_CAUSE.PIN 1, the scrub controls 1, 1 and 16, PWR_THERM.CAP 3, DRIVE_HOLD 1, BEAT_MISS_LIMIT 4 and BEAT_PERIOD
10, SEC_SWEEP_RATE 256, CSI_TX_CFG 0x00E4_0000, MWL and MRL 4,112 with IBI size 31, and the others 0. (Rests on R18, 16_integrity_and_faults,
17_power_states, 14_host_ports, 15_tenancy_and_keys, 01_halls_and_galleries, 03_sweep_timebase.) -/
def Obligations.ResetLeavesStatedValues : Prop :=
  ∀ H : Hall, H = State.reset.a ∨ H = State.reset.b →
    H.dev.nextSeq = 1 ∧ H.dev.lastError = 0 ∧ H.dev.imgState = 0 ∧ H.dev.staged = 0 ∧ H.dev.lockedWrites = 0 ∧
    H.err.pin = true ∧ H.err.mask = 0 ∧ H.err.scrubEn = true ∧ H.err.dramRate = 1 ∧ H.err.sramRate = 16 ∧
    H.pwr.cap = 3 ∧ H.pwr.driveHold = true ∧ H.pwr.op = 0 ∧ H.pwr.opReq = 0 ∧ H.pwr.trip = false ∧
    H.stair.missLimit = 4 ∧ H.stair.beatPeriod = 10 ∧ H.stair.enable = false ∧ H.stair.laneGood = 0 ∧
    H.sec.rate = 256 ∧ H.sec.trngOk = false ∧ H.swp.sweep = 0 ∧ H.swp.tick = 0 ∧ H.swp.lock = .unlocked ∧
    H.tx = List.replicate 4 TxPort.reset ∧ TxPort.reset.cfg = 0x00E40000#32 ∧ H.ports = [Port.reset, Port.reset] ∧
    Port.reset.mwl = 4112 ∧ Port.reset.mrl = 4112 ∧ Port.reset.ibiSize = 31 ∧ Port.reset.dyn = 0

/-- POR_N_ASSERT of at least 10 µs resets the whole package, the Vestibule included, with LAST_CAUSE 1, and of less than 1 µs is ignored (R613);
between them the package resets or nothing happens, by a free value. SUPPLY_OUT_OF_RANGE resets it with LAST_CAUSE 0 (the model's reading of a
supply leaving its range, log entry 30). What is not the package's own survives: the TAP's register, the free-value count, the queue. POR_N_RELEASE
latches the straps and raises EN_CORE_A and EN_PHY_A with VID code 3 (R619 step 1), and does nothing when the package is not held. (Rests on
20_package_and_startup (R613), 20_package_and_startup (R619).) -/
def Obligations.PorResetsOrIsIgnored : Prop :=
  (∀ (s : State) (ns : Nat), s.por = false → 10000 ≤ ns → exec (.porNAssert ns) s = .next
      { State.reset with
        imageSeen := s.imageSeen, jtag := s.jtag, xspiResets := s.xspiResets, free := s.free, pending := s.pending
        a := s.a.again 0 1, b := s.b.again 1 1 }) ∧
  (∀ (s : State) (ns : Nat), ns < 1000 → exec (.porNAssert ns) s = .next s) ∧
  (∀ (s : State) (ns : Nat), s.por = false → 1000 ≤ ns → ns < 10000 →
    exec (.porNAssert ns) s = .next { s with free := s.free + 1 } ∨
    exec (.porNAssert ns) s = .next
      { State.reset with
        imageSeen := s.imageSeen, jtag := s.jtag, xspiResets := s.xspiResets, free := s.free + 1, pending := s.pending
        a := s.a.again 0 1, b := s.b.again 1 1 }) ∧
  (∀ s : State, exec .supplyOutOfRange s = .next
      { State.reset with
        supply := false, imageSeen := s.imageSeen, jtag := s.jtag, xspiResets := s.xspiResets, free := s.free, pending := s.pending
        a := s.a.again 0 0, b := s.b.again 1 0 }) ∧
  (∀ (s : State) (t : Straps) (tb : Nat), s.por = true → exec (.porNRelease t tb) s = .next
      { s with
        por := false, supply := true, straps := t, imageSeen := false
        a := { s.a with dev := { s.a.dev with releaseTb := tb } }, b := { s.b with dev := { s.b.dev with releaseTb := tb } }
        pkg := { s.pkg with enCore := [true, false], enPhy := [true, false], vid := [3, 0], enVt := [some s.pkg.now, none] } }) ∧
  (∀ (s : State) (t : Straps) (tb : Nat), s.por = false → exec (.porNRelease t tb) s = .next s) ∧
  ∀ (H : Hall) (h c : Nat),
    (H.again h c).err.lastCause = c ∧ (H.again h c).err.pin = true ∧ (H.again h c).dev.up = false ∧ (H.again h c).ctxs = [] ∧
    (H.again h c).mem.dram = ⟨[]⟩ ∧ (H.again h c).dev.image = none

/-- PG_RISE of Hall A at a cold start, with EN_CORE_A high and the hall not running: the boot ROM begins at stage ROM with every domain powered at
VID code 3 and operating point 3, new challenges for both ports, XSPI_RESET_N driven once more (R615, R619), and with STRAP_RSVD latched high it
stops with FW_ERROR 6 (R613). PG_FALL with EN_CORE_x high, more than 2.2 ms after the enables rose and not planned, resets hall x as at cold
power-on with LAST_CAUSE 0; with an enable low, or at most 2.2 ms after they rose, or planned, it only lowers the power-good ball (R611). In every
state PG_FALL lowers the ball at its time. (Rests on 20_package_and_startup (R611), 20_package_and_startup (R619), 20_package_and_startup (R615).)
-/
def Obligations.PowerGoodStartsAHall : Prop :=
  (∀ s : State, s.por = false → s.a.dev.up = false → s.a.dev.stage = .rom → s.pkg.enCore.getD 0 false = true →
    Gives (.pgRise .a) s fun t =>
      t.a.dev.up = true ∧ t.a.dev.stage = (if s.straps.rsvd then .halted else .rom) ∧ t.a.dev.fwError = (if s.straps.rsvd then 6 else 0) ∧
      t.a.pwr.galOn = Voted.all 0xFF ∧ t.a.pwr.op = 3 ∧ t.a.pwr.opReq = 3 ∧ t.a.pwr.hall = .on ∧ t.xspiResets = s.xspiResets + 1 ∧
      t.pkg.pg = modAt s.pkg.pg 0 (fun _ => true) ∧ t.pkg.vid = modAt s.pkg.vid 0 (fun _ => 3) ∧ t.pkg.state = max s.pkg.state 2 ∧
      t.free = s.free + 32 ∧ t.a.gals = s.a.gals ∧ t.a.cores = s.a.cores ∧ t.a.mem = s.a.mem ∧ t.a.swp = s.a.swp ∧ t.b.bare = s.b.bare) ∧
  (∀ (s : State) (h : HallId) (vt : Nat), s.por = false → s.pkg.enCore.getD h.idx false = true → s.pkg.enVt.getD h.idx none = none →
    exec (.pgFall h vt false) s = .next (s.whole fun _ =>
      ({ s with pkg := { s.pkg with now := vt, pg := modAt s.pkg.pg h.idx fun _ => false } }).hallReset h 0 false)) ∧
  (∀ (s : State) (h : HallId) (vt : Nat) (planned : Bool), s.pkg.enCore.getD h.idx false = false →
    exec (.pgFall h vt planned) s = .next (s.whole fun _ => { s with pkg := { s.pkg with now := vt, pg := modAt s.pkg.pg h.idx fun _ => false } })) ∧
  (∀ (s : State) (h : HallId) (vt t : Nat), s.por = false → s.pkg.enCore.getD h.idx false = true → s.pkg.enVt.getD h.idx none = some t →
    ((vt - t) * 10000 < 720896 → exec (.pgFall h vt false) s = .next (s.whole fun _ =>
      { s with pkg := { s.pkg with now := vt, pg := modAt s.pkg.pg h.idx fun _ => false } })) ∧
    (720896 ≤ (vt - t) * 10000 → exec (.pgFall h vt false) s = .next (s.whole fun _ =>
      ({ s with pkg := { s.pkg with now := vt, pg := modAt s.pkg.pg h.idx fun _ => false } }).hallReset h 0 false))) ∧
  (∀ (s : State) (h : HallId) (vt : Nat) (planned : Bool), Gives (.pgFall h vt planned) s fun t =>
    t.pkg.pg = modAt s.pkg.pg h.idx (fun _ => false) ∧ t.pkg.now = vt)

/-- R614: BYPASS, IDCODE (whose register reads 0x1296_058B), SAMPLE/PRELOAD and EXTEST change the TAP and nothing else of the package; once an image
has become active since the release, SAMPLE/PRELOAD and EXTEST select BYPASS. TRST_N low holds the TAP in reset and has no other effect; that the
TAP's reset selects IDCODE is IEEE 1149.1's (log entry 31). (Rests on 20_package_and_startup (R614).) -/
def Obligations.JtagInstructions : Prop :=
  ∀ (s : State) (pins : List Bool),
    (∃ j : Jtag, exec .jtagBypass s = .next { s with jtag := j } ∧ j.instr = 0 ∧ j.driving = false) ∧
    (∃ j : Jtag, exec .jtagIdcode s = .next { s with jtag := j } ∧ j.instr = 1 ∧ j.data = 0x1296058B#32 ∧ j.driving = false) ∧
    (∃ j : Jtag, exec .jtagTrst s = .next { s with jtag := j } ∧ j.instr = 1 ∧ j.data = 0x1296058B#32 ∧ j.driving = false) ∧
    (s.imageSeen = false →
      (∃ j : Jtag, exec (.jtagSamplePreload pins) s = .next { s with jtag := j } ∧ j.instr = 2 ∧ j.sampled = pins ∧ j.driving = false) ∧
      ∃ j : Jtag, exec .jtagExtest s = .next { s with jtag := j } ∧ j.instr = 3 ∧ j.driving = true) ∧
    (s.imageSeen = true →
      exec (.jtagSamplePreload pins) s = exec .jtagBypass s ∧ exec .jtagExtest s = exec .jtagBypass s)

/-- At Hall A's boot ROM, with a flash that responds, a valid directory that names no entry to ignore, and a slot 0 that verifies while slot 1 is
absent, the firmware of slot 0 runs: stage DRAM_TRAIN, FW_SOURCE 1, its version and FW_DIGEST, the galleries that are on in FILL (R617, R619). With
no response the hall stops at the ROM stage with FW_ERROR 1, and with both directory copies bad with FW_ERROR 2 (R618). (Rests on
20_package_and_startup (R616), 20_package_and_startup (R617), 20_package_and_startup (R618), 20_package_and_startup (R619).) -/
def Obligations.FirmwareLoadRunsTheNewerSlot : Prop :=
  (∀ (s : State) (f : Flash) (d : List Byte) (e : DirEntry), s.por = false → s.a.dev.up = true → s.a.dev.stage = .rom → f.responds = true →
    flashDirectory f = some d → (flashEntries f).2 = [] → flashEntry f 1 0 = some e → flashEntry f 1 1 = none →
    firmwareError s.a.keyArray.firmware (flashRead f e.offset e.length) = 0 → s.straps.bootSrc = 0 →
    Gives (.firmwareLoad f) s fun t =>
      t.a.dev.stage = .dramTrain ∧ t.a.dev.fwSource = 1 ∧ t.a.dev.slow = (s.straps.xspiMode && (!f.sfdp || !f.dqs)) ∧
      t.a.dev.fwVersion = (fld (flashRead f e.offset e.length) 4 1, fld (flashRead f e.offset e.length) 5 1, fld (flashRead f e.offset e.length) 6 2) ∧
      t.a.dev.fwDigest = sha384 ((flashRead f e.offset e.length).take (128 + fld (flashRead f e.offset e.length) 10 4)) ∧
      t.a.dev.filling = s.a.pwr.galOn.val ∧ t.a.mem = s.a.mem ∧ t.a.swp = s.a.swp ∧ t.a.cores = s.a.cores ∧ t.b.bare = s.b.bare) ∧
  (∀ (s : State) (f : Flash), s.por = false → s.a.dev.up = true → s.a.dev.stage = .rom →
    (f.responds = false → exec (.firmwareLoad f) s = .next (s.whole fun _ =>
      { s with a := { s.a with dev := { s.a.dev with stage := .halted, fwError := 1 } } })) ∧
    (f.responds = true → flashDirectory f = none → exec (.firmwareLoad f) s = .next (s.whole fun _ =>
      { s with a := { s.a with dev := { s.a.dev with stage := .halted, fwError := 2 } } })))

/-- DRAM_TRAINING_DONE at stage DRAM_TRAIN with every channel good and no image waiting records the channels and the memory configuration and begins
the DRAM fill at stage FILL (R331, R619). MEMORY_FILL_DONE of the DRAM ends that fill, and of gallery g that gallery's; start-up then goes on as far
as both allow (R535, R619 step 8). (Rests on 10_memory_tiers (R331), 10_memory_tiers (R328), 16_integrity_and_faults (R535), 20_package_and_startup
(R619).) -/
def Obligations.TrainingAndFillsEnd : Prop :=
  (∀ (s : State) (h : HallId) (again : BitVec 32) (rate density ranks : Nat), s.por = false → (s.hall h).dev.up = true → (s.hall h).dev.stage = .dramTrain →
    (s.hall h).dev.waitingImg = none →
    exec (.dramTrainingDone h ⟨0xFFFFFFFF#32, again⟩ rate density ranks) s = .next (s.whole fun _ => s.onHall h fun H =>
      { H with
        dev := { H.dev with stage := .fill }
        mem := { H.mem with chanGood := 0xFFFFFFFF#32, rate := rate, density := density, ranks := ranks, trained := true, filled := false } })) ∧
  (∀ (s : State) (h : HallId), s.por = false → (s.hall h).mem.trained = true → (s.hall h).mem.filled = false →
    exec (.memoryFillDone h .dram) s = .next (s.whole fun _ =>
      (s.onHall h fun H => { H with mem := { H.mem with filled := true } }).tryRelease h)) ∧
  (∀ (s : State) (h : HallId) (g : Nat), s.por = false → g < 8 → (s.hall h).dev.filling.getLsbD g = true →
    exec (.memoryFillDone h (.gallery g)) s = .next (s.whole fun _ =>
      (s.onHall h fun H => { H with dev := { H.dev with filling := H.dev.filling &&& ~~~(BitVec.ofNat 8 (2 ^ g)) } }.showGals (s.imageStands h)).tryRelease
        h)) ∧
  (∀ (s : State) (h : HallId) (im : Image), (s.hall h).dev.up = true → (s.hall h).dev.stage = .fill → (s.hall h).image = some im →
    s.digestDiffers h im = false → (s.hall h).dev.filling = 0 → (s.hall h).mem.filled = true →
    s.tryRelease h = s.onHall h fun H =>
      { (H.showGals true) with
        dev := { H.dev with stage := .waitReference }
        swp := { H.swp with waiting := true } })

/-- With training ended, no image active and the flash as the image's source: where both IMAGE slots verify the higher image version becomes active,
slot 0 when they are equal; where only one is present and verifies, that one does (R83, R84). With no image slot at all the hall stays in NO_IMAGE,
and waits for the boot feed where the straps allow it (R91). (Rests on 02_aizan_image (R84), 02_aizan_image (R83), 02_aizan_image (R91).) -/
def Obligations.FlashImageBecomesActive : Prop :=
  ∀ (s : State) (f : Flash), s.por = false → s.a.dev.up = true → s.a.dev.stage = .fill → s.a.image = none → s.straps.bootSrc ≠ 2 →
    s.a.mem.trained = true →
    (∀ e0 e1 x y, flashEntry f 2 0 = some e0 → flashEntry f 2 1 = some e1 →
      s.verify .a none (flashRead f e0.offset e0.length) = .ok x → s.verify .a none (flashRead f e1.offset e1.length) = .ok y →
      exec (.flashImageLoad f) s = .next (s.whole fun _ => if x.version < y.version then s.loadImage .a y 2 else s.loadImage .a x 1)) ∧
    (∀ e0 x, flashEntry f 2 0 = some e0 → flashEntry f 2 1 = none → s.verify .a none (flashRead f e0.offset e0.length) = .ok x →
      exec (.flashImageLoad f) s = .next (s.whole fun _ => s.loadImage .a x 1)) ∧
    (flashEntry f 2 0 = none → flashEntry f 2 1 = none →
      exec (.flashImageLoad f) s = .next (s.whole fun _ => s.onHall .a fun H =>
        { H with dev := { H.dev with imgState := if s.straps.bootSrc == 1 then 1 else 0, noSource := !(s.straps.bootSrc == 1) } }))

/-- ACTIVATION_ACK_TIMEOUT in a hall that awaits the acknowledgement returns its staged image from SCHEDULED to VERIFIED with LAST_ERROR 0x22,
PARTNER_LOST, and tells the other hall, which where it has scheduled the same sweep does so too (R93, R95, R36; that a CONTROL payload tells it: log
entry 27). HALL_B_ACCEPT_TIMEOUT in a linked Hall A whose partner has not accepted and has not started loses the partner (R87). (Rests on
02_aizan_image (R93), 02_aizan_image (R95), 02_aizan_image (R87).) -/
def Obligations.ActivationAndAcceptanceTimeouts : Prop :=
  (∀ (s : State) (h : HallId) (n : Nat), s.por = false → (s.hall h).dev.ackBy = some n → (s.hall h).dev.staged = 3 →
    exec (.activationAckTimeout h) s = .next (s.whole fun _ =>
      ((s.onHall h fun H => { H with dev := { H.dev with staged := 2, activate := false, ackBy := none } }).recordRefusal h (0x22, 0, 0xFFFF)).onHall
        h fun H => H.tell (.withdraw (s.hall h).dev.actSweep))) ∧
  (∀ (s : State) (h : HallId) (vt : Nat), (s.hall h).dev.staged = 3 →
    s.control h (.withdraw (s.hall h).dev.actSweep) vt =
      (s.onHall h fun H => { H with dev := { H.dev with staged := 2, activate := false, ackBy := none } }).recordRefusal h (0x22, 0, 0xFFFF)) ∧
  (∀ (s : State) (h : HallId) (n : Nat), s.por = false → (s.hall h).dev.ackBy = some n → (s.hall h).dev.staged = 3 →
    Gives (.activationAckTimeout h) s fun t =>
      (t.hall h).dev.staged = 2 ∧ (t.hall h).dev.activate = false ∧ (t.hall h).dev.lastError = 0x22 ∧
      (t.hall h).dev.stagedImg = (s.hall h).dev.stagedImg) ∧
  (∀ (s : State) (im : Image), s.por = false → s.a.image = some im → im.linked = true → s.a.stair.farAccepted = false →
    s.b.swp.started = false → exec .hallBAcceptTimeout s = .next (s.whole fun _ => s.losePartner .a))

/-- R50: the width of a direction is 32, 16 or 8 lanes, whichever is the largest for which a contiguous aligned group of good lanes exists, and 0
where there is none. STAIR_TRAINING_DONE of two powered linked halls of which one is not trained, where both may train (traffic permitted, or no
image yet, and the retraining's sweep boundary passed: R51, R56, R86), sets each hall's receive width and STAIR_LANE_GOOD from its own lanes and its
LANES_TX to the other hall's receive width, with the Stair trained and enabled; with Hall B at its boot ROM, Hall A hands the running firmware to
the Stair (R617). (Rests on 01_halls_and_galleries (R50), 01_halls_and_galleries (R51), 20_package_and_startup (R617).) -/
def Obligations.StairTrainingBringsUpTheWidths : Prop :=
  (∀ (good : BitVec 32) (w : Nat), laneWidth good = w →
    w ∈ [0, 8, 16, 32] ∧ (w ≠ 0 → ∃ i, w * i + w ≤ 32 ∧ ∀ k < w, good.getLsbD (w * i + k) = true) ∧
    ∀ v ∈ [8, 16, 32], w < v → ∀ i, v * i + v ≤ 32 → ∃ k < v, good.getLsbD (v * i + k) = false) ∧
  (∀ (s : State) (im : Image) (ga gb : BitVec 32), s.por = false → s.a.image = some im → im.linked = true → im.minWidth ≤ 8 →
    s.a.dev.up = true → s.b.dev.up = true → s.b.dev.stage = .rom → s.a.pwr.hall = .on → s.b.pwr.hall = .on → s.a.stair.trained = false →
    s.a.stair.enable = true → s.a.stair.retrain = false → s.b.stair.retrain = false → s.b.image = none → 8 ≤ laneWidth ga → 8 ≤ laneWidth gb →
    Gives (.stairTrainingDone ga gb) s fun t =>
      t.a.stair.trained = true ∧ t.b.stair.trained = true ∧ t.a.stair.enable = true ∧ t.b.stair.enable = true ∧
      t.a.stair.laneGood = ga ∧ t.b.stair.laneGood = gb ∧ t.a.stair.lanesRx = laneWidth ga ∧ t.b.stair.lanesRx = laneWidth gb ∧
      t.a.stair.lanesTx = laneWidth gb ∧ t.b.stair.lanesTx = laneWidth ga ∧
      t.a.stair.ctlOut = [.firmware s.a.dev.fwObject] ∧ t.b.stair.ctlOut = [] ∧ t.b.stair.ctlSent = [] ∧
      (s.a.stair.waits = [] → t.a.stair.outbox = []) ∧ (s.b.stair.waits = [] → t.b.stair.outbox = []))

/-- R49: PARTNER_LOST in a hall whose Stair is enabled and trained clears PARTNER_ALIVE, sets MODE to PARTNER_LOST, drops the SYNC, MOVE and COMPARE
messages that wait, and is no longer trained and asks for retraining at the next sweep boundary, where sweeps run (R51); a hall that has lost its
partner already is left as it is. BEAT_SEND hands the hall's BEAT to the Stair while the Stair is enabled and trained: with nothing else waiting and
a BEAT credit left (R46) it goes at once, with the next SEQ of its kind. Otherwise nothing is sent. (Rests on 01_halls_and_galleries (R49),
01_halls_and_galleries (R63), 16_integrity_and_faults (R544).) -/
def Obligations.PartnerIsLostOnMissedBeats : Prop :=
  (∀ (s : State) (h : HallId), s.por = false → (s.hall h).dev.up = true → (s.hall h).stair.enable = true → (s.hall h).stair.trained = true →
    (s.hall h).stair.lost = false → (s.hall h).dev.staged ≠ 3 → (s.hall h.other).dev.staged ≠ 3 →
    Gives (.partnerLost h) s fun t =>
      (t.hall h).stair.alive = false ∧ (t.hall h).stair.mode = .partnerLost ∧ (t.hall h).stair.lost = true ∧
      (t.hall h).stair.retrain = (s.hall h).swp.started ∧ (t.hall h).stair.trained = (s.hall h).swp.started ∧
      (t.hall h).stair.waits = ((s.hall h).stair.waits.filter fun m => decide (2 < m.kind)) ∧
      (t.hall h).stair.begun = ((s.hall h).stair.begun.filter fun b => decide (2 < b.1.kind)) ∧ (t.hall h).stair.moves = [] ∧
      (t.hall h).stair.syncs = [] ∧ (t.hall h.other).bare = (s.hall h.other).bare) ∧
  (∀ (s : State) (h : HallId), s.por = false → (s.hall h).stair.lost = true →
    exec (.partnerLost h) s = .next (s.whole fun _ => s)) ∧
  (∀ (s : State) (h : HallId), s.por = false → (s.hall h).dev.up = true → (s.hall h).stair.enable = true → (s.hall h).stair.trained = true →
    (s.hall h).stair.waits = [] → (s.hall h).stair.begun = [] → 0 < (s.hall h).stair.credits 4 0 →
    Gives (.beatSend h) s fun t =>
      (t.hall h).stair.outbox = (s.hall h).stair.outbox ++ [{ (s.hall h).beatMsg with seq := ((s.hall h).stair.seq[4]?).getD 0 }] ∧
      (t.hall h).swp = (s.hall h).swp ∧ (t.hall h).gals = (s.hall h).gals ∧ (t.hall h.other).bare = (s.hall h.other).bare) ∧
  (∀ (s : State) (h : HallId), s.por = false → (s.hall h).dev.up = true → (s.hall h).stair.enable = true → (s.hall h).stair.trained = true →
    exec (.beatSend h) s = .next (s.whole fun _ => s.onHall h fun H => (H.sendStair H.beatMsg).refillControl)) ∧
  (∀ (s : State) (h : HallId), s.por = false → (s.hall h).stair.trained = false →
    exec (.beatSend h) s = .next (s.whole fun _ => s))

/-- In a hall that hears the Stair and has not lost its partner: a SYNC to a declared cell signals the cell, or with AFTER_MOVE waits for the last
earlier MOVE of its PART that is not yet shown; a MOVE inside a window of its PART is held back until LAST and shown with it; a COMPARE fragment of
a mark declared in the sweep that it names (R96) joins the far copy of its mark; a CONTROL fragment that completes its payload has the payload's
effect; a BEAT is remembered, and its timing taken (R100). A SYNC to an undeclared cell, a MOVE to no window or past its end, and a COMPARE of no
declared mark are discarded whole, counted and logged (R43). (Rests on 01_halls_and_galleries (R43), 01_halls_and_galleries (R44),
01_halls_and_galleries (R45), 01_halls_and_galleries (R41), 03_sweep_timebase (R121), 03_sweep_timebase (R100).) -/
def Obligations.StairMessagesArrive : Prop :=
  ∀ (s : State) (h : HallId) (m : StairMsg), s.hears h m = true → ((s.pop h m).hall h).stair.lost = false →
    (m.kind = 0 → ((s.pop h m).hall h).rxCell h.idx (m.arg0 % 65536) m.part = true →
      bit m.arg2 0 = false ∨ (s.hall h.other).stair.outbox = [] ∧ (s.hall h).stair.moves = [] →
      exec (.stairSync h m) s = .next (s.whole fun _ => (s.pop h m).onHall h fun H => H.applySync h.idx m)) ∧
    (∀ x, m.kind = 0 → ((s.pop h m).hall h).rxCell h.idx (m.arg0 % 65536) m.part = true → bit m.arg2 0 = true →
      (s.hall h.other).stair.outbox = [] → ((s.hall h).stair.moves.filter fun y => y.part == m.part).getLast? = some x →
      exec (.stairSync h m) s = .next (s.whole fun _ => (s.pop h m).onHall h fun H =>
        { H with stair := { H.stair with syncs := H.stair.syncs ++ [(m, x.seq)] } })) ∧
    (((s.pop h m).hall h).rxCell h.idx (m.arg0 % 65536) m.part = false →
      exec (.stairSync h m) s = .next (s.whole fun _ => (s.pop h m).onHall h fun H => H.discardMsg m)) ∧
    (∀ w, m.kind = 1 → ((s.pop h m).hall h).rxWindow h.idx (m.arg0 % 65536) m.part = some w → m.arg1 + m.data.length ≤ w.size →
      (bit m.arg2 0 = false → exec (.stairMove h m) s = .next (s.whole fun _ =>
        (s.pop h m).onHall h fun H => { H with stair := { H.stair with moves := H.stair.moves ++ [m] } })) ∧
      (bit m.arg2 0 = true → ((s.pop h m).hall h).stair.moves = [] → exec (.stairMove h m) s = .next (s.whole fun _ =>
        ((s.pop h m).onHall h fun H => ({ H with stair := { H.stair with moves := [] } } : Hall).applyMove h.idx m).freeSyncs h))) ∧
    (∀ w, m.kind = 1 → ((s.pop h m).hall h).rxWindow h.idx (m.arg0 % 65536) m.part = some w → w.size < m.arg1 + m.data.length →
      exec (.stairMove h m) s = .next (s.whole fun _ => (s.pop h m).onHall h fun H => H.discardMsg m)) ∧
    (m.kind = 1 → ((s.pop h m).hall h).rxWindow h.idx (m.arg0 % 65536) m.part = none →
      exec (.stairMove h m) s = .next (s.whole fun _ => (s.pop h m).onHall h fun H => H.discardMsg m)) ∧
    (∀ im t, m.kind = 2 → ((s.pop h m).hall h).imageIn m.arg1 = some im → ((s.pop h m).hall h).tableIn m.part m.arg1 = some t →
      (im.marks.any fun e => e.table == t.table && e.mark == m.arg0 % 65536) = true →
      exec (.stairCompare h m) s = .next (s.whole fun _ => (s.pop h m).onHall h fun H =>
        ((H.onMark m.part (m.arg0 % 65536) m.arg1 fun x =>
          { x with far := x.far ++ [(m.arg2 % 65536, m.data)], farDone := x.farDone || bit m.arg2 16 }).tryJudge h.idx m.part (m.arg0 % 65536)
            m.arg1).after h.idx)) ∧
    (∀ im t, m.kind = 2 → ((s.pop h m).hall h).imageIn m.arg1 = some im → ((s.pop h m).hall h).tableIn m.part m.arg1 = some t →
      (im.marks.any fun e => e.table == t.table && e.mark == m.arg0 % 65536) = false →
      exec (.stairCompare h m) s = .next (s.whole fun _ => (s.pop h m).onHall h fun H => H.discardMsg m)) ∧
    (∀ means, m.kind = 3 → joinControl ((s.pop h m).hall h).stair.control m = (none, true) →
      exec (.stairControl h m means) s = .next (s.whole fun _ =>
        ((((s.pop h m).onHall h fun H => { H with stair := { H.stair with control := none } }).onHall h.other fun H =>
          { H with stair := { H.stair with ctlOut := H.stair.ctlOut.erase means } }).control h means s.pkg.now))) ∧
    (∀ tb, m.kind ≠ 4 → exec (.stairBeat h m tb) s = .next (s.whole fun _ => (s.pop h m).onHall h fun H => H.discardMsg m)) ∧
    (∀ means, m.kind ≠ 3 → exec (.stairControl h m means) s = .next (s.whole fun _ => (s.pop h m).onHall h fun H => H.discardMsg m)) ∧
    (∀ im tb, m.kind = 4 → ((s.pop h m).hall h).image = some im →
      exec (.stairBeat h m tb) s = .next (s.whole fun _ =>
        (((s.pop h m).onHall h fun H => { H with stair := { H.stair with alive := true } }).beatTime h m.arg0 (m.arg1 % 4096) (m.arg2 % 2 ^ 25)
          (bits m.arg2 25 3) (bit m.arg2 28) tb).onHall h fun H =>
            { H with stair := { H.stair with beat := some (m.arg0, m.arg1 % 4096, m.arg2 % 2 ^ 25, bits m.arg2 25 3, bit m.arg2 28) } }))

/-- In a hall with an image whose reference the pulse is and which accepts references: the first reference of a waiting hall starts sweep 0,
UNLOCKED, at its time, with ticks of NOMINAL_US (R620); one that comes less than 0.9 × MIN_US after the last is only counted in EARLY (R102); a
pulse that is not the hall's reference changes nothing. With HOLDOVER at least 1 and no reference by t0 + 1.5 × NOMINAL_US, REFERENCE_LOST starts
the next sweep in HOLDOVER with one holdover sweep fewer left. (Rests on 03_sweep_timebase (R98), 03_sweep_timebase (R99), 03_sweep_timebase (R102),
20_package_and_startup (R620).) -/
def Obligations.ReferencesStartSweeps : Prop :=
  (∀ (s : State) (h : HallId) (src : RefSource) (tb : Nat) (im : Image), s.por = false → (s.hall h).image = some im →
    im.timebase.takes h.idx src = true → s.accepts h = true → (s.hall h).swp.started = false → (s.hall h).swp.lastRef = none →
    (s.hall h).stair.beat = none →
    Gives (.reference h src tb) s fun t =>
      (t.hall h).swp.sweep = 0 ∧ (t.hall h).swp.tick = 0 ∧ (t.hall h).swp.t0 = tb ∧ (t.hall h).swp.lock = .unlocked ∧
      (t.hall h).swp.per = im.timebase.nominal ∧ (t.hall h).swp.started = true ∧ (t.hall h).swp.waiting = false ∧
      (t.hall h).swp.lastRef = some tb ∧ (t.hall h).dev.stage = .running ∧
      (t.hall h).dev.bootTime = min ((tb - (s.hall h).dev.releaseTb) / 100) 0xFFFFFFFF ∧ (t.hall h).mem = (s.hall h).mem ∧
      (t.hall h.other).bare = (s.hall h.other).bare) ∧
  (∀ (s : State) (h : HallId) (src : RefSource) (tb l : Nat) (im : Image), s.por = false → (s.hall h).image = some im →
    im.timebase.takes h.idx src = true → s.accepts h = true → (s.hall h).swp.lastRef = some l → tb - l < 90 * im.timebase.minUs →
    exec (.reference h src tb) s = .next (s.whole fun _ => s.onHall h fun H =>
      { H with swp := { H.swp with refEarly := inc16 H.swp.refEarly } })) ∧
  (∀ (s : State) (h : HallId) (src : RefSource) (tb : Nat) (im : Image), s.por = false → (s.hall h).image = some im →
    im.timebase.takes h.idx src = false → exec (.reference h src tb) s = .next (s.whole fun _ => s)) ∧
  (∀ (s : State) (h : HallId) (tb : Nat) (im : Image), s.por = false → (s.hall h).dev.up = true → (s.hall h).image = some im →
    (s.hall h).swp.started = true → (s.hall h).swp.lock = .locked → (s.hall h).swp.t0 + im.timebase.nominal * 3 / 2 ≤ tb →
    0 < im.timebase.holdover →
    Gives (.referenceLost h tb) s fun t =>
      (t.hall h).swp.sweep = ((s.hall h).swp.sweep + 1) % 2 ^ 32 ∧ (t.hall h).swp.t0 = tb ∧ (t.hall h).swp.lock = .holdover ∧
      (t.hall h).swp.holdLeft = im.timebase.holdover - 1 ∧ (t.hall h).swp.tick = 0)

/-- In HOLDOVER, in a hall that follows no BEATs, HOLDOVER_SWEEP once the period has passed starts the next sweep at the sweep's start plus the
period: in HOLDOVER while holdover sweeps are left, else in GENERATOR (R102). In GENERATOR, with the generator not itself the reference,
GENERATOR_SWEEP starts the next sweep there, in GENERATOR (R119). Before the period has passed neither has an effect. (Rests on 03_sweep_timebase
(R102), 03_sweep_timebase (R119).) -/
def Obligations.FreeRunningSweeps : Prop :=
  (∀ (s : State) (h : HallId) (tb : Nat), s.por = false → (s.hall h).dev.up = true → (s.hall h).swp.lock = .holdover →
    (s.hall h).swp.follower = false → (s.hall h).swp.t0 + (s.hall h).swp.per ≤ tb →
    Gives (.holdoverSweep h tb) s fun t =>
      (t.hall h).swp.sweep = ((s.hall h).swp.sweep + 1) % 2 ^ 32 ∧ (t.hall h).swp.t0 = (s.hall h).swp.t0 + (s.hall h).swp.per ∧
      (t.hall h).swp.tick = 0 ∧ (t.hall h).swp.lock = (if 0 < (s.hall h).swp.holdLeft then .holdover else .generator) ∧
      (t.hall h).swp.holdLeft = (s.hall h).swp.holdLeft - 1) ∧
  (∀ (s : State) (h : HallId) (tb : Nat) (im : Image), s.por = false → (s.hall h).dev.up = true → (s.hall h).image = some im →
    im.timebase.source ≠ 2 → (s.hall h).swp.lock = .generator → (s.hall h).swp.follower = false →
    (s.hall h).swp.t0 + (s.hall h).swp.per ≤ tb →
    Gives (.generatorSweep h tb) s fun t =>
      (t.hall h).swp.sweep = ((s.hall h).swp.sweep + 1) % 2 ^ 32 ∧ (t.hall h).swp.t0 = (s.hall h).swp.t0 + (s.hall h).swp.per ∧
      (t.hall h).swp.tick = 0 ∧ (t.hall h).swp.lock = .generator) ∧
  (∀ (s : State) (h : HallId) (tb : Nat), s.por = false → tb < (s.hall h).swp.t0 + (s.hall h).swp.per →
    (s.hall h).swp.lock = .holdover → exec (.holdoverSweep h tb) s = .next (s.whole fun _ => s))

/-- In a running hall: with tick 0 of a new sweep due, TICK_BOUNDARY does the sweep boundary's work and then tick 0's; before tick n + 1 begins, at
t0 + floor((n + 1) × Pv / 4,096), nothing happens; from then on it moves to tick n + 1 and does that tick's work (R99, R104); in tick 4,095, more
than a tick past the period, the lock state becomes STRETCH and no slot starts (R102). Each time a flight whose cores can take it is entered (R380).
Step 2 of R104 advances every rotating pointer by one. (Rests on 03_sweep_timebase (R99), 03_sweep_timebase (R102), 03_sweep_timebase (R104).) -/
def Obligations.TicksFollowTheSweep : Prop :=
  (∀ (s : State) (h : HallId) (tb : Nat), s.por = false → (s.hall h).dev.up = true → (s.hall h).swp.started = true →
    ((s.hall h).swp.boundaryDue = true → exec (.tickBoundary h tb) s = .next (s.whole fun _ =>
      (((s.boundary h).onHall h fun H => H.tickWork h.idx 0).pinCheck h).flightEntry)) ∧
    ((s.hall h).swp.boundaryDue = false → (s.hall h).swp.tick < 4095 → tb < (s.hall h).tickStart ((s.hall h).swp.tick + 1) →
      exec (.tickBoundary h tb) s = .next (s.whole fun _ => s.flightEntry)) ∧
    ((s.hall h).swp.boundaryDue = false → (s.hall h).swp.tick < 4095 → (s.hall h).swp.tick ≠ 2047 →
      (s.hall h).tickStart ((s.hall h).swp.tick + 1) ≤ tb →
      exec (.tickBoundary h tb) s = .next (s.whole fun _ =>
        ((s.onHall h fun H => ({ H with swp := { H.swp with tick := H.swp.tick + 1 } } : Hall).tickWork h.idx (H.swp.tick + 1)).pinCheck
          h).flightEntry)) ∧
    ((s.hall h).swp.boundaryDue = false → (s.hall h).swp.tick = 4095 →
      (s.hall h).swp.t0 + (s.hall h).swp.per + (s.hall h).swp.per / 4096 < tb → (s.hall h).swp.lock = .locked →
      exec (.tickBoundary h tb) s = .next (s.whole fun _ =>
        (s.onHall h fun H => { H with swp := { H.swp with lock := .stretch } }).flightEntry))) ∧
  (∀ (H : Hall) (n : Nat), H.tickStart n = H.swp.t0 + n * H.swp.per / 4096) ∧
  (∀ H : Hall, H.advance.dev.portPtr = (H.dev.portPtr + 1) % 2 ∧ H.advance.stair.ptr = (H.stair.ptr + 1) % 5 ∧
    H.advance.mem.lockPtr = (H.mem.lockPtr + 1) % 96 ∧ H.advance.mem.takePtr = (H.mem.takePtr + 1) % 96 ∧
    H.advance.gals.map (fun G => G.ptr) = H.gals.map (fun G => (G.ptr + 1) % 12))

/-- STRIKE_RESET of a core that has not been fenced for 1,024 sweeps returns its strike count to 0 and touches nothing else (R60). WARMING_END in
the last warming sweep's closing boundary ends the warming (R546). FSYNC_OUT_PULSE_END of an output of Hall A whose width has run ends its pulse,
and before that has no effect (R101). SLOT_DEFERRED_ISSUE issues a slot whose issue waited for its previous stream, once its contexts are idle, in
the tick in force (R113). (Rests on 01_halls_and_galleries (R60), 03_sweep_timebase (R101), 03_sweep_timebase (R113), 16_integrity_and_faults
(R546).) -/
def Obligations.SweepCountsAndPulsesEnd : Prop :=
  (∀ (s : State) (h : HallId) (g c : Nat), s.por = false → (s.hall h).dev.up = true → 1024 ≤ ((s.hall h).gal g).clean.getD c 0 →
    exec (.strikeReset h g c) s = .next (s.whole fun _ => s.onHall h fun H => H.onGal g fun G =>
      { G with strikes := modAt G.strikes c fun _ => 0, clean := modAt G.clean c fun _ => 0 })) ∧
  (∀ (s : State) (h : HallId), s.por = false → (s.hall h).dev.up = true → (s.hall h).swp.warming = 1 → (s.hall h).swp.boundaryDue = true →
    exec (.warmingEnd h) s = .next (s.whole fun _ => s.onHall h fun H => { H with swp := { H.swp with warming := 0, readmitted := false } })) ∧
  (∀ (s : State) (n tb : Nat), s.por = false → s.a.dev.up = true → s.a.swp.pulse.getLsbD n = true →
    (s.a.swp.pulseEnd.getD n 0 ≤ tb → exec (.fsyncOutPulseEnd n tb) s = .next (s.whole fun _ =>
      { s with a := { s.a with swp := { s.a.swp with pulse := s.a.swp.pulse &&& ~~~(BitVec.ofNat 4 (2 ^ n)) } } })) ∧
    (tb < s.a.swp.pulseEnd.getD n 0 → exec (.fsyncOutPulseEnd n tb) s = .next (s.whole fun _ => s))) ∧
  (∀ (s : State) (h : HallId) (p n tb : Nat) (im : Image) (t : SweepTable) (sl : Slot) (r : SlotRun), s.por = false →
    (s.hall h).dev.up = true → (s.hall h).image = some im → (s.hall h).tableOf p = some t → t.slot n = some sl →
    (s.hall h).run p t.table n (s.hall h).swp.sweep = some r → r.waiting = true → r.cancelled = false → r.issued = false →
    (s.hall h).slotIdle p t.table n = true → (((s.hall h).mapLog p sl.lgallery).any fun g => (s.hall h).pwr.drains.getLsbD g) = false →
    exec (.slotDeferredIssue h p n tb) s = .next (s.whole fun _ => s.onHall h fun H =>
      ((H.issueSlot im p t sl H.swp.tick r.late r.dataTick r.dataSweep).after h.idx).admitWaiting h.idx))

/-- COMMAND_FETCH for a placed resident context that fetches, with fewer than 8 commands in flight, on a core that runs, outside a replay: the
descriptor at its position joins the end of the queue with that position, the hall's next serial number and this cycle; its wait counts as satisfied
where it has none; fetching stops after END. A header that breaks R282 to R285 ends the command in the lowest fault instead, and a position past the
stream's end in CMD_STREAM. A context that is not resident, is not fetching or holds 8 commands fetches nothing, nor one whose descriptor or
live-range list is still being published (R288). (Rests on 09_commands_and_contexts (R284), 09_commands_and_contexts (R285),
09_commands_and_contexts (R282), 09_commands_and_contexts (R288), 09_commands_and_contexts (R320).) -/
def Obligations.FetchPlacesTheNextCommand : Prop :=
  (∀ (s : State) (h : HallId) (ctx cyc : Nat) (x : Ctx) (d : List Byte), s.por = false → (s.hall h).ctx ctx = some x → x.placed = true →
    x.st = .resident → x.fetching = true → x.cmds.length < 8 → (s.hall h).coreRuns x.core = true →
    (s.hall h).fetchHeld h.idx x x.fetch = false → x.fetch < x.desc.streamLen →
    (s.hall h).streamBytes h.idx x x.fetch = some d → (s.hall h).streamFault x x.fetch = none → x.replayTo ≤ x.fetch →
    ((s.hall h).headerFault h.idx x x.fetch d = none →
      exec (.commandFetch h ctx cyc) s = .next (s.whole fun _ => (s.onHall h fun H =>
        let k : Cmd :=
          { pos := x.fetch, serial := H.serial, desc := d, waitDone := !(bit (fld d 1 1) 0) || x.waitsMet.contains x.fetch, stage := .queued
            enq := cyc, issued := 0, commit := 0, killReq := none, killAt := 0, lockWaited := false, slotWaited := false, haloHeld := false
            kills := ((x.killsHad.find? fun e => e.1 == x.fetch).map (·.2)).getD 0
            readyAt := none, suppress := false, poisoned := none, built := Built.empty }
        ({ H with serial := H.serial + 1 }.onCtx ctx fun y =>
          { y with fetch := x.fetch + 1, fetching := fld d 0 1 != 1, cmds := y.cmds ++ [k] }).testWait ctx k).afterAt h x.core cyc)) ∧
    (∀ c, (s.hall h).headerFault h.idx x x.fetch d = some c →
      exec (.commandFetch h ctx cyc) s = .next (s.whole fun _ => (s.faultCmd h x x.fetch (fld d 0 1) c 0 0 0).afterAt h x.core cyc))) ∧
  (∀ (s : State) (h : HallId) (ctx cyc : Nat) (x : Ctx), s.por = false → (s.hall h).ctx ctx = some x → x.placed = true → x.st = .resident →
    x.fetching = true → x.cmds.length < 8 → (s.hall h).coreRuns x.core = true → (s.hall h).fetchHeld h.idx x x.fetch = false →
    x.desc.streamLen ≤ x.fetch → exec (.commandFetch h ctx cyc) s = .next (s.whole fun _ => (s.faultCmd h x x.fetch 0 0x0106 0 0 0).afterAt h x.core cyc)) ∧
  (∀ (s : State) (h : HallId) (ctx cyc : Nat) (x : Ctx), s.por = false → (s.hall h).ctx ctx = some x →
    x.fetching = false ∨ 8 ≤ x.cmds.length ∨ x.st ≠ .resident ∨ (s.hall h).fetchHeld h.idx x x.fetch = true → exec (.commandFetch h ctx cyc) s = .next (s.whole fun _ => s))

/-- END and SYNC, first in their context's queue with their wait satisfied and the context placed: the core's last commit names them, the commit
counts, everything their publication does happens at once, and they become Done; END also ends the stream's issue (R283). While a command of another
kind stands first, or the wait is not satisfied, neither has an effect. (Rests on 09_commands_and_contexts (R283), 09_commands_and_contexts (R288).)
-/
def Obligations.SyncAndEndCommitAtTheHead : Prop :=
  (∀ (s : State) (h : HallId) (ctx cyc op : Nat) (row : Instr) (x : Ctx) (k : Cmd) (r : List Cmd), s.por = false →
    (row = .endStream h ctx cyc ∧ op = 1 ∨ row = .sync h ctx cyc ∧ op = 2) → (s.hall h).ctx ctx = some x → x.cmds = k :: r → k.op = op →
    k.waitDone = true → x.placed = true → k.stage = .queued → k.suppress = false →
    exec row s = .next (s.whole fun _ =>
      ((s.onHall h fun H0 =>
        let H := H0.onward cyc
        ((((H.onCore x.core fun c => { c with lastCommit := some (x.num, k.op, k.seq) }).count (12 * x.core + 7) 1).sampleCommit x.core x.num k.op
          k.seq).slotCommit x cyc).publishAll h.idx x { k with issued := cyc, commit := cyc }).finish h x { k with issued := cyc, commit := cyc }
            cyc).afterAt h x.core cyc)) ∧
  (∀ (s : State) (h : HallId) (ctx cyc : Nat) (x : Ctx) (k : Cmd) (r : List Cmd), s.por = false → (s.hall h).ctx ctx = some x → x.cmds = k :: r →
    (k.op ≠ 1 ∨ k.waitDone = false → exec (.endStream h ctx cyc) s = .next (s.whole fun _ => s)) ∧
    (k.op ≠ 2 ∨ k.waitDone = false → exec (.sync h ctx cyc) s = .next (s.whole fun _ => s)))

/-- Each of COPY, PLACE HOLD and RELEASE, and CELL_OP SET, ADD and FAR_SIGNAL, chosen under R292, runs from this cycle on what its descriptor
builds, or ends in the fault that its descriptor has. A COPY that breaks no row of R359's table runs on the bytes of its source, to its destination
or, for a destination of kind 5, into the MOVE messages of R355, whatever its kinds, rows and strides. A PLACE and a CELL_OP that break no row run
on the streams' entries, the cells and the SYNC message that they name. An accepted PLACE builds a HOLD or RELEASE of COUNT streams from STREAM
(R357). An accepted CELL_OP builds the SETs of VALUE to COUNT cells from CELL, or signals of VALUE to them, or one SYNC message for a cell of the
far hall with VALUE and AFTER_MOVE (R358), and nothing of the other kinds. (Rests on 09_commands_and_contexts (R284), 09_commands_and_contexts
(R292), 10_memory_tiers (R354), 10_memory_tiers (R357), 10_memory_tiers (R358), 10_memory_tiers (R355), 10_memory_tiers (R359).) -/
def Obligations.MoverCommandsIssue : Prop :=
  Issues .copy (opIs 0x10) (fun h H R x k => issueCopy H R h.idx x k.desc) ∧
  Issues .placeHold (opSub 0x11 0 1) (fun _ => plainIssue fun R x k => issuePlace R x k.desc) ∧
  Issues .placeRelease (opSub 0x11 1 1) (fun _ => plainIssue fun R x k => issuePlace R x k.desc) ∧
  Issues .cellOpSet (opSub 0x12 0 2) (fun h => plainIssue fun R x k => issueCell R h.idx x k.desc) ∧
  Issues .cellOpAdd (opSub 0x12 1 2) (fun h => plainIssue fun R x k => issueCell R h.idx x k.desc) ∧
  Issues .farSignal (opSub 0x12 2 2) (fun h => plainIssue fun R x k => issueCell R h.idx x k.desc) ∧
  Runs .copy (opIs 0x10) (fun h _ R x k => (CopyCmd.ofDesc k.desc).Sound R h.idx x k.desc) (fun h H R x k =>
    ((CopyCmd.ofDesc k.desc).counted H R h.idx x,
      ((CopyCmd.ofDesc k.desc).build R h.idx x).withWork ((CopyCmd.ofDesc k.desc).work R h.idx x))) ∧
  (
    let placed := fun (_ : HallId) (H R : Hall) (x : Ctx) (k : Cmd) =>
      (H, ({ Built.empty with
        place := some (fld k.desc 20 4, fld k.desc 24 2, fld k.desc 16 1 == 0), run := 32 + cdiv (placeEntries R x k.desc) 16 } : Built))
    Runs .placeHold (opSub 0x11 0 1) (fun _ _ R x k => PlaceSound R x k.desc) placed ∧
    Runs .placeRelease (opSub 0x11 1 1) (fun _ _ R x k => PlaceSound R x k.desc) placed) ∧
  (
    let sound := fun (h : HallId) (_ R : Hall) (x : Ctx) (k : Cmd) => CellSound R h.idx x k.desc
    let cells := fun (k : Cmd) => (List.range (fld k.desc 18 2)).map fun i => (fld k.desc 20 2 + i, fld k.desc 24 4)
    Runs .cellOpSet (opSub 0x12 0 2) sound (fun _ H _ _ k => (H, { Built.empty with run := 32 + fld k.desc 18 2, sets := cells k })) ∧
    Runs .cellOpAdd (opSub 0x12 1 2) sound (fun _ H _ _ k => (H, { Built.empty with run := 32 + fld k.desc 18 2, signals := cells k })) ∧
    Runs .farSignal (opSub 0x12 2 2) sound (fun _ H _ x k => (H, { Built.empty with
      run := 33
      stair := [{ kind := 0, cls := x.cls, len := 0, part := x.part, seq := 0, arg0 := fld k.desc 20 2, arg1 := fld k.desc 24 4
                  arg2 := b2n (bit (fld k.desc 17 1) 0), data := [] }] }))) ∧
  (∀ (R : Hall) (x : Ctx) (d : List Byte) (b : Built), issuePlace R x d = .ok b →
    b.place = some (fld d 20 4, fld d 24 2, fld d 16 1 == 0) ∧ fld d 16 1 ≤ 1 ∧ 1 ≤ fld d 24 2 ∧ fld d 24 2 ≤ 4096 ∧ b.writes = []) ∧
  (∀ (R : Hall) (h : Nat) (x : Ctx) (d : List Byte) (b : Built), issueCell R h x d = .ok b →
    fld d 16 1 ≤ 2 ∧ 1 ≤ fld d 18 2 ∧ fld d 18 2 ≤ 256 ∧ b.writes = [] ∧
    b.sets = (if fld d 16 1 = 0 then (List.range (fld d 18 2)).map fun i => (fld d 20 2 + i, fld d 24 4) else []) ∧
    b.signals = (if fld d 16 1 = 1 then (List.range (fld d 18 2)).map fun i => (fld d 20 2 + i, fld d 24 4) else []) ∧
    b.stair = (if fld d 16 1 = 2 then
      [{ kind := 0, cls := x.cls, len := 0, part := x.part, seq := 0, arg0 := fld d 20 2, arg1 := fld d 24 4, arg2 := b2n (bit (fld d 17 1) 0)
         data := [] }] else []))

/-- Each of MATRIX, REC, STATE_OP INIT and STATE_OP ANCHOR, chosen under R292, runs from this cycle on what its descriptor builds from the hall as a
command reads it, or ends in the fault that its descriptor has, with a completion record of that code. Where no row of the fault table (R153, R249)
holds of the descriptor, its ranges and the headers at its block addresses, and no input holds a marker (R536), it runs, on the product, the layers'
steps or the state block that its rules give. (Rests on 09_commands_and_contexts (R284), 09_commands_and_contexts (R292), 04_matrix_array (R146),
04_matrix_array (R153), 07_recurrent_state (R235), 07_recurrent_state (R247), 07_recurrent_state (R249), 16_integrity_and_faults (R536).) -/
def Obligations.ArrayCommandsIssue : Prop :=
  Issues .matrix (opIs 0x20) (fun h => plainIssue fun R x k => issueMatrix R h.idx x k.desc) ∧
  Issues .recur (opIs 0x40) (fun h => plainIssue fun R x k => issueRec R h.idx x (seedOf h.idx k) k.desc) ∧
  Issues .stateOpInit (opSub 0x41 0 1) (fun h => plainIssue fun R x k => issueState R h.idx x (seedOf h.idx k) k.desc) ∧
  Issues .stateOpAnchor (opSub 0x41 1 1) (fun h => plainIssue fun R x k => issueState R h.idx x (seedOf h.idx k) k.desc) ∧
  Runs .matrix (opIs 0x20) (fun _ _ R x k => (MatrixCmd.ofDesc k.desc).Sound R x) (fun h H R x k =>
    (H, ((MatrixCmd.ofDesc k.desc).build R h.idx x).withWork ((MatrixCmd.ofDesc k.desc).work x))) ∧
  Runs .recur (opIs 0x40) (fun h _ R x k => (RecCmd.ofDesc k.desc).Sound R x (headerAt R h.idx x (RecCmd.ofDesc k.desc).stAddr) k.desc) (fun h H R x k =>
    let a := RecCmd.ofDesc k.desc
    (H, (a.build R h.idx x (headerAt R h.idx x a.stAddr) (seedOf h.idx k)).withWork (a.work x))) ∧
  let stateSound := fun (h : HallId) (_ R : Hall) (x : Ctx) (k : Cmd) =>
    let a := StateCmd.ofDesc k.desc
    a.Sound R x (headerAt R h.idx x a.dst) (headerAt R h.idx x a.src) k.desc
  let stateMade := fun (h : HallId) (H R : Hall) (x : Ctx) (k : Cmd) =>
    let a := StateCmd.ofDesc k.desc
    (H, (a.build R h.idx x (headerAt R h.idx x a.dst) (headerAt R h.idx x a.src) (seedOf h.idx k)).withWork
      (a.work x (headerAt R h.idx x a.dst) (headerAt R h.idx x a.src)))
  Runs .stateOpInit (opSub 0x41 0 1) stateSound stateMade ∧ Runs .stateOpAnchor (opSub 0x41 1 1) stateSound stateMade

/-- Each of ATTN, KV_APPEND, the six KV_PAGEOPs, ATTN_MERGE and ATTN_BWD, chosen under R292, runs from this cycle on what its descriptor builds,
with the frames and slots it needs reserved in the hall and, for KV_APPEND and KV_PAGEOP, the frames it uses pinned; or ends in the fault that its
descriptor has. Where no row of R227's table holds of the descriptor, its cache and its ranges, no input holds a marker (R536), a route is declared
(R32) and the frame and slot that it needs are there (R202), it runs, unless a frame that it pins at once has 255 pins (R343): an ATTN and an
ATTN_BWD on the pages that their runs fetch, a KV_APPEND and a KV_PAGEOP with what they reserve. (Rests on 09_commands_and_contexts (R284),
09_commands_and_contexts (R292), 06_attention_kv (R218), 06_attention_kv (R200), 06_attention_kv (R206), 06_attention_kv (R223), 06_attention_kv
(R225), 06_attention_kv (R227), 10_memory_tiers (R343).) -/
def Obligations.AttentionCommandsIssue : Prop :=
  Issues .attn (opIs 0x30) (fun h H R x k => issueAttn H R h.idx x k.serial k.desc) ∧
  Issues .kvAppend (opIs 0x31) (fun h H R x k => issueAppend H R h.idx x k.desc) ∧
  Issues .kvPageopCreate (opSub 0x32 0 5) (fun h H R x k => issuePage H R h.idx x k.desc) ∧
  Issues .kvPageopDestroy (opSub 0x32 1 5) (fun h H R x k => issuePage H R h.idx x k.desc) ∧
  Issues .kvPageopFork (opSub 0x32 2 5) (fun h H R x k => issuePage H R h.idx x k.desc) ∧
  Issues .kvPageopDrop (opSub 0x32 3 5) (fun h H R x k => issuePage H R h.idx x k.desc) ∧
  Issues .kvPageopTruncate (opSub 0x32 4 5) (fun h H R x k => issuePage H R h.idx x k.desc) ∧
  Issues .kvPageopSeal (opSub 0x32 5 5) (fun h H R x k => issuePage H R h.idx x k.desc) ∧
  Issues .attnMerge (opIs 0x33) (fun h => plainIssue fun R x k => issueMerge R h.idx x k.desc) ∧
  Issues .attnBwd (opIs 0x34) (fun h H R x k => issueBwd H R h.idx x k.serial k.desc) ∧
  (∀ c : Cache, Runs .attn (opIs 0x30) (fun h _ R x k => (AttnCmd.ofDesc k.desc).Sound R h.idx x c) (fun h H R x k =>
    let a := AttnCmd.ofDesc k.desc
    let gs := (a.run R h.idx x c).flatMap (·.2)
    (H.readPages c gs, { a.build R h.idx x k.serial c with
      ins := spans (a.work x c.prm).ins ++ gs.map (R.pageSpan c), outs := spans (a.work x c.prm).outs
      gsReads := gsBytes (a.work x c.prm).ins ++ R.pageReads c gs }))) ∧
  (∀ (c : Cache) (g : Page), Runs .attnBwd (opIs 0x34) (fun h _ R x k => (BwdCmd.ofDesc k.desc).Sound R h.idx x c g) (fun h H R x k =>
    let a := BwdCmd.ofDesc k.desc
    let gs := BwdCmd.fetched g
    (H.readPages c gs, { a.build R h.idx x k.serial c g with
      ins := spans (a.work x c.prm).ins ++ gs.map (R.pageSpan c), outs := spans (a.work x c.prm).outs
      gsReads := gsBytes (a.work x c.prm).ins ++ R.pageReads c gs }))) ∧
  (∀ c : Cache, Runs .kvAppend (opIs 0x31) (fun h H R x k => (AppendCmd.ofDesc k.desc).Sound H R h.idx x c) (fun h H R x k =>
    let a := AppendCmd.ofDesc k.desc
    let r := a.build H R h.idx x c
    (r.1, { r.2 with ins := spans (a.work x c.prm).ins ++ a.reads H c, outs := [], gsReads := gsBytes (a.work x c.prm).ins }))) ∧
  Runs .attnMerge (opIs 0x33) (fun _ _ R x k => (MergeCmd.ofDesc k.desc).Sound R x) (fun h H R x k =>
    (H, ((MergeCmd.ofDesc k.desc).build R h.idx x).withWork ((MergeCmd.ofDesc k.desc).work x))) ∧
  let pageMade := fun (h : HallId) (H R : Hall) (x : Ctx) (k : Cmd) =>
    let a := PageCmd.ofDesc k.desc
    let r := a.build H R h.idx x
    (r.1, { r.2 with ins := spans (a.work x).ins ++ a.reads H x, outs := [], gsReads := gsBytes (a.work x).ins })
  Runs .kvPageopCreate (opSub 0x32 0 5) (fun h H R x k => (PageCmd.ofDesc k.desc).CreateSound H R h.idx x) pageMade ∧
  Runs .kvPageopDestroy (opSub 0x32 1 5) (fun h H R x k => (PageCmd.ofDesc k.desc).DestroySound H R h.idx x) pageMade ∧
  Runs .kvPageopFork (opSub 0x32 2 5) (fun h H R x k => (PageCmd.ofDesc k.desc).ForkSound H R h.idx x) pageMade ∧
  Runs .kvPageopDrop (opSub 0x32 3 5) (fun h H R x k => (PageCmd.ofDesc k.desc).DropSound H R h.idx x) pageMade ∧
  Runs .kvPageopTruncate (opSub 0x32 4 5) (fun h H R x k => (PageCmd.ofDesc k.desc).TruncateSound H R h.idx x) pageMade ∧
  Runs .kvPageopSeal (opSub 0x32 5 5) (fun h H R x k => (PageCmd.ofDesc k.desc).SealSound H R h.idx x) pageMade

/-- Each of CONV, HALO, CROP_RESIZE, BOX_DECODE and NMS, chosen under R292, runs from this cycle on what its descriptor builds from the hall as a
command reads it, or ends in the fault that its descriptor has. Where no row of R277's table holds of the descriptor and its ranges, and no input
that the command reads holds a marker (R536; a HALO_SEND copies them), it runs, on the convolution, the band, the resized boxes, the decoded list or
the list kept that its rules give. (Rests on 09_commands_and_contexts (R284), 09_commands_and_contexts (R292), 08_vision_operators (R256),
08_vision_operators (R266), 08_vision_operators (R269), 08_vision_operators (R271), 08_vision_operators (R275), 08_vision_operators (R277).) -/
def Obligations.VisionCommandsIssue : Prop :=
  Issues .conv (opIs 0x50) (fun h => plainIssue fun R x k => issueConv R h.idx x k.desc) ∧
  Issues .haloSend (opIs 0x51) (fun h => plainIssue fun R x k => issueHalo R h.idx x k.desc) ∧
  Issues .cropResize (opIs 0x52) (fun h => plainIssue fun R x k => issueCrop R h.idx x k.desc) ∧
  Issues .boxDecode (opIs 0x53) (fun h => plainIssue fun R x k => issueBox R h.idx x k.desc) ∧
  Issues .nms (opIs 0x54) (fun h => plainIssue fun R x k => issueNms R h.idx x k.desc) ∧
  Runs .conv (opIs 0x50) (fun _ _ R x k => (ConvCmd.ofDesc k.desc).Sound R x k.desc) (fun h H R x k =>
    (H, ((ConvCmd.ofDesc k.desc).build R h.idx x).withWork ((ConvCmd.ofDesc k.desc).work x))) ∧
  Runs .cropResize (opIs 0x52) (fun _ _ R x k => (CropCmd.ofDesc k.desc).Sound R x k.desc) (fun h H R x k =>
    (H, ((CropCmd.ofDesc k.desc).build R h.idx x).withWork ((CropCmd.ofDesc k.desc).work x))) ∧
  Runs .boxDecode (opIs 0x53) (fun _ _ R x k => (BoxCmd.ofDesc k.desc).Sound R x k.desc) (fun h H R x k =>
    (H, ((BoxCmd.ofDesc k.desc).build R h.idx x).withWork ((BoxCmd.ofDesc k.desc).work x))) ∧
  Runs .nms (opIs 0x54) (fun h _ R x k => (NmsCmd.ofDesc k.desc).Sound R h.idx x) (fun h H R x k =>
    (H, ((NmsCmd.ofDesc k.desc).build R h.idx x).withWork ((NmsCmd.ofDesc k.desc).work x))) ∧
  Runs .haloSend (opIs 0x51) (fun h _ R x k => (HaloCmd.ofDesc k.desc).Sound R h.idx x k.desc) (fun h H R x k =>
    let a := HaloCmd.ofDesc k.desc
    (H, { (a.build R h.idx x).withWork (a.work x) with outs := spans [a.rngOut x] }))

/-- For command k at its position in context x: COMMIT_POINT of a Running command whose run is over, of which no kill was requested in an earlier
cycle (R299), whose inputs have been published and on whose outputs no command issued in this very cycle, moves it to publication with what it does
to caches and frames; a run that ends in a fault ends the command in it (R227); a halo band that its receiver reads is held and counted once (R266).
PUBLICATION_END of a publishing command whose last byte has been sent, in its turn, does all that its publication does, in the order of R288, and
makes it Done. KILL_COMPLETE of a Running command releases everything it holds, counted: it stays in its queue where R295 runs it again, and ends in
0x0107 for an overrun and in 0x0108 for a cancel. CMD_OVERRUN after 65,536 cycles requests its kill for overrun and logs it. Before their time none
of these has an effect. (Rests on 09_commands_and_contexts (R287), 09_commands_and_contexts (R288), 09_commands_and_contexts (R291),
09_commands_and_contexts (R295), 09_commands_and_contexts (R298), 09_commands_and_contexts (R299), 09_commands_and_contexts (R290), 06_attention_kv
(R227), 08_vision_operators (R266).) -/
def Obligations.CommandsCommitPublishAndDie : Prop :=
  ∀ (s : State) (h : HallId) (ctx pos cyc : Nat) (x : Ctx) (k : Cmd), s.por = false → (s.hall h).ctx ctx = some x → x.cmd pos = some k →
    let H := (s.hall h).onward cyc
    (k.stage = .running → k.killReq = none ∨ cyc ≤ k.killAt → k.issued + k.built.run ≤ cyc → H.reading k = false → H.outOfTurn k cyc = false →
      (k.built.ends = none → H.haloConflict x k = false → k.suppress = false →
        exec (.commitPoint h ctx pos cyc) s = .next (s.whole fun _ => (s.onHall h fun _ =>
          ((((H.commit x k cyc).saveLate x k).commitDevice h.idx x k).slotCommit x cyc).unlock x k).afterAt h x.core cyc)) ∧
      (k.built.ends = none → H.haloConflict x k = true → k.haloHeld = false →
        exec (.commitPoint h ctx pos cyc) s = .next (s.whole fun _ => s.onHall h fun H =>
          ((H.onGal (galOf x.core) fun G => { G with haloHolds := inc16 G.haloHolds }).count (1152 + 16 * galOf x.core + 3) 1).onCtx ctx fun y =>
            y.onCmd pos fun j => { j with haloHeld := true })) ∧
      (∀ code, k.built.ends = some code →
        exec (.commitPoint h ctx pos cyc) s = .next (s.whole fun _ =>
          ((s.onHall h fun _ => H).endRun h x k code cyc).afterAt h x.core cyc))) ∧
    (k.stage ≠ .running ∨ cyc < k.issued + k.built.run ∨ k.killReq ≠ none ∧ k.killAt < cyc →
      exec (.commitPoint h ctx pos cyc) s = .next (s.whole fun _ => s)) ∧
    (k.stage = .publishing → k.commit + pubTime x k.built ≤ cyc → H.behind x k = false → H.struckLater x.core k.built.sets = false →
      k.poisoned = none → ((((s.onHall h fun _ => H.publishAll h.idx x k).finish h x k cyc).hall h).core x.core).resetDue = false →
      exec (.publicationEnd h ctx pos cyc) s = .next (s.whole fun _ =>
        ((s.onHall h fun _ => H.publishAll h.idx x k).finish h x k cyc).afterAt h x.core cyc)) ∧
    (k.stage ≠ .publishing ∨ cyc < k.commit + pubTime x k.built → exec (.publicationEnd h ctx pos cyc) s = .next (s.whole fun _ => s)) ∧
    (∀ cause, k.stage = .running → k.killReq = some cause → cause ≠ .cancel → cause ≠ .overrun →
      exec (.killComplete h ctx pos cyc) s = .next (s.whole fun _ =>
        (s.onHall h fun H => (H.releaseRun x.num k cyc cause.reruns true).countKill x.core cause).afterAt h x.core cyc)) ∧
    (k.stage = .running → k.killReq = some .overrun →
      exec (.killComplete h ctx pos cyc) s = .next (s.whole fun _ =>
        ((s.onHall h fun H => (H.releaseRun x.num k cyc false true).countKill x.core .overrun).faultCmd h x k.pos k.op 0x0107 k.kills
          (k.issued - k.enq) 0).afterAt h x.core cyc)) ∧
    (k.stage = .running → k.killReq = some .cancel →
      exec (.killComplete h ctx pos cyc) s = .next (s.whole fun _ =>
        ((s.onHall h fun H => ((H.releaseRun x.num k cyc false true).countKill x.core .cancel).onCtx x.num fun y =>
          { y with lastFault := 0x0108 }).complete h x k.seq
            (recordBytes k.seq k.op 0 0x0108 k.kills (b2n x.moved) 0 (k.issued - k.enq))).afterAt h x.core cyc)) ∧
    (k.stage ≠ .running ∨ k.killReq = none → exec (.killComplete h ctx pos cyc) s = .next (s.whole fun _ => s)) ∧
    (k.stage = .running → k.issued + 65536 ≤ cyc →
      exec (.cmdOverrun h ctx pos cyc) s = .next (s.whole fun _ => s.onHall h fun H0 =>
        let H := H0.onward cyc
        (H.onCtx ctx fun y => y.onCmd pos fun j =>
          if j.stage == .running && (match j.killReq with | none => true | some o => decide (o.rank < KillCause.overrun.rank)) then
            { j with killReq := some .overrun, killAt := if j.killReq.isNone then H.now else j.killAt } else j).addLog 0x0403 x.core ctx 0)) ∧
    (k.stage ≠ .running ∨ cyc < k.issued + 65536 → exec (.cmdOverrun h ctx pos cyc) s = .next (s.whole fun _ => s))

/-- CONTEXT_ADMIT seats the next waiting context of a core that takes contexts, is not being drained and has room for it, and goes on until none
fits (R309). SWAP_OUT_DONE of a live context whose save is in progress takes it off its core: it stays swapped while its first command's wait is not
satisfied, and else waits for admission from this cycle on (R310). SWAP_IN_DONE ends a restore: the saved ranges stand in the core's operand store
again and the frames that held them are given back. FRAME_MOVE_COMMIT of a frame on its way to the DRAM whose home is valid and which nothing pins
leaves it in the DRAM with its block given back (R341). HALL_CELL_SIGNAL lets the oldest signal or SET on its way arrive at its cell (R352). (Rests
on 09_commands_and_contexts (R309), 09_commands_and_contexts (R310), 10_memory_tiers (R341), 10_memory_tiers (R352).) -/
def Obligations.ContextsSwapAndAdmit : Prop :=
  (∀ (s : State) (h : HallId) (c cyc : Nat) (w : Ctx), s.por = false →
    let H := (s.hall h).onward cyc
    H.nextWaiting c = some w → H.coreTakes c = true → H.pwr.drains.getLsbD (galOf c) = false → H.fits h.idx w c = true →
    exec (.contextAdmit h c cyc) s = .next (s.whole fun _ => (s.onHall h fun _ => Hall.admitCtx 31 (H.seat w c cyc) h.idx c cyc).afterAt h c cyc)) ∧
  (∀ (s : State) (h : HallId) (c cyc : Nat), s.por = false → ((s.hall h).onward cyc).nextWaiting c = none →
    exec (.contextAdmit h c cyc) s = .next (s.whole fun _ => (s.onHall h fun H => H.onward cyc).afterAt h c cyc)) ∧
  (∀ (s : State) (h : HallId) (ctx cyc : Nat) (x : Ctx) (k : Cmd) (r : List Cmd), s.por = false →
    let H := ((s.hall h).onward cyc).resumeSaves h.idx
    H.ctx ctx = some x → x.swap = .saving → x.cmds = k :: r → x.alive = true → x.st = .resident → H.pwr.drains.getLsbD (galOf x.core) = false →
    exec (.swapOutDone h ctx cyc) s = .next (s.whole fun _ => s.onHall h fun _ =>
      (Hall.admitCtx 32 (((H.onCtx ctx fun y =>
        { y with
          rslot := none, swap := .none, swapForced := false
          st := if y.st == .faulted || y.st == .ended || !y.alive then y.st else if k.waitDone then .waiting else .swapped
          waitSince := if !k.waitDone || y.st == .ended || !y.alive then none else some cyc
          acct := { y.acct with swapOuts := y.acct.swapOuts + 1 } }).onGal (galOf x.core) fun G => { G with swapOuts := inc16 G.swapOuts }).count
            (12 * x.core + 11) 1) h.idx x.core cyc).after h.idx)) ∧
  (∀ (s : State) (h : HallId) (ctx cyc : Nat) (x : Ctx) (v : Saved), s.por = false → (s.hall h).ctx ctx = some x → x.swap = .restoring →
    x.saved = some v → v.marks = [] → exec (.swapInDone h ctx cyc) s = .next (s.whole fun _ =>
      (s.onHall h fun H =>
        let H1 := H.onCore x.core fun c =>
          { v.bytes.foldl (fun (k : Core) r => k.invalidate r.1 r.2.length) c with op := v.bytes.foldl (fun st r => st.write r.1 r.2) c.op }
        (v.frames.foldl (fun H n => H.freeFrame n) H1).onCtx ctx fun y => { y with swap := .none, saved := none }).afterAt h x.core cyc)) ∧
  (∀ (s : State) (h : HallId) (n b i : Nat) (f : Frame), s.por = false → (s.hall h).frame n = some f → f.st = .movingDown → f.piece = some (b, i) →
    f.homeValid = true → f.pins = 0 → exec (.frameMoveCommit h n) s = .next (s.whole fun _ => s.onHall h fun H =>
      let H2 := (H.onFrame n fun f => { f with st := .dram, piece := none, forced := false }).tidyBlocks f.gal
      let H3 := ({ H2 with mem := { H2.mem with movesDown := inc16 H2.mem.movesDown } }).count (1152 + 16 * f.gal + 6) 1
      (((Hall.shrinkArea 97 H3 f.gal).holdsChanged f.moveCls).promote).after h.idx)) ∧
  (∀ (s : State) (h : HallId) (i v : Nat) (set : Bool) (r : List (Nat × Nat × Bool)), s.por = false → (s.hall h).mem.cellQueue = (i, v, set) :: r →
    exec (.hallCellSignal h) s = .next (s.whole fun _ => s.onHall h fun H =>
      let H1 : Hall := { H with mem := { H.mem with cellQueue := r } }
      ((if set then H1.setCell i v else H1.addCell i v).wake wakeFuel h.idx i).after h.idx))

/-- R349: adding k to sync cell i leaves its value plus k, or 0xFFFF_FFFF with MEM_MISC_COUNTS.SYNC_SATURATE one more where that does not fit in 32
bits; a SET leaves the value set; every other cell reads as before. For a result of 0 this is said of cells listed by rising number, without
repeats, the form in which the model holds them, which both operations keep. (Rests on 10_memory_tiers (R348), 10_memory_tiers (R349).) -/
def Obligations.SignalsSaturateAndSetsReplace : Prop :=
  ∀ (H : Hall) (i j k v : Nat),
    (0 < H.cell i + k → (H.addCell i k).cell i = min (H.cell i + k) 0xFFFFFFFF) ∧ (0 < v → (H.setCell i v).cell i = v) ∧
    (j ≠ i → (H.addCell i k).cell j = H.cell j ∧ (H.setCell i v).cell j = H.cell j) ∧
    (H.addCell i k).mem.syncSat = (if 0xFFFFFFFF < H.cell i + k then inc8 H.mem.syncSat else H.mem.syncSat) ∧
    (H.mem.cells.Pairwise (fun a b => a.1 < b.1) →
      (H.setCell i 0).cell i = 0 ∧ (H.setCell i v).mem.cells.Pairwise (fun a b => a.1 < b.1) ∧
      (H.addCell i k).mem.cells.Pairwise (fun a b => a.1 < b.1))

/-- CORRECTABLE_ERROR of one error outside the Stair, in a hall that runs, counts in ERR_CE_COUNT of its place (R526), and in the address log either
counts in the entry that names its place, unit and address, or takes the first free entry, or, with none free, counts in LOST (R527); a Stair flit
counts in STAIR_FLIT_CORR. Everything of the hall but ERR and the performance counters stays as it was. In a hall that does not run nothing happens.
(Rests on 16_integrity_and_faults (R525), 16_integrity_and_faults (R526), 16_integrity_and_faults (R527).) -/
def Obligations.CorrectableErrorsAreCountedAndLogged : Prop :=
  (∀ (s : State) (h : HallId) (x : CeHit), s.por = false → (s.hall h).dev.up = true → x.place ≠ 9 →
    Gives (.correctableError h [x]) s fun t =>
      (t.hall h).err.ce = modAt (s.hall h).err.ce x.place inc32 ∧
      (∀ i, (s.hall h).err.ceLog.findIdx? (fun c => c.names x) = some i →
        (t.hall h).err.ceLog = (modAt (s.hall h).err.ceLog i fun c =>
          { c with count := inc8 c.count, symbol := x.symbol, lastSweep := (s.hall h).swp.sweep }) ∧ (t.hall h).err.ceLost = (s.hall h).err.ceLost) ∧
      (∀ i, (s.hall h).err.ceLog.findIdx? (fun c => c.names x) = none → (s.hall h).err.ceLog.findIdx? (fun c => !c.valid) = some i →
        (t.hall h).err.ceLog = (modAt (s.hall h).err.ceLog i fun _ =>
          ⟨true, x.place, x.unit, 1, x.symbol, x.addr, (s.hall h).swp.sweep, (s.hall h).swp.sweep⟩) ∧
        (t.hall h).err.ceLost = (s.hall h).err.ceLost) ∧
      ((s.hall h).err.ceLog.findIdx? (fun c => c.names x) = none → (s.hall h).err.ceLog.findIdx? (fun c => !c.valid) = none →
        (t.hall h).err.ceLog = (s.hall h).err.ceLog ∧ (t.hall h).err.ceLost = inc8 (s.hall h).err.ceLost) ∧
      (t.hall h).mem = (s.hall h).mem ∧ (t.hall h).gals = (s.hall h).gals ∧ (t.hall h).cores = (s.hall h).cores ∧
      (t.hall h).ctxs = (s.hall h).ctxs ∧ (t.hall h).stair = (s.hall h).stair ∧ (t.hall h).swp = (s.hall h).swp ∧
      (t.hall h.other).bare = (s.hall h.other).bare) ∧
  (∀ (s : State) (h : HallId) (x : CeHit), s.por = false → (s.hall h).dev.up = true → x.place = 9 →
    Gives (.correctableError h [x]) s fun t =>
      (t.hall h).stair = { (s.hall h).stair with flitCorr := inc32 (s.hall h).stair.flitCorr } ∧ (t.hall h).mem = (s.hall h).mem ∧
      (t.hall h).gals = (s.hall h).gals ∧ (t.hall h).cores = (s.hall h).cores) ∧
  (∀ (s : State) (h : HallId) (xs : List CeHit), s.por = false → (s.hall h).dev.up = false →
    exec (.correctableError h xs) s = .next (s.whole fun _ => s))

/-- In a hall that runs: an error in an operand store resets its core, in a gallery store its gallery, each counted and logged; in steward memory, a
Corridor, DRAM or Stair it resets the hall with LAST_CAUSE 2, 4, 3 or 5 (R529, R549); in a commit buffer that no publication reads it resets the
core (R533); in an ISP parameter bank the active bank is lost. An error in a weight bank or its sidecar clears its VALID and counts, and one more
takes the bank out of service (R154). DOMAIN_RESET_RELEASE of a core or gallery that resets leaves it waiting to rejoin, or with three strikes when
its march test failed (R531). (Rests on 16_integrity_and_faults (R529), 16_integrity_and_faults (R531), 16_integrity_and_faults (R533),
04_matrix_array (R154).) -/
def Obligations.UncorrectableErrorsResetTheEnclosingDomain : Prop :=
  (∀ (s : State) (h : HallId) (c a cyc : Nat), s.por = false → (s.hall h).dev.up = true → c < 96 → ((s.hall h).gal (galOf c)).st ≠ .off →
    exec (.uncorrectableError h (.operandStore c a) cyc) s = .next (s.whole fun _ => (s.onHall h fun H => H.noteUe 0 c).coreResetDue h c cyc) ∧
    (((s.onHall h fun H => H.noteUe 2 c).hall h).publisher c a = none →
      exec (.uncorrectableError h (.commitBuffer c a) cyc) s = .next (s.whole fun _ =>
        (s.onHall h fun H => H.noteUe 2 c).coreResetDue h c cyc)) ∧
    (∀ (b : Nat) (sc : Bool), b < 16 → exec (.weightBankError h c b sc cyc) s = .next (s.whole fun _ =>
      (s.onHall h fun H => H.noteUe 1 c).bankError h c b cyc))) ∧
  (∀ (s : State) (h : HallId) (g a cyc : Nat), s.por = false → (s.hall h).dev.up = true → g < 8 → ((s.hall h).gal g).st ≠ .off →
    exec (.uncorrectableError h (.galleryStore g a) cyc) s = .next (s.whole fun _ => (s.onHall h fun H => H.noteUe 3 g).galleryReset h g cyc)) ∧
  (∀ (s : State) (h : HallId) (a b cyc : Nat), s.por = false → (s.hall h).dev.up = true →
    exec (.uncorrectableError h .steward cyc) s = .next (s.whole fun _ => s.hallReset h 2 true) ∧
    exec (.uncorrectableError h (.dram a) cyc) s = .next (s.whole fun _ => s.hallReset h 3 true) ∧
    exec (.uncorrectableError h (.corridor a b) cyc) s = .next (s.whole fun _ => s.hallReset h 4 true) ∧
    exec (.uncorrectableError h .stair cyc) s = .next (s.whole fun _ => s.hallReset h 5 true) ∧
    exec (.uncorrectableError h (.ispParam a) cyc) s = .next (s.whole fun _ => s.onHall h fun H =>
      (H.noteUe 4 a).onIsp a fun x => { x with active := none })) ∧
  (∀ (s : State) (h : HallId) (g c : Nat), s.por = false → (s.hall h).dev.up = true →
    (((s.hall h).gal g).galResetting = false → ((s.hall h).gal g).resetting.getLsbD c = true →
      exec (.domainResetRelease h g (some c) true) s = .next (s.whole fun _ => s.onHall h fun H => H.onGal g fun G =>
        { G with resetting := G.resetting &&& ~~~(BitVec.ofNat 12 (2 ^ c)), rejoin := G.rejoin ||| BitVec.ofNat 12 (2 ^ c) }) ∧
      exec (.domainResetRelease h g (some c) false) s = .next (s.whole fun _ => s.onHall h fun H => H.onGal g fun G =>
        { G with resetting := G.resetting &&& ~~~(BitVec.ofNat 12 (2 ^ c)), strikes := modAt G.strikes c fun _ => 3 })) ∧
    (((s.hall h).gal g).galResetting = true →
      exec (.domainResetRelease h g none true) s = .next (s.whole fun _ => s.onHall h fun H => H.onGal g fun G =>
        { G with galResetting := false, rejoin := 0xFFF })))

/-- SCRUB_WALKER_STEP in WALKER mode that finds nothing moves the walker one word on, and counts a round in ROUNDS where the word was its round's
last (R538); in another mode it does nothing. SCRUB_PASS_END writes READ, CORRECTED, MARKED and CUT of the pass in progress, each at most the
field's largest value or modulo 2^32 for READ, and the next pass runs (R539). (Rests on 16_integrity_and_faults (R537), 16_integrity_and_faults
(R538), 16_integrity_and_faults (R539).) -/
def Obligations.ScrubbingAndPasses : Prop :=
  (∀ (s : State) (h : HallId), s.por = false → (s.hall h).dev.up = true → (s.hall h).err.scrubMode = 1 →
    exec (.scrubWalkerStep h .clean) s = .next (s.whole fun _ => s.onHall h fun H =>
      if H.roundWords ≤ H.err.walk + 1 then { H with err := { H.err with walk := 0, rounds := inc16 H.err.rounds } }
      else { H with err := { H.err with walk := H.err.walk + 1 } })) ∧
  (∀ (s : State) (h : HallId) (f : ScrubFind), s.por = false → (s.hall h).err.scrubMode ≠ 1 →
    exec (.scrubWalkerStep h f) s = .next (s.whole fun _ => s)) ∧
  (∀ (s : State) (h : HallId) (p q : Pass) (r : List Pass) (a b c : Nat) (d : Bool), s.por = false → (s.hall h).dev.up = true →
    (s.hall h).err.passes = p :: q :: r →
    exec (.scrubPassEnd h a b c d) s = .next (s.whole fun _ => s.onHall h fun H =>
      { H with err := { H.err with
          passes := q :: r, passBusy := true, passGo := (q :: r).any fun x => x.host, sumRead := a % 2 ^ 32, sumCorr := min 0xFFFF b
          sumMark := min 0xFF c, sumCut := d } }))

/-- FAULT_PIN_HOLD_END releases an asserted pin where no unmasked cause is left, logged with a DEVICE event, and leaves it asserted while one is
(R541). WATCHDOG_EXPIRE resets a hall that runs with LAST_CAUSE 6 (R549). MR4_READ of a working channel of a trained memory outside self-refresh
records whether its code is the highest, counts it in MR4_HOT when it is, and lets the operating point follow (R333, R570). DQS_TRACKING counts a
pass (R331). (Rests on 16_integrity_and_faults (R541), 16_integrity_and_faults (R549), 10_memory_tiers (R331), 10_memory_tiers (R333),
17_power_states (R570).) -/
def Obligations.PinsTemperatureAndWatchdog : Prop :=
  (∀ (s : State) (h : HallId) (tb : Nat), s.por = false → (s.hall h).dev.up = true → (s.hall h).err.pin = true →
    ((s.hall h).asserting h.idx = false → exec (.faultPinHoldEnd h tb) s = .next (s.whole fun _ => s.setPin h false)) ∧
    ((s.hall h).asserting h.idx = true → exec (.faultPinHoldEnd h tb) s = .next (s.whole fun _ => s))) ∧
  (∀ (s : State) (h : HallId) (tb : Nat), s.por = false → (s.hall h).dev.up = true → (s.hall h).err.pin = true →
    (s.hall h).asserting h.idx = false → Gives (.faultPinHoldEnd h tb) s fun t => (t.hall h).err.pin = false) ∧
  (∀ (s : State) (h : HallId), s.por = false →
    ((s.hall h).dev.up = true → exec (.watchdogExpire h) s = .next (s.whole fun _ => s.hallReset h 6 true)) ∧
    ((s.hall h).dev.up = false → exec (.watchdogExpire h) s = .next (s.whole fun _ => s))) ∧
  (∀ (s : State) (h : HallId) (c : Nat) (hot : Bool), s.por = false → (s.hall h).dev.up = true → (s.hall h).mem.trained = true →
    (s.hall h).mem.selfRefresh = false → (s.hall h).mem.chanGood.getLsbD c = true →
    exec (.mr4Read h c hot) s = .next (s.whole fun _ => s.onHall h fun H =>
      ({ H with mem := { H.mem with
          mr4Hot := if hot then inc8 H.mem.mr4Hot else H.mem.mr4Hot
          hotChannels := if hot then H.mem.hotChannels ||| BitVec.ofNat 32 (2 ^ c) else H.mem.hotChannels &&& ~~~(BitVec.ofNat 32 (2 ^ c)) } } :
        Hall).opSettle)) ∧
  (∀ (s : State) (h : HallId), s.por = false → (s.hall h).dev.up = true → (s.hall h).mem.trained = true → (s.hall h).mem.selfRefresh = false →
    exec (.dqsTracking h) s = .next (s.whole fun _ => s.onHall h fun H => { H with mem := { H.mem with tracked := H.mem.tracked + 1 } }))

/-- For the memories of the block in their canonical form (addresses rising, none listed at the value that an unlisted byte reads as): a byte
written reads back, every other byte reads as before, the form is kept; and a memory in that form is determined by what its bytes read as. The form
and the value of an unlisted byte are the model's (log entry 2). (Rests on 10_memory_tiers (R325), 16_integrity_and_faults (R536).) -/
def Obligations.StoresReadBackWhatIsWritten : Prop :=
  ∀ (M N : Memory) (a b : Nat) (v : Byte), M.wf = true → N.wf = true →
    (M.put a v).get a = v ∧ (b ≠ a → (M.put a v).get b = M.get b) ∧ (M.put a v).wf = true ∧ ((∀ i, M.get i = N.get i) → M = N)

/-- With a sweep of a domain running, REENCRYPT_STEP takes the next frame of its list: one of the domain whose home is valid under the old epoch,
and which may be rewritten now, takes the current epoch, and one that may not is put aside; with no frame left it rewrites one more line of the
extent; with frames put aside it takes them up again; with nothing left the old epoch's number is erased, ROTATIONS counts and the next queued sweep
starts (R511). With no sweep, or while the DRAM is in self-refresh (R558), it does nothing. (Rests on 15_tenancy_and_keys (R511),
15_tenancy_and_keys (R508), 17_power_states (R558).) -/
def Obligations.ReencryptionSweepSteps : Prop :=
  (∀ (s : State) (h : HallId), s.por = false → (s.hall h).sec.sweeps = [] ∨ (s.hall h).mem.selfRefresh = true → exec (.reencryptStep h) s = .next (s.whole fun _ => s)) ∧
  (∀ (s : State) (h : HallId) (d n : Nat) (rest r : List Nat) (x : Dom) (f : Frame), s.por = false → (s.hall h).dev.up = true → (s.hall h).mem.selfRefresh = false →
    (s.hall h).sec.sweeps = d :: rest → (s.hall h).sec.sweepFrames = n :: r → (s.hall h).dom d = some x → (s.hall h).frame n = some f →
    f.dom = d → f.homeValid = true → f.epoch ≠ x.current →
    exec (.reencryptStep h) s = .next (s.whole fun _ => s.onHall h fun H =>
      if f.rewritable then
        (({ H with sec := { H.sec with sweepFrames := r } } : Hall).onFrame n fun f => { f with epoch := x.current }).count 1673
          (frameSize f.size / 256)
      else { H with sec := { H.sec with sweepFrames := r, sweepSkipped := H.sec.sweepSkipped ++ [n] } })) ∧
  (∀ (s : State) (h : HallId) (d : Nat) (rest : List Nat) (im : Image) (t : TenantEntry), s.por = false → (s.hall h).dev.up = true → (s.hall h).mem.selfRefresh = false →
    (s.hall h).sec.sweeps = d :: rest → (s.hall h).sec.sweepFrames = [] → (s.hall h).image = some im → im.tenant d = some t →
    (s.hall h).sec.cursor < (t.extent h.idx).2 * 256 →
    exec (.reencryptStep h) s = .next (s.whole fun _ => s.onHall h fun H =>
      ({ H with sec := { H.sec with cursor := H.sec.cursor + 1 } } : Hall).count 1673 1)) ∧
  (∀ (s : State) (h : HallId) (d : Nat) (rest : List Nat) (x : Dom), s.por = false → (s.hall h).dev.up = true → (s.hall h).mem.selfRefresh = false →
    (s.hall h).sec.sweeps = d :: rest → (s.hall h).sec.sweepFrames = [] → (s.hall h).image = none → (s.hall h).sec.sweepSkipped = [] →
    (s.hall h).oldFrames d = [] → (s.hall h).dom d = some x →
    exec (.reencryptStep h) s = .next (s.whole fun _ =>
      (s.setEpoch (if x.current = 0 then { s.epoch h.idx d with e1 := none } else { s.epoch h.idx d with e0 := none })).onHall h fun H =>
        ({ H with sec := { H.sec with sweeps := rest, rotations := inc8 H.sec.rotations } } : Hall).startSweep))

/-- EPHEMERAL_KEY_EXPIRE erases the ephemeral key of a report and no other (R496). TRNG_HEALTH_FAIL and TRNG_HEALTH_PASS clear and set
SEC_STATUS.TRNG_OK and nothing else (R490). SESSION_SCRUB_DONE of a session that is being released takes it, its contexts' bytes and its contexts
out of the hall (R514); DOMAIN_RELEASE_DONE completes the domain's release (R515); either is answered to the capsules that wait for it. A scrub or
release that is not in progress has no effect on the hall. (Rests on 15_tenancy_and_keys (R496), 15_tenancy_and_keys (R490), 15_tenancy_and_keys
(R514), 15_tenancy_and_keys (R515).) -/
def Obligations.KeysAndScrubsEnd : Prop :=
  (∀ (s : State) (h : HallId) (n : Nat), s.por = false → (s.hall h).dev.up = true →
    exec (.ephemeralKeyExpire h n) s = .next (s.whole fun _ => s.onHall h fun H =>
      { H with sec := { H.sec with ephs := H.sec.ephs.filter fun e => e.report != n } }) ∧
    exec (.trngHealthFail h) s = .next (s.whole fun _ => s.onHall h fun H => { H with sec := { H.sec with trngOk := false } }) ∧
    exec (.trngHealthPass h) s = .next (s.whole fun _ => s.onHall h fun H => { H with sec := { H.sec with trngOk := true } })) ∧
  (∀ (s : State) (h : HallId) (n : Nat) (e : Session), s.por = false → (s.hall h).dev.up = true →
    ((s.hall h).sec.sessions.find? fun e => e.num == n && e.releasing) = some e →
    exec (.sessionScrubDone h n) s = .next (s.whole fun _ => (s.scrubDone h n).flightEntry)) ∧
  (∀ (H : Hall) (n : Nat), ((H.ctxs.filter fun x => x.session == some n).foldl (fun (H : Hall) x => H.scrubFootprint x) H).sec = H.sec) ∧
  (∀ (s : State) (h : HallId) (n : Nat), s.por = false → ((s.hall h).sec.sessions.find? fun e => e.num == n && e.releasing) = none →
    exec (.sessionScrubDone h n) s = .next (s.whole fun _ => s.flightEntry)) ∧
  (∀ (s : State) (h : HallId) (d : Nat) (x : Dom), s.por = false → (s.hall h).dev.up = true → (s.hall h).dom d = some x → x.releasing = true →
    exec (.domainReleaseDone h d) s = .next (s.whole fun _ => s.domainDone h d))

/-- A host port that is up and has a dynamic address answers GETPID with six bytes, most significant first, whose fields are the manufacturer 0x2C5,
a zero bit 32, the part 0x2960, the host port's number and the stepping 0xB1 with [11:8] zero; GETBCR with 0x26, in which role and limits are those
of R446; GETDCR with 0x00. ENTDAA of a port without a dynamic address takes part with the same eight bytes. (States 14_host_ports (R446).) -/
def Obligations.EveryPortReportsItsIdentity : Prop :=
  ∀ (s : State) (p : Nat), s.por = false → s.portUp p = true →
    ∃ id : List Byte, id.length = 6 ∧ (let n := id.foldl (fun a b => 256 * a + b.toNat) 0
      n / 2 ^ 33 = 0x2C5 ∧ n / 2 ^ 32 % 2 = 0 ∧ n / 2 ^ 16 % 2 ^ 16 = 0x2960 ∧ n / 2 ^ 12 % 16 = p ∧ n / 2 ^ 8 % 16 = 0 ∧ n % 2 ^ 8 = 0xB1) ∧
      ((s.port p).dyn ≠ 0 →
        exec (.getpid p) s = .next (s.whole fun _ => s.onPort p fun P => { P with reply := some id }) ∧
        exec (.getbcr p) s = .next (s.whole fun _ => s.onPort p fun P => { P with reply := some [0x26#8] }) ∧
        exec (.getdcr p) s = .next (s.whole fun _ => s.onPort p fun P => { P with reply := some [0x00#8] })) ∧
      ((s.port p).dyn = 0 → ∀ addr, exec (.entdaa p addr) s = .next (s.whole fun _ => s.onPort p fun P =>
        { P with dyn := addr, reply := some (id ++ [0x26#8, 0x00#8]) }))

/-- At a host port that is up: SETDASA at its static address 0x50 + p gives a port without a dynamic address the one named; RSTDAA drops it; ENEC
and DISEC set and clear the event enable by bit 0 alone; SETMWL, SETMRL hold the length in 16 to 4,112 and the IBI size in 0 to 31; GETMWL, GETMRL
return them; ENTHDR0 and the exit pattern enter and leave HDR-DDR; GETSTATUS returns its word and clears the protocol-error bit; RSTACT's read form
returns 1 for action 0x01 and 100 for 0x02. RSTACT action 0x01 discards what the port holds, keeps its address and draws a challenge; action 0x02
resets the hall of a port that holds SAFETY with cause 7, and acts as 0x01 elsewhere. (Rests on 14_host_ports (R445), 14_host_ports (R447),
14_host_ports (R448), 15_tenancy_and_keys (R493).) -/
def Obligations.CommonCommandCodes : Prop :=
  (∀ (s : State) (p : Nat), s.por = false → s.portUp p = true →
    (∀ (addr : BitVec 7), (s.port p).dyn = 0 → exec (.setdasa p (BitVec.ofNat 7 (0x50 + p)) addr) s =
      .next (s.whole fun _ => s.onPort p fun P => { P with dyn := addr, reply := some [] })) ∧
    (∀ (st addr : BitVec 7), st ≠ BitVec.ofNat 7 (0x50 + p) → exec (.setdasa p st addr) s =
      .next (s.whole fun _ => s.onPort p fun P => { P with reply := none })) ∧
    exec (.rstdaa p) s = .next (s.whole fun _ => s.onPort p fun P => { P with dyn := 0 }) ∧
    (∀ e : Byte,
      exec (.enec p e) s = .next (s.whole fun _ => s.onPort p fun P => { P with enint := P.enint || e.getLsbD 0 }) ∧
      exec (.disec p e) s = .next (s.whole fun _ => s.onPort p fun P => { P with enint := P.enint && !e.getLsbD 0 })) ∧
    (∀ n i : Nat,
      exec (.setmwl p n) s = .next (s.whole fun _ => s.onPort p fun P => { P with mwl := max 16 (min 4112 n) }) ∧
      exec (.setmrl p n i) s = .next (s.whole fun _ => s.onPort p fun P => { P with mrl := max 16 (min 4112 n), ibiSize := min 31 i })) ∧
    exec (.enthdr0 p) s = .next (s.whole fun _ => s.onPort p fun P => { P with hdr := true }) ∧
    exec (.hdrExit p) s = .next (s.whole fun _ => s.onPort p fun P => { P with hdr := false }) ∧
    exec (.rstactPortReset p) s = .next (s.whole fun _ => (s.onPort p Port.resetPort).newChallenge p) ∧
    (((s.hall (portHall p)).hasRight p 7 = true) → exec (.rstactHallReset p) s = .next (s.whole fun _ => s.resetFor (portHall p) 7)) ∧
    (((s.hall (portHall p)).hasRight p 7 = false) → exec (.rstactHallReset p) s = .next (s.whole fun _ => (s.onPort p Port.resetPort).newChallenge p)) ∧
    ((s.port p).dyn ≠ 0 →
      exec (.getmwl p) s = .next (s.whole fun _ => s.onPort p fun P => { P with reply := some (beBytes 2 P.mwl) }) ∧
      exec (.getmrl p) s = .next (s.whole fun _ => s.onPort p fun P => { P with reply := some (beBytes 2 P.mrl ++ leBytes 1 P.ibiSize) }) ∧
      exec (.rstactRead p 1) s = .next (s.whole fun _ => s.onPort p fun P => { P with reply := some [1] }) ∧
      exec (.rstactRead p 2) s = .next (s.whole fun _ => s.onPort p fun P => { P with reply := some [100] }) ∧
      exec (.getstatus p) s = .next (s.whole fun _ => s.onPort p fun P =>
        { P with
          protoErr := false
          reply := some (beBytes 2 (min 15 (P.events.filter fun (e : Event) => !e.raised).length + 32 * b2n P.protoErr
            + 256 * b2n (s.hall (portHall p)).image.isSome + 512 * b2n ((s.hall (portHall p)).stair.mode == .partnerLost) + 1024 * b2n (s.hall (portHall p)).err.pin)) }))) ∧
  (∀ P : Port, P.resetPort.queue = [] ∧ P.resetPort.waits = [] ∧ P.resetPort.resps = [] ∧ P.resetPort.events = [] ∧ P.resetPort.partialBytes = [] ∧
    P.resetPort.armed = [] ∧ P.resetPort.mwl = 4112 ∧ P.resetPort.mrl = 4112 ∧ P.resetPort.ibiSize = 31 ∧ P.resetPort.dyn = P.dyn)

/-- With b the port's budget at timebase tb (a capsule costs 50,000 and at most 64 are saved): a private write to a port with 8 capsules outstanding
or no budget is not acknowledged and counts in FLOOD_NACKS; one that leaves the capsule incomplete joins its bytes; one that completes a sound
capsule puts it last in the port's queue; one that completes a broken capsule answers it with the status. A partial capsule left idle is answered
BAD_LENGTH; a write with a bus error counts, and the next transfer is not acknowledged; a private read takes at most MRL bytes of the oldest
response and ends it with its last byte; an IBI slot raises the oldest event not raised; a forwarded capsule without an answer ends in PARTNER. The
budget's form is the model's reading of R455. (Rests on 14_host_ports (R449), 14_host_ports (R452), 14_host_ports (R453), 14_host_ports (R455),
14_host_ports (R456), 14_host_ports (R467), 14_host_ports (R468), 14_host_ports (R482).) -/
def Obligations.PrivateTransfersCarryCapsules : Prop :=
  (∀ (s : State) (p tb : Nat) (bytes : List Byte), s.por = false → s.portUp p = true → (s.port p).dyn ≠ 0 → (s.port p).nackNext = false →
    let b := min 3200000 ((s.port p).budget + (tb - (s.port p).budgetTb))
    let bt := max tb (s.port p).budgetTb
    let bs := (s.port p).partialBytes ++ bytes
    (8 ≤ (s.port p).outstanding ∨ b < 50000 → exec (.privateWrite p bytes tb) s = .next (s.whole fun _ =>
      (s.count (portHall p) (1666 + portIdx p) 1).onPort p fun P =>
        { P with budget := b, budgetTb := bt, reply := none, floods := inc16 P.floods })) ∧
    ((s.port p).outstanding < 8 → 50000 ≤ b →
      (capsuleStatus bs = none → exec (.privateWrite p bytes tb) s = .next (s.whole fun _ => s.onPort p fun P =>
        { P with budget := b, budgetTb := bt, reply := some [], partialBytes := bs })) ∧
      (capsuleStatus bs = some 0 → exec (.privateWrite p bytes tb) s = .next (s.whole fun _ => s.onPort p fun P =>
        { P with
          budget := b - 50000, budgetTb := bt, reply := some [], partialBytes := []
          queue := P.queue ++ [{ opcode := fld bs 0 1, tag := fld bs 2 2, session := fld bs 8 4, payload := bs.drop 16 }] })) ∧
      (∀ st, st ≠ 0 → capsuleStatus bs = some st → exec (.privateWrite p bytes tb) s = .next (s.whole fun _ =>
        (s.onPort p fun P => { P with budget := b - 50000, budgetTb := bt, reply := some [], partialBytes := [] }).respond p
          (fld bs 0 1) (fld bs 2 2) (fld bs 8 4) st (leBytes 4 0))))) ∧
  (∀ bs : List Byte, (bs.length < 16 → capsuleStatus bs = none) ∧
    (16 ≤ bs.length → fld bs 4 2 ≤ 4096 → bs.length < 16 + fld bs 4 2 → capsuleStatus bs = none) ∧
    (16 ≤ bs.length → fld bs 4 2 ≤ 4096 → 16 + fld bs 4 2 ≤ bs.length → capsuleCrcOk bs = false → capsuleStatus bs = some 1) ∧
    (capsuleStatus bs = some 0 → bs.length = 16 + fld bs 4 2 ∧ fld bs 4 2 ≤ 4096 ∧ capsuleCrcOk bs = true ∧ headerBad bs = false)) ∧
  (∀ (s : State) (p : Nat), s.por = false → s.portUp p = true → (s.port p).partialBytes ≠ [] →
    let bs := (s.port p).partialBytes
    exec (.capsuleTimeout p) s = .next (s.whole fun _ => (s.onPort p fun P => { P with partialBytes := [] }).respond p
      (fld bs 0 1) (fld bs 2 2) (fld bs 8 4) 3 (leBytes 4 0))) ∧
  (∀ (s : State) (p : Nat) (c : Bool), s.por = false → s.portUp p = true → (s.port p).dyn ≠ 0 →
    exec (.i3cParityError p c) s = .next (s.whole fun _ => (s.onPort p fun P =>
      { P with
        nackNext := true, protoErr := true
        parity := if c then P.parity else inc8 P.parity
        crc := if c then inc8 P.crc else P.crc }).logPort (portHall p) p 0x01FF (portIdx p) (4 + 0x10 * portIdx p))) ∧
  (∀ (s : State) (p n : Nat) (r : Response) (rest : List Response), s.por = false → s.portUp p = true → (s.port p).dyn ≠ 0 →
    (s.port p).nackNext = false → (s.port p).resps = r :: rest →
    let got := (r.bytes.drop r.read).take (min n (s.port p).mrl)
    (r.read + got.length < r.bytes.length → exec (.responseRead p n) s = .next (s.whole fun _ => s.onPort p fun P =>
      { P with reply := some got, resps := { r with read := r.read + got.length } :: rest })) ∧
    (r.bytes.length ≤ r.read + got.length → exec (.responseRead p n) s = .next (s.whole fun _ =>
      (s.count (portHall p) (1664 + portIdx p) 1).onPort p fun P =>
        { P with reply := some got, resps := rest, answered := inc32 P.answered }))) ∧
  (∀ (s : State) (p n : Nat), s.por = false → s.portUp p = true → (s.port p).resps = [] → (s.port p).nackNext = false →
    exec (.responseRead p n) s = .next (s.whole fun _ => s.onPort p fun P => { P with reply := none })) ∧
  (∀ (s : State) (p : Nat) (e : Event), s.por = false → s.portUp p = true → (s.port p).dyn ≠ 0 → (s.port p).enint = true →
    (s.port p).events.find? (fun (e : Event) => !e.raised) = some e →
    exec (.ibiSlot p) s = .next (s.whole fun _ => (s.count (portHall p) 1668 1).onPort p fun P =>
      { P with events := raiseFirst P.events, reply := some (leBytes 1 e.mand ++ e.payload.take P.ibiSize) })) ∧
  (∀ (s : State) (p op tag ses : Nat), s.por = false → p < 4 →
    (s.port p).waits.find? (fun w => match w with | .far _ t _ => t == tag | _ => false) = some (.far op tag ses) →
    exec (.capsuleForwardTimeout p tag) s = .next (s.whole fun _ =>
      (s.dropWait p fun w => w == .far op tag ses).respond p op tag ses 0xC (leBytes 4 0)))

/-- For a capsule first in its port's queue. BIND of a session whose tenant lists the port, with a sound proof (or from a tenant that needs none),
takes the lowest free number in each hall of its partition, answers with it and draws a new challenge. BIND of a stream that its rules accept is
answered OK; BIND of a feed ring places the ring with block counter 0. UNBIND of a session starts its release in each hall that holds it and is
answered when the scrub is over; UNBIND of a stream or ring takes it out and is answered OK. (Rests on 14_host_ports (R459), 14_host_ports (R460),
14_host_ports (R461), 14_host_ports (R462), 15_tenancy_and_keys (R492), 15_tenancy_and_keys (R493), 15_tenancy_and_keys (R514).) -/
def Obligations.BindAndUnbind : Prop :=
  (∀ (s u : State) (p : Nat) (c : Capsule) (rest : List Capsule) (n : Nat) (im : Image) (t : TenantEntry) (pe : PartEntry), s.Heads p c rest 1 (some 0) → s.taken p rest = u →
    8 ≤ c.payload.length → (fld c.payload 4 4 = 0 ∨ fld c.payload 4 4 = 192 ∧ 200 ≤ c.payload.length) →
    (u.hall (portHall p)).image = some im → im.tenant (fld c.payload 2 2) = some t → bit t.ports p = true → (u.hall (portHall p)).hasRight p 0 = true →
    (u.hall (portHall p)).freeSession (portHall p).idx = some n → u.bindDomainBad (portHall p) p (fld c.payload 1 1) (fld c.payload 2 2) t = false →
    (bit t.tflags 0 = true ∨ fld c.payload 4 4 = 192 ∧ sha384 (slice c.payload 8 96) = t.ownerHash ∧
      ecdsaOk (slice c.payload 8 96) (sha384 (u.bindMessage p (fld c.payload 1 1) (fld c.payload 2 2))) (slice c.payload 104 96) = true) →
    (u.hall (portHall p)).sec.trngOk = true → (∀ x : Dom, (u.hall (portHall p)).dom (fld c.payload 2 2) = some x → x.releasing = false) →
    (u.hall (portHall p)).partEntry (fld c.payload 1 1) = some pe →
    exec (.bindSession p) s = .next (s.whole fun _ => ((u.bindHalls (portHall p) pe).foldl (fun (s : State) k => s.onHall k fun H => { H with sec := { H.sec with sessions :=
        H.sec.sessions ++ [⟨n, p, fld c.payload 1 1, fld c.payload 2 2, none, false⟩] } }) (u.newChallenge p)).respond p 1 c.tag c.session 0 (leBytes 4 n))) ∧
  (∀ (s u v : State) (p : Nat) (c : Capsule) (rest : List Capsule), s.Heads p c rest 1 (some 1) → s.taken p rest = u →
    u.bindStream (portHall p) p c = (v, .ok []) → (v.hall (portHall p)).serves = true →
    exec (.bindStream p) s = .next (s.whole fun _ => v.respond p 1 c.tag c.session 0 [])) ∧
  (∀ (s u : State) (p : Nat) (c : Capsule) (rest : List Capsule) (e : Session) (k : KeySlot) (pe : PartEntry), s.Heads p c rest 1 (some 1) → s.taken p rest = u →
    u.Named p c e 2 → (u.hall (portHall p)).hasPart p e.part = true → 44 ≤ c.payload.length → (∀ b ∈ u.streamBad (portHall p) (some e) c.payload, b.1 = false) →
    (u.hall (portHall p)).partEntry e.part = some pe →
    (∀ k ∈ u.bindHalls (portHall p) pe, (u.hall k).streamFull c.payload k (bit pe.classes 0) = false ∧ (u.hall k).portsOff = false ∧
      (fld c.payload 1 1 = 1 → (u.hall k).galOff (fld c.payload 29 1) = false)) →
    (u.hall (HallId.ofIdx (fld c.payload 8 4 / 2 ^ 31))).keyFor (HallId.ofIdx (fld c.payload 8 4 / 2 ^ 31)).idx (fld c.payload 8 4) e.num 1 = some k →
    k.bound = false → ((u.addStream (portHall p) c e k (u.bindHalls (portHall p) pe)).hall (portHall p)).serves = true →
    exec (.bindStream p) s = .next (s.whole fun _ => (u.addStream (portHall p) c e k (u.bindHalls (portHall p) pe)).respond p 1 c.tag c.session 0 [])) ∧
  (∀ (s u : State) (p : Nat) (c : Capsule) (rest : List Capsule) (e : Session) (b : HostFeedBody), s.Heads p c rest 1 (some 2) → s.taken p rest = u →
    u.Named p c e 8 → 20 ≤ c.payload.length →
    (u.hall (portHall p)).feedNamed (portHall p) (fld c.payload 2 2) = some (portHall p, b) → b.host = p →
    (∀ q, (u.hall (portHall p)).partEntry e.part = some q → q.hallIds.contains (portHall p) = true) → fld c.payload 4 2 ≤ 4095 →
    (u.hall (portHall p)).ringBad (some e.part) (fld c.payload 1 1) (fld c.payload 6 1) (fld c.payload 8 4) (fld c.payload 12 4) 1 6 8 12 =
      [badAt 1 false, badAt 6 false, badAt 8 false, badAt 12 false] →
    localCell (fld c.payload 1 1) (fld c.payload 16 2) = true → (u.hall (portHall p)).portsOff = false → (u.hall (portHall p)).galOff (fld c.payload 1 1) = false →
    (u.hall (portHall p)).rings.any (fun (r : FeedRing) => r.feedId == fld c.payload 2 2 && r.channel == fld c.payload 4 2) = false →
    exec (.bindFeedRing p) s = .next (s.whole fun _ => (u.onHall (portHall p) fun H => { H with rings := H.rings ++ [{
        session := e.num, feedId := fld c.payload 2 2, channel := fld c.payload 4 2, gallery := fld c.payload 1 1, blocks := fld c.payload 6 1
        addr := fld c.payload 8 4, blockBytes := fld c.payload 12 4, cell := fld c.payload 16 2, n := 0 }] }).respond p 1 c.tag c.session 0 [])) ∧
  (∀ (s u : State) (p : Nat) (c : Capsule) (rest : List Capsule) (e : Session), s.Heads p c rest 2 (some 0) → s.taken p rest = u →
    u.Named p c e 0 → 1 ≤ c.payload.length → (u.hall (portHall p)).unlisted p (some e) = false → e.flight = none →
    (∀ v, [HallId.a, .b].foldl (fun (s : State) k => if ((s.hall k).session e.num).isSome then s.startRelease k e.num else s) u = v →
      (v.hall (portHall p)).serves = true) →
    exec (.unbindSession p) s = .next (s.whole fun _ => ([HallId.a, .b].foldl (fun (s : State) k => if ((s.hall k).session e.num).isSome then s.startRelease k e.num else s) u).onPort p
        fun P => { P with waits := P.waits ++ [.scrub c.tag e.num e.dom] })) ∧
  (∀ (s u : State) (p : Nat) (c : Capsule) (rest : List Capsule) (e : Session), s.Heads p c rest 2 (some 1) → s.taken p rest = u →
    u.Named p c e 2 → (u.hall (portHall p)).hasPart p e.part = true → 3 ≤ c.payload.length → fld c.payload 2 1 ≤ 63 →
    (u.hall (portHall p)).streams.any (fun (x : TxStream) => x.num == fld c.payload 2 1 && x.session == e.num && !x.closing) = true →
    exec (.unbindStream p) s = .next (s.whole fun _ => ([HallId.a, .b].foldl (fun (s : State) k => s.onHall k fun H =>
        match H.stream (fld c.payload 2 1) with
        | some x => if x.session = e.num then H.unbindStream k.idx (fld c.payload 2 1) else H
        | none => H) u).respond p 2 c.tag c.session 0 [])) ∧
  (∀ (s u : State) (p : Nat) (c : Capsule) (rest : List Capsule) (e : Session) (b : HostFeedBody), s.Heads p c rest 2 (some 2) → s.taken p rest = u →
    u.Named p c e 8 → 6 ≤ c.payload.length → (u.hall (portHall p)).feedNamed (portHall p) (fld c.payload 2 2) = some (portHall p, b) → b.host = p →
    fld c.payload 4 2 ≤ 4095 →
    (u.hall (portHall p)).rings.any (fun (r : FeedRing) => r.feedId == fld c.payload 2 2 && r.channel == fld c.payload 4 2 && r.session == e.num) = true →
    exec (.unbindFeedRing p) s = .next (s.whole fun _ => (u.onHall (portHall p) fun H => H.unbindRing (portHall p).idx (fld c.payload 2 2) (fld c.payload 4 2)).respond p 2 c.tag c.session 0 [])) ∧
  (∀ (H : Hall) (h n : Nat), H.freeSession h = some n → (∀ e ∈ H.sec.sessions, e.num ≠ n) ∧
    (if h = 0 then n < 131072 else 131072 ≤ n ∧ n < 262141))

/-- For a capsule first in its port's queue that names a session bound through the port, whose partition the port holds. SUBMIT CREATE of a
descriptor that R301 accepts inserts the new context on the core found for it and answers its handle and core; RESUME sends a faulted context on
from FROM; CANCEL ends a live context and its commands; QUERY ACCOUNT, COMPLETIONS, STREAM, EVENTS and PORT answer with what R465 lists and change
nothing, but that EVENTS takes the events that it returns. That RESUME sets the horizon to FROM at least is the model's (its log entry is named in
NOTES.md). (Rests on 14_host_ports (R463), 14_host_ports (R464), 14_host_ports (R465), 09_commands_and_contexts (R318), 09_commands_and_contexts
(R301), 15_tenancy_and_keys (R516).) -/
def Obligations.SubmitCancelAndQuery : Prop :=
  (∀ (s u : State) (p : Nat) (c : Capsule) (rest : List Capsule) (e : Session) (pe : PartEntry) (d : List Byte) (n core home : Nat) (x : Ctx), s.Heads p c rest 3 (some 0) → s.taken p rest = u →
    u.Named p c e 1 → (u.hall (portHall p)).hasPart p e.part = true → 72 ≤ c.payload.length → fld c.payload 1 1 = (portHall p).idx →
    (u.hall (portHall p)).partEntry e.part = some pe → slice c.payload 8 64 = d → (fld d 0 1 = 2 ∨ fld d 0 1 = 3) → bit pe.classes (fld d 0 1) = true →
    (u.hall (portHall p)).newNumber = some n → fld d 1 1 < 8 → (u.hall (portHall p)).descOk e.part (fld d 1 1) d = true → ((u.hall (portHall p)).gal (fld d 1 1)).partition = some e.part →
    bits (fld d 4 4) 0 18 = e.num →
    ({ Ctx.fresh n (fld d 0 1) e.part e.dom (CtxDesc.ofBytes d) 0 with session := some e.num } : Ctx) = x →
    (u.hall (portHall p)).galOff (fld d 1 1) = false → (bit (fld d 8 4) 31 = true → (u.hall (portHall p)).portsOff = false) →
    (u.hall (portHall p)).placeNew (portHall p).idx x (fld d 1 1) (fld d 2 1) = some (core, home) →
    (∀ v, u.onHall (portHall p) (fun H => (((H.insertCtx { x with core := core, home := home, moved := decide (core ≠ home), fetching := true }).settleCtx
      (portHall p).idx n).settle (portHall p).idx)) = v → (v.hall (portHall p)).serves = true) →
    exec (.submitCreate p) s = .next (s.whole fun _ => (u.onHall (portHall p) fun H => ((H.insertCtx { x with core := core, home := home, moved := decide (core ≠ home), fetching := true }).settleCtx
        (portHall p).idx n).settle (portHall p).idx).respond p 3 c.tag c.session 0 (leBytes 2 (ctxHandle (portHall p).idx n) ++ leBytes 1 core))) ∧
  (∀ (s u : State) (p : Nat) (c : Capsule) (rest : List Capsule) (e : Session) (x : Ctx) (f : Nat), s.Heads p c rest 3 (some 1) → s.taken p rest = u →
    u.Named p c e 1 → (u.hall (portHall p)).hasPart p e.part = true → 8 ≤ c.payload.length → fld c.payload 1 1 = (portHall p).idx →
    (u.hall (portHall p)).handleCtx (portHall p).idx (fld c.payload 2 2) e.num = some x → bit (fld c.payload 2 2) 15 = false → fld c.payload 2 2 / 16384 % 2 = (portHall p).idx → x.st = .faulted → x.faultPos ≤ fld c.payload 4 4 → fld c.payload 4 4 < x.desc.streamLen → fld c.payload 4 4 = f →
    (∀ v, u.onHall (portHall p) (fun H => ((H.onCtx x.num fun y => { y with
        st := if y.rslot.isSome then .resident else .waiting, fetching := true, fetch := f, horizon := max f y.horizon
        doneMask := y.doneMask.filter fun i => decide (f ≤ i) }).settleCtx (portHall p).idx x.num).settle (portHall p).idx) = v →
      (v.hall (portHall p)).serves = true) →
    exec (.submitResume p) s = .next (s.whole fun _ => (u.onHall (portHall p) fun H => ((H.onCtx x.num fun y => { y with
        st := if y.rslot.isSome then .resident else .waiting, fetching := true, fetch := f, horizon := max f y.horizon
        doneMask := y.doneMask.filter fun i => decide (f ≤ i) }).settleCtx (portHall p).idx x.num).settle (portHall p).idx).respond p 3 c.tag c.session 0 [])) ∧
  (∀ (s u : State) (p : Nat) (c : Capsule) (rest : List Capsule) (e : Session) (x : Ctx), s.Heads p c rest 4 none → s.taken p rest = u →
    u.Named p c e 1 → (u.hall (portHall p)).hasPart p e.part = true → 2 ≤ c.payload.length → (u.hall (portHall p)).handleCtx (portHall p).idx (fld c.payload 0 2) e.num = some x → bit (fld c.payload 0 2) 15 = false → fld c.payload 0 2 / 16384 % 2 = (portHall p).idx →
    x.alive = true → ((u.cancelCtx (portHall p) x).hall (portHall p)).serves = true →
    exec (.cancel p) s = .next (s.whole fun _ => (u.cancelCtx (portHall p) x).respond p 4 c.tag c.session 0 [])) ∧
  (∀ (s u : State) (p : Nat) (c : Capsule) (rest : List Capsule) (e : Session) (x : Ctx), s.Heads p c rest 5 (some 0) → s.taken p rest = u →
    u.Named p c e 1 → (u.hall (portHall p)).hasPart p e.part = true → 4 ≤ c.payload.length → (u.hall (portHall p)).handleCtx (portHall p).idx (fld c.payload 2 2) e.num = some x → bit (fld c.payload 2 2) 15 = false → fld c.payload 2 2 / 16384 % 2 = (portHall p).idx →
    exec (.queryAccount p) s = .next (s.whole fun _ => (u).respond p 5 c.tag c.session 0 x.account)) ∧
  (∀ (s u : State) (p : Nat) (c : Capsule) (rest : List Capsule) (e : Session) (x : Ctx), s.Heads p c rest 5 (some 1) → s.taken p rest = u →
    u.Named p c e 1 → (u.hall (portHall p)).hasPart p e.part = true → 8 ≤ c.payload.length → (u.hall (portHall p)).handleCtx (portHall p).idx (fld c.payload 2 2) e.num = some x → bit (fld c.payload 2 2) 15 = false → fld c.payload 2 2 / 16384 % 2 = (portHall p).idx →
    1 ≤ fld c.payload 6 2 → fld c.payload 6 2 ≤ 64 → (u.hall (portHall p)).galOff x.desc.gallery = false →
    exec (.queryCompletions p) s = .next (s.whole fun _ => (u).respond p 5 c.tag c.session 0 ((List.range (fld c.payload 6 2)).flatMap fun i => ((u.hall (portHall p)).gal x.desc.gallery).store.read
        (x.desc.complAddr + 16 * ((fld c.payload 4 2 + i) % 65536 % max 1 x.desc.complCount)) 16))) ∧
  (∀ (s u : State) (p : Nat) (c : Capsule) (rest : List Capsule) (e : Session) (x : TxStream), s.Heads p c rest 5 (some 2) → s.taken p rest = u →
    u.Named p c e 2 → (u.hall (portHall p)).hasPart p e.part = true → 3 ≤ c.payload.length → fld c.payload 1 1 = (portHall p).idx →
    fld c.payload 2 1 ≤ 63 → (u.hall (portHall p)).stream (fld c.payload 2 1) = some x → x.session = e.num → x.closing = false →
    exec (.queryStream p) s = .next (s.whole fun _ => (u).respond p 5 c.tag c.session 0 (leBytes 4 (min x.rseq 0xFFFFFFFF) ++ leBytes 4 (x.shown.1 / 4096 * 4096) ++ leBytes 4 (x.shown.2.1 / 4096 * 4096)
        ++ leBytes 4 (x.shown.2.2 / 4096 * 4096)))) ∧
  (∀ (s u : State) (p : Nat) (c : Capsule) (rest : List Capsule), s.Heads p c rest 5 (some 3) → s.taken p rest = u →
    (u.hall (portHall p)).image.isSome = true → 2 ≤ c.payload.length → 1 ≤ fld c.payload 1 1 → fld c.payload 1 1 ≤ 64 →
    exec (.queryEvents p) s = .next (s.whole fun _ => (u.onPort p fun P => { P with events := P.events.drop (fld c.payload 1 1) }).respond p 5 c.tag c.session 0 ((((u.port p).events.take (fld c.payload 1 1)).map Event.bytes).flatten))) ∧
  (∀ (s u : State) (p : Nat) (c : Capsule) (rest : List Capsule) (r : RightsEntry), s.Heads p c rest 5 (some 4) → s.taken p rest = u →
    (u.hall (portHall p)).image.isSome = true → (u.hall (portHall p)).rightsEntry p = some r →
    exec (.queryPort p) s = .next (s.whole fun _ => (u).respond p 5 c.tag c.session 0 (leBytes 4 r.rights ++ leBytes 4 r.parts ++ leBytes 4 ((u.port p).outstanding + 1) ++ leBytes 4 (u.port p).events.length)))

/-- For a capsule first in its port's queue that its rules accept: ATTEST answers a report with a signature and the hall's certificate chain, and
the report number counts; KEYWRAP places a key that unwraps, rotates the domain's epoch, or erases a key; LOADMODEL LOAD opens a load that is
answered when its part is taken, UNLOAD drops a model that nothing names; MODEL_PART_DONE takes a part, and a part that breaks its format is refused
MODEL_FORMAT; REGRD and REGWR perform their words in ascending address. Each is answered OK with its payload. (Rests on 14_host_ports (R458),
14_host_ports (R466), 15_tenancy_and_keys (R494), 15_tenancy_and_keys (R495), 15_tenancy_and_keys (R498), 15_tenancy_and_keys (R499),
15_tenancy_and_keys (R500), 15_tenancy_and_keys (R504), 15_tenancy_and_keys (R510), 19_registers (R591).) -/
def Obligations.KeysModelsAndRegisterCapsules : Prop :=
  (∀ (s u : State) (p : Nat) (c : Capsule) (rest : List Capsule) (e : Session) (v : State) (r : List Byte), s.Heads p c rest 6 none → s.taken p rest = u →
    u.Named p c e 9 → 64 ≤ c.payload.length → fld c.payload 48 1 = 0 → fld c.payload 49 1 = (portHall p).idx → fld c.payload 50 2 = 0xFFFF →
    u.attest (portHall p) e 0 0xFFFF (c.payload.take 48) = (v, .ok r) →
    exec (.attest p) s = .next (s.whole fun _ => v.respond p 6 c.tag c.session 0 r)) ∧
  (∀ (u : State) (h : HallId) (e : Session) (m : Nat) (nonce : List Byte), ∃ sig : List Byte,
    let body := u.reportBytes h e 0 m nonce []
    u.attest h e 0 m nonce = (({ u with free := u.free + 1 } : State).onHall h fun H => { H with sec := { H.sec with report := (H.sec.report + 1) % 2 ^ 32 } },
      .ok (body ++ sig ++ leBytes 2 (u.hall h).keyArray.cert.length ++ leBytes 2 0 ++ (u.hall h).keyArray.cert))) ∧
  (∀ (s u : State) (p : Nat) (c : Capsule) (rest : List Capsule) (e : Session) (v : State) (r : List Byte), s.Heads p c rest 7 (some 0) → s.taken p rest = u →
    u.Named p c e 3 → (u.hall (portHall p)).unlisted p (some e) = false → 176 ≤ c.payload.length → fld c.payload 1 1 = (portHall p).idx →
    u.unwrapKey (portHall p) e c.payload = (v, .ok r) → (v.hall (portHall p)).serves = true →
    exec (.keywrapModelKey p) s = .next (s.whole fun _ => v.respond p 7 c.tag c.session 0 r)) ∧
  (∀ (s u : State) (p : Nat) (c : Capsule) (rest : List Capsule) (e : Session) (v : State) (r : List Byte), s.Heads p c rest 7 (some 1) → s.taken p rest = u →
    u.Named p c e 3 → (u.hall (portHall p)).unlisted p (some e) = false → 176 ≤ c.payload.length → fld c.payload 1 1 = (portHall p).idx →
    u.unwrapKey (portHall p) e c.payload = (v, .ok r) → (v.hall (portHall p)).serves = true →
    exec (.keywrapStreamKey p) s = .next (s.whole fun _ => v.respond p 7 c.tag c.session 0 r)) ∧
  (∀ (s u : State) (p : Nat) (c : Capsule) (rest : List Capsule) (e : Session) (v : State), s.Heads p c rest 7 (some 2) → s.taken p rest = u →
    u.Named p c e 3 → (u.hall (portHall p)).unlisted p (some e) = false → 16 ≤ c.payload.length → fld c.payload 1 1 = (portHall p).idx →
    u.rotate (portHall p) e.dom = (0, v) → (v.hall (portHall p)).serves = true →
    exec (.keywrapRotate p) s = .next (s.whole fun _ => v.respond p 7 c.tag c.session 0 [])) ∧
  (∀ (s u : State) (p : Nat) (c : Capsule) (rest : List Capsule) (e : Session) (k : KeySlot), s.Heads p c rest 7 (some 3) → s.taken p rest = u →
    u.Named p c e 3 → (u.hall (portHall p)).unlisted p (some e) = false → 16 ≤ c.payload.length → fld c.payload 1 1 = (portHall p).idx →
    (u.hall (portHall p)).keyFor (portHall p).idx (fld c.payload 8 4) e.num (fld c.payload 8 4 / 2 ^ 30 % 2) = some k →
    exec (.keywrapErase p) s = .next (s.whole fun _ => (u.onHall (portHall p) fun H => H.eraseSlot k.slot).respond p 7 c.tag c.session 0 [])) ∧
  (∀ (s u : State) (p : Nat) (f : Flash) (c : Capsule) (rest : List Capsule) (v : State) (w : Wait), s.Heads p c rest 8 (some 0) → s.taken p rest = u →
    u.loadmodelLoad (portHall p) p false f c = (v, .later w) → (v.hall (portHall p)).serves = true →
    exec (.loadmodelLoad p f) s = .next (s.whole fun _ => v.onPort p fun P => { P with waits := P.waits ++ [w] })) ∧
  (∀ (s u : State) (p : Nat) (f : Flash) (c : Capsule) (rest : List Capsule) (e : Session), s.Heads p c rest 8 (some 0) → s.taken p rest = u →
    u.Named p c e 3 → (u.hall (portHall p)).unlisted p (some e) = false → 24 ≤ c.payload.length → fld c.payload 1 1 = (portHall p).idx →
    (u.hall (portHall p)).modelBad (some e) (fld c.payload 2 2) = false → fld c.payload 8 1 ≤ 1 → 512 ≤ fld c.payload 16 4 → fld c.payload 16 4 ≤ 67107840 →
    (fld c.payload 8 1 = 1 → flashPartOk f (fld c.payload 9 1) (fld c.payload 20 4) (fld c.payload 16 4) = (true, true)) →
    (fld c.payload 8 1 = 0 → (u.hall (portHall p)).hasRight p 8 = true ∧ fld c.payload 12 2 ≤ 4095 ∧ (u.hall (portHall p)).portsOff = false ∧
      (∀ im, (u.hall (portHall p)).image = some im → (im.hostFeed (portHall p).idx (fld c.payload 10 2)).isSome = true) ∧
      (u.hall (portHall p)).sec.loads.any (fun (l : Load) => l.source == 0 && l.feedId == fld c.payload 10 2 && l.channel == fld c.payload 12 2) = false) →
    ((u.hall (portHall p)).keyFor (portHall p).idx (fld c.payload 4 4) e.num 0).isSome = true →
    (∀ k : KeySlot, (u.hall (portHall p)).sec.keys.find? (fun k => keyHandle (portHall p).idx k == fld c.payload 4 4) = some k → k.use = 0 → k.model = fld c.payload 2 2) →
    (u.hall (portHall p)).sec.models.any (fun (x : Model) => x.num == fld c.payload 2 2 && x.st == .loaded) = false →
    (u.hall (portHall p)).sec.models.length < 1024 ∨ (u.hall (portHall p)).sec.models.any (fun (x : Model) => x.num == fld c.payload 2 2) = true →
    exec (.loadmodelLoad p f) s = .next (s.whole fun _ => ((u.onHall (portHall p) fun H =>
      { H with sec := { H.sec with loads := H.sec.loads ++ [
        { port := p, tag := c.tag, session := e.num, model := fld c.payload 2 2, key := fld c.payload 4 4, source := fld c.payload 8 1
          feedId := fld c.payload 10 2, channel := fld c.payload 12 2, total := fld c.payload 16 4, flashOffset := fld c.payload 20 4
          bytes := [], complete := false }] } }).onPort p fun P => { P with waits := P.waits ++ [.load c.tag e.num (fld c.payload 2 2)] }))) ∧
  (∀ (s u : State) (p : Nat) (c : Capsule) (rest : List Capsule) (e : Session), s.Heads p c rest 8 (some 1) → s.taken p rest = u →
    u.Named p c e 3 → (u.hall (portHall p)).unlisted p (some e) = false → 24 ≤ c.payload.length → fld c.payload 1 1 = (portHall p).idx →
    (u.hall (portHall p)).modelBad (some e) (fld c.payload 2 2) = false → (u.hall (portHall p)).sec.models.any (fun (x : Model) => x.num == fld c.payload 2 2) = true →
    u.modelInUse (portHall p) (fld c.payload 2 2) = false → (u.hall (portHall p)).sec.loads = [] →
    ((u.dropModel (portHall p) (fld c.payload 2 2)).hall (portHall p)).serves = true →
    exec (.loadmodelUnload p) s = .next (s.whole fun _ => (u.dropModel (portHall p) (fld c.payload 2 2)).respond p 8 c.tag c.session 0 [])) ∧
  (∀ (s : State) (h : HallId) (m : Nat) (bs : List Byte) (l : Load), s.por = false → (s.hall h).dev.up = true →
    ((s.hall h).sec.loads.find? fun (l : Load) => l.model == m && (l.complete || l.source == 1)) = some l →
    exec (.modelPartDone h m bs) s = .next (s.whole fun _ => s.loadPart h l (if l.source = 1 then fit bs l.total else l.bytes))) ∧
  (∀ (s : State) (h : HallId) (l : Load) (bs : List Byte), ((s.hall h).sec.models.find? fun (x : Model) => x.num == l.model) = none →
    (∀ e t im, (s.hall h).sec.sessions.find? (fun e => e.num == l.session) = some e → (s.hall h).image = some im → im.tenant e.dom = some t →
      (fld bs 0 4 ≠ 0x4C444D54 ∨ bs.length ≠ l.total → s.loadPart h l bs = s.refusePart h l 0x0709 []))) ∧
  (∀ (s u v : State) (p : Nat) (c : Capsule) (rest : List Capsule) (bs : List Byte), s.Heads p c rest 9 none → s.taken p rest = u →
    8 ≤ c.payload.length → fld c.payload 0 4 % 4 = 0 → 1 ≤ fld c.payload 4 2 → fld c.payload 4 2 ≤ 1024 → fld c.payload 6 2 = 0 →
    (u.hall (portHall p)).image.isSome = true →
    (List.range (fld c.payload 4 2)).foldl (fun (r : List Byte × State) i =>
      (r.1 ++ leBytes 4 (r.2.regRead p (fld c.payload 0 4 + 4 * i)).1, (r.2.regRead p (fld c.payload 0 4 + 4 * i)).2)) (([] : List Byte), u) = (bs, v) →
    (v.hall (portHall p)).serves = true →
    exec (.regrd p) s = .next (s.whole fun _ => v.respond p 9 c.tag c.session 0 bs)) ∧
  (∀ (s u v : State) (p : Nat) (c : Capsule) (rest : List Capsule), s.Heads p c rest 10 none → s.taken p rest = u →
    8 + 4 * fld c.payload 4 2 ≤ c.payload.length → fld c.payload 0 4 % 4 = 0 → 1 ≤ fld c.payload 4 2 → fld c.payload 4 2 ≤ 1024 →
    fld c.payload 6 2 = 0 → (u.hall (portHall p)).image.isSome = true →
    (List.range (fld c.payload 4 2)).foldl (fun (s : State) i => if (s.hall (portHall p)).serves then
      s.regWrite p (fld c.payload 0 4 + 4 * i) (BitVec.ofNat 32 (fld c.payload (8 + 4 * i) 4)) s.pkg.now else s) u = v →
    (v.hall (portHall p)).serves = true →
    exec (.regwr p) s = .next (s.whole fun _ => v.respond p 10 c.tag c.session 0 []))

/-- HOST_FEED_RECORD on the feed's data type reaches its feed where its CRC holds, and is counted and discarded where not; with another data type it
is an undeclared packet (R442). In a hall that runs with an image: a record outside a frame counts as orphan; a DATA record of a declared kind that
fits the object begun is added to it, and one that breaks RSEQ, OFFSET or length abandons the object with SEQ_GAP; a record of a kind that the feed
does not carry counts in BAD_KIND and changes no object. A DATA object that finds no ring counts in RING_FULL. CSI_TX_CFG takes a value in range,
and logs and ignores one out of range; TX_PACKET_END ends the packet and lets the streams that wait take blocks, and a lowering that waited for the
ports goes on (R558). (Rests on 14_host_ports (R469), 14_host_ports (R470), 14_host_ports (R472), 14_host_ports (R473), 14_host_ports (R479),
14_host_ports (R481), 13_camera_ingest_isp (R442), 17_power_states (R558).) -/
def Obligations.HostFeedsAndTransmitPorts : Prop :=
  (∀ (s : State) (h : HallId) (p vc dt : Nat) (r : FeedRecord) (hc : Bool), s.por = false →
    ((s.hall h).feedDt h.idx p vc = some dt →
      let s1 := s.inRx h p fun H => (H.rxActive h.idx p vc).header h.idx p vc hc
      exec (.hostFeedRecord h p ⟨vc, hc⟩ ⟨dt, r, true⟩) s = .next (s.whole fun _ => s1.feedRecord h p vc r) ∧
      exec (.hostFeedRecord h p ⟨vc, hc⟩ ⟨dt, r, false⟩) s = .next (s.whole fun _ => s1.inRx h p fun H => H.feedCrc p)) ∧
    (∀ ok, (s.hall h).feedDt h.idx p vc ≠ some dt →
      exec (.hostFeedRecord h p ⟨vc, hc⟩ ⟨dt, r, ok⟩) s = .next (s.whole fun _ => s.inRx h p fun H => H.undeclaredPacket h.idx p vc dt hc))) ∧
  (∀ (s : State) (h : HallId) (p vc id : Nat) (r : FeedRecord) (im : Image) (b : HostFeedBody) (P : RxPort),
    (s.hall h).dev.up = true → (s.hall h).pwr.hall = .on → (s.hall h).image = some im → im.feedOn h.idx p vc = some (id, b) →
    (s.hall h).cam.ports[p]? = some P →
    (P.feedOpen.contains vc = false → s.feedRecord h p vc r = s.onHall h fun H => H.orphan p) ∧
    (P.feedOpen.contains vc = true → r.kind = 0 ∨ 3 < r.kind ∨ bit b.kinds (r.kind - 1) = false →
      s.feedRecord h p vc r = s.onHall h fun H => H.feedFault 0) ∧
    (∀ o : FeedObj, P.feedOpen.contains vc = true → r.kind = 3 → bit b.kinds 2 = true → bit r.rflags 0 = false →
      (s.hall h).feedObj p vc 3 r.channel = some o →
      ((s.hall h).sec.loads.find? fun (l : Load) => l.source == 0 && l.feedId == id && l.channel == r.channel && !l.complete) = none →
      (feedOk o none r = true → bit r.rflags 1 = false → s.feedRecord h p vc r = s.onHall h fun H =>
        { H.dropObj p vc 3 r.channel with
          feeds := (H.dropObj p vc 3 r.channel).feeds ++ [{ o with rseq := o.rseq + 1, bytes := o.bytes ++ r.data }] }) ∧
      (o.kind = 3 → r.rseq ≠ o.rseq ∨ r.offset ≠ o.bytes.length ∨ r.data.length ≠ r.len → s.feedRecord h p vc r =
        s.onHall h fun H => ((H.dropObj o.port o.vc o.kind o.channel).count 1670 1).feedFault 1))) ∧
  (∀ (H : Hall) (h id chan : Nat) (bs : List Byte), (H.rings.find? fun (r : FeedRing) => r.feedId == id && r.channel == chan) = none →
    H.feedDeliver h id chan bs = H.feedFault 3) ∧
  (∀ (H : Hall) (i : Nat), (H.feedFault i).feedErr = modAt H.feedErr i inc8 ∧ (H.feedFault i).feeds = H.feeds ∧ (H.feedFault i).rings = H.rings) ∧
  (∀ (s : State) (h : HallId) (t : Nat), s.por = false → (s.hall h).dev.up = true →
    exec (.txPacketEnd h t) s = .next (s.whole fun _ => (s.onHall h fun H => H.txEnd h.idx t).txOver)) ∧
  (∀ (s : State) (p t idx blk o : Nat) (w : Word), t < 4 → s.Reaches p (regAddr (portHall p) 0xB (0x10 * t)) w idx blk o →
    let v := w &&& 0xFCFF1FFF#32
    let u := s.spent p blk
    ((u.hall (portHall p)).txClass0 t = false → txEnable v = false ∨ txRange v = true →
      exec (.csiTxCfgWrite p t w) s = .next (s.whole fun _ => u.onHall (portHall p) fun H =>
        (H.onTx t fun (P : TxPort) => { P with cfg := v }).txStart (portHall p).idx t)) ∧
    (txEnable v = true → txRange v = false →
      exec (.csiTxCfgWrite p t w) s = .next (s.whole fun _ => u.logPort (portHall p) p 0x0BFF t (4 * t))))

/-- At a port that is up: 0x5EA1 in a block's UNLOCK register arms the port's unlock of that block; any other value disarms it, logs UNLOCK_BAD and
counts. An armed unlock that expires is disarmed, logged and counted. A word that R458 refuses or that meets no register counts in OUT_WINDOW, is
logged, and leaves the unlock. A word to a register with an RW-L field, without the unlock, keeps its fields, is logged LOCKED_WRITE and counted;
with the unlock it takes effect; any other word only uses the unlock up. (Rests on 19_registers (R590), 19_registers (R595), 19_registers (R596),
14_host_ports (R458).) -/
def Obligations.UnlocksGuardRegisterWrites : Prop :=
  (∀ (s : State) (p blk idx tb : Nat) (w : Word), s.por = false → s.portUp p = true →
    s.wordRefusal p (regAddr (portHall p) blk 0x3FF0) (fun i b o => (s.hall (portHall p)).mayWrite p i b o w) = .ok (idx, blk, 0x3FF0) →
    (w = 0x5EA1#32 → exec (.unlock p blk w tb) s = .next (s.whole fun _ => s.onPort p fun P => { P with armed := sins P.armed blk })) ∧
    (w ≠ 0x5EA1#32 → exec (.unlock p blk w tb) s = .next (s.whole fun _ =>
      ((s.spent p blk).logPort (portHall p) p 0x0005 blk (bits w.toNat 0 16)).onHall (portHall p) fun H =>
        { H with dev := { H.dev with badUnlock := inc8 H.dev.badUnlock } }))) ∧
  (∀ (s : State) (p blk : Nat), s.por = false → s.portUp p = true → (s.port p).armed.contains blk = true →
    exec (.unlockExpired p blk) s = .next (s.whole fun _ =>
      ((s.spent p blk).logPort (portHall p) p 0x0006 blk 0).onHall (portHall p) fun H =>
        { H with dev := { H.dev with expired := inc8 H.dev.expired } })) ∧
  (∀ (s : State) (p addr code : Nat) (w : Word), s.por = false → s.portUp p = true →
    s.wordRefusal p addr (fun i b o => (s.hall (portHall p)).mayWrite p i b o w) = .error code →
    exec (.registerWrite p addr w) s = .next (s.whole fun _ =>
      (s.logPort (portHall p) p code (addr / 2 ^ 16 % 256) (addr % 2 ^ 16 / 4)).onPort p fun P => { P with outWindow := inc8 P.outWindow })) ∧
  (∀ (s : State) (p addr idx blk o : Nat) (w : Word), s.por = false → s.portUp p = true → o ≠ 0x3FF0 → ¬(idx = 7 ∧ o = 0) →
    s.wordRefusal p addr (fun i b o => (s.hall (portHall p)).mayWrite p i b o w) = .ok (idx, blk, o) →
    (guarded (portHall p) idx o = true → (s.port p).armed.contains blk = false → exec (.registerWrite p addr w) s = .next (s.whole fun _ =>
      ((s.spent p blk).logPort (portHall p) p 0x0004 blk (o / 4)).onHall (portHall p) fun H =>
        { H with dev := { H.dev with lockedWrites := inc16 H.dev.lockedWrites } })) ∧
    (guarded (portHall p) idx o = true → (s.port p).armed.contains blk = true → exec (.registerWrite p addr w) s = .next (s.whole fun _ =>
      (s.spent p blk).guardedWrite p idx blk o w s.pkg.now)) ∧
    (guarded (portHall p) idx o = false → exec (.registerWrite p addr w) s = .next (s.whole fun _ => s.spent p blk))) ∧
  (∀ (l : List Nat) (a b : Nat), (sins l a).contains b = (decide (b = a) || l.contains b))

/-- For a word of a port that reaches the register with the block's unlock armed: ACTIVATE of a staged image schedules it for the second sweep from
now, or is refused with 0x21 while one is scheduled and 0x20 where the structure differs; DISCARD drops a staged image that is not scheduled;
GAL_FRAME_AREA, VST_CTL, MIC_CTL and MIC_CAL hold the request; MIC_CTL is ignored and logged where the image has a CASCADE section; ERR_PASS_CTL.GO
queues a pass over its range; ERR_CE_CTL.CLEAR empties the address log; ERR_RESET resets the hall with LAST_CAUSE 8. The log code of an ignored
MIC_CTL word and that of R602's default are the model's reading, named in NOTES.md. (Rests on 02_aizan_image (R93), 02_aizan_image (R96),
10_memory_tiers (R323), 16_integrity_and_faults (R527), 16_integrity_and_faults (R539), 16_integrity_and_faults (R549), 11_cascade_and_wake (R384),
12_microphone_arrays (R394), 12_microphone_arrays (R399).) -/
def Obligations.GuardedWritesTakeEffect : Prop :=
  (∀ (s : State) (p idx blk o : Nat) (old im : Image), s.Reaches p (regAddr (portHall p) 0 0x114) 1#32 idx blk o → (s.hall (portHall p)).image = some old →
    (s.hall (portHall p)).dev.stagedImg = some im →
    ((s.hall (portHall p)).dev.staged = 3 → exec (.activate p) s = .next (s.whole fun _ => (s.spent p 0).recordRefusal (portHall p) (0x21, 0, 0xFFFF))) ∧
    ((s.hall (portHall p)).dev.staged = 2 → im.sdigest ≠ old.sdigest → exec (.activate p) s = .next (s.whole fun _ => (s.spent p 0).recordRefusal (portHall p) (0x20, 0, 0xFFFF))) ∧
    ((s.hall (portHall p)).dev.staged = 2 → im.sdigest = old.sdigest → (s.hall (portHall p)).stair.mode ≠ .split → (s.hall (portHall p)).stair.mode ≠ .paired →
      ((s.spent p 0).hall (portHall p)).stagedFits (portHall p).idx im = true →
      exec (.activate p) s = .next (s.whole fun _ => (s.spent p 0).onHall (portHall p) fun H => { H with dev := { H.dev with
        staged := 3, actSweep := (H.swp.sweep + 2) % 2 ^ 32, activate := true, ackBy := none } }))) ∧
  (∀ (s : State) (p idx blk o : Nat), s.Reaches p (regAddr (portHall p) 0 0x114) 2#32 idx blk o →
    ((s.hall (portHall p)).dev.staged ≠ 3 → exec (.discard p) s = .next (s.whole fun _ => (s.spent p 0).onHall (portHall p) fun H =>
      { H with dev := { H.dev with staged := 0, stagedImg := none, farVerified := none } })) ∧
    ((s.hall (portHall p)).dev.staged = 3 → exec (.discard p) s = .next (s.whole fun _ => (s.spent p 0)))) ∧
  (∀ (s : State) (p idx blk o : Nat) (w : Word) (g : Nat), s.Reaches p (regAddr (portHall p) (0x10 + g) 0x20) w idx blk o → g < 8 →
    exec (.frameAreaRequest p g w) s = .next (s.whole fun _ => (s.spent p (0x10 + g)).onHall (portHall p) fun H => H.onGal g fun G => { G with areaReq := bits w.toNat 0 8 })) ∧
  (∀ (s : State) (p idx blk o : Nat) (w : Word), s.Reaches p (regAddr (portHall p) 4 0x90) w idx blk o →
    let u := (s.spent p 4).onHall (portHall p) fun H => { H with err := { H.err with passPlace := bits w.toNat 16 4, passUnit := bits w.toNat 0 8 } }
    (w.getLsbD 31 = false → exec (.passGo p w) s = .next (s.whole fun _ => u)) ∧
    (w.getLsbD 31 = true → exec (.passGo p w) s = .next (s.whole fun _ => u.onHall (portHall p) fun H => { H with err := { H.err with
      passes := H.err.passes ++ [⟨H.err.passPlace, H.err.passUnit, H.err.passBase, max 1 H.err.passLen, true⟩]
      passBusy := true, passGo := true } }))) ∧
  (∀ (s : State) (p idx blk o : Nat), s.Reaches p (regAddr (portHall p) 4 0x88) 0x80000000#32 idx blk o →
    exec (.ceLogClear p) s = .next (s.whole fun _ => (s.spent p 4).onHall (portHall p) fun H => { H with err := { H.err with ceLog := H.err.ceLog.map fun _ => ⟨false, 0, 0, 0, 0, 0, 0, 0⟩ } })) ∧
  (∀ (s : State) (p idx blk o : Nat) (w : Word), s.Reaches p (regAddr (portHall p) 4 0x08) w idx blk o → w.getLsbD 31 = true →
    exec (.hallResetWrite p w) s = .next (s.whole fun _ => (s.spent p 4).hallReset (portHall p) 8 true)) ∧
  (∀ (s : State) (p idx blk o : Nat) (w : Word), s.Reaches p (regAddr (portHall p) 9 0x00) w idx blk o →
    exec (.descend p w) s = .next (s.whole fun _ => { s.spent p 9 with vst := { s.vst with descend := s.vst.descend || w.getLsbD 2, descendTo := bits w.toNat 0 2 } })) ∧
  (∀ (s : State) (p idx blk o : Nat) (w : Word), s.Reaches p (regAddr (portHall p) 8 0x00) w idx blk o → (s.a.image.bind fun im => im.cascade) = none →
    exec (.modeReq p w) s = .next (s.whole fun _ => { s.spent p 8 with vst := { s.vst with modeReq := w.getLsbD 0 } })) ∧
  (∀ (s : State) (p idx blk o : Nat) (w : Word), s.Reaches p (regAddr (portHall p) 8 0x00) w idx blk o → (s.a.image.bind fun im => im.cascade).isSome = true →
    exec (.modeReq p w) s = .next (s.whole fun _ => (s.spent p 8).logPort .a p 0x08FF 0 0)) ∧
  (∀ (s : State) (p idx blk o : Nat) (w : Word) (m : Nat), s.Reaches p (regAddr (portHall p) 8 (0x100 + 4 * m)) w idx blk o → m < 32 →
    exec (.micCalWrite p m w) s = .next (s.whole fun _ => { s.spent p 8 with vst := { s.vst with calNew := modAt s.vst.calNew m fun _ => (bits w.toNat 16 16, bits w.toNat 0 9) } }))

/-- For a word that reaches the register with its unlock: SEC_ROTATE with GO for a domain that is not declared gives LAST 4; with its old epoch
live, LAST 2 and BUSY counts; else, with no sweep queued, the other epoch slot takes a fresh number, becomes current, the sweep starts and LAST is
1; without GO only DOMAIN is held. PWR_REQ of a Hall A port forms the effective configuration with the port's request, one of a Hall B port is sent
to Hall A over CONTROL; WAKE_RELEASE releases every pin-held request. (Rests on 15_tenancy_and_keys (R508), 15_tenancy_and_keys (R509),
15_tenancy_and_keys (R510), 15_tenancy_and_keys (R511), 17_power_states (R555), 17_power_states (R556), 17_power_states (R565).) -/
def Obligations.RotationsAndPowerRequests : Prop :=
  (∀ (s : State) (p idx blk o : Nat) (w : Word), s.Reaches p (regAddr (portHall p) 5 0x80) w idx blk o →
    let u := (s.spent p 5).onHall (portHall p) fun H => { H with sec := { H.sec with rotDomain := bits w.toNat 0 12 } }
    let last := fun (n : Nat) (s : State) => s.onHall (portHall p) fun H => { H with sec := { H.sec with rotLast := n } }
    (w.getLsbD 31 = false → exec (.secRotate p w) s = .next (s.whole fun _ => u)) ∧
    (w.getLsbD 31 = true → (s.hall (portHall p)).dom (bits w.toNat 0 12) = none → exec (.secRotate p w) s = .next (s.whole fun _ => last 4 u)) ∧
    (∀ (x : Dom), w.getLsbD 31 = true → (s.hall (portHall p)).dom (bits w.toNat 0 12) = some x → (s.hall (portHall p)).sec.trngOk = true → (s.hall (portHall p)).oldLive (bits w.toNat 0 12) = true →
      exec (.secRotate p w) s = .next (s.whole fun _ => last 2 (u.onHall (portHall p) fun H => { H with sec := { H.sec with busy := inc8 H.sec.busy } }))) ∧
    (∀ (x : Dom), w.getLsbD 31 = true → (s.hall (portHall p)).dom (bits w.toNat 0 12) = some x → (s.hall (portHall p)).sec.trngOk = true → (s.hall (portHall p)).oldLive (bits w.toNat 0 12) = false →
      (s.hall (portHall p)).sec.sweeps = [] → x.releasing = false → x.current = 0 →
      let e := s.epoch (portHall p).idx (bits w.toNat 0 12)
      exec (.secRotate p w) s = .next (s.whole fun _ => last 1 ((u.drawEpoch.2.setEpoch { e with e1 := some u.drawEpoch.1 }).onHall (portHall p) fun H =>
        let H1 := H.onDom (bits w.toNat 0 12) fun x => { x with current := 1 }
        ({ H1 with sec := { H1.sec with sweeps := H1.sec.sweeps ++ [bits w.toNat 0 12] } } : Hall).startSweep)))) ∧
  (∀ (s : State) (p idx blk o : Nat) (w : Word) (vt : Nat), (s.atVt vt).Reaches p (regAddr (portHall p) 3 (0x10 + 4 * portIdx p)) w idx blk o →
    exec (.powerRequest p w vt) s = .next (s.whole fun _ => ((s.atVt vt).spent p 3).powerReq p (w.getLsbD 4) (bits w.toNat 0 4) vt)) ∧
  (∀ (s : State) (p config vt : Nat) (valid : Bool), p < 4 →
    let u := s.onHall (portHall p) fun H => { H with pwr := { H.pwr with reqs := modAt H.pwr.reqs (portIdx p) fun _ => (valid, config) } }
    (p < 2 → s.powerReq p valid config vt = u.applyPower (some (4, portIdx p)) (0, 0) vt) ∧
    (2 ≤ p → s.powerReq p valid config vt = u.onHall .b fun H => H.tell (.powerRequest (portIdx p) valid config))) ∧
  (∀ (s : State) (p idx blk o vt : Nat), (s.atVt vt).Reaches p (regAddr (portHall p) 3 0x04) (2#32 ||| BitVec.ofNat 32 (b2n (s.hall (portHall p)).pwr.driveHold)) idx blk o →
    exec (.wakeRelease p vt) s = .next (s.whole fun _ =>
      (let t := (s.atVt vt).spent p 3; ({ t with pkg := { t.pkg with pinReqs := [] } } : State).applyPower none (0, 0) vt)))

/-- CNT_SNAP.GO copies the live counters into the snapshot with their sweep and tick. CNT_SAMPLER takes EN, P and COUNTER where the counter is at
most 1,151 and P is 10 to 40, and is ignored and logged elsewhere. A sampler whose core has committed nothing since its wrap gives a sample with
IDLE that names the last commit: into the buffer, or lost with 64 there. A read of SAMPLE_HEAD_3 by a port that holds HEALTH removes the head. A
read of a counter's LO latches its HI for the port, which that port's next read of that HI returns; any read in between drops it. (Rests on
18_counters (R582), 18_counters (R583), 18_counters (R584), 18_counters (R585), 18_counters (R586), 18_counters (R587).) -/
def Obligations.CountersSnapshotsAndSamples : Prop :=
  (∀ (s : State) (p : Nat), s.por = false → s.portUp p = true →
    s.wordRefusal p (regAddr (portHall p) 7 0) (fun i b o => (s.hall (portHall p)).mayWrite p i b o 1#32) = .ok (7, 7, 0) →
    exec (.snapshot p) s = .next (s.whole fun _ => (s.spent p 7).onHall (portHall p) fun H =>
      { H with cnt := { H.cnt with snap := H.cnt.live, snapSweep := H.swp.sweep, snapTick := H.swp.tick } })) ∧
  (∀ (s : State) (p k idx blk o : Nat) (w : Word), k < 8 → s.Reaches p (regAddr (portHall p) 7 (0x600 + 4 * k)) w idx blk o →
    (bits w.toNat 0 11 ≤ 1151 ∧ 10 ≤ bits w.toNat 16 6 ∧ bits w.toNat 16 6 ≤ 40 → exec (.samplerWrite p k w) s = .next (s.whole fun _ =>
      (s.spent p 7).onHall (portHall p) fun H => { H with cnt := { H.cnt with
        samplers := modAt H.cnt.samplers k fun _ => ⟨w.getLsbD 31, bits w.toNat 16 6, bits w.toNat 0 11, none⟩ } })) ∧
    (1151 < bits w.toNat 0 11 ∨ bits w.toNat 16 6 < 10 ∨ 40 < bits w.toNat 16 6 → exec (.samplerWrite p k w) s = .next (s.whole fun _ =>
      (s.spent p 7).logPort (portHall p) p 0x07FF k ((0x600 + 4 * k) / 4)))) ∧
  (∀ (s : State) (h : HallId) (k : Nat) (x : Sampler) (w l : Nat × Nat) (n : Nat), s.por = false → (s.hall h).dev.up = true →
    (s.hall h).cnt.samplers[k]? = some x → x.wrap = some w → ((s.hall h).core (x.counter / 12)).lastCommit = some (l.1, l.2, n) →
    exec (.sampleIdleTimeout h k) s = .next (s.whole fun _ => s.onHall h fun H =>
      let c := { H.cnt with samplers := modAt H.cnt.samplers k fun x => { x with wrap := none } }
      { H with cnt := if H.cnt.samples.length < 64 then
          { c with samples := c.samples ++ [⟨k, true, x.counter / 12, l.1, l.2, n, w.1, w.2⟩] }
        else { c with lost := inc8 c.lost } })) ∧
  (∀ (s : State) (p : Nat), s.por = false → s.portUp p = true → (s.hall (portHall p)).hasRight p 4 = true →
    s.wordRefusal p (regAddr (portHall p) 7 0x69C) (fun i b o => (s.hall (portHall p)).mayRead p i b o) = .ok (7, 7, 0x69C) →
    exec (.sampleHeadRead p) s = .next (s.whole fun _ => s.onHall (portHall p) fun H => { H with cnt := { H.cnt with
      samples := H.cnt.samples.drop 1, latch := modAt H.cnt.latch (portIdx p) fun _ => none } })) ∧
  (∀ (s : State) (p w n : Nat), s.por = false → s.portUp p = true → w < 3 → n < 2048 →
    s.wordRefusal p (regAddr (portHall p) 7 (0x4000 * (w + 1) + 8 * n)) (fun i b o => (s.hall (portHall p)).mayRead p i b o) = .ok (7, 7, 0x4000 * (w + 1) + 8 * n) →
    exec (.counterLoRead p w n) s = .next (s.whole fun _ => s.onHall (portHall p) fun H => { H with cnt := { H.cnt with
      latch := modAt H.cnt.latch (portIdx p) fun _ => some (w, n, H.cnt.window ((s.hall (portHall p)).hasRight p 4) w n / 2 ^ 32) } })) ∧
  (∀ (c : Cnt) (b b' : Bool) (i w n v v' : Nat), i < c.latch.length → w < 3 → n < 2048 →
    ((c.readLatch b i (0x4000 * (w + 1) + 8 * n) v).2.readLatch b' i (0x4000 * (w + 1) + 8 * n + 4) v').1 = c.window b w n / 2 ^ 32 ∧
    (∀ o x, counterAt o = none → ((c.readLatch b i o x).2.readLatch b' i (0x4000 * (w + 1) + 8 * n + 4) v').1 = v'))

/-- An entry that a host port causes is written with the next sequence number while the port has had fewer than 16 in the sweep, and then is not:
the log and the sequence number stay and SUPPRESSED counts. An entry of the device is written whatever any port has caused. With a new sweep each
port's count is 0 again. (States 19_registers (R601).) -/
def Obligations.PortEntriesOfTheLogAreLimited : Prop :=
  (∀ (s : State) (p code unit arg : Nat), p < 4 → (s.hall (portHall p)).ports.length = 2 →
    let t := s.logPort (portHall p) p code unit arg
    let D := (s.hall (portHall p)).dev
    let E := (t.hall (portHall p)).dev
    ((s.port p).logged < 16 → (∃ l, E.log = l ++ [⟨D.nextSeq, (s.hall (portHall p)).swp.sweep, (s.hall (portHall p)).swp.tick, code, arg % 65536, unit % 256, p + 1⟩] ∧
        l = D.log.drop (D.log.length + 1 - 256)) ∧ E.nextSeq = (D.nextSeq + 1) % 2 ^ 32 ∧ E.suppressed = D.suppressed ∧
      (t.port p).logged = (s.port p).logged + 1) ∧
    (16 ≤ (s.port p).logged → E = { D with suppressed := inc16 D.suppressed } ∧ (t.port p).logged = (s.port p).logged)) ∧
  (∀ (s : State) (h : HallId) (code unit arg : Nat),
    let D := (s.hall h).dev
    let E := ((s.log h code unit arg).hall h).dev
    E.log = D.log.drop (D.log.length + 1 - 256) ++ [⟨D.nextSeq, (s.hall h).swp.sweep, (s.hall h).swp.tick, code, arg % 65536, unit % 256, 0⟩] ∧
      E.nextSeq = (D.nextSeq + 1) % 2 ^ 32 ∧ E.suppressed = D.suppressed) ∧
  (∀ (H : Hall), ∀ P ∈ H.refresh.ports, P.logged = 0)

/-- Whatever value is converted to FP32, BF16, FP16, FP8 E4M3 or FP8 E5M2: where the code produced is a NaN, it is the format's canonical NaN, and
it comes of a NaN; every NaN code of a format reads as the one NaN, without payload or sign. An increment d to S32C state takes y = d + c and t = s
+ y in FP32, leaves t in s, and y - (t - s) in c, or +0 where t is infinite or NaN. (States 05_number_formats (R161), 05_number_formats (R165).) -/
def Obligations.NumbersKeepTheirCanonicalForms : Prop :=
  (∀ (elem code : Nat) (f : Format), (elem, code, f) ∈ [(9, 0x7FC00000, fmtFP32), (7, 0x7FC0, fmtBF16), (8, 0x7E00, fmtFP16), (5, 0x7F, fmtE4M3),
      (6, 0x7E, fmtE5M2)] →
    (convert elem .nan).1 = code ∧
    (∀ x : Fp, (f.decode (convert elem x).1).isNan = true → x = .nan ∧ (convert elem x).1 = code) ∧
    (∀ c, (f.decode c).isNan = true → f.decode c = f.decode code)) ∧
  (∀ (e : Elem) (d : Fp) (r : Nat),
    let y := d.add32 e.c
    let t := e.s.add32 y
    (Elem.update 11 e d r).s = t ∧
    (t.isNan = false → t.isInf = false → (Elem.update 11 e d r).c = y.sub32 (t.sub32 e.s)) ∧
    (t.isNan = true ∨ t.isInf = true → ((Elem.update 11 e d r).c).bits32 = 0))

/-- For every 24-bit value v the ring sample lies within half a step of v/256 and is even on a tie, but where that exceeds 32,767, where it is
32,767; a sample of the ring is written as 16-bit words of its slot, 16 bytes each, and reads back as they are, with its gap flag. (States
12_microphone_arrays (R400).) -/
def Obligations.RingSamplesRoundToNearest : Prop :=
  (∀ v : Int, -(2 ^ 23) ≤ v → v < 2 ^ 23 →
    (v < 256 * 32767 + 128 → -128 ≤ 256 * ringSample v - v ∧ 256 * ringSample v - v ≤ 128 ∧
      (256 * ringSample v - v = 128 ∨ 256 * ringSample v - v = -128 → ringSample v % 2 = 0)) ∧
    (256 * 32767 + 128 ≤ v → ringSample v = 32767)) ∧
  (∀ (m : Memory) (slot k : Nat) (chans : List Int) (gap : Bool), m.wf = true → slot < 32000 → k < 8 →
    (putSlot m slot chans gap).getAll (16 * slot + 2 * k) 2 = leBytes 2 (sbits 16 (chans.getD k 0)) ∧
    bit ((putSlot m slot chans gap).get (512000 + slot / 8)).toNat (slot % 8) = gap)

/-- AUDIO_FRAME_BOUNDARY without a CASCADE section takes the frame into the ring, takes over the calibrations, changes the microphone mode as asked
and steps the TDM ports. A frame that reaches WAKE_THRESH wakes its candidate; one reaches OPEN_THRESH opens one; one that its limits exceed is
rejected. CANDIDATE_REJECT, IDLE_DESCENT, MIC_DEFER_TIMEOUT act where their condition holds and not elsewhere. A faulty or early presence frame is
discarded, others count, and PRESENCE_FRAMES of them that score WAKE_THRESH give WAKE. The mirror update copies the newest slots, flags and header
and signals. The copies' end brings up the flight. A microphone block that the frame left is written and signalled, or dropped and counted where its
ring is full or its gallery off. (Rests on 11_cascade_and_wake (R370), 11_cascade_and_wake (R371), 11_cascade_and_wake (R372), 11_cascade_and_wake
(R373), 11_cascade_and_wake (R380), 11_cascade_and_wake (R382), 11_cascade_and_wake (R385), 12_microphone_arrays (R395), 12_microphone_arrays
(R401), 13_camera_ingest_isp (R443).) -/
def Obligations.VestibuleFramesAndDecisions : Prop :=
  (∀ (s : State) (vt : Nat) (f : AudioFrame), s.por = false → (s.a.image.bind fun im => im.cascade) = none → s.vst.descend = false →
    s.vst.level = 0 → s.vst.esc = none → s.vst.retryEntry = false →
    exec (.audioFrameBoundary vt f) s = .next (s.whole fun _ =>
      let u := ((s.atVt vt).takeFrame vt f).stuckFrame f
      let v := { u with vst := { u.vst with
        cal := u.vst.calNew, gapFrom := none, presWake := none, pinWakes := [], wakes := min 0xFFFF u.vst.wakes } }
      (if v.vst.modeReq = v.vst.micFull ∨ v.a.image = none then v else
        { v with vst := ({ v.vst with micFull := v.vst.modeReq, modeChanges := inc16 v.vst.modeChanges }).restartMics }).tdmAll)) ∧
  (∀ (c : Candidate) (openAt v : Nat), c.frames = 0 → c.low = 0 →
    (v < openAt → classFrame none c openAt (some v) = ⟨none, none, false⟩) ∧
    (openAt ≤ v → c.wakeAt ≤ v → c.closeAt ≤ v → classFrame none c openAt (some v) = ⟨none, some { c with frames := 1 }, false⟩) ∧
    (openAt ≤ v → v < c.wakeAt → c.closeAt ≤ v → 10 < c.maxMs → classFrame none c openAt (some v) = ⟨some { c with frames := 1 }, none, false⟩)) ∧
  (∀ (s : State) (c : Nat), s.por = false →
    (s.vst.cands.any (fun (x : Candidate) => x.cls == c && x.exceeds) = true → exec (.candidateReject c) s = .next (s.whole fun _ =>
      { s with vst := { s.vst with cands := s.vst.cands.filter (fun (x : Candidate) => x.cls != c), rejects := inc16 s.vst.rejects } })) ∧
    (s.vst.cands.any (fun (x : Candidate) => x.cls == c && x.exceeds) = false → exec (.candidateReject c) s = .next (s.whole fun _ => s))) ∧
  (∀ (s : State) (vt : Nat) (f : FlightEntry), s.por = false → 0 < s.vst.level → s.vst.esc = none → s.flight s.vst.level = some f →
    s.vst.level ≤ s.highest 3 →
    (vtPassed s.vst.dwellVt vt f.minDwellMs = true → s.vst.descReq = true ∨ vtPassed s.vst.idleVt vt f.idleMs = true →
      exec (.idleDescent vt) s = .next (s.whole fun _ => (((s.atVt vt).leaveFlight vt).applyPower none (0, 0) vt).micStep vt)) ∧
    (vtPassed s.vst.dwellVt vt f.minDwellMs = false ∨ s.vst.descReq = false ∧ vtPassed s.vst.idleVt vt f.idleMs = false →
      exec (.idleDescent vt) s = .next (s.whole fun _ => s.atVt vt))) ∧
  (∀ (s : State) (vt t : Nat), s.por = false → s.vst.deferred = some t →
    (t + 49152 ≤ vt → exec (.micDeferTimeout vt) s = .next (s.whole fun _ =>
      let u := { s.atVt vt with vst := { s.vst with deferred := none } }
      if u.modeWanted = u.vst.micFull then u else { u with vst := { ({ u.vst with
        micFull := u.modeWanted, modeChanges := inc16 u.vst.modeChanges }).restartMics with deferTimeouts := inc8 u.vst.deferTimeouts } })) ∧
    (vt < t + 49152 → exec (.micDeferTimeout vt) s = .next (s.whole fun _ => s.atVt vt))) ∧
  (∀ (s : State) (vt : Nat) (f : PresenceFrame), s.por = false → s.hasPresence = true →
    (f.faulty = true → exec (.presenceFrame vt f) s = .next (s.whole fun _ => (s.atVt vt).onHall .a fun H =>
      { H with cam := { H.cam with presDiscarded := inc16 H.cam.presDiscarded } })) ∧
    (∀ fl, f.faulty = false → s.vst.presVt = none → s.flight 0 = some fl → s.available 0 = true → f.box = none →
      Gives (.presenceFrame vt f) s fun t => t.a.cam.presAccepted = inc16 s.a.cam.presAccepted ∧ t.vst.presVt = some vt ∧
        (let n := if fl.wakeThresh.getD 12 0 ≤ f.score then s.vst.presence + 1 else 0
         t.vst.presence = (if fl.presenceFrames ≤ n then 0 else n) ∧
         t.vst.presWake = if fl.presenceFrames ≤ n then some ⟨f.score, none, []⟩ else s.vst.presWake))) ∧
  (∀ (s : State) (vt : Nat), s.por = false →
    (s.mirrors = [] → exec (.captureMirrorUpdate vt) s = .next (s.whole fun _ =>
      { s.atVt vt with vst := { s.vst with mirrored := s.vst.cropSeq } })) ∧
    (∀ f, s.mirrors = [f] → s.vst.mirrored = s.vst.cropSeq → exec (.captureMirrorUpdate vt) s = .next (s.whole fun _ =>
      let n := posDiff s.vst.writePos 160 % 32000
      let u := (((((s.atVt vt).mirrorTo f (16 * n) 2560).mirrorTo f (512000 + n / 8) 20).mirrorTo f 548800 64).onHall .a fun H =>
        (H.signal 0 f.mirrorCell 1).after 0)
      { u with vst := { u.vst with mirrored := u.vst.cropSeq } }))) ∧
  (∀ (s : State) (vt n : Nat) (e : Escalation) (f : FlightEntry), s.por = false → s.vst.esc = some e → e.copying = true → e.entering = n →
    n ≠ 1 → n = e.target → s.flight n = some f → f.hall = 0 → (s.a.gal f.gallery).st = .run → (s.a.session (flightSession n)).isSome = true →
    exec (.flightEntryCopyDone vt) s = .next (s.whole fun _ =>
      let u := (((s.atVt vt).mirrorTo f 0 548864).onHall .a fun H => H.flightContexts 0 f n).deliverPending f n
      (({ u with vst := { u.vst with
        level := n, dwellVt := vt, idleVt := vt, descReq := false, upSeen := modAt u.vst.upSeen n fun _ => 0, esc := none } } :
        State).applyPower none (0, 0) vt).flightEntry)) ∧
  (∀ (s : State) (id vt : Nat) (xs : List (Int × Bool)) (b : MicArrayBody), s.por = false → b.part ≠ 0xFF →
    s.arrays.find? (fun (e : Nat × MicArrayBody) => e.1 == id) = some (id, b) →
    (s.vst.blocks.find? (fun (e : Nat × List (Int × Bool)) => e.1 == id) = none → exec (.micBlockWrite id vt) s = .next (s.whole fun _ => s.atVt vt)) ∧
    (s.vst.blocks.find? (fun (e : Nat × List (Int × Bool)) => e.1 == id) = some (id, xs) →
      let u := { s.atVt vt with vst := { s.vst with blocks := s.vst.blocks.filter fun (e : Nat × List (Int × Bool)) => e.1 != id } }
      (b.blocks ≤ s.a.cell b.cell ∨ (s.a.gal b.gallery).st ≠ .run → exec (.micBlockWrite id vt) s = .next (s.whole fun _ =>
        { u with vst := { u.vst with blockDrops := inc16 u.vst.blockDrops } })) ∧
      (s.a.cell b.cell < b.blocks → (s.a.gal b.gallery).st = .run → exec (.micBlockWrite id vt) s = .next (s.whole fun _ =>
        let v := u.onHall .a fun H => ((H.writeAt (.gal b.gallery) (b.streamAddr + tget s.vst.micK id % b.blocks * b.blockBytes)
          (s.micBlock b xs)).signal 0 b.cell 1).after 0
        { v with vst := { v.vst with micK := tset v.vst.micK id (tget s.vst.micK id + 1) } }))))

/-- In a hall with an image whose camera units work (R426), on a declared channel: FRAME_START closes the camera's open frame and opens the next,
or, less than nine tenths of FRAME_US after the last, counts in EARLY and drops it; LINE_PACKET of the image type with a sound CRC and full width
joins the open frame; embedded data joins up to 64 bytes; a header corrected counts in HDR_CORR and marks the open frames; FRAME_END closes the
frames of its channel; FRAME_TIMEOUT closes those past TIMEOUT_US and leaves the others; an ignored short packet changes ACTIVE alone; an
uncorrectable header, an undeclared type or channel and a sync error count in their registers. In a hall whose units do not work nothing happens.
(Rests on 13_camera_ingest_isp (R413), 13_camera_ingest_isp (R416), 13_camera_ingest_isp (R417), 13_camera_ingest_isp (R419), 13_camera_ingest_isp
(R421), 13_camera_ingest_isp (R426).) -/
def Obligations.CameraFramesAndFaults : Prop :=
  (∀ (s : State) (h : HallId) (p vc num us q tb : Nat) (hc : Bool) (im : Image) (e : Nat × CameraBody × PipeBody), s.camerasOn h = true →
    (s.hall h).image = some im → im.feedOn h.idx p vc = none → (s.hall h).vcDeclared h.idx p vc = true →
    (((s.hall h).rxActive h.idx p vc).header h.idx p vc hc).camsOn h.idx p vc = [e] →
    exec (.frameStart h p ⟨vc, hc⟩ num us q tb) s = .next (s.whole fun _ => s.onHall h fun H =>
      (((H.rxActive h.idx p vc).header h.idx p vc hc).frameStartAt h.idx e num us q).after h.idx)) ∧
  (∀ (H : Hall) (h p vc : Nat), H.header h p vc false = H ∧
    H.header h p vc true = (H.onRx p fun (P : RxPort) => { P with hdrCorr := inc8 P.hdrCorr }).vcFault h p vc 16 4) ∧
  (∀ (H : Hall) (h num us q : Nat) (e : Nat × CameraBody × PipeBody) (c : Camera), H.openFrame e.1 = none → H.camera e.1 = some c →
    (∀ t, c.lastUs = some t → 10 * (us - t) < 9 * e.2.1.frameUs → H.frameStartAt h e num us q =
      ((H.onRx e.2.1.port fun (P : RxPort) => { P with early := min 15 (P.early + 1) }).onCamera e.1 fun (c : Camera) =>
        { c with dropping := true }).rxLog e.2.1.port 0xC) ∧
    (c.lastUs = none → (H.rx e.2.1.port).accepting = true → (H.rx e.2.1.port).width ≠ 0 →
      H.frameStartAt h e num us q = H.openAt e c num us q)) ∧
  (∀ (s : State) (h : HallId) (p vc dt : Nat) (px : List Nat) (ok hc : Bool) (e : Nat × CameraBody × PipeBody), s.camerasOn h = true →
    (s.hall h).image.isSome = true →
    ((((s.hall h).rxActive h.idx p vc).header h.idx p vc hc).camsOn h.idx p vc).filter (fun (e : Nat × CameraBody × PipeBody) => e.2.1.dt == dt) = [e] →
    exec (.linePacket h p vc dt px ok hc) s = .next (s.whole fun _ => s.onHall h fun H =>
      (((H.rxActive h.idx p vc).header h.idx p vc hc).lineAt h.idx e px ok).after h.idx)) ∧
  (∀ (H : Hall) (h : Nat) (px : List Nat) (e : Nat × CameraBody × PipeBody) (c : Camera) (f : RxFrame), H.camera e.1 = some c → c.cur = some f →
    f.lines.length ≠ e.2.1.writeLine → f.lines.length ≠ e.2.1.deadlineLine → f.lines.length < e.2.1.height → px.length = e.2.1.width →
    e.2.2.mode ≠ 0 → H.lineAt h e px true = H.onOpen e.1 fun (f : RxFrame) => { f with lines := f.lines ++ [px] }) ∧
  (∀ (s : State) (h : HallId) (p vc dt : Nat) (bs : List Byte) (hc : Bool) (e : Nat × CameraBody × PipeBody) (f : RxFrame), s.camerasOn h = true →
    (s.hall h).image.isSome = true →
    ((((s.hall h).rxActive h.idx p vc).header h.idx p vc hc).camsOn h.idx p vc).filter
      (fun (e : Nat × CameraBody × PipeBody) => e.2.1.embDt == dt && dt != 0) = [e] →
    (((s.hall h).rxActive h.idx p vc).header h.idx p vc hc).openFrame e.1 = some f →
    exec (.embeddedDataPacket h p ⟨vc, hc⟩ dt ⟨bs, true⟩) s = .next (s.whole fun _ => s.onHall h fun H =>
      ((H.rxActive h.idx p vc).header h.idx p vc hc).onOpen e.1 fun (f : RxFrame) => { f with emb := (f.emb ++ bs).take 64 })) ∧
  (∀ (s : State) (h : HallId) (p vc dt : Nat), s.camerasOn h = true → (s.hall h).image.isSome = true → dt < 64 →
    exec (.ignoredShortPacket h p ⟨vc, false⟩ dt) s = .next (s.whole fun _ => s.onHall h fun H =>
      if H.vcDeclared h.idx p vc then H.onRx p fun (P : RxPort) => { P with active := true, activeTb := H.swp.clk.1 } else H)) ∧
  (∀ (s : State) (h : HallId) (p vc : Nat) (b : BitVec 4), s.camerasOn h = true → (s.hall h).image.isSome = true →
    ((s.hall h).rxActive h.idx p vc).vcDeclared h.idx p vc = true →
    exec (.frameEnd h p ⟨vc, false⟩ b) s = .next (s.whole fun _ => s.onHall h fun H =>
      let H2 := ((((H.rxActive h.idx p vc).onRx p fun (P : RxPort) => { P with feedOpen := P.feedOpen.filter (· != vc) }).judgeSot h.idx p).judgeBursts
        h.idx p b)
      ((((H2.camsOn h.idx p vc).foldl (fun (H : Hall) e => (H.closeFrame h.idx e false).onCamera e.1 fun (c : Camera) =>
        { c with dropping := false }) H2)).nextSot p).after h.idx)) ∧
  (∀ (s : State) (h : HallId) (p vc us : Nat), s.camerasOn h = true →
    let late := ((s.hall h).camsOn h.idx p vc).filter fun (e : Nat × CameraBody × PipeBody) =>
      match (s.hall h).openFrame e.1 with | some f => decide (f.us + e.2.1.timeoutUs ≤ us) | none => false
    (late = [] → exec (.frameTimeout h p vc us) s = .next (s.whole fun _ => s)) ∧
    (∀ e, late = [e] → exec (.frameTimeout h p vc us) s = .next (s.whole fun _ => s.onHall h fun H =>
      ((((H.judgeSot h.idx p).closeFrame h.idx e true).nextSot p).after h.idx)))) ∧
  (∀ (s : State) (h : HallId) (p vc : Nat), s.camerasOn h = true → (s.hall h).image.isSome = true →
    exec (.headerUncorrectable h p vc) s = .next (s.whole fun _ => s.onHall h fun H =>
      (H.onRx p fun (P : RxPort) => { P with hdrUncorr := inc8 P.hdrUncorr }).vcFault h.idx p vc 6 4)) ∧
  (∀ (s : State) (h : HallId) (p vc dt : Nat), s.camerasOn h = true → (s.hall h).image.isSome = true → (s.hall h).vcDeclared h.idx p vc = false →
    (s.hall h).dtDeclared h.idx p vc dt = false →
    exec (.undeclaredPacket h p ⟨vc, false⟩ dt) s = .next (s.whole fun _ => s.onHall h fun H =>
      (H.onRx p fun (P : RxPort) => { P with badVc := inc8 P.badVc }).rxLog p 8)) ∧
  (∀ (s : State) (h : HallId) (p l : Nat), s.camerasOn h = true → (s.hall h).image.isSome = true → ((s.hall h).rx p).sotCur.getD l 0 ≠ 0 →
    exec (.sotError h p l) s = .next (s.whole fun _ => s.onHall h fun H =>
      (H.onRx p fun (P : RxPort) => { P with sot := modAt P.sot l inc8, sotCur := modAt P.sotCur l (· + 1) }).judgeSot h.idx p)) ∧
  (∀ (s : State) (h : HallId) (p vc : Nat) (b : BitVec 4), s.por = false → s.camerasOn h = false → exec (.frameEnd h p ⟨vc, false⟩ b) s = .next (s.whole fun _ => s))

/-- In a hall whose camera units work: with a piece in progress ISP_PIECE_START does nothing, and without a ready one it does nothing; with one
context ready alone it takes its piece and counts its cycles; ISP_PIECE_DONE ends the piece, and one that is a frame's last, of one output and no
statistics, writes its rows, delivers the frame and counts it. An acknowledged sensor write takes one off its record, and the last completes the
record and counts; a refused one counts in NACKS and is tried once more, and the second abandons the record. A stuck I2C bus counts a reset and
abandons its record. A parameter copy makes the shadow bank complete. The end of a port's degrade writes makes it accept frames again. (Rests on
13_camera_ingest_isp (R422), 13_camera_ingest_isp (R426), 13_camera_ingest_isp (R433), 13_camera_ingest_isp (R439), 13_camera_ingest_isp (R440).) -/
def Obligations.IspPiecesAndSensorBuses : Prop :=
  (∀ (s : State) (h : HallId), s.camerasOn h = true →
    ((s.hall h).cam.piece.isSome = true → exec (.ispPieceStart h) s = .next (s.whole fun _ => s)) ∧
    (∀ (n : Nat) (e : Nat × CameraBody × PipeBody) (f : RxFrame), (s.hall h).cam.piece = none → n < 32 → e.2.2.ctx = n → (s.hall h).ctxCamera h.idx n = some e →
      (s.hall h).pieceReady e = true → (∀ m e', m ≠ n → (s.hall h).ctxCamera h.idx m = some e' → (s.hall h).pieceReady e' = false) → (s.hall h).ispFrame n e.1 = some f →
      (s.hall h).cam.lastCtx = some n → exec (.ispPieceStart h) s = .next (s.whole fun _ => s.onHall h fun H =>
        let cycles := min e.2.2.stripeLines (e.2.1.height - e.2.2.stripeLines * f.pieces) * cdiv e.2.1.width 4
        (({ H with cam := { H.cam with piece := some n, lastCtx := some n, busy := H.cam.busy + cycles } } : Hall).count 1623 cycles).count 1624 0)) ∧
    (∀ tb, (s.hall h).cam.piece = none → exec (.ispPieceDone h tb) s = .next (s.whole fun _ => s.onHall h fun H => H.after h.idx)) ∧
    (∀ tb n e, (s.hall h).cam.piece = some n → (s.hall h).ctxCamera h.idx n = some e → (s.hall h).ispFrame e.2.2.ctx e.1 = none →
      exec (.ispPieceDone h tb) s = .next (s.whole fun _ => s.onHall h fun H =>
        ({ H with cam := { H.cam with piece := none } } : Hall).after h.idx)) ∧
    (∀ tb n e f, (s.hall h).cam.piece = some n → (s.hall h).ctxCamera h.idx n = some e → (s.hall h).ispFrame e.2.2.ctx e.1 = some f → f.out0 = true → f.out1 = false →
      e.2.2.statsAddr = 0xFFFFFFFF → e.2.1.height ≤ e.2.2.stripeLines * (f.pieces + 1) →
      exec (.ispPieceDone h tb) s = .next (s.whole fun _ => s.onHall h fun H =>
        let p := e.2.2
        let lim := p.stripeLines * (f.pieces + 1)
        let set := f.params.getD defaultSet
        let r5 := stage5 set p.bits p.mosaic e.2.1.width e.2.1.height (f.rows e.2.1 (lim + 4))
        let k := (((f.fsSweep * 4096 + f.fsTick) * 2 ^ 32 + f.frame) * 32 + p.ctx) * 2 + h.idx
        let H1 := ({ H with cam := { H.cam with piece := none } } : Hall).outPiece h.idx p.out0 f (pieceRows k p.bits p.mosaic p.out0
          (p.stripeLines * f.pieces) lim true (formatAt k set p.bits p.mosaic p.out0.fmt r5 (irRemove set p.mosaic r5)))
        let H2 := H1.onIsp p.ctx fun (x : IspCtx) => { x with frames := x.frames.drop 1 }
        (((((H2.deliver h.idx p.out0 f e.1 (H2.rx e.2.1.port).width).count (1607 + e.2.1.port) 1).count (1615 + e.2.1.port)
          (b2n (f.flags != 0)))).after h.idx).after h.idx))) ∧
  (∀ (s : State) (h : HallId) (n id : Nat) (r : SetRec), s.camerasOn h = true → (s.hall h).busRec h.idx n = some (id, r) →
    (1 < r.left → exec (.sensorWriteDone h n true) s = .next (s.whole fun _ => s.onHall h fun H =>
      H.onBusRec id r fun (x : SetRec) => { x with left := x.left - 1, retried := false, sent := x.left == 1 })) ∧
    (r.left = 1 → exec (.sensorWriteDone h n true) s = .next (s.whole fun _ => s.onHall h fun H =>
      let H1 := H.onBusRec id r fun (x : SetRec) => { x with left := x.left - 1, retried := false, sent := x.left == 1 }
      (H1.snsCount (H.camCtx h.idx id) 0).busStart h.idx n)) ∧
    (r.retried = false → exec (.sensorWriteDone h n false) s = .next (s.whole fun _ => s.onHall h fun H =>
      ({ H with cam := { H.cam with nacks := modAt H.cam.nacks n inc16 } } : Hall).onBusRec id r fun (x : SetRec) => { x with retried := true })) ∧
    (r.retried = true → exec (.sensorWriteDone h n false) s = .next (s.whole fun _ => s.onHall h fun H =>
      ({ H with cam := { H.cam with nacks := modAt H.cam.nacks n inc16 } } : Hall).abandonRec h.idx n id r)) ∧
    (∀ b p, (s.hall h).camEntry h.idx id = some (b, p) → b.bus < 2 → exec (.sensorBusTimeout h n) s = .next (s.whole fun _ => s.onHall h fun H =>
      ({ H with cam := { H.cam with busResets := modAt H.cam.busResets n inc8 } } : Hall).abandonRec h.idx n id r))) ∧
  (∀ (s : State) (h : HallId) (n : Nat), s.camerasOn h = true →
    exec (.paramCopyDone h n) s = .next (s.whole fun _ => s.onHall h fun H => H.onIsp n fun (x : IspCtx) =>
      if x.shadow.isSome then { x with shadowOk := true } else x)) ∧
  (∀ (s : State) (h : HallId) (p : Nat), s.camerasOn h = true → ((s.hall h).rx p).narrowing = true → 
    (∀ e ∈ (s.hall h).camsOnPort h.idx p, ∀ c, (s.hall h).camera e.1 = some c → ∀ r ∈ c.recs, r.degrade = true → r.failed = true ∨ r.left = 0) →
    exec (.degradeWritesDone h p) s = .next (s.whole fun _ => s.onHall h fun H => H.onRx p fun (P : RxPort) =>
      { P with narrowing := false, accepting := true }))

/-- GALLERY_DRAIN_DONE of a gallery that has drained clears its drain; the last of a lowering powers the domains off, once a hall that leaves HALL
has no transmit frame open. ENTRY_WINDOW_END of a lowering that nothing aborts makes the state the one aimed at. POWER_RISE_DONE of a row whose
power-good has not come changes nothing of it. POWER_GOOD_TIMEOUT ends the rise at the state reached, its new galleries off, and counts the abort.
VOLTAGE_RAMP_DONE lets the clocks switch at the next tick. THERMAL_STEP_DOWN and UP move the cap one step where the temperature says so;
THERMAL_TRIP powers off and fences every gallery and sets TRIP. PACKAGE_POWER_WINDOW rounds the mean down to 2 W. Refuser and reason codes of an
abort are the model's reading, named in NOTES.md. (Rests on 17_power_states (R558), 17_power_states (R560), 17_power_states (R561), 17_power_states
(R567), 17_power_states (R568), 17_power_states (R569), 17_power_states (R570), 17_power_states (R571), 15_tenancy_and_keys (R517).) -/
def Obligations.PowerLowersRisesAndTemperature : Prop :=
  (∀ (s : State) (h : HallId) (g : Nat) (l : Lowering), s.por = false → s.pkg.lower = some l → l.abort = none →
    (s.hall h).pwr.drains.getLsbD g = true → (s.hall h).drainStalled g = false → (s.hall h).drained g = true →
    let u := s.onHall h fun H => { H with pwr := { H.pwr with drains := H.pwr.drains &&& ~~~(BitVec.ofNat 8 (2 ^ g)) } }
    (u.a.pwr.drains ≠ 0 ∨ u.b.pwr.drains ≠ 0 → exec (.galleryDrainDone h g) s = .next (s.whole fun _ => u)) ∧
    (u.a.pwr.drains = 0 → u.b.pwr.drains = 0 → exec (.galleryDrainDone h g) s = .next (s.whole fun _ => u.drainsOver l))) ∧
  (∀ (s : State) (l : Lowering),
    (s.leaves l .a = false → s.leaves l .b = false → s.drainsOver l = s.lowerOff l) ∧
    (s.leaves l .a = true → s.leaves l .b = false →
      let u := { s with a := { s.a with pwr := { s.a.pwr with txStop := true } } }
      ((s.a.streams.any fun (x : TxStream) => x.sending.isSome) = true → s.drainsOver l = u) ∧
      ((s.a.streams.any fun (x : TxStream) => x.sending.isSome) = false → s.drainsOver l = u.lowerOff l))) ∧
  (∀ (s : State) (vt : Nat) (l : Lowering), s.por = false → s.pkg.lower = some l → l.window = true → l.abort = none →
    exec (.entryWindowEnd vt) s = .next (s.whole fun _ =>
      let u := (({ s.atVt vt with pkg := { (s.atVt vt).pkg with state := l.toState } } : State).setEnables l.toState none).setEntry false
      ({ u with pkg := { u.pkg with lower := none } } : State).applyPower none (0, 0) vt)) ∧
  (∀ (s : State) (vt : Nat), s.por = false → s.vst.fresh = [false, false] → s.pkg.rise = none ∨ s.pkg.pg.getD 0 false = false →
    exec (.powerRiseDone vt) s = .next (s.whole fun _ => (s.atVt vt).flightEntry)) ∧
  (∀ (s : State) (vt : Nat) (r : Rise), s.por = false → s.pkg.rise = some r → s.pkg.pg = [true, true] → r.toState = r.goal →
    exec (.powerRiseDone vt) s = .next (s.whole fun _ =>
      let u := (s.atVt vt).raiseDomains r.toState
      let v := (u.onHall .a fun H => H.releaseGals (maskOff r.galA.toNat s.a.pwr.galOn.val.toNat)).onHall .b fun H =>
        H.releaseGals (maskOff r.galB.toNat s.b.pwr.galOn.val.toNat)
      ((((({ v with pkg := { v.pkg with state := max v.pkg.state r.toState, rise := none } } : State).setEntry false).applyPower none (0, 0)
        vt).coldWake s).flightEntry))) ∧
  (∀ (s : State) (h : HallId) (r : Rise), s.por = false → s.pkg.rise = some r → s.pkg.pg.getD h.idx false = false →
    exec (.powerGoodTimeout h) s = .next (s.whole fun _ =>
      let off := fun (gs : List Nat) (H : Hall) => gs.foldl (fun (H : Hall) g => H.onGal g fun G => { G with st := .off }) H
      let u := (s.onHall .a (off (maskOff r.galA.toNat s.a.pwr.galOn.val.toNat))).onHall .b (off (maskOff r.galB.toNat s.b.pwr.galOn.val.toNat))
      ((({ u with pkg := { u.pkg with rise := none } } : State).setEnables u.pkg.state none).setEntry false).refuse h 0 r.toState 6 6)) ∧
  (∀ (s : State) (h : HallId) (t : Nat), s.por = false → (s.hall h).dev.up = true → (s.hall h).pwr.ramp = some t →
    exec (.voltageRampDone h) s = .next (s.whole fun _ => s.onHall h fun H => { H with pwr := { H.pwr with opSwitch := some t, ramp := none } })) ∧
  (∀ (s : State) (h : HallId) (t : Int), s.por = false → (s.hall h).dev.up = true →
    (110 ≤ t → exec (.thermalStepDown h t) s = .next (s.whole fun _ => s.onHall h fun H =>
      ({ H with pwr := { H.pwr with cap := H.pwr.cap - 1, temp := max (-128) (min 127 t) } } : Hall).opSettle)) ∧
    (t < 105 → exec (.thermalStepUp h t) s = .next (s.whole fun _ => s.onHall h fun H =>
      ({ H with pwr := { H.pwr with cap := min 3 (H.pwr.cap + 1), temp := max (-128) (min 127 t) } } : Hall).opSettle)) ∧
    (105 ≤ t → exec (.thermalStepUp h t) s = .next (s.whole fun _ => s)) ∧ (t < 125 → exec (.thermalTrip h t) s = .next (s.whole fun _ => s)) ∧
    (125 ≤ t → exec (.thermalTrip h t) s = .next (s.whole fun _ => s.thermalTrip h t))) ∧
  (∀ (s : State) (h : HallId) (t : Int) (g : Nat), (s.hall h).gals.length = 8 → g < 8 →
    let G := ((s.thermalTrip h t).hall h).gal g
    G.st = .off ∧ G.fence.val = 0xFFF ∧ G.galFence = true ∧ (∀ n ∈ G.strikes, n = 3) ∧ ((s.thermalTrip h t).hall h).pwr.trip = true) ∧
  (∀ (s : State) (mw : Nat), s.por = false → mw < 1024000 →
    Gives (.packagePowerWindow mw) s fun t => 1000 * t.pkg.watts ≤ mw ∧ mw < 1000 * t.pkg.watts + 2000 ∧ t.pkg.watts % 2 = 0)

/-- A debounced pin that becomes active outside an entry window is marked active and gives a wake, as a level pin still active does again; inside
the window neither samples. A wake of an enabled pin that is not stuck: its time is kept; the seventeenth within a second marks the pin stuck with
an entry of the event log; else it goes to the Vestibule where Hall A's image has a CASCADE section, and adds PIN_n's configuration to the requests
elsewhere. A disabled or stuck pin gives none. A pin becomes inactive with its time; a stuck pin inactive for one second loses its mark. (Rests on
17_power_states (R560), 17_power_states (R562), 17_power_states (R563), 17_power_states (R564), 17_power_states (R565).) -/
def Obligations.WakePinsGiveWakes : Prop :=
  (∀ (s : State) (n vt : Nat), s.por = false → n < 8 → (∀ l, s.pkg.lower = some l → l.window = false) →
    (s.pkg.active.getLsbD n = false → exec (.wakePinAccept n vt) s = .next (s.whole fun _ =>
      ({ s.atVt vt with pkg := { (s.atVt vt).pkg with active := s.pkg.active ||| BitVec.ofNat 8 (2 ^ n) } } : State).pinWake n vt)) ∧
    (s.pkg.active.getLsbD n = true → bit (s.pin n).flags 1 = true → exec (.levelWakeRepeat n vt) s = .next (s.whole fun _ => (s.atVt vt).pinWake n vt)) ∧
    (s.pkg.active.getLsbD n = true → exec (.wakePinInactive n vt) s = .next (s.whole fun _ =>
      { s.atVt vt with pkg := { (s.atVt vt).pkg with
        active := s.pkg.active &&& ~~~(BitVec.ofNat 8 (2 ^ n)), inactive := modAt s.pkg.inactive n fun _ => vt } }))) ∧
  (∀ (s : State) (n vt : Nat) (l : Lowering), s.por = false → s.pkg.lower = some l → l.window = true →
    exec (.wakePinAccept n vt) s = .next (s.whole fun _ => s.atVt vt) ∧ exec (.levelWakeRepeat n vt) s = .next (s.whole fun _ => s.atVt vt) ∧
    exec (.wakePinInactive n vt) s = .next (s.whole fun _ => s.atVt vt)) ∧
  (∀ (s : State) (n vt : Nat), s.por = false → n < 8 → s.pkg.active.getLsbD n = false →
    (s.pkg.inactive.getD n 0 + 32768 ≤ vt → exec (.wakeStuckClear n vt) s = .next (s.whole fun _ =>
      { s.atVt vt with pkg := { (s.atVt vt).pkg with
        stuck := s.pkg.stuck &&& ~~~(BitVec.ofNat 8 (2 ^ n)), times := modAt s.pkg.times n fun _ => [] } })) ∧
    (vt < s.pkg.inactive.getD n 0 + 32768 → exec (.wakeStuckClear n vt) s = .next (s.whole fun _ => s.atVt vt))) ∧
  (∀ (s : State) (n vt : Nat), n < 8 → s.pkg.wakeEn.getLsbD n = false ∨ s.pkg.stuck.getLsbD n = true → s.pinWake n vt = s) ∧
  (∀ (s : State) (n vt : Nat), n < 8 → s.pkg.wakeEn.getLsbD n = true → s.pkg.stuck.getLsbD n = false →
    let u := { s with pkg := { s.pkg with times := modAt s.pkg.times n fun _ => (vt :: s.pkg.times.getD n []).take 17 } }
    (∀ t, (s.pkg.times.getD n [])[15]? = some t → vt ≤ t + 32768 → s.pinWake n vt =
      ({ u with pkg := { u.pkg with stuck := u.pkg.stuck ||| BitVec.ofNat 8 (2 ^ n) } } : State).log .a 0x0302 0 n) ∧
    ((s.pkg.times.getD n [])[15]? = none →
      ((s.a.image.bind fun im => im.cascade).isSome = true → s.pinWake n vt = { u with vst := { u.vst with pinWakes := u.vst.pinWakes ++ [n] } }) ∧
      ((s.a.image.bind fun im => im.cascade) = none → (s.pin n).config = 0xFF → s.pinWake n vt = u) ∧
      ((s.a.image.bind fun im => im.cascade) = none → (s.pin n).config ≠ 0xFF → s.pinWake n vt =
        ({ u with pkg := { u.pkg with pinReqs := u.pkg.pinReqs.filter (fun (r : Nat × Nat) => r.1 != n) ++ [(n, (s.pin n).config)] } } :
          State).applyPower (some (1, n)) (4, 4) vt)))
end

