-- ==== Sys2Proof/Laws/Bare.lean ====
section
/-! SUPPORT. What `State.whole` changes beside the effect it is given (R468, R541): the event log, the fault pins, the events held. -/

namespace Sys2Proof.Machine

/-! ### Halls and ports of an updated package -/

@[simp] theorem State.onHall_id (s : State) (h : HallId) : s.onHall h (fun H => H) = s := by cases h <;> rfl

@[simp] theorem State.hall_onHall (s : State) (h : HallId) (f : Hall → Hall) : (s.onHall h f).hall h = f (s.hall h) := by cases h <;> rfl

theorem State.hall_onHall_ne (s : State) {h k : HallId} (f : Hall → Hall) (e : k ≠ h) : (s.onHall h f).hall k = s.hall k := by
  cases h <;> cases k <;> first | rfl | exact absurd rfl e

@[simp] theorem State.onHall_onHall (s : State) (h : HallId) (f g : Hall → Hall) :
    (s.onHall h f).onHall h g = s.onHall h fun H => g (f H) := by cases h <;> rfl

@[simp] theorem State.onHall_por (s : State) (h : HallId) (f : Hall → Hall) : (s.onHall h f).por = s.por := by cases h <;> rfl
@[simp] theorem State.onHall_pkg (s : State) (h : HallId) (f : Hall → Hall) : (s.onHall h f).pkg = s.pkg := by cases h <;> rfl
@[simp] theorem State.onHall_vst (s : State) (h : HallId) (f : Hall → Hall) : (s.onHall h f).vst = s.vst := by cases h <;> rfl
@[simp] theorem State.onHall_straps (s : State) (h : HallId) (f : Hall → Hall) : (s.onHall h f).straps = s.straps := by cases h <;> rfl
@[simp] theorem State.onHall_free (s : State) (h : HallId) (f : Hall → Hall) : (s.onHall h f).free = s.free := by cases h <;> rfl
@[simp] theorem State.onHall_jtag (s : State) (h : HallId) (f : Hall → Hall) : (s.onHall h f).jtag = s.jtag := by cases h <;> rfl
@[simp] theorem State.onHall_pending (s : State) (h : HallId) (f : Hall → Hall) : (s.onHall h f).pending = s.pending := by cases h <;> rfl
@[simp] theorem State.onHall_epochs (s : State) (h : HallId) (f : Hall → Hall) : (s.onHall h f).epochs = s.epochs := by cases h <;> rfl
@[simp] theorem State.onHall_xspiResets (s : State) (h : HallId) (f : Hall → Hall) : (s.onHall h f).xspiResets = s.xspiResets := by
  cases h <;> rfl
@[simp] theorem State.onHall_imageSeen (s : State) (h : HallId) (f : Hall → Hall) : (s.onHall h f).imageSeen = s.imageSeen := by
  cases h <;> rfl

/-- A state with the fields of s but for its halls. -/
def State.withHalls (s : State) (A B : Hall) : State := { s with a := A, b := B }

theorem State.onHall_eq (s : State) (h : HallId) (f : Hall → Hall) :
    s.onHall h f = s.withHalls (if h = .a then f s.a else s.a) (if h = .b then f s.b else s.b) := by
  cases h <;> rfl

/-! ### Lists -/

theorem modAt_id {α : Type} (l : List α) (i : Nat) (f : α → α) (hf : ∀ a ∈ l, f a = a) : modAt l i f = l := by
  unfold modAt
  induction l generalizing i with
  | nil => cases i <;> rfl
  | cons a r ih =>
    cases i with
    | zero => simp [hf]
    | succ i => simp [ih i fun x hx => hf x (List.mem_cons_of_mem _ hx)]

theorem map_modAt {α β : Type} (g : α → β) (l : List α) (i : Nat) (f : α → α) (hf : ∀ a, g (f a) = g a) :
    (modAt l i f).map g = l.map g := by
  unfold modAt
  induction l generalizing i with
  | nil => cases i <;> rfl
  | cons a r ih =>
    cases i with
    | zero => simp [hf]
    | succ i => simp [ih i]

/-! ### What only settling changes -/

theorem State.bare_onHall (s : State) (h : HallId) (f : Hall → Hall) (hf : ∀ H, (f H).bare = H.bare) : (s.onHall h f).bare = s.bare := by
  cases h <;> simp [State.onHall, State.bare, hf]

theorem State.bare_onPort (s : State) (p : Nat) (f : Port → Port)
    (hf : ∀ P : Port, { f P with events := ([] : List Event), ibiLost := 0 } = { P with events := ([] : List Event), ibiLost := 0 }) :
    (s.onPort p f).bare = s.bare := by
  refine State.bare_onHall s _ _ fun H => ?_
  simp only [Hall.bare]
  congr 1
  exact map_modAt _ _ _ _ hf

theorem State.bare_event (s : State) (p : Nat) (e : Event) : (s.event p e).bare = s.bare := by
  refine State.bare_onPort s p _ fun P => ?_
  unfold Port.hold
  split <;> rfl

theorem State.bare_log (s : State) (h : HallId) (code u arg : Nat) : (s.log h code u arg).bare = s.bare :=
  State.bare_onHall s h _ fun _ => by simp only [Hall.addLog, Hall.bare]

theorem State.bare_deviceEvent (s : State) (h : HallId) (code arg : Nat) : (s.deviceEvent h code arg).bare = s.bare := by
  unfold State.deviceEvent
  simp only [List.foldl_cons, List.foldl_nil]
  split <;> split <;> simp only [State.bare_event]

theorem State.bare_setPin (s : State) (h : HallId) (v : Bool) : (s.setPin h v).bare = s.bare := by
  unfold State.setPin
  rw [State.bare_deviceEvent, State.bare_log]
  exact State.bare_onHall s h _ fun _ => rfl

theorem State.bare_pinCheck (s : State) (h : HallId) : (s.pinCheck h).bare = s.bare := by
  unfold State.pinCheck
  simp only []
  split
  · exact State.bare_setPin s h true
  · rfl

theorem State.bare_pins (s : State) : s.pins.bare = s.bare := by
  unfold State.pins
  rw [State.bare_pinCheck, State.bare_pinCheck]

theorem Hall.bare_sortLog (H : Hall) (n : Nat) : (H.sortLog n).bare = H.bare := by
  unfold Hall.sortLog
  simp only []
  split <;> rfl

theorem State.bare_inCycle (s : State) (f : State → State) : (s.inCycle f).bare = (f s).bare := by
  have h : ∀ (l : List Nat) (t : State),
      (l.foldl (fun (t : State) p => t.onPort p fun P => P.sortEvents (s.port p).events.length) t).bare = t.bare := by
    intro l
    induction l with
    | nil => intro t; rfl
    | cons p r ih =>
      intro t
      rw [List.foldl_cons, ih]
      exact State.bare_onPort t p _ fun _ => rfl
  unfold State.inCycle
  refine (h _ _).trans ?_
  simp only [State.bare, Hall.bare_sortLog]

/-! ### The cycles counted (R579) -/

theorem Hall.bare_count (H : Hall) (n k : Nat) : (H.count n k).bare = H.bare.count n k := by
  have e : H.bare.cnt = H.cnt := rfl
  unfold Hall.count
  rw [e]
  split <;> rfl

theorem Hall.uncounted_count (H : Hall) (n k : Nat) : (H.count n k).uncounted = H.uncounted := by
  unfold Hall.count
  split <;> rfl

theorem Hall.bare_tally (H old : Hall) (h : Nat) (far : Stair) : (H.tally old h far).bare = H.bare.tally old h far := by
  have hf : ∀ (l : List (Nat × Nat)) (dt : Nat) (H : Hall),
      (l.foldl (fun (H : Hall) e => if tget old.cnt.thresh e.1 < e.2 then H.count (1792 + e.1) dt else H) H).bare =
        l.foldl (fun (H : Hall) e => if tget old.cnt.thresh e.1 < e.2 then H.count (1792 + e.1) dt else H) H.bare := by
    intro l dt
    induction l with
    | nil => intro H; rfl
    | cons e r ih =>
      intro H
      rw [List.foldl_cons, List.foldl_cons, ih]
      split
      · rw [Hall.bare_count]
      · rfl
  have hn : H.bare.now = H.now := rfl
  unfold Hall.tally
  simp only [hn]
  split
  · rfl
  · split
    · rw [Hall.bare_count, hf]
    · exact hf _ _ _

/-- The cycles counted change counters alone. -/
theorem Hall.uncounted_tally (H old : Hall) (h : Nat) (far : Stair) : (H.tally old h far).uncounted = H.uncounted := by
  have hf : ∀ (l : List (Nat × Nat)) (dt : Nat) (H : Hall),
      (l.foldl (fun (H : Hall) e => if tget old.cnt.thresh e.1 < e.2 then H.count (1792 + e.1) dt else H) H).uncounted = H.uncounted := by
    intro l dt
    induction l with
    | nil => intro H; rfl
    | cons e r ih =>
      intro H
      rw [List.foldl_cons, ih]
      split
      · exact Hall.uncounted_count _ _ _
      · rfl
  unfold Hall.tally
  simp only []
  split
  · rfl
  · split
    · rw [Hall.uncounted_count, hf]
    · exact hf _ _ _

/-- Where no cycle has passed, there is none to count. -/
theorem Hall.tally_still (H old : Hall) (h : Nat) (far : Stair) (e : H.now ≤ old.now) : H.tally old h far = H := by
  unfold Hall.tally
  simp only [Nat.sub_eq_zero_of_le e, decide_true, Bool.true_or, if_true]

theorem State.uncounted_tallied (t s : State) : (t.tallied s).uncounted = t.uncounted := by
  simp only [State.tallied, State.uncounted, Hall.uncounted_tally]

theorem State.tallied_still (t s : State) (a : t.a.now ≤ s.a.now) (b : t.b.now ≤ s.b.now) : t.tallied s = t := by
  simp only [State.tallied, Hall.tally_still _ _ _ _ a, Hall.tally_still _ _ _ _ b]

theorem State.bare_tallied (t s : State) : (t.tallied s).bare = t.bare.tallied s := by
  simp only [State.tallied, State.bare, Hall.bare_tally]

/-- A command's effect but for what settling changes, with its cycles counted. -/
theorem State.bare_whole (s : State) (f : State → State) : (s.whole f).bare = ((f s).tallied s).bare := by
  unfold State.whole
  rw [State.bare_inCycle, State.bare_tallied, State.bare_tallied, State.bare_pins]

/-- The effect of a command that brings no array cycle, but for what settling changes. -/
theorem State.bare_whole_still (s : State) (f : State → State) (a : (f s).a.now ≤ s.a.now) (b : (f s).b.now ≤ s.b.now) :
    (s.whole f).bare = (f s).bare := by
  rw [State.bare_whole, State.tallied_still _ _ a b]

/-- A command's effect but for what settling and counting change. -/
theorem State.uncounted_whole (s : State) (f : State → State) : (s.whole f).uncounted = (f s).uncounted := by
  have e : ∀ t : State, t.uncounted = t.bare.uncounted := fun t => by
    simp only [State.uncounted, State.bare, Hall.uncounted, Hall.bare, List.map_map, Function.comp_def]
  rw [e, State.bare_whole, ← e, State.uncounted_tallied]

/-! ### Field by field -/

theorem State.uncounted_hall {s t : State} (e : s.uncounted = t.uncounted) (h : HallId) : (s.hall h).uncounted = (t.hall h).uncounted := by
  cases h
  · exact congrArg State.a e
  · exact congrArg State.b e

theorem State.bare_hall {s t : State} (e : s.bare = t.bare) (h : HallId) : (s.hall h).bare = (t.hall h).bare := by
  cases h
  · exact congrArg State.a e
  · exact congrArg State.b e

theorem State.uncounted_por (s : State) : s.uncounted.por = s.por := rfl
theorem State.uncounted_supply (s : State) : s.uncounted.supply = s.supply := rfl
theorem State.uncounted_straps (s : State) : s.uncounted.straps = s.straps := rfl
theorem State.uncounted_imageSeen (s : State) : s.uncounted.imageSeen = s.imageSeen := rfl
theorem State.uncounted_jtag (s : State) : s.uncounted.jtag = s.jtag := rfl
theorem State.uncounted_xspiResets (s : State) : s.uncounted.xspiResets = s.xspiResets := rfl
theorem State.uncounted_pkg (s : State) : s.uncounted.pkg = s.pkg := rfl
theorem State.uncounted_vst (s : State) : s.uncounted.vst = s.vst := rfl
theorem State.uncounted_epochs (s : State) : s.uncounted.epochs = s.epochs := rfl
theorem State.uncounted_free (s : State) : s.uncounted.free = s.free := rfl
theorem State.uncounted_pending (s : State) : s.uncounted.pending = s.pending := rfl

@[simp] theorem State.whole_por (s : State) (f : State → State) : (s.whole f).por = (f s).por :=
  (State.uncounted_por _).symm.trans ((congrArg State.por (s.uncounted_whole f)).trans (State.uncounted_por _))
@[simp] theorem State.whole_supply (s : State) (f : State → State) : (s.whole f).supply = (f s).supply :=
  (State.uncounted_supply _).symm.trans ((congrArg State.supply (s.uncounted_whole f)).trans (State.uncounted_supply _))
@[simp] theorem State.whole_straps (s : State) (f : State → State) : (s.whole f).straps = (f s).straps :=
  (State.uncounted_straps _).symm.trans ((congrArg State.straps (s.uncounted_whole f)).trans (State.uncounted_straps _))
@[simp] theorem State.whole_imageSeen (s : State) (f : State → State) : (s.whole f).imageSeen = (f s).imageSeen :=
  (State.uncounted_imageSeen _).symm.trans ((congrArg State.imageSeen (s.uncounted_whole f)).trans (State.uncounted_imageSeen _))
@[simp] theorem State.whole_jtag (s : State) (f : State → State) : (s.whole f).jtag = (f s).jtag :=
  (State.uncounted_jtag _).symm.trans ((congrArg State.jtag (s.uncounted_whole f)).trans (State.uncounted_jtag _))
@[simp] theorem State.whole_xspiResets (s : State) (f : State → State) : (s.whole f).xspiResets = (f s).xspiResets :=
  (State.uncounted_xspiResets _).symm.trans ((congrArg State.xspiResets (s.uncounted_whole f)).trans (State.uncounted_xspiResets _))
@[simp] theorem State.whole_pkg (s : State) (f : State → State) : (s.whole f).pkg = (f s).pkg :=
  (State.uncounted_pkg _).symm.trans ((congrArg State.pkg (s.uncounted_whole f)).trans (State.uncounted_pkg _))
@[simp] theorem State.whole_vst (s : State) (f : State → State) : (s.whole f).vst = (f s).vst :=
  (State.uncounted_vst _).symm.trans ((congrArg State.vst (s.uncounted_whole f)).trans (State.uncounted_vst _))
@[simp] theorem State.whole_epochs (s : State) (f : State → State) : (s.whole f).epochs = (f s).epochs :=
  (State.uncounted_epochs _).symm.trans ((congrArg State.epochs (s.uncounted_whole f)).trans (State.uncounted_epochs _))
@[simp] theorem State.whole_free (s : State) (f : State → State) : (s.whole f).free = (f s).free :=
  (State.uncounted_free _).symm.trans ((congrArg State.free (s.uncounted_whole f)).trans (State.uncounted_free _))
@[simp] theorem State.whole_pending (s : State) (f : State → State) : (s.whole f).pending = (f s).pending :=
  (State.uncounted_pending _).symm.trans ((congrArg State.pending (s.uncounted_whole f)).trans (State.uncounted_pending _))

theorem State.whole_hall (s : State) (f : State → State) (h : HallId) : ((s.whole f).hall h).uncounted = ((f s).hall h).uncounted :=
  State.uncounted_hall (s.uncounted_whole f) h

@[simp] theorem State.whole_hall_keyArray (s : State) (f : State → State) (h : HallId) : ((s.whole f).hall h).keyArray = ((f s).hall h).keyArray :=
  (congrArg Hall.keyArray (s.whole_hall f h) :)
@[simp] theorem State.whole_hall_swp (s : State) (f : State → State) (h : HallId) : ((s.whole f).hall h).swp = ((f s).hall h).swp :=
  (congrArg Hall.swp (s.whole_hall f h) :)
@[simp] theorem State.whole_hall_pwr (s : State) (f : State → State) (h : HallId) : ((s.whole f).hall h).pwr = ((f s).hall h).pwr :=
  (congrArg Hall.pwr (s.whole_hall f h) :)
@[simp] theorem State.whole_hall_sec (s : State) (f : State → State) (h : HallId) : ((s.whole f).hall h).sec = ((f s).hall h).sec :=
  (congrArg Hall.sec (s.whole_hall f h) :)
@[simp] theorem State.whole_hall_mem (s : State) (f : State → State) (h : HallId) : ((s.whole f).hall h).mem = ((f s).hall h).mem :=
  (congrArg Hall.mem (s.whole_hall f h) :)
@[simp] theorem State.whole_hall_cam (s : State) (f : State → State) (h : HallId) : ((s.whole f).hall h).cam = ((f s).hall h).cam :=
  (congrArg Hall.cam (s.whole_hall f h) :)
@[simp] theorem State.whole_hall_tx (s : State) (f : State → State) (h : HallId) : ((s.whole f).hall h).tx = ((f s).hall h).tx :=
  (congrArg Hall.tx (s.whole_hall f h) :)
@[simp] theorem State.whole_hall_streams (s : State) (f : State → State) (h : HallId) : ((s.whole f).hall h).streams = ((f s).hall h).streams :=
  (congrArg Hall.streams (s.whole_hall f h) :)
@[simp] theorem State.whole_hall_feedErr (s : State) (f : State → State) (h : HallId) : ((s.whole f).hall h).feedErr = ((f s).hall h).feedErr :=
  (congrArg Hall.feedErr (s.whole_hall f h) :)
@[simp] theorem State.whole_hall_feeds (s : State) (f : State → State) (h : HallId) : ((s.whole f).hall h).feeds = ((f s).hall h).feeds :=
  (congrArg Hall.feeds (s.whole_hall f h) :)
@[simp] theorem State.whole_hall_rings (s : State) (f : State → State) (h : HallId) : ((s.whole f).hall h).rings = ((f s).hall h).rings :=
  (congrArg Hall.rings (s.whole_hall f h) :)
@[simp] theorem State.whole_hall_stair (s : State) (f : State → State) (h : HallId) : ((s.whole f).hall h).stair = ((f s).hall h).stair :=
  (congrArg Hall.stair (s.whole_hall f h) :)
@[simp] theorem State.whole_hall_gals (s : State) (f : State → State) (h : HallId) : ((s.whole f).hall h).gals = ((f s).hall h).gals :=
  (congrArg Hall.gals (s.whole_hall f h) :)
@[simp] theorem State.whole_hall_cores (s : State) (f : State → State) (h : HallId) : ((s.whole f).hall h).cores = ((f s).hall h).cores :=
  (congrArg Hall.cores (s.whole_hall f h) :)
@[simp] theorem State.whole_hall_ctxs (s : State) (f : State → State) (h : HallId) : ((s.whole f).hall h).ctxs = ((f s).hall h).ctxs :=
  (congrArg Hall.ctxs (s.whole_hall f h) :)
@[simp] theorem State.whole_hall_serial (s : State) (f : State → State) (h : HallId) : ((s.whole f).hall h).serial = ((f s).hall h).serial :=
  (congrArg Hall.serial (s.whole_hall f h) :)
@[simp] theorem State.whole_hall_dev_up (s : State) (f : State → State) (h : HallId) : ((s.whole f).hall h).dev.up = ((f s).hall h).dev.up :=
  (congrArg (fun H : Hall => H.dev.up) (s.whole_hall f h) :)
@[simp] theorem State.whole_hall_dev_stage (s : State) (f : State → State) (h : HallId) : ((s.whole f).hall h).dev.stage = ((f s).hall h).dev.stage :=
  (congrArg (fun H : Hall => H.dev.stage) (s.whole_hall f h) :)
@[simp] theorem State.whole_hall_dev_fwSource (s : State) (f : State → State) (h : HallId) : ((s.whole f).hall h).dev.fwSource = ((f s).hall h).dev.fwSource :=
  (congrArg (fun H : Hall => H.dev.fwSource) (s.whole_hall f h) :)
@[simp] theorem State.whole_hall_dev_fwError (s : State) (f : State → State) (h : HallId) : ((s.whole f).hall h).dev.fwError = ((f s).hall h).dev.fwError :=
  (congrArg (fun H : Hall => H.dev.fwError) (s.whole_hall f h) :)
@[simp] theorem State.whole_hall_dev_slow (s : State) (f : State → State) (h : HallId) : ((s.whole f).hall h).dev.slow = ((f s).hall h).dev.slow :=
  (congrArg (fun H : Hall => H.dev.slow) (s.whole_hall f h) :)
@[simp] theorem State.whole_hall_dev_fwVersion (s : State) (f : State → State) (h : HallId) : ((s.whole f).hall h).dev.fwVersion = ((f s).hall h).dev.fwVersion :=
  (congrArg (fun H : Hall => H.dev.fwVersion) (s.whole_hall f h) :)
@[simp] theorem State.whole_hall_dev_fwObject (s : State) (f : State → State) (h : HallId) : ((s.whole f).hall h).dev.fwObject = ((f s).hall h).dev.fwObject :=
  (congrArg (fun H : Hall => H.dev.fwObject) (s.whole_hall f h) :)
@[simp] theorem State.whole_hall_dev_fwDigest (s : State) (f : State → State) (h : HallId) : ((s.whole f).hall h).dev.fwDigest = ((f s).hall h).dev.fwDigest :=
  (congrArg (fun H : Hall => H.dev.fwDigest) (s.whole_hall f h) :)
@[simp] theorem State.whole_hall_dev_bootTime (s : State) (f : State → State) (h : HallId) : ((s.whole f).hall h).dev.bootTime = ((f s).hall h).dev.bootTime :=
  (congrArg (fun H : Hall => H.dev.bootTime) (s.whole_hall f h) :)
@[simp] theorem State.whole_hall_dev_releaseTb (s : State) (f : State → State) (h : HallId) : ((s.whole f).hall h).dev.releaseTb = ((f s).hall h).dev.releaseTb :=
  (congrArg (fun H : Hall => H.dev.releaseTb) (s.whole_hall f h) :)
@[simp] theorem State.whole_hall_dev_lastError (s : State) (f : State → State) (h : HallId) : ((s.whole f).hall h).dev.lastError = ((f s).hall h).dev.lastError :=
  (congrArg (fun H : Hall => H.dev.lastError) (s.whole_hall f h) :)
@[simp] theorem State.whole_hall_dev_imgSource (s : State) (f : State → State) (h : HallId) : ((s.whole f).hall h).dev.imgSource = ((f s).hall h).dev.imgSource :=
  (congrArg (fun H : Hall => H.dev.imgSource) (s.whole_hall f h) :)
@[simp] theorem State.whole_hall_dev_staged (s : State) (f : State → State) (h : HallId) : ((s.whole f).hall h).dev.staged = ((f s).hall h).dev.staged :=
  (congrArg (fun H : Hall => H.dev.staged) (s.whole_hall f h) :)
@[simp] theorem State.whole_hall_dev_imgState (s : State) (f : State → State) (h : HallId) : ((s.whole f).hall h).dev.imgState = ((f s).hall h).dev.imgState :=
  (congrArg (fun H : Hall => H.dev.imgState) (s.whole_hall f h) :)
@[simp] theorem State.whole_hall_dev_noSource (s : State) (f : State → State) (h : HallId) : ((s.whole f).hall h).dev.noSource = ((f s).hall h).dev.noSource :=
  (congrArg (fun H : Hall => H.dev.noSource) (s.whole_hall f h) :)
@[simp] theorem State.whole_hall_dev_errorAt (s : State) (f : State → State) (h : HallId) : ((s.whole f).hall h).dev.errorAt = ((f s).hall h).dev.errorAt :=
  (congrArg (fun H : Hall => H.dev.errorAt) (s.whole_hall f h) :)
@[simp] theorem State.whole_hall_dev_actSweep (s : State) (f : State → State) (h : HallId) : ((s.whole f).hall h).dev.actSweep = ((f s).hall h).dev.actSweep :=
  (congrArg (fun H : Hall => H.dev.actSweep) (s.whole_hall f h) :)
@[simp] theorem State.whole_hall_dev_tuneGen (s : State) (f : State → State) (h : HallId) : ((s.whole f).hall h).dev.tuneGen = ((f s).hall h).dev.tuneGen :=
  (congrArg (fun H : Hall => H.dev.tuneGen) (s.whole_hall f h) :)
@[simp] theorem State.whole_hall_dev_activate (s : State) (f : State → State) (h : HallId) : ((s.whole f).hall h).dev.activate = ((f s).hall h).dev.activate :=
  (congrArg (fun H : Hall => H.dev.activate) (s.whole_hall f h) :)
@[simp] theorem State.whole_hall_dev_image (s : State) (f : State → State) (h : HallId) : ((s.whole f).hall h).dev.image = ((f s).hall h).dev.image :=
  (congrArg (fun H : Hall => H.dev.image) (s.whole_hall f h) :)
@[simp] theorem State.whole_hall_dev_stagedImg (s : State) (f : State → State) (h : HallId) : ((s.whole f).hall h).dev.stagedImg = ((f s).hall h).dev.stagedImg :=
  (congrArg (fun H : Hall => H.dev.stagedImg) (s.whole_hall f h) :)
@[simp] theorem State.whole_hall_dev_farVerified (s : State) (f : State → State) (h : HallId) : ((s.whole f).hall h).dev.farVerified = ((f s).hall h).dev.farVerified :=
  (congrArg (fun H : Hall => H.dev.farVerified) (s.whole_hall f h) :)
@[simp] theorem State.whole_hall_dev_ackBy (s : State) (f : State → State) (h : HallId) : ((s.whole f).hall h).dev.ackBy = ((f s).hall h).dev.ackBy :=
  (congrArg (fun H : Hall => H.dev.ackBy) (s.whole_hall f h) :)
@[simp] theorem State.whole_hall_dev_waitingImg (s : State) (f : State → State) (h : HallId) : ((s.whole f).hall h).dev.waitingImg = ((f s).hall h).dev.waitingImg :=
  (congrArg (fun H : Hall => H.dev.waitingImg) (s.whole_hall f h) :)
@[simp] theorem State.whole_hall_dev_suppressed (s : State) (f : State → State) (h : HallId) : ((s.whole f).hall h).dev.suppressed = ((f s).hall h).dev.suppressed :=
  (congrArg (fun H : Hall => H.dev.suppressed) (s.whole_hall f h) :)
@[simp] theorem State.whole_hall_dev_repaired (s : State) (f : State → State) (h : HallId) : ((s.whole f).hall h).dev.repaired = ((f s).hall h).dev.repaired :=
  (congrArg (fun H : Hall => H.dev.repaired) (s.whole_hall f h) :)
@[simp] theorem State.whole_hall_dev_lastField (s : State) (f : State → State) (h : HallId) : ((s.whole f).hall h).dev.lastField = ((f s).hall h).dev.lastField :=
  (congrArg (fun H : Hall => H.dev.lastField) (s.whole_hall f h) :)
@[simp] theorem State.whole_hall_dev_lockedWrites (s : State) (f : State → State) (h : HallId) : ((s.whole f).hall h).dev.lockedWrites = ((f s).hall h).dev.lockedWrites :=
  (congrArg (fun H : Hall => H.dev.lockedWrites) (s.whole_hall f h) :)
@[simp] theorem State.whole_hall_dev_expired (s : State) (f : State → State) (h : HallId) : ((s.whole f).hall h).dev.expired = ((f s).hall h).dev.expired :=
  (congrArg (fun H : Hall => H.dev.expired) (s.whole_hall f h) :)
@[simp] theorem State.whole_hall_dev_badUnlock (s : State) (f : State → State) (h : HallId) : ((s.whole f).hall h).dev.badUnlock = ((f s).hall h).dev.badUnlock :=
  (congrArg (fun H : Hall => H.dev.badUnlock) (s.whole_hall f h) :)
@[simp] theorem State.whole_hall_dev_portPtr (s : State) (f : State → State) (h : HallId) : ((s.whole f).hall h).dev.portPtr = ((f s).hall h).dev.portPtr :=
  (congrArg (fun H : Hall => H.dev.portPtr) (s.whole_hall f h) :)
@[simp] theorem State.whole_hall_dev_mismatch (s : State) (f : State → State) (h : HallId) : ((s.whole f).hall h).dev.mismatch = ((f s).hall h).dev.mismatch :=
  (congrArg (fun H : Hall => H.dev.mismatch) (s.whole_hall f h) :)
@[simp] theorem State.whole_hall_dev_filling (s : State) (f : State → State) (h : HallId) : ((s.whole f).hall h).dev.filling = ((f s).hall h).dev.filling :=
  (congrArg (fun H : Hall => H.dev.filling) (s.whole_hall f h) :)

theorem State.whole_a (s : State) (f : State → State) : ((s.whole f).a).uncounted = ((f s).a).uncounted := s.whole_hall f .a
theorem State.whole_b (s : State) (f : State → State) : ((s.whole f).b).uncounted = ((f s).b).uncounted := s.whole_hall f .b

@[simp] theorem State.whole_a_keyArray (s : State) (f : State → State) : ((s.whole f).a).keyArray = ((f s).a).keyArray :=
  s.whole_hall_keyArray f .a
@[simp] theorem State.whole_a_swp (s : State) (f : State → State) : ((s.whole f).a).swp = ((f s).a).swp :=
  s.whole_hall_swp f .a
@[simp] theorem State.whole_a_pwr (s : State) (f : State → State) : ((s.whole f).a).pwr = ((f s).a).pwr :=
  s.whole_hall_pwr f .a
@[simp] theorem State.whole_a_sec (s : State) (f : State → State) : ((s.whole f).a).sec = ((f s).a).sec :=
  s.whole_hall_sec f .a
@[simp] theorem State.whole_a_mem (s : State) (f : State → State) : ((s.whole f).a).mem = ((f s).a).mem :=
  s.whole_hall_mem f .a
@[simp] theorem State.whole_a_cam (s : State) (f : State → State) : ((s.whole f).a).cam = ((f s).a).cam :=
  s.whole_hall_cam f .a
@[simp] theorem State.whole_a_tx (s : State) (f : State → State) : ((s.whole f).a).tx = ((f s).a).tx :=
  s.whole_hall_tx f .a
@[simp] theorem State.whole_a_streams (s : State) (f : State → State) : ((s.whole f).a).streams = ((f s).a).streams :=
  s.whole_hall_streams f .a
@[simp] theorem State.whole_a_feedErr (s : State) (f : State → State) : ((s.whole f).a).feedErr = ((f s).a).feedErr :=
  s.whole_hall_feedErr f .a
@[simp] theorem State.whole_a_feeds (s : State) (f : State → State) : ((s.whole f).a).feeds = ((f s).a).feeds :=
  s.whole_hall_feeds f .a
@[simp] theorem State.whole_a_rings (s : State) (f : State → State) : ((s.whole f).a).rings = ((f s).a).rings :=
  s.whole_hall_rings f .a
@[simp] theorem State.whole_a_stair (s : State) (f : State → State) : ((s.whole f).a).stair = ((f s).a).stair :=
  s.whole_hall_stair f .a
@[simp] theorem State.whole_a_gals (s : State) (f : State → State) : ((s.whole f).a).gals = ((f s).a).gals :=
  s.whole_hall_gals f .a
@[simp] theorem State.whole_a_cores (s : State) (f : State → State) : ((s.whole f).a).cores = ((f s).a).cores :=
  s.whole_hall_cores f .a
@[simp] theorem State.whole_a_ctxs (s : State) (f : State → State) : ((s.whole f).a).ctxs = ((f s).a).ctxs :=
  s.whole_hall_ctxs f .a
@[simp] theorem State.whole_a_serial (s : State) (f : State → State) : ((s.whole f).a).serial = ((f s).a).serial :=
  s.whole_hall_serial f .a
@[simp] theorem State.whole_a_dev_up (s : State) (f : State → State) : ((s.whole f).a).dev.up = ((f s).a).dev.up :=
  s.whole_hall_dev_up f .a
@[simp] theorem State.whole_a_dev_stage (s : State) (f : State → State) : ((s.whole f).a).dev.stage = ((f s).a).dev.stage :=
  s.whole_hall_dev_stage f .a
@[simp] theorem State.whole_a_dev_fwSource (s : State) (f : State → State) : ((s.whole f).a).dev.fwSource = ((f s).a).dev.fwSource :=
  s.whole_hall_dev_fwSource f .a
@[simp] theorem State.whole_a_dev_fwError (s : State) (f : State → State) : ((s.whole f).a).dev.fwError = ((f s).a).dev.fwError :=
  s.whole_hall_dev_fwError f .a
@[simp] theorem State.whole_a_dev_slow (s : State) (f : State → State) : ((s.whole f).a).dev.slow = ((f s).a).dev.slow :=
  s.whole_hall_dev_slow f .a
@[simp] theorem State.whole_a_dev_fwVersion (s : State) (f : State → State) : ((s.whole f).a).dev.fwVersion = ((f s).a).dev.fwVersion :=
  s.whole_hall_dev_fwVersion f .a
@[simp] theorem State.whole_a_dev_fwObject (s : State) (f : State → State) : ((s.whole f).a).dev.fwObject = ((f s).a).dev.fwObject :=
  s.whole_hall_dev_fwObject f .a
@[simp] theorem State.whole_a_dev_fwDigest (s : State) (f : State → State) : ((s.whole f).a).dev.fwDigest = ((f s).a).dev.fwDigest :=
  s.whole_hall_dev_fwDigest f .a
@[simp] theorem State.whole_a_dev_bootTime (s : State) (f : State → State) : ((s.whole f).a).dev.bootTime = ((f s).a).dev.bootTime :=
  s.whole_hall_dev_bootTime f .a
@[simp] theorem State.whole_a_dev_releaseTb (s : State) (f : State → State) : ((s.whole f).a).dev.releaseTb = ((f s).a).dev.releaseTb :=
  s.whole_hall_dev_releaseTb f .a
@[simp] theorem State.whole_a_dev_lastError (s : State) (f : State → State) : ((s.whole f).a).dev.lastError = ((f s).a).dev.lastError :=
  s.whole_hall_dev_lastError f .a
@[simp] theorem State.whole_a_dev_imgSource (s : State) (f : State → State) : ((s.whole f).a).dev.imgSource = ((f s).a).dev.imgSource :=
  s.whole_hall_dev_imgSource f .a
@[simp] theorem State.whole_a_dev_staged (s : State) (f : State → State) : ((s.whole f).a).dev.staged = ((f s).a).dev.staged :=
  s.whole_hall_dev_staged f .a
@[simp] theorem State.whole_a_dev_imgState (s : State) (f : State → State) : ((s.whole f).a).dev.imgState = ((f s).a).dev.imgState :=
  s.whole_hall_dev_imgState f .a
@[simp] theorem State.whole_a_dev_noSource (s : State) (f : State → State) : ((s.whole f).a).dev.noSource = ((f s).a).dev.noSource :=
  s.whole_hall_dev_noSource f .a
@[simp] theorem State.whole_a_dev_errorAt (s : State) (f : State → State) : ((s.whole f).a).dev.errorAt = ((f s).a).dev.errorAt :=
  s.whole_hall_dev_errorAt f .a
@[simp] theorem State.whole_a_dev_actSweep (s : State) (f : State → State) : ((s.whole f).a).dev.actSweep = ((f s).a).dev.actSweep :=
  s.whole_hall_dev_actSweep f .a
@[simp] theorem State.whole_a_dev_tuneGen (s : State) (f : State → State) : ((s.whole f).a).dev.tuneGen = ((f s).a).dev.tuneGen :=
  s.whole_hall_dev_tuneGen f .a
@[simp] theorem State.whole_a_dev_activate (s : State) (f : State → State) : ((s.whole f).a).dev.activate = ((f s).a).dev.activate :=
  s.whole_hall_dev_activate f .a
@[simp] theorem State.whole_a_dev_image (s : State) (f : State → State) : ((s.whole f).a).dev.image = ((f s).a).dev.image :=
  s.whole_hall_dev_image f .a
@[simp] theorem State.whole_a_dev_stagedImg (s : State) (f : State → State) : ((s.whole f).a).dev.stagedImg = ((f s).a).dev.stagedImg :=
  s.whole_hall_dev_stagedImg f .a
@[simp] theorem State.whole_a_dev_farVerified (s : State) (f : State → State) : ((s.whole f).a).dev.farVerified = ((f s).a).dev.farVerified :=
  s.whole_hall_dev_farVerified f .a
@[simp] theorem State.whole_a_dev_ackBy (s : State) (f : State → State) : ((s.whole f).a).dev.ackBy = ((f s).a).dev.ackBy :=
  s.whole_hall_dev_ackBy f .a
@[simp] theorem State.whole_a_dev_waitingImg (s : State) (f : State → State) : ((s.whole f).a).dev.waitingImg = ((f s).a).dev.waitingImg :=
  s.whole_hall_dev_waitingImg f .a
@[simp] theorem State.whole_a_dev_suppressed (s : State) (f : State → State) : ((s.whole f).a).dev.suppressed = ((f s).a).dev.suppressed :=
  s.whole_hall_dev_suppressed f .a
@[simp] theorem State.whole_a_dev_repaired (s : State) (f : State → State) : ((s.whole f).a).dev.repaired = ((f s).a).dev.repaired :=
  s.whole_hall_dev_repaired f .a
@[simp] theorem State.whole_a_dev_lastField (s : State) (f : State → State) : ((s.whole f).a).dev.lastField = ((f s).a).dev.lastField :=
  s.whole_hall_dev_lastField f .a
@[simp] theorem State.whole_a_dev_lockedWrites (s : State) (f : State → State) : ((s.whole f).a).dev.lockedWrites = ((f s).a).dev.lockedWrites :=
  s.whole_hall_dev_lockedWrites f .a
@[simp] theorem State.whole_a_dev_expired (s : State) (f : State → State) : ((s.whole f).a).dev.expired = ((f s).a).dev.expired :=
  s.whole_hall_dev_expired f .a
@[simp] theorem State.whole_a_dev_badUnlock (s : State) (f : State → State) : ((s.whole f).a).dev.badUnlock = ((f s).a).dev.badUnlock :=
  s.whole_hall_dev_badUnlock f .a
@[simp] theorem State.whole_a_dev_portPtr (s : State) (f : State → State) : ((s.whole f).a).dev.portPtr = ((f s).a).dev.portPtr :=
  s.whole_hall_dev_portPtr f .a
@[simp] theorem State.whole_a_dev_mismatch (s : State) (f : State → State) : ((s.whole f).a).dev.mismatch = ((f s).a).dev.mismatch :=
  s.whole_hall_dev_mismatch f .a
@[simp] theorem State.whole_a_dev_filling (s : State) (f : State → State) : ((s.whole f).a).dev.filling = ((f s).a).dev.filling :=
  s.whole_hall_dev_filling f .a

@[simp] theorem State.whole_b_keyArray (s : State) (f : State → State) : ((s.whole f).b).keyArray = ((f s).b).keyArray :=
  s.whole_hall_keyArray f .b
@[simp] theorem State.whole_b_swp (s : State) (f : State → State) : ((s.whole f).b).swp = ((f s).b).swp :=
  s.whole_hall_swp f .b
@[simp] theorem State.whole_b_pwr (s : State) (f : State → State) : ((s.whole f).b).pwr = ((f s).b).pwr :=
  s.whole_hall_pwr f .b
@[simp] theorem State.whole_b_sec (s : State) (f : State → State) : ((s.whole f).b).sec = ((f s).b).sec :=
  s.whole_hall_sec f .b
@[simp] theorem State.whole_b_mem (s : State) (f : State → State) : ((s.whole f).b).mem = ((f s).b).mem :=
  s.whole_hall_mem f .b
@[simp] theorem State.whole_b_cam (s : State) (f : State → State) : ((s.whole f).b).cam = ((f s).b).cam :=
  s.whole_hall_cam f .b
@[simp] theorem State.whole_b_tx (s : State) (f : State → State) : ((s.whole f).b).tx = ((f s).b).tx :=
  s.whole_hall_tx f .b
@[simp] theorem State.whole_b_streams (s : State) (f : State → State) : ((s.whole f).b).streams = ((f s).b).streams :=
  s.whole_hall_streams f .b
@[simp] theorem State.whole_b_feedErr (s : State) (f : State → State) : ((s.whole f).b).feedErr = ((f s).b).feedErr :=
  s.whole_hall_feedErr f .b
@[simp] theorem State.whole_b_feeds (s : State) (f : State → State) : ((s.whole f).b).feeds = ((f s).b).feeds :=
  s.whole_hall_feeds f .b
@[simp] theorem State.whole_b_rings (s : State) (f : State → State) : ((s.whole f).b).rings = ((f s).b).rings :=
  s.whole_hall_rings f .b
@[simp] theorem State.whole_b_stair (s : State) (f : State → State) : ((s.whole f).b).stair = ((f s).b).stair :=
  s.whole_hall_stair f .b
@[simp] theorem State.whole_b_gals (s : State) (f : State → State) : ((s.whole f).b).gals = ((f s).b).gals :=
  s.whole_hall_gals f .b
@[simp] theorem State.whole_b_cores (s : State) (f : State → State) : ((s.whole f).b).cores = ((f s).b).cores :=
  s.whole_hall_cores f .b
@[simp] theorem State.whole_b_ctxs (s : State) (f : State → State) : ((s.whole f).b).ctxs = ((f s).b).ctxs :=
  s.whole_hall_ctxs f .b
@[simp] theorem State.whole_b_serial (s : State) (f : State → State) : ((s.whole f).b).serial = ((f s).b).serial :=
  s.whole_hall_serial f .b
@[simp] theorem State.whole_b_dev_up (s : State) (f : State → State) : ((s.whole f).b).dev.up = ((f s).b).dev.up :=
  s.whole_hall_dev_up f .b
@[simp] theorem State.whole_b_dev_stage (s : State) (f : State → State) : ((s.whole f).b).dev.stage = ((f s).b).dev.stage :=
  s.whole_hall_dev_stage f .b
@[simp] theorem State.whole_b_dev_fwSource (s : State) (f : State → State) : ((s.whole f).b).dev.fwSource = ((f s).b).dev.fwSource :=
  s.whole_hall_dev_fwSource f .b
@[simp] theorem State.whole_b_dev_fwError (s : State) (f : State → State) : ((s.whole f).b).dev.fwError = ((f s).b).dev.fwError :=
  s.whole_hall_dev_fwError f .b
@[simp] theorem State.whole_b_dev_slow (s : State) (f : State → State) : ((s.whole f).b).dev.slow = ((f s).b).dev.slow :=
  s.whole_hall_dev_slow f .b
@[simp] theorem State.whole_b_dev_fwVersion (s : State) (f : State → State) : ((s.whole f).b).dev.fwVersion = ((f s).b).dev.fwVersion :=
  s.whole_hall_dev_fwVersion f .b
@[simp] theorem State.whole_b_dev_fwObject (s : State) (f : State → State) : ((s.whole f).b).dev.fwObject = ((f s).b).dev.fwObject :=
  s.whole_hall_dev_fwObject f .b
@[simp] theorem State.whole_b_dev_fwDigest (s : State) (f : State → State) : ((s.whole f).b).dev.fwDigest = ((f s).b).dev.fwDigest :=
  s.whole_hall_dev_fwDigest f .b
@[simp] theorem State.whole_b_dev_bootTime (s : State) (f : State → State) : ((s.whole f).b).dev.bootTime = ((f s).b).dev.bootTime :=
  s.whole_hall_dev_bootTime f .b
@[simp] theorem State.whole_b_dev_releaseTb (s : State) (f : State → State) : ((s.whole f).b).dev.releaseTb = ((f s).b).dev.releaseTb :=
  s.whole_hall_dev_releaseTb f .b
@[simp] theorem State.whole_b_dev_lastError (s : State) (f : State → State) : ((s.whole f).b).dev.lastError = ((f s).b).dev.lastError :=
  s.whole_hall_dev_lastError f .b
@[simp] theorem State.whole_b_dev_imgSource (s : State) (f : State → State) : ((s.whole f).b).dev.imgSource = ((f s).b).dev.imgSource :=
  s.whole_hall_dev_imgSource f .b
@[simp] theorem State.whole_b_dev_staged (s : State) (f : State → State) : ((s.whole f).b).dev.staged = ((f s).b).dev.staged :=
  s.whole_hall_dev_staged f .b
@[simp] theorem State.whole_b_dev_imgState (s : State) (f : State → State) : ((s.whole f).b).dev.imgState = ((f s).b).dev.imgState :=
  s.whole_hall_dev_imgState f .b
@[simp] theorem State.whole_b_dev_noSource (s : State) (f : State → State) : ((s.whole f).b).dev.noSource = ((f s).b).dev.noSource :=
  s.whole_hall_dev_noSource f .b
@[simp] theorem State.whole_b_dev_errorAt (s : State) (f : State → State) : ((s.whole f).b).dev.errorAt = ((f s).b).dev.errorAt :=
  s.whole_hall_dev_errorAt f .b
@[simp] theorem State.whole_b_dev_actSweep (s : State) (f : State → State) : ((s.whole f).b).dev.actSweep = ((f s).b).dev.actSweep :=
  s.whole_hall_dev_actSweep f .b
@[simp] theorem State.whole_b_dev_tuneGen (s : State) (f : State → State) : ((s.whole f).b).dev.tuneGen = ((f s).b).dev.tuneGen :=
  s.whole_hall_dev_tuneGen f .b
@[simp] theorem State.whole_b_dev_activate (s : State) (f : State → State) : ((s.whole f).b).dev.activate = ((f s).b).dev.activate :=
  s.whole_hall_dev_activate f .b
@[simp] theorem State.whole_b_dev_image (s : State) (f : State → State) : ((s.whole f).b).dev.image = ((f s).b).dev.image :=
  s.whole_hall_dev_image f .b
@[simp] theorem State.whole_b_dev_stagedImg (s : State) (f : State → State) : ((s.whole f).b).dev.stagedImg = ((f s).b).dev.stagedImg :=
  s.whole_hall_dev_stagedImg f .b
@[simp] theorem State.whole_b_dev_farVerified (s : State) (f : State → State) : ((s.whole f).b).dev.farVerified = ((f s).b).dev.farVerified :=
  s.whole_hall_dev_farVerified f .b
@[simp] theorem State.whole_b_dev_ackBy (s : State) (f : State → State) : ((s.whole f).b).dev.ackBy = ((f s).b).dev.ackBy :=
  s.whole_hall_dev_ackBy f .b
@[simp] theorem State.whole_b_dev_waitingImg (s : State) (f : State → State) : ((s.whole f).b).dev.waitingImg = ((f s).b).dev.waitingImg :=
  s.whole_hall_dev_waitingImg f .b
@[simp] theorem State.whole_b_dev_suppressed (s : State) (f : State → State) : ((s.whole f).b).dev.suppressed = ((f s).b).dev.suppressed :=
  s.whole_hall_dev_suppressed f .b
@[simp] theorem State.whole_b_dev_repaired (s : State) (f : State → State) : ((s.whole f).b).dev.repaired = ((f s).b).dev.repaired :=
  s.whole_hall_dev_repaired f .b
@[simp] theorem State.whole_b_dev_lastField (s : State) (f : State → State) : ((s.whole f).b).dev.lastField = ((f s).b).dev.lastField :=
  s.whole_hall_dev_lastField f .b
@[simp] theorem State.whole_b_dev_lockedWrites (s : State) (f : State → State) : ((s.whole f).b).dev.lockedWrites = ((f s).b).dev.lockedWrites :=
  s.whole_hall_dev_lockedWrites f .b
@[simp] theorem State.whole_b_dev_expired (s : State) (f : State → State) : ((s.whole f).b).dev.expired = ((f s).b).dev.expired :=
  s.whole_hall_dev_expired f .b
@[simp] theorem State.whole_b_dev_badUnlock (s : State) (f : State → State) : ((s.whole f).b).dev.badUnlock = ((f s).b).dev.badUnlock :=
  s.whole_hall_dev_badUnlock f .b
@[simp] theorem State.whole_b_dev_portPtr (s : State) (f : State → State) : ((s.whole f).b).dev.portPtr = ((f s).b).dev.portPtr :=
  s.whole_hall_dev_portPtr f .b
@[simp] theorem State.whole_b_dev_mismatch (s : State) (f : State → State) : ((s.whole f).b).dev.mismatch = ((f s).b).dev.mismatch :=
  s.whole_hall_dev_mismatch f .b
@[simp] theorem State.whole_b_dev_filling (s : State) (f : State → State) : ((s.whole f).b).dev.filling = ((f s).b).dev.filling :=
  s.whole_hall_dev_filling f .b

end Sys2Proof.Machine
end

