-- ==== Sys2Proof/Laws/Memory.lean ====
section
/-! SUPPORT. Memory: the canonical form is kept by every operation, and what a read gives after a write (R534 to R536). -/

namespace Sys2Proof.Machine

/-! ### Cell lists -/

theorem risingFrom_weaken {lo lo' : Nat} (h : lo' ≤ lo) : ∀ {l : List (Nat × Byte)}, risingFrom lo l = true → risingFrom lo' l = true
  | [], _ => rfl
  | (a, v) :: r, hr => by
    simp only [risingFrom, Bool.and_eq_true, decide_eq_true_eq] at hr ⊢
    exact ⟨by omega, hr.2⟩

theorem risingFrom_cellSet {lo a : Nat} {v : Byte} (ha : lo ≤ a) :
    ∀ {l : List (Nat × Byte)}, risingFrom lo l = true → risingFrom lo (cellSet l a v) = true
  | [], _ => by simp [cellSet, risingFrom, ha]
  | (j, x) :: r, hr => by
    simp only [risingFrom, Bool.and_eq_true, decide_eq_true_eq] at hr
    unfold cellSet
    split
    · simp only [risingFrom, Bool.and_eq_true, decide_eq_true_eq]; exact ⟨ha, by omega, hr.2⟩
    · split
      · subst_vars; simp only [risingFrom, Bool.and_eq_true, decide_eq_true_eq]; exact ⟨ha, hr.2⟩
      · simp only [risingFrom, Bool.and_eq_true, decide_eq_true_eq]
        exact ⟨hr.1, risingFrom_cellSet (by omega) hr.2⟩
  termination_by l => l.length

theorem risingFrom_cellDel {lo a : Nat} : ∀ {l : List (Nat × Byte)}, risingFrom lo l = true → risingFrom lo (cellDel l a) = true
  | [], _ => rfl
  | (j, x) :: r, hr => by
    have hr' := hr
    simp only [risingFrom, Bool.and_eq_true, decide_eq_true_eq] at hr'
    unfold cellDel
    split
    · exact hr
    · split
      · exact risingFrom_weaken (by omega) hr'.2
      · simp only [risingFrom, Bool.and_eq_true, decide_eq_true_eq]
        exact ⟨hr'.1, risingFrom_cellDel hr'.2⟩
  termination_by l => l.length

theorem risingFrom_filter {lo : Nat} {p : Nat × Byte → Bool} :
    ∀ {l : List (Nat × Byte)}, risingFrom lo l = true → risingFrom lo (l.filter p) = true
  | [], _ => rfl
  | (j, x) :: r, hr => by
    simp only [risingFrom, Bool.and_eq_true, decide_eq_true_eq] at hr
    have ih := risingFrom_filter (p := p) hr.2
    by_cases hp : p (j, x) = true
    · simp only [List.filter_cons, hp, if_true, risingFrom, Bool.and_eq_true, decide_eq_true_eq]; exact ⟨hr.1, ih⟩
    · simp only [List.filter_cons, hp]; exact risingFrom_weaken (by omega) ih

theorem cellAt_of_lt {lo a : Nat} : ∀ {l : List (Nat × Byte)}, risingFrom lo l = true → a < lo → cellAt l a = none
  | [], _, _ => rfl
  | (j, x) :: r, hr, ha => by
    simp only [risingFrom, Bool.and_eq_true, decide_eq_true_eq] at hr
    unfold cellAt
    rw [if_neg (by omega)]
    exact cellAt_of_lt hr.2 (by omega)

theorem cellAt_cellSet_same {a : Nat} {v : Byte} : ∀ (l : List (Nat × Byte)), cellAt (cellSet l a v) a = some v
  | [] => by simp [cellSet, cellAt]
  | (j, x) :: r => by
    unfold cellSet
    split
    · simp [cellAt]
    · split
      · simp [cellAt]
      · unfold cellAt; rw [if_neg (by omega)]; exact cellAt_cellSet_same r

theorem cellAt_cellSet_other {a b : Nat} {v : Byte} (h : b ≠ a) : ∀ (l : List (Nat × Byte)), cellAt (cellSet l a v) b = cellAt l b
  | [] => by simp [cellSet, cellAt, Ne.symm h]
  | (j, x) :: r => by
    unfold cellSet
    split
    · simp [cellAt, Ne.symm h]
    · split
      · subst_vars; simp [cellAt, Ne.symm h]
      · simp only [cellAt]; rw [cellAt_cellSet_other h r]

theorem cellAt_cellDel_same {a lo : Nat} : ∀ {l : List (Nat × Byte)}, risingFrom lo l = true → cellAt (cellDel l a) a = none
  | [], _ => rfl
  | (j, x) :: r, hr => by
    have hr' := hr
    simp only [risingFrom, Bool.and_eq_true, decide_eq_true_eq] at hr'
    unfold cellDel
    split
    · unfold cellAt; rw [if_neg (by omega)]; exact cellAt_of_lt hr'.2 (by omega)
    · split
      · subst_vars; exact cellAt_of_lt hr'.2 (by omega)
      · unfold cellAt; rw [if_neg (by omega)]; exact cellAt_cellDel_same hr'.2

theorem cellAt_cellDel_other {a b : Nat} (h : b ≠ a) : ∀ (l : List (Nat × Byte)), cellAt (cellDel l a) b = cellAt l b
  | [] => rfl
  | (j, x) :: r => by
    unfold cellDel
    split
    · rfl
    · split
      · subst_vars; simp [cellAt, Ne.symm h]
      · simp only [cellAt]; rw [cellAt_cellDel_other h r]

theorem cellAt_filter {p : Nat × Byte → Bool} {a : Nat} (h : ∀ v, p (a, v) = true) :
    ∀ (l : List (Nat × Byte)), cellAt (l.filter p) a = cellAt l a
  | [] => rfl
  | (j, x) :: r => by
    by_cases hp : p (j, x) = true
    · simp only [List.filter_cons, hp, if_true, cellAt]; rw [cellAt_filter h r]
    · have hj : j ≠ a := fun e => hp (e ▸ h x)
      simp only [List.filter_cons, hp, cellAt, if_neg hj]; exact cellAt_filter h r

theorem cellAt_filter_none {p : Nat × Byte → Bool} {a : Nat} (h : ∀ v, p (a, v) = false) :
    ∀ (l : List (Nat × Byte)), cellAt (l.filter p) a = none
  | [] => rfl
  | (j, x) :: r => by
    by_cases hp : p (j, x) = true
    · have hj : j ≠ a := fun e => by rw [e, h x] at hp; exact absurd hp (by decide)
      simp only [List.filter_cons, hp, if_true, cellAt, if_neg hj]; exact cellAt_filter_none h r
    · simp only [List.filter_cons, hp]; exact cellAt_filter_none h r

theorem all_nonzero_cellSet {a : Nat} {v : Byte} (hv : v ≠ 0) :
    ∀ {l : List (Nat × Byte)}, l.all (fun c => c.2 != 0) = true → (cellSet l a v).all (fun c => c.2 != 0) = true
  | [], _ => by simpa [cellSet] using hv
  | (j, x) :: r, hr => by
    simp only [List.all_cons, Bool.and_eq_true] at hr
    unfold cellSet
    split
    · simp only [List.all_cons, Bool.and_eq_true]; exact ⟨by simpa using hv, hr⟩
    · split
      · simp only [List.all_cons, Bool.and_eq_true]; exact ⟨by simpa using hv, hr.2⟩
      · simp only [List.all_cons, Bool.and_eq_true]; exact ⟨hr.1, all_nonzero_cellSet hv hr.2⟩

theorem all_nonzero_cellDel {a : Nat} :
    ∀ {l : List (Nat × Byte)}, l.all (fun c => c.2 != 0) = true → (cellDel l a).all (fun c => c.2 != 0) = true
  | [], _ => rfl
  | (j, x) :: r, hr => by
    have hr' := hr
    simp only [List.all_cons, Bool.and_eq_true] at hr'
    unfold cellDel
    split
    · exact hr
    · split
      · exact hr'.2
      · simp only [List.all_cons, Bool.and_eq_true]; exact ⟨hr'.1, all_nonzero_cellDel hr'.2⟩

/-! ### Word lists -/

theorem mem_sins {k x : Nat} : ∀ {l : List Nat}, x ∈ sins l k ↔ x = k ∨ x ∈ l
  | [] => by simp [sins]
  | j :: r => by
    unfold sins
    split
    · simp
    · split
      · subst_vars; simp
      · simp only [List.mem_cons, mem_sins (l := r)]; exact or_left_comm

theorem sins_rising {k : Nat} : ∀ {l : List Nat}, l.Pairwise (· < ·) → (sins l k).Pairwise (· < ·)
  | [], _ => by simp [sins]
  | j :: r, h => by
    have h' := List.pairwise_cons.1 h
    unfold sins
    split
    · rename_i hk
      exact List.pairwise_cons.2 ⟨fun x hx => by
        rcases List.mem_cons.1 hx with rfl | hx
        · exact hk
        · have := h'.1 x hx; omega, h⟩
    · split
      · exact h
      · refine List.pairwise_cons.2 ⟨fun x hx => ?_, sins_rising h'.2⟩
        rcases mem_sins.1 hx with rfl | hx
        · omega
        · exact h'.1 x hx

theorem foldl_sins_rising : ∀ (ws : List Nat) {l : List Nat}, l.Pairwise (· < ·) → (ws.foldl sins l).Pairwise (· < ·)
  | [], _, h => h
  | _ :: ws, _, h => foldl_sins_rising ws (sins_rising h)

end Sys2Proof.Machine

namespace Sys2Proof

open Sys2Proof.Machine

/-! ### Memories -/

theorem Memory.wf_iff {m : Memory} : m.wf = true ↔ risingFrom 0 m.cells = true ∧ m.cells.all (fun c => c.2 != 0) = true := by
  simp [Memory.wf]

theorem Memory.wf_put {m : Memory} {a : Nat} {v : Byte} (h : m.wf = true) : (m.put a v).wf = true := by
  rw [Memory.wf_iff] at h ⊢
  unfold Memory.put
  by_cases hv : v = 0
  · simp only [hv, if_true]; exact ⟨risingFrom_cellDel h.1, all_nonzero_cellDel h.2⟩
  · simp only [if_neg hv]; exact ⟨risingFrom_cellSet (Nat.zero_le _) h.1, all_nonzero_cellSet hv h.2⟩

theorem Memory.wf_putAll : ∀ (bs : List Byte) {m : Memory} {a : Nat}, m.wf = true → (m.putAll a bs).wf = true
  | [], _, _, h => h
  | _ :: bs, _, _, h => Memory.wf_putAll bs (Memory.wf_put h)

theorem Memory.wf_clear {m : Memory} {a n : Nat} (h : m.wf = true) : (m.clear a n).wf = true := by
  rw [Memory.wf_iff] at h ⊢
  refine ⟨risingFrom_filter h.1, ?_⟩
  rw [List.all_eq_true] at h ⊢
  exact fun c hc => h.2 c (List.mem_filter.1 hc).1

theorem Memory.wf_foldl_clear : ∀ (ws : List Nat) {m : Memory},
    m.wf = true → (ws.foldl (fun m w => m.clear (32 * w) 32) m).wf = true
  | [], _, h => h
  | _ :: ws, _, h => Memory.wf_foldl_clear ws (Memory.wf_clear h)

theorem Memory.rising_write {m : Memory} {a : Nat} {v : Byte} (h : m.rising = true) : (m.write a v).rising = true :=
  risingFrom_cellSet (Nat.zero_le _) h

theorem Memory.rising_writeAll : ∀ (bs : List Byte) {m : Memory} {a : Nat}, m.rising = true → (m.writeAll a bs).rising = true
  | [], _, _, h => h
  | _ :: bs, _, _, h => Memory.rising_writeAll bs (Memory.rising_write h)

/-- A byte written is read back. -/
theorem Memory.get_put_same {m : Memory} {a : Nat} {v : Byte} (h : m.wf = true) : (m.put a v).get a = v := by
  unfold Memory.put Memory.get
  by_cases hv : v = 0
  · simp only [hv, if_true]; rw [cellAt_cellDel_same (Memory.wf_iff.1 h).1]; rfl
  · simp only [if_neg hv]; rw [cellAt_cellSet_same]; rfl

/-- A write leaves every other byte. -/
theorem Memory.get_put_other {m : Memory} {a b : Nat} {v : Byte} (h : b ≠ a) : (m.put a v).get b = m.get b := by
  unfold Memory.put Memory.get
  by_cases hv : v = 0
  · simp only [hv, if_true]; rw [cellAt_cellDel_other h]
  · simp only [if_neg hv]; rw [cellAt_cellSet_other h]

/-- Bytes written leave every byte outside them. -/
theorem Memory.get_putAll_other : ∀ (bs : List Byte) {m : Memory} {a b : Nat}, (b < a ∨ a + bs.length ≤ b) → (m.putAll a bs).get b = m.get b
  | [], _, _, _, _ => rfl
  | v :: bs, m, a, b, h => by
    simp only [List.length_cons] at h
    show ((m.put a v).putAll (a + 1) bs).get b = m.get b
    rw [Memory.get_putAll_other bs (by omega), Memory.get_put_other (by omega)]

/-- Byte i of bytes written is read back. -/
theorem Memory.get_putAll_same : ∀ (bs : List Byte) {m : Memory} {a i : Nat}, m.wf = true → (hi : i < bs.length) →
    (m.putAll a bs).get (a + i) = bs[i]
  | [], _, _, i, _, hi => absurd hi (Nat.not_lt_zero i)
  | v :: bs, m, a, 0, h, _ => by
    show ((m.put a v).putAll (a + 1) bs).get a = v
    rw [Memory.get_putAll_other bs (by omega), Memory.get_put_same h]
  | v :: bs, m, a, i + 1, h, hi => by
    have hi' : i < bs.length := by simpa using hi
    show ((m.put a v).putAll (a + 1) bs).get (a + (i + 1)) = bs[i]
    rw [show a + (i + 1) = a + 1 + i by omega]
    exact Memory.get_putAll_same bs (Memory.wf_put h) hi'

/-- Bytes written are read back. -/
theorem Memory.getAll_putAll {m : Memory} {a : Nat} {bs : List Byte} (h : m.wf = true) : (m.putAll a bs).getAll a bs.length = bs := by
  apply List.ext_getElem
  · simp [Memory.getAll]
  · intro i h1 h2
    simp [Memory.getAll, Memory.get_putAll_same bs h h2]

theorem Memory.get_clear_in {m : Memory} {a n b : Nat} (h : a ≤ b ∧ b < a + n) : (m.clear a n).get b = 0 := by
  unfold Memory.clear Memory.get
  rw [cellAt_filter_none (by intro v; simp [h])]; rfl

theorem Memory.get_clear_other {m : Memory} {a n b : Nat} (h : b < a ∨ a + n ≤ b) : (m.clear a n).get b = m.get b := by
  unfold Memory.clear Memory.get
  rw [cellAt_filter (by intro v; simp; omega)]

theorem Memory.get_foldl_clear_other {b : Nat} : ∀ (ws : List Nat) {m : Memory},
    (b / 32 ∉ ws) → (ws.foldl (fun m w => m.clear (32 * w) 32) m).get b = m.get b
  | [], _, _ => rfl
  | w :: ws, m, h => by
    simp only [List.mem_cons, not_or] at h
    rw [List.foldl_cons, Memory.get_foldl_clear_other ws h.2, Memory.get_clear_other (by omega)]

/-- A byte of hall DRAM written is read back. -/
theorem Memory.cellAt_write_same {m : Memory} {a : Nat} {v : Byte} : cellAt (m.write a v).cells a = some v := cellAt_cellSet_same _

theorem Memory.cellAt_write_other {m : Memory} {a b : Nat} {v : Byte} (h : b ≠ a) : cellAt (m.write a v).cells b = cellAt m.cells b :=
  cellAt_cellSet_other h _

theorem Memory.cellAt_writeAll_other : ∀ (bs : List Byte) {m : Memory} {a b : Nat}, (b < a ∨ a + bs.length ≤ b) →
    cellAt (m.writeAll a bs).cells b = cellAt m.cells b
  | [], _, _, _, _ => rfl
  | v :: bs, m, a, b, h => by
    simp only [List.length_cons] at h
    show cellAt ((m.write a v).writeAll (a + 1) bs).cells b = _
    rw [Memory.cellAt_writeAll_other bs (by omega), Memory.cellAt_write_other (by omega)]

theorem Memory.cellAt_writeAll_same : ∀ (bs : List Byte) {m : Memory} {a i : Nat}, (hi : i < bs.length) →
    cellAt (m.writeAll a bs).cells (a + i) = some bs[i]
  | [], _, _, i, hi => absurd hi (Nat.not_lt_zero i)
  | v :: bs, m, a, 0, _ => by
    show cellAt ((m.write a v).writeAll (a + 1) bs).cells a = some v
    rw [Memory.cellAt_writeAll_other bs (by omega), Memory.cellAt_write_same]
  | v :: bs, m, a, i + 1, hi => by
    have hi' : i < bs.length := by simpa using hi
    show cellAt ((m.write a v).writeAll (a + 1) bs).cells (a + (i + 1)) = some bs[i]
    rw [show a + (i + 1) = a + 1 + i by omega]
    exact Memory.cellAt_writeAll_same bs hi'

end Sys2Proof

namespace Sys2Proof.Machine

/-! ### Stores -/

theorem Store.wf_iff {s : Store} :
    s.wf = true ↔ s.mem.wf = true ∧ s.written.Pairwise (· < ·) ∧ s.poison.Pairwise (· < ·) := by
  simp [Store.wf, and_assoc]

theorem Store.wf_zero : Store.zero.wf = true := by decide

theorem Store.wf_unwritten : Store.unwritten.wf = true := by decide

theorem Store.wf_write {s : Store} {a : Nat} {bs : List Byte} (h : s.wf = true) : (s.write a bs).wf = true := by
  rw [Store.wf_iff] at h ⊢
  refine ⟨?_, ?_, h.2.2.filter _⟩
  · apply Memory.wf_putAll
    split
    · exact Memory.wf_foldl_clear _ h.1
    · exact h.1
  · dsimp only [Store.write]
    split
    · exact foldl_sins_rising _ h.2.1
    · exact h.2.1

theorem Store.wf_setPoison {s : Store} {w : Nat} (h : s.wf = true) : (s.setPoison w).wf = true := by
  rw [Store.wf_iff] at h ⊢
  exact ⟨Memory.wf_clear h.1, h.2.1, sins_rising h.2.2⟩

theorem Store.wf_setUnwritten {s : Store} {w : Nat} (h : s.wf = true) : (s.setUnwritten w).wf = true := by
  rw [Store.wf_iff] at h ⊢
  exact ⟨Memory.wf_clear h.1, h.2.1.filter _, h.2.2.filter _⟩

theorem Store.wf_setMark {s : Store} {w : Nat} {p : Bool} (h : s.wf = true) : (s.setMark w p).wf = true := by
  unfold Store.setMark
  split
  · exact Store.wf_setPoison h
  · exact Store.wf_setUnwritten h

theorem Store.wf_scrub {s : Store} {a n : Nat} (h : s.wf = true) : (s.scrub a n).wf = true := by
  rw [Store.wf_iff] at h ⊢
  refine ⟨Memory.wf_clear h.1, ?_, h.2.2.filter _⟩
  dsimp only [Store.scrub]
  split
  · exact foldl_sins_rising _ h.2.1
  · exact h.2.1

/-- Bytes written to a store are read back. -/
theorem Store.read_write {s : Store} {a : Nat} {bs : List Byte} (h : s.wf = true) : (s.write a bs).read a bs.length = bs := by
  unfold Store.read Store.write
  apply Memory.getAll_putAll
  split
  · exact Memory.wf_foldl_clear _ (Store.wf_iff.1 h).1
  · exact (Store.wf_iff.1 h).1

/-- Bytes written to a store that is not in write-before-read mode leave every byte outside them. -/
theorem Store.get_write_other {s : Store} {a b : Nat} {bs : List Byte} (hw : s.wbr = false) (h : b < a ∨ a + bs.length ≤ b) :
    (s.write a bs).mem.get b = s.mem.get b := by
  unfold Store.write
  simp only [hw]
  exact Memory.get_putAll_other bs h

end Sys2Proof.Machine
end

