-- ==== Sys2Proof/Laws/Wf.lean ====
section
/-! SUPPORT. `Hall.Wf` is kept by the updates that every operation is made of. -/

namespace Sys2Proof.Machine

theorem Memory.wf_nil : (⟨[]⟩ : Memory).wf = true := rfl

/-- An update that keeps what `Hall.Wf` speaks of keeps `Hall.Wf`. -/
theorem Hall.Wf.congr {H K : Hall} (h : H.Wf) (ports : K.ports = H.ports) (gals : K.gals = H.gals) (cores : K.cores = H.cores)
    (tx : K.tx = H.tx) (parts : K.swp.parts = H.swp.parts) (log : K.dev.log = H.dev.log) (dram : K.mem.dram = H.mem.dram) : K.Wf :=
  ⟨ports ▸ h.ports, gals ▸ h.gals, cores ▸ h.cores, tx ▸ h.tx, parts ▸ h.parts, log ▸ h.log, ports ▸ h.held, cores ▸ h.op, gals ▸ h.store,
    dram ▸ h.dram⟩

/-- `Hall.Wf.congr` for a record update of a hall. -/
theorem Hall.Wf.update {X : Hall} {keyArray : KeyArray} {dev : Dev} {swp : Sweep} {pwr : Pwr} {err : Err} {sec : Sec} {mem : Mem} {cnt : Cnt}
    {cam : Cam} {streams : List TxStream} {feedErr : List Nat} {feeds : List FeedObj} {rings : List FeedRing} {stair : Stair} {ctxs : List Ctx}
    {serial now : Nat} {placed : List (Nat × Nat × Bool)} {struck : List (Nat × Option Nat)} (h : X.Wf) (parts : swp.parts = X.swp.parts) (log : dev.log = X.dev.log) (dram : mem.dram = X.mem.dram) :
    Hall.Wf ⟨keyArray, dev, X.ports, swp, pwr, err, sec, mem, cnt, cam, X.tx, streams, feedErr, feeds, rings, stair, X.gals, X.cores, ctxs, serial, now, placed,
      struck⟩ :=
  h.congr rfl rfl rfl rfl parts log dram

theorem modAt_length {α : Type} (l : List α) (i : Nat) (f : α → α) : (modAt l i f).length = l.length := List.length_modify ..

theorem mem_modAt {α : Type} {l : List α} {i : Nat} {f : α → α} {x : α} (h : x ∈ modAt l i f) : x ∈ l ∨ ∃ y ∈ l, x = f y := by
  unfold modAt at h
  obtain ⟨j, hj, rfl⟩ := List.mem_iff_getElem.1 h
  rw [List.getElem_modify]
  rw [List.length_modify] at hj
  split
  · exact Or.inr ⟨l[j], List.getElem_mem hj, rfl⟩
  · exact Or.inl (List.getElem_mem hj)

theorem Hall.Wf.onGal {H : Hall} (h : H.Wf) {g : Nat} {f : Gallery → Gallery} (hf : ∀ G : Gallery, G.store.wf = true → (f G).store.wf = true) :
    (H.onGal g f).Wf :=
  { h with
    gals := (modAt_length ..).trans h.gals
    store := fun G hG => by
      rcases mem_modAt hG with h1 | ⟨y, h1, rfl⟩
      · exact h.store G h1
      · exact hf y (h.store y h1) }

theorem Hall.Wf.onCore {H : Hall} (h : H.Wf) {c : Nat} {f : Core → Core} (hf : ∀ k : Core, k.op.wf = true → (f k).op.wf = true) :
    (H.onCore c f).Wf :=
  { h with
    cores := (modAt_length ..).trans h.cores
    op := fun k hk => by
      rcases mem_modAt hk with h1 | ⟨y, h1, rfl⟩
      · exact h.op k h1
      · exact hf y (h.op y h1) }

theorem Hall.Wf.onCtx {H : Hall} (h : H.Wf) {n : Nat} {f : Ctx → Ctx} : (H.onCtx n f).Wf := h.congr rfl rfl rfl rfl rfl rfl rfl
theorem Hall.Wf.onPart {H : Hall} (h : H.Wf) {p : Nat} {f : PartState → PartState} : (H.onPart p f).Wf :=
  { h with parts := (modAt_length ..).trans h.parts }
theorem Hall.Wf.onFrame {H : Hall} (h : H.Wf) {n : Nat} {f : Frame → Frame} : (H.onFrame n f).Wf := h.congr rfl rfl rfl rfl rfl rfl rfl
theorem Hall.Wf.onTx {H : Hall} (h : H.Wf) {t : Nat} {f : TxPort → TxPort} : (H.onTx t f).Wf :=
  { h with tx := (modAt_length ..).trans h.tx }
theorem Hall.Wf.onStream {H : Hall} (h : H.Wf) {n : Nat} {f : TxStream → TxStream} : (H.onStream n f).Wf := h.congr rfl rfl rfl rfl rfl rfl rfl
theorem Hall.Wf.onCamera {H : Hall} (h : H.Wf) {n : Nat} {f : Camera → Camera} : (H.onCamera n f).Wf := h.congr rfl rfl rfl rfl rfl rfl rfl
theorem Hall.Wf.onIsp {H : Hall} (h : H.Wf) {n : Nat} {f : IspCtx → IspCtx} : (H.onIsp n f).Wf := h.congr rfl rfl rfl rfl rfl rfl rfl
theorem Hall.Wf.onRun {H : Hall} (h : H.Wf) {r : SlotRun} {f : SlotRun → SlotRun} : (H.onRun r f).Wf := h.congr rfl rfl rfl rfl rfl rfl rfl
theorem Hall.Wf.onMark {H : Hall} (h : H.Wf) {p m sw : Nat} {f : MarkRun → MarkRun} : (H.onMark p m sw f).Wf := by
  unfold Hall.onMark; split <;> exact h.congr rfl rfl rfl rfl rfl rfl rfl
theorem Hall.Wf.onDom {H : Hall} (h : H.Wf) {d : Nat} {f : Dom → Dom} : (H.onDom d f).Wf := h.congr rfl rfl rfl rfl rfl rfl rfl
theorem Hall.Wf.onRx {H : Hall} (h : H.Wf) {p : Nat} {f : RxPort → RxPort} : (H.onRx p f).Wf := h.congr rfl rfl rfl rfl rfl rfl rfl
theorem Hall.Wf.onOpen {H : Hall} (h : H.Wf) {n : Nat} {f : RxFrame → RxFrame} : (H.onOpen n f).Wf := h.congr rfl rfl rfl rfl rfl rfl rfl
theorem Hall.Wf.onBusRec {H : Hall} (h : H.Wf) {n : Nat} {r : SetRec} {f : SetRec → SetRec} : (H.onBusRec n r f).Wf :=
  h.congr rfl rfl rfl rfl rfl rfl rfl

theorem Hall.Wf.ite {t f : Hall} {c : Prop} [Decidable c] (ht : t.Wf) (hf : f.Wf) : (if c then t else f : Hall).Wf := by
  split
  · exact ht
  · exact hf

/-- A fold keeps `Hall.Wf` when each of its steps does. -/
theorem Hall.Wf.foldl {α : Type} {f : Hall → α → Hall} (hf : ∀ H a, Hall.Wf H → (f H a).Wf) :
    ∀ (l : List α) {H : Hall}, H.Wf → (l.foldl f H).Wf
  | [], _, h => h
  | a :: l, _, h => Hall.Wf.foldl hf l (hf _ a h)

/-- What is kept of a hall in the state after a fold that carries something beside it. -/
theorem Hall.Wf.foldl_fst {α β : Type} {f : Hall × β → α → Hall × β} (hf : ∀ a x, Hall.Wf a.1 → (f a x).1.Wf) :
    ∀ (l : List α) {a : Hall × β}, a.1.Wf → (l.foldl f a).1.Wf
  | [], _, h => h
  | x :: l, a, h => Hall.Wf.foldl_fst hf l (hf a x h)

theorem Port.held_hold {P : Port} {e : Event} (h : P.events.length ≤ 64) : (P.hold e).events.length ≤ 64 := by
  unfold Port.hold
  split
  · simp; omega
  · simp only [List.length_append, List.length_dropLast, List.length_cons, List.length_nil]; omega

theorem insertEvent_length (e : Event) : ∀ l : List Event, (insertEvent e l).length = l.length + 1
  | [] => rfl
  | x :: r => by unfold insertEvent; split <;> simp [insertEvent_length e r]

theorem foldl_insertEvent_length : ∀ (l acc : List Event), (l.foldl (fun l e => insertEvent e l) acc).length = acc.length + l.length
  | [], _ => rfl
  | e :: l, acc => by rw [List.foldl_cons, foldl_insertEvent_length l, insertEvent_length]; simp; omega

/-- Sorting the events of a cycle keeps how many are held. -/
theorem Port.sortEvents_length (P : Port) (n : Nat) : (P.sortEvents n).events.length = P.events.length := by
  simp only [Port.sortEvents, List.length_append, foldl_insertEvent_length, List.length_take, List.length_drop, List.length_nil]
  omega

theorem Hall.Wf.onPorts {H : Hall} (h : H.Wf) {i : Nat} {f : Port → Port} (hf : ∀ P : Port, P.events.length ≤ 64 → (f P).events.length ≤ 64) :
    Hall.Wf { H with ports := modAt H.ports i f } :=
  { h with
    ports := (modAt_length ..).trans h.ports
    held := fun P hP => by
      rcases mem_modAt hP with h1 | ⟨y, h1, rfl⟩
      · exact h.held P h1
      · exact hf y (h.held y h1) }

theorem Hall.Wf.congrLog {H K : Hall} (h : H.Wf) (ports : K.ports = H.ports) (gals : K.gals = H.gals) (cores : K.cores = H.cores)
    (tx : K.tx = H.tx) (parts : K.swp.parts = H.swp.parts) (log : K.dev.log.length ≤ 256) (dram : K.mem.dram = H.mem.dram) : K.Wf :=
  ⟨ports ▸ h.ports, gals ▸ h.gals, cores ▸ h.cores, tx ▸ h.tx, parts ▸ h.parts, log, ports ▸ h.held, cores ▸ h.op, gals ▸ h.store,
    dram ▸ h.dram⟩

theorem Hall.addLog_length (H : Hall) (code unit arg port : Nat) : (H.addLog code unit arg port).dev.log.length ≤ 256 := by
  simp only [Hall.addLog, List.length_drop]; omega

theorem Hall.Wf.addLog {H : Hall} (h : H.Wf) {code unit arg port : Nat} : (H.addLog code unit arg port).Wf := by
  refine h.congrLog ?_ ?_ ?_ ?_ ?_ (H.addLog_length ..) ?_ <;> unfold Hall.addLog <;> rfl

theorem insertLog_length (e : LogEntry) : ∀ l : List LogEntry, (insertLog e l).length = l.length + 1
  | [] => rfl
  | x :: r => by unfold insertLog; split <;> simp [insertLog_length e r]

theorem orderLog_length : ∀ l : List LogEntry, (orderLog l).length = l.length
  | [] => rfl
  | e :: r => by unfold orderLog; split <;> simp [insertLog_length, orderLog_length r]

/-- Sorting the entries of a cycle keeps how many the log holds. -/
theorem Hall.sortLog_length (H : Hall) (n : Nat) : (H.sortLog n).dev.log.length = H.dev.log.length := by
  unfold Hall.sortLog
  extract_lets k new
  split
  · rfl
  · have hn : new.length = H.dev.log.length - k := List.length_drop ..
    simp only [List.length_append, List.length_zipWith, orderLog_length, List.length_take, hn]
    omega

theorem Hall.Wf.sortLog {H : Hall} (h : H.Wf) {n : Nat} : (H.sortLog n).Wf := by
  refine h.congrLog ?_ ?_ ?_ ?_ ?_ (by rw [H.sortLog_length]; exact h.log) ?_ <;> unfold Hall.sortLog <;> extract_lets k new <;> split <;> rfl

theorem Hall.Wf.mapGals {H : Hall} (h : H.Wf) {f : Gallery → Gallery} (hf : ∀ G : Gallery, G.store.wf = true → (f G).store.wf = true) :
    Hall.Wf { H with gals := H.gals.map f } :=
  { h with
    gals := (List.length_map ..).trans h.gals
    store := fun G hG => by obtain ⟨y, hy, rfl⟩ := List.mem_map.1 hG; exact hf y (h.store y hy) }

theorem Hall.Wf.mapCores {H : Hall} (h : H.Wf) {f : Core → Core} (hf : ∀ k : Core, k.op.wf = true → (f k).op.wf = true) :
    Hall.Wf { H with cores := H.cores.map f } :=
  { h with
    cores := (List.length_map ..).trans h.cores
    op := fun k hk => by obtain ⟨y, hy, rfl⟩ := List.mem_map.1 hk; exact hf y (h.op y hy) }

theorem Hall.Wf.mapParts {H : Hall} (h : H.Wf) {f : PartState → PartState} :
    Hall.Wf { H with swp := { H.swp with parts := H.swp.parts.map f } } :=
  { h with parts := (List.length_map ..).trans h.parts }

theorem Hall.Wf.mapTx {H : Hall} (h : H.Wf) {f : TxPort → TxPort} : Hall.Wf { H with tx := H.tx.map f } :=
  { h with tx := (List.length_map ..).trans h.tx }

theorem Hall.wf_reset (h c : Nat) : (Hall.reset h c).Wf where
  ports := rfl
  gals := List.length_replicate ..
  cores := List.length_replicate ..
  tx := List.length_replicate ..
  parts := List.length_replicate ..
  log := by simp [Hall.reset, Dev.reset]
  held := fun P hP => by
    simp only [Hall.reset, List.mem_cons, List.not_mem_nil, or_false, or_self] at hP; subst hP; exact Nat.zero_le _
  op := fun k hk => by rw [(List.mem_replicate.1 hk).2]; exact Store.wf_zero
  store := fun G hG => by rw [(List.mem_replicate.1 hG).2]; exact Store.wf_zero
  dram := rfl

end Sys2Proof.Machine
end

