-- ==== Sys2Proof/Laws/Keeps.lean ====
section
/-! SUPPORT. `State.Keeps` for the updates that every effect is made of. -/

namespace Sys2Proof.Machine

theorem State.Keeps.refl (s : State) : s.Keeps s := ⟨rfl, Nat.le_refl _, id, id⟩

theorem State.Keeps.trans {s t u : State} (h : s.Keeps t) (k : t.Keeps u) : s.Keeps u :=
  ⟨k.pending.trans h.pending, Nat.le_trans h.free k.free, fun x => k.tap (h.tap x), fun x => k.wf (h.wf x)⟩

/-- A record update that leaves the queue, the TAP and the halls alone, and draws no free value back. -/
theorem State.Keeps.update {s0 X : State} {por supply : Bool} {straps : Straps} {xspi free : Nat} {pkg : PkgPwr} {vst : Vst}
    {epochs : List Epochs} (h : s0.Keeps X) (hf : X.free ≤ free) :
    s0.Keeps ⟨por, supply, straps, X.imageSeen, X.jtag, xspi, pkg, vst, epochs, X.a, X.b, free, X.pending⟩ :=
  ⟨h.pending, Nat.le_trans h.free hf, h.tap, h.wf⟩

theorem State.Keeps.onHall {s0 s : State} (h : s0.Keeps s) {i : HallId} {f : Hall → Hall} (hf : ∀ H : Hall, H.Wf → (f H).Wf) :
    s0.Keeps (s.onHall i f) := by
  cases i
  · exact ⟨h.pending, h.free, h.tap, fun x => ⟨hf _ (h.wf x).1, (h.wf x).2⟩⟩
  · exact ⟨h.pending, h.free, h.tap, fun x => ⟨(h.wf x).1, hf _ (h.wf x).2⟩⟩

/-- A hall is replaced by one that is well formed when the state is. -/
theorem State.Keeps.setHall {s0 s : State} (h : s0.Keeps s) {i : HallId} {K : Hall} (hK : s.Wf → K.Wf) :
    s0.Keeps (s.onHall i fun _ => K) := by
  cases i
  · exact ⟨h.pending, h.free, h.tap, fun x => ⟨hK (h.wf x), (h.wf x).2⟩⟩
  · exact ⟨h.pending, h.free, h.tap, fun x => ⟨(h.wf x).1, hK (h.wf x)⟩⟩

theorem State.Wf.hall {s : State} (h : s.Wf) (i : HallId) : (s.hall i).Wf := by
  cases i
  · exact h.1
  · exact h.2

theorem State.Keeps.onPort {s0 s : State} (h : s0.Keeps s) {p : Nat} {f : Port → Port}
    (hf : ∀ P : Port, P.events.length ≤ 64 → (f P).events.length ≤ 64) : s0.Keeps (s.onPort p f) :=
  h.onHall fun _ hH => hH.onPorts hf

theorem State.Keeps.ite {s0 t f : State} {c : Prop} [Decidable c] (ht : s0.Keeps t) (hf : s0.Keeps f) : s0.Keeps (if c then t else f) := by
  split
  · exact ht
  · exact hf

theorem State.Keeps.ite_fst {s0 : State} {α : Type} {t f : State × α} {c : Prop} [Decidable c] (ht : s0.Keeps t.1) (hf : s0.Keeps f.1) :
    s0.Keeps (if c then t else f).1 := by
  split
  · exact ht
  · exact hf

theorem State.Keeps.foldl {s0 : State} {α : Type} {f : State → α → State} (hf : ∀ s a, s0.Keeps s → s0.Keeps (f s a)) :
    ∀ (l : List α) {s : State}, s0.Keeps s → s0.Keeps (l.foldl f s)
  | [], _, h => h
  | a :: l, _, h => State.Keeps.foldl hf l (hf _ a h)

theorem State.Keeps.foldl_fst {s0 : State} {α β : Type} {f : State × β → α → State × β}
    (hf : ∀ a x, s0.Keeps a.1 → s0.Keeps (f a x).1) : ∀ (l : List α) {a : State × β}, s0.Keeps a.1 → s0.Keeps (l.foldl f a).1
  | [], _, h => h
  | x :: l, a, h => State.Keeps.foldl_fst hf l (hf a x h)

theorem State.Keeps.inCycle {s0 s : State} {f : State → State} (h : s0.Keeps (f s)) : s0.Keeps (s.inCycle f) :=
  State.Keeps.foldl (fun _ _ ht => ht.onPort fun P hP => by rw [Port.sortEvents_length]; exact hP) _
    ⟨h.pending, h.free, h.tap, fun x => ⟨(h.wf x).1.sortLog, (h.wf x).2.sortLog⟩⟩

theorem State.Keeps.event {s0 s : State} (h : s0.Keeps s) {p : Nat} {e : Event} : s0.Keeps (s.event p e) :=
  h.onPort fun _ hP => Port.held_hold hP

theorem State.Keeps.draw {s0 s : State} (h : s0.Keeps s) {n : Nat} : s0.Keeps (s.draw n).2 := by
  unfold State.draw
  exact h.update (by omega)

end Sys2Proof.Machine
end

