-- ==== Sys2Proof/Laws/WfMemory.lean ====
section
/-! SUPPORT. The memories, records, settings, KV caches and frames keep `Hall.Wf`. -/

namespace Sys2Proof.Machine

set_option maxRecDepth 4000
theorem Hall.Wf.count {H : Hall} (h0 : H.Wf) {n k : Nat} : (H.count n k).Wf := by
  unfold Hall.count
  try dsimp only
  repeat' first
    | with_reducible assumption
    | intro _
    | split
    | refine Hall.Wf.update ?_ rfl rfl rfl

theorem Hall.Wf.countK {H : Hall} (h0 : H.Wf) {n k : Nat} : (H.countK n k).Wf := by
  unfold Hall.countK
  try dsimp only
  repeat' first
    | with_reducible assumption
    | intro _
    | with_reducible apply Hall.Wf.count
    | split
    | refine Hall.Wf.update ?_ rfl rfl rfl

set_option maxRecDepth 4000
theorem Hall.Wf.pump : ∀ (fuel : Nat) {H : Hall} (_ : H.Wf), (Hall.pump fuel H).Wf
  | 0, _, h0 => h0
  | fuel + 1, H, h0 => by
    unfold Hall.pump
    refine Hall.Wf.ite h0 ?_
    split
    · exact h0
    · rename_i m n _
      extract_lets H1
      have h1 : H1.Wf := Hall.Wf.update h0 rfl rfl rfl
      clear_value H1
      exact Hall.Wf.ite (Hall.Wf.pump fuel (Hall.Wf.count (Hall.Wf.count h1))) (Hall.Wf.pump fuel h1)

theorem Hall.Wf.flush {H : Hall} (h0 : H.Wf) : H.flush.Wf := Hall.Wf.pump _ h0

theorem Hall.Wf.sendStair {H : Hall} (h0 : H.Wf) {m : StairMsg} : (H.sendStair m).Wf := by
  unfold Hall.sendStair
  exact Hall.Wf.ite (Hall.Wf.count h0) (Hall.Wf.flush (Hall.Wf.update h0 rfl rfl rfl))

theorem Hall.Wf.flushControl {H : Hall} (h0 : H.Wf)  : (H.flushControl).Wf := by
  unfold Hall.flushControl
  try dsimp only
  repeat' first
    | with_reducible assumption
    | intro _
    | with_reducible apply Hall.Wf.count
    | with_reducible apply Hall.Wf.foldl
    | split
    | refine Hall.Wf.update ?_ rfl rfl rfl

theorem Hall.Wf.tell {H : Hall} (h0 : H.Wf) {c : ControlMsg} : (H.tell c).Wf := by
  unfold Hall.tell
  try dsimp only
  repeat' first
    | with_reducible assumption
    | intro _
    | with_reducible apply Hall.Wf.flushControl
    | split
    | refine Hall.Wf.update ?_ rfl rfl rfl

theorem Hall.Wf.sendOn {H : Hall} (h0 : H.Wf)  : (H.sendOn).Wf := by
  unfold Hall.sendOn
  try dsimp only
  repeat' first
    | with_reducible assumption
    | intro _
    | with_reducible apply Hall.Wf.flush
    | with_reducible apply Hall.Wf.flushControl

theorem Hall.Wf.refillControl {H : Hall} (h0 : H.Wf)  : (H.refillControl).Wf := by
  unfold Hall.refillControl
  try dsimp only
  repeat' first
    | with_reducible assumption
    | intro _
    | with_reducible apply Hall.Wf.flushControl
    | split
    | refine Hall.Wf.update ?_ rfl rfl rfl

set_option maxRecDepth 4000
theorem Hall.Wf.dramLose {H : Hall} (h0 : H.Wf) {a n : Nat} : (H.dramLose a n).Wf :=
  { h0 with dram := risingFrom_filter h0.dram }

theorem Hall.Wf.dramWrite {H : Hall} (h0 : H.Wf) {a : Nat} {bs : List Byte} : (H.dramWrite a bs).Wf := by
  have h1 : ∀ l : List Nat, (l.foldl (fun H l =>
    let ch := H.mem.lineChannel l
    let H := H.count (1408 + 4 * ch + 1) 1
    if partialLine a bs.length l then
      (H.count (1408 + 4 * ch + 2) 1 |> fun H => { H with mem := { H.mem with partials := inc16 H.mem.partials } })
    else H) H).Wf := fun l => by
    refine Hall.Wf.foldl (fun H l h => ?_) l h0
    dsimp only
    split
    · exact Hall.Wf.update (Hall.Wf.count (Hall.Wf.count h)) rfl rfl rfl
    · exact Hall.Wf.count h
  have h2 := h1 (linesOf a bs.length)
  exact { h2 with dram := Memory.rising_writeAll bs h2.dram }

theorem Hall.Wf.countReads {H : Hall} (h0 : H.Wf) {a n : Nat} : (H.countReads a n).Wf := by
  unfold Hall.countReads
  try dsimp only
  repeat' first
    | with_reducible assumption
    | intro _
    | with_reducible apply Hall.Wf.count
    | with_reducible apply Hall.Wf.foldl

theorem Hall.Wf.writeAt {H : Hall} (h0 : H.Wf) {p : Place} {a : Nat} {bs : List Byte} : (H.writeAt p a bs).Wf := by
  unfold Hall.writeAt
  split
  · exact h0.onCore fun k hk => Store.wf_write hk
  · exact Hall.Wf.countK (h0.onGal fun G hG => Store.wf_write hG)
  · exact h0.dramWrite

theorem Hall.Wf.setMark {H : Hall} (h0 : H.Wf) {m : Place × Nat × Bool} : (H.setMark m).Wf := by
  unfold Hall.setMark
  split
  · exact h0.onCore fun k hk => Store.wf_setMark hk
  · exact h0.onGal fun G hG => Store.wf_setMark hG
  · exact h0

theorem Hall.Wf.publish {H : Hall} (h0 : H.Wf) {w : Write} : (H.publish w).Wf := by
  unfold Hall.publish
  dsimp only
  split
  · exact Hall.Wf.update (h0.writeAt.onCore fun k hk => hk) rfl rfl rfl
  · exact h0.writeAt

theorem Hall.Wf.publishBytes {H : Hall} (h0 : H.Wf) {b : Built} : (H.publishBytes b).Wf :=
  Hall.Wf.foldl (fun H m h => Hall.Wf.setMark h) _ (Hall.Wf.foldl (fun H w h => Hall.Wf.publish h) _ h0)

theorem Hall.Wf.tidyBlocks {H : Hall} (h0 : H.Wf) {g : Nat} : (H.tidyBlocks g).Wf := by
  unfold Hall.tidyBlocks
  try dsimp only
  repeat' first
    | with_reducible assumption
    | intro _
    | with_reducible apply Hall.Wf.onGal

theorem Hall.Wf.cutBlock {H : Hall} (h0 : H.Wf) {g b size : Nat} : (H.cutBlock g b size).Wf := by
  unfold Hall.cutBlock
  try dsimp only
  repeat' first
    | with_reducible assumption
    | intro _
    | with_reducible apply Hall.Wf.onGal

theorem Hall.Wf.frameFill {H : Hall} (h0 : H.Wf) {n : Nat} {bs : List Byte} : (H.frameFill n bs).Wf := by
  unfold Hall.frameFill
  dsimp only
  repeat' split
  all_goals first
    | exact h0
    | exact h0.writeAt.dramWrite.onFrame
    | exact h0.writeAt
    | exact h0.dramWrite.onFrame

theorem Hall.Wf.allocFrame {H : Hall} (h0 : H.Wf) {part dom : Nat} {cache : Option Nat} {quota g size flags h : Nat} {r : Nat × Hall}
    (hr : H.allocFrame part dom cache quota g size flags h = some r) : r.2.Wf := by
  unfold Hall.allocFrame at hr
  revert hr
  lift_lets
  intro q cq piece cur f
  split
  · split
    · intro hr; exact absurd hr (by simp)
    · rename_i n m hm
      lift_lets
      intro H1 hr
      have hd : m.dram = H.mem.dram := by
        unfold Mem.takeHead at hm
        split at hm
        · cases hm; rfl
        · split at hm
          · exact absurd hm (by simp)
          · cases hm; rfl
      have h1 : H1.Wf := Hall.Wf.update h0 rfl rfl hd
      injection hr with hr
      subst hr
      clear_value H1 f piece
      rcases piece with _ | ⟨b, i⟩
      · exact h1
      · exact Hall.Wf.cutBlock h1
  · intro hr; exact absurd hr (by simp)

theorem Hall.Wf.freeFrame {H : Hall} (h0 : H.Wf) {n : Nat} : (H.freeFrame n).Wf := by
  unfold Hall.freeFrame
  try dsimp only
  repeat' first
    | with_reducible assumption
    | intro _
    | with_reducible apply Hall.Wf.tidyBlocks
    | split
    | refine Hall.Wf.update ?_ rfl rfl rfl

theorem Hall.Wf.setCell {H : Hall} (h0 : H.Wf) {i v : Nat} : (H.setCell i v).Wf := by
  unfold Hall.setCell
  try dsimp only
  repeat' first
    | with_reducible assumption
    | intro _
    | split
    | refine Hall.Wf.update ?_ rfl rfl rfl

theorem Hall.Wf.addCell {H : Hall} (h0 : H.Wf) {i k : Nat} : (H.addCell i k).Wf := by
  unfold Hall.addCell
  try dsimp only
  repeat' first
    | with_reducible assumption
    | intro _
    | with_reducible apply Hall.Wf.count
    | with_reducible apply Hall.Wf.setCell
    | with_reducible apply Hall.Wf.addLog
    | split
    | refine Hall.Wf.update ?_ rfl rfl rfl

set_option maxRecDepth 4000
theorem Hall.Wf.logOther {H : Hall} (h0 : H.Wf) {block unit off : Nat} : (H.logOther block unit off).Wf := by
  unfold Hall.logOther
  try dsimp only
  repeat' first
    | with_reducible assumption
    | intro _
    | with_reducible apply Hall.Wf.addLog

theorem Hall.Wf.eraseSlot {H : Hall} (h0 : H.Wf) {slot : Nat} : (H.eraseSlot slot).Wf := by
  unfold Hall.eraseSlot
  try dsimp only
  repeat' first
    | with_reducible assumption
    | intro _
    | split
    | refine Hall.Wf.update ?_ rfl rfl rfl

theorem Hall.Wf.eraseHandle {H : Hall} (h0 : H.Wf) {h handle : Nat} : (H.eraseHandle h handle).Wf := by
  unfold Hall.eraseHandle
  try dsimp only
  repeat' first
    | with_reducible assumption
    | intro _
    | with_reducible apply Hall.Wf.eraseSlot
    | split

theorem Hall.Wf.txSettle {H : Hall} (h0 : H.Wf) {t : Nat} : (H.txSettle t).Wf := by
  unfold Hall.txSettle
  try dsimp only
  repeat' first
    | with_reducible assumption
    | intro _
    | with_reducible apply Hall.Wf.onTx
    | split

theorem Hall.Wf.txStart {H0 : Hall} (h0 : H0.Wf) {h t : Nat} : (H0.txStart h t).Wf := by
  unfold Hall.txStart
  try dsimp only
  repeat' first
    | with_reducible assumption
    | intro _
    | with_reducible apply Hall.Wf.txSettle
    | with_reducible apply Hall.Wf.onStream
    | with_reducible apply Hall.Wf.onTx
    | split

theorem Hall.Wf.dropRecord {H : Hall} (h0 : H.Wf) {num : Nat} : (H.dropRecord num).Wf := by
  unfold Hall.dropRecord
  try dsimp only
  repeat' first
    | with_reducible assumption
    | intro _
    | with_reducible apply Hall.Wf.count
    | with_reducible apply Hall.Wf.onStream
    | with_reducible apply Hall.Wf.onTx
    | split

theorem Hall.Wf.emit {H : Hall} (h0 : H.Wf) {h num : Nat} {r : Record} : (H.emit h num r).2.Wf := by
  unfold Hall.emit
  dsimp only
  repeat' first
    | assumption
    | split
    | apply Hall.Wf.count
    | apply Hall.Wf.dropRecord
    | apply Hall.Wf.txStart
    | apply Hall.Wf.onStream
    | apply Hall.Wf.eraseHandle

theorem Hall.Wf.txPacketEnd {H : Hall} (h0 : H.Wf) {h t : Nat} : (H.txPacketEnd h t).Wf := by
  unfold Hall.txPacketEnd
  try dsimp only
  repeat' first
    | with_reducible assumption
    | intro _
    | with_reducible apply Hall.Wf.onTx
    | with_reducible apply Hall.Wf.txStart
    | with_reducible apply Hall.Wf.onStream
    | with_reducible apply Hall.Wf.count
    | split
    | refine Hall.Wf.update ?_ rfl rfl rfl

theorem Hall.Wf.ringRecord {H : Hall} (h0 : H.Wf) {h : Nat} {x : TxStream} : (H.ringRecord h x).Wf := by
  unfold Hall.ringRecord
  try dsimp only
  repeat' first
    | with_reducible assumption
    | intro _
    | with_reducible apply Hall.Wf.onStream
    | with_reducible apply Hall.Wf.dropRecord
    | with_reducible apply Hall.Wf.emit
    | split

set_option maxRecDepth 4000
theorem Hall.Wf.snsCount {H : Hall} (h0 : H.Wf) {n : Nat} {which : Nat} : (H.snsCount n which).Wf := by
  unfold Hall.snsCount
  try dsimp only
  repeat' first
    | with_reducible assumption
    | intro _
    | split
    | refine Hall.Wf.update ?_ rfl rfl rfl

theorem Hall.Wf.snsFail {H : Hall} (h0 : H.Wf) {n which : Nat} : (H.snsFail n which).Wf := by
  unfold Hall.snsFail
  try dsimp only
  repeat' first
    | with_reducible assumption
    | intro _
    | with_reducible apply Hall.Wf.snsCount
    | with_reducible apply Hall.Wf.logOther

theorem Hall.Wf.prepareBuses {H : Hall} (h0 : H.Wf) {h n : Nat} : (H.prepareBuses h n).Wf := by
  unfold Hall.prepareBuses
  try dsimp only
  repeat' first
    | with_reducible assumption
    | intro _
    | split
    | refine Hall.Wf.update ?_ rfl rfl rfl

theorem Hall.Wf.busStart {H : Hall} (h0 : H.Wf) {h ctrl : Nat} : (H.busStart h ctrl).Wf := by
  unfold Hall.busStart
  try dsimp only
  repeat' first
    | with_reducible assumption
    | intro _
    | with_reducible apply Hall.Wf.onCamera
    | split

theorem Hall.Wf.takeRecord {H : Hall} (h0 : H.Wf) {h : Nat} {c : Camera} {b : CameraBody} {p : PipeBody} {timed : Bool} :
    (H.takeRecord h c b p timed).Wf := by
  unfold Hall.takeRecord
  lift_lets
  intro st bs H1 pa hp ws r H2 H3 H4
  have h1 : H1.Wf := Hall.Wf.onCamera h0
  have h2 : H2.Wf := Hall.Wf.onCamera h1
  have h3 : H3.Wf := by
    show (if _ then _ else _ : Hall).Wf
    split
    · exact Hall.Wf.onIsp h2
    · exact h2
  have h4 : H4.Wf := by
    show (if _ then _ else _ : Hall).Wf
    split
    · exact Hall.Wf.snsCount h3
    · exact h3
  split
  · exact Hall.Wf.snsCount h1
  · exact Hall.Wf.busStart h4

theorem Hall.Wf.takeHead {H : Hall} (h0 : H.Wf) {h id : Nat} {moment : Bool} : (H.takeHead h id moment).Wf := by
  unfold Hall.takeHead
  try dsimp only
  repeat' first
    | with_reducible assumption
    | intro _
    | with_reducible apply Hall.Wf.setCell
    | with_reducible apply Hall.Wf.takeRecord
    | split

theorem Hall.Wf.takeSettings {H : Hall} (h0 : H.Wf) {h id : Nat} {moment : Bool} : (H.takeSettings h id moment).Wf := by
  unfold Hall.takeSettings
  try dsimp only
  repeat' first
    | with_reducible assumption
    | intro _
    | with_reducible apply Hall.Wf.setCell
    | with_reducible apply Hall.Wf.takeHead
    | with_reducible apply Hall.Wf.foldl
    | split

theorem Hall.Wf.deadlineMiss {H : Hall} (h0 : H.Wf) {h id : Nat} : (H.deadlineMiss h id).Wf := by
  unfold Hall.deadlineMiss
  try dsimp only
  repeat' first
    | with_reducible assumption
    | intro _
    | with_reducible apply Hall.Wf.onCamera
    | with_reducible apply Hall.Wf.snsFail
    | with_reducible apply Hall.Wf.foldl
    | split

set_option maxRecDepth 4000
theorem Hall.Wf.satisfy {H : Hall} (h0 : H.Wf) {ctx pos : Nat} : (H.satisfy ctx pos).Wf := by
  unfold Hall.satisfy
  try dsimp only
  repeat' first
    | with_reducible assumption
    | intro _
    | with_reducible apply Hall.Wf.onCtx

theorem Hall.Wf.wakePlain {H : Hall} (h0 : H.Wf) {i : Nat} : (H.wakePlain i).Wf := by
  unfold Hall.wakePlain
  try dsimp only
  repeat' first
    | with_reducible assumption
    | intro _
    | split
    | refine Hall.Wf.update ?_ rfl rfl rfl

theorem Hall.Wf.takeCell {H : Hall} (h0 : H.Wf) {i n : Nat} : (H.takeCell i n).Wf := by
  unfold Hall.takeCell
  try dsimp only
  repeat' first
    | with_reducible assumption
    | intro _
    | with_reducible apply Hall.Wf.setCell
    | with_reducible apply Hall.Wf.count
    | split

theorem Hall.Wf.testTaker {h i : Nat} {a : Hall × List Nat} {w : Waiter} (h0 : a.1.Wf) : (Hall.testTaker h i a w).1.Wf := by
  unfold Hall.testTaker
  dsimp only
  repeat' first
    | assumption
    | split
    | with_reducible exact Hall.Wf.takeSettings h0
    | with_reducible exact Hall.Wf.ringRecord (Hall.Wf.takeCell h0)
    | with_reducible exact Hall.Wf.satisfy (Hall.Wf.takeCell h0)

theorem Hall.Wf.wake : ∀ (fuel : Nat) {H : Hall} (_ : H.Wf) {h i : Nat}, (Hall.wake fuel H h i).Wf
  | 0, _, h0, _, _ => h0
  | fuel + 1, H, h0, h, i => by
    unfold Hall.wake
    have h1 : ((((H.wakePlain i).takers h i).foldl (Hall.testTaker h i) (H.wakePlain i, []))).1.Wf :=
      Hall.Wf.foldl_fst (fun a x ha => Hall.Wf.testTaker ha) _ (Hall.Wf.wakePlain h0)
    dsimp only
    split
    · exact h1
    · exact Hall.Wf.wake fuel (Hall.Wf.foldl (fun H f hH => Hall.Wf.wake fuel (Hall.Wf.addCell hH)) _ h1)

theorem Hall.Wf.signal {H : Hall} (h0 : H.Wf) {h i k : Nat} : (H.signal h i k).Wf := by
  unfold Hall.signal
  try dsimp only
  repeat' first
    | with_reducible assumption
    | intro _
    | with_reducible apply Hall.Wf.addCell
    | with_reducible apply Hall.Wf.wake
    | split
    | refine Hall.Wf.update ?_ rfl rfl rfl

theorem Hall.Wf.strike {H : Hall} (h0 : H.Wf) {e : Nat × Nat × Bool} : (H.strike e).Wf := by
  unfold Hall.strike
  try dsimp only
  repeat' first
    | with_reducible assumption
    | intro _
    | with_reducible apply Hall.Wf.setCell
    | with_reducible apply Hall.Wf.addCell
    | split
    | refine Hall.Wf.update ?_ rfl rfl rfl

theorem Hall.Wf.strikeAll {H : Hall} (h0 : H.Wf) {h : Nat} {sets signals : List (Nat × Nat)} : (H.strikeAll h sets signals).Wf := by
  unfold Hall.strikeAll
  try dsimp only
  repeat' first
    | with_reducible assumption
    | intro _
    | with_reducible apply Hall.Wf.strike
    | with_reducible apply Hall.Wf.wake
    | with_reducible apply Hall.Wf.foldl

theorem Hall.Wf.cellArrive {H : Hall} (h0 : H.Wf) {h : Nat} : (H.cellArrive h).Wf := by
  unfold Hall.cellArrive
  try dsimp only
  repeat' first
    | with_reducible assumption
    | intro _
    | with_reducible apply Hall.Wf.setCell
    | with_reducible apply Hall.Wf.addCell
    | with_reducible apply Hall.Wf.wake
    | split
    | refine Hall.Wf.update ?_ rfl rfl rfl

set_option maxRecDepth 4000
theorem Hall.Wf.landed {H : Hall} (h0 : H.Wf) {serial : Nat} : (H.landed serial).Wf := by
  unfold Hall.landed
  try dsimp only
  repeat' first
    | with_reducible assumption
    | intro _
    | split
    | refine Hall.Wf.update ?_ rfl rfl rfl

theorem Hall.Wf.cancelMove {H : Hall} (h0 : H.Wf) {n : Nat} : (H.cancelMove n).Wf := by
  unfold Hall.cancelMove
  try dsimp only
  repeat' first
    | with_reducible assumption
    | intro _
    | with_reducible apply Hall.Wf.onFrame
    | split
    | refine Hall.Wf.update ?_ rfl rfl rfl

theorem Hall.Wf.dropPieces {H : Hall} (h0 : H.Wf)  : (H.dropPieces).Wf := by
  unfold Hall.dropPieces
  try dsimp only
  repeat' first
    | with_reducible assumption
    | intro _
    | with_reducible apply Hall.Wf.tidyBlocks
    | with_reducible apply Hall.Wf.foldl
    | split
    | refine Hall.Wf.update ?_ rfl rfl rfl

theorem Hall.Wf.deferFrame {H : Hall} (h0 : H.Wf) {n : Nat} : (H.deferFrame n).Wf := by
  unfold Hall.deferFrame
  try dsimp only
  repeat' first
    | with_reducible assumption
    | intro _
    | with_reducible apply Hall.Wf.cancelMove
    | split
    | refine Hall.Wf.update ?_ rfl rfl rfl

theorem Hall.Wf.deferSlot {H : Hall} (h0 : H.Wf) {s : Nat × Nat} : (H.deferSlot s).Wf := by
  unfold Hall.deferSlot
  try dsimp only
  repeat' first
    | with_reducible assumption
    | intro _
    | split
    | refine Hall.Wf.update ?_ rfl rfl rfl

theorem Hall.Wf.releaseDeferred {H : Hall} (h0 : H.Wf)  : (H.releaseDeferred).Wf := by
  unfold Hall.releaseDeferred
  try dsimp only
  repeat' first
    | with_reducible assumption
    | intro _
    | with_reducible apply Hall.Wf.freeFrame
    | with_reducible apply Hall.Wf.foldl
    | split
    | refine Hall.Wf.update ?_ rfl rfl rfl

theorem Hall.Wf.refBy {H : Hall} (h0 : H.Wf) {n : Nat} {up : Bool} {holds : Bool} : (H.refBy n up holds).Wf := by
  unfold Hall.refBy
  try dsimp only
  repeat' first
    | with_reducible assumption
    | intro _
    | with_reducible apply Hall.Wf.onFrame

theorem Hall.Wf.onCache {H : Hall} (h0 : H.Wf) {n : Nat} {f : Cache → Cache} : (H.onCache n f).Wf := by
  unfold Hall.onCache
  try dsimp only
  repeat' first
    | with_reducible assumption
    | intro _
    | split
    | refine Hall.Wf.update ?_ rfl rfl rfl

theorem Hall.Wf.setStream {H : Hall} (h0 : H.Wf) {handle : Nat} {s : Stream} : (H.setStream handle s).Wf := by
  unfold Hall.setStream
  try dsimp only
  repeat' first
    | with_reducible assumption
    | intro _
    | with_reducible apply Hall.Wf.onCache

theorem Hall.Wf.fitRecords {H : Hall} (h0 : H.Wf) {h n : Nat} : (H.fitRecords h n).Wf := by
  unfold Hall.fitRecords
  split
  · exact h0
  · extract_lets want H1 r
    have h1 : H1.Wf := Hall.Wf.foldl (fun H f h => Hall.Wf.freeFrame h) _ h0
    have hr : r.1.Wf := by
      refine Hall.Wf.foldl_fst (fun a x ha => ?_) _ h1
      split
      · rename_i f H' hf
        exact Hall.Wf.allocFrame ha hf
      · exact ha
    exact Hall.Wf.onCache hr

theorem Hall.Wf.commitStreams {H : Hall} (h0 : H.Wf) {fresh : Option Nat} {ss : List (Nat × Stream)} : (H.commitStreams fresh ss).Wf := by
  unfold Hall.commitStreams
  try dsimp only
  repeat' first
    | with_reducible assumption
    | intro _
    | with_reducible apply Hall.Wf.refBy
    | with_reducible apply Hall.Wf.setStream
    | with_reducible apply Hall.Wf.deferFrame
    | with_reducible apply Hall.Wf.foldl
    | split

theorem Hall.Wf.commitKv {H : Hall} (h0 : H.Wf) {h : Nat} {x : Ctx} {k : Cmd} : (H.commitKv h x k).Wf := by
  unfold Hall.commitKv
  extract_lets b q1 H1 q2 H2 ss retire H3 H4 H5 cs
  have h1 : H1.Wf := by
    unfold H1
    split
    · exact Hall.Wf.update h0 rfl rfl rfl
    · exact h0
  clear_value H1
  have h2 : H2.Wf := by
    unfold H2
    split
    · exact Hall.Wf.foldl (fun H f h => Hall.Wf.freeFrame h) _ (Hall.Wf.update h1 rfl rfl rfl)
    · exact h1
  clear_value H2
  have h3 : H3.Wf := Hall.Wf.ite h2 (Hall.Wf.commitStreams h2)
  have h4 : H4.Wf := Hall.Wf.foldl (fun H r h => Hall.Wf.deferSlot h) _ h3
  have h5 : H5.Wf := Hall.Wf.foldl (fun H n h => Hall.Wf.ite (Hall.Wf.freeFrame h) h) _ h4
  exact Hall.Wf.foldl (fun H n h => Hall.Wf.fitRecords h) _ h5

set_option maxRecDepth 4000
theorem Hall.Wf.readPages {H : Hall} (h0 : H.Wf) {c : Cache} {gs : List Page} : (H.readPages c gs).Wf := by
  unfold Hall.readPages
  try dsimp only
  repeat' first
    | with_reducible assumption
    | intro _
    | with_reducible apply Hall.Wf.countReads
    | with_reducible apply Hall.Wf.foldl
    | split

theorem Hall.Wf.mismatch {H : Hall} (h0 : H.Wf)  : (H.mismatch).Wf := by
  unfold Hall.mismatch
  try dsimp only
  repeat' first
    | with_reducible assumption
    | intro _
    | with_reducible apply Hall.Wf.count
    | split
    | refine Hall.Wf.update ?_ rfl rfl rfl

set_option maxRecDepth 4000
theorem Hall.Wf.cancelDown {H : Hall} (h0 : H.Wf) {n : Nat} : (H.cancelDown n).Wf := by
  unfold Hall.cancelDown
  try dsimp only
  repeat' first
    | with_reducible assumption
    | intro _
    | with_reducible apply Hall.Wf.onFrame
    | split
    | refine Hall.Wf.update ?_ rfl rfl rfl

theorem Hall.Wf.spare {H : Hall} (h0 : H.Wf) {n : Nat} : (H.spare n).Wf := by
  unfold Hall.spare
  try dsimp only
  repeat' first
    | with_reducible assumption
    | intro _
    | with_reducible apply Hall.Wf.onFrame
    | split
    | refine Hall.Wf.update ?_ rfl rfl rfl

theorem Hall.Wf.holdsChanged {H : Hall} (h0 : H.Wf) {cls : Nat} : (H.holdsChanged cls).Wf := by
  unfold Hall.holdsChanged
  try dsimp only
  repeat' first
    | with_reducible assumption
    | intro _
    | with_reducible apply Hall.Wf.spare
    | with_reducible apply Hall.Wf.cancelDown
    | with_reducible apply Hall.Wf.foldl
    | split
    | refine Hall.Wf.update ?_ rfl rfl rfl

theorem Hall.Wf.moveUp {H : Hall} (h0 : H.Wf) {n g : Nat} {p : Nat × Nat} {size : Nat} : (H.moveUp n g p size).Wf := by
  unfold Hall.moveUp
  try dsimp only
  repeat' first
    | with_reducible assumption
    | intro _
    | with_reducible apply Hall.Wf.onFrame
    | with_reducible apply Hall.Wf.cutBlock

theorem Hall.Wf.moveDown {H : Hall} (h0 : H.Wf) {n cls : Nat} {forced : Bool} : (H.moveDown n cls forced).Wf := by
  unfold Hall.moveDown
  try dsimp only
  repeat' first
    | with_reducible assumption
    | intro _
    | with_reducible apply Hall.Wf.onFrame

theorem Hall.Wf.promoteIn {H : Hall} (h0 : H.Wf) {g : Nat} : (H.promoteIn g).Wf := by
  unfold Hall.promoteIn
  dsimp only
  refine Hall.Wf.foldl (fun H _ h => ?_) _ (Hall.Wf.foldl_fst (fun a x ha => ?_) _ h0)
  · split
    · exact h
    · exact Hall.Wf.update (Hall.Wf.count (Hall.Wf.moveDown h)) rfl rfl rfl
  · split
    · exact ha
    · split
      · exact Hall.Wf.moveUp ha
      · exact ha

theorem Hall.Wf.promote {H : Hall} (h0 : H.Wf)  : (H.promote).Wf := by
  unfold Hall.promote
  try dsimp only
  repeat' first
    | with_reducible assumption
    | intro _
    | with_reducible apply Hall.Wf.promoteIn
    | with_reducible apply Hall.Wf.foldl

theorem Hall.Wf.forceDown {H : Hall} (h0 : H.Wf) {g : Nat} : (H.forceDown g).Wf := by
  unfold Hall.forceDown
  try dsimp only
  repeat' first
    | with_reducible assumption
    | intro _
    | with_reducible apply Hall.Wf.moveDown
    | with_reducible apply Hall.Wf.foldl
    | split

theorem Hall.Wf.shrinkArea : ∀ (fuel : Nat) {H : Hall} (_ : H.Wf) {g : Nat}, (Hall.shrinkArea fuel H g).Wf
  | 0, _, h0, _ => h0
  | fuel + 1, H, h0, g => by
    unfold Hall.shrinkArea
    dsimp only
    repeat' split
    · exact h0
    · exact h0.onGal fun G hG => hG
    · refine Hall.Wf.shrinkArea fuel (Hall.Wf.onGal h0 ?_)
      exact fun G hG => hG
    · exact h0

theorem Hall.Wf.startShrink {H : Hall} (h0 : H.Wf) {g t : Nat} : (H.startShrink g t).Wf := by
  unfold Hall.startShrink
  try dsimp only
  repeat' first
    | with_reducible assumption
    | intro _
    | with_reducible apply Hall.Wf.shrinkArea
    | with_reducible apply Hall.Wf.onGal
    | with_reducible apply Hall.Wf.forceDown

theorem Hall.Wf.frameMoveCommit {H : Hall} (h0 : H.Wf) {h n : Nat} : (H.frameMoveCommit h n).Wf := by
  unfold Hall.frameMoveCommit
  try dsimp only
  repeat' first
    | with_reducible assumption
    | intro _
    | with_reducible apply Hall.Wf.countReads
    | with_reducible apply Hall.Wf.writeAt
    | with_reducible apply Hall.Wf.onFrame
    | with_reducible apply Hall.Wf.count
    | with_reducible apply Hall.Wf.forceDown
    | with_reducible apply Hall.Wf.promote
    | with_reducible apply Hall.Wf.dramWrite
    | with_reducible apply Hall.Wf.tidyBlocks
    | with_reducible apply Hall.Wf.shrinkArea
    | with_reducible apply Hall.Wf.holdsChanged
    | split
    | with_reducible apply Store.wf_write
    | with_reducible apply Store.wf_scrub
    | with_reducible apply Store.wf_setPoison
    | exact Store.wf_zero
    | exact Store.wf_unwritten
    | refine Hall.Wf.update ?_ rfl rfl rfl

theorem Hall.Wf.placeStreams {H : Hall} (h0 : H.Wf) {first count : Nat} {hold : Bool} : (H.placeStreams first count hold).Wf := by
  unfold Hall.placeStreams
  try dsimp only
  repeat' first
    | with_reducible assumption
    | intro _
    | with_reducible apply Hall.Wf.onFrame
    | with_reducible apply Hall.Wf.setStream
    | with_reducible apply Hall.Wf.foldl
    | split

theorem Hall.Wf.repin {H : Hall} (h0 : H.Wf) {old : Nat} : (H.repin old).Wf := by
  unfold Hall.repin
  try dsimp only
  repeat' first
    | with_reducible assumption
    | intro _
    | split
    | refine Hall.Wf.update ?_ rfl rfl rfl

theorem Hall.Wf.onward {H : Hall} (h0 : H.Wf) {cyc : Nat} : (H.onward cyc).Wf := by
  unfold Hall.onward
  try dsimp only
  repeat' first
    | with_reducible assumption
    | intro _
    | with_reducible apply Hall.Wf.repin
    | split
    | refine Hall.Wf.update ?_ rfl rfl rfl

theorem Hall.Wf.storeLostFrames {H : Hall} (h0 : H.Wf) {g : Nat} : (H.storeLostFrames g).Wf := by
  unfold Hall.storeLostFrames
  try dsimp only
  repeat' first
    | with_reducible assumption
    | intro _
    | with_reducible apply Hall.Wf.onGal
    | split
    | refine Hall.Wf.update ?_ rfl rfl rfl

end Sys2Proof.Machine
end

