-- ==== Sys2Proof/Laws/WfEngine.lean ====
section
/-! SUPPORT. The engines, contexts, slots and commits keep `Hall.Wf`. -/

namespace Sys2Proof.Machine

set_option maxRecDepth 4000
theorem Hall.Wf.requestKill {H : Hall} (h0 : H.Wf) {ctx pos : Nat} {c : KillCause} : (H.requestKill ctx pos c).Wf := by
  unfold Hall.requestKill
  try dsimp only
  repeat' first
    | with_reducible assumption
    | intro _
    | with_reducible apply Hall.Wf.onCtx

theorem Hall.Wf.preempt {H : Hall} (h0 : H.Wf) {h : Nat} : (H.preempt h).Wf := by
  unfold Hall.preempt
  exact Hall.Wf.foldl (fun H x h => Hall.Wf.foldl (fun H k h => Hall.Wf.foldl (fun H e h => Hall.Wf.requestKill h) _ h) _ h) _ h0

theorem Hall.Wf.markWait {H : Hall} (h0 : H.Wf) {ctx : Nat} {k : Cmd} {l s : Bool} : (H.markWait ctx k l s).Wf := by
  unfold Hall.markWait
  try dsimp only
  repeat' first
    | with_reducible assumption
    | intro _
    | with_reducible apply Hall.Wf.onCtx
    | with_reducible apply Hall.Wf.count
    | split
    | refine Hall.Wf.update ?_ rfl rfl rfl

theorem Hall.Wf.markWaits {H : Hall} (h0 : H.Wf) {h : Nat} : (H.markWaits h).Wf := by
  unfold Hall.markWaits
  try dsimp only
  repeat' first
    | with_reducible assumption
    | intro _
    | with_reducible apply Hall.Wf.markWait
    | with_reducible apply Hall.Wf.foldl

theorem Hall.Wf.settle {H : Hall} (h0 : H.Wf) {h : Nat} : (H.settle h).Wf := by
  unfold Hall.settle
  try dsimp only
  repeat' first
    | with_reducible assumption
    | intro _
    | with_reducible apply Hall.Wf.markWaits
    | with_reducible apply Hall.Wf.preempt

theorem Hall.Wf.book {H : Hall} (h0 : H.Wf) {h cyc : Nat} : (H.book h cyc).Wf := by
  unfold Hall.book
  try dsimp only
  repeat' first
    | with_reducible assumption
    | intro _
    | with_reducible apply Hall.Wf.foldl
    | split
    | refine Hall.Wf.update ?_ rfl rfl rfl

theorem Hall.Wf.countBusy {H : Hall} (h0 : H.Wf) {c : Nat} {d : List Byte} {n : Nat} : (H.countBusy c d n).Wf := by
  unfold Hall.countBusy
  try dsimp only
  repeat' first
    | with_reducible assumption
    | intro _
    | with_reducible apply Hall.Wf.count
    | split

theorem Hall.Wf.letGo {H : Hall} (h0 : H.Wf) {core : Nat} {k : Cmd} {stop : Nat} : (H.letGo core k stop).Wf := by
  unfold Hall.letGo
  try dsimp only
  repeat' first
    | with_reducible assumption
    | intro _
    | with_reducible apply Hall.Wf.freeFrame
    | with_reducible apply Hall.Wf.onCore
    | with_reducible apply Hall.Wf.landed
    | with_reducible apply Hall.Wf.foldl
    | split
    | refine Hall.Wf.update ?_ rfl rfl rfl
    | dsimp only
    | assumption

theorem Hall.Wf.releaseRun {H : Hall} (h0 : H.Wf) {ctx : Nat} {k : Cmd} {cyc : Nat} {keep : Bool} {counted : Bool} : (H.releaseRun ctx k cyc keep counted).Wf := by
  unfold Hall.releaseRun
  try dsimp only
  repeat' first
    | with_reducible assumption
    | intro _
    | with_reducible apply Hall.Wf.letGo
    | with_reducible apply Hall.Wf.onCtx
    | with_reducible apply Hall.Wf.count
    | with_reducible apply Hall.Wf.countBusy
    | split

theorem Hall.Wf.countKill {H : Hall} (h0 : H.Wf) {core : Nat} {c : KillCause} : (H.countKill core c).Wf := by
  unfold Hall.countKill
  try dsimp only
  repeat' first
    | with_reducible assumption
    | intro _
    | with_reducible apply Hall.Wf.onGal
    | with_reducible apply Hall.Wf.preempt
    | split

theorem Hall.Wf.settled {H : Hall} (h0 : H.Wf) : H.settled.Wf := by
  unfold Hall.settled
  refine Hall.Wf.foldl (fun H k h => ?_) _ h0
  extract_lets H1
  have h1 : H1.Wf := Hall.Wf.foldl (fun H w h => by
    split
    · exact h.onCore fun k hk => Store.wf_write hk
    · exact h.onGal fun G hG => Store.wf_write hG
    · exact { h with dram := Memory.rising_writeAll _ h.dram }) _ h
  exact Hall.Wf.foldl (fun H p h => Hall.Wf.frameFill h) _ (Hall.Wf.foldl (fun H m h => Hall.Wf.setMark h) _ h1)

theorem Hall.Wf.sampleCommit {H : Hall} (h0 : H.Wf) {c ctx op seq : Nat} : (H.sampleCommit c ctx op seq).Wf := by
  unfold Hall.sampleCommit
  try dsimp only
  repeat' first
    | with_reducible assumption
    | intro _
    | with_reducible apply Hall.Wf.foldl
    | split
    | refine Hall.Wf.update ?_ rfl rfl rfl

theorem Hall.Wf.commit {H : Hall} (h0 : H.Wf) {x : Ctx} {k : Cmd} {cyc : Nat} : (H.commit x k cyc).Wf := by
  unfold Hall.commit
  extract_lets c g b H1 H2 H3 H4 H5 H6
  have h1 : H1.Wf := by
    refine Hall.Wf.landed (Hall.Wf.onCore h0 ?_)
    exact fun k hk => hk
  have h2 : H2.Wf := Hall.Wf.onCtx h1
  have h3 : H3.Wf := Hall.Wf.count (Hall.Wf.count (Hall.Wf.countK (Hall.Wf.count (Hall.Wf.countBusy h2))))
  have h4 : H4.Wf := Hall.Wf.foldl (fun H e h => Hall.Wf.countK h) _ h3
  have h5 : H5.Wf := Hall.Wf.countK h4
  have h6 : H6.Wf := Hall.Wf.ite (Hall.Wf.count (Hall.Wf.count h5)) h5
  exact Hall.Wf.sampleCommit h6

set_option maxRecDepth 4000
theorem Hall.Wf.seat {H : Hall} (h0 : H.Wf) {x : Ctx} {c cyc : Nat} : (H.seat x c cyc).Wf := by
  unfold Hall.seat
  try dsimp only
  repeat' first
    | with_reducible assumption
    | intro _
    | with_reducible apply Hall.Wf.onCtx

theorem Hall.Wf.takeFrames {H : Hall} (h0 : H.Wf) {h : Nat} {x : Ctx} {n : Nat} {r : List Nat × Hall} (hr : H.takeFrames h x n = some r) :
    r.2.Wf := by
  unfold Hall.takeFrames at hr
  revert hr
  extract_lets g
  intro hr
  refine List.foldlRecOn (motive := fun (a : Option (List Nat × Hall)) => ∀ q, a = some q → q.2.Wf) _ _ ?_ ?_ r hr
  · intro q hq
    injection hq with hq
    subst hq
    exact h0
  · intro a ha _ _ q hq
    split at hq
    · exact absurd hq (by simp)
    · rename_i ns H'
      split at hq
      · exact absurd hq (by simp)
      · rename_i f H1 hf
        split at hq
        · exact absurd hq (by simp)
        · injection hq with hq
          subst hq
          exact Hall.Wf.allocFrame (ha _ rfl) hf

theorem Hall.Wf.beginSave {H : Hall} (h0 : H.Wf) {h : Nat} {x : Ctx} : (H.beginSave h x).Wf := by
  unfold Hall.beginSave
  extract_lets rs total g H1 k late
  have h1 : H1.Wf := by
    refine Hall.Wf.count (Hall.Wf.onGal h0 ?_)
    exact fun G hG => hG
  clear_value H1
  cases hf : H.takeFrames h x total with
  | none => exact Hall.Wf.onCtx h1
  | some r =>
    obtain ⟨ns, H2⟩ := r
    exact Hall.Wf.onCtx (Hall.Wf.takeFrames h0 hf)

theorem Hall.Wf.endSave {H : Hall} (h0 : H.Wf) {x : Ctx} : (H.endSave x).Wf := by
  unfold Hall.endSave
  try dsimp only
  repeat' first
    | with_reducible assumption
    | intro _
    | with_reducible apply Hall.Wf.onCtx
    | split

theorem Hall.Wf.resumeSaves {H : Hall} (h0 : H.Wf) {h : Nat} : (H.resumeSaves h).Wf := by
  unfold Hall.resumeSaves
  refine Hall.Wf.foldl (fun H x h => ?_) _ h0
  split
  · exact h
  · extract_lets H1
    have h1 : H1.Wf := Hall.Wf.beginSave h
    clear_value H1
    exact Hall.Wf.ite (Hall.Wf.endSave h) (Hall.Wf.ite (Hall.Wf.ite h1 (Hall.Wf.onGal h1 fun G hG => hG)) h)

theorem Hall.Wf.chooseVictim {H : Hall} (h0 : H.Wf) {forced : Bool} {x : Ctx} : (H.chooseVictim forced x).Wf := by
  unfold Hall.chooseVictim
  extract_lets H1 n H2
  have h1 : H1.Wf := Hall.Wf.onCtx h0
  have h2 : H2.Wf := Hall.Wf.onGal h1 fun G hG => hG
  exact Hall.Wf.ite (Hall.Wf.foldl (fun H k h => Hall.Wf.requestKill h) _ h2) h1

theorem Hall.Wf.dropSaved {H : Hall} (h0 : H.Wf) {x : Ctx} : (H.dropSaved x).Wf := by
  unfold Hall.dropSaved
  try dsimp only
  repeat' first
    | with_reducible assumption
    | intro _
    | with_reducible apply Hall.Wf.freeFrame
    | with_reducible apply Hall.Wf.onCtx
    | with_reducible apply Hall.Wf.foldl
    | split

theorem Hall.Wf.admitCtx : ∀ (fuel : Nat) {H : Hall} (_ : H.Wf) {h c cyc : Nat}, (Hall.admitCtx fuel H h c cyc).Wf
  | 0, _, h0, _, _, _ => h0
  | fuel + 1, H, h0, h, c, cyc => by
    unfold Hall.admitCtx
    split
    · exact h0
    · extract_lets rs held
      refine Hall.Wf.ite h0 (Hall.Wf.ite (Hall.Wf.admitCtx fuel (Hall.Wf.seat h0)) (Hall.Wf.ite ?_ (Hall.Wf.ite h0 ?_)))
      · exact Hall.Wf.resumeSaves (Hall.Wf.foldl (fun H x h => Hall.Wf.chooseVictim h) _ h0)
      · exact Hall.Wf.resumeSaves (Hall.Wf.foldl (fun H x h => Hall.Wf.chooseVictim h) _ h0)

theorem Hall.Wf.swapOutDone {H : Hall} (h0 : H.Wf) {h ctx cyc : Nat} : (H.swapOutDone h ctx cyc).Wf := by
  unfold Hall.swapOutDone
  split
  · exact h0
  · extract_lets g asleep H1 H2 H3
    have h1 : H1.Wf := Hall.Wf.onCtx h0
    have h2 : H2.Wf := by
      refine Hall.Wf.count (Hall.Wf.onGal h1 ?_)
      exact fun G hG => hG
    have h3 : H3.Wf := Hall.Wf.ite h2 (Hall.Wf.dropSaved h2)
    exact Hall.Wf.ite h0 (Hall.Wf.admitCtx 32 h3)

theorem Hall.Wf.swapInDone {H : Hall} (h0 : H.Wf) {ctx : Nat} : (H.swapInDone ctx).Wf := by
  unfold Hall.swapInDone
  split
  · exact h0
  · split
    · refine Hall.Wf.onCtx (Hall.Wf.foldl (fun H n h => Hall.Wf.freeFrame h) _ (Hall.Wf.onCore h0 fun k hk => ?_))
      dsimp only
      refine List.foldlRecOn _ _ (motive := fun st : Store => st.wf = true) ?_ fun st hst m _ => Store.wf_setMark hst
      exact List.foldlRecOn _ _ (motive := fun st : Store => st.wf = true) hk fun st hst r _ => Store.wf_write hst
    · exact h0

theorem Hall.Wf.insertCtx {H : Hall} (h0 : H.Wf) {x : Ctx} : (H.insertCtx x).Wf := by
  unfold Hall.insertCtx
  try dsimp only
  repeat' first
    | with_reducible assumption
    | intro _
    | split
    | refine Hall.Wf.update ?_ rfl rfl rfl

theorem Hall.Wf.settleCtx {H : Hall} (h0 : H.Wf) {h num : Nat} : (H.settleCtx h num).Wf := by
  unfold Hall.settleCtx
  split
  · exact h0
  · exact Hall.Wf.ite h0 (Hall.Wf.admitCtx 32 (Hall.Wf.onCtx h0))

theorem Hall.Wf.endCtx {H : Hall} (h0 : H.Wf) {num : Nat} {st : CtxState} {cyc : Nat} : (H.endCtx num st cyc).Wf := by
  unfold Hall.endCtx
  try dsimp only
  repeat' first
    | with_reducible assumption
    | intro _
    | with_reducible apply Hall.Wf.releaseRun
    | with_reducible apply Hall.Wf.onCtx
    | with_reducible apply Hall.Wf.dropSaved
    | with_reducible apply Hall.Wf.settled
    | with_reducible apply Hall.Wf.foldl
    | split

theorem Hall.Wf.idleCtx {H : Hall} (h0 : H.Wf) {num cyc : Nat} : (H.idleCtx num cyc).Wf := by
  unfold Hall.idleCtx
  try dsimp only
  repeat' first
    | with_reducible assumption
    | intro _
    | with_reducible apply Hall.Wf.onCtx

theorem Hall.Wf.admitWaiting {H : Hall} (h0 : H.Wf) {h : Nat} : (H.admitWaiting h).Wf :=
  Hall.Wf.foldl (fun H c h => Hall.Wf.admitCtx 32 h) _ h0

theorem Hall.Wf.beginReplay {H : Hall} (h0 : H.Wf) {h : Nat} {x : Ctx} : (H.beginReplay h x).Wf := by
  unfold Hall.beginReplay
  try dsimp only
  repeat' first
    | with_reducible assumption
    | intro _
    | with_reducible apply Hall.Wf.onCtx
    | with_reducible apply Hall.Wf.foldl
    | split

theorem Hall.Wf.savedAtFence {H : Hall} (h0 : H.Wf) {x : Ctx} : (H.savedAtFence x).Wf := by
  unfold Hall.savedAtFence
  try dsimp only
  repeat' first
    | with_reducible assumption
    | intro _
    | with_reducible apply Hall.Wf.onGal
    | with_reducible apply Hall.Wf.count
    | with_reducible apply Hall.Wf.onCtx
    | split

set_option maxRecDepth 4000
theorem Hall.Wf.predict {H : Hall} (h0 : H.Wf) {p : Nat} {t : SweepTable} {s : Slot} {r : SlotRun} {now : Nat} : (H.predict p t s r now).Wf := by
  unfold Hall.predict
  try dsimp only
  repeat' first
    | with_reducible assumption
    | intro _
    | with_reducible apply Hall.Wf.requestKill
    | with_reducible apply Hall.Wf.onCtx
    | with_reducible apply Hall.Wf.onRun
    | with_reducible apply Hall.Wf.count
    | with_reducible apply Hall.Wf.foldl
    | split
    | refine Hall.Wf.update ?_ rfl rfl rfl

theorem Hall.Wf.startFallbacks {H : Hall} (h0 : H.Wf)  : (H.startFallbacks).Wf := by
  unfold Hall.startFallbacks
  try dsimp only
  repeat' first
    | with_reducible assumption
    | intro _
    | with_reducible apply Hall.Wf.onCtx
    | with_reducible apply Hall.Wf.foldl
    | split

theorem Hall.Wf.issueSlot {H : Hall} (h0 : H.Wf) {im : Image} {p : Nat} {t : SweepTable} {s : Slot} {n : Nat} {late : Bool} {dataTick dataSweep : Nat} : (H.issueSlot im p t s n late dataTick dataSweep).Wf := by
  unfold Hall.issueSlot
  try dsimp only
  repeat' first
    | with_reducible assumption
    | intro _
    | with_reducible apply Hall.Wf.count
    | with_reducible apply Hall.Wf.onCtx
    | with_reducible apply Hall.Wf.predict
    | with_reducible apply Hall.Wf.startFallbacks
    | with_reducible apply Hall.Wf.foldl
    | split
    | refine Hall.Wf.update ?_ rfl rfl rfl

theorem Hall.Wf.holdSlot {H : Hall} (h0 : H.Wf) {im : Image} {p : Nat} {t : SweepTable} {s : Slot} {waiting late : Bool} {dataTick dataSweep : Nat} : (H.holdSlot im p t s waiting late dataTick dataSweep).Wf := by
  unfold Hall.holdSlot
  try dsimp only
  repeat' first
    | with_reducible assumption
    | intro _
    | split
    | refine Hall.Wf.update ?_ rfl rfl rfl

theorem Hall.Wf.tryIssue {H : Hall} (h0 : H.Wf) {im : Image} {p : Nat} {t : SweepTable} {s : Slot} {n : Nat} {late : Bool} {dataTick dataSweep : Nat} : (H.tryIssue im p t s n late dataTick dataSweep).Wf := by
  unfold Hall.tryIssue
  try dsimp only
  repeat' first
    | with_reducible assumption
    | intro _
    | with_reducible apply Hall.Wf.holdSlot
    | with_reducible apply Hall.Wf.addLog
    | with_reducible apply Hall.Wf.issueSlot
    | split
    | refine Hall.Wf.update ?_ rfl rfl rfl

theorem Hall.Wf.startSlots {H : Hall} (h0 : H.Wf) {n : Nat} : (H.startSlots n).Wf := by
  unfold Hall.startSlots
  try dsimp only
  repeat' first
    | with_reducible assumption
    | intro _
    | with_reducible apply Hall.Wf.tryIssue
    | with_reducible apply Hall.Wf.holdSlot
    | with_reducible apply Hall.Wf.foldl
    | split

theorem Hall.Wf.trigger {H : Hall} (h0 : H.Wf) {ev : Nat} : (H.trigger ev).Wf := by
  unfold Hall.trigger
  try dsimp only
  repeat' first
    | with_reducible assumption
    | intro _
    | with_reducible apply Hall.Wf.addLog
    | with_reducible apply Hall.Wf.count
    | with_reducible apply Hall.Wf.tryIssue
    | with_reducible apply Hall.Wf.foldl
    | split
    | refine Hall.Wf.update ?_ rfl rfl rfl

theorem Hall.Wf.deferredIssue {H : Hall} (h0 : H.Wf) {p slot : Nat} : (H.deferredIssue p slot).Wf := by
  unfold Hall.deferredIssue
  try dsimp only
  repeat' first
    | with_reducible assumption
    | intro _
    | with_reducible apply Hall.Wf.issueSlot
    | split

theorem Hall.Wf.miss {H : Hall} (h0 : H.Wf) {r : SlotRun} : (H.miss r).Wf := by
  unfold Hall.miss
  try dsimp only
  repeat' first
    | with_reducible assumption
    | intro _
    | with_reducible apply Hall.Wf.onRun
    | with_reducible apply Hall.Wf.addLog
    | with_reducible apply Hall.Wf.count
    | split
    | refine Hall.Wf.update ?_ rfl rfl rfl

theorem Hall.Wf.checkDeadlines {H : Hall} (h0 : H.Wf) {tb : Nat} : (H.checkDeadlines tb).Wf := by
  unfold Hall.checkDeadlines
  try dsimp only
  repeat' first
    | with_reducible assumption
    | intro _
    | with_reducible apply Hall.Wf.miss
    | with_reducible apply Hall.Wf.foldl
    | split

theorem Hall.Wf.expire {H : Hall} (h0 : H.Wf) {n sweep : Nat} : (H.expire n sweep).Wf := by
  unfold Hall.expire
  try dsimp only
  repeat' first
    | with_reducible assumption
    | intro _
    | with_reducible apply Hall.Wf.onRun
    | with_reducible apply Hall.Wf.addLog
    | with_reducible apply Hall.Wf.count
    | with_reducible apply Hall.Wf.foldl
    | split

theorem Hall.Wf.emitResult {H : Hall} (h0 : H.Wf) {h : Nat} {t : SweepTable} {s : Slot} {r : SlotRun} {single : Bool} {verdict mark : Nat} : (H.emitResult h t s r single verdict mark).Wf := by
  unfold Hall.emitResult
  try dsimp only
  repeat' first
    | with_reducible assumption
    | intro _
    | with_reducible apply Hall.Wf.emit
    | with_reducible apply Hall.Wf.count
    | with_reducible apply Hall.Wf.onRun
    | split

theorem Hall.Wf.emitVerdict {H : Hall} (h0 : H.Wf) {h : Nat} {s : Slot} {r : SlotRun} {single : Bool} {verdict mark judged : Nat} : (H.emitVerdict h s r single verdict mark judged).Wf := by
  unfold Hall.emitVerdict
  try dsimp only
  repeat' first
    | with_reducible assumption
    | intro _
    | with_reducible apply Hall.Wf.emit
    | with_reducible apply Hall.Wf.count
    | split

theorem Hall.Wf.verdict {H : Hall} (h0 : H.Wf) {h : Nat} {im : Image} {t : SweepTable} {m : MarkEntry} {sweep v : Nat} : (H.verdict h im t m sweep v).Wf := by
  unfold Hall.verdict
  try dsimp only
  repeat' first
    | with_reducible assumption
    | intro _
    | with_reducible apply Hall.Wf.onMark
    | with_reducible apply Hall.Wf.addLog
    | with_reducible apply Hall.Wf.onPart
    | with_reducible apply Hall.Wf.emitVerdict
    | with_reducible apply Hall.Wf.emitResult
    | split
    | refine Hall.Wf.update ?_ rfl rfl rfl

theorem Hall.Wf.tryJudge {H : Hall} (h0 : H.Wf) {h p mark sweep : Nat} : (H.tryJudge h p mark sweep).Wf := by
  unfold Hall.tryJudge
  try dsimp only
  repeat' first
    | with_reducible assumption
    | intro _
    | with_reducible apply Hall.Wf.verdict
    | split

theorem Hall.Wf.missingMarks {H : Hall} (h0 : H.Wf) {h n : Nat} : (H.missingMarks h n).Wf := by
  unfold Hall.missingMarks
  try dsimp only
  repeat' first
    | with_reducible assumption
    | intro _
    | with_reducible apply Hall.Wf.verdict
    | with_reducible apply Hall.Wf.foldl
    | split

theorem Hall.Wf.sendMarks {H : Hall} (h0 : H.Wf) {h : Nat} {im : Image} {t : SweepTable} {s : Slot} {r : SlotRun} :
    (H.sendMarks h im t s r).Wf := by
  unfold Hall.sendMarks
  refine Hall.Wf.foldl (fun H m hH => ?_) _ h0
  split
  · exact hH
  · extract_lets bs n H1 g from' H2
    have h1 : H1.Wf := Hall.Wf.onMark hH
    have h2 : H2.Wf := Hall.Wf.ite (Hall.Wf.addLog (Hall.Wf.count h1)) (Hall.Wf.foldl (fun H i h => Hall.Wf.sendStair h) _ h1)
    exact Hall.Wf.tryJudge h2

theorem Hall.Wf.slotDone {H : Hall} (h0 : H.Wf) {h : Nat} {r : SlotRun} : (H.slotDone h r).Wf := by
  unfold Hall.slotDone
  split
  · exact h0
  · split
    · split
      · exact h0
      · rename_i s _
        extract_lets H1 r1 ms single H2
        have h1 : H1.Wf := Hall.Wf.onRun h0
        have h2 : H2.Wf := Hall.Wf.ite (Hall.Wf.emitResult h1) h1
        clear_value H1 r1 ms single H2
        refine Hall.Wf.ite (Hall.Wf.emitResult h1) (Hall.Wf.ite (Hall.Wf.ite (Hall.Wf.sendMarks h2) h2) ?_)
        split
        · exact Hall.Wf.ite (Hall.Wf.emitResult h1) h1
        · exact Hall.Wf.sendMarks (Hall.Wf.ite h1 (Hall.Wf.ite (Hall.Wf.onRun h1) (Hall.Wf.emitResult h1)))
    · exact h0

theorem Hall.Wf.emitHeld {H : Hall} (h0 : H.Wf) {h : Nat} : (H.emitHeld h).Wf := by
  unfold Hall.emitHeld
  try dsimp only
  repeat' first
    | with_reducible assumption
    | intro _
    | with_reducible apply Hall.Wf.verdict
    | with_reducible apply Hall.Wf.emitResult
    | with_reducible apply Hall.Wf.foldl
    | split

theorem Hall.Wf.slotCheck {H : Hall} (h0 : H.Wf) {h p table slot cyc : Nat} : (H.slotCheck h p table slot cyc).Wf := by
  unfold Hall.slotCheck
  split
  · exact h0
  · extract_lets late r xs model
    exact Hall.Wf.ite (Hall.Wf.slotDone (Hall.Wf.ite (Hall.Wf.miss h0) h0)) h0

set_option maxRecDepth 4000
theorem Hall.Wf.faultCtx {H : Hall} (h0 : H.Wf) {x : Ctx} {pos code : Nat} {stops : Nat} : (H.faultCtx x pos code stops).Wf := by
  unfold Hall.faultCtx
  try dsimp only
  repeat' first
    | with_reducible assumption
    | intro _
    | with_reducible apply Hall.Wf.onCtx
    | with_reducible apply Hall.Wf.count
    | with_reducible apply Hall.Wf.addLog
    | with_reducible apply Hall.Wf.onGal
    | with_reducible apply Hall.Wf.mismatch
    | split
    | refine Hall.Wf.update ?_ rfl rfl rfl

theorem Hall.Wf.release {H : Hall} (h0 : H.Wf)  : (H.release).Wf := by
  unfold Hall.release
  try dsimp only
  repeat' first
    | with_reducible assumption
    | intro _
    | with_reducible apply Hall.Wf.shrinkArea
    | with_reducible apply Hall.Wf.onward
    | with_reducible apply Hall.Wf.releaseDeferred
    | with_reducible apply Hall.Wf.dropPieces
    | with_reducible apply Hall.Wf.foldl

theorem Hall.Wf.after {H : Hall} (h0 : H.Wf) {h : Nat} : (H.after h).Wf :=
  Hall.Wf.settle (Hall.Wf.startFallbacks (Hall.Wf.promote (Hall.Wf.resumeSaves (Hall.Wf.release h0))))

theorem Hall.Wf.testWait {H : Hall} (h0 : H.Wf) {ctx : Nat} {k : Cmd} : (H.testWait ctx k).Wf := by
  unfold Hall.testWait
  try dsimp only
  repeat' first
    | with_reducible assumption
    | intro _
    | with_reducible apply Hall.Wf.takeCell
    | with_reducible apply Hall.Wf.satisfy
    | split

theorem Hall.Wf.started {H1 : Hall} (h0 : H1.Wf) {x : Ctx} {k : Cmd} {b : Built} {cyc : Nat} : (H1.started x k b cyc).Wf := by
  unfold Hall.started
  try dsimp only
  repeat' first
    | with_reducible assumption
    | intro _
    | with_reducible apply Hall.Wf.onCtx

theorem Hall.Wf.slotCommit {H : Hall} (h0 : H.Wf) {x : Ctx} {cyc : Nat} : (H.slotCommit x cyc).Wf := by
  unfold Hall.slotCommit
  try dsimp only
  repeat' first
    | with_reducible assumption
    | intro _
    | with_reducible apply Hall.Wf.onRun
    | with_reducible apply Hall.Wf.predict
    | with_reducible apply Hall.Wf.startFallbacks
    | split

theorem Hall.Wf.replace {H : Hall} (h0 : H.Wf)  : (H.replace).Wf := by
  unfold Hall.replace
  try dsimp only
  repeat' first
    | with_reducible assumption
    | intro _
    | with_reducible apply Hall.Wf.placeStreams
    | with_reducible apply Hall.Wf.foldl

theorem Hall.Wf.commitDevice {H : Hall} (h0 : H.Wf) {h : Nat} {x : Ctx} {k : Cmd} : (H.commitDevice h x k).Wf := by
  unfold Hall.commitDevice
  extract_lets b kv H1 H2
  have h1 : H1.Wf := Hall.Wf.ite (Hall.Wf.holdsChanged (Hall.Wf.replace (Hall.Wf.commitKv h0))) h0
  clear_value H1
  have h2 : H2.Wf := by
    unfold H2
    split
    · exact Hall.Wf.holdsChanged (Hall.Wf.placeStreams (Hall.Wf.update h1 rfl rfl rfl))
    · exact h1
  exact Hall.Wf.onCtx h2

theorem Hall.Wf.unlock {H : Hall} (h0 : H.Wf) {x : Ctx} {k : Cmd} : (H.unlock x k).Wf := by
  unfold Hall.unlock
  try dsimp only
  repeat' first
    | with_reducible assumption
    | intro _
    | with_reducible apply Hall.Wf.onCtx

theorem Hall.Wf.saveLate {H : Hall} (h0 : H.Wf) {x : Ctx} {k : Cmd} : (H.saveLate x k).Wf := by
  unfold Hall.saveLate
  try dsimp only
  repeat' first
    | with_reducible assumption
    | intro _
    | with_reducible apply Hall.Wf.onCtx
    | split

theorem Hall.Wf.noteStruck {H : Hall} (h0 : H.Wf) {c : Nat} {sets signals : List (Nat × Nat)} : (H.noteStruck c sets signals).Wf := by
  unfold Hall.noteStruck
  try dsimp only
  repeat' first
    | with_reducible assumption
    | intro _
    | split
    | refine Hall.Wf.update ?_ rfl rfl rfl

theorem Hall.Wf.publishAll {H : Hall} (h0 : H.Wf) {h : Nat} {x : Ctx} {k : Cmd} : (H.publishAll h x k).Wf := by
  unfold Hall.publishAll
  extract_lets b H1 H2 H3
  have h1 : H1.Wf := Hall.Wf.publishBytes h0
  have h2 : H2.Wf := Hall.Wf.foldl (fun H p h => Hall.Wf.frameFill h) _ h1
  have h3 : H3.Wf := Hall.Wf.noteStruck (Hall.Wf.strikeAll h2)
  exact Hall.Wf.ite h1 (Hall.Wf.foldl (fun H m h => Hall.Wf.sendStair h) _ h3)

theorem Hall.Wf.poisonWord {H : Hall} (h0 : H.Wf) {k : Cmd} {a : Nat} : (H.poisonWord k a).Wf := by
  unfold Hall.poisonWord
  try dsimp only
  repeat' first
    | with_reducible assumption
    | intro _
    | with_reducible apply Hall.Wf.onCore
    | with_reducible apply Hall.Wf.onGal
    | split
    | with_reducible apply Store.wf_write
    | with_reducible apply Store.wf_scrub
    | with_reducible apply Store.wf_setPoison

theorem Hall.Wf.tally {H : Hall} (h0 : H.Wf) {old : Hall} {h : Nat} {far : Stair} : (H.tally old h far).Wf := by
  unfold Hall.tally
  try dsimp only
  repeat' first
    | with_reducible assumption
    | intro _
    | with_reducible apply Hall.Wf.count
    | with_reducible apply Hall.Wf.foldl
    | split

end Sys2Proof.Machine
end

