-- ==== Sys2Proof/Laws/WfHost.lean ====
section
/-! SUPPORT. Tenancy, power, boundaries, the timebase, boot and the feeds keep `Hall.Wf`. -/

namespace Sys2Proof.Machine

set_option maxRecDepth 4000
theorem Hall.Wf.reportStaged {H : Hall} (h0 : H.Wf) {h : Nat} : (H.reportStaged h).Wf := by
  unfold Hall.reportStaged
  try dsimp only
  repeat' first
    | with_reducible assumption
    | intro _
    | with_reducible apply Hall.Wf.tell
    | split

theorem Hall.Wf.unbindStream {H : Hall} (h0 : H.Wf) {h num : Nat} : (H.unbindStream h num).Wf := by
  unfold Hall.unbindStream
  try dsimp only
  repeat' first
    | with_reducible assumption
    | intro _
    | with_reducible apply Hall.Wf.eraseHandle
    | with_reducible apply Hall.Wf.onStream
    | with_reducible apply Hall.Wf.txStart
    | split
    | refine Hall.Wf.update ?_ rfl rfl rfl

theorem Hall.Wf.unbindRing {H : Hall} (h0 : H.Wf) {h feedId channel : Nat} : (H.unbindRing h feedId channel).Wf := by
  unfold Hall.unbindRing
  try dsimp only
  repeat' first
    | with_reducible assumption
    | intro _
    | split
    | refine Hall.Wf.update ?_ rfl rfl rfl

theorem Hall.Wf.zeroFrame {H : Hall} (h0 : H.Wf) {n : Nat} : (H.zeroFrame n).Wf := by
  unfold Hall.zeroFrame
  try dsimp only
  repeat' first
    | with_reducible assumption
    | intro _
    | with_reducible apply Hall.Wf.onGal
    | with_reducible apply Hall.Wf.dramWrite
    | split
    | with_reducible apply Store.wf_write
    | with_reducible apply Store.wf_scrub

theorem Hall.Wf.zeroSaved {H : Hall} (h0 : H.Wf) {session : Nat} {all : Bool} : (H.zeroSaved session all).Wf := by
  unfold Hall.zeroSaved
  try dsimp only
  repeat' first
    | with_reducible assumption
    | intro _
    | with_reducible apply Hall.Wf.zeroFrame
    | with_reducible apply Hall.Wf.foldl

theorem Hall.Wf.untagRuns {H : Hall} (h0 : H.Wf) {d : Nat} {on : Nat → Bool} : (H.untagRuns d on).Wf := by
  unfold Hall.untagRuns
  try dsimp only
  repeat' first
    | with_reducible assumption
    | intro _
    | split
    | refine Hall.Wf.update ?_ rfl rfl rfl

theorem Hall.Wf.scrubFootprint {H : Hall} (h0 : H.Wf) {x : Ctx} : (H.scrubFootprint x).Wf := by
  unfold Hall.scrubFootprint
  extract_lets units
  refine Hall.Wf.onCore (Hall.Wf.untagRuns h0) fun k hk => ?_
  exact List.foldlRecOn (motive := fun k : Core => k.op.wf = true) _ _ hk fun k hk u _ => Store.wf_scrub hk

theorem Hall.Wf.startSweep {H : Hall} (h0 : H.Wf)  : (H.startSweep).Wf := by
  unfold Hall.startSweep
  try dsimp only
  repeat' first
    | with_reducible assumption
    | intro _
    | split
    | refine Hall.Wf.update ?_ rfl rfl rfl

theorem Hall.Wf.dropSweep {H : Hall} (h0 : H.Wf) {d : Nat} : (H.dropSweep d).Wf := by
  unfold Hall.dropSweep
  try dsimp only
  repeat' first
    | with_reducible assumption
    | intro _
    | with_reducible apply Hall.Wf.startSweep
    | split
    | refine Hall.Wf.update ?_ rfl rfl rfl

theorem Hall.Wf.scrubFrame {H : Hall} (h0 : H.Wf) {n : Nat} : (H.scrubFrame n).Wf := by
  unfold Hall.scrubFrame
  try dsimp only
  repeat' first
    | with_reducible assumption
    | intro _
    | with_reducible apply Hall.Wf.onGal
    | with_reducible apply Hall.Wf.dramLose
    | with_reducible apply Hall.Wf.freeFrame
    | split
    | with_reducible apply Store.wf_write
    | with_reducible apply Store.wf_scrub

set_option maxRecDepth 4000
theorem Hall.Wf.opSettle {H : Hall} (h0 : H.Wf)  : (H.opSettle).Wf := by
  unfold Hall.opSettle
  try dsimp only
  repeat' first
    | with_reducible assumption
    | intro _
    | split
    | refine Hall.Wf.update ?_ rfl rfl rfl

theorem Hall.Wf.belowOp {H : Hall} (h0 : H.Wf) {h : Nat} : (H.belowOp h).Wf := by
  unfold Hall.belowOp
  try dsimp only
  repeat' first
    | with_reducible assumption
    | intro _
    | with_reducible apply Hall.Wf.onPart
    | with_reducible apply Hall.Wf.foldl
    | split

theorem Hall.Wf.opTick {H : Hall} (h0 : H.Wf) {h : Nat} : (H.opTick h).Wf := by
  unfold Hall.opTick
  try dsimp only
  repeat' first
    | with_reducible assumption
    | intro _
    | with_reducible apply Hall.Wf.belowOp
    | split
    | with_reducible apply Store.wf_write
    | with_reducible apply Store.wf_scrub
    | with_reducible apply Store.wf_setPoison
    | exact Store.wf_zero
    | exact Store.wf_unwritten
    | refine Hall.Wf.update ?_ rfl rfl rfl

theorem Hall.Wf.rampDone {H : Hall} (h0 : H.Wf)  : (H.rampDone).Wf := by
  unfold Hall.rampDone
  try dsimp only
  repeat' first
    | with_reducible assumption
    | intro _
    | split
    | refine Hall.Wf.update ?_ rfl rfl rfl

theorem Hall.Wf.startDrain {H : Hall} (h0 : H.Wf) {g : Nat} : (H.startDrain g).Wf := by
  unfold Hall.startDrain
  extract_lets q H1 xs H2
  have h1 : H1.Wf := Hall.Wf.update h0 rfl rfl rfl
  exact Hall.Wf.startShrink (Hall.Wf.foldl (fun H x h => Hall.Wf.onCtx (Hall.Wf.chooseVictim h)) _ h1)

theorem Hall.Wf.powerOff {H : Hall} (h0 : H.Wf) {g : Nat} : (H.powerOff g).Wf := by
  unfold Hall.powerOff
  lift_lets
  intro H1 H2 H3 H4
  have h1 : H1.Wf := Hall.Wf.storeLostFrames h0
  have h2 : H2.Wf := Hall.Wf.foldl (fun H x h => Hall.Wf.endCtx h) _ h1
  have h3 : H3.Wf := Hall.Wf.foldl (fun H x h => Hall.Wf.onCore h fun k _ => by
    unfold Core.filled; dsimp only; split <;> first | exact Store.wf_zero | exact Store.wf_unwritten) _ h2
  have h4 : H4.Wf := Hall.Wf.onGal h3 fun G _ => by
    dsimp only; split <;> first | exact Store.wf_zero | exact Store.wf_unwritten
  exact Hall.Wf.update h4 rfl rfl rfl

theorem Hall.Wf.leaveHall {H : Hall} (h0 : H.Wf)  : (H.leaveHall).Wf := by
  unfold Hall.leaveHall
  try dsimp only
  repeat' first
    | with_reducible assumption
    | intro _
    | split
    | refine Hall.Wf.update ?_ rfl rfl rfl

theorem Hall.Wf.stairDown {H : Hall} (h0 : H.Wf)  : (H.stairDown).Wf := by
  unfold Hall.stairDown
  try dsimp only
  repeat' first
    | with_reducible assumption
    | intro _
    | split
    | refine Hall.Wf.update ?_ rfl rfl rfl

theorem Hall.Wf.fillGals {H : Hall} (h0 : H.Wf) {gs : List Nat} : (H.fillGals gs).Wf := by
  unfold Hall.fillGals
  try dsimp only
  repeat' first
    | with_reducible assumption
    | intro _
    | with_reducible apply Hall.Wf.onGal
    | with_reducible apply Hall.Wf.foldl

theorem Hall.Wf.releaseGals {H : Hall} (h0 : H.Wf) {gs : List Nat} : (H.releaseGals gs).Wf := by
  unfold Hall.releaseGals
  try dsimp only
  repeat' first
    | with_reducible assumption
    | intro _
    | with_reducible apply Hall.Wf.onGal
    | with_reducible apply Hall.Wf.foldl
    | split
    | refine Hall.Wf.update ?_ rfl rfl rfl

theorem Hall.Wf.txResume {H : Hall} (h0 : H.Wf) {h : Nat} : (H.txResume h).Wf := by
  unfold Hall.txResume
  try dsimp only
  repeat' first
    | with_reducible assumption
    | intro _
    | with_reducible apply Hall.Wf.txStart
    | with_reducible apply Hall.Wf.foldl
    | split
    | with_reducible apply Store.wf_write
    | with_reducible apply Store.wf_scrub
    | with_reducible apply Store.wf_setPoison
    | exact Store.wf_zero
    | exact Store.wf_unwritten
    | refine Hall.Wf.update ?_ rfl rfl rfl

theorem Hall.Wf.enterHall {H : Hall} (h0 : H.Wf)  : (H.enterHall).Wf := by
  unfold Hall.enterHall
  try dsimp only
  repeat' first
    | with_reducible assumption
    | intro _
    | split
    | refine Hall.Wf.update ?_ rfl rfl rfl

theorem Hall.Wf.capStep {H : Hall} (h0 : H.Wf) {cap : Nat} {temp : Int} : (H.capStep cap temp).Wf := by
  unfold Hall.capStep
  try dsimp only
  repeat' first
    | with_reducible assumption
    | intro _
    | with_reducible apply Hall.Wf.opSettle
    | split
    | refine Hall.Wf.update ?_ rfl rfl rfl

set_option maxRecDepth 4000
theorem Hall.Wf.rejoinAll {H : Hall} (h0 : H.Wf) : H.rejoinAll.Wf :=
  h0.mapGals fun G hG => by
    have e : (G.countClean.rejoins.add).store = G.store := by
      unfold Gallery.countClean Gallery.add Gallery.rejoins
      repeat' split
      all_goals rfl
    exact (congrArg Store.wf e).trans hG

theorem Hall.Wf.goHome {H : Hall} (h0 : H.Wf) {h : Nat} : (H.goHome h).Wf :=
  Hall.Wf.foldl (fun H x h => Hall.Wf.settleCtx (Hall.Wf.onCtx (Hall.Wf.dropSaved h))) _ h0

theorem Hall.Wf.applyArea {H : Hall} (h0 : H.Wf) {h g : Nat} : (H.applyArea h g).Wf := by
  unfold Hall.applyArea
  try dsimp only
  repeat' first
    | with_reducible assumption
    | intro _
    | with_reducible apply Hall.Wf.logOther
    | with_reducible apply Hall.Wf.onGal
    | with_reducible apply Hall.Wf.startShrink
    | split

theorem Hall.Wf.clearCells {H : Hall} (h0 : H.Wf) {h : Nat} {e : PartEntry} : (H.clearCells h e).Wf := by
  unfold Hall.clearCells
  try dsimp only
  repeat' first
    | with_reducible assumption
    | intro _
    | split
    | refine Hall.Wf.update ?_ rfl rfl rfl

theorem Hall.Wf.chooseTable {H : Hall} (h0 : H.Wf) {h : Nat} {other : Hall} {im : Image} {e : PartEntry} : (H.chooseTable h other im e).Wf := by
  unfold Hall.chooseTable
  try dsimp only
  repeat' first
    | with_reducible assumption
    | intro _
    | with_reducible apply Hall.Wf.onPart
    | with_reducible apply Hall.Wf.addLog
    | with_reducible apply Hall.Wf.clearCells
    | split
    | refine Hall.Wf.update ?_ rfl rfl rfl

theorem Hall.Wf.newSlotCtx {H : Hall} (h0 : H.Wf) {h p table : Nat} {n : Slot × Nat × Nat × CtxDesc × Nat} :
    (H.newSlotCtx h p table n).Wf := by
  unfold Hall.newSlotCtx
  split
  · exact h0
  · exact Hall.Wf.settleCtx (Hall.Wf.insertCtx h0)

theorem Hall.Wf.slotContexts {H : Hall} (h0 : H.Wf) {h : Nat} {im : Image} {p : Nat} : (H.slotContexts h im p).Wf := by
  unfold Hall.slotContexts
  extract_lets needs tab isFor H1
  have h1 : H1.Wf := Hall.Wf.foldl (fun H x h => Hall.Wf.endCtx h) _ h0
  exact Hall.Wf.foldl (fun H n h => Hall.Wf.ite h (Hall.Wf.newSlotCtx h)) _ h1

theorem Hall.Wf.reasons {H : Hall} (h0 : H.Wf) {O : Hall} {e : PartEntry} : (H.reasons O e).Wf := by
  unfold Hall.reasons
  try dsimp only
  repeat' first
    | with_reducible assumption
    | intro _
    | with_reducible apply Hall.Wf.onPart
    | split

theorem Hall.Wf.settleDiverged {H : Hall} (h0 : H.Wf) : H.settleDiverged.Wf :=
  { h0 with parts := by simp [Hall.settleDiverged, h0.parts] }

theorem Hall.Wf.refresh {H : Hall} (h0 : H.Wf) : H.refresh.Wf :=
  { h0 with
    ports := (List.length_map ..).trans h0.ports
    held := fun P hP => by obtain ⟨y, hy, rfl⟩ := List.mem_map.1 hP; exact h0.held y hy }

theorem Hall.Wf.scrubChoice {H : Hall} (h0 : H.Wf)  : (H.scrubChoice).Wf := by
  unfold Hall.scrubChoice
  try dsimp only
  repeat' first
    | with_reducible assumption
    | intro _
    | split
    | refine Hall.Wf.update ?_ rfl rfl rfl

theorem Hall.Wf.ispLoad {H : Hall} (h0 : H.Wf)  : (H.ispLoad).Wf := by
  unfold Hall.ispLoad
  try dsimp only
  repeat' first
    | with_reducible assumption
    | intro _
    | split
    | refine Hall.Wf.update ?_ rfl rfl rfl

theorem Hall.Wf.repaired {H : Hall} (h0 : H.Wf) {code inst : Nat} : (H.repaired code inst).Wf := by
  unfold Hall.repaired
  try dsimp only
  repeat' first
    | with_reducible assumption
    | intro _
    | with_reducible apply Hall.Wf.addLog
    | split
    | refine Hall.Wf.update ?_ rfl rfl rfl

theorem Hall.Wf.repairVotes {H : Hall} (h0 : H.Wf)  : (H.repairVotes).Wf := by
  unfold Hall.repairVotes
  try dsimp only
  repeat' first
    | with_reducible assumption
    | intro _
    | with_reducible apply Hall.Wf.onGal
    | with_reducible apply Hall.Wf.repaired
    | with_reducible apply Hall.Wf.onPart
    | with_reducible apply Hall.Wf.foldl
    | split
    | refine Hall.Wf.update ?_ rfl rfl rfl

theorem Hall.Wf.readmit {H : Hall} (h0 : H.Wf) {back : Bool} {n : Nat} : (H.readmit back n).Wf := by
  unfold Hall.readmit
  try dsimp only
  repeat' first
    | with_reducible assumption
    | intro _
    | split
    | refine Hall.Wf.update ?_ rfl rfl rfl

theorem Hall.Wf.countWarming {H : Hall} (h0 : H.Wf)  : (H.countWarming).Wf := by
  unfold Hall.countWarming
  try dsimp only
  repeat' first
    | with_reducible assumption
    | intro _
    | split
    | refine Hall.Wf.update ?_ rfl rfl rfl

theorem Hall.Wf.activateStaged {H : Hall} (h0 : H.Wf)  : (H.activateStaged).Wf := by
  unfold Hall.activateStaged
  try dsimp only
  repeat' first
    | with_reducible assumption
    | intro _
    | split
    | refine Hall.Wf.update ?_ rfl rfl rfl

set_option maxRecDepth 4000
theorem Hall.Wf.setLock {H : Hall} (h0 : H.Wf) {h : Nat} {l : Lock} : (H.setLock h l).Wf := by
  unfold Hall.setLock
  try dsimp only
  repeat' first
    | with_reducible assumption
    | intro _
    | with_reducible apply Hall.Wf.onPart
    | with_reducible apply Hall.Wf.foldl
    | split
    | refine Hall.Wf.update ?_ rfl rfl rfl

theorem Hall.Wf.beginSweep {H0 : Hall} (h0 : H0.Wf) {h : Nat} {l : Lock} {short : Bool} {n t0 tb : Nat} : (H0.beginSweep h l short n t0 tb).Wf := by
  unfold Hall.beginSweep
  try dsimp only
  repeat' first
    | with_reducible assumption
    | intro _
    | with_reducible apply Hall.Wf.setLock
    | with_reducible apply Hall.Wf.count
    | with_reducible apply Hall.Wf.started
    | split
    | refine Hall.Wf.update ?_ rfl rfl rfl

theorem Hall.Wf.startPulses {H : Hall} (h0 : H.Wf) {n : Nat} : (H.startPulses n).Wf := by
  unfold Hall.startPulses
  try dsimp only
  repeat' first
    | with_reducible assumption
    | intro _
    | with_reducible apply Hall.Wf.foldl
    | split
    | refine Hall.Wf.update ?_ rfl rfl rfl

theorem Hall.Wf.endPulse {H : Hall} (h0 : H.Wf) {n tb : Nat} : (H.endPulse n tb).Wf := by
  unfold Hall.endPulse
  try dsimp only
  repeat' first
    | with_reducible assumption
    | intro _
    | split
    | refine Hall.Wf.update ?_ rfl rfl rfl

theorem Hall.Wf.tickStarts {H : Hall} (h0 : H.Wf) {n : Nat} : (H.tickStarts n).Wf := by
  unfold Hall.tickStarts
  try dsimp only
  repeat' first
    | with_reducible assumption
    | intro _
    | with_reducible apply Hall.Wf.expire
    | with_reducible apply Hall.Wf.startSlots
    | split
    | refine Hall.Wf.update ?_ rfl rfl rfl

theorem Hall.Wf.passTicks {H : Hall} (h0 : H.Wf) {h m : Nat} {whole : Bool} : (H.passTicks h m whole).Wf := by
  unfold Hall.passTicks
  try dsimp only
  repeat' first
    | with_reducible assumption
    | intro _
    | with_reducible apply Hall.Wf.tickStarts
    | with_reducible apply Hall.Wf.missingMarks
    | with_reducible apply Hall.Wf.startPulses
    | with_reducible apply Hall.Wf.foldl
    | split
    | refine Hall.Wf.update ?_ rfl rfl rfl

theorem Hall.Wf.flushTicks {H : Hall} (h0 : H.Wf) {h : Nat} : (H.flushTicks h).Wf := by
  unfold Hall.flushTicks
  try dsimp only
  repeat' first
    | with_reducible assumption
    | intro _
    | with_reducible apply Hall.Wf.passTicks
    | split
    | refine Hall.Wf.update ?_ rfl rfl rfl

theorem Hall.Wf.badPeriod {H : Hall} (h0 : H.Wf) {bad : Bool} : (H.badPeriod bad).Wf := by
  unfold Hall.badPeriod
  try dsimp only
  repeat' first
    | with_reducible assumption
    | intro _
    | split
    | refine Hall.Wf.update ?_ rfl rfl rfl

theorem Hall.Wf.refSweep {H : Hall} (h0 : H.Wf) {h : Nat} {pv : Nat} {bad : Bool} {tb : Nat} : (H.refSweep h pv bad tb).Wf := by
  unfold Hall.refSweep
  try dsimp only
  repeat' first
    | with_reducible assumption
    | intro _
    | with_reducible apply Hall.Wf.flushTicks
    | with_reducible apply Hall.Wf.badPeriod
    | with_reducible apply Hall.Wf.beginSweep
    | split
    | refine Hall.Wf.update ?_ rfl rfl rfl

theorem Hall.Wf.reference {H : Hall} (h0 : H.Wf) {h : Nat} {im : Image} {tb : Nat} : (H.reference h im tb).Wf := by
  unfold Hall.reference
  try dsimp only
  repeat' first
    | with_reducible assumption
    | intro _
    | with_reducible apply Hall.Wf.started
    | with_reducible apply Hall.Wf.badPeriod
    | with_reducible apply Hall.Wf.beginSweep
    | with_reducible apply Hall.Wf.refSweep
    | split
    | refine Hall.Wf.update ?_ rfl rfl rfl

theorem Hall.Wf.freeSweep {H : Hall} (h0 : H.Wf) {h n t0 tb : Nat} : (H.freeSweep h n t0 tb).Wf := by
  unfold Hall.freeSweep
  try dsimp only
  repeat' first
    | with_reducible assumption
    | intro _
    | with_reducible apply Hall.Wf.beginSweep
    | split
    | refine Hall.Wf.update ?_ rfl rfl rfl

theorem Hall.Wf.holdoverSweep {H : Hall} (h0 : H.Wf) {h tb : Nat} : (H.holdoverSweep h tb).Wf := by
  unfold Hall.holdoverSweep
  try dsimp only
  repeat' first
    | with_reducible assumption
    | intro _
    | with_reducible apply Hall.Wf.freeSweep
    | split

theorem Hall.Wf.beatSweep {H0 : Hall} (h0 : H0.Wf) {h : Nat} {im : Image} {n tick pv lock tb : Nat} : (H0.beatSweep h im n tick pv lock tb).Wf := by
  unfold Hall.beatSweep
  try dsimp only
  repeat' first
    | with_reducible assumption
    | intro _
    | with_reducible apply Hall.Wf.started
    | with_reducible apply Hall.Wf.flushTicks
    | with_reducible apply Hall.Wf.beginSweep
    | with_reducible apply Hall.Wf.freeSweep
    | split
    | refine Hall.Wf.update ?_ rfl rfl rfl

theorem Hall.Wf.setTick {H : Hall} (h0 : H.Wf) {h tick tb : Nat} : (H.setTick h tick tb).Wf := by
  unfold Hall.setTick
  try dsimp only
  repeat' first
    | with_reducible assumption
    | intro _
    | with_reducible apply Hall.Wf.passTicks
    | split
    | refine Hall.Wf.update ?_ rfl rfl rfl

theorem Hall.Wf.skewed {H : Hall} (h0 : H.Wf) {d : Nat} : (H.skewed d).Wf := by
  unfold Hall.skewed
  try dsimp only
  repeat' first
    | with_reducible assumption
    | intro _
    | with_reducible apply Hall.Wf.addLog
    | split
    | refine Hall.Wf.update ?_ rfl rfl rfl

theorem Hall.Wf.swpUpd {H : Hall} (h0 : H.Wf) {x : Sweep} (hx : x.parts = H.swp.parts) : Hall.Wf { H with swp := x } :=
  { h0 with parts := (congrArg List.length hx).trans h0.parts }

theorem Hall.Wf.beatHeard {H2 : Hall} (h2 : H2.Wf) {h : Nat} {design : Bool} {d tick pv lock tb : Nat} :
    (H2.beatHeard h design d tick pv lock tb).Wf := by
  unfold Hall.beatHeard
  extract_lets q3 H3 H4 q5 H5
  have h3 : H3.Wf := Hall.Wf.ite (h2.swpUpd rfl) h2
  clear_value H3
  have h4 : H4.Wf := Hall.Wf.ite (Hall.Wf.setLock h3) h2
  have h5 : H5.Wf := Hall.Wf.ite (h4.swpUpd rfl) h4
  exact Hall.Wf.ite (Hall.Wf.setTick h5) h4

theorem Hall.Wf.advance {H : Hall} (h0 : H.Wf) : H.advance.Wf :=
  { h0 with
    gals := (List.length_map ..).trans h0.gals
    cores := (List.length_map ..).trans h0.cores
    tx := (List.length_map ..).trans h0.tx
    op := fun k hk => by obtain ⟨y, hy, rfl⟩ := List.mem_map.1 hk; exact h0.op y hy
    store := fun G hG => by obtain ⟨y, hy, rfl⟩ := List.mem_map.1 hG; exact h0.store y hy }

theorem Hall.Wf.clearStalls {H : Hall} (h0 : H.Wf)  : (H.clearStalls).Wf := by
  unfold Hall.clearStalls
  try dsimp only
  repeat' first
    | with_reducible assumption
    | intro _
    | split
    | refine Hall.Wf.update ?_ rfl rfl rfl

theorem Hall.Wf.rxIdle {H : Hall} (h0 : H.Wf) {tb : Nat} : (H.rxIdle tb).Wf := by
  unfold Hall.rxIdle
  try dsimp only
  repeat' first
    | with_reducible assumption
    | intro _
    | split
    | refine Hall.Wf.update ?_ rfl rfl rfl

theorem Hall.Wf.tickWork {H : Hall} (h0 : H.Wf) {h n : Nat} : (H.tickWork h n).Wf := by
  unfold Hall.tickWork
  extract_lets tb q H0 H1 H2 H3 H4
  have h00 : H0.Wf := h0.swpUpd rfl
  have h1 : H1.Wf := Hall.Wf.clearStalls (Hall.Wf.advance (Hall.Wf.repairVotes (Hall.Wf.opTick h00)))
  have h2 : H2.Wf := Hall.Wf.rxIdle (Hall.Wf.ite (Hall.Wf.expire h1) h1)
  have h3 : H3.Wf := Hall.Wf.missingMarks (Hall.Wf.checkDeadlines h2)
  have h4 : H4.Wf := Hall.Wf.ite (Hall.Wf.startPulses h3) h3
  exact Hall.Wf.admitWaiting (Hall.Wf.after (Hall.Wf.tickStarts h4))

set_option maxRecDepth 4000
theorem Hall.Wf.again {old : Hall} {h c : Nat} : (old.again h c).Wf := by
  unfold Hall.again
  exact Hall.Wf.update (Hall.wf_reset h c) rfl rfl rfl

theorem Hall.Wf.runFirmware {H : Hall} (h0 : H.Wf) {src : Nat} {obj : List Byte} : (H.runFirmware src obj).Wf := by
  unfold Hall.runFirmware
  try dsimp only
  repeat' first
    | with_reducible assumption
    | intro _
    | with_reducible apply Hall.Wf.onGal
    | with_reducible apply Hall.Wf.foldl
    | split
    | refine Hall.Wf.update ?_ rfl rfl rfl

theorem Hall.Wf.halt {H : Hall} (h0 : H.Wf) {err : Nat} : (H.halt err).Wf := by
  unfold Hall.halt
  try dsimp only
  repeat' first
    | with_reducible assumption
    | intro _
    | split
    | refine Hall.Wf.update ?_ rfl rfl rfl

theorem Hall.Wf.loadCams {H : Hall} (h0 : H.Wf) {h : Nat} {im : Image} : (H.loadCams h im).Wf := by
  unfold Hall.loadCams
  try dsimp only
  repeat' first
    | with_reducible assumption
    | intro _
    | split
    | refine Hall.Wf.update ?_ rfl rfl rfl

theorem Hall.Wf.loadImage {H : Hall} (h0 : H.Wf) {h : Nat} {im : Image} {src : Nat} : (H.loadImage h im src).Wf := by
  unfold Hall.loadImage
  lift_lets
  intro H1 H2 doms
  have h1 : H1.Wf := Hall.Wf.foldl (fun H g hH => Hall.Wf.foldl (fun H i hH => Hall.Wf.onCore hH fun k _ => by
      unfold Core.filled; dsimp only; split <;> first | exact Store.wf_zero | exact Store.wf_unwritten) _
    (Hall.Wf.onGal hH fun G _ => by dsimp only; split <;> first | exact Store.wf_zero | exact Store.wf_unwritten)) _ h0
  exact Hall.Wf.update (Hall.Wf.loadCams h1) rfl rfl rfl

theorem Hall.Wf.showGals {H : Hall} (h0 : H.Wf) {active : Bool} : (H.showGals active).Wf := by
  unfold Hall.showGals
  try dsimp only
  repeat' first
    | with_reducible assumption
    | intro _
    | with_reducible apply Hall.Wf.onGal
    | with_reducible apply Hall.Wf.foldl

theorem Hall.Wf.unusable {H : Hall} (h0 : H.Wf) : H.unusable.Wf :=
  { h0 with
    gals := (List.length_map ..).trans h0.gals
    store := fun G hG => by obtain ⟨y, hy, rfl⟩ := List.mem_map.1 hG; exact h0.store y hy }

set_option maxRecDepth 4000
theorem Hall.Wf.feedCount {H : Hall} (h0 : H.Wf) {i : Nat} : (H.feedCount i).Wf := by
  unfold Hall.feedCount
  try dsimp only
  repeat' first
    | with_reducible assumption
    | intro _
    | split
    | refine Hall.Wf.update ?_ rfl rfl rfl

theorem Hall.Wf.feedFault {H : Hall} (h0 : H.Wf) {i : Nat} : (H.feedFault i).Wf := by
  unfold Hall.feedFault
  try dsimp only
  repeat' first
    | with_reducible assumption
    | intro _
    | with_reducible apply Hall.Wf.feedCount
    | with_reducible apply Hall.Wf.logOther

theorem Hall.Wf.orphan {H : Hall} (h0 : H.Wf) {port : Nat} : (H.orphan port).Wf := by
  unfold Hall.orphan
  try dsimp only
  repeat' first
    | with_reducible assumption
    | intro _
    | with_reducible apply Hall.Wf.logOther
    | split
    | refine Hall.Wf.update ?_ rfl rfl rfl

theorem Hall.Wf.feedCrc {H : Hall} (h0 : H.Wf) {port : Nat} : (H.feedCrc port).Wf := by
  unfold Hall.feedCrc
  try dsimp only
  repeat' first
    | with_reducible assumption
    | intro _
    | with_reducible apply Hall.Wf.logOther
    | split
    | refine Hall.Wf.update ?_ rfl rfl rfl

theorem Hall.Wf.dropObj {H : Hall} (h0 : H.Wf) {port vc kind chan : Nat} : (H.dropObj port vc kind chan).Wf := by
  unfold Hall.dropObj
  try dsimp only
  repeat' first
    | with_reducible assumption
    | intro _
    | split
    | refine Hall.Wf.update ?_ rfl rfl rfl

theorem Hall.Wf.feedDeliver {H : Hall} (h0 : H.Wf) {h id chan : Nat} {bs : List Byte} : (H.feedDeliver h id chan bs).Wf := by
  unfold Hall.feedDeliver
  split
  · exact Hall.Wf.feedFault h0
  · extract_lets hd at' H1 H2
    have h1 : H1.Wf := Hall.Wf.writeAt h0
    clear_value H1
    have h2 : H2.Wf := Hall.Wf.update h1 rfl rfl rfl
    exact Hall.Wf.ite (Hall.Wf.feedFault h0) (Hall.Wf.after (Hall.Wf.signal (Hall.Wf.count h2)))

theorem Hall.Wf.txConfigure {H : Hall} (h0 : H.Wf) {h t : Nat} {w : Word} : (H.txConfigure h t w).Wf := by
  unfold Hall.txConfigure
  try dsimp only
  repeat' first
    | with_reducible assumption
    | intro _
    | with_reducible apply Hall.Wf.logOther
    | with_reducible apply Hall.Wf.onTx
    | with_reducible apply Hall.Wf.txStart
    | split

theorem Hall.Wf.txEnd {H : Hall} (h0 : H.Wf) {h t : Nat} : (H.txEnd h t).Wf := by
  unfold Hall.txEnd
  exact Hall.Wf.after (Hall.Wf.foldl (fun H x h => Hall.Wf.wake _ h) _ (Hall.Wf.txPacketEnd h0))

end Sys2Proof.Machine
end

