-- ==== Sys2Proof/Laws/WfUnits.lean ====
section
/-! SUPPORT. Cameras, the Vestibule, the Stair, integrity and the register rows keep `Hall.Wf`. -/

namespace Sys2Proof.Machine

set_option maxRecDepth 4000
theorem Hall.Wf.rxLog {H : Hall} (h0 : H.Wf) {port off : Nat} : (H.rxLog port off).Wf := by
  unfold Hall.rxLog
  try dsimp only
  repeat' first
    | with_reducible assumption
    | intro _
    | with_reducible apply Hall.Wf.logOther

theorem Hall.Wf.rxActive {H : Hall} (h0 : H.Wf) {h port vc : Nat} : (H.rxActive h port vc).Wf := by
  unfold Hall.rxActive
  try dsimp only
  repeat' first
    | with_reducible assumption
    | intro _
    | with_reducible apply Hall.Wf.onRx
    | split

theorem Hall.Wf.frameFault {H : Hall} (h0 : H.Wf) {port id i off : Nat} : (H.frameFault port id i off).Wf := by
  unfold Hall.frameFault
  try dsimp only
  repeat' first
    | with_reducible assumption
    | intro _
    | with_reducible apply Hall.Wf.rxLog
    | with_reducible apply Hall.Wf.onOpen
    | split

theorem Hall.Wf.vcFault {H : Hall} (h0 : H.Wf) {h port vc i off : Nat} : (H.vcFault h port vc i off).Wf := by
  unfold Hall.vcFault
  try dsimp only
  repeat' first
    | with_reducible assumption
    | intro _
    | with_reducible apply Hall.Wf.rxLog
    | with_reducible apply Hall.Wf.frameFault
    | with_reducible apply Hall.Wf.foldl
    | split

theorem Hall.Wf.undeclared {H : Hall} (h0 : H.Wf) {h port vc : Nat} : (H.undeclared h port vc).Wf := by
  unfold Hall.undeclared
  try dsimp only
  repeat' first
    | with_reducible assumption
    | intro _
    | with_reducible apply Hall.Wf.onRx
    | with_reducible apply Hall.Wf.vcFault
    | with_reducible apply Hall.Wf.rxLog
    | split

theorem Hall.Wf.laneBad {H : Hall} (h0 : H.Wf) {h port k : Nat} : (H.laneBad h port k).Wf := by
  unfold Hall.laneBad
  try dsimp only
  repeat' first
    | with_reducible assumption
    | intro _
    | with_reducible apply Hall.Wf.onRx
    | split

theorem Hall.Wf.judgeSot {H : Hall} (h0 : H.Wf) {h port : Nat} : (H.judgeSot h port).Wf := by
  unfold Hall.judgeSot
  try dsimp only
  repeat' first
    | with_reducible assumption
    | intro _
    | with_reducible apply Hall.Wf.laneBad
    | with_reducible apply Hall.Wf.foldl
    | split

theorem Hall.Wf.judgeBursts {H : Hall} (h0 : H.Wf) {h port : Nat} {bursts : BitVec 4} : (H.judgeBursts h port bursts).Wf := by
  unfold Hall.judgeBursts
  try dsimp only
  repeat' first
    | with_reducible assumption
    | intro _
    | with_reducible apply Hall.Wf.laneBad
    | with_reducible apply Hall.Wf.foldl
    | split

theorem Hall.Wf.nextSot {H : Hall} (h0 : H.Wf) {port : Nat} : (H.nextSot port).Wf := by
  unfold Hall.nextSot
  try dsimp only
  repeat' first
    | with_reducible assumption
    | intro _
    | with_reducible apply Hall.Wf.onRx

theorem Hall.Wf.sendDegrade {H : Hall} (h0 : H.Wf) {h n : Nat} {e : Nat × CameraBody × PipeBody} : (H.sendDegrade h n e).Wf := by
  unfold Hall.sendDegrade
  try dsimp only
  repeat' first
    | with_reducible assumption
    | intro _
    | with_reducible apply Hall.Wf.snsCount
    | with_reducible apply Hall.Wf.onCamera
    | with_reducible apply Hall.Wf.onIsp
    | with_reducible apply Hall.Wf.busStart
    | split

theorem Hall.Wf.stillDue {H : Hall} (h0 : H.Wf) {h port w : Nat} : (H.stillDue h port w).Wf := by
  unfold Hall.stillDue
  try dsimp only
  repeat' first
    | with_reducible assumption
    | intro _
    | with_reducible apply Hall.Wf.onRx
    | split

theorem Hall.Wf.narrow {H : Hall} (h0 : H.Wf) {h port : Nat} : (H.narrow h port).Wf := by
  unfold Hall.narrow
  try dsimp only
  repeat' first
    | with_reducible assumption
    | intro _
    | with_reducible apply Hall.Wf.onRx
    | with_reducible apply Hall.Wf.sendDegrade
    | with_reducible apply Hall.Wf.stillDue
    | with_reducible apply Hall.Wf.foldl
    | split

theorem Hall.Wf.degradeDone {H : Hall} (h0 : H.Wf) {h port : Nat} : (H.degradeDone h port).Wf := by
  unfold Hall.degradeDone
  try dsimp only
  repeat' first
    | with_reducible assumption
    | intro _
    | with_reducible apply Hall.Wf.onRx
    | split

theorem Hall.Wf.closeFrame {H : Hall} (h0 : H.Wf) {h : Nat} {e : Nat × CameraBody × PipeBody} {timedOut : Bool} : (H.closeFrame h e timedOut).Wf := by
  unfold Hall.closeFrame
  try dsimp only
  repeat' first
    | with_reducible assumption
    | intro _
    | with_reducible apply Hall.Wf.onRx
    | with_reducible apply Hall.Wf.frameFault
    | with_reducible apply Hall.Wf.takeSettings
    | with_reducible apply Hall.Wf.onIsp
    | with_reducible apply Hall.Wf.onCamera
    | with_reducible apply Hall.Wf.narrow
    | split

theorem Hall.Wf.countFull {H : Hall} (h0 : H.Wf) {ctx : Nat} {o : PipeOut} : (H.countFull ctx o).Wf := by
  unfold Hall.countFull
  try dsimp only
  repeat' first
    | with_reducible assumption
    | intro _
    | with_reducible apply Hall.Wf.onIsp
    | split

theorem Hall.Wf.applyRecord {ctx : Nat} {a : Hall × Nat × Nat} {r : SetRec} (h0 : a.1.Wf) : (Hall.applyRecord ctx a r).1.Wf := by
  unfold Hall.applyRecord
  repeat' first
    | with_reducible assumption
    | with_reducible apply Hall.Wf.onIsp
    | with_reducible apply Hall.Wf.snsFail
    | with_reducible apply Hall.Wf.snsCount
    | split

theorem Hall.Wf.swapBank {H : Hall} (h0 : H.Wf) {ctx : Nat} : (H.swapBank ctx).1.Wf := by
  unfold Hall.swapBank
  repeat' first
    | with_reducible assumption
    | with_reducible apply Hall.Wf.onIsp
    | split
    | dsimp only

theorem Hall.Wf.openAt {H : Hall} (h0 : H.Wf) {e : Nat × CameraBody × PipeBody} {c : Camera} {fnum us sincePulse : Nat} :
    (H.openAt e c fnum us sincePulse).Wf := by
  unfold Hall.openAt
  lift_lets
  intro b p step frame due a sw H1 late dflt dg f H2 H3 H4
  have h1 : H1.Wf := Hall.Wf.swapBank (Hall.Wf.foldl_fst (fun a x ha => Hall.Wf.applyRecord ha) _ h0)
  have h3 : H3.Wf := Hall.Wf.onCamera (Hall.Wf.countFull (Hall.Wf.countFull h1))
  have h4 : H4.Wf := by
    show (if _ then _ else _ : Hall).Wf
    split
    · exact Hall.Wf.frameFault (Hall.Wf.onRx h3)
    · exact h3
  split
  · exact Hall.Wf.logOther h4
  · exact h4

theorem Hall.Wf.header {H : Hall} (h0 : H.Wf) {h port vc : Nat} {corr : Bool} : (H.header h port vc corr).Wf := by
  unfold Hall.header
  try dsimp only
  repeat' first
    | with_reducible assumption
    | intro _
    | with_reducible apply Hall.Wf.onRx
    | with_reducible apply Hall.Wf.vcFault
    | split

theorem Hall.Wf.frameStartAt {H : Hall} (h0 : H.Wf) {h : Nat} {e : Nat × CameraBody × PipeBody} {fnum us sincePulse : Nat} : (H.frameStartAt h e fnum us sincePulse).Wf := by
  unfold Hall.frameStartAt
  try dsimp only
  repeat' first
    | with_reducible assumption
    | intro _
    | with_reducible apply Hall.Wf.closeFrame
    | with_reducible apply Hall.Wf.onRx
    | with_reducible apply Hall.Wf.onCamera
    | with_reducible apply Hall.Wf.rxLog
    | with_reducible apply Hall.Wf.openAt
    | split

theorem Hall.Wf.crcError {H : Hall} (h0 : H.Wf) {port id : Nat} : (H.crcError port id).Wf := by
  unfold Hall.crcError
  try dsimp only
  repeat' first
    | with_reducible assumption
    | intro _
    | with_reducible apply Hall.Wf.onRx
    | with_reducible apply Hall.Wf.frameFault

theorem Hall.Wf.lineAt {H : Hall} (h0 : H.Wf) {h : Nat} {e : Nat × CameraBody × PipeBody} {pixels : List Nat} {crcOk : Bool} : (H.lineAt h e pixels crcOk).Wf := by
  unfold Hall.lineAt
  try dsimp only
  repeat' first
    | with_reducible assumption
    | intro _
    | with_reducible apply Hall.Wf.onRx
    | with_reducible apply Hall.Wf.orphan
    | with_reducible apply Hall.Wf.rxLog
    | with_reducible apply Hall.Wf.takeSettings
    | with_reducible apply Hall.Wf.deadlineMiss
    | with_reducible apply Hall.Wf.crcError
    | with_reducible apply Hall.Wf.frameFault
    | with_reducible apply Hall.Wf.onIsp
    | with_reducible apply Hall.Wf.onOpen
    | split

theorem Hall.Wf.linePacket {H : Hall} (h0 : H.Wf) {h port vc dt : Nat} {pixels : List Nat} {crcOk hdrCorr : Bool} :
    (H.linePacket h port vc dt pixels crcOk hdrCorr).Wf := by
  unfold Hall.linePacket
  extract_lets H1
  have h1 : H1.Wf := Hall.Wf.header (Hall.Wf.rxActive h0)
  split
  · exact Hall.Wf.ite h1 (Hall.Wf.undeclared h1)
  · exact Hall.Wf.after (Hall.Wf.foldl (fun H e h => Hall.Wf.lineAt h) _ h1)

theorem Hall.Wf.embedded {H : Hall} (h0 : H.Wf) {h port vc dt : Nat} {data : List Byte} {crcOk hdrCorr : Bool} : (H.embedded h port vc dt data crcOk hdrCorr).Wf := by
  unfold Hall.embedded
  try dsimp only
  repeat' first
    | with_reducible assumption
    | intro _
    | with_reducible apply Hall.Wf.rxActive
    | with_reducible apply Hall.Wf.header
    | with_reducible apply Hall.Wf.undeclared
    | with_reducible apply Hall.Wf.onRx
    | with_reducible apply Hall.Wf.orphan
    | with_reducible apply Hall.Wf.rxLog
    | with_reducible apply Hall.Wf.crcError
    | with_reducible apply Hall.Wf.onOpen
    | with_reducible apply Hall.Wf.foldl
    | split

theorem Hall.Wf.headerLost {H : Hall} (h0 : H.Wf) {h port vc : Nat} : (H.headerLost h port vc).Wf := by
  unfold Hall.headerLost
  try dsimp only
  repeat' first
    | with_reducible assumption
    | intro _
    | with_reducible apply Hall.Wf.onRx
    | with_reducible apply Hall.Wf.vcFault

theorem Hall.Wf.undeclaredPacket {H : Hall} (h0 : H.Wf) {h port vc dt : Nat} {hdrCorr : Bool} : (H.undeclaredPacket h port vc dt hdrCorr).Wf := by
  unfold Hall.undeclaredPacket
  try dsimp only
  repeat' first
    | with_reducible assumption
    | intro _
    | with_reducible apply Hall.Wf.rxActive
    | with_reducible apply Hall.Wf.header
    | with_reducible apply Hall.Wf.undeclared
    | split

theorem Hall.Wf.sotError {H : Hall} (h0 : H.Wf) {h port lane : Nat} : (H.sotError h port lane).Wf := by
  unfold Hall.sotError
  try dsimp only
  repeat' first
    | with_reducible assumption
    | intro _
    | with_reducible apply Hall.Wf.onRx
    | with_reducible apply Hall.Wf.rxLog
    | with_reducible apply Hall.Wf.judgeSot
    | split

theorem Hall.Wf.frameEnd {H : Hall} (h0 : H.Wf) {h port vc : Nat} {bursts : BitVec 4} {hdrCorr : Bool} :
    (H.frameEnd h port vc bursts hdrCorr).Wf := by
  unfold Hall.frameEnd
  extract_lets H0 H1 H2 H3
  have h00 : H0.Wf := Hall.Wf.header (Hall.Wf.rxActive h0)
  have h1 : H1.Wf := Hall.Wf.onRx h00
  have h2 : H2.Wf := Hall.Wf.judgeBursts (Hall.Wf.judgeSot h1)
  have h3 : H3.Wf := Hall.Wf.foldl (fun H e h => Hall.Wf.onCamera (Hall.Wf.closeFrame h)) _ h2
  exact Hall.Wf.ite (Hall.Wf.undeclared h00) (Hall.Wf.after (Hall.Wf.nextSot h3))

theorem Hall.Wf.frameTimeout {H : Hall} (h0 : H.Wf) {h port vc us : Nat} : (H.frameTimeout h port vc us).Wf := by
  unfold Hall.frameTimeout
  extract_lets late
  exact Hall.Wf.ite h0 (Hall.Wf.after (Hall.Wf.nextSot (Hall.Wf.foldl (fun H e h => Hall.Wf.closeFrame h) _ (Hall.Wf.judgeSot h0))))

theorem Hall.Wf.pieceStart {H : Hall} (h0 : H.Wf) {h : Nat} : (H.pieceStart h).Wf := by
  unfold Hall.pieceStart
  try dsimp only
  repeat' first
    | with_reducible assumption
    | intro _
    | with_reducible apply Hall.Wf.count
    | split
    | refine Hall.Wf.update ?_ rfl rfl rfl

theorem Hall.Wf.outWrite {H : Hall} (h0 : H.Wf) {h : Nat} {o : PipeOut} {off : Nat} {bs : List Byte} : (H.outWrite h o off bs).Wf := by
  unfold Hall.outWrite
  try dsimp only
  repeat' first
    | with_reducible assumption
    | intro _
    | with_reducible apply Hall.Wf.dramWrite
    | with_reducible apply Hall.Wf.writeAt
    | split

theorem Hall.Wf.outPiece {H : Hall} (h0 : H.Wf) {h : Nat} {o : PipeOut} {f : RxFrame} {rows : List (Nat × List Byte)} : (H.outPiece h o f rows).Wf := by
  unfold Hall.outPiece
  try dsimp only
  repeat' first
    | with_reducible assumption
    | intro _
    | with_reducible apply Hall.Wf.outWrite
    | with_reducible apply Hall.Wf.foldl

theorem Hall.Wf.deliver {H : Hall} (h0 : H.Wf) {h : Nat} {o : PipeOut} {f : RxFrame} {id lanes : Nat} : (H.deliver h o f id lanes).Wf := by
  unfold Hall.deliver
  try dsimp only
  repeat' first
    | with_reducible assumption
    | intro _
    | with_reducible apply Hall.Wf.outWrite
    | with_reducible apply Hall.Wf.header
    | with_reducible apply Hall.Wf.signal
    | with_reducible apply Hall.Wf.trigger
    | split

theorem Hall.Wf.deliverStats {H : Hall} (h0 : H.Wf) {h : Nat} {p : PipeBody} {f : RxFrame} {bs : List Byte} : (H.deliverStats h p f bs).Wf := by
  unfold Hall.deliverStats
  try dsimp only
  repeat' first
    | with_reducible assumption
    | intro _
    | with_reducible apply Hall.Wf.writeAt
    | with_reducible apply Hall.Wf.signal
    | split

theorem Hall.Wf.pieceDone {H0 : Hall} (h0 : H0.Wf) {h : Nat} : (H0.pieceDone h).Wf := by
  unfold Hall.pieceDone
  split
  · exact h0
  · extract_lets q H b p
    have h1 : H.Wf := Hall.Wf.update h0 rfl rfl rfl
    split
    · exact h1
    · rename_i f hf
      extract_lets set lim whole rows r5 r6 n out H1 f' H2 lanes H3 H4 H5 H6
      have ho : ∀ (H : Hall) (o : PipeOut) (on : Bool), H.Wf → (out H o on).Wf := fun H o on hH => Hall.Wf.ite (Hall.Wf.outPiece hH) hH
      have h2 : H1.Wf := ho _ _ _ (ho _ _ _ h1)
      have h3 : H2.Wf := Hall.Wf.onIsp h2
      have h4 : H3.Wf := Hall.Wf.ite (Hall.Wf.deliver h3) h3
      have h5 : H4.Wf := Hall.Wf.ite (Hall.Wf.deliver h4) h4
      have h6 : H5.Wf := Hall.Wf.deliverStats h5
      have h7 : H6.Wf := Hall.Wf.ite (Hall.Wf.count (Hall.Wf.count h6)) h6
      exact Hall.Wf.ite (Hall.Wf.ite (Hall.Wf.onIsp h2) (Hall.Wf.onOpen h2)) (Hall.Wf.after h7)

theorem Hall.Wf.abandonRec {H : Hall} (h0 : H.Wf) {h ctrl id : Nat} {r : SetRec} : (H.abandonRec h ctrl id r).Wf := by
  unfold Hall.abandonRec
  try dsimp only
  repeat' first
    | with_reducible assumption
    | intro _
    | with_reducible apply Hall.Wf.onBusRec
    | with_reducible apply Hall.Wf.snsFail
    | with_reducible apply Hall.Wf.busStart

theorem Hall.Wf.sensorWrite {H : Hall} (h0 : H.Wf) {h ctrl : Nat} {ack : Bool} : (H.sensorWrite h ctrl ack).Wf := by
  unfold Hall.sensorWrite
  try dsimp only
  repeat' first
    | with_reducible assumption
    | intro _
    | with_reducible apply Hall.Wf.onBusRec
    | with_reducible apply Hall.Wf.snsCount
    | with_reducible apply Hall.Wf.busStart
    | with_reducible apply Hall.Wf.abandonRec
    | split
    | refine Hall.Wf.update ?_ rfl rfl rfl

theorem Hall.Wf.busTimeout {H : Hall} (h0 : H.Wf) {h ctrl : Nat} : (H.busTimeout h ctrl).Wf := by
  unfold Hall.busTimeout
  try dsimp only
  repeat' first
    | with_reducible assumption
    | intro _
    | with_reducible apply Hall.Wf.abandonRec
    | split
    | refine Hall.Wf.update ?_ rfl rfl rfl

theorem Hall.Wf.copyDone {H : Hall} (h0 : H.Wf) {ctx : Nat} : (H.copyDone ctx).Wf := by
  unfold Hall.copyDone
  try dsimp only
  repeat' first
    | with_reducible assumption
    | intro _
    | with_reducible apply Hall.Wf.onIsp

set_option maxRecDepth 4000
theorem Hall.Wf.reportLandings {H : Hall} (h0 : H.Wf) {cell : Nat} : (H.reportLandings cell).Wf := by
  unfold Hall.reportLandings
  try dsimp only
  repeat' first
    | with_reducible assumption
    | intro _
    | with_reducible apply Hall.Wf.tell
    | split
    | refine Hall.Wf.update ?_ rfl rfl rfl

theorem Hall.Wf.flightContexts {H : Hall} (h0 : H.Wf) {h : Nat} {f : FlightEntry} {n : Nat} : (H.flightContexts h f n).Wf := by
  unfold Hall.flightContexts
  split
  · exact h0
  · refine Hall.Wf.settle (Hall.Wf.foldl (fun H c hH => ?_) _ h0)
    split
    · extract_lets x
      split
      · exact Hall.Wf.settleCtx (Hall.Wf.insertCtx hH)
      · exact hH
    · exact hH

set_option maxRecDepth 4000
theorem Hall.Wf.joins {H : Hall} (h0 : H.Wf)  : (H.joins).Wf := by
  unfold Hall.joins
  try dsimp only
  repeat' first
    | with_reducible assumption
    | intro _
    | split
    | refine Hall.Wf.update ?_ rfl rfl rfl

theorem Hall.Wf.trainedAt {H : Hall} (h0 : H.Wf) {good : BitVec 32} {tx : Nat} : (H.trainedAt good tx).Wf := by
  unfold Hall.trainedAt
  exact Hall.Wf.sendOn (Hall.Wf.update h0 rfl rfl rfl)

theorem Hall.Wf.takeSweep {H : Hall} (h0 : H.Wf) {O : Hall} {h : Nat} : (H.takeSweep O h).Wf := by
  unfold Hall.takeSweep
  try dsimp only
  repeat' first
    | with_reducible assumption
    | intro _
    | with_reducible apply Hall.Wf.started
    | split
    | refine Hall.Wf.update ?_ rfl rfl rfl

theorem Hall.Wf.discardMsg {H : Hall} (h0 : H.Wf) {m : StairMsg} : (H.discardMsg m).Wf := by
  unfold Hall.discardMsg
  try dsimp only
  repeat' first
    | with_reducible assumption
    | intro _
    | with_reducible apply Hall.Wf.count
    | with_reducible apply Hall.Wf.addLog
    | split
    | refine Hall.Wf.update ?_ rfl rfl rfl

theorem Hall.Wf.applySync {H : Hall} (h0 : H.Wf) {h : Nat} {m : StairMsg} : (H.applySync h m).Wf :=
  Hall.Wf.after (Hall.Wf.wake _ (Hall.Wf.addCell h0))

theorem Hall.Wf.applyMove {H : Hall} (h0 : H.Wf) {h : Nat} {m : StairMsg} : (H.applyMove h m).Wf := by
  unfold Hall.applyMove
  try dsimp only
  repeat' first
    | with_reducible assumption
    | intro _
    | with_reducible apply Hall.Wf.writeAt
    | split

set_option maxRecDepth 4000
theorem Hall.Wf.correctable {H : Hall} (h0 : H.Wf) {x : CeHit} : (H.correctable x).Wf := by
  unfold Hall.correctable
  try dsimp only
  repeat' first
    | with_reducible assumption
    | intro _
    | with_reducible apply Hall.Wf.count
    | split
    | refine Hall.Wf.update ?_ rfl rfl rfl

theorem Hall.Wf.noteUe {H : Hall} (h0 : H.Wf) {place unit : Nat} : (H.noteUe place unit).Wf := by
  unfold Hall.noteUe
  try dsimp only
  repeat' first
    | with_reducible assumption
    | intro _
    | with_reducible apply Hall.Wf.addLog
    | split
    | refine Hall.Wf.update ?_ rfl rfl rfl

theorem Hall.Wf.ispLineLost {H : Hall} (h0 : H.Wf) {h n line : Nat} : (H.ispLineLost h n line).Wf := by
  unfold Hall.ispLineLost
  try dsimp only
  repeat' first
    | with_reducible assumption
    | intro _
    | with_reducible apply Hall.Wf.onIsp
    | with_reducible apply Hall.Wf.onOpen
    | split

theorem Hall.Wf.domainRelease {H : Hall} (h0 : H.Wf) {g : Nat} {core : Option Nat} {passed : Bool} : (H.domainRelease g core passed).Wf := by
  unfold Hall.domainRelease
  try dsimp only
  repeat' first
    | with_reducible assumption
    | intro _
    | with_reducible apply Hall.Wf.onGal
    | split

theorem Hall.Wf.passEnd {H : Hall} (h0 : H.Wf) {read corrected marked : Nat} {cut : Bool} : (H.passEnd read corrected marked cut).Wf := by
  unfold Hall.passEnd
  try dsimp only
  repeat' first
    | with_reducible assumption
    | intro _
    | split
    | refine Hall.Wf.update ?_ rfl rfl rfl

theorem Hall.Wf.passQueue {H : Hall} (h0 : H.Wf)  : (H.passQueue).Wf := by
  unfold Hall.passQueue
  try dsimp only
  repeat' first
    | with_reducible assumption
    | intro _
    | split
    | refine Hall.Wf.update ?_ rfl rfl rfl

set_option maxRecDepth 4000
theorem Hall.Wf.snapshot {H : Hall} (h0 : H.Wf)  : (H.snapshot).Wf := by
  unfold Hall.snapshot
  try dsimp only
  repeat' first
    | with_reducible assumption
    | intro _
    | split
    | refine Hall.Wf.update ?_ rfl rfl rfl

theorem Hall.Wf.stairWrite {H : Hall} (h0 : H.Wf) {w : Word} : (H.stairWrite w).Wf := by
  unfold Hall.stairWrite
  extract_lets H1
  have h1 : H1.Wf := Hall.Wf.update h0 rfl rfl rfl
  clear_value H1
  exact Hall.Wf.ite (Hall.Wf.update h1 rfl rfl rfl) (Hall.Wf.ite h1 (Hall.Wf.sendOn (Hall.Wf.joins h1)))

set_option maxRecDepth 4000
theorem Hall.Wf.endWarming {H : Hall} (h0 : H.Wf)  : (H.endWarming).Wf := by
  unfold Hall.endWarming
  try dsimp only
  repeat' first
    | with_reducible assumption
    | intro _
    | split
    | refine Hall.Wf.update ?_ rfl rfl rfl

set_option maxRecDepth 4000
theorem Hall.Wf.dropEph {H : Hall} (h0 : H.Wf) {report : Nat} : (H.dropEph report).Wf := by
  unfold Hall.dropEph
  try dsimp only
  repeat' first
    | with_reducible assumption
    | intro _
    | split
    | refine Hall.Wf.update ?_ rfl rfl rfl

theorem Hall.Wf.setTrng {H : Hall} (h0 : H.Wf) {ok : Bool} : (H.setTrng ok).Wf := by
  unfold Hall.setTrng
  try dsimp only
  repeat' first
    | with_reducible assumption
    | intro _
    | split
    | refine Hall.Wf.update ?_ rfl rfl rfl

theorem Hall.Wf.sampleIdle {H : Hall} (h0 : H.Wf) {k : Nat} : (H.sampleIdle k).Wf := by
  unfold Hall.sampleIdle
  try dsimp only
  repeat' first
    | with_reducible assumption
    | intro _
    | split
    | refine Hall.Wf.update ?_ rfl rfl rfl

end Sys2Proof.Machine
end

