-- ==== Sys2Proof/Laws/KeepsRun.lean ====
section
/-! SUPPORT. The array's operations respect `State.Keeps`. -/

namespace Sys2Proof.Machine

theorem State.Keeps.deviceEvent {s0 s : State} (h0 : s0.Keeps s) {h : HallId} {code arg : Nat} : s0.Keeps (s.deviceEvent h code arg) := by
  unfold State.deviceEvent
  try dsimp only
  repeat' first
    | with_reducible assumption
    | intro _
    | with_reducible apply State.Keeps.event
    | with_reducible apply State.Keeps.foldl
    | with_reducible apply Hall.Wf.foldl
    | split

theorem State.Keeps.log {s0 s : State} (h0 : s0.Keeps s) {h : HallId} {code unit arg : Nat} : s0.Keeps (s.log h code unit arg) := by
  unfold State.log
  try dsimp only
  repeat' first
    | with_reducible assumption
    | intro _
    | with_reducible apply State.Keeps.onHall
    | with_reducible apply Hall.Wf.addLog

theorem State.Keeps.logPort {s0 s : State} (h0 : s0.Keeps s) {h : HallId} {p code unit arg : Nat} : s0.Keeps (s.logPort h p code unit arg) := by
  unfold State.logPort
  try dsimp only
  repeat' first
    | with_reducible assumption
    | intro _
    | with_reducible apply State.Keeps.onHall
    | with_reducible apply Hall.Wf.addLog
    | with_reducible apply State.Keeps.onPort
    | split
    | refine Hall.Wf.update ?_ rfl rfl rfl

theorem State.Keeps.logOther {s0 s : State} (h0 : s0.Keeps s) {h : HallId} {block unit off : Nat} : s0.Keeps (s.logOther h block unit off) := by
  unfold State.logOther
  try dsimp only
  repeat' first
    | with_reducible assumption
    | intro _
    | with_reducible apply State.Keeps.log

theorem State.Keeps.count {s0 s : State} (h0 : s0.Keeps s) {h : HallId} {n k : Nat} : s0.Keeps (s.count h n k) := by
  unfold State.count
  try dsimp only
  repeat' first
    | with_reducible assumption
    | intro _
    | with_reducible apply State.Keeps.onHall
    | with_reducible apply Hall.Wf.count

theorem State.Keeps.prepareBuses {s0 s : State} (h0 : s0.Keeps s) {h : HallId} : s0.Keeps (s.prepareBuses h) := by
  unfold State.prepareBuses
  refine State.Keeps.ite ?_ h0
  have h1 : s0.Keeps (s.onHall h fun H => H.prepareBuses h.idx s.free) := h0.onHall fun H hH => hH.prepareBuses
  have hf : (s.onHall h fun H => H.prepareBuses h.idx s.free).free = s.free := by cases h <;> rfl
  exact h1.update (by omega)

theorem State.Keeps.setPin {s0 s : State} (h0 : s0.Keeps s) {h : HallId} {v : Bool} : s0.Keeps (s.setPin h v) := by
  unfold State.setPin
  try dsimp only
  repeat' first
    | with_reducible assumption
    | intro _
    | with_reducible apply State.Keeps.onHall
    | with_reducible apply State.Keeps.log
    | with_reducible apply State.Keeps.deviceEvent
    | split
    | refine Hall.Wf.update ?_ rfl rfl rfl

theorem State.Keeps.pinCheck {s0 s : State} (h0 : s0.Keeps s) {h : HallId} : s0.Keeps (s.pinCheck h) := by
  unfold State.pinCheck
  try dsimp only
  repeat' first
    | with_reducible assumption
    | intro _
    | with_reducible apply State.Keeps.setPin
    | split

theorem Hall.Wf.moveCtx {H : Hall} (h0 : H.Wf) {h : Nat} {x : Ctx} {cyc : Nat} : (H.moveCtx h x cyc).1.Wf := by
  unfold Hall.moveCtx
  extract_lets cands H0 H1 x1
  have h00 : H0.Wf := Hall.Wf.beginReplay (Hall.Wf.dropSaved (Hall.Wf.savedAtFence h0))
  have h1 : H1.Wf := Hall.Wf.onCtx h00
  clear_value H1
  cases cands
  · exact Hall.Wf.endCtx h1
  · exact Hall.Wf.settleCtx (Hall.Wf.onCtx h1)

theorem Hall.Wf.moveAll {H : Hall} (h0 : H.Wf) {h c cyc : Nat} : (H.moveAll h c cyc).1.Wf := by
  unfold Hall.moveAll
  refine Hall.Wf.foldl_fst (a := (H, [])) (fun a x ha => ?_) _ h0
  exact Hall.Wf.moveCtx ha

/-- A reservation that may fail leaves a well-formed hall either way. -/
theorem Hall.Wf.orAlloc {H : Hall} (h0 : H.Wf) {o : Option (Nat × Hall)} :
    (∀ r, o = some r → r.2.Wf) → (match o with | some (_, H1) => H1 | none => H : Hall).Wf := by
  intro ho
  split
  · exact ho _ rfl
  · exact h0

theorem AppendCmd.build_wf {a : AppendCmd} {H R : Hall} (h0 : H.Wf) {h : Nat} {x : Ctx} {c : Cache} : (a.build H R h x c).1.Wf := by
  unfold AppendCmd.build
  dsimp only
  refine Hall.Wf.orAlloc h0 fun r hn => ?_
  split at hn
  · exact Hall.Wf.allocFrame h0 hn
  · cases hn

theorem PageCmd.build_wf {a : PageCmd} {H R : Hall} (h0 : H.Wf) {h : Nat} {x : Ctx} : (a.build H R h x).1.Wf := by
  unfold PageCmd.build
  dsimp only
  refine Hall.Wf.orAlloc h0 fun r hn => ?_
  split at hn
  · cases hn
  · exact Hall.Wf.allocFrame h0 hn

theorem issueAppend_wf {H R : Hall} (h0 : H.Wf) {h : Nat} {x : Ctx} {d : List Byte} {r : Hall × Built}
    (hr : issueAppend H R h x d = .ok r) : r.1.Wf := by
  unfold issueAppend at hr
  dsimp only at hr
  split at hr
  · cases hr
  · split at hr
    · cases hr
    · cases hr; exact AppendCmd.build_wf (R := R) (x := x) h0

theorem issuePage_wf {H R : Hall} (h0 : H.Wf) {h : Nat} {x : Ctx} {d : List Byte} {r : Hall × Built}
    (hr : issuePage H R h x d = .ok r) : r.1.Wf := by
  unfold issuePage at hr
  dsimp only at hr
  split at hr
  · cases hr
  · cases hr; exact PageCmd.build_wf (R := R) h0

theorem issueAttn_wf {H R : Hall} (h0 : H.Wf) {h : Nat} {x : Ctx} {n : Nat} {d : List Byte} {r : Hall × Built}
    (hr : issueAttn H R h x n d = .ok r) : r.1.Wf := by
  unfold issueAttn at hr
  dsimp only at hr
  repeat' split at hr
  all_goals cases hr
  exact Hall.Wf.readPages h0

theorem issueBwd_wf {H R : Hall} (h0 : H.Wf) {h : Nat} {x : Ctx} {n : Nat} {d : List Byte} {r : Hall × Built}
    (hr : issueBwd H R h x n d = .ok r) : r.1.Wf := by
  unfold issueBwd at hr
  dsimp only at hr
  repeat' split at hr
  all_goals cases hr
  exact Hall.Wf.readPages h0

theorem issueCopy_wf {H R : Hall} (h0 : H.Wf) {h : Nat} {x : Ctx} {d : List Byte} {r : Hall × Built}
    (hr : issueCopy H R h x d = .ok r) : r.1.Wf := by
  unfold issueCopy at hr
  dsimp only at hr
  split at hr
  · cases hr
  · cases hr
    dsimp only
    split
    · split
      · exact Hall.Wf.foldl (fun H i hH => Hall.Wf.countReads hH) _ h0
      · exact h0
    · exact h0

theorem plainIssue_wf {f : Hall → Ctx → Cmd → Issue} {H R : Hall} (h0 : H.Wf) {x : Ctx} {k : Cmd} {r : Hall × Built}
    (hr : plainIssue f H R x k = .ok r) : r.1.Wf := by
  unfold plainIssue at hr
  split at hr
  · cases hr
  · cases hr; exact h0

theorem Hall.Wf.placeKey {H : Hall} (h0 : H.Wf) {h use session model : Nat} {key : List Byte} {r : Nat × Hall}
    (hr : H.placeKey h use session model key = some r) : r.2.Wf := by
  unfold Hall.placeKey at hr
  dsimp only at hr
  split at hr
  · cases hr
  · cases hr; exact h0.update rfl rfl rfl

theorem State.Keeps.ctxEvent {s0 s : State} (h0 : s0.Keeps s) {h : HallId} {x : Ctx} {st : Nat} : s0.Keeps (s.ctxEvent h x st) := by
  unfold State.ctxEvent
  try dsimp only
  repeat' first
    | with_reducible assumption
    | intro _
    | with_reducible apply State.Keeps.event
    | split

theorem State.Keeps.complete {s0 s : State} (h0 : s0.Keeps s) {h : HallId} {x : Ctx} {seq : Nat} {bs : List Byte} : s0.Keeps (s.complete h x seq bs) := by
  unfold State.complete
  try dsimp only
  repeat' first
    | with_reducible assumption
    | intro _
    | with_reducible apply State.Keeps.onHall
    | with_reducible apply Hall.Wf.writeAt
    | with_reducible apply State.Keeps.event
    | split

theorem State.Keeps.faultCmd {s0 s : State} (h0 : s0.Keeps s) {h : HallId} {x : Ctx} {pos op code kills queue stops : Nat} : s0.Keeps (s.faultCmd h x pos op code kills queue stops) := by
  unfold State.faultCmd
  try dsimp only
  repeat' first
    | with_reducible assumption
    | intro _
    | with_reducible apply State.Keeps.onHall
    | with_reducible apply Hall.Wf.faultCtx
    | with_reducible apply State.Keeps.complete

theorem State.Keeps.afterAt {s0 s : State} (h0 : s0.Keeps s) {h : HallId} {c cyc : Nat} : s0.Keeps (s.afterAt h c cyc) := by
  unfold State.afterAt
  try dsimp only
  repeat' first
    | with_reducible assumption
    | intro _
    | with_reducible apply State.Keeps.onHall
    | with_reducible apply Hall.Wf.admitCtx
    | with_reducible apply Hall.Wf.onward
    | with_reducible apply Hall.Wf.after
    | with_reducible apply Hall.Wf.settle
    | with_reducible apply Hall.Wf.book
    | with_reducible apply State.Keeps.pinCheck

theorem State.Keeps.fetch {s0 s : State} (h0 : s0.Keeps s) {h : HallId} {ctx cyc : Nat} : s0.Keeps (s.fetch h ctx cyc) := by
  unfold State.fetch
  try dsimp only
  repeat' first
    | with_reducible assumption
    | intro _
    | with_reducible apply State.Keeps.faultCmd
    | with_reducible apply State.Keeps.afterAt
    | with_reducible apply State.Keeps.onHall
    | with_reducible apply Hall.Wf.onCtx
    | with_reducible apply Hall.Wf.testWait
    | split
    | refine Hall.Wf.update ?_ rfl rfl rfl

theorem State.Keeps.issue {s0 s : State} (h0 : s0.Keeps s) {h : HallId} {c cyc : Nat} {want : List Byte → Bool}
    {run : Hall → Hall → Ctx → Cmd → Except Nat (Hall × Built)}
    (hrun : ∀ H R x k r, H.Wf → run H R x k = .ok r → r.1.Wf) : s0.Keeps (s.issue h c cyc want run) := by
  unfold State.issue
  extract_lets H
  split
  · exact h0
  · split
    · exact h0.faultCmd.afterAt
    · rename_i H1 b hr
      refine State.Keeps.ite h0 (State.Keeps.afterAt (State.Keeps.setHall h0 fun w => ?_))
      exact Hall.Wf.started (hrun _ _ _ _ _ (Hall.Wf.onward (w.hall h)) hr)

theorem State.Keeps.fenceChange {s0 s : State} (h0 : s0.Keeps s) {h : HallId} {g : Nat} : s0.Keeps (s.fenceChange h g) := by
  unfold State.fenceChange
  try dsimp only
  repeat' first
    | with_reducible assumption
    | intro _
    | with_reducible apply Hall.Wf.onPart
    | with_reducible apply State.Keeps.onHall
    | split

theorem State.Keeps.killed {s0 s : State} (h0 : s0.Keeps s) {h : HallId} {x : Ctx} {k : Cmd} {cause : KillCause} {cyc : Nat} : s0.Keeps (s.killed h x k cause cyc) := by
  unfold State.killed
  try dsimp only
  repeat' first
    | with_reducible assumption
    | intro _
    | with_reducible apply State.Keeps.onHall
    | with_reducible apply Hall.Wf.releaseRun
    | with_reducible apply Hall.Wf.countKill
    | with_reducible apply Hall.Wf.onCtx
    | with_reducible apply State.Keeps.complete
    | with_reducible apply State.Keeps.faultCmd
    | split

theorem State.Keeps.killCore {s0 s : State} (h0 : s0.Keeps s) {h : HallId} {c cyc : Nat} : s0.Keeps (s.killCore h c cyc) := by
  unfold State.killCore
  try dsimp only
  repeat' first
    | with_reducible assumption
    | intro _
    | with_reducible apply State.Keeps.killed
    | with_reducible apply State.Keeps.foldl

theorem State.Keeps.moveOff {s0 s : State} (h0 : s0.Keeps s) {h : HallId} {c cyc : Nat} : s0.Keeps (s.moveOff h c cyc) := by
  unfold State.moveOff
  lift_lets
  intro H r s1
  have h1 : s0.Keeps s1 := h0.setHall fun w => Hall.Wf.moveAll (w.hall h)
  clear_value s1
  refine State.Keeps.foldl (fun s n hs => ?_) _ h1
  dsimp only
  split
  · exact hs
  · with_reducible apply State.Keeps.ctxEvent
    split
    · with_reducible apply State.Keeps.complete
      exact hs.onHall fun H hH => Hall.Wf.onCtx hH
    · exact hs.onHall fun H hH => Hall.Wf.onCtx hH

theorem Core.filled_wf {k : Core} {wbr : Bool} : (k.filled wbr).op.wf = true := by
  unfold Core.filled
  dsimp only
  split
  · exact Store.wf_unwritten
  · exact Store.wf_zero

theorem State.Keeps.fenceGallery {s0 s : State} (h0 : s0.Keeps s) {h : HallId} {g cyc : Nat} : s0.Keeps (s.fenceGallery h g cyc) := by
  unfold State.fenceGallery
  extract_lets a1 s1
  have h1 : s0.Keeps a1 := State.Keeps.foldl (fun s i hs => hs.killCore) _ h0
  clear_value a1
  have h2 : s0.Keeps s1 := h1.onHall fun H hH => hH.onGal fun G hG => hG
  clear_value s1
  exact State.Keeps.foldl (fun s i hs => hs.moveOff) _ h2.fenceChange

theorem State.Keeps.coreReset {s0 s : State} (h0 : s0.Keeps s) {h : HallId} {c cyc : Nat} : s0.Keeps (s.coreReset h c cyc) := by
  unfold State.coreReset
  extract_lets g i s1 s2 G free
  have h1 : s0.Keeps s1 := h0.killCore.onHall fun H hH => by
    extract_lets H2
    have h2 : H2.Wf := Hall.Wf.onCore hH fun k hk => Core.filled_wf
    exact Hall.Wf.onGal h2 fun G hG => hG
  clear_value s1
  have h2 : s0.Keeps s2 := h1.fenceChange.moveOff
  exact State.Keeps.ite h2.fenceGallery h2

theorem State.Keeps.coreResetDue {s0 s : State} (h0 : s0.Keeps s) {h : HallId} {c cyc : Nat} : s0.Keeps (s.coreResetDue h c cyc) := by
  unfold State.coreResetDue
  extract_lets H G
  refine State.Keeps.ite h0 (State.Keeps.ite (h0.onHall fun H hH => hH.onCore ?_) h0.coreReset)
  exact fun k hk => hk

theorem State.Keeps.galleryReset {s0 s : State} (h0 : s0.Keeps s) {h : HallId} {g cyc : Nat} : s0.Keeps (s.galleryReset h g cyc) := by
  unfold State.galleryReset
  extract_lets s1
  refine State.Keeps.onHall (s := s1) h0.fenceGallery fun H hH => ?_
  extract_lets H1 H2 H3
  have h1 : H1.Wf := Hall.Wf.foldl (fun H i hH => by exact Hall.Wf.onCore hH fun k hk => Core.filled_wf) _ hH
  have h2 : H2.Wf := Hall.Wf.storeLostFrames h1
  have h3 : H3.Wf := Hall.Wf.onGal h2 fun G hG => by
    dsimp only
    split
    · exact Store.wf_unwritten
    · exact Store.wf_zero
  exact h3.update rfl rfl rfl

theorem State.Keeps.endRun {s0 s : State} (h0 : s0.Keeps s) {h : HallId} {x : Ctx} {k : Cmd} {code cyc : Nat} : s0.Keeps (s.endRun h x k code cyc) := by
  unfold State.endRun
  try dsimp only
  repeat' first
    | with_reducible assumption
    | intro _
    | with_reducible apply State.Keeps.onHall
    | with_reducible apply Hall.Wf.letGo
    | with_reducible apply Hall.Wf.countBusy
    | with_reducible apply State.Keeps.faultCmd

theorem State.Keeps.commitPoint {s0 s : State} (h0 : s0.Keeps s) {h : HallId} {ctx pos cyc : Nat} : s0.Keeps (s.commitPoint h ctx pos cyc) := by
  unfold State.commitPoint
  try dsimp only
  repeat' first
    | with_reducible assumption
    | intro _
    | with_reducible refine State.Keeps.setHall ?_ (fun _ => ?_)
    | with_reducible apply Hall.Wf.onward
    | with_reducible apply State.Keeps.onHall
    | with_reducible apply State.Keeps.endRun
    | with_reducible apply State.Keeps.afterAt
    | with_reducible apply Hall.Wf.onGal
    | with_reducible apply State.Keeps.count
    | with_reducible apply Hall.Wf.count
    | with_reducible apply Hall.Wf.onCtx
    | with_reducible apply Hall.Wf.commit
    | with_reducible apply Hall.Wf.saveLate
    | with_reducible apply Hall.Wf.commitDevice
    | with_reducible apply Hall.Wf.slotCommit
    | with_reducible apply Hall.Wf.unlock
    | split
    | with_reducible apply State.Wf.hall

theorem State.Keeps.finish {s0 s : State} (h0 : s0.Keeps s) {h : HallId} {x : Ctx} {k : Cmd} {cyc : Nat} : s0.Keeps (s.finish h x k cyc) := by
  unfold State.finish
  try dsimp only
  repeat' first
    | with_reducible assumption
    | intro _
    | with_reducible apply State.Keeps.complete
    | with_reducible apply Hall.Wf.commit
    | with_reducible apply State.Keeps.onHall
    | with_reducible apply Hall.Wf.onCtx
    | with_reducible apply Hall.Wf.idleCtx
    | with_reducible apply Hall.Wf.endCtx
    | with_reducible apply Hall.Wf.startFallbacks
    | with_reducible apply Hall.Wf.slotCheck
    | split

theorem State.Keeps.publicationEnd {s0 s : State} (h0 : s0.Keeps s) {h : HallId} {ctx pos cyc : Nat} :
    s0.Keeps (s.publicationEnd h ctx pos cyc) := by
  unfold State.publicationEnd
  extract_lets H
  split
  · exact h0
  · split
    · exact h0
    · rename_i x _ _ k hk
      extract_lets s1 s' s2
      have hw : s.Wf → H.Wf := fun w => Hall.Wf.onward (w.hall h)
      have h1 : s0.Keeps s1 := by
        unfold s1
        split
        · refine (State.Keeps.setHall h0 fun w => Hall.Wf.poisonWord (Hall.Wf.publishBytes (hw w))).onHall fun H hH => Hall.Wf.onCore hH ?_
          exact fun c hc => hc
        · exact (State.Keeps.setHall h0 fun w => Hall.Wf.publishAll (hw w)).finish
      clear_value s1
      have h2 : s0.Keeps s' := h1.onHall fun H hH => by
        refine Hall.Wf.onCtx (Hall.Wf.onCore hH ?_)
        exact fun c hc => hc
      clear_value s'
      have h3 : s0.Keeps s2 := State.Keeps.ite h2.coreResetDue h1
      clear_value s2 H
      exact State.Keeps.ite h0 h3.afterAt

theorem State.Keeps.sequencer {s0 s : State} (h0 : s0.Keeps s) {h : HallId} {ctx op cyc : Nat} : s0.Keeps (s.sequencer h ctx op cyc) := by
  unfold State.sequencer
  try dsimp only
  repeat' first
    | with_reducible assumption
    | intro _
    | with_reducible apply State.Keeps.onHall
    | with_reducible apply Hall.Wf.onward
    | with_reducible apply Hall.Wf.onCore
    | with_reducible apply State.Keeps.count
    | with_reducible apply Hall.Wf.count
    | with_reducible apply Hall.Wf.sampleCommit
    | with_reducible apply Hall.Wf.slotCommit
    | with_reducible apply Hall.Wf.publishAll
    | with_reducible apply State.Keeps.finish
    | with_reducible apply State.Keeps.afterAt
    | split

theorem State.Keeps.overrun {s0 s : State} (h0 : s0.Keeps s) {h : HallId} {ctx pos cyc : Nat} : s0.Keeps (s.overrun h ctx pos cyc) := by
  unfold State.overrun
  try dsimp only
  repeat' first
    | with_reducible assumption
    | intro _
    | with_reducible apply State.Keeps.onHall
    | with_reducible apply Hall.Wf.onward
    | with_reducible apply Hall.Wf.requestKill
    | with_reducible apply Hall.Wf.addLog
    | split

theorem State.Keeps.killComplete {s0 s : State} (h0 : s0.Keeps s) {h : HallId} {ctx pos cyc : Nat} : s0.Keeps (s.killComplete h ctx pos cyc) := by
  unfold State.killComplete
  try dsimp only
  repeat' first
    | with_reducible assumption
    | intro _
    | with_reducible apply State.Keeps.killed
    | with_reducible apply State.Keeps.afterAt
    | split

theorem State.Keeps.bankError {s0 s : State} (h0 : s0.Keeps s) {h : HallId} {c b cyc : Nat} : s0.Keeps (s.bankError h c b cyc) := by
  unfold State.bankError
  extract_lets s1 n
  have h1 : s0.Keeps s1 := h0.onHall fun H hH => by
    extract_lets H' H0 H1
    have h2 : H0.Wf := Hall.Wf.onCore (Hall.Wf.onward hH) fun k hk => hk
    have h3 : H1.Wf := Hall.Wf.update h2 rfl rfl rfl
    exact Hall.Wf.foldl (fun H e hH => Hall.Wf.requestKill hH) _ h3
  exact State.Keeps.ite h1.coreResetDue h1

theorem State.Keeps.pins {s0 s : State} (h0 : s0.Keeps s)  : s0.Keeps (s.pins) := by
  unfold State.pins
  try dsimp only
  repeat' first
    | with_reducible assumption
    | intro _
    | with_reducible apply State.Keeps.pinCheck

theorem State.Keeps.tallied {s0 t : State} (h0 : s0.Keeps t) {s : State} : s0.Keeps (t.tallied s) :=
  ⟨h0.pending, h0.free, h0.tap, fun w => ⟨(h0.wf w).1.tally, (h0.wf w).2.tally⟩⟩

theorem State.Keeps.whole {s0 s : State} (h0 : s0.Keeps s) {f : State → State}
    (hf : ∀ s, s0.Keeps s → s0.Keeps (f s)) : s0.Keeps (s.whole f) :=
  State.Keeps.inCycle (hf _ h0).pins.tallied

theorem State.Keeps.live {s0 s : State} (h0 : s0.Keeps s) {f : State → State}
    (hf : ∀ s, s0.Keeps s → s0.Keeps (f s)) : s0.Keeps (s.live f) := by
  unfold State.live
  split
  · exact h0
  · exact h0.whole hf

theorem State.Keeps.ifUp {s0 s : State} (h0 : s0.Keeps s) {h : HallId} {f : State → State}
    (hf : ∀ s, s0.Keeps s → s0.Keeps (f s)) : s0.Keeps (s.ifUp h f) := by
  unfold State.ifUp
  split
  · exact hf _ h0
  · exact h0

theorem State.Keeps.inHall {s0 s : State} (h0 : s0.Keeps s) {h : HallId} {f : Hall → Hall}
    (hf : ∀ H : Hall, H.Wf → (f H).Wf) : s0.Keeps (s.inHall h f) :=
  h0.ifUp fun _ hs => hs.onHall hf

theorem State.Keeps.atVt {s0 s : State} (h0 : s0.Keeps s) {vt : Nat} : s0.Keeps (s.atVt vt) := by
  unfold State.atVt
  try dsimp only
  repeat' first
    | with_reducible assumption
    | intro _
    | split
    | refine Hall.Wf.update ?_ rfl rfl rfl
    | refine State.Keeps.update ?_ (Nat.le_refl _)

end Sys2Proof.Machine
end

