-- ==== Sys2Proof/Laws/KeepsHost.lean ====
section
/-! SUPPORT. Capsules, tenancy, power, boundaries, boot, the host ports and the feeds respect `State.Keeps`. -/

namespace Sys2Proof.Machine

theorem State.Keeps.logHst {s0 s : State} (h0 : s0.Keeps s) {p off : Nat} : s0.Keeps (s.logHst p off) := by
  unfold State.logHst
  try dsimp only
  repeat' first
    | with_reducible assumption
    | intro _
    | with_reducible apply State.Keeps.logPort

theorem State.Keeps.respond {s0 s : State} (h0 : s0.Keeps s) {p op tag session status : Nat} {payload : List Byte} : s0.Keeps (s.respond p op tag session status payload) := by
  unfold State.respond
  try dsimp only
  repeat' first
    | with_reducible assumption
    | intro _
    | with_reducible apply State.Keeps.onPort
    | with_reducible apply State.Keeps.logHst
    | with_reducible apply State.Keeps.event
    | split

theorem State.Keeps.answer {s0 s : State} (h0 : s0.Keeps s) {h : HallId} {p op tag session status : Nat} {payload : List Byte} : s0.Keeps (s.answer h p op tag session status payload) := by
  unfold State.answer
  try dsimp only
  repeat' first
    | with_reducible assumption
    | intro _
    | with_reducible apply State.Keeps.respond
    | with_reducible apply State.Keeps.onHall
    | with_reducible apply Hall.Wf.tell
    | split

theorem State.Keeps.dropWait {s0 s : State} (h0 : s0.Keeps s) {p : Nat} {f : Wait → Bool} : s0.Keeps (s.dropWait p f) := by
  unfold State.dropWait
  try dsimp only
  repeat' first
    | with_reducible assumption
    | intro _
    | with_reducible apply State.Keeps.onPort

theorem State.Keeps.newChallenge {s0 s : State} (h0 : s0.Keeps s) {p : Nat} : s0.Keeps (s.newChallenge p) := by
  unfold State.newChallenge
  try dsimp only
  repeat' first
    | with_reducible assumption
    | intro _
    | with_reducible apply State.Keeps.draw
    | with_reducible apply State.Keeps.onPort

theorem State.Keeps.stageWrite {s0 s : State} (h0 : s0.Keeps s) {m off : Nat} {bs : List Byte} : s0.Keeps (s.stageWrite m off bs) := by
  unfold State.stageWrite
  try dsimp only
  repeat' first
    | with_reducible assumption
    | intro _
    | split
    | refine Hall.Wf.update ?_ rfl rfl rfl
    | refine State.Keeps.update ?_ (Nat.le_refl _)

theorem State.Keeps.placePlain {s0 s : State} (h0 : s0.Keeps s) {h : HallId} {m : Nat} {p : Nat × Nat × Nat × Nat} {bs : List Byte} : s0.Keeps (s.placePlain h m p bs) := by
  unfold State.placePlain
  try dsimp only
  repeat' first
    | with_reducible assumption
    | intro _
    | with_reducible apply State.Keeps.onHall
    | with_reducible apply Hall.Wf.writeAt
    | with_reducible apply State.Keeps.stageWrite
    | split

theorem State.Keeps.zeroPlace {s0 s : State} (h0 : s0.Keeps s) {h : HallId} {m : Nat} {p : Nat × Nat × Nat × Nat} : s0.Keeps (s.zeroPlace h m p) := by
  unfold State.zeroPlace
  try dsimp only
  repeat' first
    | with_reducible assumption
    | intro _
    | with_reducible apply State.Keeps.placePlain
    | split
    | refine Hall.Wf.update ?_ rfl rfl rfl
    | refine State.Keeps.update ?_ (Nat.le_refl _)

theorem State.Keeps.dropModel {s0 s : State} (h0 : s0.Keeps s) {h : HallId} {m : Nat} : s0.Keeps (s.dropModel h m) := by
  unfold State.dropModel
  try dsimp only
  repeat' first
    | with_reducible assumption
    | intro _
    | with_reducible apply State.Keeps.zeroPlace
    | with_reducible apply State.Keeps.onHall
    | with_reducible apply Hall.Wf.eraseHandle
    | with_reducible apply Hall.Wf.reportStaged
    | with_reducible apply State.Keeps.foldl
    | with_reducible apply Hall.Wf.foldl
    | split
    | refine Hall.Wf.update ?_ rfl rfl rfl

theorem State.Keeps.answerLoad {s0 s : State} (h0 : s0.Keeps s) {h : HallId} {l : Load} {status : Nat} {payload : List Byte} : s0.Keeps (s.answerLoad h l status payload) := by
  unfold State.answerLoad
  try dsimp only
  repeat' first
    | with_reducible assumption
    | intro _
    | with_reducible apply State.Keeps.onHall
    | with_reducible apply State.Keeps.answer
    | with_reducible apply State.Keeps.dropWait
    | split
    | refine Hall.Wf.update ?_ rfl rfl rfl

theorem State.Keeps.refusePart {s0 s : State} (h0 : s0.Keeps s) {h : HallId} {l : Load} {code : Nat} {wrote : List (Nat × Nat × Nat × Nat)} : s0.Keeps (s.refusePart h l code wrote) := by
  unfold State.refusePart
  try dsimp only
  repeat' first
    | with_reducible assumption
    | intro _
    | with_reducible apply State.Keeps.zeroPlace
    | with_reducible apply State.Keeps.dropModel
    | with_reducible apply State.Keeps.answerLoad
    | with_reducible apply State.Keeps.foldl

theorem State.Keeps.loadPart {s0 s : State} (h0 : s0.Keeps s) {h : HallId} {l : Load} {bs : List Byte} :
    s0.Keeps (s.loadPart h l bs) := by
  unfold State.loadPart
  extract_lets H old key next gs before formatBad opened badAt last plain digestBad descs
  clear_value H old key next gs before formatBad badAt last plain digestBad descs
  split
  · extract_lets ps targetBad m s1 s2
    have h1 : s0.Keeps s1 := by
      with_reducible refine State.Keeps.foldl (fun s i hs => ?_) _ h0
      split
      · exact hs.placePlain
      · exact hs
    have h2 : s0.Keeps s2 := by
      with_reducible refine State.Keeps.onHall h1 fun H hH => ?_
      extract_lets q H1
      have h3 : H1.Wf := hH.update rfl rfl rfl
      clear_value H1
      exact Hall.Wf.ite (Hall.Wf.reportStaged (Hall.Wf.eraseHandle h3)) h3
    clear_value s2 ps targetBad m
    with_reducible refine State.Keeps.ite h0.refusePart (State.Keeps.ite h0.refusePart (State.Keeps.ite h0.refusePart
      (State.Keeps.ite h0.refusePart ?_)))
    split
    · exact h0.refusePart
    · with_reducible exact State.Keeps.ite h0.refusePart (State.Keeps.ite h0.refusePart
        (State.Keeps.answerLoad (State.Keeps.count h2)))
  · exact h0.refusePart

theorem State.Keeps.partDone {s0 s : State} (h0 : s0.Keeps s) {h : HallId} {m : Nat} {fromFlash : List Byte} :
    s0.Keeps (s.partDone h m fromFlash) := by
  unfold State.partDone
  split
  · exact h0
  · exact h0.loadPart

theorem State.Keeps.abandonLoad {s0 s : State} (h0 : s0.Keeps s) {h : HallId} {l : Load} {status : Nat} {payload : List Byte} : s0.Keeps (s.abandonLoad h l status payload) := by
  unfold State.abandonLoad
  try dsimp only
  repeat' first
    | with_reducible assumption
    | intro _
    | with_reducible apply State.Keeps.dropModel
    | with_reducible apply State.Keeps.onHall
    | with_reducible apply State.Keeps.answerLoad
    | split
    | refine Hall.Wf.update ?_ rfl rfl rfl

theorem State.Keeps.cancelCtx {s0 s : State} (h0 : s0.Keeps s) {h : HallId} {x : Ctx} : s0.Keeps (s.cancelCtx h x) := by
  unfold State.cancelCtx
  try dsimp only
  repeat' first
    | with_reducible assumption
    | intro _
    | with_reducible apply State.Keeps.onHall
    | with_reducible apply Hall.Wf.requestKill
    | with_reducible apply Hall.Wf.onCtx
    | with_reducible apply Hall.Wf.dropSaved
    | with_reducible apply Hall.Wf.settled
    | with_reducible apply State.Keeps.complete
    | with_reducible apply Hall.Wf.admitCtx
    | with_reducible apply Hall.Wf.after
    | with_reducible apply Hall.Wf.settle
    | with_reducible apply State.Keeps.pinCheck
    | with_reducible apply State.Keeps.foldl
    | with_reducible apply Hall.Wf.foldl
    | split

theorem State.Keeps.startRelease {s0 s : State} (h0 : s0.Keeps s) {h : HallId} {n : Nat} : s0.Keeps (s.startRelease h n) := by
  unfold State.startRelease
  try dsimp only
  repeat' first
    | with_reducible assumption
    | intro _
    | with_reducible apply State.Keeps.onHall
    | with_reducible apply Hall.Wf.zeroSaved
    | with_reducible apply State.Keeps.cancelCtx
    | with_reducible apply State.Keeps.ctxEvent
    | with_reducible apply Hall.Wf.unbindStream
    | with_reducible apply Hall.Wf.unbindRing
    | with_reducible apply State.Keeps.abandonLoad
    | with_reducible apply Hall.Wf.eraseSlot
    | with_reducible apply State.Keeps.foldl
    | with_reducible apply Hall.Wf.foldl
    | split
    | refine Hall.Wf.update ?_ rfl rfl rfl

theorem State.Keeps.answerScrubs {s0 s : State} (h0 : s0.Keeps s)  : s0.Keeps (s.answerScrubs) := by
  unfold State.answerScrubs
  try dsimp only
  repeat' first
    | with_reducible assumption
    | intro _
    | with_reducible apply State.Keeps.dropWait
    | with_reducible apply State.Keeps.respond
    | with_reducible apply State.Keeps.foldl
    | with_reducible apply Hall.Wf.foldl
    | split

theorem State.Keeps.scrubDone {s0 s : State} (h0 : s0.Keeps s) {h : HallId} {n : Nat} : s0.Keeps (s.scrubDone h n) := by
  unfold State.scrubDone
  try dsimp only
  repeat' first
    | with_reducible assumption
    | intro _
    | with_reducible apply State.Keeps.onHall
    | with_reducible apply Hall.Wf.scrubFootprint
    | with_reducible apply Hall.Wf.zeroSaved
    | with_reducible apply Hall.Wf.dropSaved
    | with_reducible apply Hall.Wf.onDom
    | with_reducible apply State.Keeps.answerScrubs
    | with_reducible apply State.Keeps.foldl
    | with_reducible apply Hall.Wf.foldl
    | split
    | refine Hall.Wf.update ?_ rfl rfl rfl

theorem State.Keeps.setEpoch {s0 s : State} (h0 : s0.Keeps s) {e : Epochs} : s0.Keeps (s.setEpoch e) := by
  unfold State.setEpoch
  try dsimp only
  repeat' first
    | with_reducible assumption
    | intro _
    | split
    | refine Hall.Wf.update ?_ rfl rfl rfl
    | refine State.Keeps.update ?_ (Nat.le_refl _)

theorem State.Keeps.drawEpoch {s0 s : State} (h0 : s0.Keeps s)  : s0.Keeps ((s.drawEpoch).2) := by
  unfold State.drawEpoch
  try dsimp only
  repeat' first
    | with_reducible assumption
    | intro _
    | with_reducible apply State.Keeps.draw

theorem State.Keeps.freshEpoch {s0 s : State} (h0 : s0.Keeps s) {h d : Nat} : s0.Keeps (s.freshEpoch h d) := by
  unfold State.freshEpoch
  try dsimp only
  repeat' first
    | with_reducible assumption
    | intro _
    | with_reducible apply State.Keeps.drawEpoch
    | with_reducible apply State.Keeps.setEpoch

theorem State.Keeps.rotate {s0 s : State} (h0 : s0.Keeps s) {h : HallId} {d : Nat} : s0.Keeps ((s.rotate h d).2) := by
  unfold State.rotate
  try dsimp only
  repeat' first
    | with_reducible assumption
    | intro _
    | with_reducible apply State.Keeps.onHall
    | with_reducible apply State.Keeps.drawEpoch
    | with_reducible apply State.Keeps.setEpoch
    | with_reducible apply Hall.Wf.onDom
    | with_reducible apply Hall.Wf.startSweep
    | split
    | refine Hall.Wf.update ?_ rfl rfl rfl

theorem State.Keeps.sweepStep {s0 s : State} (h0 : s0.Keeps s) {h : HallId} : s0.Keeps (s.sweepStep h) := by
  unfold State.sweepStep
  try dsimp only
  repeat' first
    | with_reducible assumption
    | intro _
    | with_reducible apply Hall.Wf.onFrame
    | with_reducible apply State.Keeps.count
    | with_reducible apply Hall.Wf.count
    | with_reducible apply State.Keeps.onHall
    | with_reducible apply State.Keeps.setEpoch
    | with_reducible apply Hall.Wf.startSweep
    | split
    | refine Hall.Wf.update ?_ rfl rfl rfl

theorem Core.untag_wf {k : Core} {d : Nat} (hk : k.op.wf = true) : (k.untag d).op.wf = true := hk

theorem State.Keeps.domainDone {s0 s : State} (h0 : s0.Keeps s) {h : HallId} {d : Nat} : s0.Keeps (s.domainDone h d) := by
  unfold State.domainDone
  split
  · exact h0
  · extract_lets s1 s2 r0 r1
    have h1 : s0.Keeps s1 := State.Keeps.foldl (fun s m hs => hs.dropModel) _ h0
    clear_value s1
    have h2 : s0.Keeps s2 := h1.onHall fun H hH => by
      extract_lets ns gone q H1 H2 q3 H3 ext H4
      have h3 : H1.Wf := Hall.Wf.update hH rfl rfl rfl
      have h4 : H2.Wf := Hall.Wf.foldl (fun H n hH => Hall.Wf.scrubFrame hH) _ h3
      have h5 : H3.Wf := by
        have h6 := (Hall.Wf.untagRuns (d := d) (on := fun _ => true) h4).mapCores (f := fun k => k.untag d) fun k hk => Core.untag_wf hk
        exact h6
      clear_value H3
      exact Hall.Wf.onDom (Hall.Wf.dropSweep (Hall.Wf.dramLose h5))
    clear_value s2
    exact State.Keeps.ite h0 (State.Keeps.answerScrubs (State.Keeps.setEpoch (State.Keeps.drawEpoch (State.Keeps.drawEpoch h2))))

theorem State.Keeps.attest {s0 s : State} (h0 : s0.Keeps s) {h : HallId} {e : Session} {purpose model : Nat} {nonce : List Byte} :
    s0.Keeps (s.attest h e purpose model nonce).1 := by
  have h1 : s0.Keeps (if purpose = 1 then s.draw 48 else ([], s)).2 := by
    split
    · exact h0.draw
    · exact h0
  have h2 : ∀ s1 : State, s0.Keeps s1 → s0.Keeps { s1 with free := s1.free + 1 } := fun s1 k => k.update (Nat.le_succ _)
  unfold State.attest
  dsimp only
  with_reducible refine State.Keeps.onHall (h2 _ h1) fun H hH => ?_
  exact hH.update rfl rfl rfl

theorem State.Keeps.unwrapKey {s0 s : State} (h0 : s0.Keeps s) {h : HallId} {e : Session} {pl : List Byte} :
    s0.Keeps (s.unwrapKey h e pl).1 := by
  unfold State.unwrapKey
  extract_lets H use model ten modelOk full
  clear_value modelOk full
  split
  · exact h0
  · extract_lets s1 key
    have h1 : s0.Keeps s1 := h0.onHall fun H hH => hH.update rfl rfl rfl
    clear_value s1 key
    split
    · exact h1
    · with_reducible refine State.Keeps.ite_fst h1 (State.Keeps.ite_fst h1 ?_)
      split
      · exact h1
      · rename_i hk
        with_reducible refine State.Keeps.setHall h1 fun w => Hall.Wf.count ?_
        exact Hall.Wf.placeKey (w.hall h) hk

theorem State.Keeps.bindSession {s0 s : State} (h0 : s0.Keeps s) {h : HallId} {p : Nat} {c : Capsule} : s0.Keeps ((s.bindSession h p c).1) := by
  unfold State.bindSession
  try dsimp only
  repeat' first
    | with_reducible assumption
    | intro _
    | with_reducible apply State.Keeps.newChallenge
    | with_reducible apply State.Keeps.onHall
    | with_reducible apply State.Keeps.foldl
    | with_reducible apply Hall.Wf.foldl
    | split
    | refine Hall.Wf.update ?_ rfl rfl rfl

theorem State.Keeps.addStream {s0 s : State} (h0 : s0.Keeps s) {h : HallId} {c : Capsule} {e : Session} {k : KeySlot} {ks : List HallId} :
    s0.Keeps (s.addStream h c e k ks) := by
  unfold State.addStream
  try dsimp only
  repeat' first
    | with_reducible assumption
    | intro _
    | with_reducible apply State.Keeps.onHall
    | with_reducible apply Hall.Wf.wake
    | with_reducible apply State.Keeps.foldl
    | with_reducible apply Hall.Wf.foldl
    | split
    | refine Hall.Wf.update ?_ rfl rfl rfl

theorem State.Keeps.bindStream {s0 s : State} (h0 : s0.Keeps s) {h : HallId} {p : Nat} {c : Capsule} : s0.Keeps ((s.bindStream h p c).1) := by
  unfold State.bindStream
  try dsimp only
  repeat' first
    | with_reducible assumption
    | with_reducible apply State.Keeps.addStream
    | split

theorem State.Keeps.bindRing {s0 s : State} (h0 : s0.Keeps s) {h : HallId} {p : Nat} {far : Bool} {c : Capsule} : s0.Keeps ((s.bindRing h p far c).1) := by
  unfold State.bindRing
  try dsimp only
  repeat' first
    | with_reducible assumption
    | intro _
    | with_reducible apply State.Keeps.onHall
    | split
    | refine Hall.Wf.update ?_ rfl rfl rfl

theorem State.Keeps.unbindSession {s0 s : State} (h0 : s0.Keeps s) {h : HallId} {p : Nat} {c : Capsule} : s0.Keeps ((s.unbindSession h p c).1) := by
  unfold State.unbindSession
  try dsimp only
  repeat' first
    | with_reducible assumption
    | intro _
    | with_reducible apply State.Keeps.startRelease
    | with_reducible apply State.Keeps.foldl
    | with_reducible apply Hall.Wf.foldl
    | split

theorem State.Keeps.unbindStream {s0 s : State} (h0 : s0.Keeps s) {h : HallId} {p : Nat} {c : Capsule} : s0.Keeps ((s.unbindStream h p c).1) := by
  unfold State.unbindStream
  try dsimp only
  repeat' first
    | with_reducible assumption
    | intro _
    | with_reducible apply State.Keeps.onHall
    | with_reducible apply Hall.Wf.unbindStream
    | with_reducible apply State.Keeps.foldl
    | with_reducible apply Hall.Wf.foldl
    | split

theorem State.Keeps.unbindRing {s0 s : State} (h0 : s0.Keeps s) {h : HallId} {p : Nat} {far : Bool} {c : Capsule} : s0.Keeps ((s.unbindRing h p far c).1) := by
  unfold State.unbindRing
  try dsimp only
  repeat' first
    | with_reducible assumption
    | intro _
    | with_reducible apply State.Keeps.onHall
    | with_reducible apply Hall.Wf.unbindRing
    | split

theorem State.Keeps.submitCreate {s0 s : State} (h0 : s0.Keeps s) {h : HallId} {p : Nat} {far : Bool} {c : Capsule} : s0.Keeps ((s.submitCreate h p far c).1) := by
  unfold State.submitCreate
  try dsimp only
  repeat' first
    | with_reducible assumption
    | intro _
    | with_reducible apply State.Keeps.onHall
    | with_reducible apply Hall.Wf.insertCtx
    | with_reducible apply Hall.Wf.settleCtx
    | with_reducible apply Hall.Wf.settle
    | split

theorem State.Keeps.submitResume {s0 s : State} (h0 : s0.Keeps s) {h : HallId} {p : Nat} {far : Bool} {c : Capsule} : s0.Keeps ((s.submitResume h p far c).1) := by
  unfold State.submitResume
  try dsimp only
  repeat' first
    | with_reducible assumption
    | intro _
    | with_reducible apply State.Keeps.onHall
    | with_reducible apply Hall.Wf.onCtx
    | with_reducible apply Hall.Wf.settleCtx
    | with_reducible apply Hall.Wf.settle
    | split

theorem State.Keeps.cancelCapsule {s0 s : State} (h0 : s0.Keeps s) {h : HallId} {p : Nat} {far : Bool} {c : Capsule} : s0.Keeps ((s.cancelCapsule h p far c).1) := by
  unfold State.cancelCapsule
  try dsimp only
  repeat' first
    | with_reducible assumption
    | intro _
    | with_reducible apply State.Keeps.cancelCtx
    | split

theorem State.Keeps.queryCtx {s0 s : State} (h0 : s0.Keeps s) {h : HallId} {p : Nat} {far : Bool} {kind : Nat} {c : Capsule} : s0.Keeps ((s.queryCtx h p far kind c).1) := by
  unfold State.queryCtx
  try dsimp only
  repeat' first
    | with_reducible assumption
    | intro _
    | split

theorem State.Keeps.queryStream {s0 s : State} (h0 : s0.Keeps s) {h : HallId} {p : Nat} {far : Bool} {c : Capsule} : s0.Keeps ((s.queryStream h p far c).1) := by
  unfold State.queryStream
  try dsimp only
  repeat' first
    | with_reducible assumption
    | intro _
    | split

theorem State.Keeps.queryEvents {s0 s : State} (h0 : s0.Keeps s) {h : HallId} {p : Nat} {c : Capsule} :
    s0.Keeps (s.queryEvents h p c).1 := by
  unfold State.queryEvents
  dsimp only
  split
  · exact h0
  · with_reducible refine h0.onPort fun P hP => ?_
    exact Nat.le_trans (by simp) hP

theorem State.Keeps.queryPort {s0 s : State} (h0 : s0.Keeps s) {h : HallId} {p : Nat} {c : Capsule} : s0.Keeps ((s.queryPort h p c).1) := by
  unfold State.queryPort
  try dsimp only
  repeat' first
    | with_reducible assumption
    | intro _
    | split

theorem State.Keeps.attestCapsule {s0 s : State} (h0 : s0.Keeps s) {h : HallId} {p : Nat} {far : Bool} {c : Capsule} :
    s0.Keeps (s.attestCapsule h p far c).1 := by
  unfold State.attestCapsule
  extract_lets H pl e purpose model modelBad full
  clear_value H pl e purpose model modelBad full
  split
  · exact h0
  · exact h0
  · exact State.Keeps.ite_fst h0 (State.Keeps.ite_fst h0 (State.Keeps.ite_fst h0 h0.attest))

theorem State.Keeps.keywrapKey {s0 s : State} (h0 : s0.Keeps s) {h : HallId} {p : Nat} {far : Bool} {c : Capsule} :
    s0.Keeps (s.keywrapKey h p far c).1 := by
  unfold State.keywrapKey
  extract_lets H e
  clear_value H e
  split
  · exact h0
  · exact h0
  · exact State.Keeps.ite_fst h0 h0.unwrapKey

theorem State.Keeps.keywrapRotate {s0 s : State} (h0 : s0.Keeps s) {h : HallId} {p : Nat} {far : Bool} {c : Capsule} : s0.Keeps ((s.keywrapRotate h p far c).1) := by
  unfold State.keywrapRotate
  try dsimp only
  repeat' first
    | with_reducible assumption
    | intro _
    | with_reducible apply State.Keeps.rotate
    | split

theorem State.Keeps.keywrapErase {s0 s : State} (h0 : s0.Keeps s) {h : HallId} {p : Nat} {far : Bool} {c : Capsule} : s0.Keeps ((s.keywrapErase h p far c).1) := by
  unfold State.keywrapErase
  try dsimp only
  repeat' first
    | with_reducible assumption
    | intro _
    | with_reducible apply State.Keeps.onHall
    | with_reducible apply Hall.Wf.eraseSlot
    | split

theorem State.Keeps.loadmodelLoad {s0 s : State} (h0 : s0.Keeps s) {h : HallId} {p : Nat} {far : Bool} {flash : Flash} {c : Capsule} : s0.Keeps ((s.loadmodelLoad h p far flash c).1) := by
  unfold State.loadmodelLoad
  try dsimp only
  repeat' first
    | with_reducible assumption
    | intro _
    | with_reducible apply State.Keeps.onHall
    | split
    | refine Hall.Wf.update ?_ rfl rfl rfl

theorem State.Keeps.loadmodelUnload {s0 s : State} (h0 : s0.Keeps s) {h : HallId} {p : Nat} {far : Bool} {c : Capsule} : s0.Keeps ((s.loadmodelUnload h p far c).1) := by
  unfold State.loadmodelUnload
  try dsimp only
  repeat' first
    | with_reducible assumption
    | intro _
    | with_reducible apply State.Keeps.abandonLoad
    | with_reducible apply State.Keeps.dropModel
    | with_reducible apply State.Keeps.foldl
    | with_reducible apply Hall.Wf.foldl
    | split

theorem State.Keeps.settleReply {s0 s : State} (h0 : s0.Keeps s) {p : Nat} {c : Capsule} {r : Reply} : s0.Keeps (s.settleReply p c r) := by
  unfold State.settleReply
  try dsimp only
  repeat' first
    | with_reducible assumption
    | intro _
    | with_reducible apply State.Keeps.respond
    | with_reducible apply State.Keeps.onPort
    | with_reducible apply State.Keeps.onHall
    | with_reducible apply Hall.Wf.tell
    | split

theorem State.Keeps.settleFar {s0 s : State} (h0 : s0.Keeps s) {h : HallId} {p : Nat} {c : Capsule} {r : Reply} : s0.Keeps (s.settleFar h p c r) := by
  unfold State.settleFar
  try dsimp only
  repeat' first
    | with_reducible assumption
    | intro _
    | with_reducible apply State.Keeps.answer
    | split

theorem State.Keeps.startCapsule {s0 s : State} (h0 : s0.Keeps s) {p op : Nat} {kinds : Option (Nat × Nat)}
    {run : HallId → Capsule → State → State × Reply} (hr : ∀ h c s, s0.Keeps s → s0.Keeps (run h c s).1) :
    s0.Keeps (s.startCapsule p op kinds run) := by
  unfold State.startCapsule
  split
  · exact h0
  · extract_lets h mine r
    have h1 : s0.Keeps r.1 := hr _ _ _ (h0.onPort fun P hP => hP)
    clear_value mine r
    exact State.Keeps.ite h0 (State.Keeps.ite h1.settleReply h1)

theorem State.Keeps.runForwarded {s0 s : State} (h0 : s0.Keeps s) {h : HallId} {p : Nat} {bs : List Byte} : s0.Keeps (s.runForwarded h p bs) := by
  unfold State.runForwarded
  try dsimp only
  repeat' first
    | with_reducible assumption
    | intro _
    | with_reducible apply State.Keeps.bindRing
    | with_reducible apply State.Keeps.unbindRing
    | with_reducible apply Hall.Wf.unbindRing
    | with_reducible apply State.Keeps.submitCreate
    | with_reducible apply State.Keeps.submitResume
    | with_reducible apply State.Keeps.cancelCapsule
    | with_reducible apply State.Keeps.queryStream
    | with_reducible apply State.Keeps.queryCtx
    | with_reducible apply State.Keeps.attestCapsule
    | with_reducible apply State.Keeps.keywrapRotate
    | with_reducible apply State.Keeps.keywrapErase
    | with_reducible apply State.Keeps.keywrapKey
    | with_reducible apply State.Keeps.loadmodelUnload
    | with_reducible apply State.Keeps.loadmodelLoad
    | with_reducible apply State.Keeps.settleFar
    | split

theorem State.Keeps.endForwarded {s0 s : State} (h0 : s0.Keeps s) {p tag status : Nat} {payload : List Byte} : s0.Keeps (s.endForwarded p tag status payload) := by
  unfold State.endForwarded
  try dsimp only
  repeat' first
    | with_reducible assumption
    | intro _
    | with_reducible apply State.Keeps.dropWait
    | with_reducible apply State.Keeps.respond
    | split

theorem State.Keeps.dropDomains {s0 s : State} (h0 : s0.Keeps s) {dest : Nat} : s0.Keeps (s.dropDomains dest) := by
  unfold State.dropDomains
  try dsimp only
  repeat' first
    | with_reducible assumption
    | intro _
    | with_reducible apply State.Keeps.onHall
    | with_reducible apply Hall.Wf.leaveHall
    | with_reducible apply Hall.Wf.stairDown
    | split
    | refine Hall.Wf.update ?_ rfl rfl rfl

theorem State.Keeps.setEnables {s0 s : State} (h0 : s0.Keeps s) {dest : Nat} {vt : Option Nat} : s0.Keeps (s.setEnables dest vt) := by
  unfold State.setEnables
  try dsimp only
  repeat' first
    | with_reducible assumption
    | intro _
    | split
    | refine Hall.Wf.update ?_ rfl rfl rfl
    | refine State.Keeps.update ?_ (Nat.le_refl _)

theorem State.Keeps.setEntry {s0 s : State} (h0 : s0.Keeps s) {v : Bool} : s0.Keeps (s.setEntry v) := by
  unfold State.setEntry
  try dsimp only
  repeat' first
    | with_reducible assumption
    | intro _
    | with_reducible apply State.Keeps.onHall
    | split
    | refine Hall.Wf.update ?_ rfl rfl rfl

theorem State.Keeps.refuse {s0 s : State} (h0 : s0.Keeps s) {h : HallId} {which dest reason refuser : Nat} : s0.Keeps (s.refuse h which dest reason refuser) := by
  unfold State.refuse
  try dsimp only
  repeat' first
    | with_reducible assumption
    | intro _
    | with_reducible apply State.Keeps.onHall
    | with_reducible apply State.Keeps.log
    | split
    | refine Hall.Wf.update ?_ rfl rfl rfl

theorem State.Keeps.startRow {s0 s : State} (h0 : s0.Keeps s) {e : Config'} {vt : Nat} : s0.Keeps (s.startRow e vt) := by
  unfold State.startRow
  try dsimp only
  repeat' first
    | with_reducible assumption
    | intro _
    | with_reducible apply State.Keeps.setEnables
    | with_reducible apply State.Keeps.setEntry
    | with_reducible apply State.Keeps.onHall
    | with_reducible apply Hall.Wf.fillGals
    | split
    | refine Hall.Wf.update ?_ rfl rfl rfl
    | refine State.Keeps.update ?_ (Nat.le_refl _)

theorem State.Keeps.recordRise {s0 s : State} (h0 : s0.Keeps s) {dest : Nat} {cause : Option (Nat × Nat)} {vt : Nat} : s0.Keeps (s.recordRise dest cause vt) := by
  unfold State.recordRise
  try dsimp only
  repeat' first
    | with_reducible assumption
    | intro _
    | split
    | refine Hall.Wf.update ?_ rfl rfl rfl
    | refine State.Keeps.update ?_ (Nat.le_refl _)

theorem State.Keeps.raiseDomains {s0 s : State} (h0 : s0.Keeps s) {dest : Nat} : s0.Keeps (s.raiseDomains dest) := by
  unfold State.raiseDomains
  try dsimp only
  repeat' first
    | with_reducible assumption
    | intro _
    | with_reducible apply State.Keeps.onHall
    | with_reducible apply Hall.Wf.enterHall
    | with_reducible apply Hall.Wf.txResume
    | with_reducible apply State.Keeps.prepareBuses
    | with_reducible apply Hall.Wf.prepareBuses
    | split
    | refine Hall.Wf.update ?_ rfl rfl rfl

theorem State.Keeps.lowerOff {s0 s : State} (h0 : s0.Keeps s) {l : Lowering} : s0.Keeps (s.lowerOff l) := by
  unfold State.lowerOff
  try dsimp only
  repeat' first
    | with_reducible assumption
    | intro _
    | with_reducible apply State.Keeps.onHall
    | with_reducible apply Hall.Wf.powerOff
    | with_reducible apply State.Keeps.dropDomains
    | with_reducible apply State.Keeps.setEntry
    | with_reducible apply State.Keeps.foldl
    | with_reducible apply Hall.Wf.foldl
    | split
    | refine Hall.Wf.update ?_ rfl rfl rfl
    | refine State.Keeps.update ?_ (Nat.le_refl _)

theorem State.Keeps.drainsOver {s0 s : State} (h0 : s0.Keeps s) {l : Lowering} : s0.Keeps (s.drainsOver l) := by
  unfold State.drainsOver
  try dsimp only
  repeat' first
    | with_reducible assumption
    | intro _
    | with_reducible apply State.Keeps.onHall
    | with_reducible apply State.Keeps.lowerOff
    | with_reducible apply State.Keeps.foldl
    | with_reducible apply Hall.Wf.foldl
    | split
    | refine Hall.Wf.update ?_ rfl rfl rfl

theorem State.Keeps.pkg {s0 s : State} (h0 : s0.Keeps s) (x : PkgPwr) : s0.Keeps { s with pkg := x } :=
  h0.update (Nat.le_refl _)

theorem State.Keeps.setDrains {s0 s : State} (h0 : s0.Keeps s) {i : HallId} {f : Hall → BitVec 8} :
    s0.Keeps (s.onHall i fun H => { H with pwr := { H.pwr with drains := f H } }) :=
  h0.onHall fun _ hH => hH.update rfl rfl rfl


theorem State.Keeps.startLower {s0 s : State} (h0 : s0.Keeps s) {e : Config'} : s0.Keeps (s.startLower e) := by
  have hd : ∀ (H : Hall) (l : List Nat), H.Wf → (l.foldl (fun (H : Hall) g => H.startDrain g) H).Wf := fun H l hH => by
    with_reducible refine Hall.Wf.foldl (fun H g hH => ?_) _ hH
    exact hH.startDrain
  unfold State.startLower
  extract_lets on offA offB vst hA hB q0 q2 s0' s1 s2 a b dA dB stA stB s3 l q1 s3'
  have h1 : s0.Keeps s0' := by
    with_reducible refine State.Keeps.ite (State.Keeps.update ?_ (Nat.le_refl _)) h0
    exact h0.refuse
  clear_value s0'
  have h2 : s0.Keeps s1 := State.Keeps.ite h1.refuse h1
  clear_value s1
  have h3 : s0.Keeps s2 := State.Keeps.ite h2.refuse h2
  have h4 : s0.Keeps s3 := State.Keeps.ite h0.refuse h0
  have hA' : s.Wf → dA.Wf := fun w => hd _ _ w.1
  have hB' : s.Wf → dB.Wf := fun w => hd _ _ w.2
  clear_value s2 s3 stA stB vst hA hB dA dB
  have h5 : s0.Keeps s3' := by
    show s0.Keeps (State.setEntry _ _)
    with_reducible refine State.Keeps.setEntry ?_
    exact ⟨h0.pending, h0.free, h0.tap, fun w => ⟨hA' (h0.wf w), hB' (h0.wf w)⟩⟩
  clear_value s3'
  exact State.Keeps.ite h3 (State.Keeps.ite (State.Keeps.ite h4.refuse h4) (State.Keeps.ite h5.drainsOver h5))


theorem State.Keeps.applyPower {s0 s : State} (h0 : s0.Keeps s) {cause : Option (Nat × Nat)} {abort : Nat × Nat} {vt : Nat} :
    s0.Keeps (s.applyPower cause abort vt) := by
  unfold State.applyPower
  extract_lets e s1 on q s2
  have h1 : s0.Keeps s1 := State.Keeps.onHall (State.Keeps.onHall h0 fun H hH => Hall.Wf.opSettle (hH.update rfl rfl rfl)) fun H hH =>
    Hall.Wf.opSettle (hH.update rfl rfl rfl)
  with_reducible refine State.Keeps.ite h0 ?_
  split
  · with_reducible refine State.Keeps.ite (State.Keeps.recordRise (h1.pkg _)) h1
  · extract_lets s2
    have h2 : s0.Keeps s2 := h1.pkg _
    clear_value s2
    with_reducible exact State.Keeps.ite (State.Keeps.ite h2.recordRise h2) h1
  · have h2 : s0.Keeps s2 := State.Keeps.ite h1.recordRise h1
    clear_value s2
    with_reducible exact State.Keeps.ite h2.startRow (State.Keeps.ite h1.startLower h1)


theorem State.Keeps.abortLower {s0 s : State} (h0 : s0.Keeps s) {l : Lowering} {vt : Nat} : s0.Keeps (s.abortLower l vt) := by
  unfold State.abortLower
  split
  · exact h0
  · extract_lets clear s1 q s2
    have hc : ∀ (i : Nat) (H : Hall), H.Wf → (clear i H).Wf := fun i H hH => Hall.Wf.txResume (hH.update rfl rfl rfl)
    have h1 : s0.Keeps s1 := (h0.onHall fun H hH => hc _ H hH).onHall fun H hH => hc _ H hH
    clear_value s1
    exact (State.Keeps.setEntry (h1.pkg _)).refuse.applyPower


theorem State.Keeps.drainDone {s0 s : State} (h0 : s0.Keeps s) {h : HallId} {g : Nat} : s0.Keeps (s.drainDone h g) := by
  unfold State.drainDone
  split
  · exact h0
  · extract_lets H clear s1 q s1'
    have h1 : s0.Keeps s1 := State.Keeps.setDrains (State.Keeps.setDrains h0)
    have h2 : s0.Keeps s1' := State.Keeps.setDrains h0
    clear_value s1' H
    with_reducible refine State.Keeps.ite h0 (State.Keeps.ite ?_ (State.Keeps.ite h0
      (State.Keeps.ite h2 (State.Keeps.ite h2.abortLower h2.drainsOver))))
    exact (State.Keeps.setEntry (h1.pkg _)).refuse


theorem State.Keeps.txOver {s0 s : State} (h0 : s0.Keeps s) : s0.Keeps s.txOver := by
  unfold State.txOver
  split
  · exact h0
  · exact State.Keeps.ite h0 (State.Keeps.ite h0.abortLower h0.lowerOff)

theorem State.Keeps.windowEnd {s0 s : State} (h0 : s0.Keeps s) {vt : Nat} : s0.Keeps (s.windowEnd vt) := by
  unfold State.windowEnd
  split
  · exact h0
  · extract_lets q s1
    have h1 : s0.Keeps s1 := State.Keeps.setEntry (State.Keeps.setEnables (h0.pkg _))
    clear_value s1
    with_reducible refine State.Keeps.ite h0 (State.Keeps.ite h1.abortLower ?_)
    exact State.Keeps.applyPower (h1.pkg _)


theorem State.Keeps.riseDone {s0 s : State} (h0 : s0.Keeps s) {vt : Nat} : s0.Keeps (s.riseDone vt) := by
  unfold State.riseDone
  split
  · exact h0
  · extract_lets ready on s1 s2 q s3 e
    have h1 : s0.Keeps s1 := h0.raiseDomains
    have h2 : s0.Keeps s2 := State.Keeps.onHall (State.Keeps.onHall h1 fun H hH => hH.releaseGals) fun H hH => hH.releaseGals
    have h3 : s0.Keeps s3 := h2.pkg _
    with_reducible refine State.Keeps.ite h0 (State.Keeps.ite (State.Keeps.ite h3.startRow ?_) ?_)
    · exact (State.Keeps.setEntry h3).applyPower
    · exact (State.Keeps.setEntry h3).applyPower


theorem State.Keeps.goodTimeout {s0 s : State} (h0 : s0.Keeps s) {h : HallId} : s0.Keeps (s.goodTimeout h) := by
  unfold State.goodTimeout
  try dsimp only
  repeat' first
    | with_reducible assumption
    | intro _
    | with_reducible apply Hall.Wf.onGal
    | with_reducible apply State.Keeps.onHall
    | with_reducible apply State.Keeps.setEnables
    | with_reducible apply State.Keeps.setEntry
    | with_reducible apply State.Keeps.refuse
    | with_reducible apply State.Keeps.foldl
    | with_reducible apply Hall.Wf.foldl
    | split
    | refine Hall.Wf.update ?_ rfl rfl rfl
    | refine State.Keeps.update ?_ (Nat.le_refl _)

theorem State.Keeps.powerReq {s0 s : State} (h0 : s0.Keeps s) {p : Nat} {valid : Bool} {config vt : Nat} :
    s0.Keeps (s.powerReq p valid config vt) := by
  unfold State.powerReq
  extract_lets h s1
  have h1 : s0.Keeps s1 := h0.onHall fun H hH => hH.update rfl rfl rfl
  clear_value s1 h
  split
  · exact h1.applyPower
  · exact h1.onHall fun H hH => hH.tell


theorem State.Keeps.wakeRelease {s0 s : State} (h0 : s0.Keeps s) {vt : Nat} : s0.Keeps (s.wakeRelease vt) :=
  State.Keeps.applyPower (h0.pkg _)


theorem State.Keeps.thermalTrip {s0 s : State} (h0 : s0.Keeps s) {h : HallId} {temp : Int} : s0.Keeps (s.thermalTrip h temp) := by
  unfold State.thermalTrip
  try dsimp only
  repeat' first
    | with_reducible assumption
    | intro _
    | with_reducible apply State.Keeps.fenceGallery
    | with_reducible apply State.Keeps.onHall
    | with_reducible apply Hall.Wf.powerOff
    | with_reducible apply Hall.Wf.onGal
    | with_reducible apply State.Keeps.foldl
    | with_reducible apply Hall.Wf.foldl
    | with_reducible refine State.Keeps.ite ?_ ?_
    | with_reducible refine State.Keeps.ite_fst ?_ ?_
    | with_reducible refine Hall.Wf.ite ?_ ?_
    | split
    | refine Hall.Wf.update ?_ rfl rfl rfl

theorem State.Keeps.pinWake {s0 s : State} (h0 : s0.Keeps s) {n vt : Nat} : s0.Keeps (s.pinWake n vt) := by
  unfold State.pinWake
  extract_lets stuck ts q s1 q1 q2 c
  have h1 : s0.Keeps s1 := h0.pkg _
  with_reducible refine State.Keeps.ite h0 (State.Keeps.ite (State.Keeps.log (h1.pkg _)) ?_)
  split
  · exact h1.update (Nat.le_refl _)
  · exact State.Keeps.ite h1 (State.Keeps.applyPower (h1.pkg _))


theorem State.Keeps.wakePinAccept {s0 s : State} (h0 : s0.Keeps s) {n vt : Nat} : s0.Keeps (s.wakePinAccept n vt) := by
  unfold State.wakePinAccept
  exact State.Keeps.ite h0 (State.Keeps.pinWake (h0.pkg _))


theorem State.Keeps.levelRepeat {s0 s : State} (h0 : s0.Keeps s) {n vt : Nat} : s0.Keeps (s.levelRepeat n vt) := by
  unfold State.levelRepeat
  exact State.Keeps.ite h0 h0.pinWake


theorem State.Keeps.wakePinInactive {s0 s : State} (h0 : s0.Keeps s) {n vt : Nat} : s0.Keeps (s.wakePinInactive n vt) := by
  unfold State.wakePinInactive
  try dsimp only
  repeat' first
    | with_reducible assumption
    | intro _
    | split
    | refine Hall.Wf.update ?_ rfl rfl rfl
    | refine State.Keeps.update ?_ (Nat.le_refl _)

theorem State.Keeps.stuckClear {s0 s : State} (h0 : s0.Keeps s) {n vt : Nat} : s0.Keeps (s.stuckClear n vt) := by
  unfold State.stuckClear
  try dsimp only
  repeat' first
    | with_reducible assumption
    | intro _
    | split
    | refine Hall.Wf.update ?_ rfl rfl rfl
    | refine State.Keeps.update ?_ (Nat.le_refl _)

theorem State.Keeps.recordRefusal {s0 s : State} (h0 : s0.Keeps s) {h : HallId} {r : Refused} : s0.Keeps (s.recordRefusal h r) := by
  unfold State.recordRefusal
  try dsimp only
  repeat' first
    | with_reducible assumption
    | intro _
    | with_reducible apply State.Keeps.onHall
    | with_reducible apply State.Keeps.log
    | with_reducible apply State.Keeps.deviceEvent
    | split
    | refine Hall.Wf.update ?_ rfl rfl rfl

theorem State.Keeps.unschedule {s0 s : State} (h0 : s0.Keeps s) {h : HallId} : s0.Keeps (s.unschedule h) := by
  unfold State.unschedule
  try dsimp only
  repeat' first
    | with_reducible assumption
    | intro _
    | with_reducible apply State.Keeps.onHall
    | with_reducible apply State.Keeps.recordRefusal
    | split
    | refine Hall.Wf.update ?_ rfl rfl rfl

theorem State.Keeps.losePartner {s0 s : State} (h0 : s0.Keeps s) {h : HallId} : s0.Keeps (s.losePartner h) := by
  unfold State.losePartner
  try dsimp only
  repeat' first
    | with_reducible assumption
    | intro _
    | with_reducible apply State.Keeps.onHall
    | with_reducible apply State.Keeps.count
    | with_reducible apply Hall.Wf.count
    | with_reducible apply Hall.Wf.addLog
    | with_reducible apply State.Keeps.inHall
    | with_reducible apply Hall.Wf.onPart
    | with_reducible apply Hall.Wf.started
    | with_reducible apply Hall.Wf.emitHeld
    | with_reducible apply State.Keeps.deviceEvent
    | with_reducible apply State.Keeps.unschedule
    | with_reducible apply State.Keeps.pinCheck
    | with_reducible apply State.Keeps.foldl
    | with_reducible apply Hall.Wf.foldl
    | split
    | refine Hall.Wf.update ?_ rfl rfl rfl

theorem State.Keeps.confirmReadmit {s0 s : State} (h0 : s0.Keeps s) {h : HallId} : s0.Keeps (s.confirmReadmit h) := by
  unfold State.confirmReadmit
  try dsimp only
  repeat' first
    | with_reducible assumption
    | intro _
    | with_reducible apply State.Keeps.onHall
    | with_reducible apply Hall.Wf.tell
    | split

theorem State.Keeps.readmitPair {s0 s : State} (h0 : s0.Keeps s) {h : HallId} : s0.Keeps (s.readmitPair h) := by
  unfold State.readmitPair
  extract_lets aBack due
  with_reducible refine State.Keeps.ite ?_ (h0.onHall fun H hH => ?_)
  · exact ⟨h0.pending, h0.free, h0.tap, fun w => ⟨Hall.Wf.readmit (h0.wf w).1, Hall.Wf.readmit (h0.wf w).2⟩⟩
  · exact hH.update rfl rfl rfl


theorem State.Keeps.boundary {s0 s : State} (h0 : s0.Keeps s) {h : HallId} : s0.Keeps (s.boundary h) := by
  unfold State.boundary
  extract_lets h' s1 s2 s3 s' g s4 s5 O s6 s7 q s8
  have h1 : s0.Keeps s1 := h0.onHall fun H hH => hH.settleDiverged.rejoinAll.goHome.ispLoad
  clear_value s1
  have h2 : s0.Keeps s2 := State.Keeps.ite (h1.onHall fun H hH => hH.countWarming) h1
  clear_value s2
  have h3 : s0.Keeps s3 := h2.readmitPair
  clear_value s3
  have h4' : s0.Keeps s' := h3.onHall fun H hH => hH.activateStaged
  clear_value s'
  have h4 : s0.Keeps s4 := State.Keeps.ite h4'.log.deviceEvent h3
  clear_value s4
  have h5 : s0.Keeps s5 := h4.onHall fun H hH => by
    with_reducible refine Hall.Wf.foldl (fun H g hH => ?_) _ hH
    exact hH.applyArea
  clear_value s5
  have h6 : s0.Keeps s6 := h5.onHall fun H hH => by
    split
    · exact hH
    · dsimp only
      with_reducible refine Hall.Wf.foldl (fun H g hH => ?_) _ (Hall.Wf.foldl (fun H g hH => ?_) _ (Hall.Wf.foldl (fun H g hH => ?_) _ hH))
      · exact hH.reasons
      · exact hH.slotContexts
      · exact hH.chooseTable
  clear_value s6
  have h7 : s0.Keeps s7 := h6.onHall fun H hH => by
    extract_lets q H1 sw
    have h1 : H1.Wf := by
      with_reducible refine Hall.Wf.ite ?_ hH
      exact hH.update rfl rfl rfl
    clear_value H1
    exact h1.refresh.scrubChoice.update rfl rfl rfl
  clear_value s7
  have h8 : s0.Keeps s8 := by
    with_reducible refine State.Keeps.ite ?_ h7
    exact State.Keeps.applyPower (h7.pkg _)
  clear_value s8
  exact (h8.onHall fun H hH => hH.after).pinCheck

theorem State.Keeps.refLost {s0 s : State} (h0 : s0.Keeps s) {h : HallId} {lock : Lock} : s0.Keeps (s.refLost h lock) := by
  unfold State.refLost
  try dsimp only
  repeat' first
    | with_reducible assumption
    | intro _
    | with_reducible apply State.Keeps.log
    | with_reducible apply State.Keeps.deviceEvent

theorem State.Keeps.reference {s0 s : State} (h0 : s0.Keeps s) {h : HallId} {src : RefSource} {tb : Nat} : s0.Keeps (s.reference h src tb) := by
  unfold State.reference
  try dsimp only
  repeat' first
    | with_reducible assumption
    | intro _
    | with_reducible apply State.Keeps.onHall
    | with_reducible apply Hall.Wf.reference
    | split

theorem State.Keeps.referenceLost {s0 s : State} (h0 : s0.Keeps s) {h : HallId} {tb : Nat} : s0.Keeps (s.referenceLost h tb) := by
  unfold State.referenceLost
  try dsimp only
  repeat' first
    | with_reducible assumption
    | intro _
    | with_reducible apply Hall.Wf.started
    | with_reducible apply State.Keeps.onHall
    | with_reducible apply Hall.Wf.freeSweep
    | with_reducible apply State.Keeps.refLost
    | split
    | refine Hall.Wf.update ?_ rfl rfl rfl

theorem State.Keeps.generatorSweep {s0 s : State} (h0 : s0.Keeps s) {h : HallId} {tb : Nat} : s0.Keeps (s.generatorSweep h tb) := by
  unfold State.generatorSweep
  try dsimp only
  repeat' first
    | with_reducible assumption
    | intro _
    | with_reducible apply Hall.Wf.started
    | with_reducible apply State.Keeps.onHall
    | with_reducible apply State.Keeps.reference
    | with_reducible apply Hall.Wf.reference
    | with_reducible apply Hall.Wf.beginSweep
    | split

theorem State.Keeps.beatTime {s0 s : State} (h0 : s0.Keeps s) {h : HallId} {n tick pv lock : Nat} {began : Bool} {tb : Nat} :
    s0.Keeps (s.beatTime h n tick pv lock began tb) := by
  unfold State.beatTime
  extract_lets H prev fresh q0 H1 q1
  have hH1 : s.Wf → H1.Wf := fun w => Hall.Wf.ite ((w.hall h).swpUpd rfl) (w.hall h)
  split
  · exact h0
  · extract_lets design follows H2 d H3 s1 H6 s2
    have hH2 : s.Wf → H2.Wf := fun w => (hH1 w).swpUpd rfl
    clear_value H2
    have hH3 : s.Wf → H3.Wf := fun w => (hH2 w).skewed
    clear_value H3
    have h1 : s0.Keeps s1 := h0.setHall fun w => Hall.Wf.ite (hH3 w).beatSweep (hH3 w).beatHeard
    clear_value s1
    have h2 : s0.Keeps s2 := h1.onHall fun H hH => by
      with_reducible refine Hall.Wf.setTick (Hall.Wf.setLock ?_)
      exact hH.swpUpd rfl
    clear_value s2
    with_reducible refine State.Keeps.ite h0 (State.Keeps.ite (State.Keeps.ite h0 (State.Keeps.ite ?_ (State.Keeps.ite ?_ h0))) (State.Keeps.ite h2.refLost h1))
    · exact h0.onHall fun H hH => by
        with_reducible refine Hall.Wf.beatSweep ?_
        exact hH.swpUpd rfl
    · exact h0.onHall fun H hH => by exact Hall.Wf.beatSweep hH


theorem State.Keeps.tickBoundary {s0 s : State} (h0 : s0.Keeps s) {h : HallId} {tb : Nat} : s0.Keeps (s.tickBoundary h tb) := by
  have ht : ∀ n, s0.Keeps (s.onHall h fun H => ({ H with swp := { H.swp with tick := n } }).tickWork h.idx n) := fun n =>
    h0.onHall fun H hH => by
      with_reducible refine Hall.Wf.tickWork ?_
      exact hH.swpUpd rfl
  unfold State.tickBoundary
  extract_lets H n s1
  have h1 : s0.Keeps s1 := ht _
  clear_value s1
  with_reducible refine State.Keeps.ite h0 (State.Keeps.ite ?_ (State.Keeps.ite (State.Keeps.ite h0 ?_) (State.Keeps.ite ?_ h0)))
  · exact (h0.boundary.onHall fun H hH => hH.tickWork).pinCheck
  · exact State.Keeps.pinCheck (State.Keeps.ite h1.confirmReadmit h1)
  · exact h0.onHall fun H hH => hH.update rfl rfl rfl

theorem State.Keeps.packageReset {s0 s : State} (h0 : s0.Keeps s) {cause : Nat} {supply : Bool} : s0.Keeps (s.packageReset cause supply) :=
  ⟨h0.pending, h0.free, h0.tap, fun _ => ⟨Hall.Wf.again, Hall.Wf.again⟩⟩


theorem State.Keeps.porLow {s0 s : State} (h0 : s0.Keeps s) {ns : Nat} : s0.Keeps (s.porLow ns) := by
  unfold State.porLow
  extract_lets s1
  have h1 : s0.Keeps s1 := h0.update (Nat.le_succ _)
  exact State.Keeps.ite h0 (State.Keeps.ite h0.packageReset (State.Keeps.ite h1.packageReset h1))


/-- The TAP's lock does not depend on what a release of POR_N changes beside imageSeen. -/

theorem State.Keeps.release {s0 s : State} (h0 : s0.Keeps s) {straps : Straps} {tb : Nat} : s0.Keeps (s.release straps tb) := by
  unfold State.release
  with_reducible refine State.Keeps.ite h0 ?_
  exact ⟨h0.pending, h0.free, fun x => ⟨fun h => (nomatch h), (h0.tap x).2⟩, fun w =>
    ⟨(h0.wf w).1.update rfl rfl rfl, (h0.wf w).2.update rfl rfl rfl⟩⟩


theorem State.Keeps.newChallenges {s0 s : State} (h0 : s0.Keeps s) {h : HallId} : s0.Keeps (s.newChallenges h) := by
  unfold State.newChallenges
  try dsimp only
  repeat' first
    | with_reducible assumption
    | intro _
    | with_reducible apply State.Keeps.newChallenge

theorem State.Keeps.pairReset {s0 s : State} (h0 : s0.Keeps s) {h : HallId} {linked : Bool} : s0.Keeps (s.pairReset h linked) := by
  unfold State.pairReset
  try dsimp only
  repeat' first
    | with_reducible assumption
    | intro _
    | with_reducible apply Hall.Wf.started
    | with_reducible apply State.Keeps.onHall
    | split
    | refine Hall.Wf.update ?_ rfl rfl rfl

theorem State.Keeps.hallReset {s0 s : State} (h0 : s0.Keeps s) {h : HallId} {cause : Nat} {powered : Bool} : s0.Keeps (s.hallReset h cause powered) := by
  unfold State.hallReset
  try dsimp only
  repeat' first
    | with_reducible assumption
    | intro _
    | with_reducible refine State.Keeps.setHall ?_ (fun _ => ?_)
    | with_reducible apply Hall.Wf.again
    | with_reducible apply State.Keeps.onHall
    | with_reducible apply State.Keeps.newChallenges
    | with_reducible apply State.Keeps.pairReset
    | with_reducible apply State.Keeps.setEnables
    | split
    | with_reducible apply State.Wf.hall
    | refine Hall.Wf.update ?_ rfl rfl rfl
    | refine State.Keeps.update ?_ (Nat.le_refl _)

theorem State.Keeps.resetFor {s0 s : State} (h0 : s0.Keeps s) {h : HallId} {cause : Nat} : s0.Keeps (s.resetFor h cause) := by
  unfold State.resetFor
  try dsimp only
  repeat' first
    | with_reducible assumption
    | intro _
    | with_reducible apply State.Keeps.hallReset
    | split

theorem State.Keeps.pgRise {s0 s : State} (h0 : s0.Keeps s) {h : HallId} : s0.Keeps (s.pgRise h) := by
  unfold State.pgRise
  try dsimp only
  repeat' first
    | with_reducible assumption
    | intro _
    | with_reducible apply State.Keeps.onHall
    | with_reducible apply State.Keeps.newChallenges
    | split
    | refine Hall.Wf.update ?_ rfl rfl rfl
    | refine State.Keeps.update ?_ (Nat.le_refl _)

theorem State.Keeps.pgFall {s0 s : State} (h0 : s0.Keeps s) {h : HallId} {vt : Nat} {planned : Bool} : s0.Keeps (s.pgFall h vt planned) := by
  unfold State.pgFall
  try dsimp only
  repeat' first
    | with_reducible assumption
    | intro _
    | with_reducible apply State.Keeps.hallReset
    | split
    | refine Hall.Wf.update ?_ rfl rfl rfl
    | refine State.Keeps.update ?_ (Nat.le_refl _)

theorem State.Keeps.firmwareLoad {s0 s : State} (h0 : s0.Keeps s) {f : Flash} : s0.Keeps (s.firmwareLoad f) := by
  unfold State.firmwareLoad
  extract_lets H s1 slow s2 obj err rank pick
  have h1 : s0.Keeps s1 := by
    with_reducible refine State.Keeps.foldl (fun s e hs => ?_) _ h0
    exact hs.logOther
  clear_value s1
  have h2 : s0.Keeps s2 := h1.onHall fun H hH => by exact hH.update rfl rfl rfl
  clear_value s2 pick
  with_reducible refine State.Keeps.ite h0 (State.Keeps.ite (h0.onHall fun H hH => hH.halt) ?_)
  split
  · exact h0.onHall fun H hH => hH.halt
  · split
    · exact h2.onHall fun H hH => by
        with_reducible refine Hall.Wf.update (X := H.runFirmware _ _) hH.runFirmware rfl ?_ rfl
        rfl
    · exact h2.onHall fun H hH => hH.halt


theorem State.Keeps.firmwareArrives {s0 s : State} (h0 : s0.Keeps s) {h : HallId} {obj : List Byte} : s0.Keeps (s.firmwareArrives h obj) := by
  unfold State.firmwareArrives
  try dsimp only
  repeat' first
    | with_reducible assumption
    | intro _
    | with_reducible apply State.Keeps.onHall
    | with_reducible apply Hall.Wf.runFirmware
    | with_reducible apply Hall.Wf.halt
    | split

theorem State.Keeps.freshEpochs {s0 s : State} (h0 : s0.Keeps s) {h : HallId} : s0.Keeps (s.freshEpochs h) := by
  unfold State.freshEpochs
  try dsimp only
  repeat' first
    | with_reducible assumption
    | intro _
    | with_reducible apply State.Keeps.freshEpoch
    | with_reducible apply State.Keeps.foldl
    | with_reducible apply Hall.Wf.foldl
    | split
    | refine Hall.Wf.update ?_ rfl rfl rfl
    | refine State.Keeps.update ?_ (Nat.le_refl _)

theorem State.Keeps.loadVestibule {s0 s : State} (h0 : s0.Keeps s) {im : Image} : s0.Keeps (s.loadVestibule im) := by
  unfold State.loadVestibule
  try dsimp only
  repeat' first
    | with_reducible assumption
    | intro _
    | with_reducible apply State.Keeps.pins
    | with_reducible apply State.Keeps.foldl
    | with_reducible apply Hall.Wf.foldl
    | split
    | refine Hall.Wf.update ?_ rfl rfl rfl
    | refine State.Keeps.update ?_ (Nat.le_refl _)

theorem State.Keeps.raiseB {s0 s : State} (h0 : s0.Keeps s) {im : Image} : s0.Keeps (s.raiseB im) := by
  unfold State.raiseB
  try dsimp only
  repeat' first
    | with_reducible assumption
    | intro _
    | split
    | refine Hall.Wf.update ?_ rfl rfl rfl
    | refine State.Keeps.update ?_ (Nat.le_refl _)

theorem State.Keeps.tryRelease {s0 s : State} (h0 : s0.Keeps s) {h : HallId} : s0.Keeps (s.tryRelease h) := by
  unfold State.tryRelease
  try dsimp only
  repeat' first
    | with_reducible assumption
    | intro _
    | with_reducible apply State.Keeps.onHall
    | with_reducible apply Hall.Wf.showGals
    | split
    | refine Hall.Wf.update ?_ rfl rfl rfl

/-- R614: as the first image becomes active, SAMPLE/PRELOAD and EXTEST turn to BYPASS. -/
theorem State.Keeps.tapLock {s0 s : State} (h0 : s0.Keeps s) :
    s0.Keeps { s with imageSeen := true, jtag := if s.jtag.instr < 2 then s.jtag else { s.jtag with instr := 0, data := 0, driving := false } } := by
  refine ⟨h0.pending, h0.free, fun x => ?_, h0.wf⟩
  split
  · rename_i hi
    exact ⟨fun _ => hi, (h0.tap x).2⟩
  · exact ⟨fun _ => Nat.zero_lt_two, fun h => (nomatch h)⟩


theorem State.Keeps.loadImage {s0 s : State} (h0 : s0.Keeps s) {h : HallId} {im : Image} {src : Nat} : s0.Keeps (s.loadImage h im src) := by
  unfold State.loadImage
  extract_lets q jtag s1 s2
  have h1 : s0.Keeps s1 := by
    with_reducible refine State.Keeps.freshEpochs (State.Keeps.onHall ?_ fun H hH => hH.loadImage)
    exact h0.tapLock
  clear_value s1
  exact State.Keeps.prepareBuses (State.Keeps.tryRelease (State.Keeps.ite h1.loadVestibule.raiseB h1))


theorem State.Keeps.takeImage {s0 s : State} (h0 : s0.Keeps s) {h : HallId} {src : Nat} {bs : List Byte} :
    s0.Keeps (s.takeImage h src bs) := by
  unfold State.takeImage
  extract_lets H t
  have ht : ∀ c s, s0.Keeps s → s0.Keeps (t c s) := fun c s h0 =>
    State.Keeps.ite (h0.onHall fun H hH => hH.tell) h0
  clear_value t
  with_reducible refine State.Keeps.ite ?_ ?_
  · exact h0.onHall fun H hH => by exact hH.update rfl rfl rfl
  · split
    · exact ht _ _ h0.loadImage
    · with_reducible refine ht _ _ (State.Keeps.recordRefusal ?_)
      exact h0.onHall fun H hH => by exact hH.update rfl rfl rfl


theorem State.Keeps.flashImageLoad {s0 s : State} (h0 : s0.Keeps s) {f : Flash} : s0.Keeps (s.flashImageLoad f) := by
  unfold State.flashImageLoad
  extract_lets H boot res logBad s1 feed
  have hl : ∀ s i, s0.Keeps s → s0.Keeps (logBad s i) := fun s i hs => by
    dsimp only [logBad]
    split
    · exact hs.recordRefusal
    · exact hs
  clear_value logBad
  have h1 : s0.Keeps s1 := hl _ _ (hl _ _ h0)
  clear_value s1 res
  with_reducible refine State.Keeps.ite h0 ?_
  split
  · exact State.Keeps.ite h1.loadImage h1.loadImage
  · exact h1.loadImage
  · exact h1.loadImage
  · exact h1.onHall fun H hH => by exact hH.update rfl rfl rfl
  · exact h1.onHall fun H hH => by exact hH.update rfl rfl rfl


theorem State.Keeps.logChannels {s0 s : State} (h0 : s0.Keeps s) {h : HallId} {good : BitVec 32} : s0.Keeps (s.logChannels h good) := by
  unfold State.logChannels
  try dsimp only
  repeat' first
    | with_reducible assumption
    | intro _
    | with_reducible apply State.Keeps.logOther
    | with_reducible apply Hall.Wf.logOther
    | with_reducible apply State.Keeps.foldl
    | with_reducible apply Hall.Wf.foldl
    | split

theorem State.Keeps.trainingDone {s0 s : State} (h0 : s0.Keeps s) {h : HallId} {good again : BitVec 32} {rate density ranks : Nat} :
    s0.Keeps (s.trainingDone h good again rate density ranks) := by
  unfold State.trainingDone
  extract_lets H chans s1 s2 s3
  have h1 : s0.Keeps s1 := State.Keeps.logChannels (h0.onHall fun H hH => by exact hH.update rfl rfl rfl)
  clear_value s1
  have h2 : s0.Keeps s2 := h1.onHall fun H hH => by exact hH.update rfl rfl rfl
  have h3 : s0.Keeps s3 := h0.logChannels
  clear_value s2 s3
  with_reducible refine State.Keeps.ite h0 (State.Keeps.ite (State.Keeps.ite (h1.onHall fun H hH => hH.unusable) ?_)
    (State.Keeps.ite (State.Keeps.ite h3 (State.Keeps.ite h3.hallReset ?_)) h0))
  · split
    · exact h2.takeImage
    · exact h2
  · exact h3.onHall fun H hH => by
      exact { hH with dram := rfl }

theorem State.Keeps.fillDone {s0 s : State} (h0 : s0.Keeps s) {h : HallId} {what : FillTarget} : s0.Keeps (s.fillDone h what) := by
  unfold State.fillDone
  try dsimp only
  repeat' first
    | with_reducible assumption
    | intro _
    | with_reducible apply State.Keeps.onHall
    | with_reducible apply State.Keeps.tryRelease
    | with_reducible apply Hall.Wf.showGals
    | split
    | refine Hall.Wf.update ?_ rfl rfl rfl

theorem State.Keeps.acceptFailed {s0 s : State} (h0 : s0.Keeps s)  : s0.Keeps (s.acceptFailed) := by
  unfold State.acceptFailed
  try dsimp only
  repeat' first
    | with_reducible assumption
    | intro _
    | with_reducible apply Hall.Wf.started
    | with_reducible apply State.Keeps.losePartner
    | split

theorem State.Keeps.digestArrives {s0 s : State} (h0 : s0.Keeps s) {h : HallId} {d : List Byte} : s0.Keeps (s.digestArrives h d) := by
  unfold State.digestArrives
  try dsimp only
  repeat' first
    | with_reducible assumption
    | intro _
    | with_reducible apply State.Keeps.onHall
    | with_reducible apply Hall.Wf.started
    | with_reducible apply Hall.Wf.tell
    | with_reducible apply State.Keeps.tryRelease
    | split
    | refine Hall.Wf.update ?_ rfl rfl rfl

theorem State.Keeps.mismatch {s0 s : State} (h0 : s0.Keeps s) {h : HallId} : s0.Keeps (s.mismatch h) := by
  have hf : ∀ (H : Hall) (dev : Dev), H.Wf → dev.log = H.dev.log →
      Hall.Wf { H with gals := H.gals.map fun (G : Gallery) => { G with st := .off }, dev := dev } := fun H dev hH hd => by
    have h1 : Hall.Wf { H with gals := H.gals.map fun (G : Gallery) => { G with st := .off } } := hH.mapGals fun G hG => hG
    exact h1.update rfl hd rfl
  unfold State.mismatch
  dsimp only
  with_reducible refine State.Keeps.onHall (State.Keeps.log (State.Keeps.onHall h0 fun H hH => ?_)) fun H hH => ?_
  · exact hf _ _ hH rfl
  · exact hH.update rfl rfl rfl


theorem State.Keeps.activeArrives {s0 s : State} (h0 : s0.Keeps s) {h : HallId} {bs : List Byte} : s0.Keeps (s.activeArrives h bs) := by
  unfold State.activeArrives
  extract_lets H
  with_reducible refine State.Keeps.ite h0 ?_
  split
  · exact h0.recordRefusal.mismatch
  · exact State.Keeps.ite h0.loadImage h0.mismatch


theorem State.Keeps.stageImage {s0 s : State} (h0 : s0.Keeps s) {h : HallId} {bs : List Byte} {forwarded : Bool} : s0.Keeps (s.stageImage h bs forwarded) := by
  unfold State.stageImage
  try dsimp only
  repeat' first
    | with_reducible assumption
    | intro _
    | with_reducible apply State.Keeps.recordRefusal
    | with_reducible apply State.Keeps.onHall
    | with_reducible apply Hall.Wf.tell
    | with_reducible apply Hall.Wf.reportStaged
    | split
    | refine Hall.Wf.update ?_ rfl rfl rfl

theorem State.Keeps.activate {s0 s : State} (h0 : s0.Keeps s) {h : HallId} : s0.Keeps (s.activate h) := by
  unfold State.activate
  try dsimp only
  repeat' first
    | with_reducible assumption
    | intro _
    | with_reducible apply State.Keeps.recordRefusal
    | with_reducible apply State.Keeps.onHall
    | with_reducible apply Hall.Wf.tell
    | split
    | refine Hall.Wf.update ?_ rfl rfl rfl

theorem State.Keeps.scheduleArrives {s0 s : State} (h0 : s0.Keeps s) {h : HallId} {n : Nat} : s0.Keeps (s.scheduleArrives h n) := by
  unfold State.scheduleArrives
  try dsimp only
  repeat' first
    | with_reducible assumption
    | intro _
    | with_reducible apply State.Keeps.onHall
    | with_reducible apply Hall.Wf.tell
    | split
    | refine Hall.Wf.update ?_ rfl rfl rfl

theorem State.Keeps.withdrawn {s0 s : State} (h0 : s0.Keeps s) {h : HallId} {n : Nat} : s0.Keeps (s.withdrawn h n) := by
  unfold State.withdrawn
  try dsimp only
  repeat' first
    | with_reducible assumption
    | intro _
    | with_reducible apply State.Keeps.unschedule
    | split

theorem State.Keeps.ackTimeout {s0 s : State} (h0 : s0.Keeps s) {h : HallId} : s0.Keeps (s.ackTimeout h) := by
  unfold State.ackTimeout
  try dsimp only
  repeat' first
    | with_reducible assumption
    | intro _
    | with_reducible apply State.Keeps.unschedule
    | with_reducible apply State.Keeps.onHall
    | with_reducible apply Hall.Wf.tell
    | split

theorem State.Keeps.discard {s0 s : State} (h0 : s0.Keeps s) {h : HallId} : s0.Keeps (s.discard h) := by
  unfold State.discard
  try dsimp only
  repeat' first
    | with_reducible assumption
    | intro _
    | with_reducible apply State.Keeps.onHall
    | split
    | refine Hall.Wf.update ?_ rfl rfl rfl

theorem State.Keeps.nack {s0 s : State} (h0 : s0.Keeps s) {p : Nat} : s0.Keeps (s.nack p) := by
  unfold State.nack
  try dsimp only
  repeat' first
    | with_reducible assumption
    | intro _
    | with_reducible apply State.Keeps.onPort

theorem State.Keeps.ack {s0 s : State} (h0 : s0.Keeps s) {p : Nat} {bs : List Byte} : s0.Keeps (s.ack p bs) := by
  unfold State.ack
  try dsimp only
  repeat' first
    | with_reducible assumption
    | intro _
    | with_reducible apply State.Keeps.onPort

theorem State.Keeps.direct {s0 s : State} (h0 : s0.Keeps s) {p : Nat} {f : Port → Port} {r : Port → List Byte}
    (hf : ∀ P : Port, P.events.length ≤ 64 → (f P).events.length ≤ 64) : s0.Keeps (s.direct p f r) := by
  unfold State.direct
  exact State.Keeps.ite (h0.ack.onPort hf) h0.nack


theorem State.Keeps.broadcast {s0 s : State} (h0 : s0.Keeps s) {p : Nat} {f : Port → Port}
    (hf : ∀ P : Port, P.events.length ≤ 64 → (f P).events.length ≤ 64) : s0.Keeps (s.broadcast p f) := by
  unfold State.broadcast
  exact State.Keeps.ite (h0.onPort hf) h0


theorem State.Keeps.entdaa {s0 s : State} (h0 : s0.Keeps s) {p : Nat} {addr : BitVec 7} : s0.Keeps (s.entdaa p addr) := by
  unfold State.entdaa
  try dsimp only
  repeat' first
    | with_reducible assumption
    | intro _
    | with_reducible apply State.Keeps.ack
    | with_reducible apply State.Keeps.onPort
    | with_reducible apply State.Keeps.nack
    | split

theorem State.Keeps.setdasa {s0 s : State} (h0 : s0.Keeps s) {p : Nat} {static addr : BitVec 7} : s0.Keeps (s.setdasa p static addr) := by
  unfold State.setdasa
  try dsimp only
  repeat' first
    | with_reducible assumption
    | intro _
    | with_reducible apply State.Keeps.ack
    | with_reducible apply State.Keeps.onPort
    | with_reducible apply State.Keeps.nack
    | split

theorem State.Keeps.portReset {s0 s : State} (h0 : s0.Keeps s) {p : Nat} : s0.Keeps (s.portReset p) := by
  unfold State.portReset
  with_reducible refine State.Keeps.ite (State.Keeps.newChallenge (h0.onPort fun P hP => ?_)) h0
  exact Nat.zero_le _


theorem State.Keeps.rstactHall {s0 s : State} (h0 : s0.Keeps s) {p : Nat} : s0.Keeps (s.rstactHall p) := by
  unfold State.rstactHall
  exact State.Keeps.ite h0.resetFor h0.portReset

theorem State.Keeps.answerBad {s0 s : State} (h0 : s0.Keeps s) {p status : Nat} {bs : List Byte} : s0.Keeps (s.answerBad p status bs) := by
  unfold State.answerBad
  try dsimp only
  repeat' first
    | with_reducible assumption
    | intro _
    | with_reducible apply State.Keeps.onPort
    | with_reducible apply State.Keeps.respond

theorem State.Keeps.privateWrite {s0 s : State} (h0 : s0.Keeps s) {p : Nat} {bytes : List Byte} {tb : Nat} : s0.Keeps (s.privateWrite p bytes tb) := by
  unfold State.privateWrite
  try dsimp only
  repeat' first
    | with_reducible assumption
    | intro _
    | with_reducible apply State.Keeps.nack
    | with_reducible apply State.Keeps.onPort
    | with_reducible apply State.Keeps.count
    | with_reducible apply Hall.Wf.count
    | with_reducible apply State.Keeps.answerBad
    | split
    | refine Hall.Wf.update ?_ rfl rfl rfl
    | refine State.Keeps.update ?_ (Nat.le_refl _)
    | dsimp only
    | assumption

theorem State.Keeps.capsuleTimeout {s0 s : State} (h0 : s0.Keeps s) {p : Nat} : s0.Keeps (s.capsuleTimeout p) := by
  unfold State.capsuleTimeout
  try dsimp only
  repeat' first
    | with_reducible assumption
    | intro _
    | with_reducible apply State.Keeps.answerBad
    | split

theorem State.Keeps.parityError {s0 s : State} (h0 : s0.Keeps s) {p : Nat} {crc5 : Bool} : s0.Keeps (s.parityError p crc5) := by
  unfold State.parityError
  try dsimp only
  repeat' first
    | with_reducible assumption
    | intro _
    | with_reducible apply State.Keeps.nack
    | with_reducible apply State.Keeps.onPort
    | with_reducible apply State.Keeps.logHst
    | split

theorem State.Keeps.responseRead {s0 s : State} (h0 : s0.Keeps s) {p n : Nat} : s0.Keeps (s.responseRead p n) := by
  unfold State.responseRead
  try dsimp only
  repeat' first
    | with_reducible assumption
    | intro _
    | with_reducible apply State.Keeps.nack
    | with_reducible apply State.Keeps.onPort
    | with_reducible apply State.Keeps.count
    | with_reducible apply Hall.Wf.count
    | split

theorem raiseFirst_length : ∀ l : List Event, (raiseFirst l).length = l.length
  | [] => rfl
  | e :: l => by
    unfold raiseFirst
    split
    · exact congrArg (· + 1) (raiseFirst_length l)
    · rfl


theorem State.Keeps.ibiSlot {s0 s : State} (h0 : s0.Keeps s) {p : Nat} : s0.Keeps (s.ibiSlot p) := by
  unfold State.ibiSlot
  extract_lets P
  split
  · with_reducible refine State.Keeps.ite (h0.count.onPort fun P hP => ?_) h0.nack
    exact Nat.le_trans (Nat.le_of_eq (raiseFirst_length _)) hP
  · exact h0.nack


theorem State.Keeps.forwardTimeout {s0 s : State} (h0 : s0.Keeps s) {p tag : Nat} : s0.Keeps (s.forwardTimeout p tag) := by
  unfold State.forwardTimeout
  try dsimp only
  repeat' first
    | with_reducible assumption
    | intro _
    | with_reducible apply State.Keeps.endForwarded
    | split

end Sys2Proof.Machine
end

