-- ==== Sys2Proof/Laws/KeepsUnits.lean ====
section
/-! SUPPORT. Cameras, the Vestibule, the Stair, integrity and the registers respect `State.Keeps`. -/

namespace Sys2Proof.Machine

theorem State.Keeps.feedAbandon {s0 s : State} (h0 : s0.Keeps s) {h : HallId} {o : FeedObj} {load : Option Load} : s0.Keeps (s.feedAbandon h o load) := by
  unfold State.feedAbandon
  try dsimp only
  repeat' first
    | with_reducible assumption
    | intro _
    | with_reducible apply State.Keeps.onHall
    | with_reducible apply Hall.Wf.dropObj
    | with_reducible apply State.Keeps.count
    | with_reducible apply Hall.Wf.count
    | with_reducible apply Hall.Wf.feedFault
    | with_reducible apply Hall.Wf.feedCount
    | with_reducible apply State.Keeps.abandonLoad
    | split
    | refine Hall.Wf.update ?_ rfl rfl rfl

theorem State.Keeps.feedDone {s0 s : State} (h0 : s0.Keeps s) {h : HallId} {id : Nat} {o : FeedObj} {load : Option Load} :
    s0.Keeps (s.feedDone h id o load) := by
  unfold State.feedDone
  extract_lets s1 s2
  have h1 : s0.Keeps s1 := h0.onHall fun H hH => hH.dropObj
  have h2 : s0.Keeps s2 := h1.count
  clear_value s1 s2
  split
  · exact State.Keeps.ite h2.takeImage h2.stageImage
  · split
    · exact h1.count.onHall fun H hH => by exact hH.update rfl rfl rfl
    · exact h1
  · exact h1.onHall fun H hH => hH.feedDeliver


theorem State.Keeps.feedTake {s0 s : State} (h0 : s0.Keeps s) {h : HallId} {id port vc : Nat} {r : FeedRecord} {load : Option Load} :
    s0.Keeps (s.feedTake h id port vc r load) := by
  have h2 : ∀ (o : FeedObj) s1, s0.Keeps s1 → s0.Keeps (s1.onHall h fun H =>
      let H1 := H.dropObj port vc r.kind r.channel
      let H2 := { H1 with feeds := H1.feeds ++ [o] }
      if r.kind = 1 && bit r.rflags 0 && H2.image.isSome then
        { H2 with dev := { H2.dev with staged := 1, stagedImg := none, farVerified := none } }
      else H2) := fun o s1 h1 => h1.onHall fun H hH => by
    extract_lets H1 H2 q
    have h2 : H2.Wf := Hall.Wf.update (X := H1) hH.dropObj rfl rfl rfl
    clear_value H2
    with_reducible refine Hall.Wf.ite ?_ h2
    exact h2.update rfl rfl rfl
  unfold State.feedTake
  extract_lets old first s1 base
  clear_value old
  have h1 : s0.Keeps s1 := by
    cases old
    · exact h0
    · exact State.Keeps.ite (h0.onHall fun H hH => hH.dropObj.count.feedFault) h0
  clear_value s1 base
  split
  · exact h1
  · exact State.Keeps.ite h1.feedAbandon (State.Keeps.ite (h2 _ _ h1).feedDone (h2 _ _ h1))


theorem State.Keeps.feedRecord {s0 s : State} (h0 : s0.Keeps s) {h : HallId} {port vc : Nat} {r : FeedRecord} :
    s0.Keeps (s.feedRecord h port vc r) := by
  unfold State.feedRecord
  extract_lets H isOpen up
  have ho : s0.Keeps (s.onHall h fun H => H.orphan port) := h0.onHall fun H hH => hH.orphan
  have hf : ∀ n, s0.Keeps (s.onHall h fun H => H.feedFault n) := fun n => h0.onHall fun H hH => hH.feedFault
  clear_value H isOpen up
  split
  · exact State.Keeps.ite h0 (State.Keeps.ite ho (State.Keeps.ite (hf 0) h0.feedTake))
  · split
    · exact h0
    · extract_lets load badKind
      exact State.Keeps.ite h0 (State.Keeps.ite ho (State.Keeps.ite (hf 0) (State.Keeps.ite (State.Keeps.ite h0.recordRefusal h0) h0.feedTake)))

theorem State.Keeps.frameStart {s0 s : State} (h0 : s0.Keeps s) {h : HallId} {port vc fnum us sincePulse : Nat} {hdrCorr : Bool} : s0.Keeps (s.frameStart h port vc fnum us sincePulse hdrCorr) := by
  unfold State.frameStart
  try dsimp only
  repeat' first
    | with_reducible assumption
    | intro _
    | with_reducible apply State.Keeps.onHall
    | with_reducible apply Hall.Wf.onRx
    | with_reducible apply Hall.Wf.rxActive
    | with_reducible apply Hall.Wf.undeclared
    | with_reducible apply Hall.Wf.header
    | with_reducible apply Hall.Wf.frameStartAt
    | with_reducible apply Hall.Wf.after
    | with_reducible apply State.Keeps.foldl
    | with_reducible apply Hall.Wf.foldl
    | split

theorem State.Keeps.inCams {s0 s : State} (h0 : s0.Keeps s) {h : HallId} {f : Hall → Hall} (hf : ∀ H : Hall, H.Wf → (f H).Wf) :
    s0.Keeps (s.inCams h f) := by
  unfold State.inCams
  exact State.Keeps.ite (h0.onHall hf) h0


theorem State.Keeps.inRx {s0 s : State} (h0 : s0.Keeps s) {h : HallId} {port : Nat} {f : Hall → Hall} (hf : ∀ H : Hall, H.Wf → (f H).Wf) :
    s0.Keeps (s.inRx h port f) :=
  State.Keeps.ite (h0.inCams hf) h0

theorem State.Keeps.ringFrame {s0 s : State} (h0 : s0.Keeps s) {b : MicArrayBody} {chans : List (List Int)} : s0.Keeps (s.ringFrame b chans) := by
  unfold State.ringFrame
  try dsimp only
  repeat' first
    | with_reducible assumption
    | intro _
    | with_reducible apply State.Keeps.foldl
    | with_reducible apply Hall.Wf.foldl
    | split
    | refine Hall.Wf.update ?_ rfl rfl rfl
    | refine State.Keeps.update ?_ (Nat.le_refl _)

theorem State.Keeps.arrayFrame {s0 s : State} (h0 : s0.Keeps s) {f : AudioFrame} {b : MicArrayBody} : s0.Keeps (s.arrayFrame f b).1 := by
  unfold State.arrayFrame
  extract_lets full khz
  refine State.Keeps.foldl_fst (a := (s, [], [])) (fun a m ha => ?_) _ h0
  exact ha.update (Nat.le_refl _)

theorem State.Keeps.takeArray {s0 s : State} (h0 : s0.Keeps s) {f : AudioFrame} {e : Nat × MicArrayBody} : s0.Keeps (s.takeArray f e) := by
  unfold State.takeArray
  extract_lets r s1
  have h1 : s0.Keeps s1 := State.Keeps.ringFrame (State.Keeps.arrayFrame h0)
  clear_value s1 r
  exact h1.update (Nat.le_refl _)

theorem State.Keeps.stuckFrame {s0 s : State} (h0 : s0.Keeps s) {f : AudioFrame} : s0.Keeps (s.stuckFrame f) := by
  unfold State.stuckFrame
  try dsimp only
  repeat' first
    | with_reducible assumption
    | intro _
    | with_reducible apply State.Keeps.logOther
    | with_reducible apply Hall.Wf.logOther
    | with_reducible apply State.Keeps.foldl
    | with_reducible apply Hall.Wf.foldl
    | split
    | refine Hall.Wf.update ?_ rfl rfl rfl
    | refine State.Keeps.update ?_ (Nat.le_refl _)

theorem State.Keeps.micBlockWrite {s0 s : State} (h0 : s0.Keeps s) {id : Nat} : s0.Keeps (s.micBlockWrite id) := by
  unfold State.micBlockWrite
  try dsimp only
  repeat' first
    | with_reducible assumption
    | intro _
    | with_reducible apply State.Keeps.onHall
    | with_reducible apply Hall.Wf.writeAt
    | with_reducible apply Hall.Wf.signal
    | with_reducible apply Hall.Wf.after
    | split
    | refine Hall.Wf.update ?_ rfl rfl rfl
    | refine State.Keeps.update ?_ (Nat.le_refl _)

theorem State.Keeps.putHeader {s0 s : State} (h0 : s0.Keeps s) {vt : Nat} : s0.Keeps (s.putHeader vt) := by
  unfold State.putHeader
  try dsimp only
  repeat' first
    | with_reducible assumption
    | intro _
    | split
    | refine Hall.Wf.update ?_ rfl rfl rfl
    | refine State.Keeps.update ?_ (Nat.le_refl _)

theorem State.Keeps.takeFrame {s0 s : State} (h0 : s0.Keeps s) {vt : Nat} {f : AudioFrame} : s0.Keeps (s.takeFrame vt f) := by
  unfold State.takeFrame
  try dsimp only
  repeat' first
    | with_reducible assumption
    | intro _
    | with_reducible apply State.Keeps.takeArray
    | with_reducible apply State.Keeps.putHeader
    | with_reducible apply State.Keeps.foldl
    | with_reducible apply Hall.Wf.foldl
    | split
    | refine Hall.Wf.update ?_ rfl rfl rfl
    | refine State.Keeps.update ?_ (Nat.le_refl _)

theorem State.Keeps.mirrorTo {s0 s : State} (h0 : s0.Keeps s) {f : FlightEntry} {off n : Nat} : s0.Keeps (s.mirrorTo f off n) := by
  unfold State.mirrorTo
  try dsimp only
  repeat' first
    | with_reducible assumption
    | intro _
    | with_reducible apply State.Keeps.onHall
    | with_reducible apply Hall.Wf.writeAt
    | split

theorem State.Keeps.mirrorUpdate {s0 s : State} (h0 : s0.Keeps s)  : s0.Keeps (s.mirrorUpdate) := by
  unfold State.mirrorUpdate
  try dsimp only
  repeat' first
    | with_reducible assumption
    | intro _
    | with_reducible apply State.Keeps.mirrorTo
    | with_reducible apply State.Keeps.onHall
    | with_reducible apply Hall.Wf.signal
    | with_reducible apply Hall.Wf.after
    | with_reducible apply State.Keeps.foldl
    | with_reducible apply Hall.Wf.foldl
    | split
    | refine Hall.Wf.update ?_ rfl rfl rfl
    | refine State.Keeps.update ?_ (Nat.le_refl _)

theorem State.Keeps.countPresence {s0 s : State} (h0 : s0.Keeps s) {accepted : Bool} : s0.Keeps (s.countPresence accepted) := by
  unfold State.countPresence
  try dsimp only
  repeat' first
    | with_reducible assumption
    | intro _
    | with_reducible apply State.Keeps.onHall
    | split
    | refine Hall.Wf.update ?_ rfl rfl rfl

theorem State.Keeps.crop {s0 s : State} (h0 : s0.Keeps s) {box : Nat × Nat × Nat × Nat} {luma : List Byte} : s0.Keeps (s.crop box luma) := by
  unfold State.crop
  try dsimp only
  repeat' first
    | with_reducible assumption
    | intro _
    | split
    | refine Hall.Wf.update ?_ rfl rfl rfl
    | refine State.Keeps.update ?_ (Nat.le_refl _)

theorem State.Keeps.presenceFrame {s0 s : State} (h0 : s0.Keeps s) {vt : Nat} {f : PresenceFrame} : s0.Keeps (s.presenceFrame vt f) := by
  unfold State.presenceFrame
  try dsimp only
  repeat' first
    | with_reducible assumption
    | intro _
    | with_reducible apply State.Keeps.countPresence
    | with_reducible apply State.Keeps.crop
    | split
    | refine Hall.Wf.update ?_ rfl rfl rfl
    | refine State.Keeps.update ?_ (Nat.le_refl _)

theorem State.Keeps.vst {s0 s : State} (h0 : s0.Keeps s) (x : Vst) : s0.Keeps { s with vst := x } := h0.update (Nat.le_refl _)


theorem State.Keeps.scoreFrame {s0 s : State} (h0 : s0.Keeps s) {f : AudioFrame} {vt : Nat} : s0.Keeps (s.scoreFrame f vt).1 := by
  unfold State.scoreFrame
  extract_lets w gap
  split
  · exact h0
  · with_reducible refine State.Keeps.ite_fst h0 (State.Keeps.foldl_fst (fun a x h => ?_) _ h0)
    extract_lets s old v r held rest
    with_reducible refine State.Keeps.ite_fst (State.Keeps.ite h ?_) ?_
    · exact State.Keeps.vst h _
    · exact State.Keeps.vst h _


theorem State.Keeps.candidateReject {s0 s : State} (h0 : s0.Keeps s) {c : Nat} : s0.Keeps (s.candidateReject c) := by
  unfold State.candidateReject
  try dsimp only
  repeat' first
    | with_reducible assumption
    | intro _
    | split
    | refine Hall.Wf.update ?_ rfl rfl rfl
    | refine State.Keeps.update ?_ (Nat.le_refl _)

theorem State.Keeps.nextLseq {s0 s : State} (h0 : s0.Keeps s)  : s0.Keeps (s.nextLseq) := by
  unfold State.nextLseq
  try dsimp only
  repeat' first
    | with_reducible assumption
    | intro _
    | split
    | refine Hall.Wf.update ?_ rfl rfl rfl
    | refine State.Keeps.update ?_ (Nat.le_refl _)

theorem State.Keeps.dropLanding {s0 s : State} (h0 : s0.Keeps s)  : s0.Keeps (s.dropLanding) := by
  unfold State.dropLanding
  try dsimp only
  repeat' first
    | with_reducible assumption
    | intro _
    | split
    | refine Hall.Wf.update ?_ rfl rfl rfl
    | refine State.Keeps.update ?_ (Nat.le_refl _)

theorem State.Keeps.notifyLanding {s0 s : State} (h0 : s0.Keeps s) {f : FlightEntry} {r : List Byte} : s0.Keeps (s.notifyLanding f r) := by
  unfold State.notifyLanding
  try dsimp only
  repeat' first
    | with_reducible assumption
    | intro _
    | with_reducible apply State.Keeps.event
    | split

theorem State.Keeps.deliver {s0 s : State} (h0 : s0.Keeps s) {f : FlightEntry} {r : List Byte} : s0.Keeps (s.deliver f r) := by
  unfold State.deliver
  try dsimp only
  repeat' first
    | with_reducible assumption
    | intro _
    | with_reducible apply State.Keeps.dropLanding
    | with_reducible apply State.Keeps.onHall
    | with_reducible apply Hall.Wf.writeAt
    | with_reducible apply Hall.Wf.signal
    | with_reducible apply Hall.Wf.after
    | with_reducible apply State.Keeps.notifyLanding
    | with_reducible apply Hall.Wf.sendStair
    | split
    | refine Hall.Wf.update ?_ rfl rfl rfl
    | refine State.Keeps.update ?_ (Nat.le_refl _)

theorem State.Keeps.sendLanding {s0 s : State} (h0 : s0.Keeps s) {n vt : Nat} {r : List Byte} : s0.Keeps (s.sendLanding n vt r) := by
  unfold State.sendLanding
  try dsimp only
  repeat' first
    | with_reducible assumption
    | intro _
    | with_reducible apply State.Keeps.deliver
    | with_reducible apply Hall.Wf.deliver
    | with_reducible apply State.Keeps.dropLanding
    | split
    | refine Hall.Wf.update ?_ rfl rfl rfl
    | refine State.Keeps.update ?_ (Nat.le_refl _)

theorem State.Keeps.unavailableDrop {s0 s : State} (h0 : s0.Keeps s)  : s0.Keeps (s.unavailableDrop) := by
  unfold State.unavailableDrop
  try dsimp only
  repeat' first
    | with_reducible assumption
    | intro _
    | split
    | refine Hall.Wf.update ?_ rfl rfl rfl
    | refine State.Keeps.update ?_ (Nat.le_refl _)

theorem State.Keeps.formLanding {s0 s : State} (h0 : s0.Keeps s) {vt : Nat} {v : Verdict} : s0.Keeps ((s.formLanding vt v).1) := by
  unfold State.formLanding
  try dsimp only
  repeat' first
    | with_reducible assumption
    | intro _
    | with_reducible apply State.Keeps.unavailableDrop
    | with_reducible apply State.Keeps.crop
    | with_reducible apply State.Keeps.nextLseq
    | with_reducible apply State.Keeps.sendLanding
    | split

theorem State.Keeps.acceptUp {s0 s : State} (h0 : s0.Keeps s) {n vt : Nat} {r : List Byte} : s0.Keeps ((s.acceptUp n vt r).1) := by
  unfold State.acceptUp
  try dsimp only
  repeat' first
    | with_reducible assumption
    | intro _
    | with_reducible apply State.Keeps.dropLanding
    | with_reducible apply State.Keeps.logOther
    | with_reducible apply Hall.Wf.logOther
    | with_reducible apply State.Keeps.nextLseq
    | with_reducible apply State.Keeps.unavailableDrop
    | with_reducible apply State.Keeps.sendLanding
    | split
    | refine Hall.Wf.update ?_ rfl rfl rfl
    | refine State.Keeps.update ?_ (Nat.le_refl _)
    | refine State.Keeps.update ?_ (by dsimp only; omega)

theorem State.Keeps.takeUps {s0 s : State} (h0 : s0.Keeps s) {vt : Nat} : s0.Keeps (s.takeUps vt).1 := by
  unfold State.takeUps
  with_reducible refine State.Keeps.foldl_fst (fun a n h => ?_) _ h0
  with_reducible refine State.Keeps.ite_fst h ?_
  split
  · exact h
  · with_reducible refine State.Keeps.ite_fst (State.Keeps.foldl_fst (fun a n h => ?_) _ h) ?_
    · extract_lets s k r s1 q s2 b
      have h1 : s0.Keeps s1 := State.Keeps.onHall h fun H hH => hH.setCell
      have h2 : s0.Keeps s2 := h1.vst _
      exact h2.acceptUp
    · dsimp only
      with_reducible refine State.Keeps.vst (State.Keeps.foldl_fst (fun a r h => ?_) _ h) _
      exact h.acceptUp


theorem State.Keeps.forwardUps {s0 s : State} (h0 : s0.Keeps s)  : s0.Keeps (s.forwardUps) := by
  unfold State.forwardUps
  try dsimp only
  repeat' first
    | with_reducible assumption
    | intro _
    | with_reducible apply State.Keeps.onHall
    | with_reducible apply Hall.Wf.setCell
    | with_reducible apply Hall.Wf.tell
    | with_reducible apply Hall.Wf.reportLandings
    | with_reducible apply State.Keeps.foldl
    | with_reducible apply Hall.Wf.foldl
    | split
    | with_reducible apply Store.wf_write
    | with_reducible apply Store.wf_scrub
    | with_reducible apply Store.wf_setPoison
    | exact Store.wf_zero
    | exact Store.wf_unwritten
    | refine Hall.Wf.update ?_ rfl rfl rfl
    | refine State.Keeps.update ?_ (Nat.le_refl _)

theorem State.Keeps.flightEntry {s0 s : State} (h0 : s0.Keeps s)  : s0.Keeps (s.flightEntry) := by
  unfold State.flightEntry
  try dsimp only
  repeat' first
    | with_reducible assumption
    | intro _
    | with_reducible apply State.Keeps.onHall
    | split
    | refine Hall.Wf.update ?_ rfl rfl rfl
    | refine State.Keeps.update ?_ (Nat.le_refl _)

theorem State.Keeps.copyStage {s0 s : State} (h0 : s0.Keeps s) {f : FlightEntry} : s0.Keeps (s.copyStage f) := by
  unfold State.copyStage
  try dsimp only
  repeat' first
    | with_reducible assumption
    | intro _
    | with_reducible apply State.Keeps.onHall
    | with_reducible apply Hall.Wf.writeAt
    | with_reducible apply State.Keeps.foldl
    | with_reducible apply Hall.Wf.foldl
    | split

theorem State.Keeps.deliverPending {s0 s : State} (h0 : s0.Keeps s) {f : FlightEntry} {n : Nat} : s0.Keeps (s.deliverPending f n) := by
  unfold State.deliverPending
  try dsimp only
  repeat' first
    | with_reducible assumption
    | intro _
    | with_reducible apply State.Keeps.deliver
    | with_reducible apply Hall.Wf.deliver
    | with_reducible apply State.Keeps.foldl
    | with_reducible apply Hall.Wf.foldl
    | split
    | refine Hall.Wf.update ?_ rfl rfl rfl
    | refine State.Keeps.update ?_ (Nat.le_refl _)

theorem State.Keeps.entryDone {s0 s : State} (h0 : s0.Keeps s) {vt : Nat} : s0.Keeps (s.entryDone vt) := by
  unfold State.entryDone
  split
  · exact h0
  · extract_lets n
    with_reducible refine State.Keeps.ite h0 ?_
    split
    · exact h0.vst _
    · extract_lets s1 s2 s3 s4 q s5
      have h1 : s0.Keeps s1 := State.Keeps.ite h0.copyStage h0
      clear_value s1
      have h2 : s0.Keeps s2 := State.Keeps.ite h1.mirrorTo h1
      clear_value s2
      have h3 : s0.Keeps s3 := h2.onHall fun H hH => hH.flightContexts
      clear_value s3
      have h4 : s0.Keeps s4 := h3.deliverPending
      clear_value s4
      have h5 : s0.Keeps s5 := h4.vst _
      with_reducible refine State.Keeps.ite ?_ h5.applyPower.flightEntry
      exact h0.vst _


theorem State.Keeps.escalate {s0 s : State} (h0 : s0.Keeps s) {t vt : Nat} {cause : Nat × Nat} : s0.Keeps (s.escalate t vt cause) := by
  unfold State.escalate
  extract_lets e q s1
  have h1 : s0.Keeps s1 := h0.vst _
  exact State.Keeps.ite h0 h1.applyPower.flightEntry


theorem State.Keeps.leaveFlight {s0 s : State} (h0 : s0.Keeps s) {vt : Nat} : s0.Keeps (s.leaveFlight vt) := by
  unfold State.leaveFlight
  try dsimp only
  repeat' first
    | with_reducible assumption
    | intro _
    | with_reducible apply State.Keeps.startRelease
    | split
    | refine Hall.Wf.update ?_ rfl rfl rfl
    | refine State.Keeps.update ?_ (Nat.le_refl _)

theorem State.Keeps.hostDescend {s0 s : State} (h0 : s0.Keeps s) {vt : Nat} : s0.Keeps (s.hostDescend vt) := by
  unfold State.hostDescend
  extract_lets q s1
  have h1 : s0.Keeps s1 := h0.vst _
  clear_value s1
  with_reducible refine State.Keeps.ite h0 (State.Keeps.ite h1 (State.Keeps.applyPower (State.Keeps.foldl (fun s i h => ?_) _ h1)))
  exact h.leaveFlight


theorem State.Keeps.changeMode {s0 s : State} (h0 : s0.Keeps s) {full : Bool} : s0.Keeps (s.changeMode full) := by
  unfold State.changeMode
  try dsimp only
  repeat' first
    | with_reducible assumption
    | intro _
    | split
    | refine Hall.Wf.update ?_ rfl rfl rfl
    | refine State.Keeps.update ?_ (Nat.le_refl _)

theorem State.Keeps.endDeferral {s0 s : State} (h0 : s0.Keeps s) {timedOut : Bool} : s0.Keeps (s.endDeferral timedOut) := by
  unfold State.endDeferral
  try dsimp only
  repeat' first
    | with_reducible assumption
    | intro _
    | with_reducible apply State.Keeps.changeMode
    | split
    | refine Hall.Wf.update ?_ rfl rfl rfl
    | refine State.Keeps.update ?_ (Nat.le_refl _)

theorem State.Keeps.micStep {s0 s : State} (h0 : s0.Keeps s) {vt : Nat} : s0.Keeps (s.micStep vt) := by
  unfold State.micStep
  try dsimp only
  repeat' first
    | with_reducible assumption
    | intro _
    | with_reducible apply State.Keeps.changeMode
    | with_reducible apply State.Keeps.endDeferral
    | split
    | refine Hall.Wf.update ?_ rfl rfl rfl
    | refine State.Keeps.update ?_ (Nat.le_refl _)

theorem State.Keeps.descentStep {s0 s : State} (h0 : s0.Keeps s) {vt : Nat} : s0.Keeps (s.descentStep vt) := by
  unfold State.descentStep
  exact State.Keeps.ite h0.leaveFlight.applyPower.micStep h0


theorem State.Keeps.micDeferTimeout {s0 s : State} (h0 : s0.Keeps s) {vt : Nat} : s0.Keeps (s.micDeferTimeout vt) := by
  unfold State.micDeferTimeout
  try dsimp only
  repeat' first
    | with_reducible assumption
    | intro _
    | with_reducible apply State.Keeps.endDeferral
    | split

theorem State.Keeps.tdmStep {s0 s : State} (h0 : s0.Keeps s) {b : TdmOutBody} : s0.Keeps (s.tdmStep b) := by
  unfold State.tdmStep
  try dsimp only
  repeat' first
    | with_reducible assumption
    | intro _
    | with_reducible apply State.Keeps.onHall
    | with_reducible apply Hall.Wf.takeCell
    | split
    | with_reducible apply Store.wf_write
    | with_reducible apply Store.wf_scrub
    | with_reducible apply Store.wf_setPoison
    | exact Store.wf_zero
    | exact Store.wf_unwritten
    | refine Hall.Wf.update ?_ rfl rfl rfl
    | refine State.Keeps.update ?_ (Nat.le_refl _)

theorem State.Keeps.tdmAll {s0 s : State} (h0 : s0.Keeps s)  : s0.Keeps (s.tdmAll) := by
  unfold State.tdmAll
  try dsimp only
  repeat' first
    | with_reducible assumption
    | intro _
    | with_reducible apply State.Keeps.tdmStep
    | with_reducible apply State.Keeps.foldl
    | with_reducible apply Hall.Wf.foldl
    | split

theorem State.Keeps.audioBoundary {s0 s : State} (h0 : s0.Keeps s) {vt : Nat} {f : AudioFrame} : s0.Keeps (s.audioBoundary vt f) := by
  unfold State.audioBoundary
  with_reducible refine State.Keeps.ite h0 ?_
  extract_lets t0 q1 t1 s2 level r stop vs others pins q2 q3 s3 l u top s4 s5 s6 q7 s7
  have h1 : s0.Keeps t0 := h0.takeFrame.stuckFrame
  clear_value t0
  have h1 : s0.Keeps t1 := h1.vst _
  clear_value t1
  have h2 : s0.Keeps s2 := h1.hostDescend
  clear_value s2
  have h3 : s0.Keeps r.1 := h2.scoreFrame
  clear_value r
  have h3 : s0.Keeps s3 := h3.vst _
  have h4 : s0.Keeps l.1 := by
    with_reducible refine State.Keeps.foldl_fst (fun a v h => ?_) _ h3
    exact h.formLanding
  clear_value s3 l
  have h5 : s0.Keeps u.1 := h4.forwardUps.takeUps
  clear_value u
  have h6 : s0.Keeps s4 := State.Keeps.flightEntry (State.Keeps.ite h5.escalate h5)
  clear_value s4
  have h7 : s0.Keeps s5 := h6.micStep
  clear_value s5
  have h8 : s0.Keeps s6 := h7.descentStep
  clear_value s6
  have h9 : s0.Keeps s7 := by
    with_reducible refine State.Keeps.ite (State.Keeps.applyPower ?_) h8
    exact h8.vst _
  exact h9.tdmAll

theorem State.Keeps.afterTraining {s0 s : State} (h0 : s0.Keeps s)  : s0.Keeps (s.afterTraining) := by
  unfold State.afterTraining
  try dsimp only
  repeat' first
    | with_reducible assumption
    | intro _
    | with_reducible apply State.Keeps.onHall
    | with_reducible apply Hall.Wf.tell
    | split

theorem State.Keeps.stairTrained {s0 s : State} (h0 : s0.Keeps s) {goodA goodB : BitVec 32} : s0.Keeps (s.stairTrained goodA goodB) := by
  unfold State.stairTrained
  try dsimp only
  repeat' first
    | with_reducible assumption
    | intro _
    | with_reducible apply State.Keeps.onHall
    | with_reducible apply State.Keeps.losePartner
    | with_reducible apply Hall.Wf.trainedAt
    | with_reducible apply Hall.Wf.takeSweep
    | with_reducible apply State.Keeps.afterTraining
    | with_reducible apply Hall.Wf.joins
    | split
    | refine Hall.Wf.update ?_ rfl rfl rfl

theorem State.Keeps.pop {s0 s : State} (h0 : s0.Keeps s) {h : HallId} {m : StairMsg} : s0.Keeps (s.pop h m) := by
  unfold State.pop
  try dsimp only
  repeat' first
    | with_reducible assumption
    | intro _
    | with_reducible apply State.Keeps.onHall
    | with_reducible apply Hall.Wf.sendOn
    | with_reducible apply State.Keeps.count
    | with_reducible apply Hall.Wf.count
    | split
    | refine Hall.Wf.update ?_ rfl rfl rfl

theorem State.Keeps.freeSyncs {s0 s : State} (h0 : s0.Keeps s) {h : HallId} : s0.Keeps (s.freeSyncs h) := by
  unfold State.freeSyncs
  try dsimp only
  repeat' first
    | with_reducible assumption
    | intro _
    | with_reducible apply State.Keeps.onHall
    | with_reducible apply Hall.Wf.applySync
    | with_reducible apply State.Keeps.foldl
    | with_reducible apply Hall.Wf.foldl
    | split
    | refine Hall.Wf.update ?_ rfl rfl rfl

theorem State.Keeps.stairSync {s0 s : State} (h0 : s0.Keeps s) {h : HallId} {m : StairMsg} : s0.Keeps (s.stairSync h m) := by
  unfold State.stairSync
  try dsimp only
  repeat' first
    | with_reducible assumption
    | intro _
    | with_reducible apply State.Keeps.pop
    | with_reducible apply State.Keeps.onHall
    | with_reducible apply Hall.Wf.discardMsg
    | with_reducible apply Hall.Wf.applySync
    | split
    | refine Hall.Wf.update ?_ rfl rfl rfl

theorem State.Keeps.stairMove {s0 s : State} (h0 : s0.Keeps s) {h : HallId} {m : StairMsg} : s0.Keeps (s.stairMove h m) := by
  unfold State.stairMove
  try dsimp only
  repeat' first
    | with_reducible assumption
    | intro _
    | with_reducible apply State.Keeps.pop
    | with_reducible apply State.Keeps.onHall
    | with_reducible apply Hall.Wf.discardMsg
    | with_reducible apply Hall.Wf.applyMove
    | with_reducible apply State.Keeps.freeSyncs
    | with_reducible apply State.Keeps.foldl
    | with_reducible apply Hall.Wf.foldl
    | split
    | refine Hall.Wf.update ?_ rfl rfl rfl

theorem State.Keeps.stairCompare {s0 s : State} (h0 : s0.Keeps s) {h : HallId} {m : StairMsg} : s0.Keeps (s.stairCompare h m) := by
  unfold State.stairCompare
  try dsimp only
  repeat' first
    | with_reducible assumption
    | intro _
    | with_reducible apply State.Keeps.pop
    | with_reducible apply State.Keeps.onHall
    | with_reducible apply Hall.Wf.discardMsg
    | with_reducible apply Hall.Wf.onMark
    | with_reducible apply Hall.Wf.tryJudge
    | with_reducible apply Hall.Wf.after
    | split

theorem State.Keeps.afterFirmware {s0 s : State} (h0 : s0.Keeps s)  : s0.Keeps (s.afterFirmware) := by
  unfold State.afterFirmware
  try dsimp only
  repeat' first
    | with_reducible assumption
    | intro _
    | with_reducible apply State.Keeps.onHall
    | with_reducible apply Hall.Wf.tell
    | split

theorem State.Keeps.control {s0 s : State} (h0 : s0.Keeps s) {h : HallId} {c : ControlMsg} {vt : Nat} : s0.Keeps (s.control h c vt) := by
  unfold State.control
  split
  · exact h0.firmwareArrives.afterFirmware
  · exact State.Keeps.ite h0.takeImage h0
  · with_reducible refine State.Keeps.onHall (State.Keeps.onHall (State.Keeps.onHall h0 fun H hH => ?_) fun H hH => hH.joins) fun H hH => hH.joins
    exact hH.update rfl rfl rfl
  · exact State.Keeps.ite h0.acceptFailed h0
  · exact h0.digestArrives
  · split
    · exact h0.onHall fun H hH => hH.tell
    · exact h0
  · exact h0.activeArrives
  · exact h0.stageImage
  · exact h0.onHall fun H hH => by exact hH.update rfl rfl rfl
  · exact h0.scheduleArrives
  · exact h0.withdrawn
  · with_reducible refine State.Keeps.onHall h0 fun H hH => Hall.Wf.ite ?_ hH
    exact hH.update rfl rfl rfl
  · exact h0.runForwarded
  · exact h0.endForwarded
  · with_reducible refine State.Keeps.ite ?_ h0
    exact h0.vst _
  · with_reducible refine State.Keeps.ite ?_ h0
    exact h0.vst _
  · with_reducible refine State.Keeps.ite (State.Keeps.applyPower ?_) h0
    exact h0.pkg _
  · exact h0.onHall fun H hH => by exact hH.swpUpd rfl
  · exact h0


theorem State.Keeps.stairControl {s0 s : State} (h0 : s0.Keeps s) {h : HallId} {m : StairMsg} {means : ControlMsg} :
    s0.Keeps (s.stairControl h m means) := by
  unfold State.stairControl
  extract_lets s1 j s2
  have h1 : s0.Keeps s1 := h0.pop
  clear_value s1
  have h2 : s0.Keeps s2 := h1.onHall fun H hH => by exact hH.update rfl rfl rfl
  clear_value s2
  with_reducible refine State.Keeps.ite h0 (State.Keeps.ite (h1.onHall fun H hH => hH.discardMsg) (State.Keeps.ite h2 (State.Keeps.control ?_)))
  exact h2.onHall fun H hH => by exact hH.update rfl rfl rfl


theorem State.Keeps.beatSend {s0 s : State} (h0 : s0.Keeps s) {h : HallId} : s0.Keeps (s.beatSend h) := by
  unfold State.beatSend
  try dsimp only
  repeat' first
    | with_reducible assumption
    | intro _
    | with_reducible apply State.Keeps.onHall
    | with_reducible apply Hall.Wf.sendStair
    | with_reducible apply Hall.Wf.refillControl
    | split

theorem State.Keeps.stairBeat {s0 s : State} (h0 : s0.Keeps s) {h : HallId} {m : StairMsg} {tb : Nat} : s0.Keeps (s.stairBeat h m tb) := by
  unfold State.stairBeat
  extract_lets s1 tick pv lock began s2
  have h1 : s0.Keeps s1 := h0.pop
  clear_value s1
  have h2 : s0.Keeps s2 := h1.onHall fun H hH => by
    with_reducible refine Hall.Wf.ite hH ?_
    exact hH.update rfl rfl rfl
  clear_value s2
  with_reducible refine State.Keeps.ite h0 (State.Keeps.ite (h1.onHall fun H hH => hH.discardMsg) ?_)
  exact h2.beatTime.onHall fun H hH => by exact hH.update rfl rfl rfl

theorem State.Keeps.missBeats {s0 s : State} (h0 : s0.Keeps s) {h : HallId} : s0.Keeps (s.missBeats h) := by
  unfold State.missBeats
  try dsimp only
  repeat' first
    | with_reducible assumption
    | intro _
    | with_reducible apply State.Keeps.losePartner
    | split

theorem State.Keeps.correctableError {s0 s : State} (h0 : s0.Keeps s) {h : HallId} {hits : List CeHit} : s0.Keeps (s.correctableError h hits) := by
  unfold State.correctableError
  try dsimp only
  repeat' first
    | with_reducible assumption
    | intro _
    | with_reducible apply State.Keeps.onHall
    | with_reducible apply Hall.Wf.correctable
    | with_reducible apply State.Keeps.foldl
    | with_reducible apply Hall.Wf.foldl
    | split

theorem State.Keeps.captureLost {s0 s : State} (h0 : s0.Keeps s) {addr : Nat} : s0.Keeps (s.captureLost addr) := by
  unfold State.captureLost
  extract_lets w cap c1 c2
  with_reducible refine State.Keeps.ite (State.Keeps.vst h0 _) (State.Keeps.ite (State.Keeps.vst h0 _) ?_)
  exact h0.update (Nat.le_succ _)


theorem State.Keeps.vestReset {s0 s : State} (h0 : s0.Keeps s) : s0.Keeps s.vestReset := by
  unfold State.vestReset
  extract_lets s1 down q0 s2 q1 s3 q s4
  have h1 : s0.Keeps s1 := by
    with_reducible refine State.Keeps.foldl (fun s i h => ?_) _ h0
    exact h.leaveFlight
  clear_value s1
  have h2 : s0.Keeps s2 := h1.update (Nat.le_refl _)
  clear_value s2
  have h3 : s0.Keeps s3 := by
    have h3 : ∀ o : Option Image, s0.Keeps (match o with
        | some im => { s2.loadVestibule im with pkg := { s2.pkg with wakeEn := (s2.loadVestibule im).pkg.wakeEn } }
        | none => { s2 with pkg := { s2.pkg with wakeEn := 0 } }) := fun o => by
      cases o
      · exact h2.pkg _
      · exact h2.loadVestibule.pkg _
    exact h3 s2.a.image
  clear_value s3
  exact (h3.pkg _).applyPower


theorem State.Keeps.coldWake {s0 s : State} (h0 : s0.Keeps s) {old : State} : s0.Keeps (s.coldWake old) := by
  unfold State.coldWake
  try dsimp only
  repeat' first
    | with_reducible assumption
    | intro _
    | with_reducible apply State.Keeps.hallReset
    | with_reducible apply State.Keeps.foldl
    | with_reducible apply Hall.Wf.foldl
    | split
    | refine Hall.Wf.update ?_ rfl rfl rfl
    | refine State.Keeps.update ?_ (Nat.le_refl _)

theorem State.Keeps.commitBufferError {s0 s : State} (h0 : s0.Keeps s) {h : HallId} {c addr cyc : Nat} :
    s0.Keeps (s.commitBufferError h c addr cyc) := by
  unfold State.commitBufferError
  extract_lets s1
  have h1 : s0.Keeps s1 := h0.onHall fun H hH => hH.noteUe
  clear_value s1
  split
  · exact h1.onHall fun H hH => hH.onCtx
  · exact h1.coreResetDue


theorem State.Keeps.uncorrectable {s0 s : State} (h0 : s0.Keeps s) {h : HallId} {place : UePlace} {cyc : Nat} :
    s0.Keeps (s.uncorrectable h place cyc) := by
  have hn : ∀ h n m, s0.Keeps (s.onHall h fun H => H.noteUe n m) := fun h n m => h0.onHall fun H hH => hH.noteUe
  unfold State.uncorrectable
  extract_lets lives
  split
  · exact State.Keeps.ite h0 (hn _ _ _).captureLost
  · exact State.Keeps.ite h0 (hn _ _ _).vestReset
  · exact State.Keeps.ite (hn _ _ _).coreResetDue h0
  · exact State.Keeps.ite h0.commitBufferError h0
  · exact State.Keeps.ite (hn _ _ _).galleryReset h0
  · exact State.Keeps.ite (h0.onHall fun H hH => hH.noteUe.ispLineLost) h0
  · exact State.Keeps.ite (h0.onHall fun H hH => hH.noteUe.onIsp) h0
  · exact State.Keeps.ite h0 h0.resetFor
  · exact State.Keeps.ite h0 h0.resetFor
  · exact State.Keeps.ite h0 h0.resetFor
  · exact State.Keeps.ite h0 h0.resetFor

theorem State.Keeps.weightBankUe {s0 s : State} (h0 : s0.Keeps s) {h : HallId} {c b : Nat} {sidecar : Bool} {cyc : Nat} :
    s0.Keeps (s.weightBankUe h c b sidecar cyc) := by
  unfold State.weightBankUe
  exact State.Keeps.ite (State.Keeps.bankError (h0.onHall fun H hH => hH.noteUe)) h0


theorem State.Keeps.walkerStep {s0 s : State} (h0 : s0.Keeps s) {h : HallId} {found : ScrubFind} : s0.Keeps (s.walkerStep h found) := by
  unfold State.walkerStep
  try dsimp only
  repeat' first
    | with_reducible assumption
    | intro _
    | with_reducible apply State.Keeps.correctableError
    | with_reducible apply State.Keeps.onHall
    | split
    | refine Hall.Wf.update ?_ rfl rfl rfl

theorem State.Keeps.pinHoldEnd {s0 s : State} (h0 : s0.Keeps s) {h : HallId} : s0.Keeps (s.pinHoldEnd h) := by
  unfold State.pinHoldEnd
  try dsimp only
  repeat' first
    | with_reducible assumption
    | intro _
    | with_reducible apply State.Keeps.setPin
    | split

theorem State.Keeps.mr4Read {s0 s : State} (h0 : s0.Keeps s) {h : HallId} {channel : Nat} {hot : Bool} : s0.Keeps (s.mr4Read h channel hot) := by
  unfold State.mr4Read
  try dsimp only
  repeat' first
    | with_reducible assumption
    | intro _
    | with_reducible apply State.Keeps.onHall
    | with_reducible apply Hall.Wf.opSettle
    | split
    | refine Hall.Wf.update ?_ rfl rfl rfl

theorem State.Keeps.dqsTracking {s0 s : State} (h0 : s0.Keeps s) {h : HallId} : s0.Keeps (s.dqsTracking h) := by
  unfold State.dqsTracking
  try dsimp only
  repeat' first
    | with_reducible assumption
    | intro _
    | with_reducible apply State.Keeps.onHall
    | split
    | refine Hall.Wf.update ?_ rfl rfl rfl

theorem State.Keeps.refuseWord {s0 s : State} (h0 : s0.Keeps s) {p code addr : Nat} : s0.Keeps (s.refuseWord p code addr) := by
  unfold State.refuseWord
  try dsimp only
  repeat' first
    | with_reducible assumption
    | intro _
    | with_reducible apply State.Keeps.logPort
    | with_reducible apply State.Keeps.onPort

theorem State.Keeps.samplerWrite {s0 s : State} (h0 : s0.Keeps s) {p k : Nat} {w : Word} : s0.Keeps (s.samplerWrite p k w) := by
  unfold State.samplerWrite
  try dsimp only
  repeat' first
    | with_reducible assumption
    | intro _
    | with_reducible apply State.Keeps.logPort
    | with_reducible apply State.Keeps.onHall
    | split
    | refine Hall.Wf.update ?_ rfl rfl rfl

theorem State.Keeps.cntWrite {s0 s : State} (h0 : s0.Keeps s) {p o : Nat} {w : Word} : s0.Keeps (s.cntWrite p o w) := by
  unfold State.cntWrite
  try dsimp only
  repeat' first
    | with_reducible assumption
    | intro _
    | with_reducible apply State.Keeps.onHall
    | with_reducible apply State.Keeps.samplerWrite
    | split
    | refine Hall.Wf.update ?_ rfl rfl rfl

theorem State.Keeps.imgCtl {s0 s : State} (h0 : s0.Keeps s) {h : HallId} {w : Word} : s0.Keeps (s.imgCtl h w) := by
  unfold State.imgCtl
  try dsimp only
  repeat' first
    | with_reducible assumption
    | intro _
    | with_reducible apply State.Keeps.activate
    | with_reducible apply State.Keeps.discard
    | split

theorem State.Keeps.pwrCtl {s0 s : State} (h0 : s0.Keeps s) {p : Nat} {w : Word} {vt : Nat} : s0.Keeps (s.pwrCtl p w vt) := by
  unfold State.pwrCtl
  extract_lets h s1
  have h1 : s0.Keeps s1 := by
    with_reducible refine State.Keeps.ite ?_ h0
    exact h0.onHall fun H hH => by exact hH.update rfl rfl rfl
  exact State.Keeps.ite h1.wakeRelease h1


theorem State.Keeps.errWrite {s0 s : State} (h0 : s0.Keeps s) {h : HallId} {o : Nat} {w : Word} : s0.Keeps (s.errWrite h o w) := by
  unfold State.errWrite
  try dsimp only
  repeat' first
    | with_reducible assumption
    | intro _
    | with_reducible apply State.Keeps.onHall
    | with_reducible apply State.Keeps.pinCheck
    | with_reducible apply State.Keeps.hallReset
    | with_reducible apply Hall.Wf.passQueue
    | split
    | refine Hall.Wf.update ?_ rfl rfl rfl

theorem State.Keeps.rotateWrite {s0 s : State} (h0 : s0.Keeps s) {h : HallId} {w : Word} : s0.Keeps (s.rotateWrite h w) := by
  unfold State.rotateWrite
  extract_lets d last s1
  have hl : ∀ n s, s0.Keeps s → s0.Keeps (last n s) := fun n s h0 => h0.onHall fun H hH => by exact hH.update rfl rfl rfl
  clear_value last
  have h1 : s0.Keeps s1 := h0.onHall fun H hH => by exact hH.update rfl rfl rfl
  clear_value s1
  with_reducible refine State.Keeps.ite h1 (State.Keeps.ite (hl _ _ h1) ?_)
  have h2 : s0.Keeps (s1.rotate h d).2 := h1.rotate
  split
  · rename_i e; rw [e] at h2; exact hl _ _ h2
  · rename_i e; rw [e] at h2; exact hl _ _ h2
  · rename_i e; rw [e] at h2; exact hl _ _ h2
  · rename_i e; rw [e] at h2; exact h2


theorem State.Keeps.micWrite {s0 s : State} (h0 : s0.Keeps s) {p o : Nat} {w : Word} : s0.Keeps (s.micWrite p o w) := by
  unfold State.micWrite
  try dsimp only
  repeat' first
    | with_reducible assumption
    | intro _
    | with_reducible apply State.Keeps.logPort
    | split
    | refine Hall.Wf.update ?_ rfl rfl rfl
    | refine State.Keeps.update ?_ (Nat.le_refl _)

theorem State.Keeps.vstWrite {s0 s : State} (h0 : s0.Keeps s) {w : Word} : s0.Keeps (s.vstWrite w) := by
  unfold State.vstWrite
  try dsimp only
  repeat' first
    | with_reducible assumption
    | intro _
    | split
    | refine Hall.Wf.update ?_ rfl rfl rfl
    | refine State.Keeps.update ?_ (Nat.le_refl _)

theorem State.Keeps.txWrite {s0 s : State} (h0 : s0.Keeps s) {p t : Nat} {w : Word} : s0.Keeps (s.txWrite p t w) := by
  unfold State.txWrite
  try dsimp only
  repeat' first
    | with_reducible assumption
    | intro _
    | with_reducible apply State.Keeps.logPort
    | with_reducible apply State.Keeps.onHall
    | with_reducible apply Hall.Wf.txConfigure
    | split

theorem State.Keeps.guardedWrite {s0 s : State} (h0 : s0.Keeps s) {p idx blk o : Nat} {w : Word} {vt : Nat} :
    s0.Keeps (s.guardedWrite p idx blk o w vt) := by
  unfold State.guardedWrite
  extract_lets h
  split
  · exact h0.imgCtl
  · exact h0.onHall fun H hH => by exact hH.swpUpd rfl
  · with_reducible refine State.Keeps.ite h0.pwrCtl (State.Keeps.ite ?_ h0.powerReq)
    exact h0.pkg _
  · exact h0.errWrite
  · with_reducible refine State.Keeps.ite h0.rotateWrite (h0.onHall fun H hH => ?_)
    exact hH.update rfl rfl rfl
  · exact h0.cntWrite
  · exact h0.micWrite
  · exact h0.vstWrite
  · exact h0.txWrite
  · with_reducible refine State.Keeps.onHall h0 fun H hH => Hall.Wf.onGal hH ?_
    exact fun G hG => hG
  · exact h0.onHall fun H hH => hH.stairWrite
  · exact h0


theorem State.Keeps.unlockWrite {s0 s : State} (h0 : s0.Keeps s) {p blk : Nat} {w : Word} : s0.Keeps (s.unlockWrite p blk w) := by
  unfold State.unlockWrite
  try dsimp only
  repeat' first
    | with_reducible assumption
    | intro _
    | with_reducible apply State.Keeps.onPort
    | with_reducible apply State.Keeps.logPort
    | with_reducible apply State.Keeps.onHall
    | split
    | refine Hall.Wf.update ?_ rfl rfl rfl

theorem State.Keeps.regWrite {s0 s : State} (h0 : s0.Keeps s) {p addr : Nat} {w : Word} {vt : Nat} : s0.Keeps (s.regWrite p addr w vt) := by
  unfold State.regWrite
  extract_lets h
  split
  · exact h0.refuseWord
  · extract_lets armed s1
    have h1 : s0.Keeps s1 := h0.onPort fun P hP => hP
    clear_value s1
    with_reducible refine State.Keeps.ite h0.unlockWrite (State.Keeps.ite (State.Keeps.ite h1.guardedWrite (h1.logPort.onHall fun H hH => ?_))
      (State.Keeps.ite (h1.onHall fun H hH => hH.snapshot) h1))
    exact hH.update rfl rfl rfl


theorem State.Keeps.unlockExpired {s0 s : State} (h0 : s0.Keeps s) {p blk : Nat} : s0.Keeps (s.unlockExpired p blk) := by
  unfold State.unlockExpired
  try dsimp only
  repeat' first
    | with_reducible assumption
    | intro _
    | with_reducible apply State.Keeps.onPort
    | with_reducible apply State.Keeps.logPort
    | with_reducible apply State.Keeps.onHall
    | split
    | refine Hall.Wf.update ?_ rfl rfl rfl

theorem State.Keeps.regRead {s0 s : State} (h0 : s0.Keeps s) {p addr : Nat} : s0.Keeps ((s.regRead p addr).2) := by
  unfold State.regRead
  try dsimp only
  repeat' first
    | with_reducible assumption
    | intro _
    | with_reducible apply State.Keeps.refuseWord
    | with_reducible apply State.Keeps.onHall
    | split
    | refine Hall.Wf.update ?_ rfl rfl rfl

theorem State.Keeps.hostWord {s0 s : State} (h0 : s0.Keeps s) {p addr : Nat} {w : Word} {vt : Nat} : s0.Keeps (s.hostWord p addr w vt) := by
  unfold State.hostWord
  exact State.Keeps.ite h0.regWrite h0


theorem State.Keeps.hostRead {s0 s : State} (h0 : s0.Keeps s) {p addr : Nat} : s0.Keeps (s.hostRead p addr) := by
  unfold State.hostRead
  try dsimp only
  repeat' first
    | with_reducible assumption
    | intro _
    | with_reducible apply State.Keeps.regRead
    | split

theorem State.Keeps.foldl_snd {s0 : State} {α β : Type} {f : β × State → α → β × State}
    (hf : ∀ a x, s0.Keeps a.2 → s0.Keeps (f a x).2) : ∀ (l : List α) {a : β × State}, s0.Keeps a.2 → s0.Keeps (l.foldl f a).2
  | [], _, h => h
  | x :: l, a, h => State.Keeps.foldl_snd hf l (hf a x h)


theorem State.Keeps.regrd {s0 s : State} (h0 : s0.Keeps s) {h : HallId} {p : Nat} {c : Capsule} : s0.Keeps (s.regrd h p c).1 := by
  unfold State.regrd
  extract_lets pl a n
  split
  · exact h0
  · with_reducible refine State.Keeps.foldl_snd (fun r i hr => ?_) _ h0
    exact hr.regRead

theorem State.Keeps.regwr {s0 s : State} (h0 : s0.Keeps s) {h : HallId} {p : Nat} {c : Capsule} : s0.Keeps (s.regwr h p c).1 := by
  unfold State.regwr
  extract_lets pl a n
  split
  · exact h0
  · with_reducible refine State.Keeps.foldl (fun s i hs => ?_) _ h0
    exact State.Keeps.ite hs.regWrite hs

end Sys2Proof.Machine
end

