-- ==== Sys2Proof/Laws/Exec.lean ====
section
/-! SUPPORT. Every command's effect respects `State.Keeps`: one lemma per constructor of Instr. -/

namespace Sys2Proof.Machine

theorem execPorNAssert_keeps {ns : Nat} {s : State} {u : State} (ht : execPorNAssert ns s = .next u) : s.Keeps u := by
  cases ht
  exact (State.Keeps.refl _).porLow

theorem execPorNRelease_keeps {straps : Straps} {tb : Nat} {s : State} {u : State} (ht : execPorNRelease straps tb s = .next u) : s.Keeps u := by
  cases ht
  exact (State.Keeps.refl _).release

theorem execSupplyOutOfRange_keeps {s : State} {u : State} (ht : execSupplyOutOfRange s = .next u) : s.Keeps u := by
  cases ht
  exact (State.Keeps.refl _).packageReset

theorem execPgRise_keeps {h : HallId} {s : State} {u : State} (ht : execPgRise h s = .next u) : s.Keeps u := by
  cases ht
  repeat' first
    | with_reducible assumption
    | intro _
    | with_reducible exact State.Keeps.refl _
    | with_reducible apply State.Keeps.whole
    | with_reducible apply State.Keeps.pgRise

theorem execPgFall_keeps {h : HallId} {vt : Nat} {planned : Bool} {s : State} {u : State}
    (ht : execPgFall h vt planned s = .next u) : s.Keeps u := by
  cases ht
  repeat' first
    | with_reducible assumption
    | intro _
    | with_reducible exact State.Keeps.refl _
    | with_reducible apply State.Keeps.whole
    | with_reducible apply State.Keeps.atVt
    | with_reducible apply State.Keeps.pgFall

theorem execFirmwareLoad_keeps {flash : Flash} {s : State} {u : State} (ht : execFirmwareLoad flash s = .next u) : s.Keeps u := by
  cases ht
  exact (State.Keeps.refl _).live fun s hs => hs.firmwareLoad

theorem execDramTrainingDone_keeps {h : HallId} {found : TrainedChannels} {rate density ranks : Nat} {s : State} {u : State}
    (ht : execDramTrainingDone h found rate density ranks s = .next u) : s.Keeps u := by
  cases ht
  exact (State.Keeps.refl _).live fun s hs => hs.trainingDone

theorem execMemoryFillDone_keeps {h : HallId} {what : FillTarget} {s : State} {u : State}
    (ht : execMemoryFillDone h what s = .next u) : s.Keeps u := by
  cases ht
  exact (State.Keeps.refl _).live fun s hs => hs.fillDone

theorem execFlashImageLoad_keeps {flash : Flash} {s : State} {u : State} (ht : execFlashImageLoad flash s = .next u) : s.Keeps u := by
  cases ht
  exact (State.Keeps.refl _).live fun s hs => hs.flashImageLoad

theorem execHallBAcceptTimeout_keeps {s : State} {u : State} (ht : execHallBAcceptTimeout s = .next u) : s.Keeps u := by
  cases ht
  exact (State.Keeps.refl _).live fun s hs => hs.acceptFailed

theorem execActivate_keeps {p : Nat} {s : State} {u : State} (ht : execActivate p s = .next u) : s.Keeps u := by
  cases ht
  exact (State.Keeps.refl _).live fun s hs => hs.hostWord

theorem execDiscard_keeps {p : Nat} {s : State} {u : State} (ht : execDiscard p s = .next u) : s.Keeps u := by
  cases ht
  exact (State.Keeps.refl _).live fun s hs => hs.hostWord

theorem execActivationAckTimeout_keeps {h : HallId} {s : State} {u : State} (ht : execActivationAckTimeout h s = .next u) : s.Keeps u := by
  cases ht
  exact (State.Keeps.refl _).live fun s hs => hs.ackTimeout

theorem execJtagBypass_keeps {s : State} {u : State} (ht : execJtagBypass s = .next u) : s.Keeps u := by
  cases ht
  exact ⟨rfl, Nat.le_refl _, fun _ => ⟨fun _ => Nat.zero_lt_two, fun h => nomatch h⟩, id⟩

theorem execJtagIdcode_keeps {s : State} {u : State} (ht : execJtagIdcode s = .next u) : s.Keeps u := by
  cases ht
  exact ⟨rfl, Nat.le_refl _, fun _ => ⟨fun _ => Nat.one_lt_two, fun h => nomatch h⟩, id⟩

theorem execJtagSamplePreload_keeps {pins : List Bool} {s : State} {u : State} (ht : execJtagSamplePreload pins s = .next u) : s.Keeps u := by
  cases ht
  refine ⟨rfl, Nat.le_refl _, fun _ => ?_, id⟩
  dsimp only [State.TapClosed]
  split
  · exact ⟨fun _ => Nat.zero_lt_two, fun h => nomatch h⟩
  · exact ⟨fun h => absurd h ‹_›, fun h => nomatch h⟩

theorem execJtagExtest_keeps {s : State} {u : State} (ht : execJtagExtest s = .next u) : s.Keeps u := by
  cases ht
  refine ⟨rfl, Nat.le_refl _, fun _ => ?_, id⟩
  dsimp only [State.TapClosed]
  split
  · exact ⟨fun _ => Nat.zero_lt_two, fun h => nomatch h⟩
  · exact ⟨fun h => absurd h ‹_›, fun _ => rfl⟩

theorem execJtagTrst_keeps {s : State} {u : State} (ht : execJtagTrst s = .next u) : s.Keeps u := by
  cases ht
  exact ⟨rfl, Nat.le_refl _, fun _ => ⟨fun _ => Nat.one_lt_two, fun h => nomatch h⟩, id⟩

theorem execReference_keeps {h : HallId} {src : RefSource} {tb : Nat} {s : State} {u : State}
    (ht : execReference h src tb s = .next u) : s.Keeps u := by
  cases ht
  exact (State.Keeps.refl _).live fun s hs => hs.reference

theorem execReferenceLost_keeps {h : HallId} {tb : Nat} {s : State} {u : State} (ht : execReferenceLost h tb s = .next u) : s.Keeps u := by
  cases ht
  repeat' first
    | with_reducible assumption
    | intro _
    | with_reducible exact State.Keeps.refl _
    | with_reducible apply State.Keeps.live
    | with_reducible apply State.Keeps.ifUp
    | with_reducible apply State.Keeps.referenceLost

theorem execHoldoverSweep_keeps {h : HallId} {tb : Nat} {s : State} {u : State} (ht : execHoldoverSweep h tb s = .next u) : s.Keeps u := by
  cases ht
  exact (State.Keeps.refl _).live fun s hs => hs.inHall fun H hH => hH.holdoverSweep

theorem execGeneratorSweep_keeps {h : HallId} {tb : Nat} {s : State} {u : State} (ht : execGeneratorSweep h tb s = .next u) : s.Keeps u := by
  cases ht
  repeat' first
    | with_reducible assumption
    | intro _
    | with_reducible exact State.Keeps.refl _
    | with_reducible apply State.Keeps.live
    | with_reducible apply State.Keeps.ifUp
    | with_reducible apply State.Keeps.generatorSweep

theorem execTickBoundary_keeps {h : HallId} {tb : Nat} {s : State} {u : State} (ht : execTickBoundary h tb s = .next u) : s.Keeps u := by
  cases ht
  repeat' first
    | with_reducible assumption
    | intro _
    | with_reducible exact State.Keeps.refl _
    | with_reducible apply State.Keeps.live
    | with_reducible apply State.Keeps.ifUp
    | with_reducible apply State.Keeps.tickBoundary
    | with_reducible apply State.Keeps.flightEntry

theorem execStrikeReset_keeps {h : HallId} {g c : Nat} {s : State} {u : State} (ht : execStrikeReset h g c s = .next u) : s.Keeps u := by
  cases ht
  with_reducible refine State.Keeps.live (State.Keeps.refl _) fun s hs => State.Keeps.inHall hs fun H hH => Hall.Wf.onGal hH fun G hG => ?_
  unfold Gallery.strikeReset
  split
  · exact hG
  · exact hG

theorem execFsyncOutPulseEnd_keeps {n : Nat} {tb : Nat} {s : State} {u : State} (ht : execFsyncOutPulseEnd n tb s = .next u) : s.Keeps u := by
  cases ht
  exact (State.Keeps.refl _).live fun s hs => hs.inHall fun H hH => hH.endPulse

theorem execSlotDeferredIssue_keeps {h : HallId} {part slot : Nat} {_tb : Nat} {s : State} {u : State}
    (ht : execSlotDeferredIssue h part slot _tb s = .next u) : s.Keeps u := by
  cases ht
  repeat' first
    | with_reducible assumption
    | intro _
    | with_reducible exact State.Keeps.refl _
    | with_reducible apply State.Keeps.live
    | with_reducible apply State.Keeps.inHall
    | with_reducible apply Hall.Wf.deferredIssue
    | with_reducible apply Hall.Wf.after
    | with_reducible apply Hall.Wf.admitWaiting

theorem execWarmingEnd_keeps {h : HallId} {s : State} {u : State} (ht : execWarmingEnd h s = .next u) : s.Keeps u := by
  cases ht
  exact (State.Keeps.refl _).live fun s hs => hs.inHall fun H hH => hH.endWarming

theorem execStairTrainingDone_keeps {goodA goodB : BitVec 32} {s : State} {u : State}
    (ht : execStairTrainingDone goodA goodB s = .next u) : s.Keeps u := by
  cases ht
  exact (State.Keeps.refl _).live fun s hs => hs.stairTrained

theorem execStairSync_keeps {h : HallId} {m : StairMsg} {s : State} {u : State} (ht : execStairSync h m s = .next u) : s.Keeps u := by
  cases ht
  exact (State.Keeps.refl _).live fun s hs => hs.stairSync

theorem execStairMove_keeps {h : HallId} {m : StairMsg} {s : State} {u : State} (ht : execStairMove h m s = .next u) : s.Keeps u := by
  cases ht
  exact (State.Keeps.refl _).live fun s hs => hs.stairMove

theorem execStairCompare_keeps {h : HallId} {m : StairMsg} {s : State} {u : State} (ht : execStairCompare h m s = .next u) : s.Keeps u := by
  cases ht
  exact (State.Keeps.refl _).live fun s hs => hs.stairCompare

theorem execStairControl_keeps {h : HallId} {m : StairMsg} {means : ControlMsg} {s : State} {u : State}
    (ht : execStairControl h m means s = .next u) : s.Keeps u := by
  cases ht
  exact (State.Keeps.refl _).live fun s hs => hs.stairControl

theorem execStairBeat_keeps {h : HallId} {m : StairMsg} {tb : Nat} {s : State} {u : State}
    (ht : execStairBeat h m tb s = .next u) : s.Keeps u := by
  cases ht
  exact (State.Keeps.refl _).live fun s hs => hs.stairBeat

theorem execBeatSend_keeps {h : HallId} {s : State} {u : State} (ht : execBeatSend h s = .next u) : s.Keeps u := by
  cases ht
  exact (State.Keeps.refl _).live fun s hs => hs.beatSend

theorem execPartnerLost_keeps {h : HallId} {s : State} {u : State} (ht : execPartnerLost h s = .next u) : s.Keeps u := by
  cases ht
  exact (State.Keeps.refl _).live fun s hs => hs.missBeats

theorem execWeightBankError_keeps {h : HallId} {c b : Nat} {sidecar : Bool} {cyc : Nat} {s : State} {u : State}
    (ht : execWeightBankError h c b sidecar cyc s = .next u) : s.Keeps u := by
  cases ht
  exact (State.Keeps.refl _).live fun s hs => hs.weightBankUe

theorem execFrameAreaRequest_keeps {p g : Nat} {w : Word} {s : State} {u : State} (ht : execFrameAreaRequest p g w s = .next u) : s.Keeps u := by
  cases ht
  exact (State.Keeps.refl _).live fun s hs => hs.hostWord

theorem execMr4Read_keeps {h : HallId} {channel : Nat} {hot : Bool} {s : State} {u : State}
    (ht : execMr4Read h channel hot s = .next u) : s.Keeps u := by
  cases ht
  exact (State.Keeps.refl _).live fun s hs => hs.mr4Read

theorem execDqsTracking_keeps {h : HallId} {s : State} {u : State} (ht : execDqsTracking h s = .next u) : s.Keeps u := by
  cases ht
  exact (State.Keeps.refl _).live fun s hs => hs.dqsTracking

theorem execReencryptStep_keeps {h : HallId} {s : State} {u : State} (ht : execReencryptStep h s = .next u) : s.Keeps u := by
  cases ht
  repeat' first
    | with_reducible assumption
    | intro _
    | with_reducible exact State.Keeps.refl _
    | with_reducible apply State.Keeps.live
    | with_reducible apply State.Keeps.ifUp
    | with_reducible apply State.Keeps.sweepStep

theorem execScrubWalkerStep_keeps {h : HallId} {found : ScrubFind} {s : State} {u : State}
    (ht : execScrubWalkerStep h found s = .next u) : s.Keeps u := by
  cases ht
  exact (State.Keeps.refl _).live fun s hs => hs.walkerStep

theorem execScrubPassEnd_keeps {h : HallId} {read corrected marked : Nat} {cut : Bool} {s : State} {u : State}
    (ht : execScrubPassEnd h read corrected marked cut s = .next u) : s.Keeps u := by
  cases ht
  exact (State.Keeps.refl _).live fun s hs => hs.inHall fun H hH => hH.passEnd

theorem execPassGo_keeps {p : Nat} {w : Word} {s : State} {u : State} (ht : execPassGo p w s = .next u) : s.Keeps u := by
  cases ht
  exact (State.Keeps.refl _).live fun s hs => hs.hostWord

theorem execCeLogClear_keeps {p : Nat} {s : State} {u : State} (ht : execCeLogClear p s = .next u) : s.Keeps u := by
  cases ht
  exact (State.Keeps.refl _).live fun s hs => hs.hostWord

theorem execCorrectableError_keeps {h : HallId} {hits : List CeHit} {s : State} {u : State}
    (ht : execCorrectableError h hits s = .next u) : s.Keeps u := by
  cases ht
  exact (State.Keeps.refl _).live fun s hs => hs.correctableError

theorem execUncorrectableError_keeps {h : HallId} {place : UePlace} {cyc : Nat} {s : State} {u : State}
    (ht : execUncorrectableError h place cyc s = .next u) : s.Keeps u := by
  cases ht
  exact (State.Keeps.refl _).live fun s hs => hs.uncorrectable

theorem execDomainResetRelease_keeps {h : HallId} {g : Nat} {core : Option Nat} {passed : Bool} {s : State} {u : State}
    (ht : execDomainResetRelease h g core passed s = .next u) : s.Keeps u := by
  cases ht
  exact (State.Keeps.refl _).live fun s hs => hs.inHall fun H hH => hH.domainRelease

theorem execFaultPinHoldEnd_keeps {h : HallId} {_tb : Nat} {s : State} {u : State} (ht : execFaultPinHoldEnd h _tb s = .next u) : s.Keeps u := by
  cases ht
  exact (State.Keeps.refl _).live fun s hs => hs.pinHoldEnd

theorem execWatchdogExpire_keeps {h : HallId} {s : State} {u : State} (ht : execWatchdogExpire h s = .next u) : s.Keeps u := by
  cases ht
  exact (State.Keeps.refl _).live fun s hs => hs.resetFor

theorem execHallResetWrite_keeps {p : Nat} {w : Word} {s : State} {u : State} (ht : execHallResetWrite p w s = .next u) : s.Keeps u := by
  cases ht
  exact (State.Keeps.refl _).live fun s hs => hs.hostWord

theorem execAudioFrameBoundary_keeps {vt : Nat} {f : AudioFrame} {s : State} {u : State}
    (ht : execAudioFrameBoundary vt f s = .next u) : s.Keeps u := by
  cases ht
  repeat' first
    | with_reducible assumption
    | intro _
    | with_reducible exact State.Keeps.refl _
    | with_reducible apply State.Keeps.live
    | with_reducible apply State.Keeps.atVt
    | with_reducible apply State.Keeps.audioBoundary

theorem execCandidateReject_keeps {c : Nat} {s : State} {u : State} (ht : execCandidateReject c s = .next u) : s.Keeps u := by
  cases ht
  exact (State.Keeps.refl _).live fun s hs => hs.candidateReject

theorem execIdleDescent_keeps {vt : Nat} {s : State} {u : State} (ht : execIdleDescent vt s = .next u) : s.Keeps u := by
  cases ht
  repeat' first
    | with_reducible assumption
    | intro _
    | with_reducible exact State.Keeps.refl _
    | with_reducible apply State.Keeps.live
    | with_reducible apply State.Keeps.atVt
    | with_reducible apply State.Keeps.descentStep

theorem execMicDeferTimeout_keeps {vt : Nat} {s : State} {u : State} (ht : execMicDeferTimeout vt s = .next u) : s.Keeps u := by
  cases ht
  repeat' first
    | with_reducible assumption
    | intro _
    | with_reducible exact State.Keeps.refl _
    | with_reducible apply State.Keeps.live
    | with_reducible apply State.Keeps.atVt
    | with_reducible apply State.Keeps.micDeferTimeout

theorem execDescend_keeps {p : Nat} {w : Word} {s : State} {u : State} (ht : execDescend p w s = .next u) : s.Keeps u := by
  cases ht
  exact (State.Keeps.refl _).live fun s hs => hs.hostWord

theorem execCaptureMirrorUpdate_keeps {vt : Nat} {s : State} {u : State} (ht : execCaptureMirrorUpdate vt s = .next u) : s.Keeps u := by
  cases ht
  repeat' first
    | with_reducible assumption
    | intro _
    | with_reducible exact State.Keeps.refl _
    | with_reducible apply State.Keeps.live
    | with_reducible apply State.Keeps.atVt
    | with_reducible apply State.Keeps.mirrorUpdate

theorem execPresenceFrame_keeps {vt : Nat} {f : PresenceFrame} {s : State} {u : State}
    (ht : execPresenceFrame vt f s = .next u) : s.Keeps u := by
  cases ht
  repeat' first
    | with_reducible assumption
    | intro _
    | with_reducible exact State.Keeps.refl _
    | with_reducible apply State.Keeps.live
    | with_reducible apply State.Keeps.atVt
    | with_reducible apply State.Keeps.presenceFrame

theorem execModeReq_keeps {p : Nat} {w : Word} {s : State} {u : State} (ht : execModeReq p w s = .next u) : s.Keeps u := by
  cases ht
  exact (State.Keeps.refl _).live fun s hs => hs.hostWord

theorem execMicCalWrite_keeps {p m : Nat} {w : Word} {s : State} {u : State} (ht : execMicCalWrite p m w s = .next u) : s.Keeps u := by
  cases ht
  exact (State.Keeps.refl _).live fun s hs => hs.hostWord

theorem execMicBlockWrite_keeps {array vt : Nat} {s : State} {u : State} (ht : execMicBlockWrite array vt s = .next u) : s.Keeps u := by
  cases ht
  exact (State.Keeps.refl _).live fun s hs => (hs.atVt).micBlockWrite

theorem execFlightEntryCopyDone_keeps {vt : Nat} {s : State} {u : State} (ht : execFlightEntryCopyDone vt s = .next u) : s.Keeps u := by
  cases ht
  repeat' first
    | with_reducible assumption
    | intro _
    | with_reducible exact State.Keeps.refl _
    | with_reducible apply State.Keeps.live
    | with_reducible apply State.Keeps.atVt
    | with_reducible apply State.Keeps.entryDone

theorem execFrameStart_keeps {h : HallId} {port : Nat} {head : PacketHead} {fnum : Nat} {us : Nat} {sincePulse : Nat} {_tb : Nat} {s : State} {u : State}
    (ht : execFrameStart h port head fnum us sincePulse _tb s = .next u) : s.Keeps u := by
  cases ht
  exact (State.Keeps.refl _).live fun s hs => hs.frameStart

theorem execLinePacket_keeps {h : HallId} {port vc dt : Nat} {pixels : List Nat} {crcOk : Bool} {hdrCorr : Bool} {s : State} {u : State}
    (ht : execLinePacket h port vc dt pixels crcOk hdrCorr s = .next u) : s.Keeps u := by
  cases ht
  repeat' first
    | with_reducible assumption
    | intro _
    | with_reducible exact State.Keeps.refl _
    | with_reducible apply State.Keeps.live
    | with_reducible apply State.Keeps.inRx
    | with_reducible apply Hall.Wf.linePacket

theorem execEmbeddedDataPacket_keeps {h : HallId} {port : Nat} {head : PacketHead} {dt : Nat} {data : Payload} {s : State} {u : State}
    (ht : execEmbeddedDataPacket h port head dt data s = .next u) : s.Keeps u := by
  cases ht
  repeat' first
    | with_reducible assumption
    | intro _
    | with_reducible exact State.Keeps.refl _
    | with_reducible apply State.Keeps.live
    | with_reducible apply State.Keeps.inRx
    | with_reducible apply Hall.Wf.embedded

theorem execIgnoredShortPacket_keeps {h : HallId} {port : Nat} {head : PacketHead} {dt : Nat} {s : State} {u : State}
    (ht : execIgnoredShortPacket h port head dt s = .next u) : s.Keeps u := by
  cases ht
  repeat' first
    | with_reducible assumption
    | intro _
    | with_reducible exact State.Keeps.refl _
    | with_reducible apply State.Keeps.live
    | with_reducible apply State.Keeps.inRx
    | with_reducible apply Hall.Wf.rxActive
    | with_reducible apply Hall.Wf.header
    | with_reducible refine State.Keeps.ite ?_ ?_
    | with_reducible refine Hall.Wf.ite ?_ ?_

theorem execFrameEnd_keeps {h : HallId} {port : Nat} {head : PacketHead} {bursts : BitVec 4} {s : State} {u : State}
    (ht : execFrameEnd h port head bursts s = .next u) : s.Keeps u := by
  cases ht
  repeat' first
    | with_reducible assumption
    | intro _
    | with_reducible exact State.Keeps.refl _
    | with_reducible apply State.Keeps.live
    | with_reducible apply State.Keeps.inRx
    | with_reducible apply Hall.Wf.frameEnd

theorem execFrameTimeout_keeps {h : HallId} {port vc : Nat} {us : Nat} {s : State} {u : State}
    (ht : execFrameTimeout h port vc us s = .next u) : s.Keeps u := by
  cases ht
  repeat' first
    | with_reducible assumption
    | intro _
    | with_reducible exact State.Keeps.refl _
    | with_reducible apply State.Keeps.live
    | with_reducible apply State.Keeps.inCams
    | with_reducible apply Hall.Wf.frameTimeout

theorem execDegradeWritesDone_keeps {h : HallId} {port : Nat} {s : State} {u : State}
    (ht : execDegradeWritesDone h port s = .next u) : s.Keeps u := by
  cases ht
  repeat' first
    | with_reducible assumption
    | intro _
    | with_reducible exact State.Keeps.refl _
    | with_reducible apply State.Keeps.live
    | with_reducible apply State.Keeps.inCams
    | with_reducible apply Hall.Wf.degradeDone

theorem execIspPieceStart_keeps {h : HallId} {s : State} {u : State} (ht : execIspPieceStart h s = .next u) : s.Keeps u := by
  cases ht
  repeat' first
    | with_reducible assumption
    | intro _
    | with_reducible exact State.Keeps.refl _
    | with_reducible apply State.Keeps.live
    | with_reducible apply State.Keeps.inCams
    | with_reducible apply Hall.Wf.pieceStart

theorem execIspPieceDone_keeps {h : HallId} {_tb : Nat} {s : State} {u : State} (ht : execIspPieceDone h _tb s = .next u) : s.Keeps u := by
  cases ht
  repeat' first
    | with_reducible assumption
    | intro _
    | with_reducible exact State.Keeps.refl _
    | with_reducible apply State.Keeps.live
    | with_reducible apply State.Keeps.inCams
    | with_reducible apply Hall.Wf.pieceDone
    | with_reducible apply Hall.Wf.after

theorem execSensorWriteDone_keeps {h : HallId} {ctrl : Nat} {ack : Bool} {s : State} {u : State}
    (ht : execSensorWriteDone h ctrl ack s = .next u) : s.Keeps u := by
  cases ht
  repeat' first
    | with_reducible assumption
    | intro _
    | with_reducible exact State.Keeps.refl _
    | with_reducible apply State.Keeps.live
    | with_reducible apply State.Keeps.inCams
    | with_reducible apply Hall.Wf.sensorWrite

theorem execSensorBusTimeout_keeps {h : HallId} {ctrl : Nat} {s : State} {u : State}
    (ht : execSensorBusTimeout h ctrl s = .next u) : s.Keeps u := by
  cases ht
  repeat' first
    | with_reducible assumption
    | intro _
    | with_reducible exact State.Keeps.refl _
    | with_reducible apply State.Keeps.live
    | with_reducible apply State.Keeps.inCams
    | with_reducible apply Hall.Wf.busTimeout

theorem execParamCopyDone_keeps {h : HallId} {ctx : Nat} {s : State} {u : State} (ht : execParamCopyDone h ctx s = .next u) : s.Keeps u := by
  cases ht
  repeat' first
    | with_reducible assumption
    | intro _
    | with_reducible exact State.Keeps.refl _
    | with_reducible apply State.Keeps.live
    | with_reducible apply State.Keeps.inCams
    | with_reducible apply Hall.Wf.copyDone

theorem execHeaderUncorrectable_keeps {h : HallId} {port : Nat} {vc : Nat} {s : State} {u : State}
    (ht : execHeaderUncorrectable h port vc s = .next u) : s.Keeps u := by
  cases ht
  repeat' first
    | with_reducible assumption
    | intro _
    | with_reducible exact State.Keeps.refl _
    | with_reducible apply State.Keeps.live
    | with_reducible apply State.Keeps.inRx
    | with_reducible apply Hall.Wf.headerLost

theorem execUndeclaredPacket_keeps {h : HallId} {port : Nat} {head : PacketHead} {dt : Nat} {s : State} {u : State}
    (ht : execUndeclaredPacket h port head dt s = .next u) : s.Keeps u := by
  cases ht
  repeat' first
    | with_reducible assumption
    | intro _
    | with_reducible exact State.Keeps.refl _
    | with_reducible apply State.Keeps.live
    | with_reducible apply State.Keeps.inRx
    | with_reducible apply Hall.Wf.undeclaredPacket

theorem execSotError_keeps {h : HallId} {port lane : Nat} {s : State} {u : State} (ht : execSotError h port lane s = .next u) : s.Keeps u := by
  cases ht
  repeat' first
    | with_reducible assumption
    | intro _
    | with_reducible exact State.Keeps.refl _
    | with_reducible apply State.Keeps.live
    | with_reducible apply State.Keeps.inRx
    | with_reducible apply Hall.Wf.sotError

theorem execHostFeedRecord_keeps {h : HallId} {port : Nat} {head : PacketHead} {packet : FeedPacket} {s : State} {u : State}
    (ht : execHostFeedRecord h port head packet s = .next u) : s.Keeps u := by
  cases ht
  repeat' first
    | with_reducible assumption
    | intro _
    | with_reducible exact State.Keeps.refl _
    | with_reducible apply State.Keeps.live
    | with_reducible apply State.Keeps.inRx
    | with_reducible apply Hall.Wf.undeclaredPacket
    | with_reducible apply Hall.Wf.rxActive
    | with_reducible apply Hall.Wf.header
    | with_reducible apply State.Keeps.feedRecord
    | with_reducible apply Hall.Wf.feedCrc
    | with_reducible refine State.Keeps.ite ?_ ?_

theorem execModelPartDone_keeps {h : HallId} {model : Nat} {fromFlash : List Byte} {s : State} {u : State}
    (ht : execModelPartDone h model fromFlash s = .next u) : s.Keeps u := by
  cases ht
  repeat' first
    | with_reducible assumption
    | intro _
    | with_reducible exact State.Keeps.refl _
    | with_reducible apply State.Keeps.live
    | with_reducible apply State.Keeps.ifUp
    | with_reducible apply State.Keeps.partDone

theorem execBindSession_keeps {p : Nat} {s : State} {u : State} (ht : execBindSession p s = .next u) : s.Keeps u := by
  cases ht
  repeat' first
    | with_reducible assumption
    | intro _
    | with_reducible exact State.Keeps.refl _
    | with_reducible apply State.Keeps.live
    | with_reducible apply State.Keeps.startCapsule
    | with_reducible apply State.Keeps.bindSession

theorem execBindStream_keeps {p : Nat} {s : State} {u : State} (ht : execBindStream p s = .next u) : s.Keeps u := by
  cases ht
  repeat' first
    | with_reducible assumption
    | intro _
    | with_reducible exact State.Keeps.refl _
    | with_reducible apply State.Keeps.live
    | with_reducible apply State.Keeps.startCapsule
    | with_reducible apply State.Keeps.bindStream

theorem execBindFeedRing_keeps {p : Nat} {s : State} {u : State} (ht : execBindFeedRing p s = .next u) : s.Keeps u := by
  cases ht
  repeat' first
    | with_reducible assumption
    | intro _
    | with_reducible exact State.Keeps.refl _
    | with_reducible apply State.Keeps.live
    | with_reducible apply State.Keeps.startCapsule
    | with_reducible apply State.Keeps.bindRing

theorem execUnbindSession_keeps {p : Nat} {s : State} {u : State} (ht : execUnbindSession p s = .next u) : s.Keeps u := by
  cases ht
  repeat' first
    | with_reducible assumption
    | intro _
    | with_reducible exact State.Keeps.refl _
    | with_reducible apply State.Keeps.live
    | with_reducible apply State.Keeps.startCapsule
    | with_reducible apply State.Keeps.unbindSession

theorem execUnbindStream_keeps {p : Nat} {s : State} {u : State} (ht : execUnbindStream p s = .next u) : s.Keeps u := by
  cases ht
  repeat' first
    | with_reducible assumption
    | intro _
    | with_reducible exact State.Keeps.refl _
    | with_reducible apply State.Keeps.live
    | with_reducible apply State.Keeps.startCapsule
    | with_reducible apply Hall.Wf.unbindStream
    | with_reducible apply State.Keeps.unbindStream

theorem execUnbindFeedRing_keeps {p : Nat} {s : State} {u : State} (ht : execUnbindFeedRing p s = .next u) : s.Keeps u := by
  cases ht
  repeat' first
    | with_reducible assumption
    | intro _
    | with_reducible exact State.Keeps.refl _
    | with_reducible apply State.Keeps.live
    | with_reducible apply State.Keeps.startCapsule
    | with_reducible apply Hall.Wf.unbindRing
    | with_reducible apply State.Keeps.unbindRing

theorem execSubmitCreate_keeps {p : Nat} {s : State} {u : State} (ht : execSubmitCreate p s = .next u) : s.Keeps u := by
  cases ht
  repeat' first
    | with_reducible assumption
    | intro _
    | with_reducible exact State.Keeps.refl _
    | with_reducible apply State.Keeps.live
    | with_reducible apply State.Keeps.startCapsule
    | with_reducible apply State.Keeps.submitCreate

theorem execSubmitResume_keeps {p : Nat} {s : State} {u : State} (ht : execSubmitResume p s = .next u) : s.Keeps u := by
  cases ht
  repeat' first
    | with_reducible assumption
    | intro _
    | with_reducible exact State.Keeps.refl _
    | with_reducible apply State.Keeps.live
    | with_reducible apply State.Keeps.startCapsule
    | with_reducible apply State.Keeps.submitResume

theorem execCancel_keeps {p : Nat} {s : State} {u : State} (ht : execCancel p s = .next u) : s.Keeps u := by
  cases ht
  repeat' first
    | with_reducible assumption
    | intro _
    | with_reducible exact State.Keeps.refl _
    | with_reducible apply State.Keeps.live
    | with_reducible apply State.Keeps.startCapsule
    | with_reducible apply State.Keeps.cancelCapsule

theorem execQueryAccount_keeps {p : Nat} {s : State} {u : State} (ht : execQueryAccount p s = .next u) : s.Keeps u := by
  cases ht
  repeat' first
    | with_reducible assumption
    | intro _
    | with_reducible exact State.Keeps.refl _
    | with_reducible apply State.Keeps.live
    | with_reducible apply State.Keeps.startCapsule
    | with_reducible apply State.Keeps.queryCtx

theorem execQueryCompletions_keeps {p : Nat} {s : State} {u : State} (ht : execQueryCompletions p s = .next u) : s.Keeps u := by
  cases ht
  repeat' first
    | with_reducible assumption
    | intro _
    | with_reducible exact State.Keeps.refl _
    | with_reducible apply State.Keeps.live
    | with_reducible apply State.Keeps.startCapsule
    | with_reducible apply State.Keeps.queryCtx

theorem execQueryStream_keeps {p : Nat} {s : State} {u : State} (ht : execQueryStream p s = .next u) : s.Keeps u := by
  cases ht
  repeat' first
    | with_reducible assumption
    | intro _
    | with_reducible exact State.Keeps.refl _
    | with_reducible apply State.Keeps.live
    | with_reducible apply State.Keeps.startCapsule
    | with_reducible apply State.Keeps.queryStream

theorem execQueryEvents_keeps {p : Nat} {s : State} {u : State} (ht : execQueryEvents p s = .next u) : s.Keeps u := by
  cases ht
  repeat' first
    | with_reducible assumption
    | intro _
    | with_reducible exact State.Keeps.refl _
    | with_reducible apply State.Keeps.live
    | with_reducible apply State.Keeps.startCapsule
    | with_reducible apply State.Keeps.queryEvents

theorem execQueryPort_keeps {p : Nat} {s : State} {u : State} (ht : execQueryPort p s = .next u) : s.Keeps u := by
  cases ht
  repeat' first
    | with_reducible assumption
    | intro _
    | with_reducible exact State.Keeps.refl _
    | with_reducible apply State.Keeps.live
    | with_reducible apply State.Keeps.startCapsule
    | with_reducible apply State.Keeps.queryPort

theorem execAttest_keeps {p : Nat} {s : State} {u : State} (ht : execAttest p s = .next u) : s.Keeps u := by
  cases ht
  repeat' first
    | with_reducible assumption
    | intro _
    | with_reducible exact State.Keeps.refl _
    | with_reducible apply State.Keeps.live
    | with_reducible apply State.Keeps.startCapsule
    | with_reducible apply State.Keeps.attestCapsule

theorem execKeywrapModelKey_keeps {p : Nat} {s : State} {u : State} (ht : execKeywrapModelKey p s = .next u) : s.Keeps u := by
  cases ht
  repeat' first
    | with_reducible assumption
    | intro _
    | with_reducible exact State.Keeps.refl _
    | with_reducible apply State.Keeps.live
    | with_reducible apply State.Keeps.startCapsule
    | with_reducible apply State.Keeps.keywrapKey

theorem execKeywrapStreamKey_keeps {p : Nat} {s : State} {u : State} (ht : execKeywrapStreamKey p s = .next u) : s.Keeps u := by
  cases ht
  repeat' first
    | with_reducible assumption
    | intro _
    | with_reducible exact State.Keeps.refl _
    | with_reducible apply State.Keeps.live
    | with_reducible apply State.Keeps.startCapsule
    | with_reducible apply State.Keeps.keywrapKey

theorem execKeywrapRotate_keeps {p : Nat} {s : State} {u : State} (ht : execKeywrapRotate p s = .next u) : s.Keeps u := by
  cases ht
  repeat' first
    | with_reducible assumption
    | intro _
    | with_reducible exact State.Keeps.refl _
    | with_reducible apply State.Keeps.live
    | with_reducible apply State.Keeps.startCapsule
    | with_reducible apply State.Keeps.keywrapRotate

theorem execKeywrapErase_keeps {p : Nat} {s : State} {u : State} (ht : execKeywrapErase p s = .next u) : s.Keeps u := by
  cases ht
  repeat' first
    | with_reducible assumption
    | intro _
    | with_reducible exact State.Keeps.refl _
    | with_reducible apply State.Keeps.live
    | with_reducible apply State.Keeps.startCapsule
    | with_reducible apply State.Keeps.keywrapErase

theorem execLoadmodelLoad_keeps {p : Nat} {flash : Flash} {s : State} {u : State} (ht : execLoadmodelLoad p flash s = .next u) : s.Keeps u := by
  cases ht
  repeat' first
    | with_reducible assumption
    | intro _
    | with_reducible exact State.Keeps.refl _
    | with_reducible apply State.Keeps.live
    | with_reducible apply State.Keeps.startCapsule
    | with_reducible apply State.Keeps.loadmodelLoad

theorem execLoadmodelUnload_keeps {p : Nat} {s : State} {u : State} (ht : execLoadmodelUnload p s = .next u) : s.Keeps u := by
  cases ht
  repeat' first
    | with_reducible assumption
    | intro _
    | with_reducible exact State.Keeps.refl _
    | with_reducible apply State.Keeps.live
    | with_reducible apply State.Keeps.startCapsule
    | with_reducible apply State.Keeps.loadmodelUnload

theorem execRegrd_keeps {p : Nat} {s : State} {u : State} (ht : execRegrd p s = .next u) : s.Keeps u := by
  cases ht
  repeat' first
    | with_reducible assumption
    | intro _
    | with_reducible exact State.Keeps.refl _
    | with_reducible apply State.Keeps.live
    | with_reducible apply State.Keeps.startCapsule
    | with_reducible apply State.Keeps.regrd

theorem execRegwr_keeps {p : Nat} {s : State} {u : State} (ht : execRegwr p s = .next u) : s.Keeps u := by
  cases ht
  repeat' first
    | with_reducible assumption
    | intro _
    | with_reducible exact State.Keeps.refl _
    | with_reducible apply State.Keeps.live
    | with_reducible apply State.Keeps.startCapsule
    | with_reducible apply State.Keeps.regwr

theorem execResponseRead_keeps {p n : Nat} {s : State} {u : State} (ht : execResponseRead p n s = .next u) : s.Keeps u := by
  cases ht
  exact (State.Keeps.refl _).live fun s hs => hs.responseRead

theorem execPrivateWrite_keeps {p : Nat} {bytes : List Byte} {tb : Nat} {s : State} {u : State}
    (ht : execPrivateWrite p bytes tb s = .next u) : s.Keeps u := by
  cases ht
  exact (State.Keeps.refl _).live fun s hs => hs.privateWrite

theorem execCapsuleTimeout_keeps {p : Nat} {s : State} {u : State} (ht : execCapsuleTimeout p s = .next u) : s.Keeps u := by
  cases ht
  exact (State.Keeps.refl _).live fun s hs => hs.capsuleTimeout

theorem execCapsuleForwardTimeout_keeps {p tag : Nat} {s : State} {u : State}
    (ht : execCapsuleForwardTimeout p tag s = .next u) : s.Keeps u := by
  cases ht
  exact (State.Keeps.refl _).live fun s hs => hs.forwardTimeout

theorem execI3cParityError_keeps {p : Nat} {crc5 : Bool} {s : State} {u : State} (ht : execI3cParityError p crc5 s = .next u) : s.Keeps u := by
  cases ht
  exact (State.Keeps.refl _).live fun s hs => hs.parityError

theorem execEntdaa_keeps {p : Nat} {addr : BitVec 7} {s : State} {u : State} (ht : execEntdaa p addr s = .next u) : s.Keeps u := by
  cases ht
  exact (State.Keeps.refl _).live fun s hs => hs.entdaa

theorem execSetdasa_keeps {p : Nat} {static addr : BitVec 7} {s : State} {u : State}
    (ht : execSetdasa p static addr s = .next u) : s.Keeps u := by
  cases ht
  exact (State.Keeps.refl _).live fun s hs => hs.setdasa

theorem execRstdaa_keeps {p : Nat} {s : State} {u : State} (ht : execRstdaa p s = .next u) : s.Keeps u := by
  cases ht
  repeat' first
    | with_reducible assumption
    | intro _
    | with_reducible exact State.Keeps.refl _
    | with_reducible apply State.Keeps.live
    | with_reducible apply State.Keeps.broadcast

theorem execGetpid_keeps {p : Nat} {s : State} {u : State} (ht : execGetpid p s = .next u) : s.Keeps u := by
  cases ht
  repeat' first
    | with_reducible assumption
    | intro _
    | with_reducible exact State.Keeps.refl _
    | with_reducible apply State.Keeps.live
    | with_reducible apply State.Keeps.direct
    | with_reducible refine State.Keeps.ite ?_ ?_
    | with_reducible refine Hall.Wf.ite ?_ ?_
    | dsimp only
    | split
    | refine State.Keeps.update ?_ (Nat.le_refl _)
    | refine Hall.Wf.update ?_ rfl rfl rfl
    | assumption

theorem execGetbcr_keeps {p : Nat} {s : State} {u : State} (ht : execGetbcr p s = .next u) : s.Keeps u := by
  cases ht
  repeat' first
    | with_reducible assumption
    | intro _
    | with_reducible exact State.Keeps.refl _
    | with_reducible apply State.Keeps.live
    | with_reducible apply State.Keeps.direct
    | with_reducible refine State.Keeps.ite ?_ ?_
    | with_reducible refine Hall.Wf.ite ?_ ?_
    | dsimp only
    | split
    | refine State.Keeps.update ?_ (Nat.le_refl _)
    | refine Hall.Wf.update ?_ rfl rfl rfl
    | assumption

theorem execGetdcr_keeps {p : Nat} {s : State} {u : State} (ht : execGetdcr p s = .next u) : s.Keeps u := by
  cases ht
  repeat' first
    | with_reducible assumption
    | intro _
    | with_reducible exact State.Keeps.refl _
    | with_reducible apply State.Keeps.live
    | with_reducible apply State.Keeps.direct
    | with_reducible refine State.Keeps.ite ?_ ?_
    | with_reducible refine Hall.Wf.ite ?_ ?_
    | dsimp only
    | split
    | refine State.Keeps.update ?_ (Nat.le_refl _)
    | refine Hall.Wf.update ?_ rfl rfl rfl
    | assumption

theorem execGetstatus_keeps {p : Nat} {s : State} {u : State} (ht : execGetstatus p s = .next u) : s.Keeps u := by
  cases ht
  repeat' first
    | with_reducible assumption
    | intro _
    | with_reducible exact State.Keeps.refl _
    | with_reducible apply State.Keeps.live
    | with_reducible apply State.Keeps.direct

theorem execEnec_keeps {p : Nat} {events : Byte} {s : State} {u : State} (ht : execEnec p events s = .next u) : s.Keeps u := by
  cases ht
  repeat' first
    | with_reducible assumption
    | intro _
    | with_reducible exact State.Keeps.refl _
    | with_reducible apply State.Keeps.live
    | with_reducible apply State.Keeps.broadcast

theorem execDisec_keeps {p : Nat} {events : Byte} {s : State} {u : State} (ht : execDisec p events s = .next u) : s.Keeps u := by
  cases ht
  repeat' first
    | with_reducible assumption
    | intro _
    | with_reducible exact State.Keeps.refl _
    | with_reducible apply State.Keeps.live
    | with_reducible apply State.Keeps.broadcast

theorem execSetmwl_keeps {p : Nat} {len : Nat} {s : State} {u : State} (ht : execSetmwl p len s = .next u) : s.Keeps u := by
  cases ht
  repeat' first
    | with_reducible assumption
    | intro _
    | with_reducible exact State.Keeps.refl _
    | with_reducible apply State.Keeps.live
    | with_reducible apply State.Keeps.broadcast

theorem execSetmrl_keeps {p : Nat} {len ibi : Nat} {s : State} {u : State} (ht : execSetmrl p len ibi s = .next u) : s.Keeps u := by
  cases ht
  repeat' first
    | with_reducible assumption
    | intro _
    | with_reducible exact State.Keeps.refl _
    | with_reducible apply State.Keeps.live
    | with_reducible apply State.Keeps.broadcast

theorem execGetmwl_keeps {p : Nat} {s : State} {u : State} (ht : execGetmwl p s = .next u) : s.Keeps u := by
  cases ht
  repeat' first
    | with_reducible assumption
    | intro _
    | with_reducible exact State.Keeps.refl _
    | with_reducible apply State.Keeps.live
    | with_reducible apply State.Keeps.direct
    | with_reducible refine State.Keeps.ite ?_ ?_
    | with_reducible refine Hall.Wf.ite ?_ ?_
    | dsimp only
    | split
    | refine State.Keeps.update ?_ (Nat.le_refl _)
    | refine Hall.Wf.update ?_ rfl rfl rfl
    | assumption

theorem execGetmrl_keeps {p : Nat} {s : State} {u : State} (ht : execGetmrl p s = .next u) : s.Keeps u := by
  cases ht
  repeat' first
    | with_reducible assumption
    | intro _
    | with_reducible exact State.Keeps.refl _
    | with_reducible apply State.Keeps.live
    | with_reducible apply State.Keeps.direct
    | with_reducible refine State.Keeps.ite ?_ ?_
    | with_reducible refine Hall.Wf.ite ?_ ?_
    | dsimp only
    | split
    | refine State.Keeps.update ?_ (Nat.le_refl _)
    | refine Hall.Wf.update ?_ rfl rfl rfl
    | assumption

theorem execEnthdr0_keeps {p : Nat} {s : State} {u : State} (ht : execEnthdr0 p s = .next u) : s.Keeps u := by
  cases ht
  repeat' first
    | with_reducible assumption
    | intro _
    | with_reducible exact State.Keeps.refl _
    | with_reducible apply State.Keeps.live
    | with_reducible apply State.Keeps.broadcast

theorem execHdrExit_keeps {p : Nat} {s : State} {u : State} (ht : execHdrExit p s = .next u) : s.Keeps u := by
  cases ht
  repeat' first
    | with_reducible assumption
    | intro _
    | with_reducible exact State.Keeps.refl _
    | with_reducible apply State.Keeps.live
    | with_reducible apply State.Keeps.broadcast

theorem execRstactPortReset_keeps {p : Nat} {s : State} {u : State} (ht : execRstactPortReset p s = .next u) : s.Keeps u := by
  cases ht
  exact (State.Keeps.refl _).live fun s hs => hs.portReset

theorem execRstactHallReset_keeps {p : Nat} {s : State} {u : State} (ht : execRstactHallReset p s = .next u) : s.Keeps u := by
  cases ht
  exact (State.Keeps.refl _).live fun s hs => hs.rstactHall

theorem execRstactRead_keeps {p : Nat} {action : Byte} {s : State} {u : State} (ht : execRstactRead p action s = .next u) : s.Keeps u := by
  cases ht
  repeat' first
    | with_reducible assumption
    | intro _
    | with_reducible exact State.Keeps.refl _
    | with_reducible apply State.Keeps.live
    | with_reducible apply State.Keeps.direct
    | with_reducible refine State.Keeps.ite ?_ ?_
    | with_reducible refine Hall.Wf.ite ?_ ?_
    | dsimp only
    | split
    | refine State.Keeps.update ?_ (Nat.le_refl _)
    | refine Hall.Wf.update ?_ rfl rfl rfl
    | assumption

theorem execIbiSlot_keeps {p : Nat} {s : State} {u : State} (ht : execIbiSlot p s = .next u) : s.Keeps u := by
  cases ht
  exact (State.Keeps.refl _).live fun s hs => hs.ibiSlot

theorem execTxPacketEnd_keeps {h : HallId} {t : Nat} {s : State} {u : State} (ht : execTxPacketEnd h t s = .next u) : s.Keeps u := by
  cases ht
  repeat' first
    | with_reducible assumption
    | intro _
    | with_reducible exact State.Keeps.refl _
    | with_reducible apply State.Keeps.live
    | with_reducible apply State.Keeps.inHall
    | with_reducible apply Hall.Wf.txEnd
    | with_reducible apply State.Keeps.txOver

theorem execCsiTxCfgWrite_keeps {p t : Nat} {w : Word} {s : State} {u : State} (ht : execCsiTxCfgWrite p t w s = .next u) : s.Keeps u := by
  cases ht
  exact (State.Keeps.refl _).live fun s hs => hs.hostWord

theorem execEphemeralKeyExpire_keeps {h : HallId} {report : Nat} {s : State} {u : State}
    (ht : execEphemeralKeyExpire h report s = .next u) : s.Keeps u := by
  cases ht
  exact (State.Keeps.refl _).live fun s hs => hs.inHall fun H hH => hH.dropEph

theorem execSessionScrubDone_keeps {h : HallId} {session : Nat} {s : State} {u : State}
    (ht : execSessionScrubDone h session s = .next u) : s.Keeps u := by
  cases ht
  repeat' first
    | with_reducible assumption
    | intro _
    | with_reducible exact State.Keeps.refl _
    | with_reducible apply State.Keeps.live
    | with_reducible apply State.Keeps.ifUp
    | with_reducible apply State.Keeps.scrubDone
    | with_reducible apply State.Keeps.flightEntry

theorem execDomainReleaseDone_keeps {h : HallId} {domain : Nat} {s : State} {u : State}
    (ht : execDomainReleaseDone h domain s = .next u) : s.Keeps u := by
  cases ht
  repeat' first
    | with_reducible assumption
    | intro _
    | with_reducible exact State.Keeps.refl _
    | with_reducible apply State.Keeps.live
    | with_reducible apply State.Keeps.ifUp
    | with_reducible apply State.Keeps.domainDone

theorem execSecRotate_keeps {p : Nat} {w : Word} {s : State} {u : State} (ht : execSecRotate p w s = .next u) : s.Keeps u := by
  cases ht
  exact (State.Keeps.refl _).live fun s hs => hs.hostWord

theorem execTrngHealthFail_keeps {h : HallId} {s : State} {u : State} (ht : execTrngHealthFail h s = .next u) : s.Keeps u := by
  cases ht
  exact (State.Keeps.refl _).live fun s hs => hs.inHall fun H hH => hH.setTrng

theorem execTrngHealthPass_keeps {h : HallId} {s : State} {u : State} (ht : execTrngHealthPass h s = .next u) : s.Keeps u := by
  cases ht
  exact (State.Keeps.refl _).live fun s hs => hs.inHall fun H hH => hH.setTrng

theorem execSnapshot_keeps {p : Nat} {s : State} {u : State} (ht : execSnapshot p s = .next u) : s.Keeps u := by
  cases ht
  exact (State.Keeps.refl _).live fun s hs => hs.hostWord

theorem execSamplerWrite_keeps {p k : Nat} {w : Word} {s : State} {u : State} (ht : execSamplerWrite p k w s = .next u) : s.Keeps u := by
  cases ht
  exact (State.Keeps.refl _).live fun s hs => hs.hostWord

theorem execSampleIdleTimeout_keeps {h : HallId} {k : Nat} {s : State} {u : State} (ht : execSampleIdleTimeout h k s = .next u) : s.Keeps u := by
  cases ht
  exact (State.Keeps.refl _).live fun s hs => hs.inHall fun H hH => hH.sampleIdle

theorem execSampleHeadRead_keeps {p : Nat} {s : State} {u : State} (ht : execSampleHeadRead p s = .next u) : s.Keeps u := by
  cases ht
  exact (State.Keeps.refl _).live fun s hs => hs.hostRead

theorem execCounterLoRead_keeps {p window n : Nat} {s : State} {u : State} (ht : execCounterLoRead p window n s = .next u) : s.Keeps u := by
  cases ht
  exact (State.Keeps.refl _).live fun s hs => hs.hostRead

theorem execUnlock_keeps {p block : Nat} {w : Word} {_tb : Nat} {s : State} {u : State}
    (ht : execUnlock p block w _tb s = .next u) : s.Keeps u := by
  cases ht
  exact (State.Keeps.refl _).live fun s hs => hs.hostWord

theorem execUnlockExpired_keeps {p block : Nat} {s : State} {u : State} (ht : execUnlockExpired p block s = .next u) : s.Keeps u := by
  cases ht
  repeat' first
    | with_reducible assumption
    | intro _
    | with_reducible exact State.Keeps.refl _
    | with_reducible apply State.Keeps.live
    | with_reducible apply State.Keeps.unlockExpired
    | with_reducible refine State.Keeps.ite ?_ ?_

theorem execRegisterWrite_keeps {p addr : Nat} {w : Word} {s : State} {u : State} (ht : execRegisterWrite p addr w s = .next u) : s.Keeps u := by
  cases ht
  exact (State.Keeps.refl _).live fun s hs => hs.hostWord

theorem execPowerRequest_keeps {p : Nat} {w : Word} {vt : Nat} {s : State} {u : State}
    (ht : execPowerRequest p w vt s = .next u) : s.Keeps u := by
  cases ht
  repeat' first
    | with_reducible assumption
    | intro _
    | with_reducible exact State.Keeps.refl _
    | with_reducible apply State.Keeps.live
    | with_reducible apply State.Keeps.atVt
    | with_reducible apply State.Keeps.hostWord

theorem execWakeRelease_keeps {p : Nat} {vt : Nat} {s : State} {u : State} (ht : execWakeRelease p vt s = .next u) : s.Keeps u := by
  cases ht
  repeat' first
    | with_reducible assumption
    | intro _
    | with_reducible exact State.Keeps.refl _
    | with_reducible apply State.Keeps.live
    | with_reducible apply State.Keeps.atVt
    | with_reducible apply State.Keeps.hostWord

theorem execGalleryDrainDone_keeps {h : HallId} {g : Nat} {s : State} {u : State} (ht : execGalleryDrainDone h g s = .next u) : s.Keeps u := by
  cases ht
  exact (State.Keeps.refl _).live fun s hs => hs.drainDone

theorem execEntryWindowEnd_keeps {vt : Nat} {s : State} {u : State} (ht : execEntryWindowEnd vt s = .next u) : s.Keeps u := by
  cases ht
  repeat' first
    | with_reducible assumption
    | intro _
    | with_reducible exact State.Keeps.refl _
    | with_reducible apply State.Keeps.live
    | with_reducible apply State.Keeps.atVt
    | with_reducible apply State.Keeps.windowEnd

theorem execPowerRiseDone_keeps {vt : Nat} {s : State} {u : State} (ht : execPowerRiseDone vt s = .next u) : s.Keeps u := by
  cases ht
  repeat' first
    | with_reducible assumption
    | intro _
    | with_reducible exact State.Keeps.refl _
    | with_reducible apply State.Keeps.live
    | with_reducible apply State.Keeps.atVt
    | with_reducible apply State.Keeps.riseDone
    | with_reducible apply State.Keeps.coldWake
    | with_reducible apply State.Keeps.flightEntry

theorem execPowerGoodTimeout_keeps {h : HallId} {s : State} {u : State} (ht : execPowerGoodTimeout h s = .next u) : s.Keeps u := by
  cases ht
  exact (State.Keeps.refl _).live fun s hs => hs.goodTimeout

theorem execVoltageRampDone_keeps {h : HallId} {s : State} {u : State} (ht : execVoltageRampDone h s = .next u) : s.Keeps u := by
  cases ht
  exact (State.Keeps.refl _).live fun s hs => hs.inHall fun H hH => hH.rampDone

theorem execThermalStepDown_keeps {h : HallId} {temp : Int} {s : State} {u : State}
    (ht : execThermalStepDown h temp s = .next u) : s.Keeps u := by
  cases ht
  repeat' first
    | with_reducible assumption
    | intro _
    | with_reducible exact State.Keeps.refl _
    | with_reducible apply State.Keeps.live
    | with_reducible apply State.Keeps.inHall
    | with_reducible apply Hall.Wf.capStep
    | with_reducible refine State.Keeps.ite ?_ ?_
    | with_reducible refine Hall.Wf.ite ?_ ?_

theorem execThermalStepUp_keeps {h : HallId} {temp : Int} {s : State} {u : State} (ht : execThermalStepUp h temp s = .next u) : s.Keeps u := by
  cases ht
  repeat' first
    | with_reducible assumption
    | intro _
    | with_reducible exact State.Keeps.refl _
    | with_reducible apply State.Keeps.live
    | with_reducible apply State.Keeps.inHall
    | with_reducible apply Hall.Wf.capStep
    | with_reducible refine State.Keeps.ite ?_ ?_
    | with_reducible refine Hall.Wf.ite ?_ ?_

theorem execThermalTrip_keeps {h : HallId} {temp : Int} {s : State} {u : State} (ht : execThermalTrip h temp s = .next u) : s.Keeps u := by
  cases ht
  repeat' first
    | with_reducible assumption
    | intro _
    | with_reducible exact State.Keeps.refl _
    | with_reducible apply State.Keeps.live
    | with_reducible apply State.Keeps.ifUp
    | with_reducible apply State.Keeps.thermalTrip
    | with_reducible refine State.Keeps.ite ?_ ?_

theorem execWakePinAccept_keeps {n : Nat} {vt : Nat} {s : State} {u : State} (ht : execWakePinAccept n vt s = .next u) : s.Keeps u := by
  cases ht
  repeat' first
    | with_reducible assumption
    | intro _
    | with_reducible exact State.Keeps.refl _
    | with_reducible apply State.Keeps.live
    | with_reducible apply State.Keeps.atVt
    | with_reducible apply State.Keeps.wakePinAccept

theorem execLevelWakeRepeat_keeps {n : Nat} {vt : Nat} {s : State} {u : State} (ht : execLevelWakeRepeat n vt s = .next u) : s.Keeps u := by
  cases ht
  repeat' first
    | with_reducible assumption
    | intro _
    | with_reducible exact State.Keeps.refl _
    | with_reducible apply State.Keeps.live
    | with_reducible apply State.Keeps.atVt
    | with_reducible apply State.Keeps.levelRepeat

theorem execWakeStuckClear_keeps {n : Nat} {vt : Nat} {s : State} {u : State} (ht : execWakeStuckClear n vt s = .next u) : s.Keeps u := by
  cases ht
  repeat' first
    | with_reducible assumption
    | intro _
    | with_reducible exact State.Keeps.refl _
    | with_reducible apply State.Keeps.live
    | with_reducible apply State.Keeps.atVt
    | with_reducible apply State.Keeps.stuckClear

theorem execWakePinInactive_keeps {n : Nat} {vt : Nat} {s : State} {u : State} (ht : execWakePinInactive n vt s = .next u) : s.Keeps u := by
  cases ht
  repeat' first
    | with_reducible assumption
    | intro _
    | with_reducible exact State.Keeps.refl _
    | with_reducible apply State.Keeps.live
    | with_reducible apply State.Keeps.atVt
    | with_reducible apply State.Keeps.wakePinInactive

theorem execPackagePowerWindow_keeps {milliwatts : Nat} {s : State} {u : State}
    (ht : execPackagePowerWindow milliwatts s = .next u) : s.Keeps u := by
  cases ht
  repeat' first
    | with_reducible assumption
    | intro _
    | with_reducible exact State.Keeps.refl _
    | with_reducible apply State.Keeps.live
    | with_reducible apply State.Keeps.pkg

theorem execCommandFetch_keeps {h : HallId} {ctx cyc : Nat} {s : State} {u : State}
    (ht : execCommandFetch h ctx cyc s = .next u) : s.Keeps u := by
  cases ht
  exact (State.Keeps.refl _).live fun s hs => hs.fetch

theorem execEndStream_keeps {h : HallId} {ctx cyc : Nat} {s : State} {u : State} (ht : execEndStream h ctx cyc s = .next u) : s.Keeps u := by
  cases ht
  exact (State.Keeps.refl _).live fun s hs => hs.sequencer

theorem execSync_keeps {h : HallId} {ctx cyc : Nat} {s : State} {u : State} (ht : execSync h ctx cyc s = .next u) : s.Keeps u := by
  cases ht
  exact (State.Keeps.refl _).live fun s hs => hs.sequencer

theorem execCopy_keeps {h : HallId} {c cyc : Nat} {s : State} {u : State} (ht : execCopy h c cyc s = .next u) : s.Keeps u := by
  cases ht
  exact (State.Keeps.refl _).live fun s hs => hs.issue fun H R x k r hH hr => issueCopy_wf hH hr

theorem execPlaceHold_keeps {h : HallId} {c cyc : Nat} {s : State} {u : State} (ht : execPlaceHold h c cyc s = .next u) : s.Keeps u := by
  cases ht
  exact (State.Keeps.refl _).live fun s hs => hs.issue fun H R x k r hH hr => plainIssue_wf hH hr

theorem execPlaceRelease_keeps {h : HallId} {c cyc : Nat} {s : State} {u : State} (ht : execPlaceRelease h c cyc s = .next u) : s.Keeps u := by
  cases ht
  exact (State.Keeps.refl _).live fun s hs => hs.issue fun H R x k r hH hr => plainIssue_wf hH hr

theorem execCellOpSet_keeps {h : HallId} {c cyc : Nat} {s : State} {u : State} (ht : execCellOpSet h c cyc s = .next u) : s.Keeps u := by
  cases ht
  exact (State.Keeps.refl _).live fun s hs => hs.issue fun H R x k r hH hr => plainIssue_wf hH hr

theorem execCellOpAdd_keeps {h : HallId} {c cyc : Nat} {s : State} {u : State} (ht : execCellOpAdd h c cyc s = .next u) : s.Keeps u := by
  cases ht
  exact (State.Keeps.refl _).live fun s hs => hs.issue fun H R x k r hH hr => plainIssue_wf hH hr

theorem execFarSignal_keeps {h : HallId} {c cyc : Nat} {s : State} {u : State} (ht : execFarSignal h c cyc s = .next u) : s.Keeps u := by
  cases ht
  exact (State.Keeps.refl _).live fun s hs => hs.issue fun H R x k r hH hr => plainIssue_wf hH hr

theorem execMatrix_keeps {h : HallId} {c cyc : Nat} {s : State} {u : State} (ht : execMatrix h c cyc s = .next u) : s.Keeps u := by
  cases ht
  exact (State.Keeps.refl _).live fun s hs => hs.issue fun H R x k r hH hr => plainIssue_wf hH hr

theorem execAttn_keeps {h : HallId} {c cyc : Nat} {s : State} {u : State} (ht : execAttn h c cyc s = .next u) : s.Keeps u := by
  cases ht
  exact (State.Keeps.refl _).live fun s hs => hs.issue fun H R x k r hH hr => issueAttn_wf hH hr

theorem execKvAppend_keeps {h : HallId} {c cyc : Nat} {s : State} {u : State} (ht : execKvAppend h c cyc s = .next u) : s.Keeps u := by
  cases ht
  exact (State.Keeps.refl _).live fun s hs => hs.issue fun H R x k r hH hr => issueAppend_wf hH hr

theorem execKvPageopCreate_keeps {h : HallId} {c cyc : Nat} {s : State} {u : State}
    (ht : execKvPageopCreate h c cyc s = .next u) : s.Keeps u := by
  cases ht
  exact (State.Keeps.refl _).live fun s hs => hs.issue fun H R x k r hH hr => issuePage_wf hH hr

theorem execKvPageopDestroy_keeps {h : HallId} {c cyc : Nat} {s : State} {u : State}
    (ht : execKvPageopDestroy h c cyc s = .next u) : s.Keeps u := by
  cases ht
  exact (State.Keeps.refl _).live fun s hs => hs.issue fun H R x k r hH hr => issuePage_wf hH hr

theorem execKvPageopFork_keeps {h : HallId} {c cyc : Nat} {s : State} {u : State} (ht : execKvPageopFork h c cyc s = .next u) : s.Keeps u := by
  cases ht
  exact (State.Keeps.refl _).live fun s hs => hs.issue fun H R x k r hH hr => issuePage_wf hH hr

theorem execKvPageopDrop_keeps {h : HallId} {c cyc : Nat} {s : State} {u : State} (ht : execKvPageopDrop h c cyc s = .next u) : s.Keeps u := by
  cases ht
  exact (State.Keeps.refl _).live fun s hs => hs.issue fun H R x k r hH hr => issuePage_wf hH hr

theorem execKvPageopTruncate_keeps {h : HallId} {c cyc : Nat} {s : State} {u : State}
    (ht : execKvPageopTruncate h c cyc s = .next u) : s.Keeps u := by
  cases ht
  exact (State.Keeps.refl _).live fun s hs => hs.issue fun H R x k r hH hr => issuePage_wf hH hr

theorem execKvPageopSeal_keeps {h : HallId} {c cyc : Nat} {s : State} {u : State} (ht : execKvPageopSeal h c cyc s = .next u) : s.Keeps u := by
  cases ht
  exact (State.Keeps.refl _).live fun s hs => hs.issue fun H R x k r hH hr => issuePage_wf hH hr

theorem execAttnMerge_keeps {h : HallId} {c cyc : Nat} {s : State} {u : State} (ht : execAttnMerge h c cyc s = .next u) : s.Keeps u := by
  cases ht
  exact (State.Keeps.refl _).live fun s hs => hs.issue fun H R x k r hH hr => plainIssue_wf hH hr

theorem execAttnBwd_keeps {h : HallId} {c cyc : Nat} {s : State} {u : State} (ht : execAttnBwd h c cyc s = .next u) : s.Keeps u := by
  cases ht
  exact (State.Keeps.refl _).live fun s hs => hs.issue fun H R x k r hH hr => issueBwd_wf hH hr

theorem execRecur_keeps {h : HallId} {c cyc : Nat} {s : State} {u : State} (ht : execRecur h c cyc s = .next u) : s.Keeps u := by
  cases ht
  exact (State.Keeps.refl _).live fun s hs => hs.issue fun H R x k r hH hr => plainIssue_wf hH hr

theorem execStateOpInit_keeps {h : HallId} {c cyc : Nat} {s : State} {u : State} (ht : execStateOpInit h c cyc s = .next u) : s.Keeps u := by
  cases ht
  exact (State.Keeps.refl _).live fun s hs => hs.issue fun H R x k r hH hr => plainIssue_wf hH hr

theorem execStateOpAnchor_keeps {h : HallId} {c cyc : Nat} {s : State} {u : State} (ht : execStateOpAnchor h c cyc s = .next u) : s.Keeps u := by
  cases ht
  exact (State.Keeps.refl _).live fun s hs => hs.issue fun H R x k r hH hr => plainIssue_wf hH hr

theorem execConv_keeps {h : HallId} {c cyc : Nat} {s : State} {u : State} (ht : execConv h c cyc s = .next u) : s.Keeps u := by
  cases ht
  exact (State.Keeps.refl _).live fun s hs => hs.issue fun H R x k r hH hr => plainIssue_wf hH hr

theorem execHaloSend_keeps {h : HallId} {c cyc : Nat} {s : State} {u : State} (ht : execHaloSend h c cyc s = .next u) : s.Keeps u := by
  cases ht
  exact (State.Keeps.refl _).live fun s hs => hs.issue fun H R x k r hH hr => plainIssue_wf hH hr

theorem execCropResize_keeps {h : HallId} {c cyc : Nat} {s : State} {u : State} (ht : execCropResize h c cyc s = .next u) : s.Keeps u := by
  cases ht
  exact (State.Keeps.refl _).live fun s hs => hs.issue fun H R x k r hH hr => plainIssue_wf hH hr

theorem execBoxDecode_keeps {h : HallId} {c cyc : Nat} {s : State} {u : State} (ht : execBoxDecode h c cyc s = .next u) : s.Keeps u := by
  cases ht
  exact (State.Keeps.refl _).live fun s hs => hs.issue fun H R x k r hH hr => plainIssue_wf hH hr

theorem execNms_keeps {h : HallId} {c cyc : Nat} {s : State} {u : State} (ht : execNms h c cyc s = .next u) : s.Keeps u := by
  cases ht
  exact (State.Keeps.refl _).live fun s hs => hs.issue fun H R x k r hH hr => plainIssue_wf hH hr

theorem execFrameMoveCommit_keeps {h : HallId} {frame : Nat} {s : State} {u : State}
    (ht : execFrameMoveCommit h frame s = .next u) : s.Keeps u := by
  cases ht
  exact (State.Keeps.refl _).live fun s hs => hs.onHall fun H hH => hH.frameMoveCommit.after

theorem execCommitPoint_keeps {h : HallId} {ctx pos cyc : Nat} {s : State} {u : State}
    (ht : execCommitPoint h ctx pos cyc s = .next u) : s.Keeps u := by
  cases ht
  exact (State.Keeps.refl _).live fun s hs => hs.commitPoint

theorem execPublicationEnd_keeps {h : HallId} {ctx pos cyc : Nat} {s : State} {u : State}
    (ht : execPublicationEnd h ctx pos cyc s = .next u) : s.Keeps u := by
  cases ht
  exact (State.Keeps.refl _).live fun s hs => hs.publicationEnd

theorem execHallCellSignal_keeps {h : HallId} {s : State} {u : State} (ht : execHallCellSignal h s = .next u) : s.Keeps u := by
  cases ht
  exact (State.Keeps.refl _).live fun s hs => hs.onHall fun H hH => hH.cellArrive.after

theorem execKillComplete_keeps {h : HallId} {ctx pos cyc : Nat} {s : State} {u : State}
    (ht : execKillComplete h ctx pos cyc s = .next u) : s.Keeps u := by
  cases ht
  exact (State.Keeps.refl _).live fun s hs => hs.killComplete

theorem execCmdOverrun_keeps {h : HallId} {ctx pos cyc : Nat} {s : State} {u : State}
    (ht : execCmdOverrun h ctx pos cyc s = .next u) : s.Keeps u := by
  cases ht
  exact (State.Keeps.refl _).live fun s hs => hs.overrun

theorem execContextAdmit_keeps {h : HallId} {c cyc : Nat} {s : State} {u : State} (ht : execContextAdmit h c cyc s = .next u) : s.Keeps u := by
  cases ht
  exact (State.Keeps.refl _).live fun s hs => (hs.onHall fun H hH => (Hall.Wf.onward hH).admitCtx 32).afterAt

theorem execSwapOutDone_keeps {h : HallId} {ctx cyc : Nat} {s : State} {u : State} (ht : execSwapOutDone h ctx cyc s = .next u) : s.Keeps u := by
  cases ht
  exact (State.Keeps.refl _).live fun s hs => hs.onHall fun H hH => (Hall.Wf.onward hH).resumeSaves.swapOutDone.after

theorem execSwapInDone_keeps {h : HallId} {ctx cyc : Nat} {s : State} {u : State} (ht : execSwapInDone h ctx cyc s = .next u) : s.Keeps u := by
  cases ht
  exact (State.Keeps.refl _).live fun s hs => (hs.onHall fun H hH => hH.swapInDone).afterAt

end Sys2Proof.Machine
end

