-- ==== Sys2Proof/Laws/Pins.lean ====
section
/-! SUPPORT. The fault pins (R541) after a command. -/

namespace Sys2Proof.Machine

/-- The causes of R542 do not read what settling changes. -/
theorem Hall.asserting_congr {A B : Hall} (e : A.uncounted = B.uncounted) (h : Nat) : A.asserting h = B.asserting h := by
  have e1 : ∀ H : Hall, H.asserting h = H.uncounted.asserting h := fun H => rfl
  rw [e1 A, e1 B, e]
theorem Hall.up_congr {A B : Hall} (e : A.uncounted = B.uncounted) : A.dev.up = B.dev.up := (congrArg (fun H : Hall => H.dev.up) e :)

theorem Hall.uncounted_of_bare {A B : Hall} (e : A.bare = B.bare) : A.uncounted = B.uncounted := by
  simp only [Hall.uncounted, e]

theorem State.sortLog_err (H : Hall) (n : Nat) : (H.sortLog n).err = H.err := by
  unfold Hall.sortLog
  simp only []
  split <;> rfl

theorem Hall.tally_err (H old : Hall) (h : Nat) (far : Stair) : (H.tally old h far).err.pin = H.err.pin := by
  have hc : ∀ (H : Hall) (n k : Nat), (H.count n k).err = H.err := fun H n k => by
    unfold Hall.count
    split <;> rfl
  have hf : ∀ (l : List (Nat × Nat)) (dt : Nat) (H : Hall),
      (l.foldl (fun (H : Hall) e => if tget old.cnt.thresh e.1 < e.2 then H.count (1792 + e.1) dt else H) H).err = H.err := by
    intro l dt
    induction l with
    | nil => intro H; rfl
    | cons e r ih =>
      intro H
      rw [List.foldl_cons, ih]
      split
      · exact hc _ _ _
      · rfl
  unfold Hall.tally
  simp only []
  split
  · rfl
  · split
    · rw [hc, hf]
    · rw [hf]

theorem State.sort_err (s : State) : ∀ (l : List Nat) (t : State) (h : HallId),
    ((l.foldl (fun (t : State) p => t.onPort p fun P => P.sortEvents (s.port p).events.length) t).hall h).err = (t.hall h).err := by
  intro l
  induction l with
  | nil => intro t h; rfl
  | cons p r ih =>
    intro t h
    rw [List.foldl_cons, ih]
    unfold State.onPort State.onHall
    cases portHall p <;> cases h <;> rfl

theorem State.event_err (s : State) (p : Nat) (e : Event) (h : HallId) : ((s.event p e).hall h).err = (s.hall h).err := by
  unfold State.event State.onPort State.onHall
  cases portHall p <;> cases h <;> rfl

theorem State.deviceEvent_err (s : State) (k : HallId) (code arg : Nat) (h : HallId) : ((s.deviceEvent k code arg).hall h).err = (s.hall h).err := by
  unfold State.deviceEvent
  simp only [List.foldl_cons, List.foldl_nil]
  split <;> split <;> simp only [State.event_err]

theorem State.setPin_pin (s : State) (h : HallId) (v : Bool) : ((s.setPin h v).hall h).err.pin = v := by
  unfold State.setPin
  simp only [State.deviceEvent_err, State.log, State.hall_onHall, Hall.addLog]

theorem State.setPin_other (s : State) {h k : HallId} (e : k ≠ h) (v : Bool) : ((s.setPin h v).hall k).err = (s.hall k).err := by
  unfold State.setPin
  simp only [State.deviceEvent_err, State.log]
  rw [State.hall_onHall_ne _ _ e, State.hall_onHall_ne _ _ e]

/-- R541: once hall h's causes are judged, its pin follows them. -/
theorem State.pinCheck_follows (s : State) (h : HallId) : ((s.pinCheck h).hall h).PinFollows h.idx := by
  intro hu ha
  have hb := Hall.uncounted_of_bare (State.bare_hall (s.bare_pinCheck h) h)
  rw [Hall.up_congr hb] at hu
  rw [Hall.asserting_congr hb] at ha
  unfold State.pinCheck
  simp only []
  split
  · exact State.setPin_pin _ _ _
  · rename_i hn
    simp only [hu, ha, Bool.true_and, Bool.and_true, Bool.not_eq_true'] at hn
    simpa using hn

theorem Hall.PinFollows.congr {A B : Hall} {h : Nat} (e : A.uncounted = B.uncounted) (p : A.err.pin = B.err.pin) (k : A.PinFollows h) : B.PinFollows h := by
  intro hu ha
  rw [← p]
  exact k ((Hall.up_congr e).trans hu) ((Hall.asserting_congr e h).trans ha)

theorem State.pinCheck_other (s : State) {h k : HallId} (e : k ≠ h) (hk : (s.hall k).PinFollows k.idx) : ((s.pinCheck h).hall k).PinFollows k.idx := by
  refine hk.congr (Hall.uncounted_of_bare (State.bare_hall (s.bare_pinCheck h) k)).symm ?_
  unfold State.pinCheck
  simp only []
  split
  · rw [State.setPin_other _ e]
  · rfl

theorem State.uncounted_pins (s : State) : s.pins.uncounted = s.uncounted := by
  have e : ∀ t : State, t.uncounted = t.bare.uncounted := fun t => by
    simp only [State.uncounted, State.bare, Hall.uncounted, Hall.bare, List.map_map, Function.comp_def]
  rw [e, State.bare_pins, ← e]

/-- The fault pins are as the causes have set them. -/
theorem State.whole_pin (s : State) (f : State → State) (h : HallId) : ((s.whole f).hall h).err.pin = (((f s).pins).hall h).err.pin := by
  unfold State.whole State.inCycle
  refine (congrArg Err.pin (State.sort_err s _ _ h)).trans ?_
  cases h
  · exact (congrArg Err.pin (State.sortLog_err _ _)).trans (Hall.tally_err _ _ _ _)
  · exact (congrArg Err.pin (State.sortLog_err _ _)).trans (Hall.tally_err _ _ _ _)

/-- R541: after any command, the fault pins follow the causes. -/
theorem State.whole_follows (s : State) (f : State → State) : (s.whole f).PinsFollow := by
  have hp : ∀ t : State, (t.pins).PinsFollow := fun t =>
    ⟨State.pinCheck_other _ (h := .b) (k := .a) (by decide) (State.pinCheck_follows t .a), State.pinCheck_follows _ .b⟩
  have hs : ∀ (h : HallId), ((s.whole f).hall h).PinFollows h.idx := fun h => by
    have k : (((f s).pins).hall h).PinFollows h.idx := by cases h; exact (hp (f s)).1; exact (hp (f s)).2
    refine k.congr ?_ ?_
    · rw [State.whole_hall]
      exact State.uncounted_hall (f s).uncounted_pins h
    · exact (s.whole_pin f h).symm
  exact ⟨hs .a, hs .b⟩

theorem State.pinCheck_of_follows (s : State) (h : HallId) (k : (s.hall h).PinFollows h.idx) : s.pinCheck h = s := by
  unfold State.pinCheck
  simp only []
  split
  · rename_i e
    simp only [Bool.and_eq_true, Bool.not_eq_true'] at e
    have := k e.1.1 e.2
    rw [this] at e
    exact absurd e.1.2 (by decide)
  · rfl

/-- Where the pins follow already and neither an event nor a log entry nor a cycle is new, settling changes nothing. -/
theorem State.whole_still (s u : State) (k : u.PinsFollow) (e : ∀ p, (u.port p).events = (s.port p).events)
    (l : ∀ h, (u.hall h).dev.nextSeq = (s.hall h).dev.nextSeq) (n : ∀ h, (u.hall h).now ≤ (s.hall h).now) : (s.whole fun _ => u) = u := by
  have h1 : u.pins = u := by
    unfold State.pins
    rw [State.pinCheck_of_follows u .a k.1, State.pinCheck_of_follows u .b k.2]
  have h3 : ∀ H : Hall, H.sortLog H.dev.nextSeq = H := fun H => by
    have e : (H.dev.nextSeq + 2 ^ 32 - H.dev.nextSeq) % 2 ^ 32 = 0 := by omega
    unfold Hall.sortLog
    simp only [e, Nat.min_zero, Nat.sub_zero, List.drop_length, List.length_nil]
    rfl
  have h4 : { u with a := u.a.sortLog s.a.dev.nextSeq, b := u.b.sortLog s.b.dev.nextSeq } = u := by
    have ea : u.a.dev.nextSeq = s.a.dev.nextSeq := l .a
    have eb : u.b.dev.nextSeq = s.b.dev.nextSeq := l .b
    rw [← ea, ← eb, h3, h3]
  unfold State.whole State.inCycle
  simp only [h1, State.tallied_still u s (n .a) (n .b), h4]
  have hstep : ∀ p, (u.onPort p fun P => P.sortEvents (s.port p).events.length) = u := by
    intro p
    unfold State.onPort
    have : ∀ H : Hall, H = u.hall (portHall p) → { H with ports := modAt H.ports (portIdx p) fun P => P.sortEvents (s.port p).events.length } = H := by
      intro H hH
      have : modAt H.ports (portIdx p) (fun P => P.sortEvents (s.port p).events.length) = H.ports := by
        unfold modAt
        rcases hq : H.ports[portIdx p]? with _ | P
        · exact List.modify_eq_self (by simpa using hq)
        · have hP : u.port p = P := by unfold State.port; rw [← hH, hq]; rfl
          have hs : P.sortEvents (s.port p).events.length = P := by
            unfold Port.sortEvents
            rw [← e p, hP]
            simp
          refine List.ext_getElem? fun i => ?_
          rw [List.getElem?_modify]
          by_cases hi : portIdx p = i
          · subst hi; rw [hq]; simp [hs]
          · simp [hi]
      rw [this]
    unfold State.onHall
    cases hh : portHall p
    · have := this u.a (by rw [hh]; rfl); simp only [this]
    · have := this u.b (by rw [hh]; rfl); simp only [this]
  have hl : ∀ l : List Nat, l.foldl (fun (t : State) p => t.onPort p fun P => P.sortEvents (s.port p).events.length) u = u := by
    intro l
    induction l with
    | nil => rfl
    | cons p r ih => rw [List.foldl_cons, hstep p, ih]
  exact hl _

end Sys2Proof.Machine
end

