-- ==== Sys2Proof/Tests/Slice0.lean ====
section
/-! SUPPORT. The package's own tests: an ill-formed command for each check of WellFormed, words and results that the manual gives, and, for
each clause of the statements in Certificates/Slice0, a state and operands that meet its hypotheses together. -/

namespace Sys2Proof.Tests

open Sys2Proof.Machine

set_option Elab.async false

/-! ### States to start from -/

/-- A timebase: FSYNC_IN rising, 33,333 µs. -/
def base : Timebase :=
  { source := 0, edge := 0, refPort := 0, refVc := 0, nominalUs := 33333, minUs := 30000, maxUs := 40000, holdover := 4, relock := 4,
    divergeLimit := 3, fsyncOut := [⟨0, 0, 0⟩, ⟨0, 0, 0⟩, ⟨0, 0, 0⟩, ⟨0, 0, 0⟩] }

/-- Partition p over gallery p of both halls, paired where kind is 1. -/
def partn (p kind hall : Nat) : PartEntry :=
  { part := p, kind := kind, hall := hall, minStair := 8, galA := if kind = 1 ∨ hall = 0 then 2 ^ p else 0,
    galB := if kind = 1 ∨ hall = 1 then 2 ^ p else 0, classes := 15, lowestOp := 0, syncBaseA := 8192 + 64 * p, syncCountA := 64,
    syncBaseB := 8192 + 64 * p, syncCountB := 64, contextsA := 64, contextsB := 64, gatherA := 16, gatherB := 16, framesA := 64, framesB := 64 }

/-- A class-0 slot that fills the sweep. -/
def slot0 : Slot := ⟨0, 0, 0, 1, 0, 4096, 0xFFFF, 0, 0xFFFF, 100, 0, 1, 0, 0xFFFF, 0⟩

/-- A window onto gallery 2 of Hall A for partition 2. -/
def win0 : WindowEntry := ⟨0, 0, 0, 2, 2, 0, 2, 4096, 1024, 8200, 4⟩

/-- A table of partition p with one slot, its number p. -/
def tabl (p : Nat) : SweepTable :=
  { table := p, part := p, halves := 1, galleryCount := 1
    slots := [slot0]
    buffers := [] }

/-- Host port p with every right. -/
def allRights (p : Nat) : RightsEntry := ⟨p, 0xFFFF, 0xFFFF, 0xFFFF, 0xFFFF⟩

/-- Domain 1, of both halls, bound through every port. -/
def tenant1 : TenantEntry :=
  { domain := 1, halls := 3, tflags := 1, parts := 0xFFFF, ports := 15, extentBaseA := 64, extentLenA := 16, extentBaseB := 64, extentLenB := 16,
    modelFirst := 0, modelCount := 16, sessionQuota := 0, ownerHash := [] }

/-- An image: partitions 0 (Hall A), 1 (Hall B) and 2 (paired), a window, every right, domain 1, an enabled link. -/
def img : Image :=
  { bytes := [], version := 1, digest := [1], sdigest := [2], partitions := [partn 0 0 0, partn 1 0 1, partn 2 1 0], routes := []
    windows := [win0]
    sensors := [], tenancy := [tenant1], rights := (List.range 4).map allRights, pins := List.replicate 8 ⟨3, 0⟩, initialReq := [0, 0, 0, 0]
    pflags := 0, powers := [⟨0, 3, 255, 255, 0, 0⟩], compat := [], link := some ⟨10, 4, 1⟩, timebase := base, tables := [tabl 0, tabl 1, tabl 2]
    degraded := [], marks := [⟨1, 2, 0, 0, 5, 0, 0, 64, 0, 0, 0⟩], cascade := none }

/-- A running hall: galleries 0, 1 and 2 in RUN for partitions 0, 1 and 2. -/
def upHall (h : Nat) : Hall :=
  let H := Hall.reset h 0
  { H with
    dev := { H.dev with up := true, stage := .running, image := some img, imgState := 3 }
    pwr := { H.pwr with hall := .on, galOn := Voted.all 7 }
    mem := { H.mem with trained := true, filled := true, total := 64, chanGood := 0xFFFFFFFF }
    sec := { H.sec with trngOk := true, doms := [⟨1, Voted.all 0x1FFFF, false, 0⟩] }
    stair := { H.stair with enable := true, trained := true, alive := true, lanesRx := 8, lanesTx := 8, mode := .paired }
    swp :=
      { H.swp with
        started := true, lock := .locked, per := 3333300, pv := 3333300, tableChosen := true
        parts := (List.range 16).map fun p => { PartState.reset with table := Voted.all (if p < 3 then BitVec.ofNat 16 p else 0xFFFF), monitor := 0 } }
    ports := H.ports.map fun (P : Port) => { P with dyn := 9, armed := [0, 3, 4, 5, 7, 8, 9, 11, 16, 32] }
    gals := (List.range 8).map fun g => if g < 3 then { Gallery.reset with st := .run, part := Voted.all (BitVec.ofNat 5 g) } else Gallery.reset }

/-- A running package. -/
def up : State :=
  { State.reset with
    por := false, imageSeen := true, a := upHall 0, b := upHall 1
    pkg := { PkgPwr.reset with state := 3, applies := true, enCore := [true, true], enPhy := [true, true], pg := [true, true] } }

/-- The running package with Hall A changed. -/
def onA (f : Hall → Hall) : State := { up with a := f up.a }

/-- The running package with both halls changed. -/
def onAB (f : Hall → Hall) : State := { up with a := f up.a, b := f up.b }

/-- The running package with host port 0 changed. -/
def onP (f : Port → Port) : State := onA fun H => { H with ports := modAt H.ports 0 f }

/-- The running package with the Vestibule changed. -/
def onV (f : Vst → Vst) : State := { up with vst := f up.vst }

/-- The running package with the package's power control changed. -/
def onK (f : PkgPwr → PkgPwr) : State := { up with pkg := f up.pkg }

/-- Hall A with its DEV block changed. -/
def dev (f : Dev → Dev) (H : Hall) : Hall := { H with dev := f H.dev }

/-- A hall with its schedule changed. -/
def swp (f : Sweep → Sweep) (H : Hall) : Hall := { H with swp := f H.swp }

/-- A hall with its Stair end changed. -/
def stair (f : Stair → Stair) (H : Hall) : Hall := { H with stair := f H.stair }

/-- A hall with its memory changed. -/
def mem (f : Mem → Mem) (H : Hall) : Hall := { H with mem := f H.mem }

/-- A hall with its power registers changed. -/
def pwr (f : Pwr → Pwr) (H : Hall) : Hall := { H with pwr := f H.pwr }

/-- A hall with its error registers changed. -/
def err (f : Err → Err) (H : Hall) : Hall := { H with err := f H.err }

/-- A hall with its security block changed. -/
def sec (f : Sec → Sec) (H : Hall) : Hall := { H with sec := f H.sec }

/-- A hall with its camera units changed. -/
def cam (f : Cam → Cam) (H : Hall) : Hall := { H with cam := f H.cam }

/-- A hall with its active image changed. -/
def imaged (f : Image → Image) (H : Hall) : Hall := { H with dev := { H.dev with image := H.dev.image.map f } }

/-- A message of a kind for partition 2. -/
def msg (kind arg0 arg1 arg2 : Nat) : StairMsg := ⟨kind, 0, 0, 2, 0, arg0, arg1, arg2, []⟩

/-- An empty boot flash that answers. -/
def flash : Flash := ⟨1048576, ⟨[]⟩, true, true, true⟩

/-- A slot's run that waits for the stream of the last. -/
def run0 : SlotRun :=
  { part := 0, table := 0, slot := 0, cls := 0, sweep := 0, issued := false, dataTick := 0, dataSweep := 0, deadline := 0, eTick := 0,
    fallback := false, late := false, monitored := false, missed := false, done := false, cancelled := false, waiting := true,
    committed := 0, withheld := false, rseq := none }

/-- The halls of the running package meet their invariant. -/
theorem hallWf (h : HallId) : (up.hall h).Wf := by
  cases h <;> exact ⟨by decide +kernel, by decide +kernel, by decide +kernel, by decide +kernel, by decide +kernel, by decide +kernel,
    by decide +kernel, by decide +kernel, by decide +kernel, by decide +kernel⟩

/-- n bytes that are zero but for the fields: offset, width and value. -/
def fields (n : Nat) (fs : List (Nat × Nat × Nat)) : List Byte :=
  (List.range n).map fun i =>
    BitVec.ofNat 8 (fs.foldl (fun a f => if f.1 ≤ i ∧ i < f.1 + f.2.1 then f.2.2 / 256 ^ (i - f.1) else a) 0)

/-- A 64-byte descriptor. -/
def desc (fs : List (Nat × Nat × Nat)) : List Byte := fields 64 fs

/-- Context 0 of partition 0, domain 1 and class 2, resident on core 0, its stream of 4 commands at 4096 of gallery 0. -/
def ctx0 : Ctx :=
  { Ctx.fresh 0 2 0 1 ⟨0, [(0, 256)], 0, 4096, 4, 8192, 1, 16, 16384⟩ 0 with st := .resident, rslot := some 0, fetching := true, session := some 0 }

/-- The command with a descriptor at the first position, its wait satisfied. -/
def cmd (d : List Byte) : Cmd :=
  { pos := 0, serial := 0, desc := d, waitDone := true, stage := .queued, enq := 0, issued := 0, commit := 0, kills := 0, killReq := none, killAt := 0,
    lockWaited := false, slotWaited := false, haloHeld := false, readyAt := none, suppress := false, poisoned := none, built := Built.empty }

/-- The running package with context 0 and commands in its queue. -/
def withCmds (ks : List Cmd) : State := onA fun H => { H with ctxs := [{ ctx0 with cmds := ks }] }

/-- CELL_OP SET of cell 0 to 5. -/
def setCmd : Cmd := cmd (desc [(0, 1, 0x12), (18, 2, 1), (24, 4, 5), (61, 1, 1)])

/-- A frame of domain 1 in piece 0 of block 0 of gallery 0's frame area. -/
def frame0 : Frame :=
  { st := .sram, size := 0, refs := 1, holds := 0, pins := 0, homeValid := true, lost := false, part := 0, dom := 1, epoch := 1, cache := none,
    gal := 0, piece := some (0, 0), lastRead := 0, writeHome := false, heldFrom := none, movedAt := 0, moveCls := 0, forced := false }

/-- Session 0, of domain 1 in partition 0 through host port 0. -/
def ses0 : Session := ⟨0, 0, 0, 1, none, false⟩

/-- Domain 1 as it stands in a hall. -/
def dom1 : Dom := ⟨1, Voted.all 0x1FFFF, false, 0⟩

/-- Cache 0, of partition 0 and domain 1. -/
def cache0 : Cache := ⟨0, 0, 1, ⟨1, 5, 0, 1, 64, 1, 1, 4, 0, 0, 4, 0, 16⟩, [], []⟩

/-- Partition 2's window, found by a message that names it. -/
def heard (m : StairMsg) : State := { up with b := stair (fun T => { T with outbox := [m] }) up.b }


/-- The value of a check that passes. -/
def okVal {ε α : Type} (r : Except ε α) : Option α := match r with | .ok v => some v | .error _ => none

/-- The error of a check that fails. -/
def errVal {ε α : Type} (r : Except ε α) : Option ε := match r with | .ok _ => none | .error e => some e

theorem ofOk {ε α : Type} {r : Except ε α} {v : α} (h : okVal r = some v) : r = .ok v := by
  cases r with
  | ok w => cases h; rfl
  | error e => cases h

theorem ofErr {ε α : Type} {r : Except ε α} {e : ε} (h : errVal r = some e) : r = .error e := by
  cases r with
  | ok w => cases h
  | error e => cases h; rfl

/-- Hall A with its host port 0 changed, over a hall changed first. -/
def portOn (f : Hall → Hall) (g : Port → Port) : State := onA fun H => let H' := f H; { H' with ports := modAt H'.ports 0 g }

/-- A capsule with a response, as the port takes it off the wire. -/
def wire (payload : List Byte) : List Byte := capsuleBytes 5 0 7 0 0 payload

/-- A capsule of an OPCODE for session 0. -/
def capOf (op : Nat) (payload : List Byte) : Capsule := ⟨op, 7, 0, payload⟩

/-- Hall A with session 0 open for partition 0 and domain 1. -/
def ses (H : Hall) : Hall := { H with sec := { H.sec with sessions := [ses0] } }

/-- The running package with a capsule at port 0 and Hall A changed. -/
def asks (f : Hall → Hall) (c : Capsule) : State := portOn (fun H => f (ses H)) fun P => { P with queue := [c] }

/-- A key of session 0. -/
def key0 (use : Nat) : KeySlot := ⟨0, 1, use, 0, 5, List.replicate 32 1, false⟩

/-- Hall A with keys. -/
def keyed (ks : List KeySlot) (H : Hall) : Hall := { H with sec := { H.sec with keys := ks } }

/-- Feed 9 of host port 0 on port 0, channel 3. -/
def feed9 : HostFeedBody := ⟨0, 3, 0, 7, 0, 4, 0x3210, 0, 1500, 0x2A⟩

/-- Hall A whose image has feed 9. -/
def fed (H : Hall) : Hall := imaged (fun im => { im with sensors := [⟨9, 0, .hostFeed feed9⟩] }) H

/-- A context of domain 1 for session 0 in partition 0. -/
def ctxS : Ctx := { ctx0 with session := some 0 }

theorem ofSome {α : Type} {o : Option α} {v : α} {P : α → Prop} (h : o = some v) (p : P v) : ∀ x, o = some x → P x := by
  intro x e
  rw [h] at e
  cases e
  exact p

/-- Channel 3 of feed 9, a token packet of one byte. -/
def rec0 (kind rseq : Nat) : FeedRecord := ⟨kind, 0, 3, rseq, 0, 1, 1, 17, [5]⟩

/-- Hall A with a port that receives feed 9, and an object begun. -/
def feeding (H : Hall) : Hall :=
  let H1 := fed H
  { H1 with
    cam := { H1.cam with ports := modAt H1.cam.ports 0 fun (P : RxPort) => { P with feedOpen := [3] } }
    feeds := [⟨0, 3, 3, 3, 0, []⟩] }

/-- Result stream 3 of session 0. -/
def stream3 : TxStream :=
  { num := 3, session := 0, part := 0, ring := false, tx := 0, vc := 0, dt := 0x30, homeHall := 0, key := 4096, secret := [], emitBuf := []
    cls := 0, gallery := 0, blocks := 0, ringAddr := 0, blockBytes := 0, cell := 0, freeCell := 0, rseq := 0, sent := 0, dropped := 0
    oversize := 0, shown := (0, 0, 0), k := 0, queue := [], sending := none, closing := false }

/-- Hall A whose partition 0 has no class 0. -/
def slow (H : Hall) : Hall := imaged (fun im => { im with partitions := [{ partn 0 0 0 with classes := 14 }] }) H

/-- A capsule that binds stream 3 to transmit port 0 with key 0. -/
def bind3 : Capsule :=
  capOf 1 (fields 44 [(0, 1, 1), (2, 1, 3), (4, 1, 0xFF), (6, 1, 0x30), (8, 4, 2 ^ 30 + 4096), (12, 2, 0xFFFF), (14, 2, 0xFFFF), (16, 2, 0xFFFF), (18, 2, 0xFFFF)])

/-- A context descriptor for session 0: gallery 0, any core, the whole operand store. -/
def descD : List Byte :=
  desc [(0, 1, 2), (2, 1, 255), (3, 1, 1), (8, 4, 4096), (12, 4, 4), (16, 4, 8192), (20, 2, 1), (22, 2, 16), (24, 4, 16384), (33, 1, 255)]

/-- A capsule that loads model 5 over channel 3 of feed 9. -/
def load5 : Capsule := capOf 8 (fields 24 [(2, 2, 5), (4, 4, 4096), (10, 2, 9), (12, 2, 3), (16, 4, 512)])

/-- Model 5. -/
def model5 : Model := ⟨5, 1, 0, .loaded, 4096, 1, 1, [], [], [], [], []⟩

/-- A load of model 5 that is complete. -/
def loaded5 : Load := ⟨0, 7, 0, 5, 4096, 0, 9, 3, 512, 0, [], true⟩

/-- A capsule that unwraps a key of a use: host key the generator, IV 0, 32 zero bytes under the key that report 0 gives, and their tag. -/
def wrapped (use : Nat) : Capsule :=
  capOf 7 ([BitVec.ofNat 8 use, 0, 5, 0] ++ List.replicate 12 0 ++ ecBytes p384G ++ List.replicate 16 0
    ++ beBytes 32 0x26bff77f4daab054a2cd5b506ca28036b4b65712c5cc292ad458395225c0f7bc
    ++ beBytes 16 (if use = 0 then 0xaa0241fbf14da68822e44caac2960ad2 else 0xa4524c03cfdac282f353b76106ad0f35))

/-- Hall A with the ephemeral key of report 0, whose scalar is 1. -/
def eph (H : Hall) : Hall := { H with sec := { H.sec with ephs := [⟨0, 0, [], 1, []⟩] } }

/-- A pair is its first with its second. -/
theorem pairEq {α β : Type} {p : α × β} {b : β} (h : p.2 = b) : p = (p.1, b) := by rw [← h]

theorem attest_ok (s : State) (h : HallId) (e : Session) (m : Nat) (n : List Byte) :
    ∃ r, s.attest h e 0 m n = ((s.attest h e 0 m n).1, .ok r) := ⟨_, rfl⟩

/-- A halo band of core 0 to the core on its right, running, with one row written. -/
def haloCmd : Cmd :=
  { cmd (desc [(0, 1, 0x51), (16, 1, 2)]) with stage := .running, issued := 7, built := { Built.empty with outs := [(.op 1, 0, 63)] } }

/-- A command that reads those bytes. -/
def readCmd : Cmd := { cmd (desc [(0, 1, 0x12)]) with stage := .running, issued := 5, built := { Built.empty with ins := [(.op 1, 0, 63)] } }

/-- Camera 10: port 0, virtual channel 1, RAW10 of 64 by 8. -/
def cam10 : CameraBody :=
  { port := 0, phy := 0, lanes := 4, laneMap := 0x3210, pnSwap := 0, vc := 1, dt := 0x2B, embDt := 0x12, rateMbps := 1500, width := 64
    height := 8, pad := 0, frameUs := 33333, timeoutUs := 50000, lineNs := 1000, sync := 0, syncWin := 0, ctrl := 0, bus := 0, saddr := 0x50
    daddr := 8, regBytes := 2, delay := 2, writeLine := 2, deadlineLine := 4, cflags := 0, part := 0, setAddr := 0, setCell := 0
    setGallery := 0, degradeAddr := 0xFFFFFFFF, pipe := 20 }

/-- An output of a pipe. -/
def out20 : PipeOut := ⟨0, 0, 0, 1, 0, 0, 0, 0, 0, 1, 0, 0, 8, 64, 64, 8⟩

/-- Its pipe: context 0, stripes of 4 lines. -/
def pipe20 : PipeBody := ⟨0, 1, 0, 10, 4, 8, 0, out20, out20, 0xFFFFFFFF, 0⟩

/-- An image with the camera and its pipe. -/
def imgCam : Image := { img with sensors := [⟨10, 0, .camera cam10⟩, ⟨20, 0, .pipe pipe20⟩] }

/-- Camera 10 as it stands. -/
def shot : Camera := ⟨10, 0, 0, none, none, false, 0, [], 0⟩

/-- A frame begun. -/
def frameO : RxFrame := ⟨0, [], 0, 0, 0, [], 0, 0, false, false, false, 0, none, 0, false⟩

/-- The camera with its entries. -/
def e10 : Nat × CameraBody × PipeBody := (10, cam10, pipe20)

/-- Hall A with the camera and its units changed. -/
def seen (c : Camera) (f : Cam → Cam) (H : Hall) : Hall :=
  cam (fun C => f { C with cameras := [c] }) (imaged (fun _ => imgCam) H)

/-- A SETTINGS record with writes left. -/
def setR (left : Nat) (retried : Bool) : SetRec := ⟨1, [(0, 2, 5)], left, retried, true, true, none, false, false, false⟩

/-- Flight n, of model 5 and domain 1. -/
def flt (n : Nat) : FlightEntry :=
  { flight := n, part := 0, hall := 0, gallery := 0, powerConfig := 0, micMode := 0, coreMask := 1, model := 5, tenant := 1, port := 0
    fflags := 0, landingCell := 0, landingAddr := 0, upAddr := 0, upCell := 0, mirrorCell := 0, mirrorAddr := 0, idleMs := 100
    minDwellMs := 100, holdThresh := 0, openThresh := 100, closeThresh := 50, closeMs := 100, maxCandMs := 1000, prerollMs := 100
    ringClock := 0, ringChans := 1, presenceFrames := 2, target := [], wakeThresh := [] }

/-- The running package with flights, model 5 loaded, and the Vestibule changed. -/
def flown (fs : List FlightEntry) (f : Vst → Vst) : State :=
  { onA (fun H => imaged (fun im => { im with cascade := some fs }) { H with sec := { H.sec with models := [model5] } }) with vst := f up.vst }

/-- The running package with a sensor of Hall A. -/
def sensed (b : SensorBody) (f : Vst → Vst) : State := { onA (imaged fun im => { im with sensors := [⟨9, 0, b⟩] }) with vst := f up.vst }

/-- A presence sensor. -/
def presS : SensorBody := .presence ⟨0, 0x2A, 1500, 64, 8⟩

/-- Microphone array 9 of partition 0. -/
def mic9 : MicArrayBody := ⟨0, 0, 0, 16, 4, 0, 0, 4, 4096, 3, []⟩

theorem ofNil {α : Type} {l : List α} {P : α → Prop} (h : l = []) : ∀ x ∈ l, P x := by
  subst h
  intro x hx
  cases hx

theorem ofOne {α : Type} {l : List α} {a : α} {P : α → Prop} (h : l = [a]) (p : P a) : ∀ x ∈ l, P x := by
  subst h
  intro x hx
  rw [List.mem_singleton.mp hx]
  exact p

theorem unwraps0 : let r := ((asks eph (wrapped 0)).taken 0 []).unwrapKey .a ses0 (wrapped 0).payload
    r.2 = .ok (leBytes 4 0) ∧ (r.1.hall .a).serves = true := by decide +kernel

theorem unwraps1 : let r := ((asks eph (wrapped 1)).taken 0 []).unwrapKey .a ses0 (wrapped 1).payload
    r.2 = .ok (leBytes 4 (2 ^ 30)) ∧ (r.1.hall .a).serves = true := by decide +kernel

theorem ctxCamera_one {H : Hall} {h m : Nat} {c : Camera} {b : CameraBody} {p : PipeBody} (hc : H.cam.cameras = [c])
    (he : H.camEntry h c.id = some (b, p)) (hz : ¬ p.ctx = m) : H.ctxCamera h m = none := by
  simp [Hall.ctxCamera, hc, he, hz]

theorem witness_EmptyQueueIdles_0 :
    ∃ s : State, s.pending = [] :=
  ⟨up, by decide +kernel⟩

theorem witness_StepDrawsQueueAndFreeValues_0 :
    ∃ s t : State, step s = .next t :=
  ⟨up, up, rfl⟩

theorem witness_StepKeepsTheHalls_0 :
    ∃ s t : State, s.Wf ∧ step s = .next t :=
  ⟨up, up, ⟨hallWf .a, hallWf .b⟩, rfl⟩

theorem witness_StepKeepsTapClosed_0 :
    ∃ s t : State, s.TapClosed ∧ step s = .next t :=
  ⟨up, up, ⟨by decide +kernel, by decide +kernel⟩, rfl⟩

theorem witness_StepKeepsPinsFollowing_0 :
    ∃ s t : State, s.PinsFollow ∧ step s = .next t :=
  ⟨up, up, ⟨fun _ _ => rfl, fun _ _ => rfl⟩, rfl⟩

theorem witness_HeldInResetNothingHappens_0 :
    ∃ (c : Instr) (s : State), s.por = true ∧ (match c with | .porNAssert _ => False | .porNRelease _ _ => False | .supplyOutOfRange => False | .pgRise _ => False | .pgFall _ _ _ => False | .jtagBypass => False | .jtagIdcode => False | .jtagSamplePreload _ => False | .jtagExtest => False | .jtagTrst => False | _ => True) :=
  ⟨.beatSend .a, State.reset, rfl, trivial⟩

theorem witness_SettlingChangesOnlyLogPinsEvents_0 :
    ∃ s u : State, (∀ h, (u.hall h).now ≤ (s.hall h).now) :=
  ⟨up, up, fun _ => Nat.le_refl _⟩

theorem witness_SettlingChangesOnlyLogPinsEvents_1 :
    ∃ s u : State, (∀ h, (u.hall h).now ≤ (s.hall h).now) ∧ u.PinsFollow ∧ (∀ p, (u.port p).events = (s.port p).events) ∧ (∀ h, (u.hall h).dev.nextSeq = (s.hall h).dev.nextSeq) :=
  ⟨up, up, fun _ => Nat.le_refl _, ⟨fun _ _ => rfl, fun _ _ => rfl⟩, fun _ => rfl, fun _ => rfl⟩

theorem witness_ResetLeavesStatedValues_0 :
    ∃ H : Hall, (H = State.reset.a ∨ H = State.reset.b) :=
  ⟨State.reset.a, Or.inl rfl⟩

theorem witness_PorResetsOrIsIgnored_0 :
    ∃ (s : State) (ns : Nat), s.por = false ∧ 10000 ≤ ns :=
  ⟨up, 10000, by decide +kernel⟩

theorem witness_PorResetsOrIsIgnored_1 :
    ∃ ns : Nat, ns < 1000 :=
  ⟨999, by decide +kernel⟩

theorem witness_PorResetsOrIsIgnored_2 :
    ∃ (s : State) (ns : Nat), s.por = false ∧ 1000 ≤ ns ∧ ns < 10000 :=
  ⟨up, 1000, by decide +kernel⟩

theorem witness_PorResetsOrIsIgnored_3 :
    ∃ s : State, s.por = true :=
  ⟨State.reset, by decide +kernel⟩

theorem witness_PorResetsOrIsIgnored_4 :
    ∃ s : State, s.por = false :=
  ⟨up, by decide +kernel⟩

theorem witness_PowerGoodStartsAHall_0 :
    ∃ s : State, s.por = false ∧ s.a.dev.up = false ∧ s.a.dev.stage = .rom ∧ s.pkg.enCore.getD 0 false = true :=
  ⟨onA (dev fun D => { D with up := false, stage := .rom }), by decide +kernel⟩

theorem witness_PowerGoodStartsAHall_1 :
    ∃ (s : State) (h : HallId), s.por = false ∧ s.pkg.enCore.getD h.idx false = true ∧ s.pkg.enVt.getD h.idx none = none :=
  ⟨up, .a, by decide +kernel⟩

theorem witness_PowerGoodStartsAHall_2 :
    ∃ (s : State) (h : HallId), s.pkg.enCore.getD h.idx false = false :=
  ⟨onK fun K => { K with enCore := [false, true] }, .a, by decide +kernel⟩

theorem witness_PowerGoodStartsAHall_3 :
    ∃ (s : State) (h : HallId) (vt t : Nat), s.por = false ∧ s.pkg.enCore.getD h.idx false = true ∧ s.pkg.enVt.getD h.idx none = some t ∧ (vt - t) * 10000 < 720896 :=
  ⟨onK fun K => { K with enVt := [some 0, none] }, .a, 71, 0, by decide +kernel⟩

theorem witness_PowerGoodStartsAHall_4 :
    ∃ (s : State) (h : HallId) (vt t : Nat), s.por = false ∧ s.pkg.enCore.getD h.idx false = true ∧ s.pkg.enVt.getD h.idx none = some t ∧ 720896 ≤ (vt - t) * 10000 :=
  ⟨onK fun K => { K with enVt := [some 0, none] }, .a, 73, 0, by decide +kernel⟩

theorem witness_JtagInstructions_0 :
    ∃ s : State, s.imageSeen = false :=
  ⟨{ up with imageSeen := false }, by decide +kernel⟩

theorem witness_JtagInstructions_1 :
    ∃ s : State, s.imageSeen = true :=
  ⟨up, by decide +kernel⟩

theorem witness_FirmwareLoadRunsTheNewerSlot_1 :
    ∃ (s : State) (f : Flash), s.por = false ∧ s.a.dev.up = true ∧ s.a.dev.stage = .rom ∧ f.responds = false :=
  ⟨onA (dev fun D => { D with stage := .rom }), { flash with responds := false }, by decide +kernel⟩

theorem witness_FirmwareLoadRunsTheNewerSlot_2 :
    ∃ (s : State) (f : Flash), s.por = false ∧ s.a.dev.up = true ∧ s.a.dev.stage = .rom ∧ f.responds = true ∧ flashDirectory f = none :=
  ⟨onA (dev fun D => { D with stage := .rom }), flash, by decide +kernel⟩

theorem witness_TrainingAndFillsEnd_0 :
    ∃ (s : State) (h : HallId), s.por = false ∧ (s.hall h).dev.up = true ∧ (s.hall h).dev.stage = .dramTrain ∧ (s.hall h).dev.waitingImg = none :=
  ⟨onA (dev fun D => { D with stage := .dramTrain }), .a, by decide +kernel⟩

theorem witness_TrainingAndFillsEnd_1 :
    ∃ (s : State) (h : HallId), s.por = false ∧ (s.hall h).mem.trained = true ∧ (s.hall h).mem.filled = false :=
  ⟨onA (mem fun M => { M with filled := false }), .a, by decide +kernel⟩

theorem witness_TrainingAndFillsEnd_2 :
    ∃ (s : State) (h : HallId) (g : Nat), s.por = false ∧ g < 8 ∧ (s.hall h).dev.filling.getLsbD g = true :=
  ⟨onA (dev fun D => { D with filling := 0x80 }), .a, 7, by decide +kernel⟩

theorem witness_TrainingAndFillsEnd_3 :
    ∃ (s : State) (h : HallId) (im : Image), (s.hall h).dev.up = true ∧ (s.hall h).dev.stage = .fill ∧ (s.hall h).image = some im ∧ s.digestDiffers h im = false ∧ (s.hall h).dev.filling = 0 ∧ (s.hall h).mem.filled = true :=
  ⟨onA (dev fun D => { D with stage := .fill }), .a, img, by decide +kernel⟩

theorem witness_FlashImageBecomesActive_2 :
    ∃ (s : State) (f : Flash), s.por = false ∧ s.a.dev.up = true ∧ s.a.dev.stage = .fill ∧ s.a.image = none ∧ s.straps.bootSrc ≠ 2 ∧ s.a.mem.trained = true ∧ flashEntry f 2 0 = none ∧ flashEntry f 2 1 = none :=
  ⟨onA (dev fun D => { D with stage := .fill, image := none }), flash, by decide +kernel⟩

theorem witness_ActivationAndAcceptanceTimeouts_0 :
    ∃ (s : State) (h : HallId) (n : Nat), s.por = false ∧ (s.hall h).dev.ackBy = some n ∧ (s.hall h).dev.staged = 3 :=
  ⟨onA (dev fun D => { D with staged := 3, ackBy := some 5, actSweep := 5 }), .a, 5, by decide +kernel⟩

theorem witness_ActivationAndAcceptanceTimeouts_1 :
    ∃ (s : State) (h : HallId), (s.hall h).dev.staged = 3 :=
  ⟨onA (dev fun D => { D with staged := 3, ackBy := some 5, actSweep := 5 }), .a, by decide +kernel⟩

theorem witness_ActivationAndAcceptanceTimeouts_2 :
    ∃ (s : State) (h : HallId) (n : Nat), s.por = false ∧ (s.hall h).dev.ackBy = some n ∧ (s.hall h).dev.staged = 3 :=
  ⟨onA (dev fun D => { D with staged := 3, ackBy := some 5, actSweep := 5 }), .a, 5, by decide +kernel⟩

theorem witness_ActivationAndAcceptanceTimeouts_3 :
    ∃ (s : State) (im : Image), s.por = false ∧ s.a.image = some im ∧ im.linked = true ∧ s.a.stair.farAccepted = false ∧ s.b.swp.started = false :=
  ⟨{ up with b := swp (fun S => { S with started := false }) up.b }, img, by decide +kernel⟩

theorem witness_StairTrainingBringsUpTheWidths_0 :
    ∃ (good : BitVec 32) (w v i : Nat), laneWidth good = w ∧ v ∈ [8, 16, 32] ∧ w < v ∧ v * i + v ≤ 32 :=
  ⟨0x00FF0000, 8, 16, 1, by decide +kernel⟩

theorem witness_StairTrainingBringsUpTheWidths_1 :
    ∃ (s : State) (im : Image) (ga gb : BitVec 32), s.por = false ∧ s.a.image = some im ∧ im.linked = true ∧ im.minWidth ≤ 8 ∧ s.a.dev.up = true ∧ s.b.dev.up = true ∧ s.b.dev.stage = .rom ∧ s.a.pwr.hall = .on ∧ s.b.pwr.hall = .on ∧ s.a.stair.trained = false ∧ s.a.stair.enable = true ∧ s.a.stair.retrain = false ∧ s.b.stair.retrain = false ∧ s.b.image = none ∧ 8 ≤ laneWidth ga ∧ 8 ≤ laneWidth gb :=
  ⟨{ up with a := stair (fun T => { T with trained := false }) up.a, b := dev (fun D => { D with stage := .rom, image := none }) up.b }, img, 0xFF, 0xFF000000, by decide +kernel⟩

theorem witness_StairTrainingBringsUpTheWidths_2 :
    ∃ (s : State) (im : Image) (ga gb : BitVec 32), s.por = false ∧ s.a.image = some im ∧ im.linked = true ∧ im.minWidth ≤ 8 ∧ s.a.dev.up = true ∧ s.b.dev.up = true ∧ s.b.dev.stage = .rom ∧ s.a.pwr.hall = .on ∧ s.b.pwr.hall = .on ∧ s.a.stair.trained = false ∧ s.a.stair.enable = true ∧ s.a.stair.retrain = false ∧ s.b.stair.retrain = false ∧ s.b.image = none ∧ 8 ≤ laneWidth ga ∧ 8 ≤ laneWidth gb ∧ s.a.stair.waits = [] :=
  ⟨{ up with a := stair (fun T => { T with trained := false }) up.a, b := dev (fun D => { D with stage := .rom, image := none }) up.b }, img, 0xFF, 0xFF000000, by decide +kernel⟩

theorem witness_StairTrainingBringsUpTheWidths_3 :
    ∃ (s : State) (im : Image) (ga gb : BitVec 32), s.por = false ∧ s.a.image = some im ∧ im.linked = true ∧ im.minWidth ≤ 8 ∧ s.a.dev.up = true ∧ s.b.dev.up = true ∧ s.b.dev.stage = .rom ∧ s.a.pwr.hall = .on ∧ s.b.pwr.hall = .on ∧ s.a.stair.trained = false ∧ s.a.stair.enable = true ∧ s.a.stair.retrain = false ∧ s.b.stair.retrain = false ∧ s.b.image = none ∧ 8 ≤ laneWidth ga ∧ 8 ≤ laneWidth gb ∧ s.b.stair.waits = [] :=
  ⟨{ up with a := stair (fun T => { T with trained := false }) up.a, b := dev (fun D => { D with stage := .rom, image := none }) up.b }, img, 0xFF, 0xFF000000, by decide +kernel⟩

theorem witness_PartnerIsLostOnMissedBeats_0 :
    ∃ (s : State) (h : HallId), s.por = false ∧ (s.hall h).dev.up = true ∧ (s.hall h).stair.enable = true ∧ (s.hall h).stair.trained = true ∧ (s.hall h).stair.lost = false ∧ (s.hall h).dev.staged ≠ 3 ∧ (s.hall h.other).dev.staged ≠ 3 :=
  ⟨up, .a, by decide +kernel⟩

theorem witness_PartnerIsLostOnMissedBeats_1 :
    ∃ (s : State) (h : HallId), s.por = false ∧ (s.hall h).stair.lost = true :=
  ⟨onA (stair fun T => { T with lost := true }), .a, by decide +kernel⟩

theorem witness_PartnerIsLostOnMissedBeats_2 :
    ∃ (s : State) (h : HallId), s.por = false ∧ (s.hall h).dev.up = true ∧ (s.hall h).stair.enable = true ∧ (s.hall h).stair.trained = true ∧ (s.hall h).stair.waits = [] ∧ (s.hall h).stair.begun = [] ∧ 0 < (s.hall h).stair.credits 4 0 :=
  ⟨up, .a, by decide +kernel⟩

theorem witness_PartnerIsLostOnMissedBeats_3 :
    ∃ (s : State) (h : HallId), s.por = false ∧ (s.hall h).dev.up = true ∧ (s.hall h).stair.enable = true ∧ (s.hall h).stair.trained = true :=
  ⟨up, .a, by decide +kernel⟩

theorem witness_PartnerIsLostOnMissedBeats_4 :
    ∃ (s : State) (h : HallId), s.por = false ∧ (s.hall h).stair.trained = false :=
  ⟨onA (stair fun T => { T with trained := false }), .a, by decide +kernel⟩

theorem witness_StairMessagesArrive_0 :
    ∃ (s : State) (h : HallId) (m : StairMsg), s.hears h m = true ∧ ((s.pop h m).hall h).stair.lost = false ∧ m.kind = 0 ∧ ((s.pop h m).hall h).rxCell h.idx (m.arg0 % 65536) m.part = true ∧ (bit m.arg2 0 = false ∨ (s.hall h.other).stair.outbox = [] ∧ (s.hall h).stair.moves = []) :=
  ⟨up, .a, msg 0 8203 1 0, by decide +kernel⟩

theorem witness_StairMessagesArrive_1 :
    ∃ (s : State) (h : HallId) (m : StairMsg), ∃ x, s.hears h m = true ∧ ((s.pop h m).hall h).stair.lost = false ∧ m.kind = 0 ∧ ((s.pop h m).hall h).rxCell h.idx (m.arg0 % 65536) m.part = true ∧ bit m.arg2 0 = true ∧ (s.hall h.other).stair.outbox = [] ∧ (((s.hall h).stair.moves.filter fun y => y.part == m.part).getLast? = some x) :=
  ⟨onA (stair fun T => { T with moves := [msg 1 0 0 1] }), .a, msg 0 8203 1 1, msg 1 0 0 1, by decide +kernel⟩

theorem witness_StairMessagesArrive_2 :
    ∃ (s : State) (h : HallId) (m : StairMsg), s.hears h m = true ∧ ((s.pop h m).hall h).stair.lost = false ∧ ((s.pop h m).hall h).rxCell h.idx (m.arg0 % 65536) m.part = false :=
  ⟨up, .a, msg 0 8319 1 0, by decide +kernel⟩

theorem witness_StairMessagesArrive_3 :
    ∃ (s : State) (h : HallId) (m : StairMsg), ∃ w, s.hears h m = true ∧ ((s.pop h m).hall h).stair.lost = false ∧ m.kind = 1 ∧ ((s.pop h m).hall h).rxWindow h.idx (m.arg0 % 65536) m.part = some w ∧ m.arg1 + m.data.length ≤ w.size ∧ bit m.arg2 0 = false :=
  ⟨up, .a, { msg 1 0 992 0 with len := 1, data := List.replicate 32 7 }, win0, by decide +kernel⟩

theorem witness_StairMessagesArrive_4 :
    ∃ (s : State) (h : HallId) (m : StairMsg), ∃ w, s.hears h m = true ∧ ((s.pop h m).hall h).stair.lost = false ∧ m.kind = 1 ∧ ((s.pop h m).hall h).rxWindow h.idx (m.arg0 % 65536) m.part = some w ∧ m.arg1 + m.data.length ≤ w.size ∧ bit m.arg2 0 = true ∧ ((s.pop h m).hall h).stair.moves = [] :=
  ⟨up, .a, { msg 1 0 992 1 with len := 1, data := List.replicate 32 7 }, win0, by decide +kernel⟩

theorem witness_StairMessagesArrive_5 :
    ∃ (s : State) (h : HallId) (m : StairMsg), ∃ w, s.hears h m = true ∧ ((s.pop h m).hall h).stair.lost = false ∧ m.kind = 1 ∧ ((s.pop h m).hall h).rxWindow h.idx (m.arg0 % 65536) m.part = some w ∧ w.size < m.arg1 + m.data.length :=
  ⟨up, .a, { msg 1 0 993 0 with len := 1, data := List.replicate 32 7 }, win0, by decide +kernel⟩

theorem witness_StairMessagesArrive_6 :
    ∃ (s : State) (h : HallId) (m : StairMsg), s.hears h m = true ∧ ((s.pop h m).hall h).stair.lost = false ∧ m.kind = 1 ∧ ((s.pop h m).hall h).rxWindow h.idx (m.arg0 % 65536) m.part = none :=
  ⟨up, .a, msg 1 1 0 0, by decide +kernel⟩

theorem witness_StairMessagesArrive_7 :
    ∃ (s : State) (h : HallId) (m : StairMsg), ∃ im t, s.hears h m = true ∧ ((s.pop h m).hall h).stair.lost = false ∧ m.kind = 2 ∧ ((s.pop h m).hall h).imageIn m.arg1 = some im ∧ ((s.pop h m).hall h).tableIn m.part m.arg1 = some t ∧ ((im.marks.any fun e => e.table == t.table && e.mark == m.arg0 % 65536) = true) :=
  ⟨up, .a, msg 2 1 0 0, img, tabl 2, by decide +kernel⟩

theorem witness_StairMessagesArrive_8 :
    ∃ (s : State) (h : HallId) (m : StairMsg), ∃ im t, s.hears h m = true ∧ ((s.pop h m).hall h).stair.lost = false ∧ m.kind = 2 ∧ ((s.pop h m).hall h).imageIn m.arg1 = some im ∧ ((s.pop h m).hall h).tableIn m.part m.arg1 = some t ∧ ((im.marks.any fun e => e.table == t.table && e.mark == m.arg0 % 65536) = false) :=
  ⟨up, .a, msg 2 2 0 0, img, tabl 2, by decide +kernel⟩

theorem witness_StairMessagesArrive_9 :
    ∃ (s : State) (h : HallId) (m : StairMsg), s.hears h m = true ∧ ((s.pop h m).hall h).stair.lost = false ∧ m.kind = 3 ∧ joinControl ((s.pop h m).hall h).stair.control m = (none, true) :=
  ⟨up, .a, { msg 3 0 32 0 with len := 1, data := List.replicate 32 7 }, by decide +kernel⟩

theorem witness_StairMessagesArrive_10 :
    ∃ (s : State) (h : HallId) (m : StairMsg), s.hears h m = true ∧ ((s.pop h m).hall h).stair.lost = false ∧ m.kind ≠ 4 :=
  ⟨up, .a, { msg 3 0 33 0 with len := 1, data := List.replicate 32 7 }, by decide +kernel⟩

theorem witness_StairMessagesArrive_11 :
    ∃ (s : State) (h : HallId) (m : StairMsg), s.hears h m = true ∧ ((s.pop h m).hall h).stair.lost = false ∧ m.kind ≠ 3 :=
  ⟨up, .a, msg 0 0 0 0, by decide +kernel⟩

theorem witness_StairMessagesArrive_12 :
    ∃ (s : State) (h : HallId) (m : StairMsg), ∃ im, s.hears h m = true ∧ ((s.pop h m).hall h).stair.lost = false ∧ m.kind = 4 ∧ ((s.pop h m).hall h).image = some im :=
  ⟨up, .a, msg 4 0 0 0, img, by decide +kernel⟩

theorem witness_ReferencesStartSweeps_0 :
    ∃ (s : State) (h : HallId) (src : RefSource) (im : Image), s.por = false ∧ (s.hall h).image = some im ∧ im.timebase.takes h.idx src = true ∧ s.accepts h = true ∧ (s.hall h).swp.started = false ∧ (s.hall h).swp.lastRef = none ∧ (s.hall h).stair.beat = none :=
  ⟨onAB (swp fun S => { S with started := false, waiting := true }), .a, .fsyncIn true, img, by decide +kernel⟩

theorem witness_ReferencesStartSweeps_1 :
    ∃ (s : State) (h : HallId) (src : RefSource) (tb l : Nat) (im : Image), s.por = false ∧ (s.hall h).image = some im ∧ im.timebase.takes h.idx src = true ∧ s.accepts h = true ∧ (s.hall h).swp.lastRef = some l ∧ tb - l < 90 * im.timebase.minUs :=
  ⟨onA (swp fun S => { S with lastRef := some 1 }), .a, .fsyncIn true, 2700000, 1, img, by decide +kernel⟩

theorem witness_ReferencesStartSweeps_2 :
    ∃ (s : State) (h : HallId) (src : RefSource) (im : Image), s.por = false ∧ (s.hall h).image = some im ∧ im.timebase.takes h.idx src = false :=
  ⟨up, .a, .fsyncIn false, img, by decide +kernel⟩

theorem witness_ReferencesStartSweeps_3 :
    ∃ (s : State) (h : HallId) (tb : Nat) (im : Image), s.por = false ∧ (s.hall h).dev.up = true ∧ (s.hall h).image = some im ∧ (s.hall h).swp.started = true ∧ (s.hall h).swp.lock = .locked ∧ (s.hall h).swp.t0 + im.timebase.nominal * 3 / 2 ≤ tb ∧ 0 < im.timebase.holdover :=
  ⟨up, .a, 4999950, img, by decide +kernel⟩

theorem witness_FreeRunningSweeps_0 :
    ∃ (s : State) (h : HallId) (tb : Nat), s.por = false ∧ (s.hall h).dev.up = true ∧ (s.hall h).swp.lock = .holdover ∧ (s.hall h).swp.follower = false ∧ (s.hall h).swp.t0 + (s.hall h).swp.per ≤ tb :=
  ⟨onA (swp fun S => { S with lock := .holdover }), .a, 3333300, by decide +kernel⟩

theorem witness_FreeRunningSweeps_1 :
    ∃ (s : State) (h : HallId) (tb : Nat) (im : Image), s.por = false ∧ (s.hall h).dev.up = true ∧ (s.hall h).image = some im ∧ im.timebase.source ≠ 2 ∧ (s.hall h).swp.lock = .generator ∧ (s.hall h).swp.follower = false ∧ (s.hall h).swp.t0 + (s.hall h).swp.per ≤ tb :=
  ⟨onA fun H => imaged (fun im => { im with timebase := { base with source := 1 } }) (swp (fun S => { S with lock := .generator }) H), .a, 3333300, { img with timebase := { base with source := 1 } }, by decide +kernel⟩

theorem witness_FreeRunningSweeps_2 :
    ∃ (s : State) (h : HallId) (tb : Nat), s.por = false ∧ tb < (s.hall h).swp.t0 + (s.hall h).swp.per ∧ (s.hall h).swp.lock = .holdover :=
  ⟨onA (swp fun S => { S with lock := .holdover }), .a, 3333299, by decide +kernel⟩

theorem witness_TicksFollowTheSweep_0 :
    ∃ (s : State) (h : HallId), s.por = false ∧ (s.hall h).dev.up = true ∧ (s.hall h).swp.started = true ∧ (s.hall h).swp.boundaryDue = true :=
  ⟨onA (swp fun S => { S with boundaryDue := true }), .a, by decide +kernel⟩

theorem witness_TicksFollowTheSweep_1 :
    ∃ (s : State) (h : HallId) (tb : Nat), s.por = false ∧ (s.hall h).dev.up = true ∧ (s.hall h).swp.started = true ∧ (s.hall h).swp.boundaryDue = false ∧ (s.hall h).swp.tick < 4095 ∧ tb < (s.hall h).tickStart ((s.hall h).swp.tick + 1) :=
  ⟨up, .a, 812, by decide +kernel⟩

theorem witness_TicksFollowTheSweep_2 :
    ∃ (s : State) (h : HallId) (tb : Nat), s.por = false ∧ (s.hall h).dev.up = true ∧ (s.hall h).swp.started = true ∧ (s.hall h).swp.boundaryDue = false ∧ (s.hall h).swp.tick < 4095 ∧ (s.hall h).swp.tick ≠ 2047 ∧ (s.hall h).tickStart ((s.hall h).swp.tick + 1) ≤ tb :=
  ⟨up, .a, 813, by decide +kernel⟩

theorem witness_TicksFollowTheSweep_3 :
    ∃ (s : State) (h : HallId) (tb : Nat), s.por = false ∧ (s.hall h).dev.up = true ∧ (s.hall h).swp.started = true ∧ (s.hall h).swp.boundaryDue = false ∧ (s.hall h).swp.tick = 4095 ∧ (s.hall h).swp.t0 + (s.hall h).swp.per + (s.hall h).swp.per / 4096 < tb ∧ (s.hall h).swp.lock = .locked :=
  ⟨onA (swp fun S => { S with tick := 4095 }), .a, 3334114, by decide +kernel⟩

theorem witness_SweepCountsAndPulsesEnd_0 :
    ∃ (s : State) (h : HallId) (g c : Nat), s.por = false ∧ (s.hall h).dev.up = true ∧ 1024 ≤ ((s.hall h).gal g).clean.getD c 0 :=
  ⟨onA fun H => H.onGal 0 fun G => { G with clean := modAt G.clean 11 fun _ => 1024 }, .a, 0, 11, by decide +kernel⟩

theorem witness_SweepCountsAndPulsesEnd_1 :
    ∃ (s : State) (h : HallId), s.por = false ∧ (s.hall h).dev.up = true ∧ (s.hall h).swp.warming = 1 ∧ (s.hall h).swp.boundaryDue = true :=
  ⟨onA (swp fun S => { S with warming := 1, boundaryDue := true }), .a, by decide +kernel⟩

theorem witness_SweepCountsAndPulsesEnd_2 :
    ∃ (s : State) (n tb : Nat), s.por = false ∧ s.a.dev.up = true ∧ s.a.swp.pulse.getLsbD n = true ∧ s.a.swp.pulseEnd.getD n 0 ≤ tb :=
  ⟨onA (swp fun S => { S with pulse := 8, pulseEnd := [0, 0, 0, 500] }), 3, 500, by decide +kernel⟩

theorem witness_SweepCountsAndPulsesEnd_3 :
    ∃ (s : State) (n tb : Nat), s.por = false ∧ s.a.dev.up = true ∧ s.a.swp.pulse.getLsbD n = true ∧ tb < s.a.swp.pulseEnd.getD n 0 :=
  ⟨onA (swp fun S => { S with pulse := 8, pulseEnd := [0, 0, 0, 500] }), 3, 499, by decide +kernel⟩

theorem witness_SweepCountsAndPulsesEnd_4 :
    ∃ (s : State) (h : HallId) (p n : Nat) (im : Image) (t : SweepTable) (sl : Slot) (r : SlotRun), s.por = false ∧ (s.hall h).dev.up = true ∧ (s.hall h).image = some im ∧ (s.hall h).tableOf p = some t ∧ t.slot n = some sl ∧ (s.hall h).run p t.table n (s.hall h).swp.sweep = some r ∧ r.waiting = true ∧ r.cancelled = false ∧ r.issued = false ∧ (s.hall h).slotIdle p t.table n = true ∧ ((((s.hall h).mapLog p sl.lgallery).any fun g => (s.hall h).pwr.drains.getLsbD g) = false) :=
  ⟨onA (swp fun S => { S with runs := [run0] }), .a, 0, 0, img, tabl 0, slot0, run0, by decide +kernel⟩

theorem witness_FetchPlacesTheNextCommand_0 :
    ∃ (s : State) (h : HallId) (ctx : Nat) (x : Ctx) (d : List Byte), s.por = false ∧ (s.hall h).ctx ctx = some x ∧ x.placed = true ∧ x.st = .resident ∧ x.fetching = true ∧ x.cmds.length < 8 ∧ (s.hall h).coreRuns x.core = true ∧ (s.hall h).fetchHeld h.idx x x.fetch = false ∧ x.fetch < x.desc.streamLen ∧ (s.hall h).streamBytes h.idx x x.fetch = some d ∧ (s.hall h).streamFault x x.fetch = none ∧ x.replayTo ≤ x.fetch ∧ (s.hall h).headerFault h.idx x x.fetch d = none :=
  ⟨onA fun H => { H.onGal 0 fun G => { G with store := { G.store with mem := ⟨[(4096, 1)]⟩ } } with ctxs := [ctx0] }, .a, 0, ctx0, desc [(0, 1, 1)], by decide +kernel⟩

theorem witness_FetchPlacesTheNextCommand_1 :
    ∃ (s : State) (h : HallId) (ctx : Nat) (x : Ctx) (d : List Byte), ∃ c, s.por = false ∧ (s.hall h).ctx ctx = some x ∧ x.placed = true ∧ x.st = .resident ∧ x.fetching = true ∧ x.cmds.length < 8 ∧ (s.hall h).coreRuns x.core = true ∧ (s.hall h).fetchHeld h.idx x x.fetch = false ∧ x.fetch < x.desc.streamLen ∧ (s.hall h).streamBytes h.idx x x.fetch = some d ∧ (s.hall h).streamFault x x.fetch = none ∧ x.replayTo ≤ x.fetch ∧ (s.hall h).headerFault h.idx x x.fetch d = some c :=
  ⟨onA fun H => { H with ctxs := [ctx0] }, .a, 0, ctx0, desc [], 0x0101, by decide +kernel⟩

theorem witness_FetchPlacesTheNextCommand_2 :
    ∃ (s : State) (h : HallId) (ctx : Nat) (x : Ctx), s.por = false ∧ (s.hall h).ctx ctx = some x ∧ x.placed = true ∧ x.st = .resident ∧ x.fetching = true ∧ x.cmds.length < 8 ∧ (s.hall h).coreRuns x.core = true ∧ (s.hall h).fetchHeld h.idx x x.fetch = false ∧ x.desc.streamLen ≤ x.fetch :=
  ⟨onA fun H => { H with ctxs := [{ ctx0 with fetch := 4 }] }, .a, 0, { ctx0 with fetch := 4 }, by decide +kernel⟩

theorem witness_FetchPlacesTheNextCommand_3 :
    ∃ (s : State) (h : HallId) (ctx : Nat) (x : Ctx), s.por = false ∧ (s.hall h).ctx ctx = some x ∧ (x.fetching = false ∨ 8 ≤ x.cmds.length ∨ x.st ≠ .resident ∨ (s.hall h).fetchHeld h.idx x x.fetch = true) :=
  ⟨withCmds (List.replicate 8 setCmd), .a, 0, { ctx0 with cmds := List.replicate 8 setCmd }, by decide +kernel⟩

theorem witness_SyncAndEndCommitAtTheHead_0 :
    ∃ (s : State) (h : HallId) (ctx cyc op : Nat) (row : Instr) (x : Ctx) (k : Cmd) (r : List Cmd), s.por = false ∧ (row = .endStream h ctx cyc ∧ op = 1 ∨ row = .sync h ctx cyc ∧ op = 2) ∧ (s.hall h).ctx ctx = some x ∧ x.cmds = k :: r ∧ k.op = op ∧ k.waitDone = true ∧ x.placed = true ∧ k.stage = .queued ∧ k.suppress = false :=
  ⟨withCmds [cmd (desc [(0, 1, 2)])], .a, 0, 9, 2, .sync .a 0 9, { ctx0 with cmds := [cmd (desc [(0, 1, 2)])] }, cmd (desc [(0, 1, 2)]), [], by decide +kernel⟩

theorem witness_SyncAndEndCommitAtTheHead_1 :
    ∃ (s : State) (h : HallId) (ctx : Nat) (x : Ctx) (k : Cmd) (r : List Cmd), s.por = false ∧ (s.hall h).ctx ctx = some x ∧ x.cmds = k :: r ∧ (k.op ≠ 1 ∨ k.waitDone = false) :=
  ⟨withCmds [{ cmd (desc [(0, 1, 1)]) with waitDone := false }], .a, 0, { ctx0 with cmds := [{ cmd (desc [(0, 1, 1)]) with waitDone := false }] }, { cmd (desc [(0, 1, 1)]) with waitDone := false }, [], by decide +kernel⟩

theorem witness_SyncAndEndCommitAtTheHead_2 :
    ∃ (s : State) (h : HallId) (ctx : Nat) (x : Ctx) (k : Cmd) (r : List Cmd), s.por = false ∧ (s.hall h).ctx ctx = some x ∧ x.cmds = k :: r ∧ (k.op ≠ 2 ∨ k.waitDone = false) :=
  ⟨withCmds [setCmd], .a, 0, { ctx0 with cmds := [setCmd] }, setCmd, [], by decide +kernel⟩

theorem witness_MoverCommandsIssue_0 :
    ∃ (R : Hall) (x : Ctx) (d : List Byte) (b : Built), issuePlace R x d = .ok b :=
  ⟨(onA fun H => { H with mem := { H.mem with caches := [cache0] } }).a, ctx0, desc [(0, 1, 0x11), (24, 2, 1), (61, 1, 1)], (okVal (issuePlace (onA fun H => { H with mem := { H.mem with caches := [cache0] } }).a ctx0 (desc [(0, 1, 0x11), (24, 2, 1), (61, 1, 1)]))).getD Built.empty, ofOk (by decide +kernel)⟩

theorem witness_MoverCommandsIssue_1 :
    ∃ (R : Hall) (h : Nat) (x : Ctx) (d : List Byte) (b : Built), issueCell R h x d = .ok b :=
  ⟨up.a, 0, ctx0, setCmd.desc, (okVal (issueCell up.a 0 ctx0 setCmd.desc)).getD Built.empty, ofOk (by decide +kernel)⟩

theorem witness_CommandsCommitPublishAndDie_0 :
    ∃ (s : State) (h : HallId) (ctx pos cyc : Nat) (x : Ctx) (k : Cmd), s.por = false ∧ (s.hall h).ctx ctx = some x ∧ x.cmd pos = some k :=
  ⟨withCmds [{ setCmd with stage := .running, issued := 7 }], .a, 0, 0, 7, { ctx0 with cmds := [{ setCmd with stage := .running, issued := 7 }] }, { setCmd with stage := .running, issued := 7 }, by decide +kernel⟩

theorem witness_CommandsCommitPublishAndDie_1 :
    ∃ (s : State) (h : HallId) (ctx pos cyc : Nat) (x : Ctx) (k : Cmd), let H := (s.hall h).onward cyc; s.por = false ∧ (s.hall h).ctx ctx = some x ∧ x.cmd pos = some k ∧ k.stage = .running ∧ (k.killReq = none ∨ cyc ≤ k.killAt) ∧ k.issued + k.built.run ≤ cyc ∧ H.reading k = false ∧ H.outOfTurn k cyc = false ∧ k.built.ends = none ∧ H.haloConflict x k = false ∧ k.suppress = false :=
  ⟨withCmds [{ setCmd with stage := .running, issued := 7 }], .a, 0, 0, 7, { ctx0 with cmds := [{ setCmd with stage := .running, issued := 7 }] }, { setCmd with stage := .running, issued := 7 }, by decide +kernel⟩

theorem witness_CommandsCommitPublishAndDie_2 :
    ∃ (s : State) (h : HallId) (ctx pos cyc : Nat) (x : Ctx) (k : Cmd), let H := (s.hall h).onward cyc; s.por = false ∧ (s.hall h).ctx ctx = some x ∧ x.cmd pos = some k ∧ k.stage = .running ∧ (k.killReq = none ∨ cyc ≤ k.killAt) ∧ k.issued + k.built.run ≤ cyc ∧ H.reading k = false ∧ H.outOfTurn k cyc = false ∧ k.built.ends = none ∧ H.haloConflict x k = true ∧ k.haloHeld = false :=
  ⟨onA fun H => { H with ctxs := [{ ctx0 with cmds := [haloCmd] }, { ctx0 with num := 1, core := 1, home := 1, cmds := [readCmd] }] }, .a, 0, 0, 7, { ctx0 with cmds := [haloCmd] }, haloCmd, by decide +kernel⟩

theorem witness_CommandsCommitPublishAndDie_3 :
    ∃ (s : State) (h : HallId) (ctx pos cyc : Nat) (x : Ctx) (k : Cmd), let H := (s.hall h).onward cyc; ∃ code, s.por = false ∧ (s.hall h).ctx ctx = some x ∧ x.cmd pos = some k ∧ k.stage = .running ∧ (k.killReq = none ∨ cyc ≤ k.killAt) ∧ k.issued + k.built.run ≤ cyc ∧ H.reading k = false ∧ H.outOfTurn k cyc = false ∧ k.built.ends = some code :=
  ⟨withCmds [{ setCmd with stage := .running, issued := 7, built := { Built.empty with ends := some 0x0308 } }], .a, 0, 0, 7, { ctx0 with cmds := [{ setCmd with stage := .running, issued := 7, built := { Built.empty with ends := some 0x0308 } }] }, { setCmd with stage := .running, issued := 7, built := { Built.empty with ends := some 0x0308 } }, 0x0308, by decide +kernel⟩

theorem witness_CommandsCommitPublishAndDie_4 :
    ∃ (s : State) (h : HallId) (ctx pos cyc : Nat) (x : Ctx) (k : Cmd), let H := (s.hall h).onward cyc; s.por = false ∧ (s.hall h).ctx ctx = some x ∧ x.cmd pos = some k ∧ k.stage = .publishing ∧ k.commit + pubTime x k.built ≤ cyc ∧ H.behind x k = false ∧ H.struckLater x.core k.built.sets = false ∧ k.poisoned = none ∧ (((((s.onHall h fun _ => H.publishAll h.idx x k).finish h x k cyc).hall h).core x.core).resetDue = false) :=
  ⟨withCmds [{ setCmd with stage := .publishing, commit := 7 }], .a, 0, 0, 30, { ctx0 with cmds := [{ setCmd with stage := .publishing, commit := 7 }] }, { setCmd with stage := .publishing, commit := 7 }, by decide +kernel⟩

theorem witness_CommandsCommitPublishAndDie_5 :
    ∃ (s : State) (h : HallId) (ctx pos cyc : Nat) (x : Ctx) (k : Cmd), s.por = false ∧ (s.hall h).ctx ctx = some x ∧ x.cmd pos = some k ∧ (k.stage ≠ .publishing ∨ cyc < k.commit + pubTime x k.built) :=
  ⟨withCmds [{ setCmd with stage := .running, killReq := some .overrun }], .a, 0, 0, 0, { ctx0 with cmds := [{ setCmd with stage := .running, killReq := some .overrun }] }, { setCmd with stage := .running, killReq := some .overrun }, by decide +kernel⟩

theorem witness_CommandsCommitPublishAndDie_6 :
    ∃ (s : State) (h : HallId) (ctx pos cyc : Nat) (x : Ctx) (k : Cmd), ∃ cause, s.por = false ∧ (s.hall h).ctx ctx = some x ∧ x.cmd pos = some k ∧ k.stage = .running ∧ k.killReq = some cause ∧ cause ≠ .cancel ∧ cause ≠ .overrun :=
  ⟨withCmds [{ setCmd with stage := .running, killReq := some .preempt }], .a, 0, 0, 0, { ctx0 with cmds := [{ setCmd with stage := .running, killReq := some .preempt }] }, { setCmd with stage := .running, killReq := some .preempt }, .preempt, by decide +kernel⟩

theorem witness_CommandsCommitPublishAndDie_7 :
    ∃ (s : State) (h : HallId) (ctx pos cyc : Nat) (x : Ctx) (k : Cmd), s.por = false ∧ (s.hall h).ctx ctx = some x ∧ x.cmd pos = some k ∧ k.stage = .running ∧ k.killReq = some .overrun :=
  ⟨withCmds [{ setCmd with stage := .running, killReq := some .overrun }], .a, 0, 0, 0, { ctx0 with cmds := [{ setCmd with stage := .running, killReq := some .overrun }] }, { setCmd with stage := .running, killReq := some .overrun }, by decide +kernel⟩

theorem witness_CommandsCommitPublishAndDie_8 :
    ∃ (s : State) (h : HallId) (ctx pos cyc : Nat) (x : Ctx) (k : Cmd), s.por = false ∧ (s.hall h).ctx ctx = some x ∧ x.cmd pos = some k ∧ k.stage = .running ∧ k.killReq = some .cancel :=
  ⟨withCmds [{ setCmd with stage := .running, killReq := some .cancel }], .a, 0, 0, 0, { ctx0 with cmds := [{ setCmd with stage := .running, killReq := some .cancel }] }, { setCmd with stage := .running, killReq := some .cancel }, by decide +kernel⟩

theorem witness_CommandsCommitPublishAndDie_9 :
    ∃ (s : State) (h : HallId) (ctx pos cyc : Nat) (x : Ctx) (k : Cmd), s.por = false ∧ (s.hall h).ctx ctx = some x ∧ x.cmd pos = some k ∧ (k.stage ≠ .running ∨ k.killReq = none) :=
  ⟨withCmds [{ setCmd with stage := .queued }], .a, 0, 0, 0, { ctx0 with cmds := [{ setCmd with stage := .queued }] }, { setCmd with stage := .queued }, by decide +kernel⟩

theorem witness_CommandsCommitPublishAndDie_10 :
    ∃ (s : State) (h : HallId) (ctx pos cyc : Nat) (x : Ctx) (k : Cmd), s.por = false ∧ (s.hall h).ctx ctx = some x ∧ x.cmd pos = some k ∧ k.stage = .running ∧ k.issued + 65536 ≤ cyc :=
  ⟨withCmds [{ setCmd with stage := .running, issued := 7 }], .a, 0, 0, 65543, { ctx0 with cmds := [{ setCmd with stage := .running, issued := 7 }] }, { setCmd with stage := .running, issued := 7 }, by decide +kernel⟩

theorem witness_CommandsCommitPublishAndDie_11 :
    ∃ (s : State) (h : HallId) (ctx pos cyc : Nat) (x : Ctx) (k : Cmd), s.por = false ∧ (s.hall h).ctx ctx = some x ∧ x.cmd pos = some k ∧ (k.stage ≠ .running ∨ cyc < k.issued + 65536) :=
  ⟨withCmds [{ setCmd with stage := .running, issued := 7 }], .a, 0, 0, 65542, { ctx0 with cmds := [{ setCmd with stage := .running, issued := 7 }] }, { setCmd with stage := .running, issued := 7 }, by decide +kernel⟩

theorem witness_ContextsSwapAndAdmit_0 :
    ∃ (s : State) (h : HallId) (c cyc : Nat) (w : Ctx), let H := (s.hall h).onward cyc; s.por = false ∧ H.nextWaiting c = some w ∧ H.coreTakes c = true ∧ H.pwr.drains.getLsbD (galOf c) = false ∧ H.fits h.idx w c = true :=
  ⟨onA fun H => { H with ctxs := [{ ctx0 with st := .waiting, rslot := none }] }, .a, 0, 0, { ctx0 with st := .waiting, rslot := none }, by decide +kernel⟩

theorem witness_ContextsSwapAndAdmit_1 :
    ∃ (s : State) (h : HallId) (c cyc : Nat), s.por = false ∧ ((s.hall h).onward cyc).nextWaiting c = none :=
  ⟨up, .a, 0, 0, by decide +kernel⟩

theorem witness_ContextsSwapAndAdmit_2 :
    ∃ (s : State) (h : HallId) (ctx cyc : Nat) (x : Ctx) (k : Cmd) (r : List Cmd), let H := ((s.hall h).onward cyc).resumeSaves h.idx; s.por = false ∧ H.ctx ctx = some x ∧ x.swap = .saving ∧ x.cmds = k :: r ∧ x.alive = true ∧ x.st = .resident ∧ H.pwr.drains.getLsbD (galOf x.core) = false :=
  ⟨onA fun H => { H with ctxs := [{ ctx0 with swap := .saving, cmds := [{ setCmd with waitDone := false }] }] }, .a, 0, 0, { ctx0 with swap := .saving, cmds := [{ setCmd with waitDone := false }] }, { setCmd with waitDone := false }, [], by decide +kernel⟩

theorem witness_ContextsSwapAndAdmit_3 :
    ∃ (s : State) (h : HallId) (ctx : Nat) (x : Ctx) (v : Saved), s.por = false ∧ (s.hall h).ctx ctx = some x ∧ x.swap = .restoring ∧ x.saved = some v ∧ v.marks = [] :=
  ⟨onA fun H => { H with ctxs := [{ ctx0 with swap := .restoring, saved := some ⟨0, [], [], [], []⟩ }] }, .a, 0, { ctx0 with swap := .restoring, saved := some ⟨0, [], [], [], []⟩ }, ⟨0, [], [], [], []⟩, by decide +kernel⟩

theorem witness_ContextsSwapAndAdmit_4 :
    ∃ (s : State) (h : HallId) (n b i : Nat) (f : Frame), s.por = false ∧ (s.hall h).frame n = some f ∧ f.st = .movingDown ∧ f.piece = some (b, i) ∧ f.homeValid = true ∧ f.pins = 0 :=
  ⟨onA (mem fun M => { M with frames := [(0, { frame0 with st := .movingDown })] }), .a, 0, 0, 0, { frame0 with st := .movingDown }, by decide +kernel⟩

theorem witness_ContextsSwapAndAdmit_5 :
    ∃ (s : State) (h : HallId) (i v : Nat) (set : Bool) (r : List (Nat × Nat × Bool)), s.por = false ∧ (s.hall h).mem.cellQueue = (i, v, set) :: r :=
  ⟨onA (mem fun M => { M with cellQueue := [(8192, 1, false)] }), .a, 8192, 1, false, [], by decide +kernel⟩

theorem witness_SignalsSaturateAndSetsReplace_0 :
    ∃ (H : Hall) (i k : Nat), 0 < H.cell i + k :=
  ⟨up.a, 0, 1, by decide +kernel⟩

theorem witness_SignalsSaturateAndSetsReplace_1 :
    ∃ v : Nat, 0 < v :=
  ⟨1, by decide +kernel⟩

theorem witness_SignalsSaturateAndSetsReplace_2 :
    ∃ i j : Nat, j ≠ i :=
  ⟨0, 65535, by decide +kernel⟩

theorem witness_SignalsSaturateAndSetsReplace_3 :
    ∃ H : Hall, (H.mem.cells.Pairwise (fun a b => a.1 < b.1)) :=
  ⟨up.a, by decide +kernel⟩

theorem witness_CorrectableErrorsAreCountedAndLogged_0 :
    ∃ (s : State) (h : HallId) (x : CeHit), s.por = false ∧ (s.hall h).dev.up = true ∧ x.place ≠ 9 :=
  ⟨up, .a, ⟨8, 0, 0, 0⟩, by decide +kernel⟩

theorem witness_CorrectableErrorsAreCountedAndLogged_1 :
    ∃ (s : State) (h : HallId) (x : CeHit), ∃ i, s.por = false ∧ (s.hall h).dev.up = true ∧ x.place ≠ 9 ∧ ((s.hall h).err.ceLog.findIdx? (fun c => c.names x) = some i) :=
  ⟨onA (err fun E => { E with ceLog := modAt E.ceLog 31 fun _ => ⟨true, 8, 0, 1, 0, 0, 0, 0⟩ }), .a, ⟨8, 0, 0, 0⟩, 31, by decide +kernel⟩

theorem witness_CorrectableErrorsAreCountedAndLogged_2 :
    ∃ (s : State) (h : HallId) (x : CeHit), ∃ i, s.por = false ∧ (s.hall h).dev.up = true ∧ x.place ≠ 9 ∧ ((s.hall h).err.ceLog.findIdx? (fun c => c.names x) = none) ∧ ((s.hall h).err.ceLog.findIdx? (fun c => !c.valid) = some i) :=
  ⟨up, .a, ⟨8, 0, 0, 0⟩, 0, by decide +kernel⟩

theorem witness_CorrectableErrorsAreCountedAndLogged_3 :
    ∃ (s : State) (h : HallId) (x : CeHit), s.por = false ∧ (s.hall h).dev.up = true ∧ x.place ≠ 9 ∧ ((s.hall h).err.ceLog.findIdx? (fun c => c.names x) = none) ∧ ((s.hall h).err.ceLog.findIdx? (fun c => !c.valid) = none) :=
  ⟨onA (err fun E => { E with ceLog := List.replicate 32 ⟨true, 7, 0, 1, 0, 0, 0, 0⟩ }), .a, ⟨8, 0, 0, 0⟩, by decide +kernel⟩

theorem witness_CorrectableErrorsAreCountedAndLogged_4 :
    ∃ (s : State) (h : HallId) (x : CeHit), s.por = false ∧ (s.hall h).dev.up = true ∧ x.place = 9 :=
  ⟨up, .a, ⟨9, 0, 0, 0⟩, by decide +kernel⟩

theorem witness_CorrectableErrorsAreCountedAndLogged_5 :
    ∃ (s : State) (h : HallId), s.por = false ∧ (s.hall h).dev.up = false :=
  ⟨onA (dev fun D => { D with up := false }), .a, by decide +kernel⟩

theorem witness_UncorrectableErrorsResetTheEnclosingDomain_0 :
    ∃ (s : State) (h : HallId) (c : Nat), s.por = false ∧ (s.hall h).dev.up = true ∧ c < 96 ∧ ((s.hall h).gal (galOf c)).st ≠ .off :=
  ⟨up, .a, 35, by decide +kernel⟩

theorem witness_UncorrectableErrorsResetTheEnclosingDomain_1 :
    ∃ (s : State) (h : HallId) (c a : Nat), s.por = false ∧ (s.hall h).dev.up = true ∧ c < 96 ∧ ((s.hall h).gal (galOf c)).st ≠ .off ∧ (((s.onHall h fun H => H.noteUe 2 c).hall h).publisher c a = none) :=
  ⟨up, .a, 35, 0, by decide +kernel⟩

theorem witness_UncorrectableErrorsResetTheEnclosingDomain_2 :
    ∃ (s : State) (h : HallId) (c : Nat), ∃ b : Nat, s.por = false ∧ (s.hall h).dev.up = true ∧ c < 96 ∧ ((s.hall h).gal (galOf c)).st ≠ .off ∧ b < 16 :=
  ⟨up, .a, 35, 15, by decide +kernel⟩

theorem witness_UncorrectableErrorsResetTheEnclosingDomain_3 :
    ∃ (s : State) (h : HallId) (g : Nat), s.por = false ∧ (s.hall h).dev.up = true ∧ g < 8 ∧ ((s.hall h).gal g).st ≠ .off :=
  ⟨up, .a, 2, by decide +kernel⟩

theorem witness_UncorrectableErrorsResetTheEnclosingDomain_4 :
    ∃ (s : State) (h : HallId), s.por = false ∧ (s.hall h).dev.up = true :=
  ⟨up, .a, by decide +kernel⟩

theorem witness_UncorrectableErrorsResetTheEnclosingDomain_5 :
    ∃ (s : State) (h : HallId) (g c : Nat), s.por = false ∧ (s.hall h).dev.up = true ∧ ((s.hall h).gal g).galResetting = false ∧ ((s.hall h).gal g).resetting.getLsbD c = true :=
  ⟨onA fun H => H.onGal 0 fun G => { G with resetting := 0x800 }, .a, 0, 11, by decide +kernel⟩

theorem witness_UncorrectableErrorsResetTheEnclosingDomain_6 :
    ∃ (s : State) (h : HallId) (g : Nat), s.por = false ∧ (s.hall h).dev.up = true ∧ ((s.hall h).gal g).galResetting = true :=
  ⟨onA fun H => H.onGal 7 fun G => { G with galResetting := true }, .a, 7, by decide +kernel⟩

theorem witness_ScrubbingAndPasses_0 :
    ∃ (s : State) (h : HallId), s.por = false ∧ (s.hall h).dev.up = true ∧ (s.hall h).err.scrubMode = 1 :=
  ⟨onA (err fun E => { E with scrubMode := 1 }), .a, by decide +kernel⟩

theorem witness_ScrubbingAndPasses_1 :
    ∃ (s : State) (h : HallId), s.por = false ∧ (s.hall h).err.scrubMode ≠ 1 :=
  ⟨up, .a, by decide +kernel⟩

theorem witness_ScrubbingAndPasses_2 :
    ∃ (s : State) (h : HallId) (p q : Pass) (r : List Pass), s.por = false ∧ (s.hall h).dev.up = true ∧ (s.hall h).err.passes = p :: q :: r :=
  ⟨onA (err fun E => { E with passes := [⟨0, 0, 0, 1, true⟩, ⟨1, 0, 0, 1, true⟩] }), .a, ⟨0, 0, 0, 1, true⟩, ⟨1, 0, 0, 1, true⟩, [], by decide +kernel⟩

theorem witness_PinsTemperatureAndWatchdog_0 :
    ∃ (s : State) (h : HallId), s.por = false ∧ (s.hall h).dev.up = true ∧ (s.hall h).err.pin = true ∧ (s.hall h).asserting h.idx = false :=
  ⟨up, .a, by decide +kernel⟩

theorem witness_PinsTemperatureAndWatchdog_1 :
    ∃ (s : State) (h : HallId), s.por = false ∧ (s.hall h).dev.up = true ∧ (s.hall h).err.pin = true ∧ (s.hall h).asserting h.idx = true :=
  ⟨onA (swp fun S => { S with lock := .generator }), .a, by decide +kernel⟩

theorem witness_PinsTemperatureAndWatchdog_2 :
    ∃ (s : State) (h : HallId), s.por = false ∧ (s.hall h).dev.up = true ∧ (s.hall h).err.pin = true ∧ (s.hall h).asserting h.idx = false :=
  ⟨up, .a, by decide +kernel⟩

theorem witness_PinsTemperatureAndWatchdog_3 :
    ∃ (s : State) (h : HallId), s.por = false ∧ (s.hall h).dev.up = true :=
  ⟨up, .a, by decide +kernel⟩

theorem witness_PinsTemperatureAndWatchdog_4 :
    ∃ (s : State) (h : HallId), s.por = false ∧ (s.hall h).dev.up = false :=
  ⟨onA (dev fun D => { D with up := false }), .a, by decide +kernel⟩

theorem witness_PinsTemperatureAndWatchdog_5 :
    ∃ (s : State) (h : HallId) (c : Nat), s.por = false ∧ (s.hall h).dev.up = true ∧ (s.hall h).mem.trained = true ∧ (s.hall h).mem.selfRefresh = false ∧ (s.hall h).mem.chanGood.getLsbD c = true :=
  ⟨up, .a, 31, by decide +kernel⟩

theorem witness_PinsTemperatureAndWatchdog_6 :
    ∃ (s : State) (h : HallId), s.por = false ∧ (s.hall h).dev.up = true ∧ (s.hall h).mem.trained = true ∧ (s.hall h).mem.selfRefresh = false :=
  ⟨up, .a, by decide +kernel⟩

theorem witness_StoresReadBackWhatIsWritten_0 :
    ∃ M N : Memory, M.wf = true ∧ N.wf = true :=
  ⟨⟨[(3, 1)]⟩, ⟨[]⟩, by decide +kernel⟩

theorem witness_StoresReadBackWhatIsWritten_1 :
    ∃ (M N : Memory) (a b : Nat), M.wf = true ∧ N.wf = true ∧ b ≠ a :=
  ⟨⟨[(3, 1)]⟩, ⟨[]⟩, 0, 1, by decide +kernel⟩

theorem witness_StoresReadBackWhatIsWritten_2 :
    ∃ M N : Memory, M.wf = true ∧ N.wf = true ∧ (∀ i, M.get i = N.get i) :=
  ⟨⟨[]⟩, ⟨[]⟩, rfl, rfl, fun _ => rfl⟩

theorem witness_ReencryptionSweepSteps_0 :
    ∃ (s : State) (h : HallId), s.por = false ∧ ((s.hall h).sec.sweeps = [] ∨ (s.hall h).mem.selfRefresh = true) :=
  ⟨up, .a, by decide +kernel⟩

theorem witness_ReencryptionSweepSteps_1 :
    ∃ (s : State) (h : HallId) (d n : Nat) (rest r : List Nat) (x : Dom) (f : Frame), s.por = false ∧ (s.hall h).dev.up = true ∧ (s.hall h).mem.selfRefresh = false ∧ (s.hall h).sec.sweeps = d :: rest ∧ (s.hall h).sec.sweepFrames = n :: r ∧ (s.hall h).dom d = some x ∧ (s.hall h).frame n = some f ∧ f.dom = d ∧ f.homeValid = true ∧ f.epoch ≠ x.current :=
  ⟨onA fun H => sec (fun S => { S with sweeps := [1], sweepFrames := [0] }) (mem (fun M => { M with frames := [(0, frame0)] }) H), .a, 1, 0, [], [], dom1, frame0, by decide +kernel⟩

theorem witness_ReencryptionSweepSteps_2 :
    ∃ (s : State) (h : HallId) (d : Nat) (rest : List Nat) (im : Image) (t : TenantEntry), s.por = false ∧ (s.hall h).dev.up = true ∧ (s.hall h).mem.selfRefresh = false ∧ (s.hall h).sec.sweeps = d :: rest ∧ (s.hall h).sec.sweepFrames = [] ∧ (s.hall h).image = some im ∧ im.tenant d = some t ∧ (s.hall h).sec.cursor < (t.extent h.idx).2 * 256 :=
  ⟨onA (sec fun S => { S with sweeps := [1], cursor := 4095 }), .a, 1, [], img, tenant1, by decide +kernel⟩

theorem witness_ReencryptionSweepSteps_3 :
    ∃ (s : State) (h : HallId) (d : Nat) (rest : List Nat) (x : Dom), s.por = false ∧ (s.hall h).dev.up = true ∧ (s.hall h).mem.selfRefresh = false ∧ (s.hall h).sec.sweeps = d :: rest ∧ (s.hall h).sec.sweepFrames = [] ∧ (s.hall h).image = none ∧ (s.hall h).sec.sweepSkipped = [] ∧ (s.hall h).oldFrames d = [] ∧ (s.hall h).dom d = some x :=
  ⟨onA fun H => dev (fun D => { D with image := none }) (sec (fun S => { S with sweeps := [1] }) H), .a, 1, [], dom1, by decide +kernel⟩

theorem witness_KeysAndScrubsEnd_0 :
    ∃ (s : State) (h : HallId), s.por = false ∧ (s.hall h).dev.up = true :=
  ⟨up, .a, by decide +kernel⟩

theorem witness_KeysAndScrubsEnd_1 :
    ∃ (s : State) (h : HallId) (n : Nat) (e : Session), s.por = false ∧ (s.hall h).dev.up = true ∧ (((s.hall h).sec.sessions.find? fun e => e.num == n && e.releasing) = some e) :=
  ⟨onA (sec fun S => { S with sessions := [{ ses0 with releasing := true }] }), .a, 0, { ses0 with releasing := true }, by decide +kernel⟩

theorem witness_KeysAndScrubsEnd_2 :
    ∃ (s : State) (h : HallId) (n : Nat), s.por = false ∧ (((s.hall h).sec.sessions.find? fun e => e.num == n && e.releasing) = none) :=
  ⟨up, .a, 0, by decide +kernel⟩

theorem witness_KeysAndScrubsEnd_3 :
    ∃ (s : State) (h : HallId) (d : Nat) (x : Dom), s.por = false ∧ (s.hall h).dev.up = true ∧ (s.hall h).dom d = some x ∧ x.releasing = true :=
  ⟨onA (sec fun S => { S with doms := [{ dom1 with releasing := true }] }), .a, 1, { dom1 with releasing := true }, by decide +kernel⟩

theorem witness_EveryPortReportsItsIdentity_0 :
    ∃ (s : State) (p : Nat), s.por = false ∧ s.portUp p = true :=
  ⟨up, 0, by decide +kernel⟩

theorem witness_EveryPortReportsItsIdentity_2 :
    ∃ (s : State) (p : Nat), s.por = false ∧ s.portUp p = true ∧ (s.port p).dyn ≠ 0 :=
  ⟨up, 0, by decide +kernel⟩

theorem witness_EveryPortReportsItsIdentity_3 :
    ∃ (s : State) (p : Nat), s.por = false ∧ s.portUp p = true ∧ (s.port p).dyn = 0 :=
  ⟨onP fun P => { P with dyn := 0 }, 0, by decide +kernel⟩

theorem witness_CommonCommandCodes_0 :
    ∃ (s : State) (p : Nat), s.por = false ∧ s.portUp p = true :=
  ⟨up, 0, by decide +kernel⟩

theorem witness_CommonCommandCodes_1 :
    ∃ (s : State) (p : Nat), s.por = false ∧ s.portUp p = true ∧ (s.port p).dyn = 0 :=
  ⟨onP fun P => { P with dyn := 0 }, 0, by decide +kernel⟩

theorem witness_CommonCommandCodes_2 :
    ∃ (s : State) (p : Nat), ∃ st : BitVec 7, s.por = false ∧ s.portUp p = true ∧ st ≠ BitVec.ofNat 7 (0x50 + p) :=
  ⟨up, 0, 0, by decide +kernel⟩

theorem witness_CommonCommandCodes_3 :
    ∃ (s : State) (p : Nat), s.por = false ∧ s.portUp p = true :=
  ⟨up, 0, by decide +kernel⟩

theorem witness_CommonCommandCodes_4 :
    ∃ (s : State) (p : Nat), s.por = false ∧ s.portUp p = true :=
  ⟨up, 0, by decide +kernel⟩

theorem witness_CommonCommandCodes_5 :
    ∃ (s : State) (p : Nat), s.por = false ∧ s.portUp p = true ∧ ((s.hall (portHall p)).hasRight p 7 = true) :=
  ⟨up, 0, by decide +kernel⟩

theorem witness_CommonCommandCodes_6 :
    ∃ (s : State) (p : Nat), s.por = false ∧ s.portUp p = true ∧ ((s.hall (portHall p)).hasRight p 7 = false) :=
  ⟨onA (imaged fun im => { im with rights := [⟨0, 0, 0, 0, 0⟩] }), 0, by decide +kernel⟩

theorem witness_CommonCommandCodes_7 :
    ∃ (s : State) (p : Nat), s.por = false ∧ s.portUp p = true ∧ (s.port p).dyn ≠ 0 :=
  ⟨up, 0, by decide +kernel⟩

theorem witness_PrivateTransfersCarryCapsules_0 :
    ∃ (s : State) (p tb : Nat) (bytes : List Byte), let b := min 3200000 ((s.port p).budget + (tb - (s.port p).budgetTb)); s.por = false ∧ s.portUp p = true ∧ (s.port p).dyn ≠ 0 ∧ (s.port p).nackNext = false ∧ (8 ≤ (s.port p).outstanding ∨ b < 50000) :=
  ⟨onP fun P => { P with budget := 0 }, 0, 0, [], by decide +kernel⟩

theorem witness_PrivateTransfersCarryCapsules_1 :
    ∃ (s : State) (p tb : Nat) (bytes : List Byte), let b := min 3200000 ((s.port p).budget + (tb - (s.port p).budgetTb)); let bs := (s.port p).partialBytes ++ bytes; s.por = false ∧ s.portUp p = true ∧ (s.port p).dyn ≠ 0 ∧ (s.port p).nackNext = false ∧ (s.port p).outstanding < 8 ∧ 50000 ≤ b ∧ capsuleStatus bs = none :=
  ⟨up, 0, 0, [], by decide +kernel⟩

theorem witness_PrivateTransfersCarryCapsules_2 :
    ∃ (s : State) (p tb : Nat) (bytes : List Byte), let b := min 3200000 ((s.port p).budget + (tb - (s.port p).budgetTb)); let bs := (s.port p).partialBytes ++ bytes; s.por = false ∧ s.portUp p = true ∧ (s.port p).dyn ≠ 0 ∧ (s.port p).nackNext = false ∧ (s.port p).outstanding < 8 ∧ 50000 ≤ b ∧ capsuleStatus bs = some 0 :=
  ⟨onP fun P => { P with budget := 3200000 }, 0, 0, wire [3, 1], by decide +kernel⟩

theorem witness_PrivateTransfersCarryCapsules_3 :
    ∃ (s : State) (p tb : Nat) (bytes : List Byte), let b := min 3200000 ((s.port p).budget + (tb - (s.port p).budgetTb)); let bs := (s.port p).partialBytes ++ bytes; ∃ st, s.por = false ∧ s.portUp p = true ∧ (s.port p).dyn ≠ 0 ∧ (s.port p).nackNext = false ∧ (s.port p).outstanding < 8 ∧ 50000 ≤ b ∧ st ≠ 0 ∧ capsuleStatus bs = some st :=
  ⟨onP fun P => { P with budget := 3200000 }, 0, 0, wire [3, 1] ++ [0], 3, by decide +kernel⟩

theorem witness_PrivateTransfersCarryCapsules_4 :
    ∃ bs : List Byte, bs.length < 16 :=
  ⟨[], by decide +kernel⟩

theorem witness_PrivateTransfersCarryCapsules_5 :
    ∃ bs : List Byte, 16 ≤ bs.length ∧ fld bs 4 2 ≤ 4096 ∧ bs.length < 16 + fld bs 4 2 :=
  ⟨(wire [3, 1]).take 17, by decide +kernel⟩

theorem witness_PrivateTransfersCarryCapsules_6 :
    ∃ bs : List Byte, 16 ≤ bs.length ∧ fld bs 4 2 ≤ 4096 ∧ 16 + fld bs 4 2 ≤ bs.length ∧ capsuleCrcOk bs = false :=
  ⟨wire [3, 1] |>.modify 16 (· + 1), by decide +kernel⟩

theorem witness_PrivateTransfersCarryCapsules_7 :
    ∃ bs : List Byte, capsuleStatus bs = some 0 :=
  ⟨wire [3, 1], by decide +kernel⟩

theorem witness_PrivateTransfersCarryCapsules_8 :
    ∃ (s : State) (p : Nat), s.por = false ∧ s.portUp p = true ∧ (s.port p).partialBytes ≠ [] :=
  ⟨onP fun P => { P with partialBytes := [5] }, 0, by decide +kernel⟩

theorem witness_PrivateTransfersCarryCapsules_9 :
    ∃ (s : State) (p : Nat), s.por = false ∧ s.portUp p = true ∧ (s.port p).dyn ≠ 0 :=
  ⟨up, 0, by decide +kernel⟩

theorem witness_PrivateTransfersCarryCapsules_10 :
    ∃ (s : State) (p n : Nat) (r : Response) (rest : List Response), let got := (r.bytes.drop r.read).take (min n (s.port p).mrl); s.por = false ∧ s.portUp p = true ∧ (s.port p).dyn ≠ 0 ∧ (s.port p).nackNext = false ∧ (s.port p).resps = r :: rest ∧ r.read + got.length < r.bytes.length :=
  ⟨onP fun P => { P with resps := [⟨7, wire [3, 1], 0⟩] }, 0, 16, ⟨7, wire [3, 1], 0⟩, [], by decide +kernel⟩

theorem witness_PrivateTransfersCarryCapsules_11 :
    ∃ (s : State) (p n : Nat) (r : Response) (rest : List Response), let got := (r.bytes.drop r.read).take (min n (s.port p).mrl); s.por = false ∧ s.portUp p = true ∧ (s.port p).dyn ≠ 0 ∧ (s.port p).nackNext = false ∧ (s.port p).resps = r :: rest ∧ r.bytes.length ≤ r.read + got.length :=
  ⟨onP fun P => { P with resps := [⟨7, wire [3, 1], 0⟩] }, 0, 18, ⟨7, wire [3, 1], 0⟩, [], by decide +kernel⟩

theorem witness_PrivateTransfersCarryCapsules_12 :
    ∃ (s : State) (p : Nat), s.por = false ∧ s.portUp p = true ∧ (s.port p).resps = [] ∧ (s.port p).nackNext = false :=
  ⟨up, 0, by decide +kernel⟩

theorem witness_PrivateTransfersCarryCapsules_13 :
    ∃ (s : State) (p : Nat) (e : Event), s.por = false ∧ s.portUp p = true ∧ (s.port p).dyn ≠ 0 ∧ (s.port p).enint = true ∧ ((s.port p).events.find? (fun (e : Event) => !e.raised) = some e) :=
  ⟨onP fun P => { P with enint := true, events := [⟨1, 0, [], false⟩] }, 0, ⟨1, 0, [], false⟩, by decide +kernel⟩

theorem witness_PrivateTransfersCarryCapsules_14 :
    ∃ (s : State) (p op tag ses : Nat), s.por = false ∧ p < 4 ∧ (s.port p).waits.find? (fun w => match w with | .far _ t _ => t == tag | _ => false) = some (.far op tag ses) :=
  ⟨onP fun P => { P with waits := [.far 5 7 0] }, 0, 5, 7, 0, by decide +kernel⟩

theorem witness_BindAndUnbind_0 :
    ∃ (s u : State) (p : Nat) (c : Capsule) (rest : List Capsule) (n : Nat) (im : Image) (t : TenantEntry) (pe : PartEntry), s.Heads p c rest 1 (some 0) ∧ s.taken p rest = u ∧ 8 ≤ c.payload.length ∧ (fld c.payload 4 4 = 0 ∨ fld c.payload 4 4 = 192 ∧ 200 ≤ c.payload.length) ∧ (u.hall (portHall p)).image = some im ∧ im.tenant (fld c.payload 2 2) = some t ∧ bit t.ports p = true ∧ (u.hall (portHall p)).hasRight p 0 = true ∧ (u.hall (portHall p)).freeSession (portHall p).idx = some n ∧ u.bindDomainBad (portHall p) p (fld c.payload 1 1) (fld c.payload 2 2) t = false ∧ (bit t.tflags 0 = true ∨ fld c.payload 4 4 = 192 ∧ sha384 (slice c.payload 8 96) = t.ownerHash ∧ ecdsaOk (slice c.payload 8 96) (sha384 (u.bindMessage p (fld c.payload 1 1) (fld c.payload 2 2))) (slice c.payload 104 96) = true) ∧ (u.hall (portHall p)).sec.trngOk = true ∧ (∀ x : Dom, (u.hall (portHall p)).dom (fld c.payload 2 2) = some x → x.releasing = false) ∧ (u.hall (portHall p)).partEntry (fld c.payload 1 1) = some pe :=
  ⟨asks (fun H => H) (capOf 1 [0, 0, 1, 0, 0, 0, 0, 0]), (asks (fun H => H) (capOf 1 [0, 0, 1, 0, 0, 0, 0, 0])).taken 0 [], 0, (capOf 1 [0, 0, 1, 0, 0, 0, 0, 0]), [], 1, img, tenant1, partn 0 0 0, ⟨by decide +kernel, by decide +kernel, by decide +kernel, by decide +kernel, fun _ h => by cases h; exact ⟨_, _, rfl, by decide⟩, by decide +kernel, by decide +kernel⟩, rfl, by decide +kernel, by decide +kernel, by decide +kernel, by decide +kernel, by decide +kernel, by decide +kernel, by decide +kernel, by decide +kernel, by decide +kernel, by decide +kernel, (ofSome (v := dom1) (by decide +kernel) (by decide +kernel)), by decide +kernel⟩

theorem witness_BindAndUnbind_1 :
    ∃ (s u v : State) (p : Nat) (c : Capsule) (rest : List Capsule), s.Heads p c rest 1 (some 1) ∧ s.taken p rest = u ∧ u.bindStream (portHall p) p c = (v, .ok []) ∧ (v.hall (portHall p)).serves = true :=
  ⟨asks (fun H => slow (keyed [key0 1] H)) bind3, (asks (fun H => slow (keyed [key0 1] H)) bind3).taken 0 [], (((asks (fun H => slow (keyed [key0 1] H)) bind3).taken 0 []).bindStream .a 0 bind3).1, 0, bind3, [], ⟨by decide +kernel, by decide +kernel, by decide +kernel, by decide +kernel, fun _ h => by cases h; exact ⟨_, _, rfl, by decide⟩, by decide +kernel, by decide +kernel⟩, rfl, (pairEq (by decide +kernel)), by decide +kernel⟩

theorem witness_BindAndUnbind_2 :
    ∃ (s u : State) (p : Nat) (c : Capsule) (rest : List Capsule) (e : Session) (k : KeySlot) (pe : PartEntry), s.Heads p c rest 1 (some 1) ∧ s.taken p rest = u ∧ u.Named p c e 2 ∧ (u.hall (portHall p)).hasPart p e.part = true ∧ 44 ≤ c.payload.length ∧ (∀ b ∈ u.streamBad (portHall p) (some e) c.payload, b.1 = false) ∧ (u.hall (portHall p)).partEntry e.part = some pe ∧ (∀ k ∈ u.bindHalls (portHall p) pe, (u.hall k).streamFull c.payload k (bit pe.classes 0) = false ∧ (u.hall k).portsOff = false ∧ (fld c.payload 1 1 = 1 → (u.hall k).galOff (fld c.payload 29 1) = false)) ∧ (u.hall (HallId.ofIdx (fld c.payload 8 4 / 2 ^ 31))).keyFor (HallId.ofIdx (fld c.payload 8 4 / 2 ^ 31)).idx (fld c.payload 8 4) e.num 1 = some k ∧ k.bound = false ∧ ((u.addStream (portHall p) c e k (u.bindHalls (portHall p) pe)).hall (portHall p)).serves = true :=
  ⟨asks (fun H => slow (keyed [key0 1] H)) bind3, (asks (fun H => slow (keyed [key0 1] H)) bind3).taken 0 [], 0, bind3, [], ses0, key0 1, { partn 0 0 0 with classes := 14 }, ⟨by decide +kernel, by decide +kernel, by decide +kernel, by decide +kernel, fun _ h => by cases h; exact ⟨_, _, rfl, by decide⟩, by decide +kernel, by decide +kernel⟩, rfl, ⟨by decide +kernel, by decide +kernel, by decide +kernel, by decide +kernel⟩, by decide +kernel, by decide +kernel, by decide +kernel, by decide +kernel, by decide +kernel, by decide +kernel, by decide +kernel, by decide +kernel⟩

theorem witness_BindAndUnbind_3 :
    ∃ (s u : State) (p : Nat) (c : Capsule) (rest : List Capsule) (e : Session) (b : HostFeedBody), s.Heads p c rest 1 (some 2) ∧ s.taken p rest = u ∧ u.Named p c e 8 ∧ 20 ≤ c.payload.length ∧ (u.hall (portHall p)).feedNamed (portHall p) (fld c.payload 2 2) = some (portHall p, b) ∧ b.host = p ∧ (∀ q, (u.hall (portHall p)).partEntry e.part = some q → q.hallIds.contains (portHall p) = true) ∧ fld c.payload 4 2 ≤ 4095 ∧ (u.hall (portHall p)).ringBad (some e.part) (fld c.payload 1 1) (fld c.payload 6 1) (fld c.payload 8 4) (fld c.payload 12 4) 1 6 8 12 = [badAt 1 false, badAt 6 false, badAt 8 false, badAt 12 false] ∧ localCell (fld c.payload 1 1) (fld c.payload 16 2) = true ∧ (u.hall (portHall p)).portsOff = false ∧ (u.hall (portHall p)).galOff (fld c.payload 1 1) = false ∧ ((u.hall (portHall p)).rings.any (fun (r : FeedRing) => r.feedId == fld c.payload 2 2 && r.channel == fld c.payload 4 2) = false) :=
  ⟨asks fed (capOf 1 (fields 20 [(0, 1, 2), (2, 2, 9), (4, 2, 3), (6, 1, 2), (12, 4, 128)])), (asks fed (capOf 1 (fields 20 [(0, 1, 2), (2, 2, 9), (4, 2, 3), (6, 1, 2), (12, 4, 128)]))).taken 0 [], 0, (capOf 1 (fields 20 [(0, 1, 2), (2, 2, 9), (4, 2, 3), (6, 1, 2), (12, 4, 128)])), [], ses0, feed9, ⟨by decide +kernel, by decide +kernel, by decide +kernel, by decide +kernel, fun _ h => by cases h; exact ⟨_, _, rfl, by decide⟩, by decide +kernel, by decide +kernel⟩, rfl, ⟨by decide +kernel, by decide +kernel, by decide +kernel, by decide +kernel⟩, by decide +kernel, by decide +kernel, by decide +kernel, (ofSome (v := partn 0 0 0) (by decide +kernel) (by decide +kernel)), by decide +kernel, by decide +kernel, by decide +kernel, by decide +kernel, by decide +kernel, by decide +kernel⟩

theorem witness_BindAndUnbind_4 :
    ∃ (s u : State) (p : Nat) (c : Capsule) (rest : List Capsule) (e : Session), s.Heads p c rest 2 (some 0) ∧ s.taken p rest = u ∧ u.Named p c e 0 ∧ 1 ≤ c.payload.length ∧ (u.hall (portHall p)).unlisted p (some e) = false ∧ e.flight = none ∧ (∀ v, [HallId.a, .b].foldl (fun (s : State) k => if ((s.hall k).session e.num).isSome then s.startRelease k e.num else s) u = v → (v.hall (portHall p)).serves = true) :=
  ⟨asks (fun H => H) (capOf 2 [0]), (asks (fun H => H) (capOf 2 [0])).taken 0 [], 0, (capOf 2 [0]), [], ses0, ⟨by decide +kernel, by decide +kernel, by decide +kernel, by decide +kernel, fun _ h => by cases h; exact ⟨_, _, rfl, by decide⟩, by decide +kernel, by decide +kernel⟩, rfl, ⟨by decide +kernel, by decide +kernel, by decide +kernel, by decide +kernel⟩, by decide +kernel, by decide +kernel, by decide +kernel, fun v h => h ▸ by decide +kernel⟩

theorem witness_BindAndUnbind_5 :
    ∃ (s u : State) (p : Nat) (c : Capsule) (rest : List Capsule) (e : Session), s.Heads p c rest 2 (some 1) ∧ s.taken p rest = u ∧ u.Named p c e 2 ∧ (u.hall (portHall p)).hasPart p e.part = true ∧ 3 ≤ c.payload.length ∧ fld c.payload 2 1 ≤ 63 ∧ ((u.hall (portHall p)).streams.any (fun (x : TxStream) => x.num == fld c.payload 2 1 && x.session == e.num && !x.closing) = true) :=
  ⟨asks (fun H => { H with streams := [stream3] }) (capOf 2 [1, 0, 3]), (asks (fun H => { H with streams := [stream3] }) (capOf 2 [1, 0, 3])).taken 0 [], 0, (capOf 2 [1, 0, 3]), [], ses0, ⟨by decide +kernel, by decide +kernel, by decide +kernel, by decide +kernel, fun _ h => by cases h; exact ⟨_, _, rfl, by decide⟩, by decide +kernel, by decide +kernel⟩, rfl, ⟨by decide +kernel, by decide +kernel, by decide +kernel, by decide +kernel⟩, by decide +kernel, by decide +kernel, by decide +kernel, by decide +kernel⟩

theorem witness_BindAndUnbind_6 :
    ∃ (s u : State) (p : Nat) (c : Capsule) (rest : List Capsule) (e : Session) (b : HostFeedBody), s.Heads p c rest 2 (some 2) ∧ s.taken p rest = u ∧ u.Named p c e 8 ∧ 6 ≤ c.payload.length ∧ (u.hall (portHall p)).feedNamed (portHall p) (fld c.payload 2 2) = some (portHall p, b) ∧ b.host = p ∧ fld c.payload 4 2 ≤ 4095 ∧ ((u.hall (portHall p)).rings.any (fun (r : FeedRing) => r.feedId == fld c.payload 2 2 && r.channel == fld c.payload 4 2 && r.session == e.num) = true) :=
  ⟨asks (fun H => { fed H with rings := [⟨0, 9, 3, 0, 2, 0, 128, 0, 0⟩] }) (capOf 2 [2, 0, 9, 0, 3, 0]), (asks (fun H => { fed H with rings := [⟨0, 9, 3, 0, 2, 0, 128, 0, 0⟩] }) (capOf 2 [2, 0, 9, 0, 3, 0])).taken 0 [], 0, (capOf 2 [2, 0, 9, 0, 3, 0]), [], ses0, feed9, ⟨by decide +kernel, by decide +kernel, by decide +kernel, by decide +kernel, fun _ h => by cases h; exact ⟨_, _, rfl, by decide⟩, by decide +kernel, by decide +kernel⟩, rfl, ⟨by decide +kernel, by decide +kernel, by decide +kernel, by decide +kernel⟩, by decide +kernel, by decide +kernel, by decide +kernel, by decide +kernel, by decide +kernel⟩

theorem witness_BindAndUnbind_7 :
    ∃ (H : Hall) (h n : Nat), H.freeSession h = some n :=
  ⟨up.a, 0, 0, by decide +kernel⟩

theorem witness_BindAndUnbind_8 :
    ∃ (H : Hall) (h n : Nat), ∃ e, H.freeSession h = some n ∧ e ∈ H.sec.sessions :=
  ⟨ses up.a, 0, 1, ses0, by decide +kernel⟩

theorem witness_SubmitCancelAndQuery_0 :
    ∃ (s u : State) (p : Nat) (c : Capsule) (rest : List Capsule) (e : Session) (pe : PartEntry) (d : List Byte) (n core home : Nat) (x : Ctx), s.Heads p c rest 3 (some 0) ∧ s.taken p rest = u ∧ u.Named p c e 1 ∧ (u.hall (portHall p)).hasPart p e.part = true ∧ 72 ≤ c.payload.length ∧ fld c.payload 1 1 = (portHall p).idx ∧ (u.hall (portHall p)).partEntry e.part = some pe ∧ slice c.payload 8 64 = d ∧ (fld d 0 1 = 2 ∨ fld d 0 1 = 3) ∧ bit pe.classes (fld d 0 1) = true ∧ (u.hall (portHall p)).newNumber = some n ∧ fld d 1 1 < 8 ∧ (u.hall (portHall p)).descOk e.part (fld d 1 1) d = true ∧ ((u.hall (portHall p)).gal (fld d 1 1)).partition = some e.part ∧ bits (fld d 4 4) 0 18 = e.num ∧ ({ Ctx.fresh n (fld d 0 1) e.part e.dom (CtxDesc.ofBytes d) 0 with session := some e.num } : Ctx) = x ∧ (u.hall (portHall p)).galOff (fld d 1 1) = false ∧ (bit (fld d 8 4) 31 = true → (u.hall (portHall p)).portsOff = false) ∧ (u.hall (portHall p)).placeNew (portHall p).idx x (fld d 1 1) (fld d 2 1) = some (core, home) ∧ (∀ v, u.onHall (portHall p) (fun H => (((H.insertCtx { x with core := core, home := home, moved := decide (core ≠ home), fetching := true }).settleCtx (portHall p).idx n).settle (portHall p).idx)) = v → (v.hall (portHall p)).serves = true) :=
  ⟨asks (fun H => H) (capOf 3 (List.replicate 8 0 ++ descD)), (asks (fun H => H) (capOf 3 (List.replicate 8 0 ++ descD))).taken 0 [], 0, (capOf 3 (List.replicate 8 0 ++ descD)), [], ses0, partn 0 0 0, descD, 0, 0, 0, { Ctx.fresh 0 2 0 1 (CtxDesc.ofBytes descD) 0 with session := some 0 }, ⟨by decide +kernel, by decide +kernel, by decide +kernel, by decide +kernel, fun _ h => by cases h; exact ⟨_, _, rfl, by decide⟩, by decide +kernel, by decide +kernel⟩, rfl, ⟨by decide +kernel, by decide +kernel, by decide +kernel, by decide +kernel⟩, by decide +kernel, by decide +kernel, by decide +kernel, by decide +kernel, by decide +kernel, by decide +kernel, by decide +kernel, by decide +kernel, by decide +kernel, by decide +kernel, by decide +kernel, by decide +kernel, by decide +kernel, by decide +kernel, by decide +kernel, by decide +kernel, fun v h => h ▸ by decide +kernel⟩

theorem witness_SubmitCancelAndQuery_1 :
    ∃ (s u : State) (p : Nat) (c : Capsule) (rest : List Capsule) (e : Session) (x : Ctx) (f : Nat), s.Heads p c rest 3 (some 1) ∧ s.taken p rest = u ∧ u.Named p c e 1 ∧ (u.hall (portHall p)).hasPart p e.part = true ∧ 8 ≤ c.payload.length ∧ fld c.payload 1 1 = (portHall p).idx ∧ (u.hall (portHall p)).handleCtx (portHall p).idx (fld c.payload 2 2) e.num = some x ∧ bit (fld c.payload 2 2) 15 = false ∧ fld c.payload 2 2 / 16384 % 2 = (portHall p).idx ∧ x.st = .faulted ∧ x.faultPos ≤ fld c.payload 4 4 ∧ fld c.payload 4 4 < x.desc.streamLen ∧ fld c.payload 4 4 = f ∧ (∀ v, u.onHall (portHall p) (fun H => ((H.onCtx x.num fun y => { y with st := if y.rslot.isSome then .resident else .waiting, fetching := true, fetch := f, horizon := max f y.horizon, doneMask := y.doneMask.filter fun i => decide (f ≤ i) }).settleCtx (portHall p).idx x.num).settle (portHall p).idx) = v → (v.hall (portHall p)).serves = true) :=
  ⟨asks (fun H => { H with ctxs := [{ ctxS with st := .faulted }] }) (capOf 3 [1, 0, 0, 0, 0, 0, 0, 0]), (asks (fun H => { H with ctxs := [{ ctxS with st := .faulted }] }) (capOf 3 [1, 0, 0, 0, 0, 0, 0, 0])).taken 0 [], 0, (capOf 3 [1, 0, 0, 0, 0, 0, 0, 0]), [], ses0, { ctxS with st := .faulted }, 0, ⟨by decide +kernel, by decide +kernel, by decide +kernel, by decide +kernel, fun _ h => by cases h; exact ⟨_, _, rfl, by decide⟩, by decide +kernel, by decide +kernel⟩, rfl, ⟨by decide +kernel, by decide +kernel, by decide +kernel, by decide +kernel⟩, by decide +kernel, by decide +kernel, by decide +kernel, by decide +kernel, by decide +kernel, by decide +kernel, by decide +kernel, by decide +kernel, by decide +kernel, by decide +kernel, fun v h => h ▸ by decide +kernel⟩

theorem witness_SubmitCancelAndQuery_2 :
    ∃ (s u : State) (p : Nat) (c : Capsule) (rest : List Capsule) (e : Session) (x : Ctx), s.Heads p c rest 4 none ∧ s.taken p rest = u ∧ u.Named p c e 1 ∧ (u.hall (portHall p)).hasPart p e.part = true ∧ 2 ≤ c.payload.length ∧ (u.hall (portHall p)).handleCtx (portHall p).idx (fld c.payload 0 2) e.num = some x ∧ bit (fld c.payload 0 2) 15 = false ∧ fld c.payload 0 2 / 16384 % 2 = (portHall p).idx ∧ x.alive = true ∧ ((u.cancelCtx (portHall p) x).hall (portHall p)).serves = true :=
  ⟨asks (fun H => { H with ctxs := [ctxS] }) (capOf 4 [0, 0]), (asks (fun H => { H with ctxs := [ctxS] }) (capOf 4 [0, 0])).taken 0 [], 0, (capOf 4 [0, 0]), [], ses0, ctxS, ⟨by decide +kernel, by decide +kernel, by decide +kernel, by decide +kernel, (fun _ h => nomatch h), by decide +kernel, by decide +kernel⟩, rfl, ⟨by decide +kernel, by decide +kernel, by decide +kernel, by decide +kernel⟩, by decide +kernel, by decide +kernel, by decide +kernel, by decide +kernel, by decide +kernel, by decide +kernel, by decide +kernel⟩

theorem witness_SubmitCancelAndQuery_3 :
    ∃ (s u : State) (p : Nat) (c : Capsule) (rest : List Capsule) (e : Session) (x : Ctx), s.Heads p c rest 5 (some 0) ∧ s.taken p rest = u ∧ u.Named p c e 1 ∧ (u.hall (portHall p)).hasPart p e.part = true ∧ 4 ≤ c.payload.length ∧ (u.hall (portHall p)).handleCtx (portHall p).idx (fld c.payload 2 2) e.num = some x ∧ bit (fld c.payload 2 2) 15 = false ∧ fld c.payload 2 2 / 16384 % 2 = (portHall p).idx :=
  ⟨asks (fun H => { H with ctxs := [ctxS] }) (capOf 5 [0, 0, 0, 0]), (asks (fun H => { H with ctxs := [ctxS] }) (capOf 5 [0, 0, 0, 0])).taken 0 [], 0, (capOf 5 [0, 0, 0, 0]), [], ses0, ctxS, ⟨by decide +kernel, by decide +kernel, by decide +kernel, by decide +kernel, fun _ h => by cases h; exact ⟨_, _, rfl, by decide⟩, by decide +kernel, by decide +kernel⟩, rfl, ⟨by decide +kernel, by decide +kernel, by decide +kernel, by decide +kernel⟩, by decide +kernel, by decide +kernel, by decide +kernel, by decide +kernel, by decide +kernel⟩

theorem witness_SubmitCancelAndQuery_4 :
    ∃ (s u : State) (p : Nat) (c : Capsule) (rest : List Capsule) (e : Session) (x : Ctx), s.Heads p c rest 5 (some 1) ∧ s.taken p rest = u ∧ u.Named p c e 1 ∧ (u.hall (portHall p)).hasPart p e.part = true ∧ 8 ≤ c.payload.length ∧ (u.hall (portHall p)).handleCtx (portHall p).idx (fld c.payload 2 2) e.num = some x ∧ bit (fld c.payload 2 2) 15 = false ∧ fld c.payload 2 2 / 16384 % 2 = (portHall p).idx ∧ 1 ≤ fld c.payload 6 2 ∧ fld c.payload 6 2 ≤ 64 ∧ (u.hall (portHall p)).galOff x.desc.gallery = false :=
  ⟨asks (fun H => { H with ctxs := [ctxS] }) (capOf 5 [1, 0, 0, 0, 0, 0, 1, 0]), (asks (fun H => { H with ctxs := [ctxS] }) (capOf 5 [1, 0, 0, 0, 0, 0, 1, 0])).taken 0 [], 0, (capOf 5 [1, 0, 0, 0, 0, 0, 1, 0]), [], ses0, ctxS, ⟨by decide +kernel, by decide +kernel, by decide +kernel, by decide +kernel, fun _ h => by cases h; exact ⟨_, _, rfl, by decide⟩, by decide +kernel, by decide +kernel⟩, rfl, ⟨by decide +kernel, by decide +kernel, by decide +kernel, by decide +kernel⟩, by decide +kernel, by decide +kernel, by decide +kernel, by decide +kernel, by decide +kernel, by decide +kernel, by decide +kernel, by decide +kernel⟩

theorem witness_SubmitCancelAndQuery_5 :
    ∃ (s u : State) (p : Nat) (c : Capsule) (rest : List Capsule) (e : Session) (x : TxStream), s.Heads p c rest 5 (some 2) ∧ s.taken p rest = u ∧ u.Named p c e 2 ∧ (u.hall (portHall p)).hasPart p e.part = true ∧ 3 ≤ c.payload.length ∧ fld c.payload 1 1 = (portHall p).idx ∧ fld c.payload 2 1 ≤ 63 ∧ (u.hall (portHall p)).stream (fld c.payload 2 1) = some x ∧ x.session = e.num ∧ x.closing = false :=
  ⟨asks (fun H => { H with streams := [stream3] }) (capOf 5 [2, 0, 3]), (asks (fun H => { H with streams := [stream3] }) (capOf 5 [2, 0, 3])).taken 0 [], 0, (capOf 5 [2, 0, 3]), [], ses0, stream3, ⟨by decide +kernel, by decide +kernel, by decide +kernel, by decide +kernel, fun _ h => by cases h; exact ⟨_, _, rfl, by decide⟩, by decide +kernel, by decide +kernel⟩, rfl, ⟨by decide +kernel, by decide +kernel, by decide +kernel, by decide +kernel⟩, by decide +kernel, by decide +kernel, by decide +kernel, by decide +kernel, by decide +kernel, by decide +kernel, by decide +kernel⟩

theorem witness_SubmitCancelAndQuery_6 :
    ∃ (s u : State) (p : Nat) (c : Capsule) (rest : List Capsule), s.Heads p c rest 5 (some 3) ∧ s.taken p rest = u ∧ (u.hall (portHall p)).image.isSome = true ∧ 2 ≤ c.payload.length ∧ 1 ≤ fld c.payload 1 1 ∧ fld c.payload 1 1 ≤ 64 :=
  ⟨asks (fun H => H) (capOf 5 [3, 1]), (asks (fun H => H) (capOf 5 [3, 1])).taken 0 [], 0, (capOf 5 [3, 1]), [], ⟨by decide +kernel, by decide +kernel, by decide +kernel, by decide +kernel, fun _ h => by cases h; exact ⟨_, _, rfl, by decide⟩, by decide +kernel, by decide +kernel⟩, rfl, by decide +kernel, by decide +kernel, by decide +kernel, by decide +kernel⟩

theorem witness_SubmitCancelAndQuery_7 :
    ∃ (s u : State) (p : Nat) (c : Capsule) (rest : List Capsule) (r : RightsEntry), s.Heads p c rest 5 (some 4) ∧ s.taken p rest = u ∧ (u.hall (portHall p)).image.isSome = true ∧ (u.hall (portHall p)).rightsEntry p = some r :=
  ⟨asks (fun H => H) (capOf 5 [4]), (asks (fun H => H) (capOf 5 [4])).taken 0 [], 0, (capOf 5 [4]), [], allRights 0, ⟨by decide +kernel, by decide +kernel, by decide +kernel, by decide +kernel, fun _ h => by cases h; exact ⟨_, _, rfl, by decide⟩, by decide +kernel, by decide +kernel⟩, rfl, by decide +kernel, by decide +kernel⟩

theorem witness_KeysModelsAndRegisterCapsules_1 :
    ∃ (s u : State) (p : Nat) (c : Capsule) (rest : List Capsule) (e : Session) (v : State) (r : List Byte), s.Heads p c rest 7 (some 0) ∧ s.taken p rest = u ∧ u.Named p c e 3 ∧ (u.hall (portHall p)).unlisted p (some e) = false ∧ 176 ≤ c.payload.length ∧ fld c.payload 1 1 = (portHall p).idx ∧ u.unwrapKey (portHall p) e c.payload = (v, .ok r) ∧ (v.hall (portHall p)).serves = true :=
  ⟨asks eph (wrapped 0), (asks eph (wrapped 0)).taken 0 [], 0, (wrapped 0), [], ses0, (((asks eph (wrapped 0)).taken 0 []).unwrapKey .a ses0 (wrapped 0).payload).1, leBytes 4 0, ⟨by decide +kernel, by decide +kernel, by decide +kernel, by decide +kernel, fun _ h => by cases h; exact ⟨_, _, rfl, by decide⟩, by decide +kernel, by decide +kernel⟩, rfl, ⟨by decide +kernel, by decide +kernel, by decide +kernel, by decide +kernel⟩, by decide +kernel, by decide +kernel, by decide +kernel, (pairEq unwraps0.1), (unwraps0.2)⟩

theorem witness_KeysModelsAndRegisterCapsules_2 :
    ∃ (s u : State) (p : Nat) (c : Capsule) (rest : List Capsule) (e : Session) (v : State) (r : List Byte), s.Heads p c rest 7 (some 1) ∧ s.taken p rest = u ∧ u.Named p c e 3 ∧ (u.hall (portHall p)).unlisted p (some e) = false ∧ 176 ≤ c.payload.length ∧ fld c.payload 1 1 = (portHall p).idx ∧ u.unwrapKey (portHall p) e c.payload = (v, .ok r) ∧ (v.hall (portHall p)).serves = true :=
  ⟨asks eph (wrapped 1), (asks eph (wrapped 1)).taken 0 [], 0, (wrapped 1), [], ses0, (((asks eph (wrapped 1)).taken 0 []).unwrapKey .a ses0 (wrapped 1).payload).1, leBytes 4 (2 ^ 30), ⟨by decide +kernel, by decide +kernel, by decide +kernel, by decide +kernel, fun _ h => by cases h; exact ⟨_, _, rfl, by decide⟩, by decide +kernel, by decide +kernel⟩, rfl, ⟨by decide +kernel, by decide +kernel, by decide +kernel, by decide +kernel⟩, by decide +kernel, by decide +kernel, by decide +kernel, (pairEq unwraps1.1), (unwraps1.2)⟩

theorem witness_KeysModelsAndRegisterCapsules_3 :
    ∃ (s u : State) (p : Nat) (c : Capsule) (rest : List Capsule) (e : Session) (v : State), s.Heads p c rest 7 (some 2) ∧ s.taken p rest = u ∧ u.Named p c e 3 ∧ (u.hall (portHall p)).unlisted p (some e) = false ∧ 16 ≤ c.payload.length ∧ fld c.payload 1 1 = (portHall p).idx ∧ u.rotate (portHall p) e.dom = (0, v) ∧ (v.hall (portHall p)).serves = true :=
  ⟨asks (fun H => H) (capOf 7 (fields 16 [(0, 1, 2)])), (asks (fun H => H) (capOf 7 (fields 16 [(0, 1, 2)]))).taken 0 [], 0, (capOf 7 (fields 16 [(0, 1, 2)])), [], ses0, (((asks (fun H => H) (capOf 7 (fields 16 [(0, 1, 2)]))).taken 0 []).rotate .a 1).2, ⟨by decide +kernel, by decide +kernel, by decide +kernel, by decide +kernel, fun _ h => by cases h; exact ⟨_, _, rfl, by decide⟩, by decide +kernel, by decide +kernel⟩, rfl, ⟨by decide +kernel, by decide +kernel, by decide +kernel, by decide +kernel⟩, by decide +kernel, by decide +kernel, by decide +kernel, (Prod.ext (by decide +kernel) rfl), by decide +kernel⟩

theorem witness_KeysModelsAndRegisterCapsules_4 :
    ∃ (s u : State) (p : Nat) (c : Capsule) (rest : List Capsule) (e : Session) (k : KeySlot), s.Heads p c rest 7 (some 3) ∧ s.taken p rest = u ∧ u.Named p c e 3 ∧ (u.hall (portHall p)).unlisted p (some e) = false ∧ 16 ≤ c.payload.length ∧ fld c.payload 1 1 = (portHall p).idx ∧ (u.hall (portHall p)).keyFor (portHall p).idx (fld c.payload 8 4) e.num (fld c.payload 8 4 / 2 ^ 30 % 2) = some k :=
  ⟨asks (keyed [key0 0]) (capOf 7 (fields 16 [(0, 1, 3), (8, 4, 4096)])), (asks (keyed [key0 0]) (capOf 7 (fields 16 [(0, 1, 3), (8, 4, 4096)]))).taken 0 [], 0, (capOf 7 (fields 16 [(0, 1, 3), (8, 4, 4096)])), [], ses0, key0 0, ⟨by decide +kernel, by decide +kernel, by decide +kernel, by decide +kernel, fun _ h => by cases h; exact ⟨_, _, rfl, by decide⟩, by decide +kernel, by decide +kernel⟩, rfl, ⟨by decide +kernel, by decide +kernel, by decide +kernel, by decide +kernel⟩, by decide +kernel, by decide +kernel, by decide +kernel, by decide +kernel⟩

theorem witness_KeysModelsAndRegisterCapsules_5 :
    ∃ (s u : State) (p : Nat) (f : Flash) (c : Capsule) (rest : List Capsule) (v : State) (w : Wait), s.Heads p c rest 8 (some 0) ∧ s.taken p rest = u ∧ u.loadmodelLoad (portHall p) p false f c = (v, .later w) ∧ (v.hall (portHall p)).serves = true :=
  ⟨asks (fun H => fed (keyed [key0 0] H)) load5, (asks (fun H => fed (keyed [key0 0] H)) load5).taken 0 [], 0, flash, load5, [], (((asks (fun H => fed (keyed [key0 0] H)) load5).taken 0 []).loadmodelLoad .a 0 false flash load5).1, .load 7 0 5, ⟨by decide +kernel, by decide +kernel, by decide +kernel, by decide +kernel, fun _ h => by cases h; exact ⟨_, _, rfl, by decide⟩, by decide +kernel, by decide +kernel⟩, rfl, (pairEq (by decide +kernel)), by decide +kernel⟩

theorem witness_KeysModelsAndRegisterCapsules_6 :
    ∃ (s u : State) (p : Nat) (f : Flash) (c : Capsule) (rest : List Capsule) (e : Session), s.Heads p c rest 8 (some 0) ∧ s.taken p rest = u ∧ u.Named p c e 3 ∧ (u.hall (portHall p)).unlisted p (some e) = false ∧ 24 ≤ c.payload.length ∧ fld c.payload 1 1 = (portHall p).idx ∧ (u.hall (portHall p)).modelBad (some e) (fld c.payload 2 2) = false ∧ fld c.payload 8 1 ≤ 1 ∧ 512 ≤ fld c.payload 16 4 ∧ fld c.payload 16 4 ≤ 67107840 ∧ (fld c.payload 8 1 = 1 → flashPartOk f (fld c.payload 9 1) (fld c.payload 20 4) (fld c.payload 16 4) = (true, true)) ∧ (fld c.payload 8 1 = 0 → (u.hall (portHall p)).hasRight p 8 = true ∧ fld c.payload 12 2 ≤ 4095 ∧ (u.hall (portHall p)).portsOff = false ∧ (∀ im, (u.hall (portHall p)).image = some im → (im.hostFeed (portHall p).idx (fld c.payload 10 2)).isSome = true) ∧ (u.hall (portHall p)).sec.loads.any (fun (l : Load) => l.source == 0 && l.feedId == fld c.payload 10 2 && l.channel == fld c.payload 12 2) = false) ∧ ((u.hall (portHall p)).keyFor (portHall p).idx (fld c.payload 4 4) e.num 0).isSome = true ∧ (∀ k : KeySlot, (u.hall (portHall p)).sec.keys.find? (fun k => keyHandle (portHall p).idx k == fld c.payload 4 4) = some k → k.use = 0 → k.model = fld c.payload 2 2) ∧ ((u.hall (portHall p)).sec.models.any (fun (x : Model) => x.num == fld c.payload 2 2 && x.st == .loaded) = false) ∧ ((u.hall (portHall p)).sec.models.length < 1024 ∨ (u.hall (portHall p)).sec.models.any (fun (x : Model) => x.num == fld c.payload 2 2) = true) :=
  ⟨asks (fun H => fed (keyed [key0 0] H)) load5, (asks (fun H => fed (keyed [key0 0] H)) load5).taken 0 [], 0, flash, load5, [], ses0, ⟨by decide +kernel, by decide +kernel, by decide +kernel, by decide +kernel, fun _ h => by cases h; exact ⟨_, _, rfl, by decide⟩, by decide +kernel, by decide +kernel⟩, rfl, ⟨by decide +kernel, by decide +kernel, by decide +kernel, by decide +kernel⟩, by decide +kernel, by decide +kernel, by decide +kernel, by decide +kernel, by decide +kernel, by decide +kernel, by decide +kernel, by decide +kernel, (fun _ => ⟨by decide +kernel, by decide +kernel, by decide +kernel, ofSome (v := { img with sensors := [⟨9, 0, .hostFeed feed9⟩] }) (by decide +kernel) (by decide +kernel), by decide +kernel⟩), by decide +kernel, (ofSome (v := key0 0) (by decide +kernel) (by decide +kernel)), by decide +kernel, by decide +kernel⟩

theorem witness_KeysModelsAndRegisterCapsules_7 :
    ∃ (s u : State) (p : Nat) (c : Capsule) (rest : List Capsule) (e : Session), s.Heads p c rest 8 (some 1) ∧ s.taken p rest = u ∧ u.Named p c e 3 ∧ (u.hall (portHall p)).unlisted p (some e) = false ∧ 24 ≤ c.payload.length ∧ fld c.payload 1 1 = (portHall p).idx ∧ (u.hall (portHall p)).modelBad (some e) (fld c.payload 2 2) = false ∧ ((u.hall (portHall p)).sec.models.any (fun (x : Model) => x.num == fld c.payload 2 2) = true) ∧ u.modelInUse (portHall p) (fld c.payload 2 2) = false ∧ (u.hall (portHall p)).sec.loads = [] ∧ ((u.dropModel (portHall p) (fld c.payload 2 2)).hall (portHall p)).serves = true :=
  ⟨asks (fun H => { H with sec := { H.sec with models := [model5] } }) (capOf 8 (fields 24 [(0, 1, 1), (2, 2, 5)])), (asks (fun H => { H with sec := { H.sec with models := [model5] } }) (capOf 8 (fields 24 [(0, 1, 1), (2, 2, 5)]))).taken 0 [], 0, (capOf 8 (fields 24 [(0, 1, 1), (2, 2, 5)])), [], ses0, ⟨by decide +kernel, by decide +kernel, by decide +kernel, by decide +kernel, fun _ h => by cases h; exact ⟨_, _, rfl, by decide⟩, by decide +kernel, by decide +kernel⟩, rfl, ⟨by decide +kernel, by decide +kernel, by decide +kernel, by decide +kernel⟩, by decide +kernel, by decide +kernel, by decide +kernel, by decide +kernel, by decide +kernel, by decide +kernel, by decide +kernel, by decide +kernel⟩

theorem witness_KeysModelsAndRegisterCapsules_8 :
    ∃ (s : State) (h : HallId) (m : Nat) (l : Load), s.por = false ∧ (s.hall h).dev.up = true ∧ (((s.hall h).sec.loads.find? fun (l : Load) => l.model == m && (l.complete || l.source == 1)) = some l) :=
  ⟨onA (sec fun S => { S with loads := [loaded5] }), .a, 5, loaded5, by decide +kernel⟩

theorem witness_KeysModelsAndRegisterCapsules_9 :
    ∃ (s : State) (h : HallId) (l : Load) (bs : List Byte), ∃ e t im, (((s.hall h).sec.models.find? fun (x : Model) => x.num == l.model) = none) ∧ ((s.hall h).sec.sessions.find? (fun e => e.num == l.session) = some e) ∧ (s.hall h).image = some im ∧ im.tenant e.dom = some t ∧ (fld bs 0 4 ≠ 0x4C444D54 ∨ bs.length ≠ l.total) :=
  ⟨onA ses, .a, loaded5, [], ses0, tenant1, img, by decide +kernel⟩

theorem witness_KeysModelsAndRegisterCapsules_10 :
    ∃ (s u v : State) (p : Nat) (c : Capsule) (rest : List Capsule) (bs : List Byte), s.Heads p c rest 9 none ∧ s.taken p rest = u ∧ 8 ≤ c.payload.length ∧ fld c.payload 0 4 % 4 = 0 ∧ 1 ≤ fld c.payload 4 2 ∧ fld c.payload 4 2 ≤ 1024 ∧ fld c.payload 6 2 = 0 ∧ (u.hall (portHall p)).image.isSome = true ∧ (List.range (fld c.payload 4 2)).foldl (fun (r : List Byte × State) i => (r.1 ++ leBytes 4 (r.2.regRead p (fld c.payload 0 4 + 4 * i)).1, (r.2.regRead p (fld c.payload 0 4 + 4 * i)).2)) (([] : List Byte), u) = (bs, v) ∧ (v.hall (portHall p)).serves = true :=
  ⟨asks (fun H => H) (capOf 9 (fields 8 [(4, 2, 1)])), (asks (fun H => H) (capOf 9 (fields 8 [(4, 2, 1)]))).taken 0 [], ((List.range 1).foldl (fun (r : List Byte × State) i => (r.1 ++ leBytes 4 (r.2.regRead 0 (0 + 4 * i)).1, (r.2.regRead 0 (0 + 4 * i)).2)) (([] : List Byte), ((asks (fun H => H) (capOf 9 (fields 8 [(4, 2, 1)]))).taken 0 []))).2, 0, (capOf 9 (fields 8 [(4, 2, 1)])), [], ((List.range 1).foldl (fun (r : List Byte × State) i => (r.1 ++ leBytes 4 (r.2.regRead 0 (0 + 4 * i)).1, (r.2.regRead 0 (0 + 4 * i)).2)) (([] : List Byte), ((asks (fun H => H) (capOf 9 (fields 8 [(4, 2, 1)]))).taken 0 []))).1, ⟨by decide +kernel, by decide +kernel, by decide +kernel, by decide +kernel, (fun _ h => nomatch h), by decide +kernel, by decide +kernel⟩, rfl, by decide +kernel, by decide +kernel, by decide +kernel, by decide +kernel, by decide +kernel, by decide +kernel, (rfl), by decide +kernel⟩

theorem witness_KeysModelsAndRegisterCapsules_11 :
    ∃ (s u v : State) (p : Nat) (c : Capsule) (rest : List Capsule), s.Heads p c rest 10 none ∧ s.taken p rest = u ∧ 8 + 4 * fld c.payload 4 2 ≤ c.payload.length ∧ fld c.payload 0 4 % 4 = 0 ∧ 1 ≤ fld c.payload 4 2 ∧ fld c.payload 4 2 ≤ 1024 ∧ fld c.payload 6 2 = 0 ∧ (u.hall (portHall p)).image.isSome = true ∧ ((List.range (fld c.payload 4 2)).foldl (fun (s : State) i => if (s.hall (portHall p)).serves then s.regWrite p (fld c.payload 0 4 + 4 * i) (BitVec.ofNat 32 (fld c.payload (8 + 4 * i) 4)) s.pkg.now else s) u = v) ∧ (v.hall (portHall p)).serves = true :=
  ⟨asks (fun H => H) (capOf 10 (fields 12 [(4, 2, 1)])), (asks (fun H => H) (capOf 10 (fields 12 [(4, 2, 1)]))).taken 0 [], ((List.range 1).foldl (fun (s : State) i => if (s.hall .a).serves then s.regWrite 0 (0 + 4 * i) 0 s.pkg.now else s) ((asks (fun H => H) (capOf 10 (fields 12 [(4, 2, 1)]))).taken 0 [])), 0, (capOf 10 (fields 12 [(4, 2, 1)])), [], ⟨by decide +kernel, by decide +kernel, by decide +kernel, by decide +kernel, (fun _ h => nomatch h), by decide +kernel, by decide +kernel⟩, rfl, by decide +kernel, by decide +kernel, by decide +kernel, by decide +kernel, by decide +kernel, by decide +kernel, (rfl), by decide +kernel⟩

theorem witness_HostFeedsAndTransmitPorts_0 :
    ∃ (s : State) (h : HallId) (p vc dt : Nat) (hc : Bool), s.por = false ∧ (s.hall h).feedDt h.idx p vc = some dt :=
  ⟨onA fed, .a, 0, 3, 0x2A, false, by decide +kernel⟩

theorem witness_HostFeedsAndTransmitPorts_1 :
    ∃ (s : State) (h : HallId) (p vc dt : Nat), s.por = false ∧ (s.hall h).feedDt h.idx p vc ≠ some dt :=
  ⟨up, .a, 0, 0, 0, by decide +kernel⟩

theorem witness_HostFeedsAndTransmitPorts_2 :
    ∃ (s : State) (h : HallId) (p vc id : Nat) (im : Image) (b : HostFeedBody) (P : RxPort), (s.hall h).dev.up = true ∧ (s.hall h).pwr.hall = .on ∧ (s.hall h).image = some im ∧ im.feedOn h.idx p vc = some (id, b) ∧ (s.hall h).cam.ports[p]? = some P ∧ P.feedOpen.contains vc = false :=
  ⟨onA fed, .a, 0, 3, 9, { img with sensors := [⟨9, 0, .hostFeed feed9⟩] }, feed9, up.a.rx 0, by decide +kernel⟩

theorem witness_HostFeedsAndTransmitPorts_3 :
    ∃ (s : State) (h : HallId) (p vc id : Nat) (r : FeedRecord) (im : Image) (b : HostFeedBody) (P : RxPort), (s.hall h).dev.up = true ∧ (s.hall h).pwr.hall = .on ∧ (s.hall h).image = some im ∧ im.feedOn h.idx p vc = some (id, b) ∧ (s.hall h).cam.ports[p]? = some P ∧ P.feedOpen.contains vc = true ∧ (r.kind = 0 ∨ 3 < r.kind ∨ bit b.kinds (r.kind - 1) = false) :=
  ⟨onA feeding, .a, 0, 3, 9, rec0 0 0, { img with sensors := [⟨9, 0, .hostFeed feed9⟩] }, feed9, (feeding up.a).rx 0, by decide +kernel⟩

theorem witness_HostFeedsAndTransmitPorts_4 :
    ∃ (s : State) (h : HallId) (p vc id : Nat) (r : FeedRecord) (im : Image) (b : HostFeedBody) (P : RxPort), ∃ o : FeedObj, (s.hall h).dev.up = true ∧ (s.hall h).pwr.hall = .on ∧ (s.hall h).image = some im ∧ im.feedOn h.idx p vc = some (id, b) ∧ (s.hall h).cam.ports[p]? = some P ∧ P.feedOpen.contains vc = true ∧ r.kind = 3 ∧ bit b.kinds 2 = true ∧ bit r.rflags 0 = false ∧ (s.hall h).feedObj p vc 3 r.channel = some o ∧ (((s.hall h).sec.loads.find? fun (l : Load) => l.source == 0 && l.feedId == id && l.channel == r.channel && !l.complete) = none) ∧ feedOk o none r = true ∧ bit r.rflags 1 = false :=
  ⟨onA feeding, .a, 0, 3, 9, rec0 3 0, { img with sensors := [⟨9, 0, .hostFeed feed9⟩] }, feed9, (feeding up.a).rx 0, ⟨0, 3, 3, 3, 0, []⟩, by decide +kernel⟩

theorem witness_HostFeedsAndTransmitPorts_5 :
    ∃ (s : State) (h : HallId) (p vc id : Nat) (r : FeedRecord) (im : Image) (b : HostFeedBody) (P : RxPort), ∃ o : FeedObj, (s.hall h).dev.up = true ∧ (s.hall h).pwr.hall = .on ∧ (s.hall h).image = some im ∧ im.feedOn h.idx p vc = some (id, b) ∧ (s.hall h).cam.ports[p]? = some P ∧ P.feedOpen.contains vc = true ∧ r.kind = 3 ∧ bit b.kinds 2 = true ∧ bit r.rflags 0 = false ∧ (s.hall h).feedObj p vc 3 r.channel = some o ∧ (((s.hall h).sec.loads.find? fun (l : Load) => l.source == 0 && l.feedId == id && l.channel == r.channel && !l.complete) = none) ∧ o.kind = 3 ∧ (r.rseq ≠ o.rseq ∨ r.offset ≠ o.bytes.length ∨ r.data.length ≠ r.len) :=
  ⟨onA feeding, .a, 0, 3, 9, rec0 3 1, { img with sensors := [⟨9, 0, .hostFeed feed9⟩] }, feed9, (feeding up.a).rx 0, ⟨0, 3, 3, 3, 0, []⟩, by decide +kernel⟩

theorem witness_HostFeedsAndTransmitPorts_6 :
    ∃ (H : Hall) (id chan : Nat), ((H.rings.find? fun (r : FeedRing) => r.feedId == id && r.channel == chan) = none) :=
  ⟨up.a, 0, 0, by decide +kernel⟩

theorem witness_HostFeedsAndTransmitPorts_7 :
    ∃ (s : State) (h : HallId), s.por = false ∧ (s.hall h).dev.up = true :=
  ⟨up, .a, by decide +kernel⟩

theorem witness_HostFeedsAndTransmitPorts_8 :
    ∃ (s : State) (p t idx blk o : Nat) (w : Word), let v := w &&& 0xFCFF1FFF#32; let u := s.spent p blk; t < 4 ∧ s.Reaches p (regAddr (portHall p) 0xB (0x10 * t)) w idx blk o ∧ (u.hall (portHall p)).txClass0 t = false ∧ (txEnable v = false ∨ txRange v = true) :=
  ⟨up, 0, 0, 11, 11, 0, 0, by decide +kernel, ⟨by decide +kernel, by decide +kernel, ofOk (by decide +kernel), by decide +kernel⟩, by decide +kernel, by decide +kernel⟩

theorem witness_HostFeedsAndTransmitPorts_9 :
    ∃ (s : State) (p t idx blk o : Nat) (w : Word), let v := w &&& 0xFCFF1FFF#32; t < 4 ∧ s.Reaches p (regAddr (portHall p) 0xB (0x10 * t)) w idx blk o ∧ txEnable v = true ∧ txRange v = false :=
  ⟨up, 0, 0, 11, 11, 0, 0x80000000, by decide +kernel, ⟨by decide +kernel, by decide +kernel, ofOk (by decide +kernel), by decide +kernel⟩, by decide +kernel, by decide +kernel⟩

theorem witness_UnlocksGuardRegisterWrites_0 :
    ∃ (s : State) (p blk idx : Nat) (w : Word), s.por = false ∧ s.portUp p = true ∧ (s.wordRefusal p (regAddr (portHall p) blk 0x3FF0) (fun i b o => (s.hall (portHall p)).mayWrite p i b o w) = .ok (idx, blk, 0x3FF0)) ∧ w = 0x5EA1#32 :=
  ⟨up, 0, 5, 5, 0x5EA1, by decide +kernel, by decide +kernel, ofOk (by decide +kernel), by decide +kernel⟩

theorem witness_UnlocksGuardRegisterWrites_1 :
    ∃ (s : State) (p blk idx : Nat) (w : Word), s.por = false ∧ s.portUp p = true ∧ (s.wordRefusal p (regAddr (portHall p) blk 0x3FF0) (fun i b o => (s.hall (portHall p)).mayWrite p i b o w) = .ok (idx, blk, 0x3FF0)) ∧ w ≠ 0x5EA1#32 :=
  ⟨up, 0, 5, 5, 0, by decide +kernel, by decide +kernel, ofOk (by decide +kernel), by decide +kernel⟩

theorem witness_UnlocksGuardRegisterWrites_2 :
    ∃ (s : State) (p blk : Nat), s.por = false ∧ s.portUp p = true ∧ (s.port p).armed.contains blk = true :=
  ⟨up, 0, 0, by decide +kernel⟩

theorem witness_UnlocksGuardRegisterWrites_3 :
    ∃ (s : State) (p addr code : Nat) (w : Word), s.por = false ∧ s.portUp p = true ∧ (s.wordRefusal p addr (fun i b o => (s.hall (portHall p)).mayWrite p i b o w) = .error code) :=
  ⟨up, 0, 0x2000000, 0x0003, 0, by decide +kernel, by decide +kernel, ofErr (by decide +kernel)⟩

theorem witness_UnlocksGuardRegisterWrites_4 :
    ∃ (s : State) (p addr idx blk o : Nat) (w : Word), s.por = false ∧ s.portUp p = true ∧ o ≠ 0x3FF0 ∧ ¬(idx = 7 ∧ o = 0) ∧ (s.wordRefusal p addr (fun i b o => (s.hall (portHall p)).mayWrite p i b o w) = .ok (idx, blk, o)) ∧ guarded (portHall p) idx o = true ∧ (s.port p).armed.contains blk = false :=
  ⟨onP fun P => { P with armed := [] }, 0, regAddr .a 5 0x80, 5, 5, 0x80, 0, by decide +kernel, by decide +kernel, by decide +kernel, by decide +kernel, ofOk (by decide +kernel), by decide +kernel, by decide +kernel⟩

theorem witness_UnlocksGuardRegisterWrites_5 :
    ∃ (s : State) (p addr idx blk o : Nat) (w : Word), s.por = false ∧ s.portUp p = true ∧ o ≠ 0x3FF0 ∧ ¬(idx = 7 ∧ o = 0) ∧ (s.wordRefusal p addr (fun i b o => (s.hall (portHall p)).mayWrite p i b o w) = .ok (idx, blk, o)) ∧ guarded (portHall p) idx o = true ∧ (s.port p).armed.contains blk = true :=
  ⟨up, 0, regAddr .a 5 0x80, 5, 5, 0x80, 0, by decide +kernel, by decide +kernel, by decide +kernel, by decide +kernel, ofOk (by decide +kernel), by decide +kernel, by decide +kernel⟩

theorem witness_UnlocksGuardRegisterWrites_6 :
    ∃ (s : State) (p addr idx blk o : Nat) (w : Word), s.por = false ∧ s.portUp p = true ∧ o ≠ 0x3FF0 ∧ ¬(idx = 7 ∧ o = 0) ∧ (s.wordRefusal p addr (fun i b o => (s.hall (portHall p)).mayWrite p i b o w) = .ok (idx, blk, o)) ∧ guarded (portHall p) idx o = false :=
  ⟨up, 0, regAddr .a 7 0x690, 7, 7, 0x690, 0, by decide +kernel, by decide +kernel, by decide +kernel, by decide +kernel, ofOk (by decide +kernel), by decide +kernel⟩

theorem witness_GuardedWritesTakeEffect_0 :
    ∃ (s : State) (p idx blk o : Nat) (old im : Image), s.Reaches p (regAddr (portHall p) 0 0x114) 1#32 idx blk o ∧ (s.hall (portHall p)).image = some old ∧ (s.hall (portHall p)).dev.stagedImg = some im ∧ (s.hall (portHall p)).dev.staged = 3 :=
  ⟨onA (dev fun D => { D with staged := 3, stagedImg := some img }), 0, 0, 0, 0x114, img, img, ⟨by decide +kernel, by decide +kernel, ofOk (by decide +kernel), by decide +kernel⟩, by decide +kernel, by decide +kernel, by decide +kernel⟩

theorem witness_GuardedWritesTakeEffect_1 :
    ∃ (s : State) (p idx blk o : Nat) (old im : Image), s.Reaches p (regAddr (portHall p) 0 0x114) 1#32 idx blk o ∧ (s.hall (portHall p)).image = some old ∧ (s.hall (portHall p)).dev.stagedImg = some im ∧ (s.hall (portHall p)).dev.staged = 2 ∧ im.sdigest ≠ old.sdigest :=
  ⟨onA (dev fun D => { D with staged := 2, stagedImg := some { img with sdigest := [3] } }), 0, 0, 0, 0x114, img, { img with sdigest := [3] }, ⟨by decide +kernel, by decide +kernel, ofOk (by decide +kernel), by decide +kernel⟩, by decide +kernel, by decide +kernel, by decide +kernel, by decide +kernel⟩

theorem witness_GuardedWritesTakeEffect_2 :
    ∃ (s : State) (p idx blk o : Nat) (old im : Image), s.Reaches p (regAddr (portHall p) 0 0x114) 1#32 idx blk o ∧ (s.hall (portHall p)).image = some old ∧ (s.hall (portHall p)).dev.stagedImg = some im ∧ (s.hall (portHall p)).dev.staged = 2 ∧ im.sdigest = old.sdigest ∧ (s.hall (portHall p)).stair.mode ≠ .split ∧ (s.hall (portHall p)).stair.mode ≠ .paired ∧ ((s.spent p 0).hall (portHall p)).stagedFits (portHall p).idx im = true :=
  ⟨onA fun H => stair (fun T => { T with mode := .single }) (dev (fun D => { D with staged := 2, stagedImg := some img }) H), 0, 0, 0, 0x114, img, img, ⟨by decide +kernel, by decide +kernel, ofOk (by decide +kernel), by decide +kernel⟩, by decide +kernel, by decide +kernel, by decide +kernel, by decide +kernel, by decide +kernel, by decide +kernel, by decide +kernel⟩

theorem witness_GuardedWritesTakeEffect_3 :
    ∃ (s : State) (p idx blk o : Nat), s.Reaches p (regAddr (portHall p) 0 0x114) 2#32 idx blk o ∧ (s.hall (portHall p)).dev.staged ≠ 3 :=
  ⟨up, 0, 0, 0, 0x114, ⟨by decide +kernel, by decide +kernel, ofOk (by decide +kernel), by decide +kernel⟩, by decide +kernel⟩

theorem witness_GuardedWritesTakeEffect_4 :
    ∃ (s : State) (p idx blk o : Nat), s.Reaches p (regAddr (portHall p) 0 0x114) 2#32 idx blk o ∧ (s.hall (portHall p)).dev.staged = 3 :=
  ⟨onA (dev fun D => { D with staged := 3, stagedImg := some img }), 0, 0, 0, 0x114, ⟨by decide +kernel, by decide +kernel, ofOk (by decide +kernel), by decide +kernel⟩, by decide +kernel⟩

theorem witness_GuardedWritesTakeEffect_5 :
    ∃ (s : State) (p idx blk o : Nat) (w : Word) (g : Nat), s.Reaches p (regAddr (portHall p) (0x10 + g) 0x20) w idx blk o ∧ g < 8 :=
  ⟨up, 0, 14, 16, 0x20, 3, 0, ⟨by decide +kernel, by decide +kernel, ofOk (by decide +kernel), by decide +kernel⟩, by decide +kernel⟩

theorem witness_GuardedWritesTakeEffect_6 :
    ∃ (s : State) (p idx blk o : Nat) (w : Word), s.Reaches p (regAddr (portHall p) 4 0x90) w idx blk o ∧ w.getLsbD 31 = false :=
  ⟨up, 0, 4, 4, 0x90, 3, ⟨by decide +kernel, by decide +kernel, ofOk (by decide +kernel), by decide +kernel⟩, by decide +kernel⟩

theorem witness_GuardedWritesTakeEffect_7 :
    ∃ (s : State) (p idx blk o : Nat) (w : Word), s.Reaches p (regAddr (portHall p) 4 0x90) w idx blk o ∧ w.getLsbD 31 = true :=
  ⟨up, 0, 4, 4, 0x90, 0x80000003, ⟨by decide +kernel, by decide +kernel, ofOk (by decide +kernel), by decide +kernel⟩, by decide +kernel⟩

theorem witness_GuardedWritesTakeEffect_8 :
    ∃ (s : State) (p idx blk o : Nat), s.Reaches p (regAddr (portHall p) 4 0x88) 0x80000000#32 idx blk o :=
  ⟨up, 0, 4, 4, 0x88, ⟨by decide +kernel, by decide +kernel, ofOk (by decide +kernel), by decide +kernel⟩⟩

theorem witness_GuardedWritesTakeEffect_9 :
    ∃ (s : State) (p idx blk o : Nat) (w : Word), s.Reaches p (regAddr (portHall p) 4 0x08) w idx blk o ∧ w.getLsbD 31 = true :=
  ⟨up, 0, 4, 4, 0x08, 0x80000000, ⟨by decide +kernel, by decide +kernel, ofOk (by decide +kernel), by decide +kernel⟩, by decide +kernel⟩

theorem witness_GuardedWritesTakeEffect_10 :
    ∃ (s : State) (p idx blk o : Nat) (w : Word), s.Reaches p (regAddr (portHall p) 9 0x00) w idx blk o :=
  ⟨up, 0, 9, 9, 0, 0, ⟨by decide +kernel, by decide +kernel, ofOk (by decide +kernel), by decide +kernel⟩⟩

theorem witness_GuardedWritesTakeEffect_11 :
    ∃ (s : State) (p idx blk o : Nat) (w : Word), s.Reaches p (regAddr (portHall p) 8 0x00) w idx blk o ∧ ((s.a.image.bind fun im => im.cascade) = none) :=
  ⟨up, 0, 8, 8, 0, 0, ⟨by decide +kernel, by decide +kernel, ofOk (by decide +kernel), by decide +kernel⟩, by decide +kernel⟩

theorem witness_GuardedWritesTakeEffect_12 :
    ∃ (s : State) (p idx blk o : Nat) (w : Word), s.Reaches p (regAddr (portHall p) 8 0x00) w idx blk o ∧ ((s.a.image.bind fun im => im.cascade).isSome = true) :=
  ⟨onA (imaged fun im => { im with cascade := some [] }), 0, 8, 8, 0, 0, ⟨by decide +kernel, by decide +kernel, ofOk (by decide +kernel), by decide +kernel⟩, by decide +kernel⟩

theorem witness_GuardedWritesTakeEffect_13 :
    ∃ (s : State) (p idx blk o : Nat) (w : Word) (m : Nat), s.Reaches p (regAddr (portHall p) 8 (0x100 + 4 * m)) w idx blk o ∧ m < 32 :=
  ⟨up, 0, 8, 8, 0x100, 0, 0, ⟨by decide +kernel, by decide +kernel, ofOk (by decide +kernel), by decide +kernel⟩, by decide +kernel⟩

theorem witness_RotationsAndPowerRequests_0 :
    ∃ (s : State) (p idx blk o : Nat) (w : Word), s.Reaches p (regAddr (portHall p) 5 0x80) w idx blk o ∧ w.getLsbD 31 = false :=
  ⟨up, 0, 5, 5, 0x80, 1, ⟨by decide +kernel, by decide +kernel, ofOk (by decide +kernel), by decide +kernel⟩, by decide +kernel⟩

theorem witness_RotationsAndPowerRequests_1 :
    ∃ (s : State) (p idx blk o : Nat) (w : Word), s.Reaches p (regAddr (portHall p) 5 0x80) w idx blk o ∧ w.getLsbD 31 = true ∧ (s.hall (portHall p)).dom (bits w.toNat 0 12) = none :=
  ⟨up, 0, 5, 5, 0x80, 0x80000002, ⟨by decide +kernel, by decide +kernel, ofOk (by decide +kernel), by decide +kernel⟩, by decide +kernel, by decide +kernel⟩

theorem witness_RotationsAndPowerRequests_2 :
    ∃ (s : State) (p idx blk o : Nat) (w : Word), ∃ x : Dom, s.Reaches p (regAddr (portHall p) 5 0x80) w idx blk o ∧ w.getLsbD 31 = true ∧ (s.hall (portHall p)).dom (bits w.toNat 0 12) = some x ∧ (s.hall (portHall p)).sec.trngOk = true ∧ (s.hall (portHall p)).oldLive (bits w.toNat 0 12) = true :=
  ⟨onA (sec fun S => { S with sweeps := [1] }), 0, 5, 5, 0x80, 0x80000001, dom1, ⟨by decide +kernel, by decide +kernel, ofOk (by decide +kernel), by decide +kernel⟩, by decide +kernel, by decide +kernel, by decide +kernel, by decide +kernel⟩

theorem witness_RotationsAndPowerRequests_3 :
    ∃ (s : State) (p idx blk o : Nat) (w : Word), ∃ x : Dom, s.Reaches p (regAddr (portHall p) 5 0x80) w idx blk o ∧ w.getLsbD 31 = true ∧ (s.hall (portHall p)).dom (bits w.toNat 0 12) = some x ∧ (s.hall (portHall p)).sec.trngOk = true ∧ (s.hall (portHall p)).oldLive (bits w.toNat 0 12) = false ∧ (s.hall (portHall p)).sec.sweeps = [] ∧ x.releasing = false ∧ x.current = 0 :=
  ⟨up, 0, 5, 5, 0x80, 0x80000001, dom1, ⟨by decide +kernel, by decide +kernel, ofOk (by decide +kernel), by decide +kernel⟩, by decide +kernel, by decide +kernel, by decide +kernel, by decide +kernel, by decide +kernel, by decide +kernel, by decide +kernel⟩

theorem witness_RotationsAndPowerRequests_4 :
    ∃ (s : State) (p idx blk o : Nat) (w : Word) (vt : Nat), (s.atVt vt).Reaches p (regAddr (portHall p) 3 (0x10 + 4 * portIdx p)) w idx blk o :=
  ⟨up, 0, 3, 3, 0x10, 0, 0, ⟨by decide +kernel, by decide +kernel, ofOk (by decide +kernel), by decide +kernel⟩⟩

theorem witness_RotationsAndPowerRequests_5 :
    ∃ (s : State) (p config : Nat) (valid : Bool), p < 4 ∧ p < 2 :=
  ⟨up, 0, 0, false, by decide +kernel⟩

theorem witness_RotationsAndPowerRequests_6 :
    ∃ (s : State) (p config : Nat) (valid : Bool), p < 4 ∧ 2 ≤ p :=
  ⟨up, 2, 0, false, by decide +kernel⟩

theorem witness_RotationsAndPowerRequests_7 :
    ∃ (s : State) (p idx blk o vt : Nat), (s.atVt vt).Reaches p (regAddr (portHall p) 3 0x04) (2#32 ||| BitVec.ofNat 32 (b2n (s.hall (portHall p)).pwr.driveHold)) idx blk o :=
  ⟨up, 0, 3, 3, 4, 0, ⟨by decide +kernel, by decide +kernel, ofOk (by decide +kernel), by decide +kernel⟩⟩

theorem witness_CountersSnapshotsAndSamples_0 :
    ∃ (s : State) (p : Nat), s.por = false ∧ s.portUp p = true ∧ (s.wordRefusal p (regAddr (portHall p) 7 0) (fun i b o => (s.hall (portHall p)).mayWrite p i b o 1#32) = .ok (7, 7, 0)) :=
  ⟨up, 0, by decide +kernel, by decide +kernel, ofOk (by decide +kernel)⟩

theorem witness_CountersSnapshotsAndSamples_1 :
    ∃ (s : State) (p k idx blk o : Nat) (w : Word), k < 8 ∧ s.Reaches p (regAddr (portHall p) 7 (0x600 + 4 * k)) w idx blk o :=
  ⟨up, 0, 0, 7, 7, 0x600, 0, by decide +kernel, ⟨by decide +kernel, by decide +kernel, ofOk (by decide +kernel), by decide +kernel⟩⟩

theorem witness_CountersSnapshotsAndSamples_2 :
    ∃ (s : State) (p k idx blk o : Nat) (w : Word), k < 8 ∧ s.Reaches p (regAddr (portHall p) 7 (0x600 + 4 * k)) w idx blk o ∧ (1151 < bits w.toNat 0 11 ∨ bits w.toNat 16 6 < 10 ∨ 40 < bits w.toNat 16 6) :=
  ⟨up, 0, 0, 7, 7, 0x600, 0, by decide +kernel, ⟨by decide +kernel, by decide +kernel, ofOk (by decide +kernel), by decide +kernel⟩, by decide +kernel⟩

theorem witness_CountersSnapshotsAndSamples_3 :
    ∃ (s : State) (h : HallId) (k : Nat) (x : Sampler) (w l : Nat × Nat) (n : Nat), s.por = false ∧ (s.hall h).dev.up = true ∧ (s.hall h).cnt.samplers[k]? = some x ∧ x.wrap = some w ∧ ((s.hall h).core (x.counter / 12)).lastCommit = some (l.1, l.2, n) :=
  ⟨onA fun H => { H with cnt := { H.cnt with samplers := [⟨true, 10, 0, some (0, 0)⟩] }, cores := modAt H.cores 0 fun (C : Core) => { C with lastCommit := some (1, 2, 3) } }, .a, 0, ⟨true, 10, 0, some (0, 0)⟩, (0, 0), (1, 2), 3, by decide +kernel⟩

theorem witness_CountersSnapshotsAndSamples_4 :
    ∃ (s : State) (p : Nat), s.por = false ∧ s.portUp p = true ∧ (s.hall (portHall p)).hasRight p 4 = true ∧ (s.wordRefusal p (regAddr (portHall p) 7 0x69C) (fun i b o => (s.hall (portHall p)).mayRead p i b o) = .ok (7, 7, 0x69C)) :=
  ⟨up, 0, by decide +kernel, by decide +kernel, by decide +kernel, ofOk (by decide +kernel)⟩

theorem witness_CountersSnapshotsAndSamples_5 :
    ∃ (s : State) (p w n : Nat), s.por = false ∧ s.portUp p = true ∧ w < 3 ∧ n < 2048 ∧ (s.wordRefusal p (regAddr (portHall p) 7 (0x4000 * (w + 1) + 8 * n)) (fun i b o => (s.hall (portHall p)).mayRead p i b o) = .ok (7, 7, 0x4000 * (w + 1) + 8 * n)) :=
  ⟨up, 0, 1, 3, by decide +kernel, by decide +kernel, by decide +kernel, by decide +kernel, ofOk (by decide +kernel)⟩

theorem witness_CountersSnapshotsAndSamples_6 :
    ∃ (c : Cnt) (i w n : Nat), i < c.latch.length ∧ w < 3 ∧ n < 2048 :=
  ⟨Cnt.reset, 0, 0, 0, by decide +kernel⟩

theorem witness_CountersSnapshotsAndSamples_7 :
    ∃ (c : Cnt) (i w n : Nat), ∃ o, i < c.latch.length ∧ w < 3 ∧ n < 2048 ∧ counterAt o = none :=
  ⟨Cnt.reset, 0, 0, 0, 0, by decide +kernel⟩

theorem witness_PortEntriesOfTheLogAreLimited_0 :
    ∃ (s : State) (p code unit arg : Nat), let t := s.logPort (portHall p) p code unit arg; p < 4 ∧ (s.hall (portHall p)).ports.length = 2 ∧ (s.port p).logged < 16 :=
  ⟨up, 0, 0, 0, 0, by decide +kernel⟩

theorem witness_PortEntriesOfTheLogAreLimited_1 :
    ∃ (s : State) (p code unit arg : Nat), let t := s.logPort (portHall p) p code unit arg; p < 4 ∧ (s.hall (portHall p)).ports.length = 2 ∧ 16 ≤ (s.port p).logged :=
  ⟨onP fun P => { P with logged := 16 }, 0, 0, 0, 0, by decide +kernel⟩

theorem witness_PortEntriesOfTheLogAreLimited_2 :
    ∃ H : Hall, ∃ P, P ∈ H.refresh.ports :=
  ⟨up.a, up.a.refresh.ports.headD Port.reset, by decide +kernel⟩

theorem witness_NumbersKeepTheirCanonicalForms_0 :
    ∃ (elem code : Nat) (f : Format), (elem, code, f) ∈ [(9, 0x7FC00000, fmtFP32), (7, 0x7FC0, fmtBF16), (8, 0x7E00, fmtFP16), (5, 0x7F, fmtE4M3), (6, 0x7E, fmtE5M2)] :=
  ⟨9, 0x7FC00000, fmtFP32, by decide⟩

theorem witness_NumbersKeepTheirCanonicalForms_1 :
    ∃ (elem code : Nat) (f : Format), ∃ x : Fp, (elem, code, f) ∈ [(9, 0x7FC00000, fmtFP32), (7, 0x7FC0, fmtBF16), (8, 0x7E00, fmtFP16), (5, 0x7F, fmtE4M3), (6, 0x7E, fmtE5M2)] ∧ (f.decode (convert elem x).1).isNan = true :=
  ⟨7, 0x7FC0, fmtBF16, .nan, by decide +kernel⟩

theorem witness_NumbersKeepTheirCanonicalForms_2 :
    ∃ (elem code : Nat) (f : Format), ∃ c, (elem, code, f) ∈ [(9, 0x7FC00000, fmtFP32), (7, 0x7FC0, fmtBF16), (8, 0x7E00, fmtFP16), (5, 0x7F, fmtE4M3), (6, 0x7E, fmtE5M2)] ∧ (f.decode c).isNan = true :=
  ⟨7, 0x7FC0, fmtBF16, 0x7FC0, by decide +kernel⟩

theorem witness_NumbersKeepTheirCanonicalForms_3 :
    ∃ (e : Elem) (d : Fp), let y := d.add32 e.c; let t := e.s.add32 y; t.isNan = false ∧ t.isInf = false :=
  ⟨⟨Fp.zero, Fp.zero⟩, Fp.zero, by decide +kernel⟩

theorem witness_NumbersKeepTheirCanonicalForms_4 :
    ∃ (e : Elem) (d : Fp), let y := d.add32 e.c; let t := e.s.add32 y; (t.isNan = true ∨ t.isInf = true) :=
  ⟨⟨.nan, Fp.zero⟩, Fp.zero, by decide +kernel⟩

theorem witness_RingSamplesRoundToNearest_0 :
    ∃ v : Int, -(2 ^ 23) ≤ v ∧ v < 2 ^ 23 ∧ v < 256 * 32767 + 128 :=
  ⟨0, by decide +kernel⟩

theorem witness_RingSamplesRoundToNearest_1 :
    ∃ v : Int, -(2 ^ 23) ≤ v ∧ v < 2 ^ 23 ∧ v < 256 * 32767 + 128 ∧ (256 * ringSample v - v = 128 ∨ 256 * ringSample v - v = -128) :=
  ⟨128, by decide +kernel⟩

theorem witness_RingSamplesRoundToNearest_2 :
    ∃ v : Int, -(2 ^ 23) ≤ v ∧ v < 2 ^ 23 ∧ 256 * 32767 + 128 ≤ v :=
  ⟨8388480, by decide +kernel⟩

theorem witness_RingSamplesRoundToNearest_3 :
    ∃ (m : Memory) (slot k : Nat), m.wf = true ∧ slot < 32000 ∧ k < 8 :=
  ⟨⟨[]⟩, 0, 0, by decide +kernel⟩

theorem witness_VestibuleFramesAndDecisions_0 :
    ∃ s : State, s.por = false ∧ ((s.a.image.bind fun im => im.cascade) = none) ∧ s.vst.descend = false ∧ s.vst.level = 0 ∧ s.vst.esc = none ∧ s.vst.retryEntry = false :=
  ⟨up, by decide +kernel⟩

theorem witness_VestibuleFramesAndDecisions_1 :
    ∃ (c : Candidate) (openAt v : Nat), c.frames = 0 ∧ c.low = 0 ∧ v < openAt :=
  ⟨⟨0, 0, 0, 0, false, 5, 3, 100, 100, 0⟩, 4, 3, by decide +kernel⟩

theorem witness_VestibuleFramesAndDecisions_2 :
    ∃ (c : Candidate) (openAt v : Nat), c.frames = 0 ∧ c.low = 0 ∧ openAt ≤ v ∧ c.wakeAt ≤ v ∧ c.closeAt ≤ v :=
  ⟨⟨0, 0, 0, 0, false, 5, 3, 100, 100, 0⟩, 4, 5, by decide +kernel⟩

theorem witness_VestibuleFramesAndDecisions_3 :
    ∃ (c : Candidate) (openAt v : Nat), c.frames = 0 ∧ c.low = 0 ∧ openAt ≤ v ∧ v < c.wakeAt ∧ c.closeAt ≤ v ∧ 10 < c.maxMs :=
  ⟨⟨0, 0, 0, 0, false, 5, 3, 100, 100, 0⟩, 4, 4, by decide +kernel⟩

theorem witness_VestibuleFramesAndDecisions_4 :
    ∃ (s : State) (c : Nat), s.por = false ∧ (s.vst.cands.any (fun (x : Candidate) => x.cls == c && x.exceeds) = true) :=
  ⟨onV fun v => { v with cands := [⟨0, 0, 10, 0, false, 5, 3, 100, 100, 0⟩] }, 0, by decide +kernel⟩

theorem witness_VestibuleFramesAndDecisions_5 :
    ∃ (s : State) (c : Nat), s.por = false ∧ (s.vst.cands.any (fun (x : Candidate) => x.cls == c && x.exceeds) = false) :=
  ⟨up, 0, by decide +kernel⟩

theorem witness_VestibuleFramesAndDecisions_6 :
    ∃ (s : State) (f : FlightEntry), s.por = false ∧ 0 < s.vst.level ∧ s.vst.esc = none ∧ s.flight s.vst.level = some f ∧ s.vst.level ≤ s.highest 3 :=
  ⟨flown [flt 0, flt 2] fun v => { v with level := 2 }, flt 2, by decide +kernel⟩

theorem witness_VestibuleFramesAndDecisions_7 :
    ∃ (s : State) (vt : Nat) (f : FlightEntry), s.por = false ∧ 0 < s.vst.level ∧ s.vst.esc = none ∧ s.flight s.vst.level = some f ∧ s.vst.level ≤ s.highest 3 ∧ vtPassed s.vst.dwellVt vt f.minDwellMs = true ∧ (s.vst.descReq = true ∨ vtPassed s.vst.idleVt vt f.idleMs = true) :=
  ⟨flown [flt 0, flt 2] fun v => { v with level := 2, descReq := true }, 4000, flt 2, by decide +kernel⟩

theorem witness_VestibuleFramesAndDecisions_8 :
    ∃ (s : State) (vt t : Nat), s.por = false ∧ s.vst.deferred = some t ∧ t + 49152 ≤ vt :=
  ⟨onV fun v => { v with deferred := some 0 }, 49152, 0, by decide +kernel⟩

theorem witness_VestibuleFramesAndDecisions_9 :
    ∃ (s : State) (vt t : Nat), s.por = false ∧ s.vst.deferred = some t ∧ vt < t + 49152 :=
  ⟨onV fun v => { v with deferred := some 0 }, 49151, 0, by decide +kernel⟩

theorem witness_VestibuleFramesAndDecisions_10 :
    ∃ (s : State) (f : PresenceFrame), s.por = false ∧ s.hasPresence = true ∧ f.faulty = true :=
  ⟨sensed presS id, ⟨true, 0, none, []⟩, by decide +kernel⟩

theorem witness_VestibuleFramesAndDecisions_11 :
    ∃ (s : State) (f : PresenceFrame), ∃ fl, s.por = false ∧ s.hasPresence = true ∧ f.faulty = false ∧ s.vst.presVt = none ∧ s.flight 0 = some fl ∧ s.available 0 = true ∧ f.box = none :=
  ⟨{ flown [flt 0] id with a := imaged (fun im => { im with sensors := [⟨9, 0, presS⟩] }) (flown [flt 0] id).a }, ⟨false, 0, none, []⟩, flt 0, by decide +kernel⟩

theorem witness_VestibuleFramesAndDecisions_12 :
    ∃ (s : State) (f : PresenceFrame), ∃ fl, s.por = false ∧ s.hasPresence = true ∧ f.faulty = false ∧ s.vst.presVt = none ∧ s.flight 0 = some fl ∧ s.available 0 = true ∧ f.box = none :=
  ⟨{ flown [flt 0] id with a := imaged (fun im => { im with sensors := [⟨9, 0, presS⟩] }) (flown [flt 0] id).a }, ⟨false, 0, none, []⟩, flt 0, by decide +kernel⟩

theorem witness_VestibuleFramesAndDecisions_13 :
    ∃ s : State, s.por = false ∧ s.mirrors = [] :=
  ⟨up, by decide +kernel⟩

theorem witness_VestibuleFramesAndDecisions_14 :
    ∃ s : State, ∃ f, s.por = false ∧ s.mirrors = [f] ∧ s.vst.mirrored = s.vst.cropSeq :=
  ⟨flown [flt 0, flt 2] fun v => { v with level := 2 }, flt 2, by decide +kernel⟩

theorem witness_VestibuleFramesAndDecisions_15 :
    ∃ (s : State) (n : Nat) (e : Escalation) (f : FlightEntry), s.por = false ∧ s.vst.esc = some e ∧ e.copying = true ∧ e.entering = n ∧ n ≠ 1 ∧ n = e.target ∧ s.flight n = some f ∧ f.hall = 0 ∧ (s.a.gal f.gallery).st = .run ∧ (s.a.session (flightSession n)).isSome = true :=
  ⟨let s := flown [flt 0, flt 2] fun v => { v with esc := some ⟨2, 2, true⟩ }; { s with a := { s.a with sec := { s.a.sec with sessions := [{ ses0 with num := 262142 }] } } }, 2, ⟨2, 2, true⟩, flt 2, by decide +kernel⟩

theorem witness_VestibuleFramesAndDecisions_16 :
    ∃ (s : State) (id : Nat) (b : MicArrayBody), s.por = false ∧ b.part ≠ 0xFF ∧ (s.arrays.find? (fun (e : Nat × MicArrayBody) => e.1 == id) = some (id, b)) ∧ (s.vst.blocks.find? (fun (e : Nat × List (Int × Bool)) => e.1 == id) = none) :=
  ⟨sensed (.micArray mic9) id, 9, mic9, by decide +kernel⟩

theorem witness_VestibuleFramesAndDecisions_17 :
    ∃ (s : State) (id vt : Nat) (xs : List (Int × Bool)) (b : MicArrayBody), s.por = false ∧ b.part ≠ 0xFF ∧ (s.arrays.find? (fun (e : Nat × MicArrayBody) => e.1 == id) = some (id, b)) ∧ (s.vst.blocks.find? (fun (e : Nat × List (Int × Bool)) => e.1 == id) = some (id, xs)) ∧ (b.blocks ≤ s.a.cell b.cell ∨ (s.a.gal b.gallery).st ≠ .run) :=
  ⟨{ sensed (.micArray mic9) (fun v => { v with blocks := [(9, [])] }) with a := mem (fun M => { M with cells := [(3, 4)] }) (sensed (.micArray mic9) id).a }, 9, 0, [], mic9, by decide +kernel⟩

theorem witness_VestibuleFramesAndDecisions_18 :
    ∃ (s : State) (id vt : Nat) (xs : List (Int × Bool)) (b : MicArrayBody), s.por = false ∧ b.part ≠ 0xFF ∧ (s.arrays.find? (fun (e : Nat × MicArrayBody) => e.1 == id) = some (id, b)) ∧ (s.vst.blocks.find? (fun (e : Nat × List (Int × Bool)) => e.1 == id) = some (id, xs)) ∧ s.a.cell b.cell < b.blocks ∧ (s.a.gal b.gallery).st = .run :=
  ⟨sensed (.micArray mic9) fun v => { v with blocks := [(9, [])] }, 9, 0, [], mic9, by decide +kernel⟩

theorem witness_CameraFramesAndFaults_0 :
    ∃ (s : State) (h : HallId) (p vc : Nat) (hc : Bool) (im : Image) (e : Nat × CameraBody × PipeBody), s.camerasOn h = true ∧ (s.hall h).image = some im ∧ im.feedOn h.idx p vc = none ∧ (s.hall h).vcDeclared h.idx p vc = true ∧ (((s.hall h).rxActive h.idx p vc).header h.idx p vc hc).camsOn h.idx p vc = [e] :=
  ⟨onA (seen shot id), .a, 0, 1, false, imgCam, e10, by decide +kernel⟩

theorem witness_CameraFramesAndFaults_1 :
    ∃ (H : Hall) (us : Nat) (e : Nat × CameraBody × PipeBody) (c : Camera), ∃ t, H.openFrame e.1 = none ∧ H.camera e.1 = some c ∧ c.lastUs = some t ∧ 10 * (us - t) < 9 * e.2.1.frameUs :=
  ⟨seen { shot with lastUs := some 0 } id up.a, 0, e10, { shot with lastUs := some 0 }, 0, by decide +kernel⟩

theorem witness_CameraFramesAndFaults_2 :
    ∃ (H : Hall) (e : Nat × CameraBody × PipeBody) (c : Camera), H.openFrame e.1 = none ∧ H.camera e.1 = some c ∧ c.lastUs = none ∧ (H.rx e.2.1.port).accepting = true ∧ (H.rx e.2.1.port).width ≠ 0 :=
  ⟨seen shot (fun C => { C with ports := modAt C.ports 0 fun (P : RxPort) => { P with accepting := true, width := 4 } }) up.a, e10, shot, by decide +kernel⟩

theorem witness_CameraFramesAndFaults_3 :
    ∃ (s : State) (h : HallId) (p vc dt : Nat) (hc : Bool) (e : Nat × CameraBody × PipeBody), s.camerasOn h = true ∧ (s.hall h).image.isSome = true ∧ (((((s.hall h).rxActive h.idx p vc).header h.idx p vc hc).camsOn h.idx p vc).filter (fun (e : Nat × CameraBody × PipeBody) => e.2.1.dt == dt) = [e]) :=
  ⟨onA (seen shot id), .a, 0, 1, 0x2B, false, e10, by decide +kernel⟩

theorem witness_CameraFramesAndFaults_4 :
    ∃ (H : Hall) (px : List Nat) (e : Nat × CameraBody × PipeBody) (c : Camera) (f : RxFrame), H.camera e.1 = some c ∧ c.cur = some f ∧ f.lines.length ≠ e.2.1.writeLine ∧ f.lines.length ≠ e.2.1.deadlineLine ∧ f.lines.length < e.2.1.height ∧ px.length = e.2.1.width ∧ e.2.2.mode ≠ 0 :=
  ⟨seen { shot with cur := some frameO } id up.a, List.replicate 64 0, e10, { shot with cur := some frameO }, frameO, by decide +kernel⟩

theorem witness_CameraFramesAndFaults_5 :
    ∃ (s : State) (h : HallId) (p vc dt : Nat) (hc : Bool) (e : Nat × CameraBody × PipeBody) (f : RxFrame), s.camerasOn h = true ∧ (s.hall h).image.isSome = true ∧ (((((s.hall h).rxActive h.idx p vc).header h.idx p vc hc).camsOn h.idx p vc).filter (fun (e : Nat × CameraBody × PipeBody) => e.2.1.embDt == dt && dt != 0) = [e]) ∧ (((s.hall h).rxActive h.idx p vc).header h.idx p vc hc).openFrame e.1 = some f :=
  ⟨onA (seen { shot with cur := some frameO } id), .a, 0, 1, 0x12, false, e10, frameO, by decide +kernel⟩

theorem witness_CameraFramesAndFaults_6 :
    ∃ (s : State) (h : HallId) (dt : Nat), s.camerasOn h = true ∧ (s.hall h).image.isSome = true ∧ dt < 64 :=
  ⟨up, .a, 0, by decide +kernel⟩

theorem witness_CameraFramesAndFaults_7 :
    ∃ (s : State) (h : HallId) (p vc : Nat), s.camerasOn h = true ∧ (s.hall h).image.isSome = true ∧ ((s.hall h).rxActive h.idx p vc).vcDeclared h.idx p vc = true :=
  ⟨onA (seen shot id), .a, 0, 1, by decide +kernel⟩

theorem witness_CameraFramesAndFaults_8 :
    ∃ (s : State) (h : HallId) (p vc us : Nat), let late := ((s.hall h).camsOn h.idx p vc).filter fun (e : Nat × CameraBody × PipeBody) => match (s.hall h).openFrame e.1 with | some f => decide (f.us + e.2.1.timeoutUs ≤ us) | none => false; s.camerasOn h = true ∧ late = [] :=
  ⟨up, .a, 0, 0, 0, by decide +kernel⟩

theorem witness_CameraFramesAndFaults_9 :
    ∃ (s : State) (h : HallId) (p vc us : Nat), let late := ((s.hall h).camsOn h.idx p vc).filter fun (e : Nat × CameraBody × PipeBody) => match (s.hall h).openFrame e.1 with | some f => decide (f.us + e.2.1.timeoutUs ≤ us) | none => false; ∃ e, s.camerasOn h = true ∧ late = [e] :=
  ⟨onA (seen { shot with cur := some frameO } id), .a, 0, 1, 50000, e10, by decide +kernel⟩

theorem witness_CameraFramesAndFaults_10 :
    ∃ (s : State) (h : HallId), s.camerasOn h = true ∧ (s.hall h).image.isSome = true :=
  ⟨up, .a, by decide +kernel⟩

theorem witness_CameraFramesAndFaults_11 :
    ∃ (s : State) (h : HallId) (p vc dt : Nat), s.camerasOn h = true ∧ (s.hall h).image.isSome = true ∧ (s.hall h).vcDeclared h.idx p vc = false ∧ (s.hall h).dtDeclared h.idx p vc dt = false :=
  ⟨up, .a, 0, 0, 0, by decide +kernel⟩

theorem witness_CameraFramesAndFaults_12 :
    ∃ (s : State) (h : HallId) (p l : Nat), s.camerasOn h = true ∧ (s.hall h).image.isSome = true ∧ ((s.hall h).rx p).sotCur.getD l 0 ≠ 0 :=
  ⟨onA (seen shot (fun C => { C with ports := modAt C.ports 0 fun (P : RxPort) => { P with sotCur := [1, 0, 0, 0] } })), .a, 0, 0, by decide +kernel⟩

theorem witness_CameraFramesAndFaults_13 :
    ∃ (s : State) (h : HallId), s.por = false ∧ s.camerasOn h = false :=
  ⟨onA (dev (fun D => { D with up := false })), .a, by decide +kernel⟩

theorem witness_IspPiecesAndSensorBuses_0 :
    ∃ (s : State) (h : HallId), s.camerasOn h = true ∧ (s.hall h).cam.piece.isSome = true :=
  ⟨onA (cam fun C => { C with piece := some 0 }), .a, by decide +kernel⟩

theorem witness_IspPiecesAndSensorBuses_1 :
    ∃ (s : State) (h : HallId), ∃ (n : Nat) (e : Nat × CameraBody × PipeBody) (f : RxFrame), s.camerasOn h = true ∧ (s.hall h).cam.piece = none ∧ n < 32 ∧ e.2.2.ctx = n ∧ (s.hall h).ctxCamera h.idx n = some e ∧ (s.hall h).pieceReady e = true ∧ (∀ m e', m ≠ n → (s.hall h).ctxCamera h.idx m = some e' → (s.hall h).pieceReady e' = false) ∧ (s.hall h).ispFrame n e.1 = some f ∧ (s.hall h).cam.lastCtx = some n :=
  ⟨onA (seen { shot with cur := some { frameO with closed := true } } fun C => { C with lastCtx := some 0 }), .a, 0, e10, { frameO with closed := true }, by decide +kernel, by decide +kernel, by decide +kernel, by decide +kernel, by decide +kernel, by decide +kernel, (fun m e' hm he => by
    rw [ctxCamera_one (c := { shot with cur := some { frameO with closed := true } }) (b := cam10) (p := pipe20) (by decide +kernel) (by decide +kernel) (fun h => hm h.symm)] at he
    cases he), by decide +kernel, by decide +kernel⟩

theorem witness_IspPiecesAndSensorBuses_2 :
    ∃ (s : State) (h : HallId), s.camerasOn h = true ∧ (s.hall h).cam.piece = none :=
  ⟨up, .a, by decide +kernel⟩

theorem witness_IspPiecesAndSensorBuses_3 :
    ∃ (s : State) (h : HallId), ∃ n e, s.camerasOn h = true ∧ (s.hall h).cam.piece = some n ∧ (s.hall h).ctxCamera h.idx n = some e ∧ (s.hall h).ispFrame e.2.2.ctx e.1 = none :=
  ⟨onA (seen shot fun C => { C with piece := some 0 }), .a, 0, e10, by decide +kernel⟩

theorem witness_IspPiecesAndSensorBuses_4 :
    ∃ (s : State) (h : HallId), ∃ n e f, s.camerasOn h = true ∧ (s.hall h).cam.piece = some n ∧ (s.hall h).ctxCamera h.idx n = some e ∧ (s.hall h).ispFrame e.2.2.ctx e.1 = some f ∧ f.out0 = true ∧ f.out1 = false ∧ e.2.2.statsAddr = 0xFFFFFFFF ∧ e.2.1.height ≤ e.2.2.stripeLines * (f.pieces + 1) :=
  ⟨onA (seen { shot with cur := some { frameO with out0 := true, pieces := 1 } } fun C => { C with piece := some 0 }), .a, 0, e10, { frameO with out0 := true, pieces := 1 }, by decide +kernel⟩

theorem witness_IspPiecesAndSensorBuses_5 :
    ∃ (s : State) (h : HallId) (n id : Nat) (r : SetRec), s.camerasOn h = true ∧ (s.hall h).busRec h.idx n = some (id, r) ∧ 1 < r.left :=
  ⟨onA (seen { shot with recs := [setR 2 false] } id), .a, 0, 10, setR 2 false, by decide +kernel⟩

theorem witness_IspPiecesAndSensorBuses_6 :
    ∃ (s : State) (h : HallId) (n id : Nat) (r : SetRec), s.camerasOn h = true ∧ (s.hall h).busRec h.idx n = some (id, r) ∧ r.left = 1 :=
  ⟨onA (seen { shot with recs := [setR 1 false] } id), .a, 0, 10, setR 1 false, by decide +kernel⟩

theorem witness_IspPiecesAndSensorBuses_7 :
    ∃ (s : State) (h : HallId) (n id : Nat) (r : SetRec), s.camerasOn h = true ∧ (s.hall h).busRec h.idx n = some (id, r) ∧ r.retried = false :=
  ⟨onA (seen { shot with recs := [setR 1 false] } id), .a, 0, 10, setR 1 false, by decide +kernel⟩

theorem witness_IspPiecesAndSensorBuses_8 :
    ∃ (s : State) (h : HallId) (n id : Nat) (r : SetRec), s.camerasOn h = true ∧ (s.hall h).busRec h.idx n = some (id, r) ∧ r.retried = true :=
  ⟨onA (seen { shot with recs := [setR 1 true] } id), .a, 0, 10, setR 1 true, by decide +kernel⟩

theorem witness_IspPiecesAndSensorBuses_9 :
    ∃ (s : State) (h : HallId) (n id : Nat) (r : SetRec), ∃ b p, s.camerasOn h = true ∧ (s.hall h).busRec h.idx n = some (id, r) ∧ (s.hall h).camEntry h.idx id = some (b, p) ∧ b.bus < 2 :=
  ⟨onA (seen { shot with recs := [setR 1 true] } id), .a, 0, 10, setR 1 true, cam10, pipe20, by decide +kernel⟩

theorem witness_IspPiecesAndSensorBuses_10 :
    ∃ (s : State) (h : HallId), s.camerasOn h = true :=
  ⟨up, .a, by decide +kernel⟩

theorem witness_IspPiecesAndSensorBuses_11 :
    ∃ (s : State) (h : HallId) (p : Nat), s.camerasOn h = true ∧ ((s.hall h).rx p).narrowing = true ∧ (∀ e ∈ (s.hall h).camsOnPort h.idx p, ∀ c, (s.hall h).camera e.1 = some c → ∀ r ∈ c.recs, r.degrade = true → r.failed = true ∨ r.left = 0) :=
  ⟨onA (seen shot (fun C => { C with ports := modAt C.ports 0 fun (P : RxPort) => { P with narrowing := true } })), .a, 0, by decide +kernel, by decide +kernel, (ofOne (a := e10) (by decide +kernel) (ofSome (v := shot) (by decide +kernel) (fun r hr => nomatch hr)))⟩

theorem witness_PowerLowersRisesAndTemperature_0 :
    ∃ (s : State) (h : HallId) (g : Nat) (l : Lowering), let u := s.onHall h fun H => { H with pwr := { H.pwr with drains := H.pwr.drains &&& ~~~(BitVec.ofNat 8 (2 ^ g)) } }; s.por = false ∧ s.pkg.lower = some l ∧ l.abort = none ∧ (s.hall h).pwr.drains.getLsbD g = true ∧ (s.hall h).drainStalled g = false ∧ (s.hall h).drained g = true ∧ (u.a.pwr.drains ≠ 0 ∨ u.b.pwr.drains ≠ 0) :=
  ⟨{ onA (pwr fun P => { P with drains := 3 }) with pkg := { up.pkg with lower := some ⟨2, 0, 0, false, none⟩ } }, .a, 0, ⟨2, 0, 0, false, none⟩, by decide +kernel⟩

theorem witness_PowerLowersRisesAndTemperature_1 :
    ∃ (s : State) (h : HallId) (g : Nat) (l : Lowering), let u := s.onHall h fun H => { H with pwr := { H.pwr with drains := H.pwr.drains &&& ~~~(BitVec.ofNat 8 (2 ^ g)) } }; s.por = false ∧ s.pkg.lower = some l ∧ l.abort = none ∧ (s.hall h).pwr.drains.getLsbD g = true ∧ (s.hall h).drainStalled g = false ∧ (s.hall h).drained g = true ∧ u.a.pwr.drains = 0 ∧ u.b.pwr.drains = 0 :=
  ⟨{ onA (pwr fun P => { P with drains := 1 }) with pkg := { up.pkg with lower := some ⟨2, 0, 0, false, none⟩ } }, .a, 0, ⟨2, 0, 0, false, none⟩, by decide +kernel⟩

theorem witness_PowerLowersRisesAndTemperature_2 :
    ∃ (s : State) (l : Lowering), s.leaves l .a = false ∧ s.leaves l .b = false :=
  ⟨up, ⟨3, 0, 0, false, none⟩, by decide +kernel⟩

theorem witness_PowerLowersRisesAndTemperature_3 :
    ∃ (s : State) (l : Lowering), s.leaves l .a = true ∧ s.leaves l .b = false ∧ ((s.a.streams.any fun (x : TxStream) => x.sending.isSome) = true) :=
  ⟨{ onA (fun H => { H with streams := [{ stream3 with sending := some [] }] }) with b := pwr (fun P => { P with hall := .retention }) up.b }, ⟨1, 0, 0, false, none⟩, by decide +kernel⟩

theorem witness_PowerLowersRisesAndTemperature_4 :
    ∃ (s : State) (l : Lowering), s.leaves l .a = true ∧ s.leaves l .b = false ∧ ((s.a.streams.any fun (x : TxStream) => x.sending.isSome) = false) :=
  ⟨{ onA (fun H => { H with streams := [{ stream3 with sending := none }] }) with b := pwr (fun P => { P with hall := .retention }) up.b }, ⟨1, 0, 0, false, none⟩, by decide +kernel⟩

theorem witness_PowerLowersRisesAndTemperature_5 :
    ∃ (s : State) (l : Lowering), s.por = false ∧ s.pkg.lower = some l ∧ l.window = true ∧ l.abort = none :=
  ⟨onK fun K => { K with lower := some ⟨1, 0, 0, true, none⟩ }, ⟨1, 0, 0, true, none⟩, by decide +kernel⟩

theorem witness_PowerLowersRisesAndTemperature_6 :
    ∃ s : State, s.por = false ∧ s.vst.fresh = [false, false] ∧ (s.pkg.rise = none ∨ s.pkg.pg.getD 0 false = false) :=
  ⟨up, by decide +kernel⟩

theorem witness_PowerLowersRisesAndTemperature_7 :
    ∃ (s : State) (r : Rise), s.por = false ∧ s.pkg.rise = some r ∧ s.pkg.pg = [true, true] ∧ r.toState = r.goal :=
  ⟨onK fun K => { K with rise := some ⟨3, 0, 0, 3⟩ }, ⟨3, 0, 0, 3⟩, by decide +kernel⟩

theorem witness_PowerLowersRisesAndTemperature_8 :
    ∃ (s : State) (h : HallId) (r : Rise), s.por = false ∧ s.pkg.rise = some r ∧ s.pkg.pg.getD h.idx false = false :=
  ⟨onK fun K => { K with rise := some ⟨3, 0, 0, 3⟩, pg := [false, true] }, .a, ⟨3, 0, 0, 3⟩, by decide +kernel⟩

theorem witness_PowerLowersRisesAndTemperature_9 :
    ∃ (s : State) (h : HallId) (t : Nat), s.por = false ∧ (s.hall h).dev.up = true ∧ (s.hall h).pwr.ramp = some t :=
  ⟨onA (pwr fun P => { P with ramp := some 0 }), .a, 0, by decide +kernel⟩

theorem witness_PowerLowersRisesAndTemperature_10 :
    ∃ (s : State) (h : HallId) (t : Int), s.por = false ∧ (s.hall h).dev.up = true ∧ 110 ≤ t :=
  ⟨up, .a, 110, by decide +kernel⟩

theorem witness_PowerLowersRisesAndTemperature_11 :
    ∃ (s : State) (h : HallId) (t : Int), s.por = false ∧ (s.hall h).dev.up = true ∧ t < 105 :=
  ⟨up, .a, 0, by decide +kernel⟩

theorem witness_PowerLowersRisesAndTemperature_12 :
    ∃ (s : State) (h : HallId) (t : Int), s.por = false ∧ (s.hall h).dev.up = true ∧ 105 ≤ t :=
  ⟨up, .a, 105, by decide +kernel⟩

theorem witness_PowerLowersRisesAndTemperature_13 :
    ∃ (s : State) (h : HallId) (t : Int), s.por = false ∧ (s.hall h).dev.up = true ∧ t < 125 :=
  ⟨up, .a, 0, by decide +kernel⟩

theorem witness_PowerLowersRisesAndTemperature_14 :
    ∃ (s : State) (h : HallId) (t : Int), s.por = false ∧ (s.hall h).dev.up = true ∧ 125 ≤ t :=
  ⟨up, .a, 125, by decide +kernel⟩

theorem witness_PowerLowersRisesAndTemperature_15 :
    ∃ (s : State) (h : HallId) (t : Int) (g : Nat), (s.hall h).gals.length = 8 ∧ g < 8 :=
  ⟨up, .a, 0, 0, by decide +kernel⟩

theorem witness_PowerLowersRisesAndTemperature_16 :
    ∃ (s : State) (h : HallId) (t : Int) (g : Nat), let G := ((s.thermalTrip h t).hall h).gal g; ∃ n, (s.hall h).gals.length = 8 ∧ g < 8 ∧ n ∈ G.strikes :=
  ⟨up, .a, 125, 0, 3, by decide +kernel⟩

theorem witness_PowerLowersRisesAndTemperature_17 :
    ∃ (s : State) (mw : Nat), s.por = false ∧ mw < 1024000 :=
  ⟨up, 0, by decide +kernel⟩

theorem witness_WakePinsGiveWakes_0 :
    ∃ (s : State) (n : Nat), s.por = false ∧ n < 8 ∧ (∀ l, s.pkg.lower = some l → l.window = false) ∧ s.pkg.active.getLsbD n = false :=
  ⟨up, 0, by decide +kernel⟩

theorem witness_WakePinsGiveWakes_1 :
    ∃ (s : State) (n : Nat), s.por = false ∧ n < 8 ∧ (∀ l, s.pkg.lower = some l → l.window = false) ∧ s.pkg.active.getLsbD n = true ∧ bit (s.pin n).flags 1 = true :=
  ⟨{ onK (fun K => { K with active := 1 }) with a := imaged (fun im => { im with pins := [⟨3, 0⟩] }) up.a }, 0, by decide +kernel, by decide +kernel, (fun _ h => nomatch h), by decide +kernel, by decide +kernel⟩

theorem witness_WakePinsGiveWakes_2 :
    ∃ (s : State) (n : Nat), s.por = false ∧ n < 8 ∧ (∀ l, s.pkg.lower = some l → l.window = false) ∧ s.pkg.active.getLsbD n = true :=
  ⟨onK fun K => { K with active := 1 }, 0, by decide +kernel, by decide +kernel, (fun _ h => nomatch h), by decide +kernel⟩

theorem witness_WakePinsGiveWakes_3 :
    ∃ (s : State) (l : Lowering), s.por = false ∧ s.pkg.lower = some l ∧ l.window = true :=
  ⟨onK fun K => { K with lower := some ⟨1, 0, 0, true, none⟩ }, ⟨1, 0, 0, true, none⟩, by decide +kernel⟩

theorem witness_WakePinsGiveWakes_4 :
    ∃ (s : State) (n vt : Nat), s.por = false ∧ n < 8 ∧ s.pkg.active.getLsbD n = false ∧ s.pkg.inactive.getD n 0 + 32768 ≤ vt :=
  ⟨up, 0, 32768, by decide +kernel⟩

theorem witness_WakePinsGiveWakes_5 :
    ∃ (s : State) (n vt : Nat), s.por = false ∧ n < 8 ∧ s.pkg.active.getLsbD n = false ∧ vt < s.pkg.inactive.getD n 0 + 32768 :=
  ⟨up, 0, 0, by decide +kernel⟩

theorem witness_WakePinsGiveWakes_6 :
    ∃ (s : State) (n : Nat), n < 8 ∧ (s.pkg.wakeEn.getLsbD n = false ∨ s.pkg.stuck.getLsbD n = true) :=
  ⟨up, 0, by decide +kernel⟩

theorem witness_WakePinsGiveWakes_7 :
    ∃ (s : State) (n vt : Nat), ∃ t, n < 8 ∧ s.pkg.wakeEn.getLsbD n = true ∧ s.pkg.stuck.getLsbD n = false ∧ (s.pkg.times.getD n [])[15]? = some t ∧ vt ≤ t + 32768 :=
  ⟨onK fun K => { K with wakeEn := 1, times := [List.replicate 17 5] }, 0, 5, 5, by decide +kernel⟩

theorem witness_WakePinsGiveWakes_8 :
    ∃ (s : State) (n vt : Nat), n < 8 ∧ s.pkg.wakeEn.getLsbD n = true ∧ s.pkg.stuck.getLsbD n = false ∧ (s.pkg.times.getD n [])[15]? = none ∧ ((s.a.image.bind fun im => im.cascade).isSome = true) :=
  ⟨{ onA (imaged fun im => { im with cascade := some [] }) with pkg := { up.pkg with wakeEn := 1 } }, 0, 0, by decide +kernel⟩

theorem witness_WakePinsGiveWakes_9 :
    ∃ (s : State) (n vt : Nat), n < 8 ∧ s.pkg.wakeEn.getLsbD n = true ∧ s.pkg.stuck.getLsbD n = false ∧ (s.pkg.times.getD n [])[15]? = none ∧ ((s.a.image.bind fun im => im.cascade) = none) ∧ (s.pin n).config = 0xFF :=
  ⟨{ onA (imaged fun im => { im with pins := [⟨3, 0xFF⟩] }) with pkg := { up.pkg with wakeEn := 1 } }, 0, 0, by decide +kernel⟩

theorem witness_WakePinsGiveWakes_10 :
    ∃ (s : State) (n vt : Nat), n < 8 ∧ s.pkg.wakeEn.getLsbD n = true ∧ s.pkg.stuck.getLsbD n = false ∧ (s.pkg.times.getD n [])[15]? = none ∧ ((s.a.image.bind fun im => im.cascade) = none) ∧ (s.pin n).config ≠ 0xFF :=
  ⟨onK fun K => { K with wakeEn := 1, times := [[]] }, 0, 0, by decide +kernel⟩

/-! ### Flash objects that verify -/

/-- A smallest image, but for its structure digest, key and signature: partition 0 of Hall A over gallery 0, one class-1 slot, domain 1. -/
def tiny : List (Nat × Nat × Nat) :=
  [(0, 4, 0x4E5A4941), (4, 2, 3), (8, 4, 1024), (12, 4, 1), (18, 2, 8)]
   ++ [(256, 2, 1), (258, 2, 1), (260, 4, 384), (264, 4, 32), (268, 4, 1), (272, 2, 2), (274, 2, 1), (276, 4, 416), (280, 4, 0), (284, 4, 0), (288, 2, 4),
   (290, 2, 1), (292, 4, 416), (296, 4, 0), (300, 4, 0), (304, 2, 5), (306, 2, 1), (308, 4, 416), (312, 4, 128), (316, 4, 1), (320, 2, 6), (322, 2, 1),
   (324, 4, 544), (328, 4, 16), (332, 4, 1), (336, 2, 7), (338, 2, 1), (340, 4, 576), (344, 4, 40), (348, 4, 1), (352, 2, 16), (354, 2, 1), (356, 4, 640),
   (360, 4, 128), (364, 4, 1), (368, 2, 17), (370, 2, 1), (372, 4, 768), (376, 4, 8), (380, 4, 1)]
   ++ [(388, 1, 1), (390, 1, 15), (400, 2, 64), (404, 2, 16), (408, 4, 64), (416, 2, 1), (418, 1, 1), (419, 1, 1), (420, 2, 1), (422, 1, 15), (442, 2, 16),
   (448, 1, 1), (546, 2, 1023), (548, 2, 1), (552, 2, 65535), (554, 2, 65535), (577, 1, 255), (579, 1, 255), (581, 1, 255), (583, 1, 255), (585, 1, 255),
   (587, 1, 255), (589, 1, 255), (591, 1, 255), (592, 4, 4294967295), (609, 1, 2), (610, 1, 1), (612, 1, 3), (644, 4, 33333), (648, 4, 30000),
   (652, 4, 40000), (656, 1, 4), (657, 1, 4), (658, 1, 3), (676, 2, 1), (707, 1, 1), (708, 1, 1), (710, 2, 1), (716, 4, 96), (738, 1, 1), (744, 2, 4096),
   (746, 2, 65535), (750, 2, 65535), (752, 4, 100), (760, 2, 1), (764, 2, 65535), (769, 1, 1), (770, 1, 1)]

/-- The smallest image, signed by the scalar 1 with the nonce 1. -/
def tinyImage : List Byte :=
  fields 928 (tiny
    ++ [(0x20, 48, 30448872721979255347868033727411303445110297411741039663465957486771092971428643093069564095298150076584123605635113),
      (0x50, 96, 576483120413116960962777374877753656514007501859709624398978273475766883615522292487997991543978030979390863125485521994290729094133139887981919888566745721739362054173524380771756751725247233106664326600692833005136580157635200938)])
  ++ beBytes 96 1034185839481682719866415711672643620493012746459739913350434332196071816455295853885883906658640919608724392493385529564247547195911545709067678609954102217284679923371733234606475179172852247932605978697638442003406866043850348182

/-- A firmware object of version 1 without a body, signed in the same way. -/
def tinyFirmware : List Byte :=
  fields 128 [(0, 4, 0x57464C53), (4, 1, 1)]
  ++ beBytes 96 1034185839481682719866415711672643620493012746459739913350434332196071816455295853885883906658640919608724392493385537428201537510140690300100447496749221129114806943519617887568056896656014935822391803350083185566545074197448706302

/-- The bytes from an address on that are not 0. -/
def sparse (a : Nat) : List Byte → List (Nat × Byte)
  | [] => []
  | b :: r => if b = 0 then sparse (a + 1) r else (a, b) :: sparse (a + 1) r

theorem cellAt_sparse_outside {x : Nat} {l : List (Nat × Byte)} : ∀ {bs : List Byte} {a : Nat}, x < a ∨ a + bs.length ≤ x →
    cellAt (sparse a bs ++ l) x = cellAt l x
  | [], _, _ => rfl
  | b :: r, a, h => by
    simp only [List.length_cons] at h
    have ih := cellAt_sparse_outside (l := l) (bs := r) (a := a + 1) (x := x) (by omega)
    unfold sparse
    split
    · exact ih
    · simp only [List.cons_append, cellAt]
      rw [if_neg (by omega), ih]

theorem cellAt_sparse_inside {x : Nat} {l : List (Nat × Byte)} (hl : cellAt l x = none) : ∀ {bs : List Byte} {a : Nat}, a ≤ x → x < a + bs.length →
    (cellAt (sparse a bs ++ l) x).getD 0 = bs.getD (x - a) 0
  | [], a, h1, h2 => by simp only [List.length_nil] at h2; omega
  | b :: r, a, h1, h2 => by
    simp only [List.length_cons] at h2
    by_cases hx : x = a
    · subst hx
      unfold sparse
      split
      · next hb =>
        rw [cellAt_sparse_outside (by omega), hl, hb]
        simp
      · simp [cellAt]
    · have ih := cellAt_sparse_inside hl (bs := r) (a := a + 1) (by omega) (by omega)
      have hs : (b :: r).getD (x - a) 0 = r.getD (x - (a + 1)) 0 := by
        rw [show x - a = (x - (a + 1)) + 1 by omega]
        simp
      rw [hs]
      unfold sparse
      split
      · exact ih
      · simp only [List.cons_append, cellAt]
        rw [if_neg (by omega), ih]

theorem getAll_eq {m : Memory} {a : Nat} {bs : List Byte} (h : ∀ i, i < bs.length → m.get (a + i) = bs.getD i 0) : m.getAll a bs.length = bs := by
  apply List.ext_getElem
  · simp [Memory.getAll]
  · intro i h1 h2
    simp only [Memory.getAll, List.getElem_map, List.getElem_range, h i h2, List.getD_eq_getElem?_getD, List.getElem?_eq_getElem h2, Option.getD_some]

/-- A flash of 1 MB with a directory and objects at 8192 and 12288. -/
def flashOf (d o p : List Byte) : Flash := ⟨1048576, ⟨sparse 0 d ++ (sparse 8192 o ++ (sparse 12288 p ++ []))⟩, true, true, true⟩

theorem flashOf_dir {d o p : List Byte} {n : Nat} (hd : d.length = 100) (hn : 100 + n ≤ 8192) :
    flashRead (flashOf d o p) 0 (100 + n) = d ++ List.replicate n 0 := by
  have hl : (d ++ List.replicate n (0 : Byte)).length = 100 + n := by simp [hd]
  rw [flashRead, ← hl]
  apply getAll_eq
  intro i hi
  have hn : cellAt (sparse 8192 o ++ (sparse 12288 p ++ [])) i = none := by
    rw [cellAt_sparse_outside (by omega), cellAt_sparse_outside (by omega), cellAt]
  rw [Nat.zero_add]
  by_cases h : i < 100
  · rw [Memory.get, flashOf, cellAt_sparse_inside hn (by omega) (by omega)]
    simp [List.getElem?_append_left (show i < d.length by omega)]
  · rw [Memory.get, flashOf, cellAt_sparse_outside (by omega), hn]
    rw [List.getD_eq_getElem?_getD, List.getElem?_append_right (by omega)]
    simp only [List.getElem?_replicate]
    split <;> rfl

theorem flashOf_first {d o p : List Byte} {n : Nat} (hd : d.length = 100) (hn : o.length = n) (ho : n ≤ 4096) :
    flashRead (flashOf d o p) 8192 n = o := by
  rw [flashRead, ← hn]
  apply getAll_eq
  intro i hi
  rw [Memory.get, flashOf, cellAt_sparse_outside (by omega), cellAt_sparse_inside (by rw [cellAt_sparse_outside (by omega), cellAt]) (by omega) (by omega), Nat.add_sub_cancel_left]

theorem flashOf_second {d o p : List Byte} {n : Nat} (hd : d.length = 100) (ho : o.length ≤ 4096) (hn : p.length = n) :
    flashRead (flashOf d o p) 12288 n = p := by
  rw [flashRead, ← hn]
  apply getAll_eq
  intro i hi
  rw [Memory.get, flashOf, cellAt_sparse_outside (by omega), cellAt_sparse_outside (by omega), cellAt_sparse_inside rfl (by omega) (by omega), Nat.add_sub_cancel_left]

/-- A directory whose CRC runs through 0 after its last word. -/
def dirOf (n : Nat) (fs : List (Nat × Nat × Nat)) : List Byte :=
  fields n ([(0, 4, 0x54445654), (4, 2, 1), (6, 2, 2), (8, 4, 0xFFFFFFFF)] ++ fs)

/-- Firmware and an image, each in slot 0. -/
def dirOne : List Byte :=
  dirOf 100 [(64, 1, 1), (68, 4, 8192), (72, 4, 224), (80, 1, 2), (84, 4, 12288), (88, 4, 1024), (96, 4, 4093981686)]

/-- An image in each slot. -/
def dirTwo : List Byte :=
  dirOf 100 [(64, 1, 2), (68, 4, 8192), (72, 4, 1024), (80, 1, 2), (81, 1, 1), (84, 4, 12288), (88, 4, 1024), (96, 4, 286175383)]

/-- A flash that holds firmware and an image in slot 0. -/
def flashOne : Flash := flashOf dirOne tinyFirmware tinyImage

/-- A flash that holds the image in both slots. -/
def flashTwo : Flash := flashOf dirTwo tinyImage tinyImage

/-- Hall A in a stage, with DRAM and keys that match. -/
def waits (st : BootStage) : State := onA fun H =>
  { H with
    keyArray := { H.keyArray with signer := sha384 (ecBytes p384G), firmware := ecBytes p384G }
    mem := { H.mem with ranks := 1 }
    dev := { H.dev with stage := st, image := none } }

/-- A byte of the CRC-32. -/
def crcByte (c : Nat) (b : Byte) : Nat := (List.range 8).foldl (fun c _ => crc32Bit c) (c ^^^ b.toNat)

theorem crc_zeros (n : Nat) : (List.replicate n (0 : Byte)).foldl crcByte 0 = 0 := by
  induction n with
  | zero => rfl
  | succ n ih => simpa [List.replicate_succ, crcByte, crc32Bit, List.range, List.range.loop] using ih

/-- A directory copy that is followed by zeros. -/
theorem dirOk_pad {d : List Byte} {n : Nat} (hl : d.length = 100)
    (hm : fld (d ++ List.replicate n 0) 0 4 = 0x54445654 ∧ fld (d ++ List.replicate n 0) 4 2 = 1 ∧ fld (d ++ List.replicate n 0) 8 4 = 0xFFFFFFFF)
    (hc : (d.take 8 ++ List.replicate 4 0 ++ d.drop 12).foldl crcByte 0xFFFFFFFF = 0) : dirOk (d ++ List.replicate n 0) = true := by
  have ht : (d ++ List.replicate n 0).take 8 ++ List.replicate 4 0 ++ (d ++ List.replicate n 0).drop 12 =
      (d.take 8 ++ List.replicate 4 0 ++ d.drop 12) ++ List.replicate n (0 : Byte) := by
    rw [List.take_append_of_le_length (by omega), List.drop_append_of_le_length (by omega)]
    simp only [List.append_assoc]
  have hk : crc32 ((d.take 8 ++ List.replicate 4 0 ++ d.drop 12) ++ List.replicate n (0 : Byte)) = 0xFFFFFFFF := by
    show (List.foldl crcByte _ _) ^^^ 0xFFFFFFFF = _
    rw [List.foldl_append, hc, crc_zeros]
    rfl
  simp only [dirOk, ht, hk, hm.1, hm.2.1, hm.2.2, decide_true, Bool.and_self]

theorem flashDirectory_of {d o p : List Byte} {n : Nat} (hn : 100 + n = 4096) (hl : d.length = 100) (ho : dirOk (d ++ List.replicate n 0) = true) :
    flashDirectory (flashOf d o p) = some (d ++ List.replicate n 0) := by
  have hr : flashRead (flashOf d o p) 0 4096 = d ++ List.replicate n 0 := by
    rw [← hn]
    exact flashOf_dir hl (by omega)
  simp only [flashDirectory, hr, ho, if_true]

theorem leBytes_length : ∀ (n v : Nat), (leBytes n v).length = n
  | 0, _ => rfl
  | n + 1, v => by rw [leBytes, List.length_cons, leBytes_length]

theorem lengths : dirOne.length = 100 ∧ dirTwo.length = 100 ∧ tinyFirmware.length = 224 ∧ tinyImage.length = 1024 := by
  simp [dirOne, dirTwo, dirOf, tinyFirmware, tinyImage, fields, beBytes, leBytes_length]

theorem dir_one : flashDirectory flashOne = some (dirOne ++ List.replicate 3996 0) :=
  flashDirectory_of rfl lengths.1 (dirOk_pad lengths.1 (by decide +kernel) (by decide +kernel))

theorem dir_two : flashDirectory flashTwo = some (dirTwo ++ List.replicate 3996 0) :=
  flashDirectory_of rfl lengths.2.1 (dirOk_pad lengths.2.1 (by decide +kernel) (by decide +kernel))

theorem entries_of {f : Flash} {d : List Byte} {r : List DirEntry × List DirEntry} (hd : flashDirectory f = some d)
    (h : (let es := dirEntries d
      let tagged := (List.range es.length).filterMap fun i => es[i]?.map fun e => (e, e.ok f es i)
      ((tagged.filter (·.2)).map (·.1), (tagged.filter fun t => !t.2).map (·.1))) = r) : flashEntries f = r := by
  unfold flashEntries
  rw [hd]
  exact h

theorem entries_one : flashEntries flashOne = ([⟨1, 0, 8192, 224⟩, ⟨2, 0, 12288, 1024⟩], []) := entries_of dir_one (by decide +kernel)

theorem entries_two : flashEntries flashTwo = ([⟨2, 0, 8192, 1024⟩, ⟨2, 1, 12288, 1024⟩], []) := entries_of dir_two (by decide +kernel)

theorem accepts_tiny : ∃ x, (waits .fill).verify .a none tinyImage = .ok x := by
  have h : (okVal ((waits .fill).verify .a none tinyImage)).isSome = true := by decide +kernel
  cases hv : (waits .fill).verify .a none tinyImage with
  | ok x => exact ⟨x, rfl⟩
  | error e => rw [hv] at h; cases h

theorem read_firmware : flashRead flashOne 8192 224 = tinyFirmware := flashOf_first lengths.1 lengths.2.2.1 (by decide)

theorem read_image : flashRead flashOne 12288 1024 = tinyImage := flashOf_second lengths.1 (by rw [lengths.2.2.1]; decide) lengths.2.2.2

theorem read_first : flashRead flashTwo 8192 1024 = tinyImage := flashOf_first lengths.2.1 lengths.2.2.2 (by decide)

theorem read_second : flashRead flashTwo 12288 1024 = tinyImage := flashOf_second lengths.2.1 (by rw [lengths.2.2.2]; decide) lengths.2.2.2

theorem witness_FirmwareLoadRunsTheNewerSlot_0 :
    ∃ (s : State) (f : Flash) (d : List Byte) (e : DirEntry), s.por = false ∧ s.a.dev.up = true ∧ s.a.dev.stage = .rom ∧ f.responds = true ∧ flashDirectory f = some d ∧ (flashEntries f).2 = [] ∧ flashEntry f 1 0 = some e ∧ flashEntry f 1 1 = none ∧ firmwareError s.a.keyArray.firmware (flashRead f e.offset e.length) = 0 ∧ s.straps.bootSrc = 0 :=
  ⟨waits .rom, flashOne, dirOne ++ List.replicate 3996 0, ⟨1, 0, 8192, 224⟩, by decide +kernel, by decide +kernel, by decide +kernel, by decide +kernel,
    dir_one, by rw [entries_one], by rw [flashEntry, entries_one]; decide +kernel, by rw [flashEntry, entries_one]; decide +kernel,
    by rw [read_firmware]; decide +kernel, by decide +kernel⟩

theorem witness_FlashImageBecomesActive_0 :
    ∃ (s : State) (f : Flash), ∃ e0 e1 x y, s.por = false ∧ s.a.dev.up = true ∧ s.a.dev.stage = .fill ∧ s.a.image = none ∧ s.straps.bootSrc ≠ 2 ∧ s.a.mem.trained = true ∧ flashEntry f 2 0 = some e0 ∧ flashEntry f 2 1 = some e1 ∧ s.verify .a none (flashRead f e0.offset e0.length) = .ok x ∧ s.verify .a none (flashRead f e1.offset e1.length) = .ok y := by
  obtain ⟨x, hx⟩ := accepts_tiny
  refine ⟨waits .fill, flashTwo, ⟨2, 0, 8192, 1024⟩, ⟨2, 1, 12288, 1024⟩, x, x, by decide +kernel, by decide +kernel, by decide +kernel, by decide +kernel,
    by decide +kernel, by decide +kernel, by rw [flashEntry, entries_two]; decide +kernel, by rw [flashEntry, entries_two]; decide +kernel, ?_, ?_⟩
  · rw [read_first]; exact hx
  · rw [read_second]; exact hx

theorem witness_FlashImageBecomesActive_1 :
    ∃ (s : State) (f : Flash), ∃ e0 x, s.por = false ∧ s.a.dev.up = true ∧ s.a.dev.stage = .fill ∧ s.a.image = none ∧ s.straps.bootSrc ≠ 2 ∧ s.a.mem.trained = true ∧ flashEntry f 2 0 = some e0 ∧ flashEntry f 2 1 = none ∧ s.verify .a none (flashRead f e0.offset e0.length) = .ok x := by
  obtain ⟨x, hx⟩ := accepts_tiny
  refine ⟨waits .fill, flashOne, ⟨2, 0, 12288, 1024⟩, x, by decide +kernel, by decide +kernel, by decide +kernel, by decide +kernel,
    by decide +kernel, by decide +kernel, by rw [flashEntry, entries_one]; decide +kernel, by rw [flashEntry, entries_one]; decide +kernel, ?_⟩
  rw [read_image]
  exact hx

theorem witness_KeysModelsAndRegisterCapsules_0 :
    ∃ (s u : State) (p : Nat) (c : Capsule) (rest : List Capsule) (e : Session) (v : State) (r : List Byte), s.Heads p c rest 6 none ∧ s.taken p rest = u ∧ u.Named p c e 9 ∧ 64 ≤ c.payload.length ∧ fld c.payload 48 1 = 0 ∧ fld c.payload 49 1 = (portHall p).idx ∧ fld c.payload 50 2 = 0xFFFF ∧ u.attest (portHall p) e 0 0xFFFF (c.payload.take 48) = (v, .ok r) := by
  obtain ⟨r, hr⟩ := attest_ok ((asks (fun H => H) (capOf 6 (fields 64 [(50, 2, 0xFFFF)]))).taken 0 []) .a ses0 0xFFFF
    ((capOf 6 (fields 64 [(50, 2, 0xFFFF)])).payload.take 48)
  exact ⟨asks (fun H => H) (capOf 6 (fields 64 [(50, 2, 0xFFFF)])), (asks (fun H => H) (capOf 6 (fields 64 [(50, 2, 0xFFFF)]))).taken 0 [], 0,
    (capOf 6 (fields 64 [(50, 2, 0xFFFF)])), [], ses0, _, r,
    ⟨by decide +kernel, by decide +kernel, by decide +kernel, by decide +kernel, (fun _ h => nomatch h), by decide +kernel, by decide +kernel⟩, rfl,
    ⟨by decide +kernel, by decide +kernel, by decide +kernel, by decide +kernel⟩, by decide +kernel, by decide +kernel, by decide +kernel,
    by decide +kernel, hr⟩

/-! ### A command for each row of Runs -/

/-- An image that lets partition 0 signal partition 1's cells across the Stair. -/
def farI : Image := { img with windows := [{ win0 with hall := 1, partX := 0, partY := 1 }], routes := [⟨0, 0, 0, 14, 15⟩] }

/-- Hall A with bytes in core 0's operand store. -/
def opMem (ws : List (Nat × List Byte)) (H : Hall) : Hall :=
  { H with cores := modAt H.cores 0 fun (C : Core) => { C with op := { C.op with mem := ws.foldl (fun M w => M.putAll w.1 w.2) C.op.mem } } }

/-- The header of a GRU block of 128 by 1. -/
def blockHd : List Byte := fields 64 [(0, 1, 10), (1, 1, 2), (2, 1, 1), (4, 2, 128), (6, 2, 1)]

/-- Cache 0 with a page of 32 tokens in stream 0, BF16 keys and values in frame 0. -/
def cacheP : Cache := { cache0 with streams := [(0, ⟨[⟨0, 0, 32⟩], none, false, false⟩)] }

theorem noneSome {α : Type} {o : Option α} {v : α} (h : o = none) (e : o = some v) : False := by
  rw [h] at e
  cases e

/-- A row's hypotheses in Runs, on one command in Hall A: it is chosen, it breaks no row of its fault table, and no frame that it pins has all its
pins. -/
def Runnable (H0 : Hall) (want : List Byte → Bool) (d : List Byte) (sound : HallId → Hall → Hall → Ctx → Cmd → Prop)
    (made : HallId → Hall → Hall → Ctx → Cmd → Hall × Built) : Prop :=
  let x := { ctx0 with cmds := [cmd d] }
  let H := ({ H0 with ctxs := [x] } : Hall).onward 1
  H.pick 0 0 1 want = some (x, cmd d) ∧ sound .a H H.settled x (cmd d) ∧ H.pinsFull (made .a H H.settled x (cmd d)).2 = false

theorem witness_runs_copy : Runnable (up.a) (opIs 0x10) (desc ((0, 1, 0x10) :: [(20, 2, 1), (24, 4, 64), (36, 4, 4096), (61, 1, 1)])) (fun h _ R x k => (CopyCmd.ofDesc k.desc).Sound R h.idx x k.desc) (fun h H R x k => ((CopyCmd.ofDesc k.desc).counted H R h.idx x, ((CopyCmd.ofDesc k.desc).build R h.idx x).withWork ((CopyCmd.ofDesc k.desc).work R h.idx x))) :=
  ⟨by decide +kernel, ⟨by decide +kernel, by decide +kernel, by decide +kernel, by decide +kernel, by decide +kernel, by decide +kernel, by decide +kernel, by decide +kernel, by decide +kernel, by decide +kernel, by decide +kernel⟩, by decide +kernel⟩

theorem witness_runs_placeHold : Runnable ((mem (fun M => { M with caches := [cache0] }) up.a)) (opSub 0x11 0 1) (desc ((0, 1, 0x11) :: [(16, 1, 0), (24, 2, 1), (61, 1, 1)])) (fun _ _ R x k => PlaceSound R x k.desc) (fun _ H R x k => (H, ({ Built.empty with place := some (fld k.desc 20 4, fld k.desc 24 2, fld k.desc 16 1 == 0), run := 32 + cdiv (placeEntries R x k.desc) 16 } : Built))) :=
  ⟨by decide +kernel, ⟨by decide +kernel, by decide +kernel, by decide +kernel, by decide +kernel, fun i hi => by
    obtain rfl : i = 0 := Nat.lt_one_iff.mp (show i < 1 from hi)
    exact ⟨by decide +kernel, cache0, by decide +kernel, by decide +kernel⟩⟩, by decide +kernel⟩

theorem witness_runs_placeRelease : Runnable ((mem (fun M => { M with caches := [cache0] }) up.a)) (opSub 0x11 1 1) (desc ((0, 1, 0x11) :: [(16, 1, 1), (24, 2, 1), (61, 1, 1)])) (fun _ _ R x k => PlaceSound R x k.desc) (fun _ H R x k => (H, ({ Built.empty with place := some (fld k.desc 20 4, fld k.desc 24 2, fld k.desc 16 1 == 0), run := 32 + cdiv (placeEntries R x k.desc) 16 } : Built))) :=
  ⟨by decide +kernel, ⟨by decide +kernel, by decide +kernel, by decide +kernel, by decide +kernel, fun i hi => by
    obtain rfl : i = 0 := Nat.lt_one_iff.mp (show i < 1 from hi)
    exact ⟨by decide +kernel, cache0, by decide +kernel, by decide +kernel⟩⟩, by decide +kernel⟩

theorem witness_runs_cellOpSet : Runnable (up.a) (opSub 0x12 0 2) (desc ((0, 1, 0x12) :: [(16, 1, 0), (18, 2, 1), (24, 4, 5), (61, 1, 1)])) (fun h _ R x k => CellSound R h.idx x k.desc) (fun _ H _ _ k => (H, { Built.empty with run := 32 + fld k.desc 18 2, sets := ((List.range (fld k.desc 18 2)).map fun i => (fld k.desc 20 2 + i, fld k.desc 24 4)) })) :=
  ⟨by decide +kernel, ⟨by decide +kernel, by decide +kernel, by decide +kernel, by decide +kernel, by decide +kernel⟩, by decide +kernel⟩

theorem witness_runs_cellOpAdd : Runnable (up.a) (opSub 0x12 1 2) (desc ((0, 1, 0x12) :: [(16, 1, 1), (18, 2, 1), (24, 4, 5), (61, 1, 1)])) (fun h _ R x k => CellSound R h.idx x k.desc) (fun _ H _ _ k => (H, { Built.empty with run := 32 + fld k.desc 18 2, signals := ((List.range (fld k.desc 18 2)).map fun i => (fld k.desc 20 2 + i, fld k.desc 24 4)) })) :=
  ⟨by decide +kernel, ⟨by decide +kernel, by decide +kernel, by decide +kernel, by decide +kernel, by decide +kernel⟩, by decide +kernel⟩

theorem witness_runs_farSignal : Runnable ((imaged (fun _ => farI) up.a)) (opSub 0x12 2 2) (desc ((0, 1, 0x12) :: [(16, 1, 2), (18, 2, 1), (20, 2, 8200), (24, 4, 1), (61, 1, 1)])) (fun h _ R x k => CellSound R h.idx x k.desc) (fun _ H _ x k => (H, { Built.empty with run := 33, stair := [{ kind := 0, cls := x.cls, len := 0, part := x.part, seq := 0, arg0 := fld k.desc 20 2, arg1 := fld k.desc 24 4, arg2 := b2n (bit (fld k.desc 17 1) 0), data := [] }] })) :=
  ⟨by decide +kernel, ⟨by decide +kernel, by decide +kernel, by decide +kernel, by decide +kernel, by decide +kernel⟩, by decide +kernel⟩

theorem witness_runs_matrix : Runnable (up.a) (opIs 0x20) (desc ((0, 1, 0x20) :: [(16, 1, 7), (17, 1, 7), (18, 1, 9), (20, 2, 1), (22, 2, 16), (24, 4, 16), (36, 4, 4096), (40, 4, 65536), (62, 1, 4)])) (fun _ _ R x k => (MatrixCmd.ofDesc k.desc).Sound R x) (fun h H R x k => (H, ((MatrixCmd.ofDesc k.desc).build R h.idx x).withWork ((MatrixCmd.ofDesc k.desc).work x))) :=
  ⟨by decide +kernel, ⟨⟨by decide +kernel, by decide +kernel, by decide +kernel, by decide +kernel⟩, by decide +kernel, by decide +kernel, by decide +kernel, by decide +kernel, by decide +kernel, by decide +kernel, by decide +kernel⟩, by decide +kernel⟩

theorem witness_runs_recur : Runnable (up.a) (opIs 0x40) (desc ((0, 1, 0x40) :: [(16, 1, 5), (17, 1, 5), (18, 1, 7), (19, 1, 10), (20, 1, 1), (22, 1, 1), (23, 1, 6), (24, 2, 128), (26, 2, 1), (28, 2, 1), (30, 2, 1), (40, 4, 65536), (48, 4, 4096), (52, 4, 8192), (61, 1, 64)])) (fun h _ R x k => (RecCmd.ofDesc k.desc).Sound R x (headerAt R h.idx x (RecCmd.ofDesc k.desc).stAddr) k.desc) (fun h H R x k => let a := RecCmd.ofDesc k.desc; (H, (a.build R h.idx x (headerAt R h.idx x a.stAddr) (seedOf h.idx k)).withWork (a.work x))) :=
  ⟨by decide +kernel, ⟨by decide +kernel, ⟨by decide +kernel, by decide +kernel, by decide +kernel, by decide +kernel⟩, by decide +kernel, by decide +kernel, by decide +kernel, by decide +kernel, by decide +kernel, by decide +kernel, by decide +kernel, by decide +kernel, by decide +kernel⟩, by decide +kernel⟩

theorem witness_runs_stateOpInit : Runnable (up.a) (opSub 0x41 0 1) (desc ((0, 1, 0x41) :: [(17, 1, 10), (18, 1, 2), (19, 1, 1), (20, 2, 128), (22, 2, 1), (28, 4, 4096), (38, 1, 8)])) (fun h _ R x k => let a := StateCmd.ofDesc k.desc; a.Sound R x (headerAt R h.idx x a.dst) (headerAt R h.idx x a.src) k.desc) (fun h H R x k => let a := StateCmd.ofDesc k.desc; (H, (a.build R h.idx x (headerAt R h.idx x a.dst) (headerAt R h.idx x a.src) (seedOf h.idx k)).withWork (a.work x (headerAt R h.idx x a.dst) (headerAt R h.idx x a.src)))) :=
  ⟨by decide +kernel, ⟨by decide +kernel, ⟨by decide +kernel, by decide +kernel, by decide +kernel, by decide +kernel⟩, by decide +kernel, by decide +kernel, by decide +kernel, by decide +kernel, by decide +kernel, by decide +kernel, by decide +kernel⟩, by decide +kernel⟩

theorem witness_runs_stateOpAnchor : Runnable ((opMem [(4096, blockHd), (65536, blockHd)] up.a)) (opSub 0x41 1 1) (desc ((0, 1, 0x41) :: [(16, 1, 1), (28, 4, 4096), (32, 4, 65536), (38, 1, 8)])) (fun h _ R x k => let a := StateCmd.ofDesc k.desc; a.Sound R x (headerAt R h.idx x a.dst) (headerAt R h.idx x a.src) k.desc) (fun h H R x k => let a := StateCmd.ofDesc k.desc; (H, (a.build R h.idx x (headerAt R h.idx x a.dst) (headerAt R h.idx x a.src) (seedOf h.idx k)).withWork (a.work x (headerAt R h.idx x a.dst) (headerAt R h.idx x a.src)))) :=
  ⟨by decide +kernel, ⟨by decide +kernel, ⟨by decide +kernel, by decide +kernel, by decide +kernel, by decide +kernel⟩, by decide +kernel, by decide +kernel, by decide +kernel, by decide +kernel, by decide +kernel, by decide +kernel, by decide +kernel⟩, by decide +kernel⟩

theorem witness_runs_attn : Runnable ((mem (fun M => { M with caches := [cacheP], frames := [(0, { frame0 with cache := some 0 })] }) up.a)) (opIs 0x30) (desc ((0, 1, 0x30) :: [(16, 1, 7), (17, 1, 7), (18, 2, 1), (20, 1, 1), (21, 1, 1), (22, 2, 1), (32, 4, 1), (48, 4, 8192), (61, 1, 64)])) (fun h _ R x k => (AttnCmd.ofDesc k.desc).Sound R h.idx x cacheP) (fun h H R x k => let a := AttnCmd.ofDesc k.desc; let gs := (a.run R h.idx x cacheP).flatMap (·.2); (H.readPages cacheP gs, { a.build R h.idx x k.serial cacheP with ins := spans (a.work x cacheP.prm).ins ++ gs.map (R.pageSpan cacheP), outs := spans (a.work x cacheP.prm).outs, gsReads := gsBytes (a.work x cacheP.prm).ins ++ R.pageReads cacheP gs })) :=
  ⟨by decide +kernel, ⟨by decide +kernel, ⟨by decide +kernel, by decide +kernel, by decide +kernel, by decide +kernel⟩, by decide +kernel, by decide +kernel, by decide +kernel, by decide +kernel, by decide +kernel, by decide +kernel, by decide +kernel, by decide +kernel, by decide +kernel⟩, by decide +kernel⟩

theorem witness_runs_attnBwd : Runnable ((mem (fun M => { M with caches := [cacheP], frames := [(0, { frame0 with cache := some 0 })] }) up.a)) (opIs 0x34) (desc ((0, 1, 0x34) :: [(16, 1, 7), (18, 1, 1), (20, 2, 1), (44, 4, 16384), (48, 4, 32768), (52, 4, 65536), (61, 1, 64)])) (fun h _ R x k => (BwdCmd.ofDesc k.desc).Sound R h.idx x cacheP ⟨some 0, 0, 0, 0, 32⟩) (fun h H R x k => let a := BwdCmd.ofDesc k.desc; let gs := BwdCmd.fetched ⟨some 0, 0, 0, 0, 32⟩; (H.readPages cacheP gs, { a.build R h.idx x k.serial cacheP ⟨some 0, 0, 0, 0, 32⟩ with ins := spans (a.work x cacheP.prm).ins ++ gs.map (R.pageSpan cacheP), outs := spans (a.work x cacheP.prm).outs, gsReads := gsBytes (a.work x cacheP.prm).ins ++ R.pageReads cacheP gs })) :=
  ⟨by decide +kernel, ⟨by decide +kernel, by decide +kernel, ⟨by decide +kernel, by decide +kernel, by decide +kernel, by decide +kernel⟩, by decide +kernel, by decide +kernel, by decide +kernel, by decide +kernel, by decide +kernel, by decide +kernel, by decide +kernel, by decide +kernel, by decide +kernel⟩, by decide +kernel⟩

theorem witness_runs_kvAppend : Runnable ((mem (fun M => { M with caches := [cache0] }) up.a)) (opIs 0x31) (desc ((0, 1, 0x31) :: [(16, 1, 7), (18, 1, 1), (32, 4, 4096), (41, 1, 64)])) (fun h H R x k => (AppendCmd.ofDesc k.desc).Sound H R h.idx x cache0) (fun h H R x k => let a := AppendCmd.ofDesc k.desc; let r := a.build H R h.idx x cache0; (r.1, { r.2 with ins := spans (a.work x cache0.prm).ins ++ a.reads H cache0, outs := [], gsReads := gsBytes (a.work x cache0.prm).ins })) :=
  ⟨by decide +kernel, ⟨by decide +kernel, by decide +kernel, by decide +kernel, by decide +kernel, by decide +kernel, by decide +kernel, by decide +kernel, by decide +kernel, by decide +kernel, by decide +kernel, by decide +kernel, by decide +kernel, by decide +kernel⟩, by decide +kernel⟩

theorem witness_runs_attnMerge : Runnable (up.a) (opIs 0x33) (desc ((0, 1, 0x33) :: [(16, 1, 7), (17, 1, 1), (18, 1, 2), (20, 2, 1), (22, 2, 64), (28, 4, 8192), (37, 1, 8)])) (fun _ _ R x k => (MergeCmd.ofDesc k.desc).Sound R x) (fun h H R x k => (H, ((MergeCmd.ofDesc k.desc).build R h.idx x).withWork ((MergeCmd.ofDesc k.desc).work x))) :=
  ⟨by decide +kernel, ⟨⟨by decide +kernel, by decide +kernel, by decide +kernel, by decide +kernel⟩, by decide +kernel, by decide +kernel, by decide +kernel, by decide +kernel, by decide +kernel, by decide +kernel, by decide +kernel⟩, by decide +kernel⟩

theorem witness_runs_kvPageopCreate : Runnable ((opMem [(4096, fields 32 [(0, 1, 1), (1,1,5),(3,1,1),(4,2,64),(6,2,1),(8,2,1),(10,2,4),(14,2,4),(20,4,16)])] up.a)) (opSub 0x32 0 5) (desc ((0, 1, 0x32) :: [(16, 1, 0), (37, 1, 64), (32, 4, 4096)])) (fun h H R x k => (PageCmd.ofDesc k.desc).CreateSound H R h.idx x) (fun h H R x k => let a := PageCmd.ofDesc k.desc; let r := a.build H R h.idx x; (r.1, { r.2 with ins := spans (a.work x).ins ++ a.reads H x, outs := [], gsReads := gsBytes (a.work x).ins })) :=
  ⟨by decide +kernel, ⟨by decide +kernel, ⟨by decide +kernel, by decide +kernel, by decide +kernel, by decide +kernel, by decide +kernel⟩, by decide +kernel, by decide +kernel, by decide +kernel⟩, by decide +kernel⟩

theorem witness_runs_kvPageopDestroy : Runnable ((mem (fun M => { M with caches := [cache0] }) up.a)) (opSub 0x32 1 5) (desc ((0, 1, 0x32) :: [(16, 1, 1), (37, 1, 64)])) (fun h H R x k => (PageCmd.ofDesc k.desc).DestroySound H R h.idx x) (fun h H R x k => let a := PageCmd.ofDesc k.desc; let r := a.build H R h.idx x; (r.1, { r.2 with ins := spans (a.work x).ins ++ a.reads H x, outs := [], gsReads := gsBytes (a.work x).ins })) :=
  ⟨by decide +kernel, ⟨by decide +kernel, ⟨by decide +kernel, by decide +kernel, by decide +kernel, by decide +kernel, by decide +kernel⟩, by decide +kernel, cache0, by decide +kernel, by decide +kernel, by decide +kernel, by decide +kernel⟩, by decide +kernel⟩

theorem witness_runs_kvPageopFork : Runnable ((mem (fun M => { M with caches := [cache0] }) up.a)) (opSub 0x32 2 5) (desc ((0, 1, 0x32) :: [(16, 1, 2), (37, 1, 64), (20, 4, 1)])) (fun h H R x k => (PageCmd.ofDesc k.desc).ForkSound H R h.idx x) (fun h H R x k => let a := PageCmd.ofDesc k.desc; let r := a.build H R h.idx x; (r.1, { r.2 with ins := spans (a.work x).ins ++ a.reads H x, outs := [], gsReads := gsBytes (a.work x).ins })) :=
  ⟨by decide +kernel, ⟨by decide +kernel, ⟨by decide +kernel, by decide +kernel, by decide +kernel, by decide +kernel, by decide +kernel⟩, cache0, cache0, ⟨by decide +kernel, by decide +kernel, fun _ _ _ _ h => (noneSome (by decide +kernel) h).elim⟩, by decide +kernel, by decide +kernel, by decide +kernel, by decide +kernel, by decide +kernel, by decide +kernel, by decide +kernel, by decide +kernel⟩, by decide +kernel⟩

theorem witness_runs_kvPageopDrop : Runnable ((mem (fun M => { M with caches := [cache0] }) up.a)) (opSub 0x32 3 5) (desc ((0, 1, 0x32) :: [(16, 1, 3), (37, 1, 64)])) (fun h H R x k => (PageCmd.ofDesc k.desc).DropSound H R h.idx x) (fun h H R x k => let a := PageCmd.ofDesc k.desc; let r := a.build H R h.idx x; (r.1, { r.2 with ins := spans (a.work x).ins ++ a.reads H x, outs := [], gsReads := gsBytes (a.work x).ins })) :=
  ⟨by decide +kernel, ⟨by decide +kernel, ⟨by decide +kernel, by decide +kernel, by decide +kernel, by decide +kernel, by decide +kernel⟩, cache0, ⟨by decide +kernel, by decide +kernel, fun _ _ _ _ h => (noneSome (by decide +kernel) h).elim⟩⟩, by decide +kernel⟩

theorem witness_runs_kvPageopTruncate : Runnable ((mem (fun M => { M with caches := [cache0] }) up.a)) (opSub 0x32 4 5) (desc ((0, 1, 0x32) :: [(16, 1, 4), (37, 1, 64)])) (fun h H R x k => (PageCmd.ofDesc k.desc).TruncateSound H R h.idx x) (fun h H R x k => let a := PageCmd.ofDesc k.desc; let r := a.build H R h.idx x; (r.1, { r.2 with ins := spans (a.work x).ins ++ a.reads H x, outs := [], gsReads := gsBytes (a.work x).ins })) :=
  ⟨by decide +kernel, ⟨by decide +kernel, ⟨by decide +kernel, by decide +kernel, by decide +kernel, by decide +kernel, by decide +kernel⟩, cache0, ⟨by decide +kernel, by decide +kernel, fun _ _ _ _ h => (noneSome (by decide +kernel) h).elim⟩, by decide +kernel, by decide +kernel, by decide +kernel⟩, by decide +kernel⟩

theorem witness_runs_kvPageopSeal : Runnable ((mem (fun M => { M with caches := [cache0] }) up.a)) (opSub 0x32 5 5) (desc ((0, 1, 0x32) :: [(16, 1, 5), (37, 1, 64)])) (fun h H R x k => (PageCmd.ofDesc k.desc).SealSound H R h.idx x) (fun h H R x k => let a := PageCmd.ofDesc k.desc; let r := a.build H R h.idx x; (r.1, { r.2 with ins := spans (a.work x).ins ++ a.reads H x, outs := [], gsReads := gsBytes (a.work x).ins })) :=
  ⟨by decide +kernel, ⟨by decide +kernel, ⟨by decide +kernel, by decide +kernel, by decide +kernel, by decide +kernel, by decide +kernel⟩, cache0, ⟨by decide +kernel, by decide +kernel, fun _ _ _ _ h => (noneSome (by decide +kernel) h).elim⟩, by decide +kernel⟩, by decide +kernel⟩

theorem witness_runs_conv : Runnable (up.a) (opIs 0x50) (desc ((0, 1, 0x50) :: [(16, 1, 7), (17, 1, 7), (18, 1, 9), (20, 2, 1), (22, 2, 1), (24, 2, 16), (26, 2, 16), (28, 1, 0x11), (29, 1, 0x11), (30, 1, 0x11), (40, 4, 65536), (44, 4, 8192), (56, 2, 1), (58, 2, 1), (62, 1, 8)])) (fun _ _ R x k => (ConvCmd.ofDesc k.desc).Sound R x k.desc) (fun h H R x k => (H, ((ConvCmd.ofDesc k.desc).build R h.idx x).withWork ((ConvCmd.ofDesc k.desc).work x))) :=
  ⟨by decide +kernel, ⟨by decide +kernel, ⟨by decide +kernel, by decide +kernel, by decide +kernel, by decide +kernel⟩, by decide +kernel, by decide +kernel, by decide +kernel, by decide +kernel, by decide +kernel, by decide +kernel, by decide +kernel, by decide +kernel⟩, by decide +kernel⟩

theorem witness_runs_cropResize : Runnable (up.a) (opIs 0x52) (desc ((0, 1, 0x52) :: [(16, 1, 7), (17, 1, 9), (19, 1, 1), (20, 2, 1), (22, 2, 1), (24, 2, 1), (26, 2, 1), (28, 1, 1), (29, 1, 1), (30, 2, 1), (36, 4, 4096), (40, 4, 8192), (52, 2, 16), (61, 1, 1)])) (fun _ _ R x k => (CropCmd.ofDesc k.desc).Sound R x k.desc) (fun h H R x k => (H, ((CropCmd.ofDesc k.desc).build R h.idx x).withWork ((CropCmd.ofDesc k.desc).work x))) :=
  ⟨by decide +kernel, ⟨by decide +kernel, ⟨by decide +kernel, by decide +kernel, by decide +kernel, by decide +kernel⟩, by decide +kernel, by decide +kernel, by decide +kernel, by decide +kernel, by decide +kernel, by decide +kernel, by decide +kernel⟩, by decide +kernel⟩

theorem witness_runs_boxDecode : Runnable (up.a) (opIs 0x53) (desc ((0, 1, 0x53) :: [(16, 1, 9), (17, 1, 9), (20, 2, 1), (22, 2, 1), (24, 2, 1), (36, 4, 4096), (40, 4, 8192), (44, 4, 12288), (61, 1, 1)])) (fun _ _ R x k => (BoxCmd.ofDesc k.desc).Sound R x k.desc) (fun h H R x k => (H, ((BoxCmd.ofDesc k.desc).build R h.idx x).withWork ((BoxCmd.ofDesc k.desc).work x))) :=
  ⟨by decide +kernel, ⟨by decide +kernel, ⟨by decide +kernel, by decide +kernel, by decide +kernel, by decide +kernel⟩, by decide +kernel, by decide +kernel, by decide +kernel, by decide +kernel, by decide +kernel, by decide +kernel, by decide +kernel⟩, by decide +kernel⟩

theorem witness_runs_nms : Runnable (up.a) (opIs 0x54) (desc ((0, 1, 0x54) :: [(16, 1, 1), (18, 2, 1), (56, 4, 8192), (61, 1, 1), (62, 2, 1)])) (fun h _ R x k => (NmsCmd.ofDesc k.desc).Sound R h.idx x) (fun h H R x k => (H, ((NmsCmd.ofDesc k.desc).build R h.idx x).withWork ((NmsCmd.ofDesc k.desc).work x))) :=
  ⟨by decide +kernel, ⟨⟨by decide +kernel, by decide +kernel, by decide +kernel, by decide +kernel⟩, by decide +kernel, by decide +kernel, by decide +kernel, by decide +kernel, by decide +kernel, by decide +kernel, by decide +kernel⟩, by decide +kernel⟩

theorem witness_runs_haloSend : Runnable (up.a) (opIs 0x51) (desc ((0, 1, 0x51) :: [(16, 1, 2), (20, 2, 64), (22, 2, 1), (36, 4, 4096), (40, 2, 1), (42, 2, 1), (61, 1, 1)])) (fun h _ R x k => (HaloCmd.ofDesc k.desc).Sound R h.idx x k.desc) (fun h H R x k => let a := HaloCmd.ofDesc k.desc; (H, { (a.build R h.idx x).withWork (a.work x) with outs := spans [a.rngOut x] })) :=
  ⟨by decide +kernel, ⟨by decide +kernel, by decide +kernel, by decide +kernel, by decide +kernel, by decide +kernel, by decide +kernel, by decide +kernel, by decide +kernel, by decide +kernel, by decide +kernel, by decide +kernel, fun _ => ⟨1, by decide +kernel, by decide +kernel⟩, by decide +kernel⟩, by decide +kernel⟩

/-! ### Values that the manual or a standard it names gives -/

/-- 04, the worked example of R152: M = 128, K = 1,024 and N = 384 in M8 take 3,367 cycles; with M = 32, 3,271. -/
theorem test_matrix_time :
    ([128, 32].map fun m => (MatrixCmd.ofDesc (desc [(16, 1, 2), (17, 1, 2), (18, 1, 2), (20, 2, m), (22, 2, 384), (24, 4, 1024)])).worst) = [3367, 3271] := by
  decide +kernel

/-- 10, the worked example of R327: address 0x0012_3400 lies in channel 9; with channel 6 mapped out, in channel 29. -/
theorem test_dram_channel :
    ([0xFFFFFFFF, 0xFFFFFFBF].map fun g => ({ up.a.mem with chanGood := g } : Mem).lineChannel (0x123400 / 256)) = [9, 29] := by
  decide +kernel

/-- 07, the worked example of R248: a backward REC of an LSTM of H = 128 and B = 4 over 24 steps in M8 takes 96 + 512 + 24 × 227 cycles. -/
theorem test_rec_time :
    (RecCmd.ofDesc (desc [(16, 1, 0x12), (17, 1, 2), (18, 1, 7), (19, 1, 11), (20, 1, 0), (22, 1, 1), (23, 1, 5), (24, 2, 128), (26, 2, 4), (28, 2, 24),
      (30, 2, 16)])).time 16 4 = 6056 := by
  decide +kernel

/-- SHA-384 of "abc" (FIPS 180-4). -/
theorem test_sha384 :
    be (sha384 [0x61, 0x62, 0x63]) =
      0xcb00753f45a35e8bb5a03d699ac65007272c32ab0eded1631a8b605a43ff5bed8086072ba1e7cc2358baeca134c825a7 := by
  decide +kernel

/-- AES-256 of the example of FIPS 197, appendix C.3. -/
theorem test_aes256 :
    be (aesBlock (aesKey (beBytes 32 0x000102030405060708090a0b0c0d0e0f101112131415161718191a1b1c1d1e1f))
      (beBytes 16 0x00112233445566778899aabbccddeeff)) = 0x8ea2b7ca516745bfeafc49904b496089 := by
  decide +kernel

/-- 05, R161's table: 448 is the greatest E4M3 value; 1,000 saturates to it and a NaN becomes 0x7F. -/
theorem test_convert_e4m3 : (convert 5 (Fp.int 448)).1 = 0x7E ∧ (convert 5 (Fp.int 1000)).1 = 0x7E ∧ (convert 5 .nan).1 = 0x7F := by
  decide +kernel

/-! ### Ill-formed commands, one for each check of WellFormed -/

theorem test_illFormed_0 : ([
    .dramTrainingDone .a ⟨0, 0⟩ 4 0 1, .dramTrainingDone .a ⟨0, 0⟩ 0 5 1, .dramTrainingDone .a ⟨0, 0⟩ 0 0 3, .memoryFillDone .a (.gallery 8),
    .stairSync .a { msg 0 0 0 0 with len := 17 }, .stairMove .a { msg 0 0 0 0 with len := 17 },
    .stairCompare .a { msg 0 0 0 0 with len := 17 }, .stairControl .a { msg 0 0 0 0 with len := 17 } .other,
    .stairBeat .a { msg 0 0 0 0 with len := 17 } 0, .strikeReset .a 8 0, .strikeReset .a 0 12, .fsyncOutPulseEnd 4 0,
    .slotDeferredIssue .a 16 0 0, .slotDeferredIssue .a 0 2048 0, .activate 4, .discard 4, .commandFetch .a 16384 0, .endStream .a 16384 0,
    .sync .a 16384 0, .copy .a 96 0, .placeHold .a 96 0, .placeRelease .a 96 0, .frameMoveCommit .a 262144, .cellOpSet .a 96 0,
    .cellOpAdd .a 96 0, .farSignal .a 96 0, .matrix .a 96 0, .attn .a 96 0, .kvAppend .a 96 0, .kvPageopCreate .a 96 0,
    .kvPageopDestroy .a 96 0, .kvPageopFork .a 96 0, .kvPageopDrop .a 96 0, .kvPageopTruncate .a 96 0, .kvPageopSeal .a 96 0,
    .attnMerge .a 96 0, .attnBwd .a 96 0, .recur .a 96 0, .stateOpInit .a 96 0, .stateOpAnchor .a 96 0, .conv .a 96 0, .haloSend .a 96 0,
    .cropResize .a 96 0, .boxDecode .a 96 0, .nms .a 96 0] : List Instr).all (fun c => !c.wellFormed) = true := by
  decide +kernel

theorem test_illFormed_1 : ([
    .commitPoint .a 16384 0 0, .publicationEnd .a 16384 0 0, .killComplete .a 16384 0 0, .cmdOverrun .a 16384 0 0,
    .weightBankError .a 96 0 false 0, .weightBankError .a 0 16 false 0, .contextAdmit .a 96 0, .swapOutDone .a 16384 0,
    .swapInDone .a 16384 0, .frameAreaRequest 4 0 0, .frameAreaRequest 0 8 0, .mr4Read .a 32 false, .passGo 4 0, .ceLogClear 4,
    .uncorrectableError .a (.operandStore 96 0) 0, .domainResetRelease .a 8 none false, .domainResetRelease .a 0 (some 12) false,
    .hallResetWrite 4 0, .audioFrameBoundary 0 ⟨[], []⟩, .candidateReject 12, .descend 4 0, .modeReq 4 0, .micCalWrite 4 0 0,
    .micCalWrite 0 32 0, .frameStart .a 8 ⟨0, false⟩ 0 0 0 0, .frameStart .a 0 ⟨32, false⟩ 0 0 0 0, .frameStart .a 0 ⟨0, false⟩ 65536 0 0 0,
    .linePacket .a 8 0 0 [] false false, .linePacket .a 0 32 0 [] false false, .linePacket .a 0 0 64 [] false false,
    .embeddedDataPacket .a 8 ⟨0, false⟩ 0 ⟨[], true⟩, .embeddedDataPacket .a 0 ⟨32, false⟩ 0 ⟨[], true⟩,
    .embeddedDataPacket .a 0 ⟨0, false⟩ 64 ⟨[], true⟩, .ignoredShortPacket .a 8 ⟨0, false⟩ 0, .ignoredShortPacket .a 0 ⟨32, false⟩ 0,
    .ignoredShortPacket .a 0 ⟨0, false⟩ 64, .frameEnd .a 8 ⟨0, false⟩ 0, .frameEnd .a 0 ⟨32, false⟩ 0, .frameTimeout .a 8 0 0,
    .frameTimeout .a 0 32 0, .degradeWritesDone .a 8, .sensorWriteDone .a 2 false, .sensorBusTimeout .a 2, .paramCopyDone .a 32,
    .hostFeedRecord .a 8 ⟨0, false⟩ ⟨0, rec0 3 0, true⟩] : List Instr).all (fun c => !c.wellFormed) = true := by
  decide +kernel

theorem test_illFormed_2 : ([
    .hostFeedRecord .a 0 ⟨32, false⟩ ⟨0, rec0 3 0, true⟩, .hostFeedRecord .a 0 ⟨0, false⟩ ⟨64, rec0 3 0, true⟩, .modelPartDone .a 65535 [],
    .bindSession 4, .bindStream 4, .bindFeedRing 4, .unbindSession 4, .unbindStream 4, .unbindFeedRing 4, .submitCreate 4, .submitResume 4,
    .cancel 4, .queryAccount 4, .queryCompletions 4, .queryStream 4, .queryEvents 4, .queryPort 4, .attest 4, .keywrapModelKey 4,
    .keywrapStreamKey 4, .keywrapRotate 4, .keywrapErase 4, .loadmodelLoad 4 flash, .loadmodelUnload 4, .regrd 4, .regwr 4,
    .responseRead 4 0, .capsuleTimeout 4, .capsuleForwardTimeout 4 0, .capsuleForwardTimeout 0 65536, .i3cParityError 4 false, .entdaa 4 0,
    .setdasa 4 0 0, .rstdaa 4, .getpid 4, .getbcr 4, .getdcr 4, .getstatus 4, .enec 4 0, .disec 4 0, .setmwl 4 0, .setmrl 4 0 0, .getmwl 4,
    .getmrl 4, .enthdr0 4] : List Instr).all (fun c => !c.wellFormed) = true := by
  decide +kernel

theorem test_illFormed_3 : ([
    .rstactPortReset 4, .rstactHallReset 4, .rstactRead 4 0, .ibiSlot 4, .txPacketEnd .a 4, .csiTxCfgWrite 4 0 0, .csiTxCfgWrite 0 4 0,
    .sessionScrubDone .a 262144, .domainReleaseDone .a 4096, .secRotate 4 0, .powerRequest 4 0 0, .wakeRelease 4 0, .galleryDrainDone .a 8,
    .wakePinAccept 8 0, .levelWakeRepeat 8 0, .wakeStuckClear 8 0, .snapshot 4, .samplerWrite 4 0 0, .samplerWrite 0 8 0,
    .sampleIdleTimeout .a 8, .sampleHeadRead 4, .counterLoRead 4 0 0, .counterLoRead 0 3 0, .counterLoRead 0 0 2048, .unlock 4 0 0 0,
    .unlock 0 256 0 0, .unlockExpired 4 0, .unlockExpired 0 256, .registerWrite 4 0 0, .registerWrite 0 (2 ^ 32) 0, .privateWrite 4 [] 0,
    .hdrExit 4, .headerUncorrectable .a 8 0, .headerUncorrectable .a 0 32, .undeclaredPacket .a 8 ⟨0, false⟩ 0,
    .undeclaredPacket .a 0 ⟨32, false⟩ 0, .undeclaredPacket .a 0 ⟨0, false⟩ 64, .sotError .a 8 0, .sotError .a 0 4, .wakePinInactive 8 0] : List Instr).all (fun c => !c.wellFormed) = true := by
  decide +kernel

end Sys2Proof.Tests
end

section
/-! Steps as the queue and the commands make them: what step does on each queue, what every command answers and keeps, and the state after reset. -/

namespace Sys2Proof.Machine

/-! ### The queue -/

theorem step_of_pending_nil {s : State} (hs : s.pending = []) : step s = .next s := by
  rw [step, hs]

theorem step_of_pending_cons {s : State} {c : Instr} {q : List Instr} (hs : s.pending = c :: q) :
    step s = exec c { s with pending := q } := by
  rw [step, hs]

/-- Settles O1: the front of the queue is the command that runs. -/
theorem stepRunsFrontCommand : Obligations.StepRunsFrontCommand := by
  intro s c q
  exact step_of_pending_cons (s := { s with pending := c :: q }) rfl

/-- Settles O2: with an empty queue there is no command to run. -/
theorem emptyQueueIdles : Obligations.EmptyQueueIdles := by
  intro s hs
  exact step_of_pending_nil hs

/-! ### Every command -/

/-- Settles O3: the meaning of each constructor is a next state, whatever case it finds inside its effect; that a command which cannot occur
changes nothing, and so answers a next state too, is the model's choice (log entries 1 and 5). -/
theorem everyCommandAnswersNext : Obligations.EveryCommandAnswersNext := by
  intro c s
  cases c <;> exact ⟨_, rfl⟩

/-- Whatever the command, its effect respects the queue, the free values, the TAP's lock and the halls' make-up. -/
theorem exec_keeps {c : Instr} {s t : State} (ht : exec c s = .next t) : s.Keeps t := by
  cases c with
  | porNAssert => exact execPorNAssert_keeps ht
  | porNRelease => exact execPorNRelease_keeps ht
  | pgFall => exact execPgFall_keeps ht
  | firmwareLoad => exact execFirmwareLoad_keeps ht
  | dramTrainingDone => exact execDramTrainingDone_keeps ht
  | memoryFillDone => exact execMemoryFillDone_keeps ht
  | flashImageLoad => exact execFlashImageLoad_keeps ht
  | hallBAcceptTimeout => exact execHallBAcceptTimeout_keeps ht
  | stairTrainingDone => exact execStairTrainingDone_keeps ht
  | stairSync => exact execStairSync_keeps ht
  | stairMove => exact execStairMove_keeps ht
  | stairCompare => exact execStairCompare_keeps ht
  | stairControl => exact execStairControl_keeps ht
  | stairBeat => exact execStairBeat_keeps ht
  | beatSend => exact execBeatSend_keeps ht
  | partnerLost => exact execPartnerLost_keeps ht
  | warmingEnd => exact execWarmingEnd_keeps ht
  | reference => exact execReference_keeps ht
  | referenceLost => exact execReferenceLost_keeps ht
  | holdoverSweep => exact execHoldoverSweep_keeps ht
  | generatorSweep => exact execGeneratorSweep_keeps ht
  | tickBoundary => exact execTickBoundary_keeps ht
  | strikeReset => exact execStrikeReset_keeps ht
  | fsyncOutPulseEnd => exact execFsyncOutPulseEnd_keeps ht
  | slotDeferredIssue _ _ _ tb => exact execSlotDeferredIssue_keeps (_tb := tb) ht
  | activate => exact execActivate_keeps ht
  | discard => exact execDiscard_keeps ht
  | activationAckTimeout => exact execActivationAckTimeout_keeps ht
  | commandFetch => exact execCommandFetch_keeps ht
  | endStream => exact execEndStream_keeps ht
  | sync => exact execSync_keeps ht
  | copy => exact execCopy_keeps ht
  | placeHold => exact execPlaceHold_keeps ht
  | placeRelease => exact execPlaceRelease_keeps ht
  | frameMoveCommit => exact execFrameMoveCommit_keeps ht
  | cellOpSet => exact execCellOpSet_keeps ht
  | cellOpAdd => exact execCellOpAdd_keeps ht
  | farSignal => exact execFarSignal_keeps ht
  | matrix => exact execMatrix_keeps ht
  | attn => exact execAttn_keeps ht
  | kvAppend => exact execKvAppend_keeps ht
  | kvPageopCreate => exact execKvPageopCreate_keeps ht
  | kvPageopDestroy => exact execKvPageopDestroy_keeps ht
  | kvPageopFork => exact execKvPageopFork_keeps ht
  | kvPageopDrop => exact execKvPageopDrop_keeps ht
  | kvPageopTruncate => exact execKvPageopTruncate_keeps ht
  | kvPageopSeal => exact execKvPageopSeal_keeps ht
  | attnMerge => exact execAttnMerge_keeps ht
  | attnBwd => exact execAttnBwd_keeps ht
  | recur => exact execRecur_keeps ht
  | stateOpInit => exact execStateOpInit_keeps ht
  | stateOpAnchor => exact execStateOpAnchor_keeps ht
  | conv => exact execConv_keeps ht
  | haloSend => exact execHaloSend_keeps ht
  | cropResize => exact execCropResize_keeps ht
  | boxDecode => exact execBoxDecode_keeps ht
  | nms => exact execNms_keeps ht
  | commitPoint => exact execCommitPoint_keeps ht
  | publicationEnd => exact execPublicationEnd_keeps ht
  | hallCellSignal => exact execHallCellSignal_keeps ht
  | killComplete => exact execKillComplete_keeps ht
  | cmdOverrun => exact execCmdOverrun_keeps ht
  | weightBankError => exact execWeightBankError_keeps ht
  | contextAdmit => exact execContextAdmit_keeps ht
  | swapOutDone => exact execSwapOutDone_keeps ht
  | swapInDone => exact execSwapInDone_keeps ht
  | frameAreaRequest => exact execFrameAreaRequest_keeps ht
  | mr4Read => exact execMr4Read_keeps ht
  | dqsTracking => exact execDqsTracking_keeps ht
  | reencryptStep => exact execReencryptStep_keeps ht
  | scrubWalkerStep => exact execScrubWalkerStep_keeps ht
  | scrubPassEnd => exact execScrubPassEnd_keeps ht
  | passGo => exact execPassGo_keeps ht
  | ceLogClear => exact execCeLogClear_keeps ht
  | correctableError => exact execCorrectableError_keeps ht
  | uncorrectableError => exact execUncorrectableError_keeps ht
  | domainResetRelease => exact execDomainResetRelease_keeps ht
  | faultPinHoldEnd _ tb => exact execFaultPinHoldEnd_keeps (_tb := tb) ht
  | watchdogExpire => exact execWatchdogExpire_keeps ht
  | hallResetWrite => exact execHallResetWrite_keeps ht
  | audioFrameBoundary => exact execAudioFrameBoundary_keeps ht
  | candidateReject => exact execCandidateReject_keeps ht
  | idleDescent => exact execIdleDescent_keeps ht
  | micDeferTimeout => exact execMicDeferTimeout_keeps ht
  | descend => exact execDescend_keeps ht
  | captureMirrorUpdate => exact execCaptureMirrorUpdate_keeps ht
  | presenceFrame => exact execPresenceFrame_keeps ht
  | modeReq => exact execModeReq_keeps ht
  | micCalWrite => exact execMicCalWrite_keeps ht
  | micBlockWrite => exact execMicBlockWrite_keeps ht
  | frameStart _ _ _ _ _ _ tb => exact execFrameStart_keeps (_tb := tb) ht
  | linePacket => exact execLinePacket_keeps ht
  | embeddedDataPacket => exact execEmbeddedDataPacket_keeps ht
  | ignoredShortPacket => exact execIgnoredShortPacket_keeps ht
  | frameEnd => exact execFrameEnd_keeps ht
  | frameTimeout => exact execFrameTimeout_keeps ht
  | degradeWritesDone => exact execDegradeWritesDone_keeps ht
  | ispPieceStart => exact execIspPieceStart_keeps ht
  | ispPieceDone _ tb => exact execIspPieceDone_keeps (_tb := tb) ht
  | sensorWriteDone => exact execSensorWriteDone_keeps ht
  | sensorBusTimeout => exact execSensorBusTimeout_keeps ht
  | paramCopyDone => exact execParamCopyDone_keeps ht
  | hostFeedRecord => exact execHostFeedRecord_keeps ht
  | modelPartDone => exact execModelPartDone_keeps ht
  | bindSession => exact execBindSession_keeps ht
  | bindStream => exact execBindStream_keeps ht
  | bindFeedRing => exact execBindFeedRing_keeps ht
  | unbindSession => exact execUnbindSession_keeps ht
  | unbindStream => exact execUnbindStream_keeps ht
  | unbindFeedRing => exact execUnbindFeedRing_keeps ht
  | submitCreate => exact execSubmitCreate_keeps ht
  | submitResume => exact execSubmitResume_keeps ht
  | cancel => exact execCancel_keeps ht
  | queryAccount => exact execQueryAccount_keeps ht
  | queryCompletions => exact execQueryCompletions_keeps ht
  | queryStream => exact execQueryStream_keeps ht
  | queryEvents => exact execQueryEvents_keeps ht
  | queryPort => exact execQueryPort_keeps ht
  | attest => exact execAttest_keeps ht
  | keywrapModelKey => exact execKeywrapModelKey_keeps ht
  | keywrapStreamKey => exact execKeywrapStreamKey_keeps ht
  | keywrapRotate => exact execKeywrapRotate_keeps ht
  | keywrapErase => exact execKeywrapErase_keeps ht
  | loadmodelLoad => exact execLoadmodelLoad_keeps ht
  | loadmodelUnload => exact execLoadmodelUnload_keeps ht
  | regrd => exact execRegrd_keeps ht
  | regwr => exact execRegwr_keeps ht
  | responseRead => exact execResponseRead_keeps ht
  | capsuleTimeout => exact execCapsuleTimeout_keeps ht
  | capsuleForwardTimeout => exact execCapsuleForwardTimeout_keeps ht
  | i3cParityError => exact execI3cParityError_keeps ht
  | entdaa => exact execEntdaa_keeps ht
  | setdasa => exact execSetdasa_keeps ht
  | rstdaa => exact execRstdaa_keeps ht
  | getpid => exact execGetpid_keeps ht
  | getbcr => exact execGetbcr_keeps ht
  | getdcr => exact execGetdcr_keeps ht
  | getstatus => exact execGetstatus_keeps ht
  | enec => exact execEnec_keeps ht
  | disec => exact execDisec_keeps ht
  | setmwl => exact execSetmwl_keeps ht
  | setmrl => exact execSetmrl_keeps ht
  | getmwl => exact execGetmwl_keeps ht
  | getmrl => exact execGetmrl_keeps ht
  | enthdr0 => exact execEnthdr0_keeps ht
  | rstactPortReset => exact execRstactPortReset_keeps ht
  | rstactHallReset => exact execRstactHallReset_keeps ht
  | rstactRead => exact execRstactRead_keeps ht
  | ibiSlot => exact execIbiSlot_keeps ht
  | txPacketEnd => exact execTxPacketEnd_keeps ht
  | csiTxCfgWrite => exact execCsiTxCfgWrite_keeps ht
  | ephemeralKeyExpire => exact execEphemeralKeyExpire_keeps ht
  | sessionScrubDone => exact execSessionScrubDone_keeps ht
  | domainReleaseDone => exact execDomainReleaseDone_keeps ht
  | secRotate => exact execSecRotate_keeps ht
  | trngHealthFail => exact execTrngHealthFail_keeps ht
  | powerRequest => exact execPowerRequest_keeps ht
  | wakeRelease => exact execWakeRelease_keeps ht
  | galleryDrainDone => exact execGalleryDrainDone_keeps ht
  | entryWindowEnd => exact execEntryWindowEnd_keeps ht
  | powerRiseDone => exact execPowerRiseDone_keeps ht
  | powerGoodTimeout => exact execPowerGoodTimeout_keeps ht
  | voltageRampDone => exact execVoltageRampDone_keeps ht
  | thermalStepDown => exact execThermalStepDown_keeps ht
  | thermalStepUp => exact execThermalStepUp_keeps ht
  | thermalTrip => exact execThermalTrip_keeps ht
  | wakePinAccept => exact execWakePinAccept_keeps ht
  | levelWakeRepeat => exact execLevelWakeRepeat_keeps ht
  | wakeStuckClear => exact execWakeStuckClear_keeps ht
  | snapshot => exact execSnapshot_keeps ht
  | samplerWrite => exact execSamplerWrite_keeps ht
  | sampleIdleTimeout => exact execSampleIdleTimeout_keeps ht
  | sampleHeadRead => exact execSampleHeadRead_keeps ht
  | counterLoRead => exact execCounterLoRead_keeps ht
  | unlock _ _ _ tb => exact execUnlock_keeps (_tb := tb) ht
  | unlockExpired => exact execUnlockExpired_keeps ht
  | registerWrite => exact execRegisterWrite_keeps ht
  | jtagBypass => exact execJtagBypass_keeps ht
  | jtagIdcode => exact execJtagIdcode_keeps ht
  | jtagSamplePreload => exact execJtagSamplePreload_keeps ht
  | jtagExtest => exact execJtagExtest_keeps ht
  | jtagTrst => exact execJtagTrst_keeps ht
  | privateWrite => exact execPrivateWrite_keeps ht
  | hdrExit => exact execHdrExit_keeps ht
  | headerUncorrectable => exact execHeaderUncorrectable_keeps ht
  | undeclaredPacket => exact execUndeclaredPacket_keeps ht
  | sotError => exact execSotError_keeps ht
  | trngHealthPass => exact execTrngHealthPass_keeps ht
  | wakePinInactive => exact execWakePinInactive_keeps ht
  | packagePowerWindow => exact execPackagePowerWindow_keeps ht
  | pgRise => exact execPgRise_keeps ht
  | supplyOutOfRange => exact execSupplyOutOfRange_keeps ht
  | flightEntryCopyDone => exact execFlightEntryCopyDone_keeps ht

/-- A step keeps what a command keeps, of the state whose queue has lost its front. -/
theorem step_keeps_tail {s t : State} (ht : step s = .next t) : State.Keeps { s with pending := s.pending.tail } t := by
  cases hq : s.pending with
  | nil =>
    rw [step_of_pending_nil hq] at ht
    cases ht
    exact ⟨hq, Nat.le_refl _, id, id⟩
  | cons c q =>
    rw [step_of_pending_cons hq] at ht
    exact exec_keeps ht

/-- Settles O5: the halls' invariant does not read the queue, and every command keeps it. -/
theorem stepKeepsTheHalls : Obligations.StepKeepsTheHalls := by
  intro s t hs ht
  exact (step_keeps_tail ht).wf hs

/-! ### The state after reset -/

theorem State.wf_reset : State.reset.Wf := ⟨Hall.wf_reset 0 0, Hall.wf_reset 1 0⟩

/-- At reset no image has been active and IDCODE is selected. -/
theorem State.tapClosed_reset : State.reset.TapClosed := by
  refine ⟨fun hseen => ?_, fun hdriving => ?_⟩
  · exact absurd hseen Bool.false_ne_true
  · exact absurd hdriving Bool.false_ne_true

/-- A steward that does not run judges no cause. -/
theorem Hall.pinFollows_of_down {H : Hall} {h : Nat} (hd : H.dev.up = false) : H.PinFollows h := by
  intro hu
  rw [hd] at hu
  exact absurd hu Bool.false_ne_true

theorem State.pinsFollow_reset : State.reset.PinsFollow := ⟨Hall.pinFollows_of_down rfl, Hall.pinFollows_of_down rfl⟩

/-- Settles O8: neither steward runs at reset, and the TAP shows IDCODE. -/
theorem resetMeetsTheInvariants : Obligations.ResetMeetsTheInvariants :=
  ⟨State.wf_reset, State.tapClosed_reset, State.pinsFollow_reset⟩

/-- Both halls are at their own reset values, of the same cause. -/
theorem State.hall_of_reset {H : Hall} (hH : H = State.reset.a ∨ H = State.reset.b) : ∃ h, H = Hall.reset h 0 := by
  rcases hH with rfl | rfl
  · exact ⟨0, rfl⟩
  · exact ⟨1, rfl⟩

/-- Settles O11: no value of the tables depends on which hall it is, so each is read off the reset of a hall. -/
theorem resetLeavesStatedValues : Obligations.ResetLeavesStatedValues := by
  intro H hH
  obtain ⟨h, rfl⟩ := State.hall_of_reset hH
  and_intros <;> rfl

end Sys2Proof.Machine
end

section
/-! Steps that settle as a command's own effect: what `live`, `ifUp` and `whole` leave of the guards once the package is out of reset and the
steward runs, and a hall read through `State.bare`. -/

namespace Sys2Proof.Machine

/-! ### A command's guards -/

/-- Out of reset a command's effect is all that its outcome needs. -/
theorem State.live_of_released {s : State} (hp : s.por = false) (f : State → State) : s.live f = s.whole f := by
  unfold State.live
  rw [hp]
  rfl

/-- Settling reads the effect at this state alone. -/
theorem State.whole_congr {s : State} {f g : State → State} (e : f s = g s) : s.whole f = s.whole g := by
  unfold State.whole State.inCycle
  simp only [e]

/-- The outcome of a live command, by the effect that its guards leave. -/
theorem State.next_live {s : State} (hp : s.por = false) {f g : State → State} (e : f s = g s) :
    (.next (s.live f) : Host.Outcome State Fault Refusal) = .next (s.whole g) := by
  rw [State.live_of_released hp, State.whole_congr e]

theorem State.ifUp_of_up {s : State} {h : HallId} (hu : (s.hall h).dev.up = true) (f : State → State) : s.ifUp h f = f s :=
  if_pos hu

/-- Changes of a hall that agree on the hall as it is. -/
theorem State.onHall_congr {s : State} {h : HallId} {f g : Hall → Hall} (e : f (s.hall h) = g (s.hall h)) : s.onHall h f = s.onHall h g := by
  cases h <;> simpa [State.onHall, State.hall] using e

theorem State.onHall_of_fixed {s : State} {h : HallId} {f : Hall → Hall} (e : f (s.hall h) = s.hall h) : s.onHall h f = s :=
  (State.onHall_congr e).trans (s.onHall_id h)

theorem State.inHall_of_up {s : State} {h : HallId} (hu : (s.hall h).dev.up = true) {f g : Hall → Hall} (e : f (s.hall h) = g (s.hall h)) :
    s.inHall h f = s.onHall h g :=
  (State.ifUp_of_up hu _).trans (State.onHall_congr e)

theorem hallId_other_ne (h : HallId) : h.other ≠ h := by cases h <;> exact HallId.noConfusion

@[simp] theorem State.hall_other_onHall (s : State) (h : HallId) (f : Hall → Hall) : (s.onHall h f).hall h.other = s.hall h.other :=
  State.hall_onHall_ne s f (hallId_other_ne h)

/-! ### A hall after settling -/

/-- What `bare` leaves of the array cycle, the staged image's state and the Stair. -/
theorem Hall.now_of_bare {H K : Hall} (e : H.bare = K.bare) : H.now = K.now := (congrArg Hall.now e :)
theorem Hall.stair_of_bare {H K : Hall} (e : H.bare = K.bare) : H.stair = K.stair := (congrArg Hall.stair e :)
theorem Hall.staged_of_bare {H K : Hall} (e : H.bare = K.bare) : H.dev.staged = K.dev.staged :=
  (congrArg (fun H : Hall => H.dev.staged) e :)

/-- A hall to which the command brings no array cycle stays as the effect leaves it, but for what settling changes. -/
theorem State.whole_hall_bare_still {s : State} {f : State → State} {h : HallId} (e : ((f s).hall h).now ≤ (s.hall h).now) :
    ((s.whole f).hall h).bare = ((f s).hall h).bare := by
  have ht : ((f s).tallied s).hall h = (f s).hall h := by
    cases h
    · exact Hall.tally_still _ _ _ _ e
    · exact Hall.tally_still _ _ _ _ e
  rw [State.bare_hall (s.bare_whole f) h, ht]

/-- A hall that the effect leaves alone stays as it was. -/
theorem State.whole_hall_bare_of_bare {s : State} {f : State → State} {h : HallId} (e : ((f s).hall h).bare = (s.hall h).bare) :
    ((s.whole f).hall h).bare = (s.hall h).bare :=
  (State.whole_hall_bare_still (Nat.le_of_eq (Hall.now_of_bare e))).trans e

/-! ### Lists -/

/-- Changes of an element that agree on the element as it is. -/
theorem modAt_congr {α : Type} {l : List α} {i : Nat} {f g : α → α} (e : ∀ a, l[i]? = some a → f a = g a) : modAt l i f = modAt l i g := by
  unfold modAt
  refine List.ext_getElem? fun j => ?_
  rw [List.getElem?_modify, List.getElem?_modify]
  split
  · next hij =>
    subst hij
    cases hl : l[i]? with
    | none => rfl
    | some a => exact congrArg some (e a hl)
  · rfl

end Sys2Proof.Machine
end

section
/-! Strikes, warming, FSYNC_OUT pulses and deferred slots (R60, R101, R113, R546). -/

namespace Sys2Proof.Machine

/-- R60: the reset reads the clean sweeps of the core alone. -/
theorem Gallery.strikeReset_of_clean {G : Gallery} {c : Nat} (hc : 1024 ≤ G.clean.getD c 0) :
    G.strikeReset c = { G with strikes := modAt G.strikes c fun _ => 0, clean := modAt G.clean c fun _ => 0 } :=
  if_pos hc

/-- A change of gallery g may use what holds of the gallery as it is. -/
theorem Hall.onGal_congr {H : Hall} {g : Nat} {f k : Gallery → Gallery} (e : f (H.gal g) = k (H.gal g)) : H.onGal g f = H.onGal g k := by
  have hm : modAt H.gals g f = modAt H.gals g k := modAt_congr fun G hG => by
    have hg : H.gal g = G := by rw [Hall.gal, hG, Option.getD_some]
    rw [← hg]
    exact e
  unfold Hall.onGal
  rw [hm]

theorem Hall.endWarming_of_last {H : Hall} (hw : H.swp.warming = 1) (hd : H.swp.boundaryDue = true) :
    H.endWarming = { H with swp := { H.swp with warming := 0, readmitted := false } } := by
  simp [Hall.endWarming, hw, hd]

theorem Hall.endPulse_of_run {H : Hall} {n tb : Nat} (hp : H.swp.pulse.getLsbD n = true) (ht : H.swp.pulseEnd.getD n 0 ≤ tb) :
    H.endPulse n tb = { H with swp := { H.swp with pulse := H.swp.pulse &&& ~~~(BitVec.ofNat 4 (2 ^ n)) } } :=
  if_pos (Bool.and_eq_true_iff.mpr ⟨hp, decide_eq_true ht⟩)

theorem Hall.endPulse_of_early {H : Hall} {n tb : Nat} (ht : tb < H.swp.pulseEnd.getD n 0) : H.endPulse n tb = H :=
  if_neg fun e => Nat.not_le_of_lt ht (of_decide_eq_true (Bool.and_eq_true_iff.mp e).2)

/-- R113, R558: a waiting slot whose contexts are idle, of a gallery that does not drain, issues in the tick in force. -/
theorem Hall.deferredIssue_of_idle {H : Hall} {p n : Nat} {im : Image} {t : SweepTable} {sl : Slot} {r : SlotRun} (hi : H.image = some im)
    (ht : H.tableOf p = some t) (hs : t.slot n = some sl) (hr : H.run p t.table n H.swp.sweep = some r) (hw : r.waiting = true)
    (hc : r.cancelled = false) (hu : r.issued = false) (hidle : H.slotIdle p t.table n = true)
    (hdr : ((H.mapLog p sl.lgallery).any fun g => H.pwr.drains.getLsbD g) = false) :
    H.deferredIssue p n = H.issueSlot im p t sl H.swp.tick r.late r.dataTick r.dataSweep := by
  unfold Hall.deferredIssue
  simp only [hi, ht, hs, hr, hw, hc, hu, hidle, hdr]
  rfl

/-- Settles O25: each of the four commands acts within one hall, and what its clause asks is what its guard reads. -/
theorem sweepCountsAndPulsesEnd : Obligations.SweepCountsAndPulsesEnd := by
  refine ⟨fun s h g c hp hu hc => ?_, fun s h hp hu hw hd => ?_, fun s n tb hp hu hb => ⟨fun ht => ?_, fun ht => ?_⟩,
    fun s h p n tb im t sl r hp hu hi ht hs hr hw hc hn hidle hdr => ?_⟩
  · exact State.next_live hp (State.inHall_of_up hu (Hall.onGal_congr (Gallery.strikeReset_of_clean hc)))
  · exact State.next_live hp (State.inHall_of_up hu (Hall.endWarming_of_last hw hd))
  · refine State.next_live hp ((State.ifUp_of_up (h := .a) hu _).trans ?_)
    exact congrArg (fun A => { s with a := A }) (Hall.endPulse_of_run hb ht)
  · exact State.next_live hp ((State.ifUp_of_up (h := .a) hu _).trans (State.onHall_of_fixed (Hall.endPulse_of_early ht)))
  · refine State.next_live hp (State.inHall_of_up hu ?_)
    rw [Hall.deferredIssue_of_idle hi ht hs hr hw hc hn hidle hdr]

end Sys2Proof.Machine
end

section
/-! The Stair's width (R50) and what sending leaves of a hall (R46, R47). -/

namespace Sys2Proof.Machine

/-! ### The width of a direction (R50) -/

/-- R50: the lanes of group i of width w are all good. -/
def groupGood (good : BitVec 32) (w i : Nat) : Bool := (List.range w).all fun k => good.getLsbD (w * i + k)

theorem groupGood_iff {good : BitVec 32} {w i : Nat} : groupGood good w i = true ↔ ∀ k < w, good.getLsbD (w * i + k) = true := by
  simp only [groupGood, List.all_eq_true, List.mem_range]

theorem groupGood_false_iff {good : BitVec 32} {w i : Nat} : groupGood good w i = false ↔ ∃ k < w, good.getLsbD (w * i + k) = false := by
  simp only [groupGood, List.all_eq_false, List.mem_range, Bool.not_eq_true]

theorem laneWidth_eq (good : BitVec 32) :
    laneWidth good = if groupGood good 32 0 then 32 else if (List.range 2).any (groupGood good 16) then 16
      else if (List.range 4).any (groupGood good 8) then 8 else 0 := rfl

theorem laneWidth_mem (good : BitVec 32) : laneWidth good ∈ [0, 8, 16, 32] := by
  rw [laneWidth_eq]
  split
  · decide
  split
  · decide
  split <;> decide

/-- A group chosen out of the first n lies in the lanes. -/
theorem exists_group_of_any {good : BitVec 32} {w n : Nat} (hn : w * n ≤ 32) (h : (List.range n).any (groupGood good w) = true) :
    ∃ i, w * i + w ≤ 32 ∧ groupGood good w i = true := by
  obtain ⟨i, hi, hg⟩ := List.any_eq_true.mp h
  exact ⟨i, Nat.le_trans (Nat.mul_le_mul_left w (List.mem_range.mp hi)) hn, hg⟩

theorem laneWidth_group (good : BitVec 32) (h0 : laneWidth good ≠ 0) :
    ∃ i, laneWidth good * i + laneWidth good ≤ 32 ∧ groupGood good (laneWidth good) i = true := by
  rw [laneWidth_eq] at h0 ⊢
  split
  · next h32 => exact ⟨0, Nat.le_refl _, h32⟩
  split
  · next h16 => exact exists_group_of_any (Nat.le_refl _) h16
  split
  · next h8 => exact exists_group_of_any (Nat.le_refl _) h8
  · next h32 h16 h8 => simp only [h32, h16, h8, if_false, ne_eq, not_true_eq_false, Bool.false_eq_true] at h0

/-- A good group among the first n makes the search over them succeed. -/
theorem any_of_group {good : BitVec 32} {w n i : Nat} (hi : i < n) (hg : groupGood good w i = true) :
    (List.range n).any (groupGood good w) = true :=
  List.any_eq_true.mpr ⟨i, List.mem_range.mpr hi, hg⟩

/-- R50: a good group of width v makes the direction at least as wide. -/
theorem le_laneWidth {good : BitVec 32} {v i : Nat} (hv : v ∈ [8, 16, 32]) (hi : v * i + v ≤ 32) (hg : groupGood good v i = true) :
    v ≤ laneWidth good := by
  rw [laneWidth_eq]
  simp only [List.mem_cons, List.not_mem_nil, or_false] at hv
  obtain rfl | rfl | rfl := hv
  · rw [any_of_group (n := 4) (by omega) hg, if_pos rfl]
    split
    · decide
    split <;> decide
  · rw [any_of_group (n := 2) (by omega) hg, if_pos rfl]
    split <;> decide
  · obtain rfl : i = 0 := by omega
    exact Nat.le_of_eq (if_pos hg).symm

/-! ### What sending leaves (R46, R47) -/

/-- A hall but for what the sending of messages changes: the counters, and of its Stair end the messages that wait, are begun or on their way
and the next numbers. -/
def Hall.unpumped (H : Hall) : Hall :=
  { H with cnt := Cnt.reset, stair := { H.stair with seq := [], outbox := [], waits := [], begun := [] } }

/-- A hall but for what the sending of CONTROL messages changes: the counters, and of its Stair end the CONTROL messages that wait or are on
their way, their budget and the next numbers. -/
def Hall.untold (H : Hall) : Hall :=
  { H with cnt := Cnt.reset, stair := { H.stair with seq := [], ctlWaits := [], ctlSent := [], ctlBudget := 0 } }

@[simp] theorem Hall.count_stair (H : Hall) (n k : Nat) : (H.count n k).stair = H.stair := by unfold Hall.count; split <;> rfl
@[simp] theorem Hall.unpumped_count (H : Hall) (n k : Nat) : (H.count n k).unpumped = H.unpumped := by unfold Hall.count; split <;> rfl
@[simp] theorem Hall.untold_count (H : Hall) (n k : Nat) : (H.count n k).untold = H.untold := by unfold Hall.count; split <;> rfl

theorem Hall.unpumped_sendFlits (H : Hall) (m : StairMsg) (n : Nat) : ({ H with stair := H.stair.sendFlits m n } : Hall).unpumped = H.unpumped := by
  unfold Stair.sendFlits
  simp only []
  split <;> split <;> rfl

theorem Hall.unpumped_pump : ∀ (fuel : Nat) (H : Hall), (Hall.pump fuel H).unpumped = H.unpumped
  | 0, _ => rfl
  | fuel + 1, H => by
    unfold Hall.pump
    split
    · rfl
    split
    · rfl
    · simp only []
      split
      · rw [Hall.unpumped_pump fuel, Hall.unpumped_count, Hall.unpumped_count, Hall.unpumped_sendFlits]
      · rw [Hall.unpumped_pump fuel, Hall.unpumped_sendFlits]

/-- R46: the flits that go change only what sending changes. -/
theorem Hall.unpumped_flush (H : Hall) : H.flush.unpumped = H.unpumped := Hall.unpumped_pump _ H

theorem Hall.untold_sendControl (H : Hall) (limited : Bool) : ∀ (ms : List StairMsg) (t : Stair),
    ({ H with stair := Stair.sendControl limited ms t } : Hall).untold = ({ H with stair := t } : Hall).untold
  | [], _ => rfl
  | m :: r, t => by
    unfold Stair.sendControl
    split
    · rfl
    · rw [Hall.untold_sendControl H limited r]
      rfl

/-- R46: the CONTROL messages that go change only what sending them changes. -/
theorem Hall.untold_flushControl (H : Hall) : H.flushControl.untold = H.untold := by
  unfold Hall.flushControl
  split
  · rfl
  · simp only [Hall.untold_count, Hall.untold_sendControl]

/-- With nothing waiting and nothing begun no kind has a message to send. -/
theorem Stair.choose_of_idle {t : Stair} (hw : t.waits = []) (hb : t.begun = []) : t.choose = none := by
  have hf : ∀ k, t.front k = none := fun k => by simp [Stair.front, hw, hb]
  simp [Stair.choose, hf]

theorem Hall.pump_of_idle {H : Hall} (hw : H.stair.waits = []) (hb : H.stair.begun = []) (fuel : Nat) : Hall.pump fuel H = H := by
  cases fuel with
  | zero => rfl
  | succ fuel =>
    unfold Hall.pump
    rw [Stair.choose_of_idle hw hb]
    exact ite_self H

theorem Hall.flush_of_idle {H : Hall} (hw : H.stair.waits = []) (hb : H.stair.begun = []) : H.flush = H := Hall.pump_of_idle hw hb _

theorem Hall.flushControl_stair_of_idle {H : Hall} (hw : H.stair.ctlWaits = []) : H.flushControl.stair = H.stair := by
  unfold Hall.flushControl
  split
  · rfl
  · rw [hw]
    simp only [Stair.sendControl, Hall.count_stair]

/-! Each field that sending leaves -/

@[simp] theorem Hall.flush_dev (H : Hall) : H.flush.dev = H.dev := (congrArg Hall.dev H.unpumped_flush :)
@[simp] theorem Hall.flush_swp (H : Hall) : H.flush.swp = H.swp := (congrArg Hall.swp H.unpumped_flush :)
@[simp] theorem Hall.flush_gals (H : Hall) : H.flush.gals = H.gals := (congrArg Hall.gals H.unpumped_flush :)
@[simp] theorem Hall.flush_enable (H : Hall) : H.flush.stair.enable = H.stair.enable :=
  (congrArg (fun H : Hall => H.stair.enable) H.unpumped_flush :)
@[simp] theorem Hall.flush_trained (H : Hall) : H.flush.stair.trained = H.stair.trained :=
  (congrArg (fun H : Hall => H.stair.trained) H.unpumped_flush :)
@[simp] theorem Hall.flush_laneGood (H : Hall) : H.flush.stair.laneGood = H.stair.laneGood :=
  (congrArg (fun H : Hall => H.stair.laneGood) H.unpumped_flush :)
@[simp] theorem Hall.flush_lanesRx (H : Hall) : H.flush.stair.lanesRx = H.stair.lanesRx :=
  (congrArg (fun H : Hall => H.stair.lanesRx) H.unpumped_flush :)
@[simp] theorem Hall.flush_lanesTx (H : Hall) : H.flush.stair.lanesTx = H.stair.lanesTx :=
  (congrArg (fun H : Hall => H.stair.lanesTx) H.unpumped_flush :)
@[simp] theorem Hall.flush_ctlOut (H : Hall) : H.flush.stair.ctlOut = H.stair.ctlOut :=
  (congrArg (fun H : Hall => H.stair.ctlOut) H.unpumped_flush :)
@[simp] theorem Hall.flush_ctlWaits (H : Hall) : H.flush.stair.ctlWaits = H.stair.ctlWaits :=
  (congrArg (fun H : Hall => H.stair.ctlWaits) H.unpumped_flush :)
@[simp] theorem Hall.flush_ctlSent (H : Hall) : H.flush.stair.ctlSent = H.stair.ctlSent :=
  (congrArg (fun H : Hall => H.stair.ctlSent) H.unpumped_flush :)

@[simp] theorem Hall.flushControl_dev (H : Hall) : H.flushControl.dev = H.dev := (congrArg Hall.dev H.untold_flushControl :)
@[simp] theorem Hall.flushControl_swp (H : Hall) : H.flushControl.swp = H.swp := (congrArg Hall.swp H.untold_flushControl :)
@[simp] theorem Hall.flushControl_gals (H : Hall) : H.flushControl.gals = H.gals := (congrArg Hall.gals H.untold_flushControl :)
@[simp] theorem Hall.flushControl_enable (H : Hall) : H.flushControl.stair.enable = H.stair.enable :=
  (congrArg (fun H : Hall => H.stair.enable) H.untold_flushControl :)
@[simp] theorem Hall.flushControl_trained (H : Hall) : H.flushControl.stair.trained = H.stair.trained :=
  (congrArg (fun H : Hall => H.stair.trained) H.untold_flushControl :)
@[simp] theorem Hall.flushControl_laneGood (H : Hall) : H.flushControl.stair.laneGood = H.stair.laneGood :=
  (congrArg (fun H : Hall => H.stair.laneGood) H.untold_flushControl :)
@[simp] theorem Hall.flushControl_lanesRx (H : Hall) : H.flushControl.stair.lanesRx = H.stair.lanesRx :=
  (congrArg (fun H : Hall => H.stair.lanesRx) H.untold_flushControl :)
@[simp] theorem Hall.flushControl_lanesTx (H : Hall) : H.flushControl.stair.lanesTx = H.stair.lanesTx :=
  (congrArg (fun H : Hall => H.stair.lanesTx) H.untold_flushControl :)
@[simp] theorem Hall.flushControl_ctlOut (H : Hall) : H.flushControl.stair.ctlOut = H.stair.ctlOut :=
  (congrArg (fun H : Hall => H.stair.ctlOut) H.untold_flushControl :)
@[simp] theorem Hall.flushControl_outbox (H : Hall) : H.flushControl.stair.outbox = H.stair.outbox :=
  (congrArg (fun H : Hall => H.stair.outbox) H.untold_flushControl :)

end Sys2Proof.Machine
end

section
/-! The arrival of Stair messages (R43 to R45, R49, R121). -/

namespace Sys2Proof.Machine

/-! ### What each kind does in a hall that hears it -/

/-- R45: the last earlier MOVE of m's PART that is not yet shown: on its way before m, or held back in the hall. -/
def State.lastMove (s : State) (h : HallId) (m : StairMsg) : Option StairMsg :=
  let before := ((s.hall h.other).stair.outbox.takeWhile fun x => x != m).filter fun (x : StairMsg) => x.kind == 1 && x.part == m.part
  let mine := (s.hall h).stair.moves.filter fun (x : StairMsg) => x.part == m.part
  if (s.hall h.other).stair.outbox.contains m then before.getLast?.orElse fun _ => mine.getLast? else mine.getLast?

theorem State.lastMove_of_empty {s : State} {h : HallId} (ho : (s.hall h.other).stair.outbox = []) (m : StairMsg) :
    s.lastMove h m = ((s.hall h).stair.moves.filter fun y => y.part == m.part).getLast? := by
  unfold State.lastMove
  simp only [ho]
  rfl

theorem State.por_of_hears {s : State} {h : HallId} {m : StairMsg} (hh : s.hears h m = true) : s.por = false := by
  simp only [State.hears, Bool.and_eq_true, Bool.not_eq_true'] at hh
  obtain ⟨⟨⟨⟨⟨hp, -⟩, -⟩, -⟩, -⟩, -⟩ := hh
  exact hp

section
variable {s : State} {h : HallId} {m : StairMsg} (hh : s.hears h m = true) (hl : ((s.pop h m).hall h).stair.lost = false)
include hh hl

theorem State.stairSync_discarded (hc : ((s.pop h m).hall h).rxCell h.idx (m.arg0 % 65536) m.part = false) :
    s.stairSync h m = (s.pop h m).onHall h fun H => H.discardMsg m := by
  simp [State.stairSync, hh, hl, hc]

/-- R352: a SYNC without AFTER_MOVE, or with no MOVE to follow, takes effect as it comes. -/
theorem State.stairSync_applied (hk : m.kind = 0) (hc : ((s.pop h m).hall h).rxCell h.idx (m.arg0 % 65536) m.part = true)
    (hn : bit m.arg2 0 = false ∨ s.lastMove h m = none) : s.stairSync h m = (s.pop h m).onHall h fun H => H.applySync h.idx m := by
  unfold State.lastMove at hn
  simp only [State.stairSync, hh, hl, hk, hc, Bool.not_true, Bool.false_eq_true, if_false, ne_eq, not_true_eq_false, decide_false, Bool.or_false]
  split
  · next x hx =>
    obtain hb | hnone := hn
    · rw [hb]
      rfl
    · exact absurd (hnone.symm.trans hx) (Option.some_ne_none x).symm
  · rfl

/-- R45: a SYNC with AFTER_MOVE waits for the SEQ of the MOVE that it follows. -/
theorem State.stairSync_held {x : StairMsg} (hk : m.kind = 0) (hc : ((s.pop h m).hall h).rxCell h.idx (m.arg0 % 65536) m.part = true)
    (hb : bit m.arg2 0 = true) (hx : s.lastMove h m = some x) :
    s.stairSync h m = (s.pop h m).onHall h fun H => { H with stair := { H.stair with syncs := H.stair.syncs ++ [(m, x.seq)] } } := by
  unfold State.lastMove at hx
  simp only [State.stairSync, hh, hl, hk, hc, hb, Bool.not_true, Bool.false_eq_true, if_false, ne_eq, not_true_eq_false, decide_false, Bool.or_false, hx,
    if_true]

theorem State.stairMove_discarded (hw : ∀ w, m.kind = 1 → ((s.pop h m).hall h).rxWindow h.idx (m.arg0 % 65536) m.part = some w →
      w.size < m.arg1 + m.data.length) :
    s.stairMove h m = (s.pop h m).onHall h fun H => H.discardMsg m := by
  simp only [State.stairMove, hh, hl, Bool.not_true, Bool.false_eq_true, if_false]
  split
  · rfl
  · next w hsome =>
    split at hsome
    · next hk => exact if_pos (hw w hk hsome)
    · exact absurd hsome.symm (Option.some_ne_none w)

theorem State.stairMove_kept {w : WindowEntry} (hk : m.kind = 1)
    (hw : ((s.pop h m).hall h).rxWindow h.idx (m.arg0 % 65536) m.part = some w) (hz : m.arg1 + m.data.length ≤ w.size)
    (hb : bit m.arg2 0 = false) :
    s.stairMove h m = (s.pop h m).onHall h fun H => { H with stair := { H.stair with moves := H.stair.moves ++ [m] } } := by
  simp only [State.stairMove, hh, hl, hk, hw, hb, Nat.not_lt.mpr hz, Bool.not_true, Bool.not_false, Bool.false_eq_true, if_false, if_true]

/-- R44: a lone MOVE with LAST is shown as it comes. -/
theorem State.stairMove_shown {w : WindowEntry} (hk : m.kind = 1)
    (hw : ((s.pop h m).hall h).rxWindow h.idx (m.arg0 % 65536) m.part = some w) (hz : m.arg1 + m.data.length ≤ w.size)
    (hb : bit m.arg2 0 = true) (hm : ((s.pop h m).hall h).stair.moves = []) :
    s.stairMove h m =
      ((s.pop h m).onHall h fun H => ({ H with stair := { H.stair with moves := [] } } : Hall).applyMove h.idx m).freeSyncs h := by
  simp only [State.stairMove, hh, hl, hk, hw, hb, Nat.not_lt.mpr hz, Bool.not_true, Bool.false_eq_true, if_false, if_true]
  refine congrArg (fun t : State => t.freeSyncs h) (State.onHall_congr ?_)
  simp only [hm, List.filter_nil, List.foldl_nil]

theorem State.stairCompare_joined {im : Image} {t : SweepTable} (hk : m.kind = 2) (hi : ((s.pop h m).hall h).imageIn m.arg1 = some im)
    (ht : ((s.pop h m).hall h).tableIn m.part m.arg1 = some t)
    (hd : (im.marks.any fun e => e.table == t.table && e.mark == m.arg0 % 65536) = true) :
    s.stairCompare h m = (s.pop h m).onHall h fun H =>
      ((H.onMark m.part (m.arg0 % 65536) m.arg1 fun x =>
        { x with far := x.far ++ [(m.arg2 % 65536, m.data)], farDone := x.farDone || bit m.arg2 16 }).tryJudge h.idx m.part (m.arg0 % 65536)
          m.arg1).after h.idx := by
  simp [State.stairCompare, hh, hl, hk, hi, ht, hd]

theorem State.stairCompare_discarded {im : Image} {t : SweepTable} (hi : ((s.pop h m).hall h).imageIn m.arg1 = some im)
    (ht : ((s.pop h m).hall h).tableIn m.part m.arg1 = some t)
    (hd : (im.marks.any fun e => e.table == t.table && e.mark == m.arg0 % 65536) = false) :
    s.stairCompare h m = (s.pop h m).onHall h fun H => H.discardMsg m := by
  simp [State.stairCompare, hh, hl, hi, ht, hd]

omit hl

theorem State.stairControl_discarded (means : ControlMsg) (hk : m.kind ≠ 3) :
    s.stairControl h m means = (s.pop h m).onHall h fun H => H.discardMsg m := by
  simp [State.stairControl, hh, hk]

/-- R41: the fragment that completes a payload has the payload's effect, and the payload is no longer on its way. -/
theorem State.stairControl_completed (means : ControlMsg) (hk : m.kind = 3)
    (hj : joinControl ((s.pop h m).hall h).stair.control m = (none, true)) :
    s.stairControl h m means =
      (((s.pop h m).onHall h fun H => { H with stair := { H.stair with control := none } }).onHall h.other fun H =>
        { H with stair := { H.stair with ctlOut := H.stair.ctlOut.erase means } }).control h means s.pkg.now := by
  have hnow : (s.pop h m).pkg.now = s.pkg.now := by rw [State.pop, State.onHall_pkg, State.onHall_pkg]
  simp [State.stairControl, hh, hk, hj, hnow]

theorem State.stairBeat_discarded (tb : Nat) (hk : m.kind ≠ 4) :
    s.stairBeat h m tb = (s.pop h m).onHall h fun H => H.discardMsg m := by
  simp [State.stairBeat, hh, hk]

include hl in
/-- R49: a BEAT in a hall with an image that has not lost its partner shows the partner alive before its timing is taken. -/
theorem State.stairBeat_taken {im : Image} (tb : Nat) (hk : m.kind = 4) (hi : ((s.pop h m).hall h).image = some im) :
    s.stairBeat h m tb =
      (((s.pop h m).onHall h fun H => { H with stair := { H.stair with alive := true } }).beatTime h m.arg0 (m.arg1 % 4096) (m.arg2 % 2 ^ 25)
        (bits m.arg2 25 3) (bit m.arg2 28) tb).onHall h fun H =>
          { H with stair := { H.stair with beat := some (m.arg0, m.arg1 % 4096, m.arg2 % 2 ^ 25, bits m.arg2 25 3, bit m.arg2 28) } } := by
  have ha : ((s.pop h m).onHall h fun H => if H.stair.lost || H.image.isNone then H else { H with stair := { H.stair with alive := true } }) =
      (s.pop h m).onHall h fun H => { H with stair := { H.stair with alive := true } } :=
    State.onHall_congr (by rw [hl, hi]; rfl)
  simp only [State.stairBeat, hh, hk, ha, Bool.not_true, Bool.false_eq_true, if_false, ne_eq, not_true_eq_false]

end

/-- Settles O21: a clause for each kind, and for what is discarded whole. That a message leaves the sender's outbox whether or not it is taken
(`State.pop`) is log entry 43's choice, that the payload's meaning comes as an operand log entry 7's. -/
theorem stairMessagesArrive : Obligations.StairMessagesArrive := by
  intro s h m hh hl
  have hp := State.por_of_hears hh
  refine ⟨fun hk hc hn => ?sync, fun x hk hc hb ho hx => ?syncHeld, fun hc => ?syncDiscarded,
    fun w hk hw hz => ⟨fun hb => ?moveKept, fun hb hm => ?moveShown⟩, fun w hk hw hz => ?movePast, fun hk hw => ?moveNowhere,
    fun im t hk hi ht hd => ?compare, fun im t hk hi ht hd => ?compareDiscarded, fun means hk hj => ?control,
    fun tb hk => ?beatDiscarded, fun means hk => ?controlDiscarded, fun im tb hk hi => ?beat⟩
  case sync =>
    refine State.next_live hp (State.stairSync_applied hh hl hk hc (hn.imp_right fun ⟨ho, hm⟩ => ?_))
    rw [State.lastMove_of_empty ho, hm]
    rfl
  case syncHeld => exact State.next_live hp (State.stairSync_held hh hl hk hc hb ((State.lastMove_of_empty ho m).trans hx))
  case syncDiscarded => exact State.next_live hp (State.stairSync_discarded hh hl hc)
  case moveKept => exact State.next_live hp (State.stairMove_kept hh hl hk hw hz hb)
  case moveShown => exact State.next_live hp (State.stairMove_shown hh hl hk hw hz hb hm)
  case movePast =>
    refine State.next_live hp (State.stairMove_discarded hh hl fun v _ hv => ?_)
    obtain rfl : w = v := Option.some.inj (hw.symm.trans hv)
    exact hz
  case moveNowhere =>
    exact State.next_live hp (State.stairMove_discarded hh hl fun v _ hv => absurd (hw.symm.trans hv).symm (Option.some_ne_none v))
  case compare => exact State.next_live hp (State.stairCompare_joined hh hl hk hi ht hd)
  case compareDiscarded => exact State.next_live hp (State.stairCompare_discarded hh hl hi ht hd)
  case control => exact State.next_live hp (State.stairControl_completed hh means hk hj)
  case beatDiscarded => exact State.next_live hp (State.stairBeat_discarded hh tb hk)
  case controlDiscarded => exact State.next_live hp (State.stairControl_discarded hh means hk)
  case beat => exact State.next_live hp (State.stairBeat_taken hh hl tb hk hi)

end Sys2Proof.Machine
end

section
/-! Stair training with Hall B at its boot ROM (R50, R51, R617). -/

namespace Sys2Proof.Machine

/-! ### One end after training -/

section
variable (H : Hall) (good : BitVec 32) (tx : Nat)

@[simp] theorem Hall.trainedAt_dev : (H.trainedAt good tx).dev = H.dev := by simp [Hall.trainedAt, Hall.sendOn]
@[simp] theorem Hall.trainedAt_trained : (H.trainedAt good tx).stair.trained = true := by simp [Hall.trainedAt, Hall.sendOn]
@[simp] theorem Hall.trainedAt_enable : (H.trainedAt good tx).stair.enable = (H.stair.enable || H.image.isNone) := by
  simp [Hall.trainedAt, Hall.sendOn, Stair.cleared]
@[simp] theorem Hall.trainedAt_laneGood : (H.trainedAt good tx).stair.laneGood = good := by simp [Hall.trainedAt, Hall.sendOn]
@[simp] theorem Hall.trainedAt_lanesRx : (H.trainedAt good tx).stair.lanesRx = laneWidth good := by simp [Hall.trainedAt, Hall.sendOn]
@[simp] theorem Hall.trainedAt_lanesTx : (H.trainedAt good tx).stair.lanesTx = tx := by simp [Hall.trainedAt, Hall.sendOn]
@[simp] theorem Hall.trainedAt_ctlOut : (H.trainedAt good tx).stair.ctlOut = [] := by simp [Hall.trainedAt, Hall.sendOn, Stair.cleared]

/-- No CONTROL message waits after training, so that none is on its way. -/
@[simp] theorem Hall.trainedAt_ctlSent : (H.trainedAt good tx).stair.ctlSent = [] := by
  unfold Hall.trainedAt Hall.sendOn
  rw [Hall.flushControl_stair_of_idle] <;> simp [Stair.cleared]

/-- What waited is sent anew after training; where nothing did, nothing is on its way. -/
theorem Hall.trainedAt_outbox (hw : H.stair.waits = []) : (H.trainedAt good tx).stair.outbox = [] := by
  unfold Hall.trainedAt Hall.sendOn
  rw [Hall.flushControl_outbox, Hall.flush_of_idle]
  · rfl
  · exact hw
  · rfl

@[simp] theorem Hall.takeSweep_stair (O : Hall) (h : Nat) : (H.takeSweep O h).stair = H.stair := by
  simp only [Hall.takeSweep, apply_ite Hall.stair, ite_self]
@[simp] theorem Hall.takeSweep_dev (O : Hall) (h : Nat) : (H.takeSweep O h).dev = H.dev := by
  simp only [Hall.takeSweep, apply_ite Hall.dev, ite_self]

/-! ### A payload handed to the Stair -/

variable (c : ControlMsg)

@[simp] theorem Hall.tell_enable : (H.tell c).stair.enable = H.stair.enable := by simp [Hall.tell]
@[simp] theorem Hall.tell_trained : (H.tell c).stair.trained = H.stair.trained := by simp [Hall.tell]
@[simp] theorem Hall.tell_laneGood : (H.tell c).stair.laneGood = H.stair.laneGood := by simp [Hall.tell]
@[simp] theorem Hall.tell_lanesRx : (H.tell c).stair.lanesRx = H.stair.lanesRx := by simp [Hall.tell]
@[simp] theorem Hall.tell_lanesTx : (H.tell c).stair.lanesTx = H.stair.lanesTx := by simp [Hall.tell]
@[simp] theorem Hall.tell_ctlOut : (H.tell c).stair.ctlOut = H.stair.ctlOut ++ [c] := by simp [Hall.tell]
@[simp] theorem Hall.tell_outbox : (H.tell c).stair.outbox = H.stair.outbox := by simp [Hall.tell]
end

/-! ### Both ends -/

/-- R50, R51, R86, R617: training ends between a Hall A whose linked image's partitions need at most 8 lanes and a Hall B at its boot ROM, both
powered and free to train, with a group of good lanes in each direction. -/
structure State.TrainsFromRom (s : State) (im : Image) (ga gb : BitVec 32) : Prop where
  por : s.por = false
  image : s.a.image = some im
  linked : im.linked = true
  need : im.minWidth ≤ 8
  upA : s.a.dev.up = true
  upB : s.b.dev.up = true
  rom : s.b.dev.stage = .rom
  onA : s.a.pwr.hall = .on
  onB : s.b.pwr.hall = .on
  untrained : s.a.stair.trained = false
  enable : s.a.stair.enable = true
  stayA : s.a.stair.retrain = false
  stayB : s.b.stair.retrain = false
  noImage : s.b.image = none
  groupA : 8 ≤ laneWidth ga
  groupB : 8 ≤ laneWidth gb

section
variable {s : State} {im : Image} {ga gb : BitVec 32} (ht : s.TrainsFromRom im ga gb)
include ht

theorem State.TrainsFromRom.mayTrainA : s.a.mayTrain = true := by simp [Hall.mayTrain, ht.enable, ht.stayA]

theorem State.TrainsFromRom.mayTrainB : s.b.mayTrain = true := by simp [Hall.mayTrain, ht.noImage, ht.stayB]

/-- R50, R617: each end takes its own receive width and the other's, and Hall A hands over the firmware. -/
theorem State.stairTrained_of_rom : s.stairTrained ga gb =
    { s with
      a := ((s.a.trainedAt ga (laneWidth gb)).takeSweep s.b 0).tell (.firmware s.a.dev.fwObject)
      b := (s.b.trainedAt gb (laneWidth ga)).takeSweep s.a 1 } := by
  have hA : laneWidth ga ≠ 0 := Nat.ne_of_gt (Nat.lt_of_lt_of_le (by decide) ht.groupA)
  have hB : laneWidth gb ≠ 0 := Nat.ne_of_gt (Nat.lt_of_lt_of_le (by decide) ht.groupB)
  have hwide : ¬ min (laneWidth ga) (laneWidth gb) < im.minWidth :=
    Nat.not_lt.mpr (Nat.le_trans ht.need (Nat.le_min.mpr ⟨ht.groupA, ht.groupB⟩))
  have hnone : ((s.b.trainedAt gb (laneWidth ga)).takeSweep s.a 1).image = none := by
    rw [Hall.image, Hall.takeSweep_dev, Hall.trainedAt_dev]
    exact ht.noImage
  simp [State.stairTrained, ht.por, ht.image, ht.linked, ht.upA, ht.upB, ht.rom, ht.onA, ht.onB, ht.untrained, ht.mayTrainA, ht.mayTrainB,
    hA, hB, hwide, State.afterTraining, State.onHall, hnone]

end

/-- Settles O19: the width is the largest that a good group gives, and training from Hall B's boot ROM is `State.stairTrained_of_rom`. That what
was on its way is lost in training (`Stair.cleared`) is log entry 43's choice, the firmware payload in `ctlOut` log entry 7's. -/
theorem stairTrainingBringsUpTheWidths : Obligations.StairTrainingBringsUpTheWidths := by
  refine ⟨?width, fun s im ga gb hp hi hk hn hua hub hr hoa hob ht he hra hrb hb hga hgb => ?training⟩
  case width =>
    rintro good w rfl
    refine ⟨laneWidth_mem good, fun h0 => ?_, fun v hv hlt i hi => groupGood_false_iff.mp (Bool.eq_false_iff.mpr fun hg => ?_)⟩
    · obtain ⟨i, hi, hg⟩ := laneWidth_group good h0
      exact ⟨i, hi, groupGood_iff.mp hg⟩
    · exact Nat.not_le_of_lt hlt (le_laneWidth hv hi hg)
  case training =>
    have hrom : s.TrainsFromRom im ga gb := ⟨hp, hi, hk, hn, hua, hub, hr, hoa, hob, ht, he, hra, hrb, hb, hga, hgb⟩
    refine ⟨_, State.next_live hp (g := fun s => s.stairTrained ga gb) rfl, ?_⟩
    simp only [State.whole_a_stair, State.whole_b_stair, State.stairTrained_of_rom hrom, Hall.tell_trained, Hall.tell_enable, Hall.tell_laneGood, Hall.tell_lanesRx,
      Hall.tell_lanesTx, Hall.tell_ctlOut, Hall.tell_outbox, Hall.takeSweep_stair, Hall.trainedAt_trained, Hall.trainedAt_enable,
      Hall.trainedAt_laneGood, Hall.trainedAt_lanesRx, Hall.trainedAt_lanesTx, Hall.trainedAt_ctlOut, Hall.trainedAt_ctlSent, he, hb,
      Option.isNone_none, Bool.true_or, Bool.or_true, List.nil_append, true_and]
    exact ⟨Hall.trainedAt_outbox _ _ _, Hall.trainedAt_outbox _ _ _⟩

end Sys2Proof.Machine
end

section
/-! The heartbeat and the loss of the partner (R46, R47, R49, R544). -/

namespace Sys2Proof.Machine

/-! ### A BEAT goes at once (R46, R47) -/

/-- R47: of a lone waiting message of class 0, the kind's front is that message. -/
theorem Stair.front_of_lone {t : Stair} {m : StairMsg} (hw : t.waits = [m]) (hb : t.begun = []) (hc : m.cls = 0) (k : Nat) :
    t.front k = if m.kind = k then some (m, 0) else none := by
  by_cases hk : m.kind = k <;> simp [Stair.front, hw, hb, hc, hk, List.range_succ]

/-- R47: the arbiter's order holds BEAT wherever its pointer stands. -/
theorem Stair.beat_mem_kinds (t : Stair) : 4 ∈ t.kinds := by
  have h : ∀ p < 5, 4 ∈ (([4, 3, 0, 2, 1, 4, 3, 0, 2, 1] : List Nat).drop p).take 5 := by decide
  exact h _ (Nat.mod_lt _ (by decide))

/-- R46, R47: a lone BEAT with a credit left is what the arbiter chooses. -/
theorem Stair.choose_of_lone_beat {t : Stair} {m : StairMsg} (hw : t.waits = [m]) (hb : t.begun = []) (hk : m.kind = 4) (hc : m.cls = 0)
    (hcr : 0 < t.credits 4 0) : t.choose = some (m, 0) := by
  have hf : ∀ k, ((t.front k).filter fun b => decide (0 < t.credits k b.1.cls)) = if k = 4 then some (m, 0) else none := fun k => by
    rw [Stair.front_of_lone hw hb hc, hk]
    by_cases h4 : k = 4
    · simp [h4, hc, hcr]
    · simp [h4, Ne.symm h4]
  unfold Stair.choose
  simp only [hf]
  cases hfs : t.kinds.filterMap fun k => if k = 4 then some (m, 0) else none with
  | nil =>
    have := List.filterMap_eq_nil_iff.mp hfs 4 t.beat_mem_kinds
    simp at this
  | cons b r =>
    have hmem : b ∈ t.kinds.filterMap fun k => if k = 4 then some (m, 0) else none := hfs ▸ List.mem_cons_self
    obtain ⟨k, -, hkb⟩ := List.mem_filterMap.mp hmem
    obtain rfl : b = (m, 0) := by
      split at hkb
      · exact (Option.some.inj hkb).symm
      · exact absurd hkb.symm (Option.some_ne_none b)
    simp [List.range_succ, hc]

/-- R40: a message whose flits all have credits is sent whole, with the next SEQ of its kind. -/
theorem Stair.sendFlits_whole {t : Stair} {m : StairMsg} (hc : m.flits ≤ t.credits m.kind m.cls) :
    t.sendFlits m 0 =
      { t with
        waits := t.waits.erase m
        seq := modAt t.seq m.kind fun q => (q + 1) % 65536
        outbox := t.outbox ++ [{ m with seq := (t.seq[m.kind]?).getD 0 }] } := by
  simp [Stair.sendFlits, hc]

/-- R46, R47: the arbiter's choice, where its last flit goes, is counted, and the rest goes on. -/
theorem Hall.pump_of_choose {H : Hall} {m : StairMsg} {n : Nat} (fuel : Nat) (hr : H.stair.runs = true) (hm : H.stair.choose = some (m, n))
    (ho : H.stair.outbox.length < (H.stair.sendFlits m n).outbox.length) :
    Hall.pump (fuel + 1) H =
      ((({ H with stair := H.stair.sendFlits m n } : Hall).count (1536 + m.kind) 1).count (1536 + 10 + m.cls) m.flits).pump fuel := by
  rw [Hall.pump]
  simp only [hr, hm, ho, Bool.not_true, Bool.false_eq_true, if_false, if_true]

/-- R46: a lone waiting BEAT with a credit left goes. -/
theorem Hall.flush_lone_beat {H : Hall} {m : StairMsg} (hr : H.stair.runs = true) (hw : H.stair.waits = [m]) (hb : H.stair.begun = [])
    (hk : m.kind = 4) (hc : m.cls = 0) (hl : m.len = 0) (hcr : 0 < H.stair.credits 4 0) :
    H.flush.stair.outbox = H.stair.outbox ++ [{ m with seq := (H.stair.seq[4]?).getD 0 }] := by
  have hsend := Stair.sendFlits_whole (t := H.stair) (m := m) (by rw [hk, hc, StairMsg.flits, hl]; exact hcr)
  rw [Hall.flush, Hall.pump_of_choose _ hr (Stair.choose_of_lone_beat hw hb hk hc hcr), Hall.pump_of_idle]
  · simp [hsend, hk]
  · simp [hsend, hw]
  · simp [hsend, hb]
  · simp [hsend]

/-- R42, R49: a BEAT handed to a Stair that runs, with nothing else waiting and a credit left, is on its way at once. -/
theorem Hall.sendStair_beat {H : Hall} {m : StairMsg} (hr : H.stair.runs = true) (hw : H.stair.waits = []) (hb : H.stair.begun = [])
    (hk : m.kind = 4) (hc : m.cls = 0) (hl : m.len = 0) (hcr : 0 < H.stair.credits 4 0) :
    (H.sendStair m).stair.outbox = H.stair.outbox ++ [{ m with seq := (H.stair.seq[4]?).getD 0 }] := by
  rw [Hall.sendStair, if_neg (by simp [hk]), hw]
  exact Hall.flush_lone_beat hr rfl hb hk hc hl hcr

@[simp] theorem Hall.count_swp (H : Hall) (n k : Nat) : (H.count n k).swp = H.swp := by unfold Hall.count; split <;> rfl
@[simp] theorem Hall.count_gals (H : Hall) (n k : Nat) : (H.count n k).gals = H.gals := by unfold Hall.count; split <;> rfl

@[simp] theorem Hall.sendStair_swp (H : Hall) (m : StairMsg) : (H.sendStair m).swp = H.swp := by unfold Hall.sendStair; split <;> simp
@[simp] theorem Hall.sendStair_gals (H : Hall) (m : StairMsg) : (H.sendStair m).gals = H.gals := by unfold Hall.sendStair; split <;> simp

@[simp] theorem Hall.refillControl_swp (H : Hall) : H.refillControl.swp = H.swp := by simp [Hall.refillControl]
@[simp] theorem Hall.refillControl_gals (H : Hall) : H.refillControl.gals = H.gals := by simp [Hall.refillControl]
@[simp] theorem Hall.refillControl_outbox (H : Hall) : H.refillControl.stair.outbox = H.stair.outbox := by simp [Hall.refillControl]

/-- R49: while the Stair is enabled and trained, the hall's BEAT is handed over and its CONTROL budget filled again. -/
theorem State.beatSend_of_runs {s : State} {h : HallId} (hp : s.por = false) (hu : (s.hall h).dev.up = true)
    (he : (s.hall h).stair.enable = true) (ht : (s.hall h).stair.trained = true) :
    s.beatSend h = s.onHall h fun H => (H.sendStair H.beatMsg).refillControl := by
  simp [State.beatSend, hp, hu, he, ht]

theorem State.beatSend_of_untrained {s : State} {h : HallId} (ht : (s.hall h).stair.trained = false) : s.beatSend h = s := by
  simp [State.beatSend, ht]

/-! ### What records emitted at the loss leave (R124) -/

/-- What the loss of its partner reads and sets of a hall. -/
structure LinkSide where
  /-- the hall's end of the Stair -/
  stair : Stair
  /-- DEV_IMG.STAGED (R92) -/
  staged : Nat
  /-- sweeps run -/
  started : Bool
  /-- the latest array cycle -/
  now : Nat

def Hall.linkSide (H : Hall) : LinkSide := ⟨H.stair, H.dev.staged, H.swp.started, H.now⟩

theorem Hall.linkSide_foldl {α : Type} {f : Hall → α → Hall} (hf : ∀ H a, (f H a).linkSide = H.linkSide) :
    ∀ (l : List α) (H : Hall), (l.foldl f H).linkSide = H.linkSide
  | [], _ => rfl
  | a :: l, H => (Hall.linkSide_foldl hf l (f H a)).trans (hf H a)

@[simp] theorem Hall.linkSide_count (H : Hall) (n k : Nat) : (H.count n k).linkSide = H.linkSide := by unfold Hall.count; split <;> rfl
@[simp] theorem Hall.linkSide_addLog (H : Hall) (c u a p : Nat) : (H.addLog c u a p).linkSide = H.linkSide := by
  simp only [Hall.linkSide, Hall.addLog]
@[simp] theorem Hall.linkSide_onPart (H : Hall) (p : Nat) (f : PartState → PartState) : (H.onPart p f).linkSide = H.linkSide := rfl
@[simp] theorem Hall.linkSide_onRun (H : Hall) (r : SlotRun) (f : SlotRun → SlotRun) : (H.onRun r f).linkSide = H.linkSide := rfl
@[simp] theorem Hall.linkSide_onTx (H : Hall) (t : Nat) (f : TxPort → TxPort) : (H.onTx t f).linkSide = H.linkSide := rfl
@[simp] theorem Hall.linkSide_onStream (H : Hall) (n : Nat) (f : TxStream → TxStream) : (H.onStream n f).linkSide = H.linkSide := rfl

@[simp] theorem Hall.linkSide_eraseHandle (H : Hall) (h k : Nat) : (H.eraseHandle h k).linkSide = H.linkSide := by
  unfold Hall.eraseHandle Hall.eraseSlot
  split
  · rfl
  · split <;> rfl

@[simp] theorem Hall.linkSide_txSettle (H : Hall) (t : Nat) : (H.txSettle t).linkSide = H.linkSide := by
  unfold Hall.txSettle; split <;> rfl

@[simp] theorem Hall.linkSide_txStart (H : Hall) (h t : Nat) : (H.txStart h t).linkSide = H.linkSide := by
  unfold Hall.txStart
  simp only []
  split
  · exact H.linkSide_txSettle t
  split
  · exact H.linkSide_txSettle t
  · rw [Hall.linkSide_onTx, Hall.linkSide_onStream, Hall.linkSide_txSettle]

@[simp] theorem Hall.linkSide_dropRecord (H : Hall) (n : Nat) : (H.dropRecord n).linkSide = H.linkSide := by
  unfold Hall.dropRecord
  split <;> simp

@[simp] theorem Hall.linkSide_emit (H : Hall) (h n : Nat) (r : Record) : (H.emit h n r).2.linkSide = H.linkSide := by
  unfold Hall.emit
  split
  · simp
  split
  · rfl
  split
  · simp
  · simp only [Hall.linkSide_txStart, Hall.linkSide_onStream]
    split <;> simp

@[simp] theorem Hall.linkSide_emitResult (H : Hall) (h : Nat) (t : SweepTable) (s : Slot) (r : SlotRun) (single : Bool) (v m : Nat) :
    (H.emitResult h t s r single v m).linkSide = H.linkSide := by
  unfold Hall.emitResult
  split
  · rfl
  split
  · simp
  split <;> simp

@[simp] theorem Hall.linkSide_emitHeld (H : Hall) (h : Nat) : (H.emitHeld h).linkSide = H.linkSide := by
  refine Hall.linkSide_foldl (fun H r => ?_) _ H
  simp only []
  split
  · split
    · rfl
    split
    · rfl
    split
    · rfl
    split
    · simp
    · rfl
  · rfl

/-! ### The loss of the partner (R49, R63, R544) -/

theorem State.unschedule_of_unscheduled {s : State} {h : HallId} (hs : (s.hall h).dev.staged ≠ 3) : s.unschedule h = s := if_neg hs

/-- R49, R51: the Stair end of a hall that has lost its partner is up until the boundary at which it retrains, where sweeps run. -/
def LinkSide.lost (L : LinkSide) : LinkSide :=
  { L with stair := { L.stair.dropQueued with
      alive := false, mode := .partnerLost, lost := true, retrain := L.started, trained := L.stair.trained && L.started, moves := []
      syncs := [], control := none } }

/-- With no activation scheduled, the steps that follow the loss change only what settling changes. -/
theorem State.bare_afterLoss {t : State} {h : HallId} (code arg : Nat) (hs : (t.hall h).dev.staged ≠ 3) (ho : (t.hall h.other).dev.staged ≠ 3) :
    ((((t.deviceEvent h code arg).unschedule h).unschedule h.other).pinCheck h).bare = t.bare := by
  have e : ∀ k, ((t.deviceEvent h code arg).hall k).dev.staged = (t.hall k).dev.staged := fun k =>
    Hall.staged_of_bare (State.bare_hall (State.bare_deviceEvent t h code arg) k)
  have hs' : ((t.deviceEvent h code arg).hall h).dev.staged ≠ 3 := fun h3 => hs ((e h).symm.trans h3)
  have ho' : ((t.deviceEvent h code arg).hall h.other).dev.staged ≠ 3 := fun h3 => ho ((e h.other).symm.trans h3)
  rw [State.unschedule_of_unscheduled hs', State.unschedule_of_unscheduled ho', State.bare_pinCheck, State.bare_deviceEvent]

/-- R49, R63: with no activation scheduled, the loss of the partner is a change of that hall, but for what settling changes. -/
theorem State.losePartner_bare {s : State} {h : HallId} (hl : (s.hall h).stair.lost = false) (hs : (s.hall h).dev.staged ≠ 3)
    (ho : (s.hall h.other).dev.staged ≠ 3) :
    ∃ f : Hall → Hall, (s.losePartner h).bare = (s.onHall h f).bare ∧ (f (s.hall h)).linkSide = (s.hall h).linkSide.lost := by
  have after : ∀ f : Hall → Hall, (f (s.hall h)).linkSide = (s.hall h).linkSide.lost → ∀ code arg,
      (((((s.onHall h f).deviceEvent h code arg).unschedule h).unschedule h.other).pinCheck h).bare = (s.onHall h f).bare := by
    intro f hf code arg
    refine State.bare_afterLoss code arg ?_ ?_
    · rw [State.hall_onHall]
      exact fun e => hs ((congrArg LinkSide.staged hf).symm.trans e)
    · rwa [State.hall_other_onHall]
  unfold State.losePartner
  rw [if_neg (by simp [hl])]
  refine ⟨_, (fun hf => And.intro (after _ hf _ _) hf) ?_⟩
  refine (Hall.linkSide_emitHeld _ _).trans ?_
  show LinkSide.lost (Hall.linkSide (List.foldl _ _ _)) = _
  rw [Hall.linkSide_foldl fun H e => Hall.linkSide_onPart H _ _, Hall.linkSide_addLog, Hall.linkSide_count]

theorem State.losePartner_stair {s : State} {h : HallId} (hl : (s.hall h).stair.lost = false) (hs : (s.hall h).dev.staged ≠ 3)
    (ho : (s.hall h.other).dev.staged ≠ 3) : ((s.losePartner h).hall h).stair = (s.hall h).linkSide.lost.stair := by
  obtain ⟨f, hf, hlink⟩ := State.losePartner_bare hl hs ho
  rw [Hall.stair_of_bare (State.bare_hall hf h), State.hall_onHall]
  exact congrArg LinkSide.stair hlink

theorem State.losePartner_other {s : State} {h : HallId} (hl : (s.hall h).stair.lost = false) (hs : (s.hall h).dev.staged ≠ 3)
    (ho : (s.hall h.other).dev.staged ≠ 3) : ((s.losePartner h).hall h.other).bare = (s.hall h.other).bare := by
  obtain ⟨f, hf, -⟩ := State.losePartner_bare hl hs ho
  rw [State.bare_hall hf h.other, State.hall_other_onHall]

theorem State.missBeats_of_runs {s : State} {h : HallId} (hp : s.por = false) (hu : (s.hall h).dev.up = true)
    (he : (s.hall h).stair.enable = true) (ht : (s.hall h).stair.trained = true) : s.missBeats h = s.losePartner h := by
  simp [State.missBeats, hp, hu, he, ht]

theorem State.missBeats_of_lost {s : State} {h : HallId} (hl : (s.hall h).stair.lost = true) : s.missBeats h = s := by
  simp [State.missBeats, State.losePartner, hl]

/-- Settles O20. Where sweeps run the Stair stays trained until the sweep boundary at which it retrains (R51, `State.boundary`); that the MOVEs and
SYNCs held of the far end are dropped with the link is log entry 43's choice. -/
theorem partnerIsLostOnMissedBeats : Obligations.PartnerIsLostOnMissedBeats := by
  refine ⟨fun s h hp hu he ht hl hs ho => ?lost, fun s h hp hl => ?lostAlready, fun s h hp hu he ht hw hb hc => ?sent,
    fun s h hp hu he ht => ?handed, fun s h hp ht => ?down⟩
  case lost =>
    have hfar := State.whole_hall_bare_of_bare (f := fun _ => s.losePartner h) (State.losePartner_other hl hs ho)
    refine ⟨_, State.next_live hp (g := fun _ => s.losePartner h) (State.missBeats_of_runs hp hu he ht), ?_⟩
    simp [State.losePartner_stair hl hs ho, LinkSide.lost, Hall.linkSide, Stair.dropQueued, ht, hfar]
  case lostAlready => exact State.next_live hp (State.missBeats_of_lost hl)
  case sent =>
    have hr : (s.hall h).stair.runs = true := by rw [Stair.runs, he, ht]; rfl
    have hfar := State.whole_hall_bare_of_bare (s := s) (f := fun s => s.onHall h fun H => (H.sendStair H.beatMsg).refillControl)
      (h := h.other) (by rw [State.hall_other_onHall])
    refine ⟨_, State.next_live hp (g := fun s => s.onHall h fun H => (H.sendStair H.beatMsg).refillControl)
      (State.beatSend_of_runs hp hu he ht), ?_⟩
    simp [Hall.sendStair_beat (m := (s.hall h).beatMsg) hr hw hb rfl rfl rfl hc, hfar]
  case handed => exact State.next_live hp (State.beatSend_of_runs hp hu he ht)
  case down => exact State.next_live hp (State.beatSend_of_untrained ht)

end Sys2Proof.Machine
end

section
/-! A word that a host port writes reaches its register (R588 to R590, R595, R596). -/

namespace Sys2Proof.Machine

/-! ### Where an address lies (R588 to R590) -/

theorem regAddr_block {h : HallId} {b n : Nat} (hb : b < 256) (hn : n < 2 ^ 16) : regAddr h b n / 2 ^ 16 % 256 = b := by
  unfold regAddr
  omega

theorem regAddr_offset {h : HallId} {b n : Nat} (hn : n < 2 ^ 16) : regAddr h b n % 2 ^ 16 = n := by
  unfold regAddr
  omega

theorem lt_of_blockIndex {b i : Nat} (e : blockIndex b = some i) : b < 256 := by
  unfold blockIndex at e
  split at e
  · omega
  split at e
  · next hg =>
    simp only [Bool.and_eq_true, decide_eq_true_eq] at hg
    omega
  split at e
  · omega
  · cases e

/-- R589: the galleries' blocks share an index. -/
theorem blockIndex_gallery {g : Nat} (hg : g < 8) : blockIndex (0x10 + g) = some 14 := by
  have hlow : ¬ 0x10 + g < 14 := by omega
  have hhigh : 0x10 + g < 0x18 := by omega
  simp [blockIndex, hlow, hhigh]

theorem inTable_of_element {base stride count i : Nat} (hs : 0 < stride) (hi : i < count) : inTable (base + stride * i) base stride count = some i := by
  simp [inTable, hs, hi]

/-- R590: a word that is not refused lies where its address says. -/
theorem State.place_of_wordRefusal {s : State} {p addr idx blk o : Nat} {may : Nat → Nat → Nat → Bool}
    (e : s.wordRefusal p addr may = .ok (idx, blk, o)) : blk = addr / 2 ^ 16 % 256 ∧ o = addr % 2 ^ 16 ∧ blockIndex blk = some idx := by
  unfold State.wordRefusal at e
  simp only [] at e
  split at e
  · cases e
  split at e
  · cases e
  split at e
  · next hi _ =>
    split at e
    · cases e
      exact ⟨rfl, rfl, hi⟩
    · cases e
  · cases e

/-! ### Its unlock used up (R595) -/

@[simp] theorem State.spent_vst (s : State) (p blk : Nat) : (s.spent p blk).vst = s.vst := s.onHall_vst _ _

/-- R595: the unlock used up is all that changes of the port's hall. -/
theorem State.spent_hall (s : State) (p blk : Nat) (h : HallId) :
    ∃ ports, (s.spent p blk).hall h = { s.hall h with ports := ports } := by
  by_cases e : h = portHall p
  · subst e
    exact ⟨_, State.hall_onHall _ _ _⟩
  · exact ⟨_, State.hall_onHall_ne _ _ e⟩

@[simp] theorem State.spent_hall_dev (s : State) (p blk : Nat) (h : HallId) : ((s.spent p blk).hall h).dev = (s.hall h).dev := by
  obtain ⟨_, e⟩ := s.spent_hall p blk h
  rw [e]

@[simp] theorem State.spent_hall_stair (s : State) (p blk : Nat) (h : HallId) : ((s.spent p blk).hall h).stair = (s.hall h).stair := by
  obtain ⟨_, e⟩ := s.spent_hall p blk h
  rw [e]

@[simp] theorem State.spent_hall_image (s : State) (p blk : Nat) (h : HallId) : ((s.spent p blk).hall h).image = (s.hall h).image :=
  congrArg Dev.image (s.spent_hall_dev p blk h)

@[simp] theorem State.spent_a_image (s : State) (p blk : Nat) : (s.spent p blk).a.image = s.a.image := s.spent_hall_image p blk .a

/-! ### A guarded word under its unlock (R596) -/

/-- R595, R596: the word takes the guarded register's effect on the package with the unlock used up. -/
theorem State.Reaches.hostWord {s : State} {p addr idx blk o : Nat} {w : Word} (hr : s.Reaches p addr w idx blk o) (ho : o ≠ 0x3FF0)
    (hg : guarded (portHall p) idx o = true) (vt : Nat) : s.hostWord p addr w vt = (s.spent p blk).guardedWrite p idx blk o w vt := by
  simp only [State.hostWord, State.regWrite, hr.up, hr.word, hr.armed, hg, ho, if_true, if_false]
  rfl

section
variable {s : State} {p b n i idx blk o : Nat} {w : Word} (hr : s.Reaches p (regAddr (portHall p) b n) w idx blk o) (hb : blockIndex b = some i)
include hr hb

/-- R590: a register's own address gives back its block, its offset and the block's index. -/
theorem State.Reaches.place (hn : n < 2 ^ 16) : blk = b ∧ o = n ∧ idx = i := by
  obtain ⟨hblk, ho, hidx⟩ := State.place_of_wordRefusal hr.word
  rw [regAddr_block (lt_of_blockIndex hb) hn] at hblk
  rw [regAddr_offset hn] at ho
  exact ⟨hblk, ho, Option.some.inj (hidx.symm.trans (hblk ▸ hb))⟩

/-- R595, R596: the outcome of a word that reaches a guarded register, by the register's own effect. -/
theorem State.Reaches.next (hn : n < 0x3FF0) (hg : guarded (portHall p) i n = true) {t : State}
    (ht : (s.spent p b).guardedWrite p i b n w s.pkg.now = t) :
    (.next (s.live fun s => s.hostWord p (regAddr (portHall p) b n) w s.pkg.now) : Host.Outcome State Fault Refusal) = .next (s.whole fun _ => t) := by
  obtain ⟨rfl, rfl, rfl⟩ := hr.place hb (Nat.lt_trans hn (by decide))
  exact State.next_live hr.por ((hr.hostWord (Nat.ne_of_lt hn) hg s.pkg.now).trans ht)

end

end Sys2Proof.Machine
end

section
/-! The guarded registers of the DEV, ERR, MIC and VST blocks and of the galleries (R93, R96, R323, R384, R394, R399, R527, R539, R549). -/

namespace Sys2Proof.Machine

/-! ### DEV_IMG_CTL (R93, R96) -/

section
variable {s : State} {h : HallId} {old im : Image} (hi : (s.hall h).image = some old) (hm : (s.hall h).dev.stagedImg = some im)
include hi hm

theorem State.activate_of_scheduled (h3 : (s.hall h).dev.staged = 3) : s.activate h = s.recordRefusal h (0x21, 0, 0xFFFF) := by
  simp [State.activate, hi, hm, h3]

theorem State.activate_of_changed (h2 : (s.hall h).dev.staged = 2) (hd : im.sdigest ≠ old.sdigest) :
    s.activate h = s.recordRefusal h (0x20, 0, 0xFFFF) := by
  simp [State.activate, hi, hm, h2, hd]

/-- R93: a hall that runs without the other asks for no acknowledgement. -/
theorem State.activate_of_fits (h2 : (s.hall h).dev.staged = 2) (hd : im.sdigest = old.sdigest) (hs : (s.hall h).stair.mode ≠ .split)
    (hp : (s.hall h).stair.mode ≠ .paired) (hf : (s.hall h).stagedFits h.idx im = true) :
    s.activate h = s.onHall h fun H => { H with dev := { H.dev with
      staged := 3, actSweep := (H.swp.sweep + 2) % 2 ^ 32, activate := true, ackBy := none } } := by
  have halone : ((s.hall h).stair.mode == .split || (s.hall h).stair.mode == .paired) = false := by simp [hs, hp]
  simp only [State.activate, hi, hm, h2, hd, hf, halone, bne_self_eq_false, Bool.not_true, Bool.false_and, Bool.or_self, Bool.false_eq_true,
    if_false, ne_eq, not_true_eq_false, Nat.reduceEqDiff]
  exact State.onHall_congr rfl

end

theorem State.discard_of_scheduled {s : State} {h : HallId} (h3 : (s.hall h).dev.staged = 3) : s.discard h = s := if_pos h3

theorem State.discard_of_unscheduled {s : State} {h : HallId} (h3 : (s.hall h).dev.staged ≠ 3) :
    s.discard h = s.onHall h fun H => { H with dev := { H.dev with staged := 0, stagedImg := none, farVerified := none } } := if_neg h3

/-! ### MIC_CTL and MIC_CAL (R394, R399) -/

theorem State.micWrite_cal {s : State} {p m : Nat} {w : Word} (hm : m < 32) :
    s.micWrite p (0x100 + 4 * m) w =
      { s with vst := { s.vst with calNew := modAt s.vst.calNew m fun _ => (bits w.toNat 16 16, bits w.toNat 0 9) } } := by
  unfold State.micWrite
  rw [inTable_of_element (by decide) hm]

theorem State.micWrite_mode {s : State} {p : Nat} {w : Word} (hc : (s.a.image.bind fun im => im.cascade) = none) :
    s.micWrite p 0 w = { s with vst := { s.vst with modeReq := w.getLsbD 0 } } := by
  unfold State.micWrite
  rw [hc]
  rfl

theorem State.micWrite_ignored {s : State} {p : Nat} {w : Word} (hc : (s.a.image.bind fun im => im.cascade).isSome = true) :
    s.micWrite p 0 w = s.logPort .a p 0x08FF 0 0 := by
  unfold State.micWrite
  rw [hc]
  rfl

/-- Settles O50, a clause for each register. The log code of an ignored MIC_CTL word is log entry 242's, that code 0x20 or 0x21 reads
section 0 and entry 0xFFFF log entry 54's and that DESCEND 0 does not cancel a request log entry 247's choice. -/
theorem guardedWritesTakeEffect : Obligations.GuardedWritesTakeEffect := by
  refine ⟨fun s p _ _ _ old im hr hi hm => ?activated, fun s p _ _ _ hr => ?discarded, fun s p _ _ _ w g hr hg => ?frameArea,
    fun s p _ _ _ w hr => ⟨fun hw => ?passHeld, fun hw => ?passQueued⟩, fun s p _ _ _ hr => ?cleared, fun s p _ _ _ w hr hw => ?reset,
    fun s p _ _ _ w hr => ?descent, fun s p _ _ _ w hr hc => ?micMode, fun s p _ _ _ w hr hc => ?micIgnored,
    fun s p _ _ _ w m hr hm => ?micCal⟩
  case activated =>
    rw [← State.spent_hall_image s p 0] at hi
    rw [← State.spent_hall_dev s p 0] at hm ⊢
    rw [← State.spent_hall_stair s p 0]
    exact ⟨fun h3 => hr.next rfl (by decide) rfl (State.activate_of_scheduled hi hm h3),
      fun h2 hd => hr.next rfl (by decide) rfl (State.activate_of_changed hi hm h2 hd),
      fun h2 hd hs hp hf => hr.next rfl (by decide) rfl (State.activate_of_fits hi hm h2 hd hs hp hf)⟩
  case discarded =>
    rw [← State.spent_hall_dev s p 0]
    exact ⟨fun h3 => hr.next rfl (by decide) rfl (State.discard_of_unscheduled h3),
      fun h3 => hr.next rfl (by decide) rfl (State.discard_of_scheduled h3)⟩
  case frameArea =>
    refine hr.next (blockIndex_gallery hg) (by decide) rfl ?_
    simp only [State.guardedWrite, Nat.add_sub_cancel_left]
  case passHeld => exact hr.next rfl (by decide) rfl (if_neg (ne_true_of_eq_false hw))
  case passQueued => exact hr.next rfl (by decide) rfl (if_pos hw)
  case cleared => exact hr.next rfl (by decide) rfl rfl
  case reset => exact hr.next rfl (by decide) rfl (if_pos hw)
  case descent => exact hr.next rfl (by decide) rfl (by simp only [State.guardedWrite, State.vstWrite, State.spent_vst])
  case micMode =>
    refine hr.next rfl (by decide) rfl ((State.micWrite_mode (by simpa using hc)).trans ?_)
    rw [State.spent_vst]
  case micIgnored => exact hr.next rfl (by decide) rfl (State.micWrite_ignored (by simpa using hc))
  case micCal =>
    have hg : guarded (portHall p) 8 (0x100 + 4 * m) = true := by simp [guarded, inTable_of_element, hm]
    refine hr.next rfl (by omega) hg ((State.micWrite_cal hm).trans ?_)
    rw [State.spent_vst]

end Sys2Proof.Machine
end

section
/-! The image at boot, and the waits for the other hall's acknowledgement and acceptance (R83, R84, R87, R90, R91, R93, R95). -/

namespace Sys2Proof.Machine

/-! ### The flash as the image's source (R83, R84) -/

section
variable {s : State} {f : Flash} (hp : s.por = false) (hu : s.a.dev.up = true) (hst : s.a.dev.stage = .fill) (hn : s.a.image = none)
  (hb : s.straps.bootSrc ≠ 2#2) (ht : s.a.mem.trained = true)
include hp hu hst hn hb ht

/-- R83: of two slots that verify the higher image version becomes active, slot 0 where they are equal. -/
theorem State.flashImageLoad_both {e0 e1 : DirEntry} {x y : Image} (h0 : flashEntry f 2 0 = some e0) (h1 : flashEntry f 2 1 = some e1)
    (hx : s.verify .a none (flashRead f e0.offset e0.length) = .ok x) (hy : s.verify .a none (flashRead f e1.offset e1.length) = .ok y) :
    s.flashImageLoad f = if x.version < y.version then s.loadImage .a y 2 else s.loadImage .a x 1 := by
  simp [State.flashImageLoad, hp, hu, hst, hn, hb, ht, h0, h1, hx, hy]

theorem State.flashImageLoad_first {e : DirEntry} {x : Image} (h0 : flashEntry f 2 0 = some e) (h1 : flashEntry f 2 1 = none)
    (hx : s.verify .a none (flashRead f e.offset e.length) = .ok x) : s.flashImageLoad f = s.loadImage .a x 1 := by
  simp [State.flashImageLoad, hp, hu, hst, hn, hb, ht, h0, h1, hx]

theorem State.flashImageLoad_neither (h0 : flashEntry f 2 0 = none) (h1 : flashEntry f 2 1 = none) :
    s.flashImageLoad f = s.onHall .a fun H =>
      { H with dev := { H.dev with imgState := if s.straps.bootSrc == 1 then 1 else 0, noSource := !(s.straps.bootSrc == 1) } } := by
  simp [State.flashImageLoad, hp, hu, hst, hn, hb, ht, h0, h1]

end

/-- Settles O17: what becomes active is what the two slots hold. That a flash without an image slot is not logged is log entry 61's choice. -/
theorem flashImageBecomesActive : Obligations.FlashImageBecomesActive := fun _ _ hp hu hst hn hb ht =>
  ⟨fun _ _ _ _ h0 h1 hx hy => State.next_live hp (State.flashImageLoad_both hp hu hst hn hb ht h0 h1 hx hy),
    fun _ _ h0 h1 hx => State.next_live hp (State.flashImageLoad_first hp hu hst hn hb ht h0 h1 hx),
    fun h0 h1 => State.next_live hp (State.flashImageLoad_neither hp hu hst hn hb ht h0 h1)⟩

/-! ### A refusal recorded (R90) -/

/-- R90: of the DEV block a refusal changes the error and its place, beside the log. -/
theorem State.recordRefusal_dev (s : State) (h : HallId) (r : Refused) :
    ({ ((s.recordRefusal h r).hall h).dev with log := [], nextSeq := 0 } : Dev) =
      { (s.hall h).dev with log := [], nextSeq := 0, lastError := r.1, errorAt := (r.2.1, r.2.2) } := by
  have hbare : (s.recordRefusal h r).bare =
      (s.onHall h fun H => { H with dev := { H.dev with lastError := r.1, errorAt := (r.2.1, r.2.2) } }).bare := by
    rw [State.recordRefusal, State.bare_deviceEvent, State.bare_log]
  have hhall := State.bare_hall hbare h
  rw [State.hall_onHall] at hhall
  exact congrArg Hall.dev hhall

@[simp] theorem State.recordRefusal_staged (s : State) (h : HallId) (r : Refused) :
    ((s.recordRefusal h r).hall h).dev.staged = (s.hall h).dev.staged := (congrArg Dev.staged (s.recordRefusal_dev h r) :)
@[simp] theorem State.recordRefusal_activate (s : State) (h : HallId) (r : Refused) :
    ((s.recordRefusal h r).hall h).dev.activate = (s.hall h).dev.activate := (congrArg Dev.activate (s.recordRefusal_dev h r) :)
@[simp] theorem State.recordRefusal_stagedImg (s : State) (h : HallId) (r : Refused) :
    ((s.recordRefusal h r).hall h).dev.stagedImg = (s.hall h).dev.stagedImg := (congrArg Dev.stagedImg (s.recordRefusal_dev h r) :)
@[simp] theorem State.recordRefusal_lastError (s : State) (h : HallId) (r : Refused) :
    ((s.recordRefusal h r).hall h).dev.lastError = r.1 := (congrArg Dev.lastError (s.recordRefusal_dev h r) :)

@[simp] theorem Hall.tell_dev (H : Hall) (c : ControlMsg) : (H.tell c).dev = H.dev := by simp [Hall.tell]

/-! ### The waits (R87, R93, R95) -/

theorem State.unschedule_of_scheduled {s : State} {h : HallId} (h3 : (s.hall h).dev.staged = 3) :
    s.unschedule h =
      (s.onHall h fun H => { H with dev := { H.dev with staged := 2, activate := false, ackBy := none } }).recordRefusal h (0x22, 0, 0xFFFF) :=
  if_pos h3

theorem State.ackTimeout_of_awaited {s : State} {h : HallId} {n : Nat} (ha : (s.hall h).dev.ackBy = some n) :
    s.ackTimeout h = (s.unschedule h).onHall h fun H => H.tell (.withdraw (s.hall h).dev.actSweep) := by
  simp [State.ackTimeout, ha]

/-- R36, R93: the withdrawal of the sweep that this hall has scheduled too. -/
theorem State.control_withdraw_own (s : State) (h : HallId) (vt : Nat) : s.control h (.withdraw (s.hall h).dev.actSweep) vt = s.unschedule h :=
  if_pos rfl

theorem State.acceptFailed_of_alone {s : State} {im : Image} (hi : s.a.image = some im) (hl : im.linked = true) (hf : s.a.stair.farAccepted = false)
    (hs : s.b.swp.started = false) : s.acceptFailed = s.losePartner .a := by
  simp [State.acceptFailed, hi, hl, hf, hs]

/-- Settles O18. That a withdrawal tells the other hall is log entry 27's reading, and that code 0x22 reads section 0 and entry 0xFFFF log
entry 54's choice. -/
theorem activationAndAcceptanceTimeouts : Obligations.ActivationAndAcceptanceTimeouts := by
  have timeout : ∀ {s : State} {h : HallId} {n : Nat}, (s.hall h).dev.ackBy = some n → (s.hall h).dev.staged = 3 →
      s.ackTimeout h =
        ((s.onHall h fun H => { H with dev := { H.dev with staged := 2, activate := false, ackBy := none } }).recordRefusal h (0x22, 0, 0xFFFF)).onHall
          h fun H => H.tell (.withdraw (s.hall h).dev.actSweep) := fun ha h3 => by
    rw [State.ackTimeout_of_awaited ha, State.unschedule_of_scheduled h3]
  refine ⟨fun s h n hp ha h3 => ?withdrawn, fun s h vt h3 => ?heard, fun s h n hp ha h3 => ?verified, fun s im hp hi hl hf hs => ?alone⟩
  case withdrawn => exact State.next_live hp (timeout ha h3)
  case heard => rw [State.control_withdraw_own, State.unschedule_of_scheduled h3]
  case verified =>
    refine ⟨_, State.next_live (g := fun s => s.ackTimeout h) hp rfl, ?_⟩
    simp [timeout ha h3]
  case alone => exact State.next_live hp (State.acceptFailed_of_alone hi hl hf hs)

end Sys2Proof.Machine
end

section
/-! The timebase: sweeps that references, HOLDOVER and the generator start, and tick boundaries (R98, R99, R102, R104, R119, R620). -/

namespace Sys2Proof.Machine

/-! ### A command's guards -/

/-- A change within a hall that leaves it as it is, whether or not its steward runs. -/
theorem State.inHall_of_fixed {s : State} {h : HallId} {f : Hall → Hall} (e : f (s.hall h) = s.hall h) : s.inHall h f = s := by
  simp [State.inHall, State.ifUp, State.onHall_of_fixed e]

/-- What a live command gives, by the state that its effect leads to. -/
theorem Gives.of_live {c : Instr} {s t : State} {f : State → State} {P : State → Prop} (hp : s.por = false)
    (hc : exec c s = .next (s.live f)) (e : f s = t) (ht : P (s.whole fun _ => t)) : Gives c s P :=
  ⟨_, hc.trans (State.next_live hp e), ht⟩

/-! ### A lock state set (R117) -/

/-- A hall without its partitions' states, which alone a lock state may change beside itself. -/
def Hall.unparted (H : Hall) : Hall := { H with swp := { H.swp with parts := [] } }

/-- R117: GENERATOR puts partitions under the monitor. -/
theorem Hall.unparted_setLock (H : Hall) (h : Nat) (l : Lock) :
    (H.setLock h l).unparted = ({ H with swp := { H.swp with lock := l } } : Hall).unparted := by
  unfold Hall.setLock
  split
  · rfl
  simp only []
  split
  · rfl
  · refine List.foldlRecOn _ _ (motive := fun K : Hall => K.unparted = ({ H with swp := { H.swp with lock := l } } : Hall).unparted) rfl
      fun K hK e _ => ?_
    split
    · exact hK
    · exact hK

section
variable (H : Hall) (h : Nat) (l : Lock)

@[simp] theorem Hall.setLock_lock : (H.setLock h l).swp.lock = l := (congrArg (fun K : Hall => K.swp.lock) (H.unparted_setLock h l) :)
@[simp] theorem Hall.setLock_holdLeft : (H.setLock h l).swp.holdLeft = H.swp.holdLeft :=
  (congrArg (fun K : Hall => K.swp.holdLeft) (H.unparted_setLock h l) :)
@[simp] theorem Hall.setLock_lastRef : (H.setLock h l).swp.lastRef = H.swp.lastRef :=
  (congrArg (fun K : Hall => K.swp.lastRef) (H.unparted_setLock h l) :)
@[simp] theorem Hall.setLock_started : (H.setLock h l).swp.started = H.swp.started :=
  (congrArg (fun K : Hall => K.swp.started) (H.unparted_setLock h l) :)
@[simp] theorem Hall.setLock_dev : (H.setLock h l).dev = H.dev := (congrArg Hall.dev (H.unparted_setLock h l) :)
@[simp] theorem Hall.setLock_mem : (H.setLock h l).mem = H.mem := (congrArg Hall.mem (H.unparted_setLock h l) :)

end

@[simp] theorem Hall.count_dev (H : Hall) (n k : Nat) : (H.count n k).dev = H.dev := by unfold Hall.count; split <;> rfl
@[simp] theorem Hall.count_mem (H : Hall) (n k : Nat) : (H.count n k).mem = H.mem := by unfold Hall.count; split <;> rfl

/-! ### A sweep begun (R99, R620) -/

section
variable (H : Hall) (h : Nat) (l : Lock) (short : Bool) (n t0 tb : Nat)

@[simp] theorem Hall.beginSweep_sweep : (H.beginSweep h l short n t0 tb).swp.sweep = n % 2 ^ 32 := rfl
@[simp] theorem Hall.beginSweep_tick : (H.beginSweep h l short n t0 tb).swp.tick = 0 := rfl
@[simp] theorem Hall.beginSweep_t0 : (H.beginSweep h l short n t0 tb).swp.t0 = t0 := rfl
@[simp] theorem Hall.beginSweep_started : (H.beginSweep h l short n t0 tb).swp.started = true := rfl
@[simp] theorem Hall.beginSweep_waiting : (H.beginSweep h l short n t0 tb).swp.waiting = false := rfl
@[simp] theorem Hall.beginSweep_stage : (H.beginSweep h l short n t0 tb).dev.stage = .running := rfl
@[simp] theorem Hall.beginSweep_lock : (H.beginSweep h l short n t0 tb).swp.lock = l := by simp [Hall.beginSweep]
@[simp] theorem Hall.beginSweep_holdLeft : (H.beginSweep h l short n t0 tb).swp.holdLeft = H.swp.holdLeft := by simp [Hall.beginSweep]
@[simp] theorem Hall.beginSweep_lastRef : (H.beginSweep h l short n t0 tb).swp.lastRef = H.swp.lastRef := by simp [Hall.beginSweep]
@[simp] theorem Hall.beginSweep_mem : (H.beginSweep h l short n t0 tb).mem = H.mem := by simp [Hall.beginSweep]

/-- R119: an UNLOCKED sweep runs at the nominal period. -/
theorem Hall.beginSweep_per_unlocked {im : Image} (hi : H.image = some im) :
    (H.beginSweep h .unlocked short n t0 tb).swp.per = im.timebase.nominal := by
  have hd : H.dev.image = some im := hi
  simp [Hall.beginSweep, Hall.periodFor, Hall.image, hd]

/-- R620: the boot time is taken at the first sweep. -/
theorem Hall.beginSweep_bootTime (hs : H.swp.started = false) :
    (H.beginSweep h l short n t0 tb).dev.bootTime = min ((tb - H.dev.releaseTb) / 100) 0xFFFFFFFF := by
  simp [Hall.beginSweep, hs]

end

/-! ### References (R98, R102, R620) -/

/-- R620: sweep 0, which the first reference starts. -/
def Hall.firstSweep (H : Hall) (h tb : Nat) : Hall :=
  ({ H with swp := { H.swp with lastRef := some tb } } : Hall).beginSweep h .unlocked false 0 tb tb

theorem Hall.reference_first {H : Hall} {h tb : Nat} {im : Image} (hs : H.swp.started = false) (hl : H.swp.lastRef = none)
    (hb : H.stair.beat = none) :
    H.reference h im tb = H.firstSweep h tb := by
  simp [Hall.reference, Hall.badPeriod, Hall.firstSweep, hs, hl, hb]

/-- R102: a reference that comes too early leaves the time of the last one. -/
theorem Hall.reference_early {H : Hall} {h tb l : Nat} {im : Image} (hl : H.swp.lastRef = some l) (ht : tb - l < 90 * im.timebase.minUs) :
    H.reference h im tb = { H with swp := { H.swp with refEarly := inc16 H.swp.refEarly } } := by
  simp [Hall.reference, hl, ht]

theorem State.reference_taken {s : State} {h : HallId} {src : RefSource} {tb : Nat} {im : Image} (hi : (s.hall h).image = some im)
    (ht : im.timebase.takes h.idx src = true) (ha : s.accepts h = true) :
    s.reference h src tb = s.onHall h fun H => H.reference h.idx im tb := by
  simp [State.reference, hi, ht, ha]

theorem State.reference_foreign {s : State} {h : HallId} {src : RefSource} {tb : Nat} {im : Image} (hi : (s.hall h).image = some im)
    (ht : im.timebase.takes h.idx src = false) : s.reference h src tb = s := by
  simp [State.reference, hi, ht]

/-! ### Free-running sweeps (R102, R119) -/

section
variable (H : Hall) (h n t0 tb : Nat)

@[simp] theorem Hall.freeSweep_sweep : (H.freeSweep h n t0 tb).swp.sweep = n % 2 ^ 32 := by unfold Hall.freeSweep; split <;> rfl
@[simp] theorem Hall.freeSweep_tick : (H.freeSweep h n t0 tb).swp.tick = 0 := by unfold Hall.freeSweep; split <;> rfl
@[simp] theorem Hall.freeSweep_t0 : (H.freeSweep h n t0 tb).swp.t0 = t0 := by unfold Hall.freeSweep; split <;> rfl
@[simp] theorem Hall.freeSweep_lock :
    (H.freeSweep h n t0 tb).swp.lock = if 0 < H.swp.holdLeft then .holdover else .generator := by
  unfold Hall.freeSweep; split <;> simp
@[simp] theorem Hall.freeSweep_holdLeft : (H.freeSweep h n t0 tb).swp.holdLeft = H.swp.holdLeft - 1 := by
  unfold Hall.freeSweep
  split
  · simp
  · next hl => rw [Hall.beginSweep_holdLeft]; omega

end

/-- R102: the sweep that the loss of the reference starts, with `left` holdover sweeps to run. -/
def Hall.lostSweep (H : Hall) (h left tb : Nat) : Hall :=
  ({ H with swp := { H.swp with
      holdLeft := left, relock := 0, relockReady := false, follower := false, timingLost := false, reanchor := false } } : Hall).freeSweep h
    (H.swp.sweep + 1) tb tb

theorem Hall.swp_of_bare {H K : Hall} (e : H.bare = K.bare) : H.swp = K.swp := (congrArg Hall.swp e :)

/-- R102: the loss of its reference starts a LOCKED hall's next sweep at once; the log entry and the event leave the sweep alone. -/
theorem State.referenceLost_swp {s : State} {h : HallId} {tb : Nat} {im : Image} (hi : (s.hall h).image = some im)
    (hs : (s.hall h).swp.started = true) (hl : (s.hall h).swp.lock = .locked) (ht : (s.hall h).swp.t0 + im.timebase.nominal * 3 / 2 ≤ tb) :
    ((s.referenceLost h tb).hall h).swp = ((s.hall h).lostSweep h.idx im.timebase.holdover tb).swp := by
  have hbare : (s.referenceLost h tb).bare = (s.onHall h fun H => H.lostSweep h.idx im.timebase.holdover tb).bare := by
    simp [State.referenceLost, State.refLost, Hall.lostSweep, hi, hs, hl, Nat.not_lt_of_le ht, State.bare_deviceEvent, State.bare_log]
  have hhall := State.bare_hall hbare h
  rw [State.hall_onHall] at hhall
  exact Hall.swp_of_bare hhall

theorem Hall.holdoverSweep_due {H : Hall} {h tb : Nat} (hl : H.swp.lock = .holdover) (hf : H.swp.follower = false)
    (ht : H.swp.t0 + H.swp.per ≤ tb) : H.holdoverSweep h tb = H.freeSweep h (H.swp.sweep + 1) (H.swp.t0 + H.swp.per) tb := by
  simp [Hall.holdoverSweep, hl, hf, Nat.not_lt_of_le ht]

theorem Hall.holdoverSweep_early {H : Hall} {h tb : Nat} (ht : tb < H.swp.t0 + H.swp.per) : H.holdoverSweep h tb = H := by
  simp [Hall.holdoverSweep, ht]

/-- R119: a generator that is not the reference starts the sweeps of a hall in GENERATOR that follows no BEATs. -/
theorem State.generatorSweep_due {s : State} {h : HallId} {tb : Nat} {im : Image} (hi : (s.hall h).image = some im) (hr : im.timebase.source ≠ 2)
    (hl : (s.hall h).swp.lock = .generator) (hf : (s.hall h).swp.follower = false) (ht : (s.hall h).swp.t0 + (s.hall h).swp.per ≤ tb) :
    s.generatorSweep h tb =
      s.onHall h fun H => H.beginSweep h.idx .generator false (H.swp.sweep + 1) (H.swp.t0 + H.swp.per) tb := by
  simp [State.generatorSweep, hi, hr, hl, hf, Nat.not_lt_of_le ht]

/-! ### Tick boundaries (R99, R102, R104) -/

section
variable {s : State} {h : HallId} {tb : Nat} (hu : (s.hall h).dev.up = true) (hs : (s.hall h).swp.started = true)
include hu hs

theorem State.tickBoundary_first (hd : (s.hall h).swp.boundaryDue = true) :
    s.tickBoundary h tb = ((s.boundary h).onHall h fun H => H.tickWork h.idx 0).pinCheck h := by
  simp [State.tickBoundary, hu, hs, hd]

variable (hd : (s.hall h).swp.boundaryDue = false)
include hd

theorem State.tickBoundary_early (hn : (s.hall h).swp.tick < 4095) (ht : tb < (s.hall h).tickStart ((s.hall h).swp.tick + 1)) :
    s.tickBoundary h tb = s := by
  simp [State.tickBoundary, hu, hs, hd, hn, ht]

/-- R104: every tick but 2,048, at which a readmission is confirmed too. -/
theorem State.tickBoundary_next (hn : (s.hall h).swp.tick < 4095) (hm : (s.hall h).swp.tick ≠ 2047)
    (ht : (s.hall h).tickStart ((s.hall h).swp.tick + 1) ≤ tb) :
    s.tickBoundary h tb = (s.onHall h fun H =>
      ({ H with swp := { H.swp with tick := H.swp.tick + 1 } } : Hall).tickWork h.idx (H.swp.tick + 1)).pinCheck h := by
  have hm' : (s.hall h).swp.tick + 1 ≠ 2048 := fun e => hm (Nat.succ.inj e)
  simp only [State.tickBoundary, hu, hs, hd, if_pos hn, if_neg (Nat.not_lt_of_le ht), if_neg hm', Bool.not_true, Bool.or_self,
    Bool.false_eq_true, if_false]
  exact congrArg (State.pinCheck · h) (State.onHall_congr rfl)

theorem State.tickBoundary_stretch (hn : (s.hall h).swp.tick = 4095) (hl : (s.hall h).swp.lock = .locked)
    (ht : (s.hall h).swp.t0 + (s.hall h).swp.per + (s.hall h).swp.per / 4096 < tb) :
    s.tickBoundary h tb = s.onHall h fun H => { H with swp := { H.swp with lock := .stretch } } := by
  simp [State.tickBoundary, hu, hs, hd, hn, hl, ht]

end

/-! ### The obligations -/

/-- Settles O22: what a reference does is read off `Hall.reference`; the loss of one changes the log and the events held too. -/
theorem referencesStartSweeps : Obligations.ReferencesStartSweeps := by
  refine ⟨fun s h src tb im hp hi ht ha hs hl hb => ?first, fun s h src tb l im hp hi ht ha hl he => ?early,
    fun s h src tb im hp hi ht => ?foreign, fun s h tb im hp hu hi hs hl ht hh => ?lost⟩
  case first =>
    refine Gives.of_live hp rfl ((State.reference_taken hi ht ha).trans
      (State.onHall_congr (g := fun H => H.firstSweep h.idx tb) (Hall.reference_first hs hl hb))) ?_
    have hother : ((s.whole fun _ => s.onHall h fun H => H.firstSweep h.idx tb).hall h.other).bare = (s.hall h.other).bare :=
      State.whole_hall_bare_of_bare (by rw [State.hall_other_onHall])
    have hper : ((s.hall h).firstSweep h.idx tb).swp.per = im.timebase.nominal := Hall.beginSweep_per_unlocked _ _ _ _ _ _ hi
    have hboot : ((s.hall h).firstSweep h.idx tb).dev.bootTime = min ((tb - (s.hall h).dev.releaseTb) / 100) 0xFFFFFFFF :=
      Hall.beginSweep_bootTime _ _ _ _ _ _ _ hs
    simp only [State.whole_hall_swp, State.whole_hall_mem, State.whole_hall_dev_stage, State.whole_hall_dev_bootTime, State.hall_onHall,
      hper, hboot, hother]
    simp [Hall.firstSweep]
  case early => exact State.next_live hp ((State.reference_taken hi ht ha).trans (State.onHall_congr (Hall.reference_early hl he)))
  case foreign => exact State.next_live hp (State.reference_foreign hi ht)
  case lost =>
    refine Gives.of_live hp rfl (State.ifUp_of_up hu _) ?_
    simp [State.referenceLost_swp hi hs hl ht, Hall.lostSweep, hh]

/-- Settles O23: in HOLDOVER a free-running sweep follows, which is the generator's once no holdover sweep is left. -/
theorem freeRunningSweeps : Obligations.FreeRunningSweeps := by
  refine ⟨fun s h tb hp hu hl hf ht => ?holdover, fun s h tb im hp hu hi hr hl hf ht => ?generator, fun s h tb hp ht hl => ?early⟩
  case holdover => exact Gives.of_live hp rfl (State.inHall_of_up hu
    (g := fun H => H.freeSweep h.idx (H.swp.sweep + 1) (H.swp.t0 + H.swp.per) tb) (Hall.holdoverSweep_due hl hf ht)) (by simp)
  case generator =>
    exact Gives.of_live hp rfl ((State.ifUp_of_up hu _).trans (State.generatorSweep_due hi hr hl hf ht)) (by simp)
  case early => exact State.next_live hp (State.inHall_of_fixed (Hall.holdoverSweep_early ht))

/-- Settles O24. That STRETCH shows at the first tick boundary at which the reference is late, tick 4,095 kept, is log entry 75's choice, and
that a flight is entered at each boundary log entry 134's. -/
theorem ticksFollowTheSweep : Obligations.TicksFollowTheSweep := by
  refine ⟨fun s h tb hp hu hs => ?_, fun H n => rfl, fun H => ⟨rfl, rfl, rfl, rfl, ?_⟩⟩
  · have next : ∀ {t : State}, s.tickBoundary h tb = t → exec (.tickBoundary h tb) s = .next (s.whole fun _ => t.flightEntry) := fun e =>
      State.next_live hp (congrArg State.flightEntry ((State.ifUp_of_up hu _).trans e))
    exact ⟨fun hd => next (State.tickBoundary_first hu hs hd), fun hd hn ht => next (State.tickBoundary_early hu hs hd hn ht),
      fun hd hn hm ht => next (State.tickBoundary_next hu hs hd hn hm ht), fun hd hn ht hl => next (State.tickBoundary_stretch hu hs hd hn hl ht)⟩
  · simp [Hall.advance]

end Sys2Proof.Machine
end

section
/-! Canonical NaNs of the number formats, and the compensated sum of S32C state (R159, R161, R162, R165). -/

namespace Sys2Proof.Machine

theorem Fp.eq_nan_of_isNan {x : Fp} (h : x.isNan = true) : x = .nan := by
  cases x with
  | nan => rfl
  | inf | fin => exact absurd h Bool.false_ne_true

/-! ### The greatest number of a format -/

/-- The greatest magnitude code that stands for a number or an infinity: the codes above it, up to the sign, are the NaNs. -/
def Format.lastMag (f : Format) : Nat := if f.special = 2 then (2 ^ f.eb - 1) * 2 ^ f.mb else f.maxCode

section
variable {f : Format}

theorem Format.maxCode_of_e4m3Nan (hs : f.special = 1) : f.maxCode = 2 ^ (f.eb + f.mb) - 2 := by
  simp [Format.maxCode, hs]

theorem Format.maxCode_of_ieee (hs : f.special = 2) : f.maxCode = (2 ^ f.eb - 1) * 2 ^ f.mb - 1 := by
  simp [Format.maxCode, hs]

theorem Format.maxCode_le_lastMag : f.maxCode ≤ f.lastMag := by
  unfold Format.lastMag
  split
  case isTrue hs => rw [Format.maxCode_of_ieee hs]; exact Nat.sub_le _ _
  case isFalse => exact Nat.le_refl _

/-- R159: formats with a NaN code and a non-empty exponent field. -/
def Format.HasNan (f : Format) : Prop := (f.special = 1 ∨ f.special = 2) ∧ 1 ≤ f.eb

/-- The magnitude codes end with the mantissas of the greatest exponent. -/
theorem Format.top_mul_add (f : Format) : (2 ^ f.eb - 1) * 2 ^ f.mb + 2 ^ f.mb = 2 ^ (f.eb + f.mb) := by
  rw [← Nat.succ_mul, Nat.succ_eq_add_one, Nat.sub_add_cancel Nat.one_le_two_pow, Nat.pow_add]

theorem Format.mantissas_le_top (he : 1 ≤ f.eb) : 2 ^ f.mb ≤ (2 ^ f.eb - 1) * 2 ^ f.mb :=
  Nat.le_mul_of_pos_left _ (Nat.sub_pos_of_lt (Nat.one_lt_two_pow (Nat.ne_of_gt he)))

theorem Format.HasNan.mantissas_le_maxCode (hf : f.HasNan) : 2 ^ f.mb ≤ f.maxCode + 1 := by
  obtain ⟨hs, he⟩ := hf
  have htop := Format.mantissas_le_top he
  have hall := f.top_mul_add
  have hone : 1 ≤ 2 ^ f.mb := Nat.one_le_two_pow
  rcases hs with hs | hs
  · rw [Format.maxCode_of_e4m3Nan hs]; omega
  · rw [Format.maxCode_of_ieee hs]; omega

theorem Format.HasNan.lastMag_lt (hf : f.HasNan) : f.lastMag < 2 ^ (f.eb + f.mb) := by
  have hall := f.top_mul_add
  have hone : 1 ≤ 2 ^ f.mb := Nat.one_le_two_pow
  unfold Format.lastMag
  split
  case isTrue => omega
  case isFalse hs => rw [Format.maxCode_of_e4m3Nan (hf.1.resolve_right hs)]; omega

/-- R159: a code without its sign is its exponent field above its mantissa field. -/
theorem Format.mag_eq_fields (f : Format) (c : Nat) : c % 2 ^ (f.eb + f.mb) = bits c f.mb f.eb * 2 ^ f.mb + bits c 0 f.mb := by
  rw [bits, bits, Nat.add_comm f.eb, Nat.pow_add, Nat.mod_mul, Nat.pow_zero, Nat.div_one, Nat.mul_comm, Nat.add_comm]

/-- R159: a NaN code has the greatest exponent; which of its mantissas are NaNs depends on the format. -/
theorem Format.fields_of_isNan {c : Nat} (h : (f.decode c).isNan = true) : bits c f.mb f.eb = 2 ^ f.eb - 1 ∧
    (f.special = 2 ∧ bits c 0 f.mb ≠ 0 ∨ f.special = 1 ∧ bits c 0 f.mb = 2 ^ f.mb - 1) := by
  unfold Format.decode at h
  dsimp only at h
  split at h
  case isTrue hc =>
    simp only [Bool.and_eq_true, decide_eq_true_eq] at hc
    obtain ⟨hs, hex⟩ := hc
    split at h
    case isTrue => exact absurd h Bool.false_ne_true
    case isFalse hm => exact ⟨hex, .inl ⟨hs, hm⟩⟩
  case isFalse =>
    split at h
    case isTrue hc =>
      simp only [Bool.and_eq_true, decide_eq_true_eq] at hc
      obtain ⟨⟨hs, hex⟩, hm⟩ := hc
      exact ⟨hex, .inr ⟨hs, hm⟩⟩
    case isFalse => split at h <;> exact absurd h Bool.false_ne_true

/-- A NaN code lies above every number and every infinity. -/
theorem Format.HasNan.lastMag_lt_of_isNan {c : Nat} (hf : f.HasNan) (h : (f.decode c).isNan = true) :
    f.lastMag < c % 2 ^ (f.eb + f.mb) := by
  have hall := f.top_mul_add
  have htop := Format.mantissas_le_top hf.2
  have hone : 1 ≤ 2 ^ f.mb := Nat.one_le_two_pow
  obtain ⟨hex, ⟨hs, hm⟩ | ⟨hs, hm⟩⟩ := Format.fields_of_isNan h
  · rw [f.mag_eq_fields, hex, Format.lastMag, if_pos hs]; omega
  · rw [f.mag_eq_fields, hex, hm, Format.lastMag, if_neg (by omega), Format.maxCode_of_e4m3Nan hs]; omega

/-! ### What a conversion produces (R162) -/

theorem Format.HasNan.encodeMag_le (hf : f.HasNan) (m : Nat) (e : Int) : (f.encodeMag m e).1 ≤ f.maxCode := by
  have hmant := hf.mantissas_le_maxCode
  unfold Format.encodeMag
  dsimp only
  generalize (if (quantize _ _ m e).1 ≥ _ then _ else _) = r
  split
  case isTrue => dsimp only; split <;> omega
  case isFalse =>
    split
    case isTrue => exact Nat.le_refl _
    case isFalse hc => exact Nat.le_of_not_lt hc

/-- R162: a format without infinities saturates. -/
def Format.Converts (f : Format) (saturates : Bool) : Prop := f.HasNan ∧ (saturates = true ∨ f.special = 2)

/-- A value that is not a NaN converts to a sign above the magnitude code of a number or an infinity. -/
theorem Format.Converts.toFloat_eq_sign_add {sat : Bool} (hf : f.Converts sat) {x : Fp} (hx : x ≠ .nan) :
    ∃ s : Bool, ∃ g ≤ f.lastMag, (toFloat f sat x).1 = (if s then 2 ^ (f.eb + f.mb) else 0) + g := by
  obtain ⟨hn, hsat⟩ := hf
  have hinf (hs : f.special = 2) : (2 ^ f.eb - 1) * 2 ^ f.mb ≤ f.lastMag := Nat.le_of_eq (if_pos hs).symm
  cases x with
  | nan => exact absurd rfl hx
  | inf s =>
    unfold toFloat
    dsimp only
    split
    case isTrue hs => exact ⟨s, _, hinf hs, rfl⟩
    case isFalse => exact ⟨s, _, Format.maxCode_le_lastMag, rfl⟩
  | fin s m e =>
    unfold toFloat
    dsimp only
    split
    case isTrue =>
      split
      case isTrue => exact ⟨s, _, Format.maxCode_le_lastMag, rfl⟩
      case isFalse hns => exact ⟨s, _, hinf (hsat.resolve_left hns), rfl⟩
    case isFalse => exact ⟨s, _, Nat.le_trans (hn.encodeMag_le m e) Format.maxCode_le_lastMag, rfl⟩

theorem Format.HasNan.sign_add_mod (hf : f.HasNan) (s : Bool) {g : Nat} (hg : g ≤ f.lastMag) :
    ((if s then 2 ^ (f.eb + f.mb) else 0) + g) % 2 ^ (f.eb + f.mb) = g := by
  have hlt : g < 2 ^ (f.eb + f.mb) := Nat.lt_of_le_of_lt hg hf.lastMag_lt
  cases s with
  | false => rw [if_neg Bool.false_ne_true, Nat.zero_add, Nat.mod_eq_of_lt hlt]
  | true => rw [if_pos rfl, Nat.add_mod_left, Nat.mod_eq_of_lt hlt]

/-- R161: a NaN comes of a NaN alone. -/
theorem Format.Converts.eq_nan {sat : Bool} (hf : f.Converts sat) {x : Fp} (h : (f.decode (toFloat f sat x).1).isNan = true) :
    x = .nan := Decidable.byContradiction fun hx => by
  obtain ⟨s, g, hg, hc⟩ := hf.toFloat_eq_sign_add hx
  have hlt := hf.1.lastMag_lt_of_isNan h
  rw [hc, hf.1.sign_add_mod s hg] at hlt
  exact Nat.not_lt_of_le hg hlt

end

/-- R161's table: each format's conversion with R162's choice at overflow, and the code that a NaN becomes. -/
theorem canonicalNan_of_mem {elem code : Nat} {f : Format} (h : (elem, code, f) ∈ [(9, 0x7FC00000, fmtFP32), (7, 0x7FC0, fmtBF16),
    (8, 0x7E00, fmtFP16), (5, 0x7F, fmtE4M3), (6, 0x7E, fmtE5M2)]) :
    ∃ sat, f.Converts sat ∧ convert elem = toFloat f sat ∧ (toFloat f sat .nan).1 = code ∧ f.decode code = .nan := by
  simp only [List.mem_cons, Prod.mk.injEq, List.not_mem_nil, or_false] at h
  rcases h with ⟨rfl, rfl, rfl⟩ | ⟨rfl, rfl, rfl⟩ | ⟨rfl, rfl, rfl⟩ | ⟨rfl, rfl, rfl⟩ | ⟨rfl, rfl, rfl⟩
  · exact ⟨false, ⟨⟨.inr rfl, by decide⟩, .inr rfl⟩, rfl, rfl, rfl⟩
  · exact ⟨false, ⟨⟨.inr rfl, by decide⟩, .inr rfl⟩, rfl, rfl, rfl⟩
  · exact ⟨false, ⟨⟨.inr rfl, by decide⟩, .inr rfl⟩, rfl, rfl, rfl⟩
  · exact ⟨true, ⟨⟨.inl rfl, by decide⟩, .inl rfl⟩, rfl, rfl, rfl⟩
  · exact ⟨true, ⟨⟨.inr rfl, by decide⟩, .inl rfl⟩, rfl, rfl, rfl⟩

/-! ### S32C state (R165) -/

theorem Elem.update_s32c (e : Elem) (d : Fp) (r : Nat) : Elem.update 11 e d r =
    ⟨e.s.add32 (d.add32 e.c), if (e.s.add32 (d.add32 e.c)).isNan || (e.s.add32 (d.add32 e.c)).isInf then Fp.zero
      else (d.add32 e.c).sub32 ((e.s.add32 (d.add32 e.c)).sub32 e.s)⟩ := rfl

/-! ### The obligation -/

/-- Settles O54: no number and no infinity of a format converts to a code as great as its NaNs; the compensated sum is `Elem.update`'s row. -/
theorem numbersKeepTheirCanonicalForms : Obligations.NumbersKeepTheirCanonicalForms := by
  refine ⟨fun elem code f h => ?formats, fun e d r => ?compensated⟩
  case formats =>
    obtain ⟨sat, hf, hconv, hcode, hnan⟩ := canonicalNan_of_mem h
    rw [hconv]
    refine ⟨hcode, fun x hx => ?_, fun c hc => (Fp.eq_nan_of_isNan hc).trans hnan.symm⟩
    obtain rfl := hf.eq_nan hx
    exact ⟨rfl, hcode⟩
  case compensated =>
    intro y t
    rw [Elem.update_s32c]
    refine ⟨rfl, fun hn hi => ?finite, fun h => ?special⟩
    case finite => exact if_neg (by rw [hn, hi]; exact Bool.false_ne_true)
    case special =>
      have hc : (t.isNan || t.isInf) = true := Bool.or_eq_true_iff.mpr h
      exact (congrArg Fp.bits32 (if_pos hc)).trans rfl

end Sys2Proof.Machine
end

section
/-! The checks that every issue shares (R302, R320, R536): when the lowest fault is none, what an issue that meets none answers, and conversely. -/

namespace Sys2Proof.Machine

/-! ### The lowest fault (R320) -/

@[simp] theorem lowest_nil : lowest [] = none := rfl

/-- No rule of a table is broken: the first is not, and none of the others. -/
@[simp] theorem lowest_cons_eq_none {b : Bool} {c : Nat} {l : List (Bool × Nat)} : lowest ((b, c) :: l) = none ↔ b = false ∧ lowest l = none := by
  cases b <;> simp [lowest, List.min?_eq_none_iff]

@[simp] theorem lowest_append_eq_none {l r : List (Bool × Nat)} : lowest (l ++ r) = none ↔ lowest l = none ∧ lowest r = none := by
  simp [lowest, List.min?_eq_none_iff]

@[simp] theorem withCode_eq_none {b : Bool} {c : Nat} {f : Option Nat} : withCode b c f = none ↔ b = false ∧ f = none := by
  cases b <;> simp [withCode]

/-! ### Ranges and markers -/

@[simp] theorem regionOk_eq_true {b n : Nat} : regionOk b n = true ↔ b + n ≤ 128 := decide_eq_true_iff

theorem Work.Sound.rngOk_all {w : Work} {R : Hall} {x : Ctx} (hw : w.Sound R x) : ((w.ins ++ w.outs).all fun r => R.rngOk x r) = true :=
  List.all_eq_true.mpr hw.ranges

theorem Work.Sound.inHalo_any {w : Work} {R : Hall} {x : Ctx} (hw : w.Sound R x) : w.outs.any Rng.inHalo = false :=
  List.any_eq_false.mpr fun r hr => Bool.eq_false_iff.mp (hw.halo r hr)

/-- R286: of two spans, each shares a byte with the other. -/
def pairMeets : List (Place × Nat × Nat) → Bool
  | [u, v] => spanMeet u v
  | _ => false

/-- R286: the spans of two outputs that lie apart do not meet, whether or not both hold a byte. -/
theorem pairMeets_of_apart : ∀ {l : List Rng}, l.length = 2 → Apart (l.take 1) (l.drop 1) → pairMeets (spans l) = false
  | [r, q], _, ha => by
    have hm : r.some? = true → q.some? = true → spanMeet r.span q.span = false := fun hr hq => by
      simpa [Apart, spans, anyMeet, hr, hq] using ha
    cases hr : r.some? <;> cases hq : q.some? <;> simp [pairMeets, spans, hr, hq, hm]

/-! ### An issue's answer -/

/-- R302, R320, R536: an issue builds where the footprint holds its ranges, no rule of its table is broken and it reads no marker. -/
theorem Hall.issueReading_eq_ok_iff {R : Hall} {x : Ctx} {w : Work} {reads : List Rng} {own : Option Nat} {b : Unit → Built} {c : Built} :
    R.issueReading x w reads own b = .ok c ↔
      x.footOk (w.ins ++ w.outs) = true ∧ own = none ∧ R.inputFault reads = none ∧ (b ()).withWork w = c := by
  unfold Hall.issueReading Ctx.issueBare Built.withWork
  cases hf : x.footOk (w.ins ++ w.outs) <;> cases own <;> cases hr : R.inputFault reads <;> simp

theorem Hall.issueWith_eq_ok_iff {R : Hall} {x : Ctx} {w : Work} {own : Option Nat} {b : Unit → Built} {c : Built} :
    R.issueWith x w own b = .ok c ↔
      x.footOk (w.ins ++ w.outs) = true ∧ own = none ∧ R.inputFault w.ins = none ∧ (b ()).withWork w = c :=
  Hall.issueReading_eq_ok_iff

theorem Hall.issueReading_of_none {R : Hall} {x : Ctx} {w : Work} {reads : List Rng} {own : Option Nat} (hf : x.footOk (w.ins ++ w.outs) = true)
    (ho : own = none) (hr : R.inputFault reads = none) (b : Unit → Built) : R.issueReading x w reads own b = .ok ((b ()).withWork w) :=
  Hall.issueReading_eq_ok_iff.mpr ⟨hf, ho, hr, rfl⟩

theorem Hall.issueWith_of_none {R : Hall} {x : Ctx} {w : Work} {own : Option Nat} (hf : x.footOk (w.ins ++ w.outs) = true) (ho : own = none)
    (hr : R.inputFault w.ins = none) (b : Unit → Built) : R.issueWith x w own b = .ok ((b ()).withWork w) :=
  Hall.issueReading_of_none hf ho hr b

/-! ### The rows of the engines (R284, R292) -/

/-- R292: the command that an engine takes is one whose descriptor its row accepts. -/
theorem Hall.want_of_pick {H : Hall} {h c cyc : Nat} {want : List Byte → Bool} {x : Ctx} {k : Cmd}
    (hp : H.pick h c cyc want = some (x, k)) : want k.desc = true := by
  obtain ⟨e, -, he⟩ := List.exists_of_findSome?_eq_some hp
  split at he
  · split at he
    · next y _ hw =>
      obtain rfl : y = (x, k) := Option.some.inj he
      exact hw
    · exact absurd he (Option.some_ne_none _).symm
  · exact absurd he (Option.some_ne_none _).symm

section
variable {s : State} {h : HallId} {c cyc : Nat} {want : List Byte → Bool} {run : Hall → Hall → Ctx → Cmd → Except Nat (Hall × Built)}
  {x : Ctx} {k : Cmd} (hp : ((s.hall h).onward cyc).pick h.idx c cyc want = some (x, k))
include hp

theorem State.issue_of_error {code : Nat} (hr : run ((s.hall h).onward cyc) ((s.hall h).onward cyc).settled x k = .error code) :
    s.issue h c cyc want run =
      (s.faultCmd h x k.pos k.op code k.kills (cyc - k.enq) (routeStop ((s.hall h).onward cyc) h.idx x k.desc)).afterAt h c cyc := by
  simp only [State.issue, hp, hr]

theorem State.issue_of_ok {H1 : Hall} {b : Built} (hr : run ((s.hall h).onward cyc) ((s.hall h).onward cyc).settled x k = .ok (H1, b)) :
    s.issue h c cyc want run =
      if ((s.hall h).onward cyc).pinsFull b then s else (s.onHall h fun _ => H1.started x k b cyc).afterAt h c cyc := by
  simp only [State.issue, hp, hr]

end

/-- R284, R290, R343: a row whose meaning is an engine's issue starts, holds back or faults the command that the engine takes. -/
theorem issues_of_issue {row : HallId → Nat → Nat → Instr} {want : List Byte → Bool}
    {run : HallId → Hall → Hall → Ctx → Cmd → Except Nat (Hall × Built)}
    (hrow : ∀ h c cyc s, exec (row h c cyc) s = .next (s.live fun s => s.issue h c cyc want (run h))) : Issues row want run := by
  intro s h c cyc x k hpor H hp
  refine ⟨fun H1 b hr => ⟨fun hfull => ?_, fun hfull => ?_⟩, fun code hr => ?_⟩
  · exact (hrow h c cyc s).trans (State.next_live hpor ((State.issue_of_ok hp hr).trans (by rw [hfull]; rfl)))
  · exact (hrow h c cyc s).trans (State.next_live hpor ((State.issue_of_ok hp hr).trans (by rw [hfull]; rfl)))
  · exact (hrow h c cyc s).trans (State.next_live hpor (State.issue_of_error hp hr))

/-- R292: a command that an engine takes and that is sound runs on what its operation then builds. -/
theorem Issues.runs {row : HallId → Nat → Nat → Instr} {want : List Byte → Bool}
    {run : HallId → Hall → Hall → Ctx → Cmd → Except Nat (Hall × Built)} (hi : Issues row want run)
    {sound : HallId → Hall → Hall → Ctx → Cmd → Prop} {made : HallId → Hall → Hall → Ctx → Cmd → Hall × Built}
    (hok : ∀ h H R x k, want k.desc = true → sound h H R x k → run h H R x k = .ok (made h H R x k)) : Runs row want sound made := by
  intro s h c cyc x k hpor H hp hs hfull
  obtain ⟨hstart, -⟩ := hi s h c cyc x k hpor hp
  exact (hstart _ _ (hok h H H.settled x k (Hall.want_of_pick hp) hs)).1 hfull

theorem plainIssue_eq_ok {f : Hall → Ctx → Cmd → Issue} {H R : Hall} {x : Ctx} {k : Cmd} {b : Built} (hf : f R x k = .ok b) :
    plainIssue f H R x k = .ok (H, b) := by
  unfold plainIssue
  rw [hf]

end Sys2Proof.Machine
end

section
/-! The mover's rows (R354 to R359). -/

namespace Sys2Proof.Machine

/-! ### COPY -/

theorem CopyCmd.fault_of_sound {a : CopyCmd} {R : Hall} {h : Nat} {x : Ctx} {d : List Byte} (hs : a.Sound R h x d) : a.fault R h x = none := by
  obtain ⟨hS, hD, hpS, hpD⟩ := hs.sides
  simp only [CopyCmd.fault, lowest_cons_eq_none, lowest_nil, and_true]
  refine ⟨?format, ?shape, ?align, ?sides, hs.apart, ?room, ?time, ?route⟩
  case format => grind [hs.format]
  case shape => grind [hs.shape]
  case align => grind [hs.align]
  case sides => simp [hS, hD, hpS, hpD]
  case room => grind [hs.room, regionOk]
  case time => simpa using hs.time
  case route => simp [hs.route]

theorem issueCopy_of_sound {H R : Hall} {h : Nat} {x : Ctx} {d : List Byte} (hs : (CopyCmd.ofDesc d).Sound R h x d) :
    issueCopy H R h x d = .ok ((CopyCmd.ofDesc d).counted H R h x, ((CopyCmd.ofDesc d).build R h x).withWork ((CopyCmd.ofDesc d).work R h x)) := by
  have ho : withCode (!zeros d 44 16 || !zeros d 62 2) 0x0601 ((CopyCmd.ofDesc d).fault R h x) = none :=
    withCode_eq_none.mpr ⟨by simp [hs.pad], CopyCmd.fault_of_sound hs⟩
  simp only [issueCopy, Hall.issueWith_of_none hs.footprint ho hs.inputs] <;> rfl

/-! ### PLACE -/

/-- R357: a stream named by an accepted PLACE is in its cache. -/
theorem PlaceSound.cacheFor_isSome {R : Hall} {x : Ctx} {d : List Byte} (hs : PlaceSound R x d) : (R.cacheFor x (fld d 20 4)).isSome = true := by
  obtain ⟨-, c, hc, -⟩ := hs.streams 0 hs.shape.1
  exact Option.isSome_of_eq_some hc

theorem issuePlace_of_sound {R : Hall} {x : Ctx} {d : List Byte} (hs : PlaceSound R x d) :
    issuePlace R x d = .ok { Built.empty with
      place := some (fld d 20 4, fld d 24 2, fld d 16 1 == 0), run := 32 + cdiv (placeEntries R x d) 16 } := by
  refine Hall.issueWith_of_none rfl ?_ rfl _
  simp only [lowest_cons_eq_none, lowest_nil, and_true]
  refine ⟨?format, ?shape, ?room, ?time, ?known, ?kept⟩
  case format => grind [hs.format]
  case shape => grind [hs.shape]
  case room => grind [hs.room, regionOk]
  case time => exact decide_eq_false (Nat.not_lt.mpr hs.time)
  case known =>
    simp only [Bool.or_eq_false_iff, List.any_eq_false, List.mem_map, List.mem_range]
    refine ⟨by simp [hs.cacheFor_isSome], ?_⟩
    rintro _ ⟨i, hi, rfl⟩
    obtain ⟨hh, c, hc, -⟩ := hs.streams i hi
    simp [hh, hc]
  case kept =>
    refine Bool.and_eq_false_imp.mpr fun _ => ?_
    simp only [List.any_eq_false, List.mem_map, List.mem_range]
    rintro _ ⟨i, hi, rfl⟩
    obtain ⟨-, c, hc, hl⟩ := hs.streams i hi
    simp [hc, hl]

/-- R357: what an accepted PLACE holds or releases. -/
theorem place_of_issuePlace {R : Hall} {x : Ctx} {d : List Byte} {b : Built} (hb : issuePlace R x d = .ok b) :
    b.place = some (fld d 20 4, fld d 24 2, fld d 16 1 == 0) ∧ fld d 16 1 ≤ 1 ∧ 1 ≤ fld d 24 2 ∧ fld d 24 2 ≤ 4096 ∧ b.writes = [] := by
  obtain ⟨-, ho, -, rfl⟩ := Hall.issueWith_eq_ok_iff.mp hb
  simp only [lowest_cons_eq_none] at ho
  obtain ⟨hformat, hshape, -⟩ := ho
  exact ⟨rfl, by grind, by grind, by grind, rfl⟩

/-! ### CELL_OP -/

/-- R358: what a CELL_OP builds: the SETs, the signals, or the SYNC message. -/
def cellBuilt (x : Ctx) (d : List Byte) : Built :=
  let cells := (List.range (fld d 18 2)).map fun i => (fld d 20 2 + i, fld d 24 4)
  { Built.empty with
    run := 32 + fld d 18 2
    sets := if fld d 16 1 = 0 then cells else []
    signals := if fld d 16 1 = 1 then cells else []
    stair := if fld d 16 1 = 2 then
        [{ kind := 0, cls := x.cls, len := 0, part := x.part, seq := 0, arg0 := fld d 20 2, arg1 := fld d 24 4, arg2 := b2n (bit (fld d 17 1) 0)
           data := [] }]
      else [] }

theorem issueCell_of_sound {R : Hall} {h : Nat} {x : Ctx} {d : List Byte} (hs : CellSound R h x d) : issueCell R h x d = .ok (cellBuilt x d) := by
  refine Hall.issueWith_eq_ok_iff.mpr ⟨rfl, ?_, rfl, ?_⟩
  · simp only [lowest_cons_eq_none, lowest_nil, and_true]
    refine ⟨?format, ?shape, ?cells, ?room, ?route⟩
    case format => grind [hs.format]
    case shape => grind [hs.shape]
    case cells =>
      split
      · next hfar => simp [(hs.far hfar).1]
      · next hnear =>
        simp only [Bool.not_eq_false', List.all_eq_true, List.mem_map, List.mem_range]
        rintro _ ⟨i, hi, rfl⟩
        simp [hs.cells hnear i hi]
    case room => grind [hs.room, regionOk]
    case route =>
      refine Bool.and_eq_false_imp.mpr fun hfar => ?_
      simp [(hs.far (eq_of_beq hfar)).2]
  · simp only [cellBuilt, Built.withWork, List.map_map, Function.comp_def]
    rfl

/-- R358: what an accepted CELL_OP builds. -/
theorem cellBuilt_of_issueCell {R : Hall} {h : Nat} {x : Ctx} {d : List Byte} {b : Built} (hb : issueCell R h x d = .ok b) :
    fld d 16 1 ≤ 2 ∧ 1 ≤ fld d 18 2 ∧ fld d 18 2 ≤ 256 ∧ b = cellBuilt x d := by
  obtain ⟨-, ho, -, rfl⟩ := Hall.issueWith_eq_ok_iff.mp hb
  simp only [lowest_cons_eq_none] at ho
  obtain ⟨hformat, hshape, -⟩ := ho
  refine ⟨by grind, by grind, by grind, ?_⟩
  simp only [cellBuilt, Built.withWork, List.map_map, Function.comp_def]
  rfl

/-- R285: a row of an opcode takes its own SUBOP, or one past the last. -/
theorem sub_of_opSub {op sub last : Nat} {d : List Byte} (hw : opSub op sub last d = true) : fld d 16 1 = sub ∨ last < fld d 16 1 := by
  simpa [opSub, opIs] using (Bool.and_eq_true_iff.mp hw).2

/-- Settles O28: each row is an engine's issue, and a descriptor that is sound breaks no row of its fault table. That what a command builds is fixed at
its issue is log entry 80's choice. -/
theorem moverCommandsIssue : Obligations.MoverCommandsIssue := by
  have hcopy : Issues .copy (opIs 0x10) (fun h H R x k => issueCopy H R h.idx x k.desc) := issues_of_issue fun _ _ _ _ => rfl
  have hhold : Issues .placeHold (opSub 0x11 0 1) (fun _ => plainIssue fun R x k => issuePlace R x k.desc) := issues_of_issue fun _ _ _ _ => rfl
  have hrelease : Issues .placeRelease (opSub 0x11 1 1) (fun _ => plainIssue fun R x k => issuePlace R x k.desc) :=
    issues_of_issue fun _ _ _ _ => rfl
  have hset : Issues .cellOpSet (opSub 0x12 0 2) (fun h => plainIssue fun R x k => issueCell R h.idx x k.desc) := issues_of_issue fun _ _ _ _ => rfl
  have hadd : Issues .cellOpAdd (opSub 0x12 1 2) (fun h => plainIssue fun R x k => issueCell R h.idx x k.desc) := issues_of_issue fun _ _ _ _ => rfl
  have hfar : Issues .farSignal (opSub 0x12 2 2) (fun h => plainIssue fun R x k => issueCell R h.idx x k.desc) := issues_of_issue fun _ _ _ _ => rfl
  refine ⟨hcopy, hhold, hrelease, hset, hadd, hfar, ?copy, ⟨?hold, ?release⟩, ⟨?set, ?add, ?far⟩, ?placed, ?cells⟩
  case copy => exact hcopy.runs fun h H R x k _ hs => issueCopy_of_sound hs
  case hold => exact hhold.runs fun h H R x k _ hs => plainIssue_eq_ok (issuePlace_of_sound hs)
  case release => exact hrelease.runs fun h H R x k _ hs => plainIssue_eq_ok (issuePlace_of_sound hs)
  case set =>
    refine hset.runs fun h H R x k hw hs => plainIssue_eq_ok ((issueCell_of_sound hs).trans ?_)
    have hop : fld k.desc 16 1 = 0 := (sub_of_opSub hw).resolve_right (Nat.not_lt.mpr hs.format.1)
    simp [cellBuilt, hop, Built.empty]
  case add =>
    refine hadd.runs fun h H R x k hw hs => plainIssue_eq_ok ((issueCell_of_sound hs).trans ?_)
    have hop : fld k.desc 16 1 = 1 := (sub_of_opSub hw).resolve_right (Nat.not_lt.mpr hs.format.1)
    simp [cellBuilt, hop, Built.empty]
  case far =>
    refine hfar.runs fun h H R x k hw hs => plainIssue_eq_ok ((issueCell_of_sound hs).trans ?_)
    have hop : fld k.desc 16 1 = 2 := (sub_of_opSub hw).resolve_right (Nat.not_lt.mpr hs.format.1)
    have hcount : fld k.desc 18 2 = 1 := hs.shape.2.2 hop
    simp [cellBuilt, hop, hcount, Built.empty]
  case placed => exact fun R x d b hb => place_of_issuePlace hb
  case cells =>
    intro R h x d b hb
    obtain ⟨hop, hlo, hhi, rfl⟩ := cellBuilt_of_issueCell hb
    exact ⟨hop, hlo, hhi, rfl, rfl, rfl, rfl⟩

end Sys2Proof.Machine
end

section
/-! The rows of the array and of state blocks: MATRIX, REC and STATE_OP (R153, R249). -/

namespace Sys2Proof.Machine

/-! ### MATRIX -/

theorem MatrixCmd.fault_of_sound {a : MatrixCmd} {R : Hall} {x : Ctx} (hs : a.Sound R x) : a.fault R x = none := by
  simp only [MatrixCmd.fault, lowest_cons_eq_none, lowest_nil, and_true]
  refine ⟨?format, ?shape, ?align, ?ranges, hs.apart, ?room, ?time⟩
  case format => simp [hs.format]
  case shape => simp [hs.shape]
  case align => simp [hs.align]
  case ranges =>
    have ho : (a.rngO x).inHalo = false := hs.work.halo _ (List.mem_singleton.mpr rfl)
    simp only [ho, hs.work.rngOk_all, Bool.not_true, Bool.or_false]
  case room => simp [MatrixCmd.accOk, show a.base + a.kb ≤ 128 from hs.work.region, hs.room]
  case time => simpa using hs.time

theorem issueMatrix_of_sound {R : Hall} {h : Nat} {x : Ctx} {d : List Byte} (hs : (MatrixCmd.ofDesc d).Sound R x) :
    issueMatrix R h x d = .ok (((MatrixCmd.ofDesc d).build R h x).withWork ((MatrixCmd.ofDesc d).work x)) :=
  Hall.issueWith_of_none hs.work.footprint (MatrixCmd.fault_of_sound hs) hs.inputs _

/-! ### REC -/

theorem RecCmd.fault_of_sound {a : RecCmd} {R : Hall} {x : Ctx} {hd : Block} {d : List Byte} (hs : a.Sound R x hd d) : a.fault R x hd = none := by
  obtain ⟨hyIn, hySt, hStIn⟩ := hs.apart
  have hheader := hs.header
  have hsince := hs.since
  simp only [RecCmd.fault, lowest_cons_eq_none, lowest_nil, and_true]
  refine ⟨?format, ?shape, ?align, ?ranges, ?apart, ?room, ?time, ?header, ?step, ?since⟩
  case format => simp [hs.format]
  case shape => grind [hs.shape]
  case align => grind [hs.align]
  case ranges => simp only [hs.work.rngOk_all, hs.work.inHalo_any, Bool.not_true, Bool.or_false]
  case apart => simp only [hyIn, hySt, hStIn, Bool.or_false]
  case room => simpa [show a.base + a.kb ≤ 128 from hs.work.region] using hs.room
  case time => simpa using hs.time
  case header => grind
  case step => grind
  case since => grind

theorem issueRec_of_sound {R : Hall} {h : Nat} {x : Ctx} {seed : Nat} {d : List Byte}
    (hs : (RecCmd.ofDesc d).Sound R x (headerAt R h x (RecCmd.ofDesc d).stAddr) d) :
    issueRec R h x seed d = .ok (((RecCmd.ofDesc d).build R h x (headerAt R h x (RecCmd.ofDesc d).stAddr) seed).withWork
      ((RecCmd.ofDesc d).work x)) :=
  Hall.issueWith_of_none hs.work.footprint (withCode_eq_none.mpr ⟨by simp [hs.pad], RecCmd.fault_of_sound hs⟩) hs.inputs _

/-! ### STATE_OP -/

theorem StateCmd.fault_of_sound {a : StateCmd} {R : Hall} {x : Ctx} {hd sh : Block} {d : List Byte} (hs : a.Sound R x hd sh d) :
    a.fault R x hd sh = none := by
  have hinit := hs.init
  have hanchor := hs.anchor
  simp only [StateCmd.fault, lowest_cons_eq_none, lowest_nil, and_true]
  refine ⟨?format, ?shape, ?align, ?state, ?ranges, ?apart, ?room⟩
  case format => grind [hs.op]
  case shape => grind
  case align => grind [hs.align]
  case state => grind
  case ranges => simp only [hs.work.rngOk_all, hs.work.inHalo_any, Bool.not_true, Bool.or_false]
  case apart => exact Bool.and_eq_false_imp.mpr hs.apart
  case room => simpa [show a.base + a.kb ≤ 128 from hs.work.region] using hs.room

theorem issueState_of_sound {R : Hall} {h : Nat} {x : Ctx} {seed : Nat} {d : List Byte}
    (hs : (StateCmd.ofDesc d).Sound R x (headerAt R h x (StateCmd.ofDesc d).dst) (headerAt R h x (StateCmd.ofDesc d).src) d) :
    issueState R h x seed d =
      .ok (((StateCmd.ofDesc d).build R h x (headerAt R h x (StateCmd.ofDesc d).dst) (headerAt R h x (StateCmd.ofDesc d).src) seed).withWork
        ((StateCmd.ofDesc d).work x (headerAt R h x (StateCmd.ofDesc d).dst) (headerAt R h x (StateCmd.ofDesc d).src))) :=
  Hall.issueWith_of_none hs.work.footprint (withCode_eq_none.mpr ⟨by simp [hs.pad], StateCmd.fault_of_sound hs⟩) hs.inputs _

/-- Settles O29: each row is an engine's issue, and a descriptor that is sound breaks no row of its fault table. -/
theorem arrayCommandsIssue : Obligations.ArrayCommandsIssue := by
  have hmatrix : Issues .matrix (opIs 0x20) (fun h => plainIssue fun R x k => issueMatrix R h.idx x k.desc) := issues_of_issue fun _ _ _ _ => rfl
  have hrec : Issues .recur (opIs 0x40) (fun h => plainIssue fun R x k => issueRec R h.idx x (seedOf h.idx k) k.desc) :=
    issues_of_issue fun _ _ _ _ => rfl
  have hinit : Issues .stateOpInit (opSub 0x41 0 1) (fun h => plainIssue fun R x k => issueState R h.idx x (seedOf h.idx k) k.desc) :=
    issues_of_issue fun _ _ _ _ => rfl
  have hanchor : Issues .stateOpAnchor (opSub 0x41 1 1) (fun h => plainIssue fun R x k => issueState R h.idx x (seedOf h.idx k) k.desc) :=
    issues_of_issue fun _ _ _ _ => rfl
  refine ⟨hmatrix, hrec, hinit, hanchor, ?matrix, ?rec, ?init, ?anchor⟩
  case matrix => exact hmatrix.runs fun h H R x k _ hs => plainIssue_eq_ok (issueMatrix_of_sound hs)
  case rec => exact hrec.runs fun h H R x k _ hs => plainIssue_eq_ok (issueRec_of_sound hs)
  case init => exact hinit.runs fun h H R x k _ hs => plainIssue_eq_ok (issueState_of_sound hs)
  case anchor => exact hanchor.runs fun h H R x k _ hs => plainIssue_eq_ok (issueState_of_sound hs)

end Sys2Proof.Machine
end

section
/-! The rows of attention and of the caches: ATTN, ATTN_MERGE, ATTN_BWD, KV_APPEND and KV_PAGEOP (R227). -/

namespace Sys2Proof.Machine

/-! ### ATTN -/

theorem AttnCmd.fault_of_sound {a : AttnCmd} {R : Hall} {h : Nat} {x : Ctx} {c : Cache} (hs : a.Sound R h x c) : a.fault R x = none := by
  obtain ⟨hapart, hpair⟩ := hs.apart
  obtain ⟨hqFmt, hoFmt, hallow, hpf, hrot, hflags, hstats⟩ := hs.format
  obtain ⟨hq, ho, haux, hstat, hbegin⟩ := hs.align
  simp only [AttnCmd.fault, hs.cache, List.cons_append, List.nil_append, lowest_cons_eq_none, lowest_nil, and_true]
  refine ⟨?format, ?shape, ?align, ?region, ?heads, ?ranges, ?apart, ?room, ?time, ?tokens, ?kept⟩
  case format =>
    have hany : (List.range 16).any (fun pf => bit a.allow pf && !(decide (pf < 8) && attnPair a.qFmt pf)) = false := by
      simpa using hpf
    rw [hany]
    grind
  case shape => grind [hs.shape]
  case align => grind
  case region => simp [show a.base + a.kb ≤ 128 from hs.work.region]
  case heads => grind [hs.shape]
  case ranges => simp only [hs.work.rngOk_all, hs.work.inHalo_any, Bool.not_true, Bool.or_false]
  case apart => exact Bool.or_eq_false_iff.mpr ⟨hapart, pairMeets_of_apart rfl hpair⟩
  case room => simpa using hs.room
  case time => simpa using hs.time
  case tokens => simpa using hs.tokens.1
  case kept => exact hs.tokens.2

theorem AttnCmd.faults_of_sound {a : AttnCmd} {R : Hall} {h : Nat} {x : Ctx} {c : Cache} (hs : a.Sound R h x c) : a.faults R h x = none := by
  simp only [AttnCmd.faults, AttnCmd.fault_of_sound hs, hs.route, Option.isSome_none, Bool.false_eq_true, if_false]

theorem issueAttn_of_sound {H R : Hall} {h : Nat} {x : Ctx} {n : Nat} {d : List Byte} {c : Cache} (hs : (AttnCmd.ofDesc d).Sound R h x c) :
    let a := AttnCmd.ofDesc d
    let gs := (a.run R h x c).flatMap (·.2)
    issueAttn H R h x n d = .ok (H.readPages c gs, { a.build R h x n c with
      ins := spans (a.work x c.prm).ins ++ gs.map (R.pageSpan c), outs := spans (a.work x c.prm).outs
      gsReads := gsBytes (a.work x c.prm).ins ++ R.pageReads c gs }) := by
  obtain ⟨hin, hpages⟩ := hs.inputs
  simp only [issueAttn, hs.cache, Hall.issueWith_of_none hs.work.footprint (AttnCmd.faults_of_sound hs) hin, hpages]
  rfl

/-! ### ATTN_MERGE -/

theorem MergeCmd.fault_of_sound {a : MergeCmd} {R : Hall} {x : Ctx} (hs : a.Sound R x) : a.fault R x = none := by
  obtain ⟨hapart, hpair⟩ := hs.apart
  obtain ⟨hoFmt, hflags, hstats⟩ := hs.format
  obtain ⟨hin, ho, hstat⟩ := hs.align
  simp only [MergeCmd.fault, lowest_cons_eq_none, lowest_nil, and_true]
  refine ⟨?format, ?shape, ?align, ?ranges, ?apart, ?room, ?time⟩
  case format => grind
  case shape => grind [hs.shape]
  case align => grind
  case ranges => simp only [hs.work.rngOk_all, hs.work.inHalo_any, Bool.not_true, Bool.or_false]
  case apart => exact Bool.or_eq_false_iff.mpr ⟨hapart, pairMeets_of_apart rfl hpair⟩
  case room => simpa [show a.base + a.kb ≤ 128 from hs.work.region] using hs.room
  case time => simpa using hs.time

theorem issueMerge_of_sound {R : Hall} {h : Nat} {x : Ctx} {d : List Byte} (hs : (MergeCmd.ofDesc d).Sound R x) :
    issueMerge R h x d = .ok (((MergeCmd.ofDesc d).build R h x).withWork ((MergeCmd.ofDesc d).work x)) :=
  Hall.issueWith_of_none hs.work.footprint (MergeCmd.fault_of_sound hs) hs.inputs _

/-! ### ATTN_BWD -/

theorem BwdCmd.fault_of_sound {a : BwdCmd} {R : Hall} {h : Nat} {x : Ctx} {c : Cache} {g : Page} (hs : a.Sound R h x c g) : a.fault R x = none := by
  obtain ⟨hapart, hpair⟩ := hs.apart
  simp only [BwdCmd.fault, hs.cache, List.cons_append, List.nil_append, lowest_cons_eq_none, lowest_nil, and_true]
  refine ⟨?format, ?shape, ?align, ?region, ?head, ?ranges, ?apart, ?room, ?time, ?page, hs.tokens⟩
  case format => grind [hs.format, hs.align]
  case shape => grind [hs.shape]
  case align => grind [hs.align]
  case region => simp [show a.base + a.kb ≤ 128 from hs.work.region]
  case head => grind [hs.shape]
  case ranges => simp only [hs.work.rngOk_all, hs.work.inHalo_any, Bool.not_true, Bool.or_false]
  case apart => exact Bool.or_eq_false_iff.mpr ⟨hapart, pairMeets_of_apart rfl hpair⟩
  case room => simpa using hs.room
  case time => simpa using hs.time
  case page => rw [hs.page]; rfl

theorem BwdCmd.faults_of_sound {a : BwdCmd} {R : Hall} {h : Nat} {x : Ctx} {c : Cache} {g : Page} (hs : a.Sound R h x c g) :
    a.faults R h x = none := by
  simp only [BwdCmd.faults, BwdCmd.fault_of_sound hs, hs.route, Option.isSome_none, Bool.false_eq_true, if_false]

theorem issueBwd_of_sound {H R : Hall} {h : Nat} {x : Ctx} {n : Nat} {d : List Byte} {c : Cache} {g : Page}
    (hs : (BwdCmd.ofDesc d).Sound R h x c g) :
    let a := BwdCmd.ofDesc d
    let gs := BwdCmd.fetched g
    issueBwd H R h x n d = .ok (H.readPages c gs, { a.build R h x n c g with
      ins := spans (a.work x c.prm).ins ++ gs.map (R.pageSpan c), outs := spans (a.work x c.prm).outs
      gsReads := gsBytes (a.work x c.prm).ins ++ R.pageReads c gs }) := by
  obtain ⟨hin, hpages⟩ := hs.inputs
  simp only [issueBwd, hs.cache, Hall.issueWith_of_none hs.work.footprint (BwdCmd.faults_of_sound hs) hin, hs.page, hpages]
  rfl

/-! ### KV_APPEND -/

theorem AppendCmd.fault_of_sound {a : AppendCmd} {H R : Hall} {h : Nat} {x : Ctx} {c : Cache} (hs : a.Sound H R h x c) : a.fault H h x = none := by
  obtain ⟨hk, hv, hrot⟩ := hs.align
  obtain ⟨hpos, hlost, htop⟩ := hs.tokens
  obtain ⟨hregion, hpages⟩ := hs.room
  simp only [AppendCmd.fault, hs.cache, List.cons_append, List.nil_append, lowest_cons_eq_none, lowest_nil, and_true]
  refine ⟨?format, ?shape, ?align, ?region, ?ranges, ?room, ?position, ?limit, ?frame, ?slot, hlost⟩
  case format => grind [hs.format]
  case shape => grind [hs.shape]
  case align => grind
  case region => simpa using hregion
  case ranges => simpa using hs.ranges
  case room => simpa using hpages
  case position => simpa using hpos
  case limit => simpa [htop] using hs.entries
  case frame => simpa using hs.frame
  case slot => simpa using hs.slot

theorem AppendCmd.faults_of_sound {a : AppendCmd} {H R : Hall} {h : Nat} {x : Ctx} {c : Cache} (hs : a.Sound H R h x c) :
    a.faults H R h x = none := by
  simp only [AppendCmd.faults, AppendCmd.fault_of_sound hs, hs.route, Option.isSome_none, Bool.false_eq_true, if_false]

theorem issueAppend_of_sound {H R : Hall} {h : Nat} {x : Ctx} {d : List Byte} {c : Cache} (hs : (AppendCmd.ofDesc d).Sound H R h x c) :
    let a := AppendCmd.ofDesc d
    let r := a.build H R h x c
    issueAppend H R h x d =
      .ok (r.1, { r.2 with ins := spans (a.work x c.prm).ins ++ a.reads H c, outs := [], gsReads := gsBytes (a.work x c.prm).ins }) := by
  have hf : x.footOk (((AppendCmd.ofDesc d).work x c.prm).ins ++ ((AppendCmd.ofDesc d).work x c.prm).outs) = true := hs.footprint
  simp only [issueAppend, hs.cache, Hall.issueWith_of_none hf (AppendCmd.faults_of_sound hs) hs.inputs]
  rfl

end Sys2Proof.Machine
end

section
/-! KV_PAGEOP (R206 to R209, R227). -/

namespace Sys2Proof.Machine

/-! ### The rules of its fault table -/

/-- R227: the rules that every KV_PAGEOP has. -/
def PageCmd.headRules (a : PageCmd) (R : Hall) (x : Ctx) : List (Bool × Nat) :=
  [(a.subop == 0 && !addrOk a.param, 0x0301), (a.subop == 0 && a.param % 64 != 0, 0x0303), (!((a.work x).ins.all fun r => R.rngOk x r), 0x0304),
    (!regionOk a.base a.kb || decide (a.kb < 1), 0x0306), (decide (5 < a.subop), 0x0310)]

/-- R206: the least region of an operation on a stream of cache c: FORK, TRUNCATE and SEAL build a page there. -/
def PageCmd.leastKb (a : PageCmd) (c : Cache) : Nat :=
  if a.subop = 2 || a.subop = 4 || a.subop = 5 then cdiv (pageBytes c.prm c.prm.stage + pageBytes c.prm c.prm.pfmt) 1024 else 1

/-- R202: the operation seals a slot, and there is no frame for it. -/
def PageCmd.noFrame (a : PageCmd) (H : Hall) (h : Nat) (x : Ctx) : Bool :=
  match a.seals H x with
  | none => false
  | some (_, k, _, _) => (H.allocFrame k.part k.dom (some k.num) k.prm.quota k.prm.slotGal k.prm.frameCode k.prm.tierFlags h).isNone

/-- R227: the further rules of an operation on a stream of cache c. -/
def PageCmd.streamRules (a : PageCmd) (H : Hall) (h : Nat) (x : Ctx) (c : Cache) : List (Bool × Nat) :=
  [(decide (a.kb < a.leastKb c), 0x0306), (a.noFrame H h x, 0x030D)]

section
variable {a : PageCmd} {H R : Hall} {h : Nat} {x : Ctx}

theorem PageCmd.fault_of_create (h0 : a.subop = 0) :
    a.fault H R h x = lowest (a.headRules R x ++
      [(!(H.geometryOk x.part (CacheParam.ofBytes (R.readAt h (x.placeOf a.param) (tierAddr a.param) 32))) || handleIdx a.stream != 0, 0x0310),
        (H.cacheTaken (handleCache a.stream), 0x0311)]) :=
  if_pos h0

theorem PageCmd.fault_of_destroy {c : Cache} (h1 : a.subop = 1) (hc : H.cache (handleCache a.stream) = some c) :
    a.fault H R h x = lowest (a.headRules R x ++
      [(c.part != x.part || c.dom != x.dom, 0x0309), (handleIdx a.stream != 0, 0x0310), (c.streams.any fun e => !e.2.isEmpty, 0x0311)]) := by
  simp only [PageCmd.fault, PageCmd.headRules, h1, hc] <;> rfl

theorem PageCmd.fault_of_fork {c e : Cache} (h2 : a.subop = 2) (hc : H.cacheFor x a.stream = some c) (he : H.cacheFor x a.src = some e) :
    a.fault H R h x = lowest ((a.headRules R x ++ a.streamRules H h x c) ++
      [((e.stream (handleIdx a.src)).entries.any fun y => decide (65535 ≤ ((H.frame y.frame).map (·.refs)).getD 0), 0x030F),
        (c.prm.hg != e.prm.hg || c.prm.d != e.prm.d || c.prm.frameCode != e.prm.frameCode, 0x0310),
        (!(c.stream (handleIdx a.stream)).isEmpty, 0x0311),
        ((c.stream (handleIdx a.stream)).lost || (e.stream (handleIdx a.src)).lost, 0x0312)]) := by
  simp only [PageCmd.fault, PageCmd.headRules, PageCmd.streamRules, PageCmd.leastKb, h2, hc, he] <;> rfl

theorem PageCmd.fault_of_drop {c : Cache} (h3 : a.subop = 3) (hc : H.cacheFor x a.stream = some c) :
    a.fault H R h x = lowest (a.headRules R x ++ a.streamRules H h x c) := by
  simp only [PageCmd.fault, PageCmd.headRules, PageCmd.streamRules, PageCmd.leastKb, h3, hc] <;> rfl

theorem PageCmd.fault_of_truncate {c : Cache} (h4 : a.subop = 4) (hc : H.cacheFor x a.stream = some c) :
    a.fault H R h x = lowest ((a.headRules R x ++ a.streamRules H h x c) ++
      [(decide ((c.stream (handleIdx a.stream)).len < a.tokens), 0x030A),
        ((a.cutEntry (c.stream (handleIdx a.stream))).isSome && H.askSlot h c == .none, 0x030E), ((c.stream (handleIdx a.stream)).lost, 0x0312)]) := by
  simp only [PageCmd.fault, PageCmd.headRules, PageCmd.streamRules, PageCmd.leastKb, h4, hc] <;> rfl

theorem PageCmd.fault_of_seal {c : Cache} (h5 : a.subop = 5) (hc : H.cacheFor x a.stream = some c) :
    a.fault H R h x = lowest ((a.headRules R x ++ a.streamRules H h x c) ++ [((c.stream (handleIdx a.stream)).lost, 0x0312)]) := by
  simp only [PageCmd.fault, PageCmd.headRules, PageCmd.streamRules, PageCmd.leastKb, h5, hc] <;> rfl

/-! ### Sound descriptors -/

theorem PageCmd.Sound.headRules_lowest (hs : a.Sound H R h x) (hop : a.subop ≤ 5) (hal : a.subop = 0 → At 64 a.param) :
    lowest (a.headRules R x) = none := by
  have hr : ((a.work x).ins.all fun r => R.rngOk x r) = true := List.all_eq_true.mpr hs.ranges
  simp only [PageCmd.headRules, lowest_cons_eq_none, lowest_nil, and_true]
  exact ⟨by grind, by grind, by simp [hr], by grind [hs.room, regionOk], by simpa using hop⟩

theorem PageCmd.SoundOn.streamRules_lowest {c : Cache} (hs : a.Sound H R h x) (hc : a.SoundOn H h x c) : lowest (a.streamRules H h x c) = none := by
  simp only [PageCmd.streamRules, lowest_cons_eq_none, lowest_nil, and_true]
  refine ⟨?room, ?frame⟩
  case room =>
    have hroom := hc.room
    grind [PageCmd.leastKb, hs.room]
  case frame =>
    unfold PageCmd.noFrame
    split
    · rfl
    · next y k n f hy => simpa using hc.frame y k n f hy

theorem PageCmd.CreateSound.fault_eq_none (hs : a.CreateSound H R h x) : a.fault H R h x = none := by
  obtain ⟨hidx, hfree⟩ := hs.handle
  have hop := hs.op
  rw [PageCmd.fault_of_create hop]
  simp [hs.sound.headRules_lowest (by omega) fun _ => hs.align, hs.geometry, hidx, hfree]

theorem PageCmd.DestroySound.fault_eq_none (hs : a.DestroySound H R h x) : a.fault H R h x = none := by
  obtain ⟨c, hc, hpart, hdom, hempty⟩ := hs.cache
  have hop := hs.op
  rw [PageCmd.fault_of_destroy hop hc]
  simpa [hs.sound.headRules_lowest (by omega) (by omega), hpart, hdom, hs.handle] using hempty

theorem PageCmd.ForkSound.fault_eq_none (hs : a.ForkSound H R h x) : a.fault H R h x = none := by
  obtain ⟨c, e, hc, he, hhg, hd, hframe, hempty, hlost, hlostSrc, hrefs⟩ := hs.caches
  have hop := hs.op
  rw [PageCmd.fault_of_fork hop hc.cache he]
  simpa [hs.sound.headRules_lowest (by omega) (by omega), hc.streamRules_lowest hs.sound, hhg, hd, hframe, hempty, hlost, hlostSrc] using hrefs

theorem PageCmd.DropSound.fault_eq_none (hs : a.DropSound H R h x) : a.fault H R h x = none := by
  obtain ⟨c, hc⟩ := hs.cache
  have hop := hs.op
  rw [PageCmd.fault_of_drop hop hc.cache]
  simp [hs.sound.headRules_lowest (by omega) (by omega), hc.streamRules_lowest hs.sound]

theorem PageCmd.TruncateSound.fault_eq_none (hs : a.TruncateSound H R h x) : a.fault H R h x = none := by
  obtain ⟨c, hc, hlen, hlost, hslot⟩ := hs.cache
  have hop := hs.op
  rw [PageCmd.fault_of_truncate hop hc.cache]
  simpa [hs.sound.headRules_lowest (by omega) (by omega), hc.streamRules_lowest hs.sound, hlen, hlost] using hslot

theorem PageCmd.SealSound.fault_eq_none (hs : a.SealSound H R h x) : a.fault H R h x = none := by
  obtain ⟨c, hc, hlost⟩ := hs.cache
  have hop := hs.op
  rw [PageCmd.fault_of_seal hop hc.cache]
  simp [hs.sound.headRules_lowest (by omega) (by omega), hc.streamRules_lowest hs.sound, hlost]

end

/-- R206 to R209: a KV_PAGEOP that breaks no rule builds what its operation gives. -/
theorem issuePage_of_sound {H R : Hall} {h : Nat} {x : Ctx} {d : List Byte} (hs : (PageCmd.ofDesc d).Sound H R h x)
    (ho : (PageCmd.ofDesc d).fault H R h x = none) :
    let a := PageCmd.ofDesc d
    let r := a.build H R h x
    issuePage H R h x d =
      .ok (r.1, { r.2 with ins := spans (a.work x).ins ++ a.reads H x, outs := [], gsReads := gsBytes (a.work x).ins }) := by
  have hf : x.footOk (((PageCmd.ofDesc d).work x).ins ++ ((PageCmd.ofDesc d).work x).outs) = true := hs.footprint
  have hroute : (PageCmd.ofDesc d).faults H R h x = none := by
    simp only [PageCmd.faults, ho, hs.route, Option.isSome_none, Bool.false_eq_true, if_false]
  simp only [issuePage, Hall.issueWith_of_none hf hroute hs.inputs]
  rfl

/-- Settles O30: each row is an engine's issue, and a descriptor that is sound breaks no row of R227's table. That frames and slots are reserved at
issue is log entry 21's reading, which routes a page needs log entry 88's choice. -/
theorem attentionCommandsIssue : Obligations.AttentionCommandsIssue := by
  have hattn : Issues .attn (opIs 0x30) (fun h H R x k => issueAttn H R h.idx x k.serial k.desc) := issues_of_issue fun _ _ _ _ => rfl
  have happend : Issues .kvAppend (opIs 0x31) (fun h H R x k => issueAppend H R h.idx x k.desc) := issues_of_issue fun _ _ _ _ => rfl
  have hcreate : Issues .kvPageopCreate (opSub 0x32 0 5) (fun h H R x k => issuePage H R h.idx x k.desc) := issues_of_issue fun _ _ _ _ => rfl
  have hdestroy : Issues .kvPageopDestroy (opSub 0x32 1 5) (fun h H R x k => issuePage H R h.idx x k.desc) := issues_of_issue fun _ _ _ _ => rfl
  have hfork : Issues .kvPageopFork (opSub 0x32 2 5) (fun h H R x k => issuePage H R h.idx x k.desc) := issues_of_issue fun _ _ _ _ => rfl
  have hdrop : Issues .kvPageopDrop (opSub 0x32 3 5) (fun h H R x k => issuePage H R h.idx x k.desc) := issues_of_issue fun _ _ _ _ => rfl
  have htruncate : Issues .kvPageopTruncate (opSub 0x32 4 5) (fun h H R x k => issuePage H R h.idx x k.desc) := issues_of_issue fun _ _ _ _ => rfl
  have hseal : Issues .kvPageopSeal (opSub 0x32 5 5) (fun h H R x k => issuePage H R h.idx x k.desc) := issues_of_issue fun _ _ _ _ => rfl
  have hmerge : Issues .attnMerge (opIs 0x33) (fun h => plainIssue fun R x k => issueMerge R h.idx x k.desc) := issues_of_issue fun _ _ _ _ => rfl
  have hbwd : Issues .attnBwd (opIs 0x34) (fun h H R x k => issueBwd H R h.idx x k.serial k.desc) := issues_of_issue fun _ _ _ _ => rfl
  refine ⟨hattn, happend, hcreate, hdestroy, hfork, hdrop, htruncate, hseal, hmerge, hbwd, ?attn, ?bwd, ?append, ?merge, ?create, ?destroy,
    ?fork, ?drop, ?truncate, ?sealing⟩
  case attn => exact fun c => hattn.runs fun h H R x k _ hs => issueAttn_of_sound hs
  case bwd => exact fun c g => hbwd.runs fun h H R x k _ hs => issueBwd_of_sound hs
  case append => exact fun c => happend.runs fun h H R x k _ hs => issueAppend_of_sound hs
  case merge => exact hmerge.runs fun h H R x k _ hs => plainIssue_eq_ok (issueMerge_of_sound hs)
  case create => exact hcreate.runs fun h H R x k _ hs => issuePage_of_sound hs.sound hs.fault_eq_none
  case destroy => exact hdestroy.runs fun h H R x k _ hs => issuePage_of_sound hs.sound hs.fault_eq_none
  case fork => exact hfork.runs fun h H R x k _ hs => issuePage_of_sound hs.sound hs.fault_eq_none
  case drop => exact hdrop.runs fun h H R x k _ hs => issuePage_of_sound hs.sound hs.fault_eq_none
  case truncate => exact htruncate.runs fun h H R x k _ hs => issuePage_of_sound hs.sound hs.fault_eq_none
  case sealing => exact hseal.runs fun h H R x k _ hs => issuePage_of_sound hs.sound hs.fault_eq_none

end Sys2Proof.Machine
end

section
/-! The vision rows: CONV, HALO_SEND, CROP_RESIZE, BOX_DECODE and NMS (R277). -/

namespace Sys2Proof.Machine

@[simp] theorem m64_eq_true {a : Nat} : m64 a = true ↔ a % 64 = 0 := by simp [m64]

/-! ### CONV -/

theorem ConvCmd.fault_of_sound {a : ConvCmd} {R : Hall} {x : Ctx} {d : List Byte} (hs : a.Sound R x d) : a.fault R x = none := by
  simp only [ConvCmd.fault, lowest_cons_eq_none, lowest_nil, and_true]
  refine ⟨?format, ?shape, ?align, ?ranges, hs.apart, ?room, ?time⟩
  case format => simp [hs.format]
  case shape => simp [hs.shape]
  case align => simp [hs.align]
  case ranges =>
    have ho : (a.rngO x).inHalo = false := hs.work.halo _ (List.mem_singleton.mpr rfl)
    simp only [hs.bands, ho, hs.work.rngOk_all, Bool.not_true, Bool.or_false]
  case room => simpa [show a.base + a.kb ≤ 128 from hs.work.region] using hs.room
  case time => simpa using hs.time

theorem issueConv_of_sound {R : Hall} {h : Nat} {x : Ctx} {d : List Byte} (hs : (ConvCmd.ofDesc d).Sound R x d) :
    issueConv R h x d = .ok (((ConvCmd.ofDesc d).build R h x).withWork ((ConvCmd.ofDesc d).work x)) :=
  Hall.issueWith_of_none hs.work.footprint (withCode_eq_none.mpr ⟨by simp [hs.pad], ConvCmd.fault_of_sound hs⟩) hs.inputs _

/-! ### HALO_SEND -/

theorem HaloCmd.fault_of_sound {a : HaloCmd} {R : Hall} {h : Nat} {x : Ctx} {d : List Byte} (hs : a.Sound R h x d) : a.fault R h x = none := by
  obtain ⟨hdest, hquarter, hflags⟩ := hs.format
  obtain ⟨hoff, hblock, hsegs⟩ := hs.align
  obtain ⟨hrt, hrow, hfits, hgal⟩ := hs.band
  obtain ⟨hregion, hkb⟩ := hs.room
  have hcell := hs.cell
  have hranges : ((a.rngSegs x).all fun r => R.rngOk x r) = true := List.all_eq_true.mpr hs.ranges
  simp only [HaloCmd.fault, lowest_cons_eq_none, lowest_nil, and_true]
  refine ⟨?format, ?shape, ?align, ?band, hs.apart, ?room, ?time, ?peer, ?route⟩
  case format => grind
  case shape => grind [hs.shape]
  case align =>
    have hall : (a.segs.all fun s => s.2.2 == 0 || addrOk s.1) = true := by
      simp only [List.all_eq_true, Bool.or_eq_true, beq_iff_eq]
      exact fun s hs => Classical.or_iff_not_imp_left.mpr (hsegs s hs)
    rw [hall]
    grind [m64]
  case band =>
    rw [hranges]
    grind
  case room => simpa [hregion] using hkb
  case time => simpa using hs.time
  case peer =>
    refine Bool.and_eq_false_imp.mpr fun hnear => ?_
    obtain ⟨n, hn, hf⟩ := hs.peer (of_decide_eq_true hnear)
    rw [hn]
    exact hf
  case route =>
    have hroute := hs.route
    grind

theorem issueHalo_of_sound {R : Hall} {h : Nat} {x : Ctx} {d : List Byte} (hs : (HaloCmd.ofDesc d).Sound R h x d) :
    issueHalo R h x d =
      .ok { ((HaloCmd.ofDesc d).build R h x).withWork ((HaloCmd.ofDesc d).work x) with outs := spans [(HaloCmd.ofDesc d).rngOut x] } := by
  have hf : x.footOk (((HaloCmd.ofDesc d).work x).ins ++ ((HaloCmd.ofDesc d).work x).outs) = true := by
    simpa [HaloCmd.work] using hs.footprint
  have ho : withCode (!zeros d 34 2 || !zeros d 62 2) 0x0501 ((HaloCmd.ofDesc d).fault R h x) = none :=
    withCode_eq_none.mpr ⟨by simp [hs.pad], HaloCmd.fault_of_sound hs⟩
  simp only [issueHalo, Ctx.issueBare, hf, ho]
  rfl

/-! ### CROP_RESIZE -/

theorem CropCmd.fault_of_sound {a : CropCmd} {R : Hall} {x : Ctx} {d : List Byte} (hs : a.Sound R x d) : a.fault R x = none := by
  simp only [CropCmd.fault, lowest_cons_eq_none, lowest_nil, and_true]
  refine ⟨?format, ?shape, ?align, ?ranges, hs.apart, ?room, ?time⟩
  case format => grind [hs.format]
  case shape => grind [hs.shape]
  case align => grind [hs.align, m64]
  case ranges => simp only [hs.work.rngOk_all, hs.work.inHalo_any, Bool.not_true, Bool.or_false]
  case room => simpa [show a.base + a.kb ≤ 128 from hs.work.region] using hs.room
  case time => simpa using hs.time

theorem issueCrop_of_sound {R : Hall} {h : Nat} {x : Ctx} {d : List Byte} (hs : (CropCmd.ofDesc d).Sound R x d) :
    issueCrop R h x d = .ok (((CropCmd.ofDesc d).build R h x).withWork ((CropCmd.ofDesc d).work x)) :=
  Hall.issueWith_of_none hs.work.footprint (withCode_eq_none.mpr ⟨by simp [hs.pad], CropCmd.fault_of_sound hs⟩) hs.inputs _

/-! ### BOX_DECODE -/

theorem BoxCmd.fault_of_sound {a : BoxCmd} {R : Hall} {x : Ctx} {d : List Byte} (hs : a.Sound R x d) : a.fault R x = none := by
  simp only [BoxCmd.fault, lowest_cons_eq_none, lowest_nil, and_true]
  refine ⟨?format, ?shape, ?align, ?ranges, hs.apart, ?room, ?time⟩
  case format => grind [hs.format]
  case shape => grind [hs.shape]
  case align => simp [hs.align]
  case ranges => simp only [hs.work.rngOk_all, hs.work.inHalo_any, Bool.not_true, Bool.or_false]
  case room => simpa [show a.base + a.kb ≤ 128 from hs.work.region] using hs.room
  case time => simpa using hs.time

theorem issueBox_of_sound {R : Hall} {h : Nat} {x : Ctx} {d : List Byte} (hs : (BoxCmd.ofDesc d).Sound R x d) :
    issueBox R h x d = .ok (((BoxCmd.ofDesc d).build R h x).withWork ((BoxCmd.ofDesc d).work x)) :=
  Hall.issueWith_of_none hs.work.footprint (withCode_eq_none.mpr ⟨by simp [hs.pad], BoxCmd.fault_of_sound hs⟩) hs.inputs _

/-! ### NMS -/

theorem NmsCmd.fault_of_sound {a : NmsCmd} {R : Hall} {h : Nat} {x : Ctx} (hs : a.Sound R h x) : a.fault R x = none := by
  obtain ⟨hl1, hl2, hk1, hk2, hm1, hm2, hnan, hneg, hone⟩ := hs.shape
  obtain ⟨hlists, hout, houtOk⟩ := hs.align
  simp only [NmsCmd.fault, lowest_cons_eq_none, lowest_nil, and_true]
  refine ⟨?format, ?shape, ?align, ?ranges, hs.apart, ?room, ?time⟩
  case format => simpa using hs.format
  case shape => simp [hl1, hl2, hk1, hk2, hm1, hm2, hnan, hneg, hone]
  case align =>
    have hm : (a.addrs.take a.lists ++ [a.outAddr]).all m64 = true := by
      simpa [hout] using fun l hl => (hlists l hl).1
    have ho : (a.addrs.take a.lists ++ [a.outAddr]).all addrOk = true := by
      simpa [houtOk] using fun l hl => (hlists l hl).2
    simp only [hm, ho, Bool.not_true, Bool.or_false]
  case ranges => simp only [hs.work.rngOk_all, hs.work.inHalo_any, Bool.not_true, Bool.or_false]
  case room => simpa [show a.base + a.kb ≤ 128 from hs.work.region] using hs.room
  case time => simpa using hs.time

theorem issueNms_of_sound {R : Hall} {h : Nat} {x : Ctx} {d : List Byte} (hs : (NmsCmd.ofDesc d).Sound R h x) :
    issueNms R h x d = .ok (((NmsCmd.ofDesc d).build R h x).withWork ((NmsCmd.ofDesc d).work x)) :=
  Hall.issueReading_of_none hs.work.footprint (NmsCmd.fault_of_sound hs) hs.inputs _

/-- Settles O31: each row is an engine's issue, and a descriptor that is sound breaks no row of R277's table. That a HALO_SEND copies the markers that
it reads is log entry 81's choice. -/
theorem visionCommandsIssue : Obligations.VisionCommandsIssue := by
  have hconv : Issues .conv (opIs 0x50) (fun h => plainIssue fun R x k => issueConv R h.idx x k.desc) := issues_of_issue fun _ _ _ _ => rfl
  have hhalo : Issues .haloSend (opIs 0x51) (fun h => plainIssue fun R x k => issueHalo R h.idx x k.desc) := issues_of_issue fun _ _ _ _ => rfl
  have hcrop : Issues .cropResize (opIs 0x52) (fun h => plainIssue fun R x k => issueCrop R h.idx x k.desc) := issues_of_issue fun _ _ _ _ => rfl
  have hbox : Issues .boxDecode (opIs 0x53) (fun h => plainIssue fun R x k => issueBox R h.idx x k.desc) := issues_of_issue fun _ _ _ _ => rfl
  have hnms : Issues .nms (opIs 0x54) (fun h => plainIssue fun R x k => issueNms R h.idx x k.desc) := issues_of_issue fun _ _ _ _ => rfl
  refine ⟨hconv, hhalo, hcrop, hbox, hnms, ?conv, ?crop, ?box, ?nms, ?halo⟩
  case conv => exact hconv.runs fun h H R x k _ hs => plainIssue_eq_ok (issueConv_of_sound hs)
  case crop => exact hcrop.runs fun h H R x k _ hs => plainIssue_eq_ok (issueCrop_of_sound hs)
  case box => exact hbox.runs fun h H R x k _ hs => plainIssue_eq_ok (issueBox_of_sound hs)
  case nms => exact hnms.runs fun h H R x k _ hs => plainIssue_eq_ok (issueNms_of_sound hs)
  case halo => exact hhalo.runs fun h H R x k _ hs => plainIssue_eq_ok (issueHalo_of_sound hs)

end Sys2Proof.Machine
end

section
/-! Fetching (R282 to R285, R288, R320) and the sequencer's own commands (R283). -/

namespace Sys2Proof.Machine

/-! ### COMMAND_FETCH -/

/-- R284, R288: the context's sequencer may fetch the command at its position. -/
structure Hall.Fetches (H : Hall) (h : Nat) (x : Ctx) : Prop where
  placed : x.placed = true
  resident : x.st = .resident
  fetching : x.fetching = true
  room : x.cmds.length < 8
  runs : H.coreRuns x.core = true
  published : H.fetchHeld h x x.fetch = false

/-- R284: the command that the fetch of descriptor d, outside a replay, puts into the queue of context x. -/
def Hall.fetched (H : Hall) (x : Ctx) (d : List Byte) (cyc : Nat) : Cmd :=
  { pos := x.fetch, serial := H.serial, desc := d, waitDone := !(bit (fld d 1 1) 0) || x.waitsMet.contains x.fetch, stage := .queued
    enq := cyc, issued := 0, commit := 0, killReq := none, killAt := 0, lockWaited := false, slotWaited := false, haloHeld := false
    kills := ((x.killsHad.find? fun e => e.1 == x.fetch).map (·.2)).getD 0
    readyAt := none, suppress := false, poisoned := none, built := Built.empty }

section
variable {s : State} {h : HallId} {ctx cyc : Nat} {x : Ctx} (hx : (s.hall h).ctx ctx = some x)
include hx

theorem State.fetch_of_idle (hi : x.fetching = false ∨ 8 ≤ x.cmds.length ∨ x.st ≠ .resident ∨ (s.hall h).fetchHeld h.idx x x.fetch = true) :
    s.fetch h ctx cyc = s := by
  simp only [State.fetch, hx]
  refine if_pos ?_
  rcases hi with hi | hi | hi | hi
  · simp [hi]
  · simp [Nat.not_lt.mpr hi]
  · simp [hi]
  · simp [hi]

variable (hf : (s.hall h).Fetches h.idx x)
include hf

theorem State.fetch_of_past (hp : x.desc.streamLen ≤ x.fetch) :
    s.fetch h ctx cyc = (s.faultCmd h x x.fetch 0 0x0106 0 0 0).afterAt h x.core cyc := by
  obtain ⟨hpl, hst, hfe, hroom, hruns, hheld⟩ := hf
  simp [State.fetch, hx, hpl, hst, hfe, hroom, hruns, hheld, Nat.not_lt.mpr hp]

variable {d : List Byte} (hp : x.fetch < x.desc.streamLen) (hd : (s.hall h).streamBytes h.idx x x.fetch = some d)
  (hm : (s.hall h).streamFault x x.fetch = none) (hr : x.replayTo ≤ x.fetch)
include hp hd hm hr

theorem State.fetch_of_fault {c : Nat} (hc : (s.hall h).headerFault h.idx x x.fetch d = some c) :
    s.fetch h ctx cyc = (s.faultCmd h x x.fetch (fld d 0 1) c 0 0 0).afterAt h x.core cyc := by
  obtain ⟨hpl, hst, hfe, hroom, hruns, hheld⟩ := hf
  simp [State.fetch, hx, hpl, hst, hfe, hroom, hruns, hheld, hp, hd, hm, hc, Nat.not_lt.mpr hr]

theorem State.fetch_of_sound (hc : (s.hall h).headerFault h.idx x x.fetch d = none) :
    s.fetch h ctx cyc = (s.onHall h fun H =>
      ({ H with serial := H.serial + 1 }.onCtx ctx fun y =>
        { y with fetch := x.fetch + 1, fetching := fld d 0 1 != 1, cmds := y.cmds ++ [(s.hall h).fetched x d cyc] }).testWait ctx
          ((s.hall h).fetched x d cyc)).afterAt h x.core cyc := by
  obtain ⟨hpl, hst, hfe, hroom, hruns, hheld⟩ := hf
  simp [State.fetch, hx, hpl, hst, hfe, hroom, hruns, hheld, hp, hd, hm, hc, Nat.not_lt.mpr hr, b2n, Hall.fetched]

end

/-- Settles O26: what the sequencer does is read off whether it may fetch, and off the descriptor's faults. -/
theorem fetchPlacesTheNextCommand : Obligations.FetchPlacesTheNextCommand := by
  refine ⟨fun s h ctx cyc x d hpor hx hpl hst hfe hroom hruns hheld hp hd hm hr => ⟨fun hc => ?placed, fun c hc => ?fault⟩,
    fun s h ctx cyc x hpor hx hpl hst hfe hroom hruns hheld hp => ?past, fun s h ctx cyc x hpor hx hi => ?idle⟩
  case placed =>
    refine State.next_live hpor ((State.fetch_of_sound hx ⟨hpl, hst, hfe, hroom, hruns, hheld⟩ hp hd hm hr hc).trans ?_)
    exact congrArg (fun t : State => t.afterAt h x.core cyc) (State.onHall_congr rfl)
  case fault => exact State.next_live hpor (State.fetch_of_fault hx ⟨hpl, hst, hfe, hroom, hruns, hheld⟩ hp hd hm hr hc)
  case past => exact State.next_live hpor (State.fetch_of_past hx ⟨hpl, hst, hfe, hroom, hruns, hheld⟩ hp)
  case idle => exact State.next_live hpor (State.fetch_of_idle hx hi)

/-! ### SYNC and END -/

section
variable {s : State} {h : HallId} {ctx op cyc : Nat} {x : Ctx} {k : Cmd} {r : List Cmd} (hx : (s.hall h).ctx ctx = some x) (hk : x.cmds = k :: r)
include hx hk

theorem State.sequencer_of_held (hi : k.op ≠ op ∨ k.waitDone = false) : s.sequencer h ctx op cyc = s := by
  simp only [State.sequencer, hx, hk]
  refine if_pos ?_
  rcases hi with hi | hi <;> simp [hi]

theorem State.sequencer_of_head (hop : k.op = op) (hw : k.waitDone = true) (hp : x.placed = true) (hq : k.stage = .queued) (hs : k.suppress = false) :
    s.sequencer h ctx op cyc =
      ((s.onHall h fun H0 =>
        let H := H0.onward cyc
        ((((H.onCore x.core fun c => { c with lastCommit := some (x.num, k.op, k.seq) }).count (12 * x.core + 7) 1).sampleCommit x.core x.num k.op
          k.seq).slotCommit x cyc).publishAll h.idx x { k with issued := cyc, commit := cyc }).finish h x { k with issued := cyc, commit := cyc }
            cyc).afterAt h x.core cyc := by
  simp [State.sequencer, hx, hk, hop, hw, hp, hq, hs]

end

/-- Settles O27: both commands are the sequencer's, told apart by the opcode that it looks for at the head of the queue. -/
theorem syncAndEndCommitAtTheHead : Obligations.SyncAndEndCommitAtTheHead := by
  refine ⟨fun s h ctx cyc op row x k r hpor hrow hx hk hop hw hp hq hs => ?head,
    fun s h ctx cyc x k r hpor hx hk => ⟨fun hi => ?endHeld, fun hi => ?syncHeld⟩⟩
  case head =>
    obtain ⟨rfl, rfl⟩ | ⟨rfl, rfl⟩ := hrow
    · exact State.next_live hpor (State.sequencer_of_head hx hk hop hw hp hq hs)
    · exact State.next_live hpor (State.sequencer_of_head hx hk hop hw hp hq hs)
  case endHeld => exact State.next_live hpor (State.sequencer_of_held hx hk hi)
  case syncHeld => exact State.next_live hpor (State.sequencer_of_held hx hk hi)

end Sys2Proof.Machine
end

section
/-! Commit points, publications, kills and overruns (R287 to R299). -/

namespace Sys2Proof.Machine

/-- The array clock moves no context. -/
@[simp] theorem Hall.onward_ctxs (H : Hall) (cyc : Nat) : (H.onward cyc).ctxs = H.ctxs := by
  unfold Hall.onward
  split <;> rfl

@[simp] theorem Hall.onward_ctx (H : Hall) (cyc n : Nat) : (H.onward cyc).ctx n = H.ctx n := by
  rw [Hall.ctx, Hall.ctx, Hall.onward_ctxs]

/-! ### The times of a commit point and of a publication's end -/

/-- R287, R299: a Running command whose run is over commits, where it reads no open publication and none that issued in the cycle reads its outputs. -/
theorem Hall.commits_eq_true {H : Hall} {k : Cmd} {cyc : Nat} (hst : k.stage = .running) (hk : k.killReq = none ∨ cyc ≤ k.killAt)
    (hrun : k.issued + k.built.run ≤ cyc) (hread : H.reading k = false) (hturn : H.outOfTurn k cyc = false) : H.commits k cyc = true := by
  rcases hk with hk | hk
  · simp [Hall.commits, hst, hk, hrun, hread, hturn]
  · simp [Hall.commits, hst, Nat.not_lt.mpr hk, hrun, hread, hturn]

theorem Hall.commits_eq_false {H : Hall} {k : Cmd} {cyc : Nat}
    (hi : k.stage ≠ .running ∨ cyc < k.issued + k.built.run ∨ k.killReq ≠ none ∧ k.killAt < cyc) :
    H.commits k cyc = false := by
  rcases hi with hi | hi | ⟨hreq, hat⟩
  · simp [Hall.commits, hi]
  · simp [Hall.commits, Nat.not_le.mpr hi]
  · simp [Hall.commits, Option.isSome_iff_ne_none.mpr hreq, hat]

/-- R287, R34, R351: a publication whose last byte has been sent ends in its turn. -/
theorem Hall.ends_eq_true {H : Hall} {x : Ctx} {k : Cmd} {cyc : Nat} (hst : k.stage = .publishing) (hsent : k.commit + pubTime x k.built ≤ cyc)
    (hb : H.behind x k = false) (hl : H.struckLater x.core k.built.sets = false) : H.ends x k cyc = true := by
  simp [Hall.ends, hst, hsent, hb, hl]

theorem Hall.ends_eq_false {H : Hall} {x : Ctx} {k : Cmd} {cyc : Nat} (hi : k.stage ≠ .publishing ∨ cyc < k.commit + pubTime x k.built) :
    H.ends x k cyc = false := by
  rcases hi with hi | hi
  · simp [Hall.ends, hi]
  · simp [Hall.ends, Nat.not_le.mpr hi]

section
variable {s : State} {h : HallId} {ctx pos cyc : Nat} {x : Ctx} {k : Cmd} (hx : (s.hall h).ctx ctx = some x) (hk : x.cmd pos = some k)
include hx hk

/-! ### COMMIT_POINT -/

theorem State.commitPoint_of_early (hc : ((s.hall h).onward cyc).commits k cyc = false) : s.commitPoint h ctx pos cyc = s := by
  simp [State.commitPoint, hx, hk, hc]

section
variable (hc : ((s.hall h).onward cyc).commits k cyc = true)
include hc

/-- R227: a run that ends in a fault ends the command in it. -/
theorem State.commitPoint_of_ends {code : Nat} (he : k.built.ends = some code) :
    s.commitPoint h ctx pos cyc = ((s.onHall h fun _ => (s.hall h).onward cyc).endRun h x k code cyc).afterAt h x.core cyc := by
  simp [State.commitPoint, hx, hk, hc, he]

variable (he : k.built.ends = none)
include he

/-- R266: a band that its receiver reads is held, and counted the first time. -/
theorem State.commitPoint_of_haloConflict (hh : ((s.hall h).onward cyc).haloConflict x k = true) (hn : k.haloHeld = false) :
    s.commitPoint h ctx pos cyc = s.onHall h fun H =>
      ((H.onGal (galOf x.core) fun G => { G with haloHolds := inc16 G.haloHolds }).count (1152 + 16 * galOf x.core + 3) 1).onCtx ctx fun y =>
        y.onCmd pos fun j => { j with haloHeld := true } := by
  simp [State.commitPoint, hx, hk, hc, he, hh, hn]

/-- R287: the commit point of a command that nothing holds. -/
theorem State.commitPoint_of_free (hh : ((s.hall h).onward cyc).haloConflict x k = false) (hs : k.suppress = false) :
    s.commitPoint h ctx pos cyc = (s.onHall h fun _ =>
      ((((((s.hall h).onward cyc).commit x k cyc).saveLate x k).commitDevice h.idx x k).slotCommit x cyc).unlock x k).afterAt h x.core cyc := by
  simp [State.commitPoint, hx, hk, hc, he, hh, hs]

end

/-! ### PUBLICATION_END -/

theorem State.publicationEnd_of_early (he : ((s.hall h).onward cyc).ends x k cyc = false) : s.publicationEnd h ctx pos cyc = s := by
  simp [State.publicationEnd, hx, hk, he]

theorem State.publicationEnd_of_ends (he : ((s.hall h).onward cyc).ends x k cyc = true) (hp : k.poisoned = none)
    (hr : ((((s.onHall h fun _ => ((s.hall h).onward cyc).publishAll h.idx x k).finish h x k cyc).hall h).core x.core).resetDue = false) :
    s.publicationEnd h ctx pos cyc =
      ((s.onHall h fun _ => ((s.hall h).onward cyc).publishAll h.idx x k).finish h x k cyc).afterAt h x.core cyc := by
  simp [State.publicationEnd, hx, hk, he, hp, hr]

/-! ### KILL_COMPLETE -/

theorem State.killComplete_of_idle (hi : k.stage ≠ .running ∨ k.killReq = none) : s.killComplete h ctx pos cyc = s := by
  simp only [State.killComplete, hx, hk]
  split
  · next hst hreq => simp_all
  · rfl

theorem State.killComplete_of_request {cause : KillCause} (hst : k.stage = .running) (hreq : k.killReq = some cause) :
    s.killComplete h ctx pos cyc = (s.killed h x k cause cyc).afterAt h x.core cyc := by
  simp [State.killComplete, hx, hk, hst, hreq]

/-! ### CMD_OVERRUN -/

theorem State.overrun_of_early (hi : k.stage ≠ .running ∨ cyc < k.issued + 65536) : s.overrun h ctx pos cyc = s := by
  simp only [State.overrun, hx, hk]
  exact if_pos (by simpa using hi)

theorem State.overrun_of_late (hst : k.stage = .running) (hl : k.issued + 65536 ≤ cyc) :
    s.overrun h ctx pos cyc = s.onHall h fun H => ((H.onward cyc).requestKill ctx pos .overrun).addLog 0x0403 x.core ctx 0 := by
  simp [State.overrun, hx, hk, hst, Nat.not_lt.mpr hl]

end

/-- R295: a kill whose cause is neither a cancel nor an overrun leaves the command to run again, or gone, and reports nothing. -/
theorem State.killed_of_other {s : State} {h : HallId} {x : Ctx} {k : Cmd} {cause : KillCause} {cyc : Nat} (hc : cause ≠ .cancel)
    (ho : cause ≠ .overrun) :
    s.killed h x k cause cyc = s.onHall h fun H => (H.releaseRun x.num k cyc cause.reruns true).countKill x.core cause := by
  cases cause with
  | cancel => exact absurd rfl hc
  | overrun => exact absurd rfl ho
  | preempt | swap | fallback | bank | fence => rfl

/-- R295: a cancelled command ends with a record of 0x0108. -/
theorem State.killed_of_cancel (s : State) (h : HallId) (x : Ctx) (k : Cmd) (cyc : Nat) :
    s.killed h x k .cancel cyc = (s.onHall h fun H =>
      ((H.releaseRun x.num k cyc false true).countKill x.core .cancel).onCtx x.num fun y => { y with lastFault := 0x0108 }).complete h x k.seq
        (recordBytes k.seq k.op 0 0x0108 k.kills (b2n x.moved) 0 (k.issued - k.enq)) := by
  simp only [State.killed, State.onHall_onHall, KillCause.reruns]

/-- Settles O32: each command acts where its own guard holds, which is what its clause asks, and leaves the state alone where it fails. That a command
acts on caches and frames at its commit point is log entry 324's choice, that it comes before what issues in its cycle log entry 325's reading, and the
turn of a publication's end log entry 264's. -/
theorem commandsCommitPublishAndDie : Obligations.CommandsCommitPublishAndDie := by
  intro s h ctx pos cyc x k hpor hx hk H
  refine ⟨fun hst hreq hrun hread hturn => ?commit, fun hi => ?commitEarly, fun hst hsent hb hl hp hr => ?publish, fun hi => ?publishEarly,
    fun cause hst hreq hc ho => ?kill, fun hst hreq => ?killOverrun, fun hst hreq => ?killCancel, fun hi => ?killIdle, fun hst hl => ?overrun,
    fun hi => ?overrunEarly⟩
  case commit =>
    have hc := Hall.commits_eq_true hst hreq hrun hread hturn
    refine ⟨fun he hh hs => ?free, fun he hh hn => ?held, fun code he => ?fault⟩
    case free => exact State.next_live hpor (State.commitPoint_of_free hx hk hc he hh hs)
    case held => exact State.next_live hpor (State.commitPoint_of_haloConflict hx hk hc he hh hn)
    case fault => exact State.next_live hpor (State.commitPoint_of_ends hx hk hc he)
  case commitEarly => exact State.next_live hpor (State.commitPoint_of_early hx hk (Hall.commits_eq_false hi))
  case publish => exact State.next_live hpor (State.publicationEnd_of_ends hx hk (Hall.ends_eq_true hst hsent hb hl) hp hr)
  case publishEarly => exact State.next_live hpor (State.publicationEnd_of_early hx hk (Hall.ends_eq_false hi))
  case kill =>
    refine State.next_live hpor ((State.killComplete_of_request hx hk hst hreq).trans ?_)
    rw [State.killed_of_other hc ho]
  case killOverrun => exact State.next_live hpor (State.killComplete_of_request hx hk hst hreq)
  case killCancel =>
    refine State.next_live hpor ((State.killComplete_of_request hx hk hst hreq).trans ?_)
    rw [State.killed_of_cancel]
  case killIdle => exact State.next_live hpor (State.killComplete_of_idle hx hk hi)
  case overrun => exact State.next_live hpor (State.overrun_of_late hx hk hst hl)
  case overrunEarly => exact State.next_live hpor (State.overrun_of_early hx hk hi)

end Sys2Proof.Machine
end

section
/-! Admission, swaps, frame moves and hall-cell signals (R309, R310, R341, R352). -/

namespace Sys2Proof.Machine

/-! ### Admission (R309) -/

theorem Hall.admitCtx_of_none {H : Hall} {c : Nat} (hw : H.nextWaiting c = none) (fuel h cyc : Nat) : Hall.admitCtx fuel H h c cyc = H := by
  cases fuel with
  | zero => rfl
  | succ fuel => simp only [Hall.admitCtx, hw]

theorem Hall.admitCtx_of_fits {H : Hall} {h c : Nat} {w : Ctx} (hw : H.nextWaiting c = some w) (ht : H.coreTakes c = true)
    (hd : H.pwr.drains.getLsbD (galOf c) = false) (hf : H.fits h w c = true) (fuel cyc : Nat) :
    Hall.admitCtx (fuel + 1) H h c cyc = Hall.admitCtx fuel (H.seat w c cyc) h c cyc := by
  simp [Hall.admitCtx, hw, ht, hd, hf]

/-! ### Swaps (R310) -/

theorem Hall.swapOutDone_of_saving {H : Hall} {h ctx cyc : Nat} {x : Ctx} {k : Cmd} {r : List Cmd} (hx : H.ctx ctx = some x) (hs : x.swap = .saving)
    (hk : x.cmds = k :: r) (ha : x.alive = true) (hd : H.pwr.drains.getLsbD (galOf x.core) = false) :
    H.swapOutDone h ctx cyc =
      Hall.admitCtx 32 (((H.onCtx ctx fun y =>
        { y with
          rslot := none, swap := .none, swapForced := false
          st := if y.st == .faulted || y.st == .ended || !y.alive then y.st else if k.waitDone then .waiting else .swapped
          waitSince := if !k.waitDone || y.st == .ended || !y.alive then none else some cyc
          acct := { y.acct with swapOuts := y.acct.swapOuts + 1 } }).onGal (galOf x.core) fun G => { G with swapOuts := inc16 G.swapOuts }).count
            (12 * x.core + 11) 1) h x.core cyc := by
  cases hw : k.waitDone <;> simp [Hall.swapOutDone, hx, hs, hk, ha, hd, hw]

theorem Hall.swapInDone_of_restoring {H : Hall} {ctx : Nat} {x : Ctx} {v : Saved} (hx : H.ctx ctx = some x) (hs : x.swap = .restoring)
    (hv : x.saved = some v) (hm : v.marks = []) :
    H.swapInDone ctx =
      let H1 := H.onCore x.core fun c =>
        { v.bytes.foldl (fun (k : Core) r => k.invalidate r.1 r.2.length) c with op := v.bytes.foldl (fun st r => st.write r.1 r.2) c.op }
      (v.frames.foldl (fun H n => H.freeFrame n) H1).onCtx ctx fun y => { y with swap := .none, saved := none } := by
  simp [Hall.swapInDone, hx, hs, hv, hm]

/-! ### Frame moves and hall cells (R341, R352) -/

theorem Hall.frameMoveCommit_of_home {H : Hall} {n b i : Nat} {f : Frame} (hf : H.frame n = some f) (hs : f.st = .movingDown)
    (hp : f.piece = some (b, i)) (hv : f.homeValid = true) (hn : f.pins = 0) (h : Nat) :
    H.frameMoveCommit h n =
      let H2 := (H.onFrame n fun f => { f with st := .dram, piece := none, forced := false }).tidyBlocks f.gal
      let H3 := ({ H2 with mem := { H2.mem with movesDown := inc16 H2.mem.movesDown } }).count (1152 + 16 * f.gal + 6) 1
      ((Hall.shrinkArea 97 H3 f.gal).holdsChanged f.moveCls).promote := by
  simp [Hall.frameMoveCommit, hf, hs, hp, hv, hn]

theorem Hall.cellArrive_of_cons {H : Hall} {i v : Nat} {set : Bool} {r : List (Nat × Nat × Bool)} (hq : H.mem.cellQueue = (i, v, set) :: r)
    (h : Nat) :
    H.cellArrive h =
      let H1 : Hall := { H with mem := { H.mem with cellQueue := r } }
      (if set then H1.setCell i v else H1.addCell i v).wake wakeFuel h i := by
  simp only [Hall.cellArrive, hq]

/-- Settles O33: each command's operation is read off the case that its clause describes. What a save waits for is log entry 323's choice, that
evictions count among the moves down log entry 22's reading, and that a frame's move commits in a cycle of its own log entry 328's choice. -/
theorem contextsSwapAndAdmit : Obligations.ContextsSwapAndAdmit := by
  refine ⟨fun s h c cyc w hpor hw ht hd hf => ?seats, fun s h c cyc hpor hw => ?none,
    fun s h ctx cyc x k r hpor hx hs hk ha hst hd => ?swapOut, fun s h ctx cyc x v hpor hx hs hv hm => ?swapIn,
    fun s h n b i f hpor hf hs hp hv hn => ?move, fun s h i v set r hpor hq => ?signal⟩
  case seats =>
    refine State.next_live hpor (congrArg (fun t : State => t.afterAt h c cyc) (State.onHall_congr ?_))
    exact Hall.admitCtx_of_fits hw ht hd hf 31 cyc
  case none =>
    refine State.next_live hpor (congrArg (fun t : State => t.afterAt h c cyc) (State.onHall_congr ?_))
    exact Hall.admitCtx_of_none hw 32 h.idx cyc
  case swapOut =>
    exact State.next_live hpor (State.onHall_congr (congrArg (Hall.after · h.idx) (Hall.swapOutDone_of_saving hx hs hk ha hd)))
  case swapIn =>
    have hcore : (((s.hall h).ctx ctx).map fun (x : Ctx) => x.core).getD 0 = x.core := by rw [hx]; rfl
    refine (State.next_live hpor ?_ : exec (.swapInDone h ctx cyc) s = _)
    rw [hcore]
    exact congrArg (fun t : State => t.afterAt h x.core cyc) (State.onHall_congr (Hall.swapInDone_of_restoring hx hs hv hm))
  case move =>
    exact State.next_live hpor (State.onHall_congr (congrArg (Hall.after · h.idx) (Hall.frameMoveCommit_of_home hf hs hp hv hn h.idx)))
  case signal => exact State.next_live hpor (State.onHall_congr (congrArg (Hall.after · h.idx) (Hall.cellArrive_of_cons hq h.idx)))

end Sys2Proof.Machine
end

section
/-! Sync cells and byte memories: what is written is read back (R325, R348, R349, R536). -/

namespace Sys2Proof.Machine

/-! ### A sparse table's entry set -/

section
variable {k j : Nat} (x v : Nat) (r : List (Nat × Nat))

theorem tset_cons_of_lt (h : k < j) : tset ((j, x) :: r) k v = if v = 0 then (j, x) :: r else (k, v) :: (j, x) :: r := if_pos h

theorem tset_cons_same : tset ((k, x) :: r) k v = if v = 0 then r else (k, v) :: r := by simp [tset]

theorem tset_cons_of_gt (h : j < k) : tset ((j, x) :: r) k v = (j, x) :: tset r k v := by
  simp [tset, Nat.lt_asymm h, Nat.ne_of_gt h]

end

@[simp] theorem tget_cons_same (k v : Nat) (r : List (Nat × Nat)) : tget ((k, v) :: r) k = v := if_pos rfl

theorem tget_cons_of_ne {j k : Nat} (h : j ≠ k) (v : Nat) (r : List (Nat × Nat)) : tget ((j, v) :: r) k = tget r k := if_neg h

/-- R348: a cell that is not listed reads 0. -/
theorem tget_of_absent {k : Nat} {t : List (Nat × Nat)} (h : ∀ e ∈ t, e.1 ≠ k) : tget t k = 0 := by
  induction t with
  | nil => rfl
  | cons e r ih =>
    obtain ⟨he, hr⟩ := List.forall_mem_cons.1 h
    exact (tget_cons_of_ne he e.2 r).trans (ih hr)

theorem tget_tset_other {k b : Nat} (hb : b ≠ k) (t : List (Nat × Nat)) (v : Nat) : tget (tset t k v) b = tget t b := by
  induction t with
  | nil => by_cases hv : v = 0 <;> simp [tset, tget, hv, hb.symm]
  | cons e r ih =>
    obtain ⟨j, x⟩ := e
    rcases Nat.lt_trichotomy k j with hlt | rfl | hgt
    · rw [tset_cons_of_lt x v r hlt]
      split
      · rfl
      · exact tget_cons_of_ne hb.symm v _
    · rw [tset_cons_same, tget_cons_of_ne hb.symm]
      split
      · rfl
      · exact tget_cons_of_ne hb.symm v r
    · rw [tset_cons_of_gt x v r hgt]
      simp only [tget, ih]

/-- A value other than 0 is listed in front of every other entry of its key, in whatever order the table lists them. -/
theorem tget_tset_of_pos {v : Nat} (hv : 0 < v) (t : List (Nat × Nat)) (k : Nat) : tget (tset t k v) k = v := by
  have hv0 : v ≠ 0 := Nat.ne_of_gt hv
  induction t with
  | nil => simp [tset, hv0]
  | cons e r ih =>
    obtain ⟨j, x⟩ := e
    rcases Nat.lt_trichotomy k j with hlt | rfl | hgt
    · simp [tset_cons_of_lt x v r hlt, hv0]
    · simp [tset_cons_same, hv0]
    · rw [tset_cons_of_gt x v r hgt, tget_cons_of_ne (Nat.ne_of_lt hgt), ih]

/-- In a rising table a key has one entry at most, so setting it to 0 takes it out. -/
theorem tget_tset_zero {t : List (Nat × Nat)} (ht : t.Pairwise fun a b => a.1 < b.1) (k : Nat) : tget (tset t k 0) k = 0 := by
  induction t with
  | nil => rfl
  | cons e r ih =>
    obtain ⟨j, x⟩ := e
    obtain ⟨hj, hr⟩ := List.pairwise_cons.1 ht
    rcases Nat.lt_trichotomy k j with hlt | rfl | hgt
    · rw [tset_cons_of_lt x 0 r hlt, if_pos rfl]
      refine tget_of_absent (List.forall_mem_cons.2 ⟨Nat.ne_of_gt hlt, fun e he => ?_⟩)
      exact Nat.ne_of_gt (Nat.lt_trans hlt (hj e he))
    · rw [tset_cons_same, if_pos rfl]
      exact tget_of_absent fun e he => Nat.ne_of_gt (hj e he)
    · rw [tset_cons_of_gt x 0 r hgt, tget_cons_of_ne (Nat.ne_of_lt hgt), ih hr]

theorem mem_tset {k v : Nat} {t : List (Nat × Nat)} {e : Nat × Nat} (h : e ∈ tset t k v) : e.1 = k ∨ e ∈ t := by
  induction t with
  | nil => grind [tset]
  | cons d r ih =>
    obtain ⟨j, x⟩ := d
    rcases Nat.lt_trichotomy k j with hlt | rfl | hgt
    · rw [tset_cons_of_lt x v r hlt] at h
      grind
    · rw [tset_cons_same] at h
      grind
    · rw [tset_cons_of_gt x v r hgt] at h
      grind

theorem tset_rising {t : List (Nat × Nat)} (ht : t.Pairwise fun a b => a.1 < b.1) (k v : Nat) :
    (tset t k v).Pairwise fun a b => a.1 < b.1 := by
  induction t with
  | nil => by_cases hv : v = 0 <;> simp [tset, hv]
  | cons e r ih =>
    obtain ⟨j, x⟩ := e
    obtain ⟨hj, hr⟩ := List.pairwise_cons.1 ht
    rcases Nat.lt_trichotomy k j with hlt | rfl | hgt
    · rw [tset_cons_of_lt x v r hlt]
      split
      · exact ht
      · exact List.pairwise_cons.2 ⟨List.forall_mem_cons.2 ⟨hlt, fun e he => Nat.lt_trans hlt (hj e he)⟩, ht⟩
    · rw [tset_cons_same]
      split
      · exact hr
      · exact List.pairwise_cons.2 ⟨hj, hr⟩
    · rw [tset_cons_of_gt x v r hgt]
      refine List.pairwise_cons.2 ⟨fun e he => ?_, ih hr⟩
      rcases mem_tset he with hk | hm
      · exact Nat.lt_of_lt_of_eq hgt hk.symm
      · exact hj e hm

/-! ### Sync cells (R348, R349) -/

@[simp] theorem Hall.addLog_mem (H : Hall) (code unit arg port : Nat) : (H.addLog code unit arg port).mem = H.mem := by
  simp only [Hall.addLog]

@[simp] theorem Hall.setCell_mem (H : Hall) (i v : Nat) : (H.setCell i v).mem = { H.mem with cells := tset H.mem.cells i v } := rfl

/-- R349: a signal either fits, and the cell takes the sum, or saturates, and that counts. -/
theorem Hall.addCell_mem (H : Hall) (i k : Nat) :
    (H.addCell i k).mem =
      if 0xFFFFFFFF < H.cell i + k then { H.mem with cells := tset H.mem.cells i 0xFFFFFFFF, syncSat := inc8 H.mem.syncSat }
      else { H.mem with cells := tset H.mem.cells i (H.cell i + k) } := by
  have hcount : (if i < 8192 then H.count (1152 + 16 * (i / 1024) + 4) 1 else H.count (1664 + 11) 1).mem = H.mem := by split <;> simp
  by_cases hsat : 0xFFFFFFFF < H.cell i + k
  · simp only [Hall.addCell, gt_iff_lt, hsat, if_true, Hall.addLog_mem, Hall.setCell_mem, hcount]
  · simp only [Hall.addCell, gt_iff_lt, hsat, if_false, Hall.setCell_mem, hcount]

theorem Hall.addCell_cells (H : Hall) (i k : Nat) : (H.addCell i k).mem.cells = tset H.mem.cells i (min (H.cell i + k) 0xFFFFFFFF) := by
  rw [Hall.addCell_mem]
  split
  next h => rw [Nat.min_eq_right (Nat.le_of_lt h)]
  next h => rw [Nat.min_eq_left (Nat.le_of_not_lt h)]

theorem Hall.addCell_syncSat (H : Hall) (i k : Nat) :
    (H.addCell i k).mem.syncSat = if 0xFFFFFFFF < H.cell i + k then inc8 H.mem.syncSat else H.mem.syncSat := by
  rw [Hall.addCell_mem]
  split <;> rfl

/-- Settles O34: both operations set one key of the table of cells, a signal to the sum held at 0xFFFF_FFFF. -/
theorem signalsSaturateAndSetsReplace : Obligations.SignalsSaturateAndSetsReplace := by
  intro H i j k v
  simp only [Hall.cell, Hall.addCell_cells, Hall.setCell_mem]
  refine ⟨fun h => ?_, fun hv => ?_, fun hj => ⟨?_, ?_⟩, Hall.addCell_syncSat H i k, fun hr => ⟨?_, ?_, ?_⟩⟩
  · exact tget_tset_of_pos (by omega) _ _
  · exact tget_tset_of_pos hv _ _
  · exact tget_tset_other hj _ _
  · exact tget_tset_other hj _ _
  · exact tget_tset_zero hr i
  · exact tset_rising hr _ _
  · exact tset_rising hr _ _

/-! ### Memories that read alike (R325, R536) -/

@[simp] theorem cellAt_cons_same (j : Nat) (x : Byte) (r : List (Nat × Byte)) : cellAt ((j, x) :: r) j = some x := if_pos rfl

theorem cellAt_cons_of_lt {j a : Nat} {x : Byte} {r : List (Nat × Byte)} {lo : Nat} (hl : risingFrom lo ((j, x) :: r) = true) (ha : a < j) :
    cellAt ((j, x) :: r) a = none := by
  simp only [risingFrom, Bool.and_eq_true] at hl
  exact cellAt_of_lt (lo := j) (by simp [risingFrom, hl]) ha

/-- Two rising lists that list the same bytes are equal. -/
theorem eq_of_cellAt_eq {l m : List (Nat × Byte)} {lo lo' : Nat} (hl : risingFrom lo l = true) (hm : risingFrom lo' m = true)
    (h : ∀ a, cellAt l a = cellAt m a) : l = m := by
  induction l generalizing m lo lo' with
  | nil =>
    cases m with
    | nil => rfl
    | cons d t => simpa [cellAt] using h d.1
  | cons e r ih =>
    obtain ⟨j, x⟩ := e
    cases m with
    | nil => simpa [cellAt] using h j
    | cons d t =>
      obtain ⟨k, y⟩ := d
      have hjk : j = k := by
        rcases Nat.lt_trichotomy j k with hlt | heq | hgt
        · exact absurd ((cellAt_cons_same j x r).symm.trans (h j)) (by simp [cellAt_cons_of_lt hm hlt])
        · exact heq
        · exact absurd ((h k).trans (cellAt_cons_same k y t)) (by simp [cellAt_cons_of_lt hl hgt])
      subst hjk
      have hxy : x = y := by simpa using h j
      simp only [risingFrom, Bool.and_eq_true] at hl hm
      have htail : r = t := ih hl.2 hm.2 fun a => by
        by_cases ha : j = a
        · rw [cellAt_of_lt hl.2 (by omega), cellAt_of_lt hm.2 (by omega)]
        · simpa [cellAt, ha] using h a
      rw [hxy, htail]

theorem ne_zero_of_cellAt {l : List (Nat × Byte)} (hl : l.all (fun c => c.2 != 0) = true) {a : Nat} {v : Byte} (h : cellAt l a = some v) :
    v ≠ 0 := by
  induction l with
  | nil => cases h
  | cons e r ih =>
    obtain ⟨j, x⟩ := e
    simp only [List.all_cons, Bool.and_eq_true, bne_iff_ne] at hl
    simp only [cellAt] at h
    split at h
    · exact Option.some.inj h ▸ hl.1
    · exact ih hl.2 h

/-- A memory in canonical form lists an address exactly where its byte is not 0. -/
theorem cellAt_of_get {M : Memory} (hM : M.wf = true) (a : Nat) : cellAt M.cells a = if M.get a = 0 then none else some (M.get a) := by
  unfold Memory.get
  cases h : cellAt M.cells a with
  | none => rfl
  | some v => exact (if_neg (ne_zero_of_cellAt (Memory.wf_iff.1 hM).2 h)).symm

theorem Memory.eq_of_get_eq {M N : Memory} (hM : M.wf = true) (hN : N.wf = true) (h : ∀ a, M.get a = N.get a) : M = N := by
  have hcells : M.cells = N.cells := eq_of_cellAt_eq (Memory.wf_iff.1 hM).1 (Memory.wf_iff.1 hN).1 fun a => by
    rw [cellAt_of_get hM, cellAt_of_get hN, h a]
  exact congrArg Memory.mk hcells

/-- Settles O39: reading back is the memory's own laws, and reading alike fixes what the canonical form lists. That form, and that an unlisted byte
reads 0, are log entry 2's choice. -/
theorem storesReadBackWhatIsWritten : Obligations.StoresReadBackWhatIsWritten := by
  intro M N a b v hM hN
  exact ⟨Memory.get_put_same hM, Memory.get_put_other, Memory.wf_put hM, Memory.eq_of_get_eq hM hN⟩

end Sys2Proof.Machine
end

section
/-! The end of LPDDR5X training and of the memory fills (R328, R331, R535, R619). -/

namespace Sys2Proof.Machine

/-! ### Training ends (R331) -/

/-- R328: with every channel working there is none to log. -/
theorem State.logChannels_of_all {good : BitVec 32} (hg : ∀ c < 32, good.getLsbD c = true) (s : State) (h : HallId) : s.logChannels h good = s :=
  List.foldlRecOn (List.range 32) _ (motive := (· = s)) rfl fun _ ht c hc => (if_pos (hg c (List.mem_range.1 hc))).trans ht

theorem State.trainingDone_of_dramTrain {s : State} {h : HallId} (hu : (s.hall h).dev.up = true) (hst : (s.hall h).dev.stage = .dramTrain)
    (hw : (s.hall h).dev.waitingImg = none) (again : BitVec 32) (rate density ranks : Nat) :
    s.trainingDone h 0xFFFFFFFF#32 again rate density ranks = s.onHall h fun H =>
      { H with
        dev := { H.dev with stage := .fill }
        mem := { H.mem with chanGood := 0xFFFFFFFF#32, rate := rate, density := density, ranks := ranks, trained := true, filled := false } } := by
  have hall : ∀ c < 32, (0xFFFFFFFF#32).getLsbD c = true := by decide
  have hcount : ¬((List.range 32).filter fun c => (0xFFFFFFFF#32).getLsbD c).length < 16 := by decide
  simp [State.trainingDone, hu, hst, hcount, State.logChannels_of_all hall, hw]

/-! ### A fill ends (R535) -/

theorem State.fillDone_dram {s : State} {h : HallId} (ht : (s.hall h).mem.trained = true) (hf : (s.hall h).mem.filled = false) :
    s.fillDone h .dram = (s.onHall h fun H => { H with mem := { H.mem with filled := true } }).tryRelease h := by
  simp [State.fillDone, ht, hf]

theorem State.fillDone_gallery {s : State} {h : HallId} {g : Nat} (hg : g < 8) (hf : (s.hall h).dev.filling.getLsbD g = true) :
    s.fillDone h (.gallery g) = (s.onHall h fun H =>
      { H with dev := { H.dev with filling := H.dev.filling &&& ~~~(BitVec.ofNat 8 (2 ^ g)) } }.showGals (s.imageStands h)).tryRelease h := by
  simp only [State.fillDone, hg, hf, decide_true, Bool.and_self, if_true]

/-! ### Start-up goes on (R619 step 8) -/

/-- Showing the galleries' states changes the galleries alone. -/
theorem Hall.showGals_frame (H : Hall) (active : Bool) : ∃ gs, H.showGals active = { H with gals := gs } := by
  refine List.foldlRecOn _ _ (motive := fun K : Hall => ∃ gs, K = { H with gals := gs }) ⟨H.gals, rfl⟩ ?_
  rintro _ ⟨gs, rfl⟩ g _
  exact ⟨_, rfl⟩

@[simp] theorem Hall.showGals_dev (H : Hall) (active : Bool) : (H.showGals active).dev = H.dev := by
  obtain ⟨gs, e⟩ := H.showGals_frame active
  rw [e]

@[simp] theorem Hall.showGals_swp (H : Hall) (active : Bool) : (H.showGals active).swp = H.swp := by
  obtain ⟨gs, e⟩ := H.showGals_frame active
  rw [e]

theorem State.imageStands_of_some {s : State} {h : HallId} {im : Image} (hi : (s.hall h).image = some im) :
    s.imageStands h = !(s.digestDiffers h im) := by
  simp only [State.imageStands, hi]

/-- R88: a hall whose fills have ended releases its cores under an image that stands. -/
theorem State.tryRelease_of_filled {s : State} {h : HallId} (hu : (s.hall h).dev.up = true) (hst : (s.hall h).dev.stage = .fill)
    (ha : s.imageStands h = true) (hg : (s.hall h).dev.filling = 0) (hd : (s.hall h).mem.filled = true) :
    s.tryRelease h = s.onHall h fun H =>
      { (H.showGals true) with
        dev := { H.dev with stage := .waitReference }
        swp := { H.swp with waiting := true } } := by
  simp [State.tryRelease, hu, hst, ha, hg, hd]

/-- Settles O16: each command's guard holds at its clause's state, and start-up is released where both fills have ended. That the galleries' states
follow the stages of the start is log entry 66's choice. -/
theorem trainingAndFillsEnd : Obligations.TrainingAndFillsEnd := by
  refine ⟨fun s h again rate density ranks hp hu hst hw => ?training, fun s h hp ht hf => ?dram, fun s h g hp hg hf => ?gallery,
    fun s h im hu hst hi hs hg hd => ?release⟩
  case training => exact State.next_live hp (State.trainingDone_of_dramTrain hu hst hw again rate density ranks)
  case dram => exact State.next_live hp (State.fillDone_dram ht hf)
  case gallery => exact State.next_live hp (State.fillDone_gallery hg hf)
  case release => exact State.tryRelease_of_filled hu hst (by rw [State.imageStands_of_some hi, hs]; rfl) hg hd

end Sys2Proof.Machine
end

section
/-! The Vestibule's audio frames, candidates, presence frames, mirrors, flight entry and descent, and the microphones' modes and blocks (R370 to R373,
R380, R382, R385, R394, R401, R443). -/

namespace Sys2Proof.Machine

/-! ### What an audio frame leaves (R366, R396, R403) -/

/-- The Vestibule without what taking a frame and judging its microphones write: the capture area with its position, the decimators, the blocks and
the stuck flags. -/
def Vst.unheard (v : Vst) : Vst :=
  { v with
    cap := ⟨[]⟩, writePos := 0, written := 0, ringDec := [], fullDec := [], blocks := [], frameFull := false, stuck := 0, stuckFrame := 0 }

/-- The package without that and without what settling changes. -/
def State.unheard (s : State) : State := { s.bare with vst := s.vst.unheard }

/-- A change of the Vestibule that `Vst.unheard` hides. -/
theorem State.unheard_vst (s : State) {v : Vst} (e : v.unheard = s.vst.unheard) : ({ s with vst := v } : State).unheard = s.unheard :=
  congrArg (fun v => { s.bare with vst := v }) e

theorem State.unheard_of_bare {s t : State} (e : s.bare = t.bare) : s.unheard = t.unheard :=
  congrArg (fun u : State => { u with vst := u.vst.unheard }) e

theorem State.unheard_ringFrame (s : State) (b : MicArrayBody) (chans : List (List Int)) : (s.ringFrame b chans).unheard = s.unheard := by
  unfold State.ringFrame
  split
  · split
    · rfl
    · exact s.unheard_vst rfl
  · rfl

theorem State.unheard_arrayFrame (s : State) (f : AudioFrame) (b : MicArrayBody) : (s.arrayFrame f b).1.unheard = s.unheard :=
  List.foldlRecOn (micsOf b.mics) _ (motive := fun a : State × List (List Int) × List (List Int) => a.1.unheard = s.unheard) rfl
    fun a ha _ _ => (a.1.unheard_vst rfl).trans ha

theorem State.unheard_takeArray (s : State) (f : AudioFrame) (e : Nat × MicArrayBody) : (s.takeArray f e).unheard = s.unheard :=
  (State.unheard_vst _ rfl).trans ((State.unheard_ringFrame _ _ _).trans (s.unheard_arrayFrame f e.2))

theorem State.unheard_takeFrame (s : State) (vt : Nat) (f : AudioFrame) : (s.takeFrame vt f).unheard = s.unheard := by
  unfold State.takeFrame State.putHeader
  refine (State.unheard_vst _ rfl).trans ((State.unheard_vst _ rfl).trans ?_)
  exact List.foldlRecOn _ _ (motive := fun t : State => t.unheard = s.unheard) (s.unheard_vst rfl)
    fun t ht e _ => (t.unheard_takeArray f e).trans ht

theorem State.unheard_stuckFrame (s : State) (f : AudioFrame) : (s.stuckFrame f).unheard = s.unheard := by
  refine (State.unheard_vst _ rfl).trans ?_
  refine List.foldlRecOn (List.range 32) _ (motive := fun t : State => t.unheard = s.unheard) rfl fun t ht m _ => ?_
  split
  · exact (State.unheard_of_bare (t.bare_log _ _ _ _)).trans ht
  · exact ht

/-! ### A boundary without a cascade (R365, R371) -/

/-- No CASCADE section is in force, the level is 0, and neither an escalation, a descent nor a lowering waits for a boundary. -/
structure State.Grounded (s : State) : Prop where
  cascade : (s.a.image.bind fun im => im.cascade) = none
  descend : s.vst.descend = false
  level : s.vst.level = 0
  esc : s.vst.esc = none
  retryEntry : s.vst.retryEntry = false

/-- An audio frame leaves a grounded Vestibule so. -/
theorem State.Grounded.of_unheard {s t : State} (g : s.Grounded) (e : t.unheard = s.unheard) : t.Grounded where
  cascade := (congrArg (fun u : State => u.a.image.bind fun im => im.cascade) e).trans g.cascade
  descend := (congrArg (fun u : State => u.vst.descend) e).trans g.descend
  level := (congrArg (fun u : State => u.vst.level) e).trans g.level
  esc := (congrArg (fun u : State => u.vst.esc) e).trans g.esc
  retryEntry := (congrArg (fun u : State => u.vst.retryEntry) e).trans g.retryEntry

namespace State.Grounded
variable {s : State} (g : s.Grounded)
include g

theorem flight_none (n : Nat) : s.flight n = none := by
  have hc := g.cascade
  unfold State.flight
  cases hi : s.a.image with
  | none => rfl
  | some im =>
    rw [hi] at hc
    simp only [Option.bind_some] at hc
    simp only [Option.bind_some, Image.flight, hc, Option.bind_none]

theorem target_zero (c : Nat) : s.target c = 0 := by simp only [State.target, g.flight_none]

theorem hostDescend_id (vt : Nat) : s.hostDescend vt = s := by simp [State.hostDescend, g.descend]

theorem scoreFrame_id (f : AudioFrame) (vt : Nat) : s.scoreFrame f vt = (s, []) := by simp only [State.scoreFrame, g.flight_none]

theorem otherVerdicts_nil : s.otherVerdicts = [] := by
  simp only [State.otherVerdicts, g.target_zero]
  cases s.vst.presWake <;> simp

theorem forwardUps_id : s.forwardUps = s := by simp only [State.forwardUps, g.flight_none]

/-- R378: only flights that run, which lie at or below the level, have up records. -/
theorem takeUps_id (vt : Nat) : s.takeUps vt = (s, 0) := by
  refine List.foldlRecOn (List.range 4) _ (motive := (· = (s, 0))) rfl ?_
  rintro _ rfl n -
  refine if_pos ?_
  rw [g.level]
  cases n <;> simp

theorem flightEntry_id : s.flightEntry = s := by simp only [State.flightEntry, g.esc]

theorem descentStep_id (vt : Nat) : s.descentStep vt = s := by simp [State.descentStep, State.descends, g.level]

/-- R394: without Flight 0 the requested mode applies at once. -/
theorem micStep_eq (vt : Nat) : s.micStep vt =
    if s.vst.modeReq = s.vst.micFull ∨ s.a.image = none then s else s.changeMode s.vst.modeReq := by
  simp only [State.micStep, g.flight_none, Bool.or_eq_true, decide_eq_true_eq, Option.isNone_iff_eq_none]

theorem micStep (vt : Nat) : (s.micStep vt).Grounded := by
  rw [g.micStep_eq]
  split
  · exact g
  · exact ⟨g.cascade, g.descend, g.level, g.esc, g.retryEntry⟩

/-- R371: of a boundary's steps without a cascade the microphone mode and the TDM ports act. -/
theorem audioBoundary_eq (hp : s.por = false) (vt : Nat) (f : AudioFrame) :
    s.audioBoundary vt f =
      let u := (s.takeFrame vt f).stuckFrame f
      let v := { u with vst := { u.vst with
        cal := u.vst.calNew, gapFrom := none, presWake := none, pinWakes := [], wakes := min 0xFFFF u.vst.wakes } }
      (if v.vst.modeReq = v.vst.micFull ∨ v.a.image = none then v else v.changeMode v.vst.modeReq).tdmAll := by
  unfold State.audioBoundary
  rw [if_neg (by simp [hp])]
  extract_lets u _ u1 u2 level r stop vs others pins _ _ v l w top t4 t5 t6 _ t7 v'
  have gu : u.Grounded := g.of_unheard ((State.unheard_stuckFrame _ f).trans (s.unheard_takeFrame vt f))
  have gu1 : u1.Grounded := ⟨gu.cascade, gu.descend, gu.level, gu.esc, gu.retryEntry⟩
  have gv : v'.Grounded := ⟨gu.cascade, gu.descend, gu.level, gu.esc, gu.retryEntry⟩
  have hu2 : u2 = u1 := gu1.hostDescend_id vt
  have hr : r = (u1, []) := by simp only [r, hu2, gu1.scoreFrame_id]
  clear_value r
  subst hr
  have hvs : vs = [] := by simp only [vs, gu1.otherVerdicts_nil, List.map_nil, List.append_nil]
  have hothers : others = 0 := by simp only [others, gu1.otherVerdicts_nil, List.length_nil]
  have hv : v = v' := by simp only [v, hothers]; rfl
  have hl : l = (v', []) := by simp only [l, hvs, hv, List.foldl_nil]
  have hw : w = (v', 0) := by simp only [w, hl, gv.forwardUps_id, gv.takeUps_id]
  have htop : top = 0 := by simp only [top, hl, hw, List.foldl_nil]
  have h4 : t4 = v' := by simp only [t4, htop, hw, Nat.not_lt_zero, if_false, gv.flightEntry_id]
  have h6 : t6 = v'.micStep vt := by simp only [t6, t5, h4, (gv.micStep vt).descentStep_id]
  have h7 : t7 = v'.micStep vt := by simp [t7, h6, (gv.micStep vt).retryEntry]
  rw [h7, gv.micStep_eq]

end State.Grounded

/-! ### Candidates (R372) -/

section
variable {c : Candidate} {openAt v : Nat}

theorem classFrame_unopened (h : v < openAt) : classFrame none c openAt (some v) = ⟨none, none, false⟩ := by
  simp [classFrame, Nat.not_le_of_lt h]

/-- A frame that opens a candidate is its first, and not one below CLOSE_THRESH. -/
theorem classFrame_opened (ho : openAt ≤ v) (hc : c.closeAt ≤ v) (hf : c.frames = 0) (hl : c.low = 0) :
    classFrame none c openAt (some v) =
      if c.wakeAt ≤ v then ⟨none, some { c with frames := 1 }, false⟩
      else if c.maxMs ≤ 10 then ⟨none, none, true⟩
      else ⟨some { c with frames := 1 }, none, false⟩ := by
  have hcount : ({ c with frames := c.frames + 1, low := if v < c.closeAt then c.low + 1 else 0 } : Candidate) = { c with frames := 1 } := by
    simp only [hf, hl, if_neg (Nat.not_lt_of_le hc)]
  have hexceeds : ({ c with frames := 1 } : Candidate).exceeds = decide (c.maxMs ≤ 10) := by simp [Candidate.exceeds, hl]
  simp only [classFrame, ho, if_true, hcount, hexceeds, decide_eq_true_eq]

end

theorem State.candidateReject_of_exceeds {s : State} {c : Nat} (h : s.vst.cands.any (fun x => x.cls == c && x.exceeds) = true) :
    s.candidateReject c =
      { s with vst := { s.vst with cands := s.vst.cands.filter (fun x => x.cls != c), rejects := inc16 s.vst.rejects } } :=
  if_pos h

theorem State.candidateReject_of_within {s : State} {c : Nat} (h : s.vst.cands.any (fun x => x.cls == c && x.exceeds) = false) :
    s.candidateReject c = s :=
  if_neg (Bool.eq_false_iff.mp h)

/-! ### Descent (R382) -/

/-- R382: an available flight descends once MIN_DWELL has passed, where its models or IDLE ask for it. -/
theorem State.descends_of_available {s : State} {vt : Nat} {f : FlightEntry} (h0 : 0 < s.vst.level) (he : s.vst.esc = none)
    (hf : s.flight s.vst.level = some f) (ha : s.vst.level ≤ s.highest 3) :
    s.descends vt = (vtPassed s.vst.dwellVt vt f.minDwellMs && (s.vst.descReq || vtPassed s.vst.idleVt vt f.idleMs)) := by
  simp [State.descends, h0, he, hf, Nat.not_lt_of_le ha]

theorem State.descentStep_of_descends {s : State} {vt : Nat} (h : s.descends vt = true) :
    s.descentStep vt = ((s.leaveFlight vt).applyPower none (0, 0) vt).micStep vt :=
  if_pos h

theorem State.descentStep_of_stays {s : State} {vt : Nat} (h : s.descends vt = false) : s.descentStep vt = s :=
  if_neg (Bool.eq_false_iff.mp h)

/-! ### A deferred microphone change (R385) -/

theorem State.deferLimit_of_deferred {s : State} {t : Nat} (hd : s.vst.deferred = some t) (vt : Nat) :
    s.deferLimit vt = decide (t + 49152 ≤ vt) := by
  simp only [State.deferLimit, hd]

theorem State.micDeferTimeout_of_passed {s : State} {vt t : Nat} (hd : s.vst.deferred = some t) (ht : t + 49152 ≤ vt) :
    s.micDeferTimeout vt = s.endDeferral true :=
  if_pos (by rw [State.deferLimit_of_deferred hd, decide_eq_true ht])

theorem State.micDeferTimeout_of_early {s : State} {vt t : Nat} (hd : s.vst.deferred = some t) (ht : vt < t + 49152) :
    s.micDeferTimeout vt = s :=
  if_neg (by rw [State.deferLimit_of_deferred hd, decide_eq_true_eq]; exact Nat.not_le_of_lt ht)

/-! ### Presence frames (R373, R443) -/

theorem State.presenceFrame_of_faulty {s : State} {vt : Nat} {f : PresenceFrame} (hp : s.por = false) (hs : s.hasPresence = true)
    (hf : f.faulty = true) : s.presenceFrame vt f = s.countPresence false := by
  simp [State.presenceFrame, hp, hs, hf]

/-- R373, R443: an accepted frame without a person found counts, and towards WAKE where it scores WAKE_THRESH. -/
theorem State.presenceFrame_of_first {s : State} {vt : Nat} {f : PresenceFrame} {fl : FlightEntry} (hp : s.por = false)
    (hs : s.hasPresence = true) (hf : f.faulty = false) (hv : s.vst.presVt = none) (h0 : s.flight 0 = some fl) (ha : s.available 0 = true)
    (hb : f.box = none) :
    let n := if fl.wakeThresh.getD 12 0 ≤ f.score then s.vst.presence + 1 else 0
    ∃ idle, s.presenceFrame vt f =
      { s.countPresence true with
        vst := { s.vst with
          presVt := some vt
          presence := if fl.presenceFrames ≤ n then 0 else n
          scores := modAt s.vst.scores 12 fun _ => f.score
          idleVt := idle
          presWake := if fl.presenceFrames ≤ n then some ⟨f.score, none, []⟩ else s.vst.presWake } } := by
  intro n
  unfold State.presenceFrame
  simp only [hp, hs, hf, hv, hb, h0, ha, Bool.not_true, Bool.or_false, Bool.false_eq_true, if_false, decide_eq_true_eq, Option.map_none]
  exact ⟨_, rfl⟩

/-! ### The mirror update (R370) -/

theorem State.mirrorUpdate_of_none {s : State} (hm : s.mirrors = []) :
    s.mirrorUpdate = { s with vst := { s.vst with mirrored := s.vst.cropSeq } } := by
  simp only [State.mirrorUpdate, hm, List.foldl_nil]

/-- R370: without a new crop a mirror takes the newest 160 slots, their gap flags and the header, and its cell a signal. -/
theorem State.mirrorUpdate_of_one {s : State} {f : FlightEntry} (hm : s.mirrors = [f]) (hc : s.vst.mirrored = s.vst.cropSeq) :
    s.mirrorUpdate =
      let n := posDiff s.vst.writePos 160 % 32000
      let u := (((s.mirrorTo f (16 * n) 2560).mirrorTo f (512000 + n / 8) 20).mirrorTo f 548800 64).onHall .a fun H =>
        (H.signal 0 f.mirrorCell 1).after 0
      { u with vst := { u.vst with mirrored := u.vst.cropSeq } } := by
  simp only [State.mirrorUpdate, hm, hc, List.foldl_cons, List.foldl_nil, Nat.sub_self, Nat.min_zero, List.range_zero, List.map_nil]

/-! ### Entry to a flight (R380) -/

/-- R380 steps 3 to 6 for a target above Flight 1 in Hall A, whose gallery runs and whose session is open. -/
theorem State.entryDone_of_target {s : State} {vt : Nat} {e : Escalation} {f : FlightEntry} (he : s.vst.esc = some e) (hc : e.copying = true)
    (h1 : e.entering ≠ 1) (ht : e.entering = e.target) (hf : s.flight e.entering = some f) (hh : f.hall = 0)
    (hg : (s.a.gal f.gallery).st = .run) (hs : (s.a.session (flightSession e.entering)).isSome = true) :
    s.entryDone vt =
      let n := e.entering
      let u := ((s.mirrorTo f 0 548864).onHall .a fun H => H.flightContexts 0 f n).deliverPending f n
      (({ u with vst := { u.vst with
        level := n, dwellVt := vt, idleVt := vt, descReq := false, upSeen := modAt u.vst.upSeen n fun _ => 0, esc := none } } :
        State).applyPower none (0, 0) vt).flightEntry := by
  have hat : f.at' = .a := if_neg (by rw [hh]; exact Nat.zero_ne_one)
  have hsn : (s.a.session (flightSession e.entering)).isNone = false := by simpa using hs
  have hlast : ¬e.entering < e.target := by rw [ht]; exact Nat.lt_irrefl _
  unfold State.entryDone
  simp only [he, hc, hf, hat, State.hall, hg, hsn, hh, h1, hlast, if_true, if_false, Bool.not_true, bne_self_eq_false, Bool.or_self,
    Bool.false_eq_true]
  rfl

/-! ### Microphone blocks (R401, R402) -/

section
variable {s : State} {id : Nat} {b : MicArrayBody} {xs : List (Int × Bool)}

theorem State.micBlockWrite_of_none (hb : s.vst.blocks.find? (fun e => e.1 == id) = none) : s.micBlockWrite id = s := by
  unfold State.micBlockWrite
  rw [hb]
  split <;> rfl

theorem State.micBlockWrite_of_some (hp : s.por = false) (hpart : b.part ≠ 0xFF)
    (ha : s.arrays.find? (fun e => e.1 == id) = some (id, b)) (hb : s.vst.blocks.find? (fun e => e.1 == id) = some (id, xs)) :
    s.micBlockWrite id =
      let u := { s with vst := { s.vst with blocks := s.vst.blocks.filter fun e => e.1 != id } }
      if b.blocks ≤ s.a.cell b.cell ∨ (s.a.gal b.gallery).st ≠ .run then
        { u with vst := { u.vst with blockDrops := inc16 u.vst.blockDrops } }
      else
        let v := u.onHall .a fun H =>
          ((H.writeAt (.gal b.gallery) (b.streamAddr + tget s.vst.micK id % b.blocks * b.blockBytes) (s.micBlock b xs)).signal 0 b.cell 1).after 0
        { v with vst := { v.vst with micK := tset v.vst.micK id (tget s.vst.micK id + 1) } } := by
  simp only [State.micBlockWrite, ha, hb, hp, hpart, decide_false, Bool.or_self, Bool.false_eq_true, if_false, Bool.or_eq_true,
    decide_eq_true_eq, bne_iff_ne]

end

/-! ### The obligation -/

/-- Settles O56, a clause at a time from what each command does where its condition holds and where it does not. That a descent waits for MIN_DWELL is
log entry 132's choice, that the count of presence frames starts anew after WAKE log entry 131's, and that without a cascade the microphone mode
changes at the boundary of its request log entry 140's. -/
theorem vestibuleFramesAndDecisions : Obligations.VestibuleFramesAndDecisions := by
  refine ⟨?boundary, ?candidate, ?reject, ?descent, ?modes, ?presence, ?mirrors, ?entry, ?blocks⟩
  case boundary =>
    intro s vt f hp hc hd hl he hr
    have g : (s.atVt vt).Grounded := ⟨hc, hd, hl, he, hr⟩
    exact State.next_live hp (g.audioBoundary_eq hp vt f)
  case candidate =>
    intro c openAt v hf hl
    refine ⟨classFrame_unopened, fun ho hw hc => ?_, fun ho hw hc hm => ?_⟩
    · rw [classFrame_opened ho hc hf hl, if_pos hw]
    · rw [classFrame_opened ho hc hf hl, if_neg (Nat.not_le_of_lt hw), if_neg (Nat.not_le_of_lt hm)]
  case reject =>
    intro s c hp
    exact ⟨fun h => State.next_live hp (State.candidateReject_of_exceeds h), fun h => State.next_live hp (State.candidateReject_of_within h)⟩
  case descent =>
    intro s vt f hp h0 he hf ha
    have hd := State.descends_of_available (s := s.atVt vt) (vt := vt) h0 he hf ha
    refine ⟨fun hw hi => State.next_live hp (State.descentStep_of_descends ?_), fun h => State.next_live hp (State.descentStep_of_stays ?_)⟩
    · rw [hd]
      simpa [State.atVt, hw] using hi
    · rw [hd]
      rcases h with hw | ⟨hq, hi⟩
      · exact Bool.and_eq_false_iff.mpr (.inl hw)
      · exact Bool.and_eq_false_iff.mpr (.inr (Bool.or_eq_false_iff.mpr ⟨hq, hi⟩))
  case modes =>
    intro s vt t hp hd
    exact ⟨fun ht => State.next_live hp (State.micDeferTimeout_of_passed (s := s.atVt vt) hd ht),
      fun ht => State.next_live hp (State.micDeferTimeout_of_early (s := s.atVt vt) hd ht)⟩
  case presence =>
    intro s vt f hp hs
    refine ⟨fun hf => State.next_live hp (State.presenceFrame_of_faulty (s := s.atVt vt) hp hs hf), fun fl hf hv h0 ha hb => ?_⟩
    obtain ⟨idle, e⟩ := State.presenceFrame_of_first (s := s.atVt vt) (vt := vt) hp hs hf hv h0 ha hb
    exact Gives.of_live hp rfl e ⟨congrArg Cam.presAccepted (State.whole_hall_cam _ _ .a), congrArg Vst.presVt (State.whole_vst _ _),
      congrArg Vst.presence (State.whole_vst _ _), congrArg Vst.presWake (State.whole_vst _ _)⟩
  case mirrors =>
    intro s vt hp
    exact ⟨fun hm => State.next_live hp (State.mirrorUpdate_of_none (s := s.atVt vt) hm),
      fun f hm hc => State.next_live hp (State.mirrorUpdate_of_one (s := s.atVt vt) hm hc)⟩
  case entry =>
    rintro s vt _ e f hp he hc rfl h1 ht hf hh hg hs
    exact State.next_live hp (State.entryDone_of_target (s := s.atVt vt) he hc h1 ht hf hh hg hs)
  case blocks =>
    intro s id vt xs b hp hpart ha
    refine ⟨fun hb => State.next_live hp (State.micBlockWrite_of_none (s := s.atVt vt) hb), fun hb => ?_⟩
    have e := State.micBlockWrite_of_some (s := s.atVt vt) hp hpart ha hb
    exact ⟨fun hfull => State.next_live hp (e.trans (if_pos hfull)),
      fun hroom hrun => State.next_live hp (e.trans (if_neg (not_or.mpr ⟨Nat.not_le_of_lt hroom, fun hstopped => hstopped hrun⟩)))⟩

end Sys2Proof.Machine
end

section
/-! Ring samples, and the slots of the capture area that hold them with their gap flags (R366, R367, R400). -/

namespace Sys2Proof

open Sys2Proof.Machine

/-! ### Part of the bytes written -/

theorem Memory.getAll_putAll_slice {m : Memory} {a i n : Nat} {bs : List Byte} (hm : m.wf = true) (h : i + n ≤ bs.length) :
    (m.putAll a bs).getAll (a + i) n = slice bs i n := by
  apply List.ext_getElem
  · simp [Memory.getAll, slice, Nat.le_sub_of_add_le' h]
  · intro j hj _
    have hjn : j < n := by simpa [Memory.getAll] using hj
    have hget := Memory.get_putAll_same bs (a := a) hm (show i + j < bs.length by omega)
    simpa [Memory.getAll, slice, Nat.add_assoc] using hget

theorem Memory.getAll_put_other {m : Memory} {a b n : Nat} {v : Byte} (h : b < a ∨ a + n ≤ b) : (m.put b v).getAll a n = m.getAll a n :=
  List.map_congr_left fun i hi => Memory.get_put_other (by have := List.mem_range.1 hi; omega)

end Sys2Proof

namespace Sys2Proof.Machine

/-! ### Rounding (R400) -/

/-- The quotient below or the one above, as the remainder is at most or at least half the divisor; at half, the even one. -/
theorem divEven_cases (n : Int) (d : Nat) :
    (divEven n d = n / d ∧ 2 * (n % d) ≤ d ∧ (2 * (n % d) = d → n / d % 2 = 0)) ∨
    (divEven n d = n / d + 1 ∧ d ≤ 2 * (n % d) ∧ (2 * (n % d) = d → n / d % 2 = 1)) := by
  by_cases hup : 2 * (n % d) > d ∨ (2 * (n % d) = d ∧ n / d % 2 = 1)
  · exact .inr ⟨by simp [divEven, hup], by omega, by omega⟩
  · exact .inl ⟨by simp [divEven, hup], by omega, by omega⟩

/-- A quotient rounded to nearest lies within half a step of the exact one, and is even where it lies half a step away. -/
theorem divEven_near (n : Int) {d : Nat} (hd : 0 < d) :
    -d ≤ 2 * (d * divEven n d - n) ∧ 2 * (d * divEven n d - n) ≤ d ∧
    (2 * (d * divEven n d - n) = d ∨ 2 * (d * divEven n d - n) = -d → divEven n d % 2 = 0) := by
  have hn := Int.mul_ediv_add_emod n d
  have hlo := Int.emod_nonneg n (show (d : Int) ≠ 0 by omega)
  have hhi := Int.emod_lt_of_pos n (show (0 : Int) < d by omega)
  rcases divEven_cases n d with ⟨e, hhalf, htie⟩ | ⟨e, hhalf, htie⟩
  · rw [e]
    omega
  · rw [e, Int.mul_add]
    omega

theorem ringSample_of_in_range {v : Int} (hlo : -(2 ^ 23) ≤ v) (hhi : v < 256 * 32767 + 128) : ringSample v = divEven v 256 := by
  have := divEven_near v (show 0 < 256 by decide)
  simp only [ringSample]
  omega

theorem ringSample_of_above {v : Int} (h : 256 * 32767 + 128 ≤ v) : ringSample v = 32767 := by
  have := divEven_near v (show 0 < 256 by decide)
  simp only [ringSample]
  omega

/-! ### Slots (R366, R367) -/

/-- Records of one length that stand one after the other: the k-th is found at k lengths. -/
theorem slice_flatMap {α : Type} {f : α → List Byte} {n : Nat} (hf : ∀ x, (f x).length = n) : ∀ (xs : List α) (k : Nat) (hk : k < xs.length),
    slice (xs.flatMap f) (n * k) n = f xs[k]
  | [], _, hk => absurd hk (Nat.not_lt_zero _)
  | x :: _, 0, _ => by simp [slice, ← hf x]
  | x :: xs, k + 1, hk => by
    have hstep : n * (k + 1) = (f x).length + n * k := by rw [hf x, Nat.mul_succ, Nat.add_comm]
    rw [hstep, slice, List.flatMap_cons, List.drop_length_add_append]
    exact slice_flatMap hf xs k (Nat.lt_of_succ_lt_succ hk)

/-- The sixteen bytes of a slot's eight channels. -/
def ringSlotBytes (chans : List Int) : List Byte := (List.range 8).flatMap fun k => leBytes 2 (sbits 16 (chans.getD k 0))

theorem ringSlotBytes_length (chans : List Int) : (ringSlotBytes chans).length = 16 := rfl

theorem slice_ringSlotBytes (chans : List Int) {k : Nat} (hk : k < 8) :
    slice (ringSlotBytes chans) (2 * k) 2 = leBytes 2 (sbits 16 (chans.getD k 0)) := by
  rw [ringSlotBytes, slice_flatMap (n := 2) (fun _ => rfl) (List.range 8) k (by simpa using hk), List.getElem_range]

/-- A number with bit `j` cleared. -/
def clearFlag (old j : Nat) : Nat := old - (if bit old j then 2 ^ j else 0)

theorem bit_clearFlag (old j : Nat) : bit (clearFlag old j) j = false := by
  unfold clearFlag bit
  split
  next hb =>
    obtain ⟨x, rfl⟩ := Nat.exists_eq_add_of_le (Nat.ge_two_pow_of_testBit hb)
    rw [Nat.add_sub_cancel_left]
    simpa [Nat.testBit_two_pow_add_eq] using hb
  next hb => simpa using hb

/-- A number with bit `j` replaced by `g`. -/
def putFlag (old j : Nat) (g : Bool) : Nat := clearFlag old j + (if g then 2 ^ j else 0)

theorem bit_putFlag (old j : Nat) (g : Bool) : bit (putFlag old j g) j = g := by
  have hclear : (clearFlag old j).testBit j = false := bit_clearFlag old j
  cases g with
  | false => simpa [putFlag, bit] using hclear
  | true => simp [putFlag, bit, Nat.add_comm _ (2 ^ j), Nat.testBit_two_pow_add_eq, hclear]

theorem putSlot_eq (m : Memory) (slot : Nat) (chans : List Int) (gap : Bool) :
    putSlot m slot chans gap = (m.putAll (16 * slot) (ringSlotBytes chans)).put (512000 + slot / 8)
      (BitVec.ofNat 8 (putFlag (m.get (512000 + slot / 8)).toNat (slot % 8) gap)) := rfl

theorem bit_ofNat {w v j : Nat} (hj : j < w) : bit (BitVec.ofNat w v).toNat j = bit v j := by
  simp [bit, Nat.testBit_mod_two_pow, hj]

theorem getAll_putSlot {m : Memory} {slot k : Nat} (chans : List Int) (gap : Bool) (hm : m.wf = true) (hs : slot < 32000) (hk : k < 8) :
    (putSlot m slot chans gap).getAll (16 * slot + 2 * k) 2 = leBytes 2 (sbits 16 (chans.getD k 0)) := by
  rw [putSlot_eq, Memory.getAll_put_other (by omega), Memory.getAll_putAll_slice hm (by rw [ringSlotBytes_length]; omega),
    slice_ringSlotBytes chans hk]

theorem gap_putSlot {m : Memory} (slot : Nat) (chans : List Int) (gap : Bool) (hm : m.wf = true) :
    bit ((putSlot m slot chans gap).get (512000 + slot / 8)).toNat (slot % 8) = gap := by
  rw [putSlot_eq, Memory.get_put_same (Memory.wf_putAll _ hm), bit_ofNat (Nat.mod_lt _ (by decide)), bit_putFlag]

/-- Settles O55: below the bound the sample is the rounded quotient, from the bound on saturation answers; a slot's bytes stand apart from the
gap flags (R367), so that both read back. -/
theorem ringSamplesRoundToNearest : Obligations.RingSamplesRoundToNearest := by
  refine ⟨fun v hlo _ => ⟨fun hhi => ?_, ringSample_of_above⟩,
    fun m slot k chans gap hm hs hk => ⟨getAll_putSlot chans gap hm hs hk, gap_putSlot slot chans gap hm⟩⟩
  have hnear := divEven_near v (show 0 < 256 by decide)
  rw [ringSample_of_in_range hlo hhi]
  omega

end Sys2Proof.Machine
end

section
/-! The packets of the receive ports: frames that start, end and time out, their lines and embedded data, and the faults counted (R413, R416 to R421). -/

namespace Sys2Proof.Machine

/-! ### The guards of the camera units (R426) -/

theorem State.por_of_camerasOn {s : State} {h : HallId} (hc : s.camerasOn h = true) : s.por = false := by
  simp only [State.camerasOn, Bool.and_eq_true, Bool.not_eq_true'] at hc
  obtain ⟨⟨hp, _⟩, _⟩ := hc
  exact hp

theorem State.inCams_of_on {s : State} {h : HallId} (hc : s.camerasOn h = true) (f : Hall → Hall) : s.inCams h f = s.onHall h f := if_pos hc

theorem State.inCams_of_off {s : State} {h : HallId} (hc : s.camerasOn h = false) (f : Hall → Hall) : s.inCams h f = s :=
  if_neg (Bool.eq_false_iff.mp hc)

theorem State.inRx_of_image {s : State} {h : HallId} (hi : (s.hall h).image.isSome = true) (p : Nat) (f : Hall → Hall) :
    s.inRx h p f = s.inCams h f :=
  if_pos (Bool.or_eq_true_iff.mpr (.inl hi))

theorem State.inRx_of_off {s : State} {h : HallId} (hc : s.camerasOn h = false) (p : Nat) (f : Hall → Hall) : s.inRx h p f = s :=
  ite_eq_right_iff.mpr fun _ => State.inCams_of_off hc f

/-- The outcome of a command of the camera units, by its effect on the hall as it is. -/
theorem State.next_inCams {s : State} {h : HallId} (hc : s.camerasOn h = true) {f g : Hall → Hall} (e : f (s.hall h) = g (s.hall h)) :
    (.next (s.live fun s => s.inCams h f) : Host.Outcome State Fault Refusal) = .next (s.whole fun _ => s.onHall h g) :=
  State.next_live (State.por_of_camerasOn hc) ((State.inCams_of_on hc f).trans (State.onHall_congr e))

theorem State.next_inCams_of_fixed {s : State} {h : HallId} (hc : s.camerasOn h = true) {f : Hall → Hall} (e : f (s.hall h) = s.hall h) :
    (.next (s.live fun s => s.inCams h f) : Host.Outcome State Fault Refusal) = .next (s.whole fun _ => s) :=
  State.next_live (State.por_of_camerasOn hc) ((State.inCams_of_on hc f).trans (State.onHall_of_fixed e))

/-- The outcome of a packet, in a hall with an image. -/
theorem State.next_inRx {s : State} {h : HallId} {p : Nat} (hc : s.camerasOn h = true) (hi : (s.hall h).image.isSome = true) {f g : Hall → Hall}
    (e : f (s.hall h) = g (s.hall h)) :
    (.next (s.live fun s => s.inRx h p f) : Host.Outcome State Fault Refusal) = .next (s.whole fun _ => s.onHall h g) :=
  State.next_live (State.por_of_camerasOn hc)
    ((State.inRx_of_image hi p f).trans ((State.inCams_of_on hc f).trans (State.onHall_congr e)))

/-! ### Headers and channels (R413, R419) -/

@[simp] theorem Hall.header_sound (H : Hall) (h p vc : Nat) : H.header h p vc false = H := rfl

theorem Hall.rxActive_of_undeclared {H : Hall} {h p vc : Nat} (hv : H.vcDeclared h p vc = false) : H.rxActive h p vc = H :=
  if_neg (Bool.eq_false_iff.mp hv)

theorem Hall.openFrame_eq_some {H : Hall} {id : Nat} {f : RxFrame} : H.openFrame id = some f ↔ ∃ c, H.camera id = some c ∧ c.cur = some f :=
  Option.bind_eq_some_iff

section
variable {H : Hall} {h p vc : Nat}

/-! ### A frame start (R416, R417) -/

/-- R416: without a feed on the channel, a start is that of the channel's cameras. -/
theorem State.frameStart_of_one {s : State} {i : HallId} {num us q : Nat} {hc : Bool} {im : Image} {e : Nat × CameraBody × PipeBody}
    (hon : s.camerasOn i = true) (hi : (s.hall i).image = some im) (hf : im.feedOn i.idx p vc = none)
    (hv : (s.hall i).vcDeclared i.idx p vc = true) (he : (((s.hall i).rxActive i.idx p vc).header i.idx p vc hc).camsOn i.idx p vc = [e]) :
    s.frameStart i p vc num us q hc = s.onHall i fun H =>
      (((H.rxActive i.idx p vc).header i.idx p vc hc).frameStartAt i.idx e num us q).after i.idx := by
  simp only [State.frameStart, hon, Bool.not_true, Bool.false_eq_true, if_false, hi, hf, Option.isSome_none]
  exact State.onHall_congr (by simp [hv, he])

theorem Hall.closeFrame_of_none {e : Nat × CameraBody × PipeBody} (ho : H.openFrame e.1 = none) (timedOut : Bool) :
    H.closeFrame h e timedOut = H := by
  simp only [Hall.closeFrame, ho]

theorem tooEarly_of_soon {b : CameraBody} {c : Camera} {us t : Nat} (hl : c.lastUs = some t) (ht : 10 * (us - t) < 9 * b.frameUs) :
    tooEarly b c us = true := by
  simpa only [tooEarly, hl] using decide_eq_true ht

theorem tooEarly_of_first {b : CameraBody} {c : Camera} (hl : c.lastUs = none) (us : Nat) : tooEarly b c us = false := by
  simp only [tooEarly, hl]

theorem Hall.frameStartAt_of_early {e : Nat × CameraBody × PipeBody} {c : Camera} {us : Nat} (ho : H.openFrame e.1 = none)
    (hc : H.camera e.1 = some c) (ht : tooEarly e.2.1 c us = true) (num q : Nat) :
    H.frameStartAt h e num us q = ((H.onRx e.2.1.port fun (P : RxPort) => { P with early := min 15 (P.early + 1) }).onCamera e.1
      fun (c : Camera) => { c with dropping := true }).rxLog e.2.1.port 0xC := by
  simp only [Hall.frameStartAt, Hall.closeFrame_of_none ho, hc, ht, if_true]

theorem Hall.frameStartAt_of_accepting {e : Nat × CameraBody × PipeBody} {c : Camera} {us : Nat} (ho : H.openFrame e.1 = none)
    (hc : H.camera e.1 = some c) (ht : tooEarly e.2.1 c us = false) (ha : (H.rx e.2.1.port).accepting = true)
    (hw : (H.rx e.2.1.port).width ≠ 0) (num q : Nat) :
    H.frameStartAt h e num us q = H.openAt e c num us q := by
  simp [Hall.frameStartAt, Hall.closeFrame_of_none ho, hc, ht, ha, hw]

/-! ### Lines and embedded data (R416) -/

/-- R416: a packet of one camera's image type is a line of that camera. -/
theorem Hall.linePacket_of_one {dt : Nat} {px : List Nat} {ok hc : Bool} {e : Nat × CameraBody × PipeBody}
    (he : (((H.rxActive h p vc).header h p vc hc).camsOn h p vc).filter (fun e => e.2.1.dt == dt) = [e]) :
    H.linePacket h p vc dt px ok hc = (((H.rxActive h p vc).header h p vc hc).lineAt h e px ok).after h := by
  simp only [Hall.linePacket, he, List.foldl_cons, List.foldl_nil]

/-- R416: a sound line of full width, within the frame and away from the lines at which settings are taken or missed, joins the frame as it is. -/
theorem Hall.lineAt_of_full {px : List Nat} {e : Nat × CameraBody × PipeBody} {c : Camera} {f : RxFrame} (hc : H.camera e.1 = some c)
    (hf : c.cur = some f) (hw : f.lines.length ≠ e.2.1.writeLine) (hd : f.lines.length ≠ e.2.1.deadlineLine)
    (hh : f.lines.length < e.2.1.height) (hp : px.length = e.2.1.width) (hm : e.2.2.mode ≠ 0) :
    H.lineAt h e px true = H.onOpen e.1 fun (f : RxFrame) => { f with lines := f.lines ++ [px] } := by
  have ho : H.openFrame e.1 = some f := Hall.openFrame_eq_some.mpr ⟨c, hc, hf⟩
  simp [Hall.lineAt, hc, ho, hw, hd, Nat.not_le_of_lt hh, hp.symm, hm]

/-- R416: embedded data of one camera with an open frame join it, up to 64 bytes. -/
theorem Hall.embedded_of_open {dt : Nat} {bs : List Byte} {hc : Bool} {e : Nat × CameraBody × PipeBody} {f : RxFrame}
    (he : (((H.rxActive h p vc).header h p vc hc).camsOn h p vc).filter (fun e => e.2.1.embDt == dt && dt != 0) = [e])
    (ho : ((H.rxActive h p vc).header h p vc hc).openFrame e.1 = some f) :
    H.embedded h p vc dt bs true hc =
      ((H.rxActive h p vc).header h p vc hc).onOpen e.1 fun (f : RxFrame) => { f with emb := (f.emb ++ bs).take 64 } := by
  obtain ⟨c, hcam, _⟩ := Hall.openFrame_eq_some.mp ho
  simp only [Hall.embedded, he, List.foldl_cons, List.foldl_nil, hcam, ho, if_true]

/-! ### Frame ends and timeouts (R419) -/

theorem Hall.frameEnd_of_declared {b : BitVec 4} (hv : (H.rxActive h p vc).vcDeclared h p vc = true) :
    H.frameEnd h p vc b false =
      let H2 := ((((H.rxActive h p vc).onRx p fun (P : RxPort) => { P with feedOpen := P.feedOpen.filter (· != vc) }).judgeSot h p).judgeBursts h p b)
      ((((H2.camsOn h p vc).foldl (fun (H : Hall) e => (H.closeFrame h e false).onCamera e.1 fun (c : Camera) =>
        { c with dropping := false }) H2)).nextSot p).after h := by
  simp [Hall.frameEnd, hv]

/-- R419: the cameras of a channel whose open frame's TIMEOUT_US has passed. -/
def Hall.lateOn (H : Hall) (h p vc us : Nat) : List (Nat × CameraBody × PipeBody) :=
  (H.camsOn h p vc).filter fun e => match H.openFrame e.1 with | some f => decide (f.us + e.2.1.timeoutUs ≤ us) | none => false

theorem Hall.frameTimeout_eq (us : Nat) : H.frameTimeout h p vc us = if (H.lateOn h p vc us).isEmpty then H
    else (((H.lateOn h p vc us).foldl (fun (H : Hall) e => H.closeFrame h e true) (H.judgeSot h p)).nextSot p).after h := rfl

theorem Hall.frameTimeout_of_none {us : Nat} (hl : H.lateOn h p vc us = []) : H.frameTimeout h p vc us = H := by
  simp [Hall.frameTimeout_eq, hl]

theorem Hall.frameTimeout_of_one {us : Nat} {e : Nat × CameraBody × PipeBody} (hl : H.lateOn h p vc us = [e]) :
    H.frameTimeout h p vc us = (((H.judgeSot h p).closeFrame h e true).nextSot p).after h := by
  simp [Hall.frameTimeout_eq, hl]

/-! ### Undeclared packets and sync errors (R419, R421) -/

theorem Hall.undeclared_of_badVc (hv : H.vcDeclared h p vc = false) :
    H.undeclared h p vc = (H.onRx p fun (P : RxPort) => { P with badVc := inc8 P.badVc }).rxLog p 8 :=
  if_neg (Bool.eq_false_iff.mp hv)

theorem Hall.undeclaredPacket_of_badVc {dt : Nat} (hv : H.vcDeclared h p vc = false) (hd : H.dtDeclared h p vc dt = false) :
    H.undeclaredPacket h p vc dt false = (H.onRx p fun (P : RxPort) => { P with badVc := inc8 P.badVc }).rxLog p 8 := by
  simp [Hall.undeclaredPacket, Hall.rxActive_of_undeclared hv, hd, Hall.undeclared_of_badVc hv]

theorem Hall.sotError_of_later {l : Nat} (hl : (H.rx p).sotCur.getD l 0 ≠ 0) :
    H.sotError h p l = (H.onRx p fun (P : RxPort) => { P with sot := modAt P.sot l inc8, sotCur := modAt P.sotCur l (· + 1) }).judgeSot h p := by
  simp only [Hall.sotError, hl, if_false]

end

/-- Settles O57: where the units work, a packet's effect is read off the cameras of its channel. That cameras may share a channel, and how FRAME starts,
is log entry 151's choice, that a burst is judged against another lane in use log entry 152's, and how long ACTIVE stays log entry 307's. -/
theorem cameraFramesAndFaults : Obligations.CameraFramesAndFaults := by
  refine ⟨?start, ?header, ?opens, ?line, ?full, ?embedded, ?ignored, ?ends, ?timeout, ?uncorrectable, ?undeclared, ?sync, ?off⟩
  case start =>
    intro s h p vc num us q tb hc im e hon hi hf hv he
    exact State.next_live (State.por_of_camerasOn hon) (State.frameStart_of_one hon hi hf hv he)
  case header =>
    exact fun H h p vc => ⟨rfl, rfl⟩
  case opens =>
    intro H h num us q e c ho hc
    exact ⟨fun t hl ht => Hall.frameStartAt_of_early ho hc (tooEarly_of_soon hl ht) num q,
      fun hl ha hw => Hall.frameStartAt_of_accepting ho hc (tooEarly_of_first hl us) ha hw num q⟩
  case line =>
    intro s h p vc dt px ok hc e hon hi he
    exact State.next_inRx hon hi (Hall.linePacket_of_one he)
  case full =>
    intro H h px e c f hc hf hw hd hh hp hm
    exact Hall.lineAt_of_full hc hf hw hd hh hp hm
  case embedded =>
    intro s h p vc dt bs hc e f hon hi he ho
    exact State.next_inRx hon hi (Hall.embedded_of_open he ho)
  case ignored =>
    intro s h p vc dt hon hi hdt
    exact State.next_inRx hon hi (if_pos hdt)
  case ends =>
    intro s h p vc b hon hi hv
    exact State.next_inRx hon hi (Hall.frameEnd_of_declared hv)
  case timeout =>
    intro s h p vc us hon
    exact ⟨fun hl => State.next_inCams_of_fixed hon (Hall.frameTimeout_of_none hl),
      fun e hl => State.next_inCams hon (Hall.frameTimeout_of_one hl)⟩
  case uncorrectable =>
    intro s h p vc hon hi
    exact State.next_inRx hon hi rfl
  case undeclared =>
    intro s h p vc dt hon hi hv hd
    exact State.next_inRx hon hi (Hall.undeclaredPacket_of_badVc hv hd)
  case sync =>
    intro s h p l hon hi hl
    exact State.next_inRx hon hi (Hall.sotError_of_later hl)
  case off =>
    intro s h p vc b hp hoff
    exact State.next_live hp (State.inRx_of_off hoff p _)

end Sys2Proof.Machine
end

section
/-! The ISP's pieces, and the sensor buses, parameter copies and degrade writes (R422, R426, R433, R439, R440). -/

namespace Sys2Proof.Machine

/-! ### A piece starts (R426) -/

/-- Where a single element of a list without repeats answers, the answers are that element's. -/
theorem filterMap_eq_singleton {α β : Type} [DecidableEq α] {l : List α} {f : α → Option β} {a : α} {b : β} (hl : l.Nodup) (ha : a ∈ l)
    (hb : f a = some b) (hn : ∀ x, x ≠ a → f x = none) : l.filterMap f = [b] := by
  have hf : f = fun x => if x == a then f x else none := by
    funext x
    by_cases hx : x = a <;> simp [hx, hn]
  rw [hf, ← List.filterMap_filter, List.filter_beq, hl.count, if_pos ha]
  simp [hb]

section
variable {H : Hall} {h n : Nat} {e : Nat × CameraBody × PipeBody} {f : RxFrame}

/-- R426: the ready piece of context n, with its place in the order of the ISP: class, then distance from the rotating pointer. -/
def Hall.readyPiece (H : Hall) (h n : Nat) : Option (Nat × Nat × CameraBody × PipeBody) :=
  match H.ctxCamera h n with
  | some e => if H.pieceReady e then some (e.2.2.cls * 32 + (n + 32 - H.cam.ptr % 32) % 32, e) else none
  | none => none

/-- R426: the ISP with a camera's next piece begun. -/
def Hall.takePiece (H : Hall) (e : Nat × CameraBody × PipeBody) : Hall :=
  let p := e.2.2
  let switch := H.cam.lastCtx != some p.ctx
  let done := match H.ispFrame p.ctx e.1 with | some f => p.stripeLines * f.pieces | none => 0
  let cycles := (if switch then 256 else 0) + min p.stripeLines (e.2.1.height - done) * cdiv e.2.1.width 4
  ({ H with cam := { H.cam with piece := some p.ctx, lastCtx := some p.ctx, busy := H.cam.busy + cycles } }.count 1623 cycles).count 1624 (b2n switch)

theorem Hall.pieceStart_eq (H : Hall) (h : Nat) : H.pieceStart h =
    if H.cam.piece.isSome then H
    else match sortKeys ((List.range 32).filterMap (H.readyPiece h)) with
      | [] => H
      | (_, e) :: _ => H.takePiece e := rfl

theorem Hall.pieceStart_of_busy (hp : H.cam.piece.isSome = true) : H.pieceStart h = H := if_pos hp

theorem Hall.readyPiece_of_ready (he : H.ctxCamera h n = some e) (hr : H.pieceReady e = true) :
    H.readyPiece h n = some (e.2.2.cls * 32 + (n + 32 - H.cam.ptr % 32) % 32, e) := by
  simp only [Hall.readyPiece, he, hr, if_true]

theorem Hall.readyPiece_of_unready (hr : ∀ e, H.ctxCamera h n = some e → H.pieceReady e = false) : H.readyPiece h n = none := by
  cases he : H.ctxCamera h n with
  | none => simp only [Hall.readyPiece, he]
  | some e => simp [Hall.readyPiece, he, hr e he]

theorem Hall.pieceStart_of_one (hp : H.cam.piece = none) (hn : n < 32) (he : H.ctxCamera h n = some e) (hr : H.pieceReady e = true)
    (ho : ∀ m e', m ≠ n → H.ctxCamera h m = some e' → H.pieceReady e' = false) : H.pieceStart h = H.takePiece e := by
  have hone := filterMap_eq_singleton List.nodup_range (List.mem_range.mpr hn) (Hall.readyPiece_of_ready he hr)
    fun m hm => Hall.readyPiece_of_unready fun e' => ho m e' hm
  rw [Hall.pieceStart_eq, hone, hp]
  rfl

/-- R426: without a switch of context a piece costs its lines alone. -/
theorem Hall.takePiece_of_same (hl : H.cam.lastCtx = some e.2.2.ctx) (hf : H.ispFrame e.2.2.ctx e.1 = some f) :
    H.takePiece e =
      let cycles := min e.2.2.stripeLines (e.2.1.height - e.2.2.stripeLines * f.pieces) * cdiv e.2.1.width 4
      (({ H with cam := { H.cam with piece := some e.2.2.ctx, lastCtx := some e.2.2.ctx, busy := H.cam.busy + cycles } } : Hall).count 1623
        cycles).count 1624 0 := by
  simp [Hall.takePiece, hl, hf, b2n]

/-! ### A piece ends (R433) -/

/-- The hall with no piece in progress. -/
def Hall.pieceEnded (H : Hall) : Hall := { H with cam := { H.cam with piece := none } }

theorem Hall.pieceDone_of_none (hp : H.cam.piece = none) : H.pieceDone h = H := by
  simp only [Hall.pieceDone, hp, Option.bind_none]

theorem Hall.pieceDone_of_gone (hp : H.cam.piece = some n) (he : H.ctxCamera h n = some e) (hf : H.ispFrame e.2.2.ctx e.1 = none) :
    H.pieceDone h = H.pieceEnded := by
  have hf' : ({ H with cam := { H.cam with piece := none } } : Hall).ispFrame e.2.2.ctx e.1 = none := hf
  simp only [Hall.pieceDone, Hall.pieceEnded, hp, Option.bind_some, he, hf']

theorem Hall.deliverStats_of_none {p : PipeBody} (hs : p.statsAddr = 0xFFFFFFFF) (f : RxFrame) (bs : List Byte) : H.deliverStats h p f bs = H :=
  if_pos hs

/-- R433: the last piece of a frame of output 0 alone, without statistics, writes its rows and delivers the frame. -/
theorem Hall.pieceDone_of_last (hp : H.cam.piece = some n) (he : H.ctxCamera h n = some e) (hf : H.ispFrame e.2.2.ctx e.1 = some f)
    (h0 : f.out0 = true) (h1 : f.out1 = false) (hs : e.2.2.statsAddr = 0xFFFFFFFF) (hl : e.2.1.height ≤ e.2.2.stripeLines * (f.pieces + 1)) :
    H.pieceDone h =
      let p := e.2.2
      let lim := p.stripeLines * (f.pieces + 1)
      let set := f.params.getD defaultSet
      let r5 := stage5 set p.bits p.mosaic e.2.1.width e.2.1.height (f.rows e.2.1 (lim + 4))
      let k := (((f.fsSweep * 4096 + f.fsTick) * 2 ^ 32 + f.frame) * 32 + p.ctx) * 2 + h
      let H1 := H.pieceEnded.outPiece h p.out0 f (pieceRows k p.bits p.mosaic p.out0 (p.stripeLines * f.pieces) lim true
        (formatAt k set p.bits p.mosaic p.out0.fmt r5 (irRemove set p.mosaic r5)))
      let H2 := H1.onIsp p.ctx fun (x : IspCtx) => { x with frames := x.frames.drop 1 }
      (((H2.deliver h p.out0 f e.1 (H2.rx e.2.1.port).width).count (1607 + e.2.1.port) 1).count (1615 + e.2.1.port)
        (b2n (f.flags != 0))).after h := by
  have hf' : ({ H with cam := { H.cam with piece := none } } : Hall).ispFrame e.2.2.ctx e.1 = some f := hf
  simp [Hall.pieceDone, Hall.pieceEnded, hp, he, hf', h0, h1, hl, Hall.deliverStats_of_none hs]

end

/-! ### Sensor writes (R440) -/

section
variable {H : Hall} {h n id : Nat} {r : SetRec} (hr : H.busRec h n = some (id, r))
include hr

theorem Hall.sensorWrite_of_ack : H.sensorWrite h n true =
    let H1 := H.onBusRec id r fun (x : SetRec) => { x with left := x.left - 1, retried := false, sent := x.left == 1 }
    if r.left = 1 then (H1.snsCount (H.camCtx h id) 0).busStart h n else H1 := by
  simp only [Hall.sensorWrite, hr, if_true]

theorem Hall.sensorWrite_of_nack : H.sensorWrite h n false =
    let H1 : Hall := { H with cam := { H.cam with nacks := modAt H.cam.nacks n inc16 } }
    if r.retried then H1.abandonRec h n id r else H1.onBusRec id r fun (x : SetRec) => { x with retried := true } := by
  simp only [Hall.sensorWrite, hr, Bool.false_eq_true, if_false]

/-- R440: a stuck I2C bus is reset, and its record abandoned. -/
theorem Hall.busTimeout_of_i2c {b : CameraBody} {p : PipeBody} (he : H.camEntry h id = some (b, p)) (hb : b.bus < 2) :
    H.busTimeout h n = ({ H with cam := { H.cam with busResets := modAt H.cam.busResets n inc8 } } : Hall).abandonRec h n id r := by
  simp only [Hall.busTimeout, hr, he, hb, if_true]

end

/-! ### Degrade writes (R422) -/

/-- R422: a camera has degrade writes still to send. -/
def Hall.degradesLeft (H : Hall) (id : Nat) : Bool :=
  match H.camera id with
  | some c => c.recs.any fun r => r.degrade && !r.failed && decide (0 < r.left)
  | none => false

theorem Hall.degradeDone_eq (H : Hall) (h p : Nat) : H.degradeDone h p =
    if (H.rx p).narrowing && !((H.camsOnPort h p).any fun e => H.degradesLeft e.1) then
      H.onRx p fun (P : RxPort) => { P with narrowing := false, accepting := true }
    else H := rfl

theorem Hall.degradesLeft_of_sent {H : Hall} {id : Nat}
    (hs : ∀ c, H.camera id = some c → ∀ r ∈ c.recs, r.degrade = true → r.failed = true ∨ r.left = 0) : H.degradesLeft id = false := by
  cases hc : H.camera id with
  | none => simp only [Hall.degradesLeft, hc]
  | some c =>
    simp only [Hall.degradesLeft, hc, List.any_eq_false, Bool.and_eq_true, Bool.not_eq_true', decide_eq_true_eq]
    rintro r hr ⟨⟨hd, hfailed⟩, hleft⟩
    rcases hs c hc r hr hd with hf | h0
    · exact Bool.false_ne_true (hfailed.symm.trans hf)
    · exact Nat.ne_of_gt hleft h0

theorem Hall.degradeDone_of_sent {H : Hall} {h p : Nat} (hn : (H.rx p).narrowing = true)
    (hs : ∀ e ∈ H.camsOnPort h p, ∀ c, H.camera e.1 = some c → ∀ r ∈ c.recs, r.degrade = true → r.failed = true ∨ r.left = 0) :
    H.degradeDone h p = H.onRx p fun (P : RxPort) => { P with narrowing := false, accepting := true } := by
  have hany : ((H.camsOnPort h p).any fun e => H.degradesLeft e.1) = false :=
    List.any_eq_false.mpr fun e he => Bool.eq_false_iff.mp (Hall.degradesLeft_of_sent (hs e he))
  rw [Hall.degradeDone_eq, hn, hany]
  rfl

/-- Settles O58: a piece is read off the ready contexts and the frame it belongs to, a write off the record on its bus. Which rows a piece writes is log
entry 156's choice, that abandoned degrade records end the narrowing log entry 152's, that the shadow bank is the one to become active log entry 157's;
when a record has writes to send is log entry 313's deduction. -/
theorem ispPiecesAndSensorBuses : Obligations.IspPiecesAndSensorBuses := by
  refine ⟨?pieces, ?buses, ?copy, ?degrade⟩
  case pieces =>
    intro s h hon
    refine ⟨fun hp => ?_, fun n e f hp hn hx he hr ho hf hl => ?_, fun tb hp => ?_, fun tb n e hp he hf => ?_,
      fun tb n e f hp he hf h0 h1 hs hl => ?_⟩
    · exact State.next_inCams_of_fixed hon (Hall.pieceStart_of_busy hp)
    · subst hx
      exact State.next_inCams hon ((Hall.pieceStart_of_one hp hn he hr ho).trans (Hall.takePiece_of_same hl hf))
    · exact State.next_inCams hon (congrArg (Hall.after · h.idx) (Hall.pieceDone_of_none hp))
    · exact State.next_inCams hon (congrArg (Hall.after · h.idx) (Hall.pieceDone_of_gone hp he hf))
    · exact State.next_inCams hon (congrArg (Hall.after · h.idx) (Hall.pieceDone_of_last hp he hf h0 h1 hs hl))
  case buses =>
    intro s h n id r hon hr
    refine ⟨fun hl => ?_, fun hl => ?_, fun ht => ?_, fun ht => ?_, fun b p he hb => ?_⟩
    · exact State.next_inCams hon ((Hall.sensorWrite_of_ack hr).trans (if_neg (Nat.ne_of_gt hl)))
    · exact State.next_inCams hon ((Hall.sensorWrite_of_ack hr).trans (if_pos hl))
    · exact State.next_inCams hon ((Hall.sensorWrite_of_nack hr).trans (if_neg (Bool.eq_false_iff.mp ht)))
    · exact State.next_inCams hon ((Hall.sensorWrite_of_nack hr).trans (if_pos ht))
    · exact State.next_inCams hon (Hall.busTimeout_of_i2c hr he hb)
  case copy =>
    intro s h n hon
    exact State.next_inCams hon rfl
  case degrade =>
    intro s h p hon hn hs
    exact State.next_inCams hon (Hall.degradeDone_of_sent hn hs)

end Sys2Proof.Machine
end

section
/-! Host ports: what a change of a port leaves, direct and broadcast common command codes, identity and resets (R445 to R448, R493). -/

namespace Sys2Proof.Machine

/-! ### A port changed -/

/-- Changes of a port that agree on the port as it is. -/
theorem State.onPort_congr {s : State} {p : Nat} {f g : Port → Port} (e : f (s.port p) = g (s.port p)) : s.onPort p f = s.onPort p g := by
  refine State.onHall_congr (congrArg (fun l => { s.hall (portHall p) with ports := l }) (modAt_congr fun P hP => ?_))
  have hs : s.port p = P := by simp only [State.port, hP, Option.getD_some]
  rw [← hs]
  exact e

@[simp] theorem State.onPort_onPort (s : State) (p : Nat) (f g : Port → Port) : (s.onPort p f).onPort p g = s.onPort p fun P => g (f P) := by
  simp only [State.onPort, State.onHall_onHall, modAt, List.modify_modify_eq]
  rfl

/-- A port with a dynamic address is one that the hall has. -/
theorem State.port_onPort {s : State} {p : Nat} (hd : (s.port p).dyn ≠ 0) (f : Port → Port) : (s.onPort p f).port p = f (s.port p) := by
  cases hP : (s.hall (portHall p)).ports[portIdx p]? with
  | none => exact absurd (by simp only [State.port, hP]; rfl) hd
  | some P => simp [State.port, State.onPort, modAt, hP]

@[simp] theorem State.onPort_hall_dev (s : State) (p : Nat) (f : Port → Port) (h : HallId) : ((s.onPort p f).hall h).dev = (s.hall h).dev := by
  by_cases e : h = portHall p
  · subst e
    rw [State.onPort, State.hall_onHall]
  · exact congrArg Hall.dev (State.hall_onHall_ne _ _ e)

/-- A counter event does not see the hall's ports. -/
theorem State.count_onPort (s : State) (p : Nat) (f : Port → Port) (n k : Nat) :
    (s.onPort p f).count (portHall p) n k = (s.count (portHall p) n k).onPort p f := by
  simp only [State.count, State.onPort, State.onHall_onHall]
  refine State.onHall_congr ?_
  unfold Hall.count
  split <;> rfl

/-! ### Common command codes (R447) -/

section
variable {s : State} {p : Nat} (hp : s.por = false) (hu : s.portUp p = true)
include hu

theorem State.lt_of_portUp : p < 4 := by
  simp only [State.portUp, Bool.and_eq_true, decide_eq_true_eq] at hu
  exact hu.1.1

theorem State.portReset_of_up : s.portReset p = (s.onPort p Port.resetPort).newChallenge p := if_pos hu

/-- R447: a direct code, by what it leaves of the port. -/
theorem State.direct_of_up (hd : (s.port p).dyn ≠ 0) {f g : Port → Port} {r : Port → List Byte}
    (e : f { s.port p with reply := some (r (s.port p)) } = g (s.port p)) : s.direct p f r = s.onPort p g := by
  refine (if_pos (by rw [hu, bne_iff_ne.2 hd]; rfl)).trans ?_
  rw [State.ack, State.onPort_onPort]
  exact State.onPort_congr e

include hp

theorem State.next_broadcast (f : Port → Port) :
    (.next (s.live fun s => s.broadcast p f) : Host.Outcome State Fault Refusal) = .next (s.whole fun _ => s.onPort p f) :=
  State.next_live hp (if_pos hu)

theorem State.next_direct (hd : (s.port p).dyn ≠ 0) {f g : Port → Port} {r : Port → List Byte}
    (e : f { s.port p with reply := some (r (s.port p)) } = g (s.port p)) :
    (.next (s.live fun s => s.direct p f r) : Host.Outcome State Fault Refusal) = .next (s.whole fun _ => s.onPort p g) :=
  State.next_live hp (State.direct_of_up hu hd e)

end

/-! ### Identity (R446) -/

/-- R13: a number's low bytes, most significant first, give it back. -/
theorem foldl_beBytes (n v : Nat) : (beBytes n v).foldl (fun a b => 256 * a + b.toNat) 0 = v % 256 ^ n := by
  rw [beBytes, List.foldl_reverse]
  induction n generalizing v with
  | zero => exact (Nat.mod_one v).symm
  | succ n ih => rw [leBytes, List.foldr_cons, ih, Nat.pow_succ', Nat.mod_mul, BitVec.toNat_ofNat, Nat.add_comm]

theorem leBytes_length (n v : Nat) : (leBytes n v).length = n := by
  induction n generalizing v with
  | zero => rfl
  | succ n ih => rw [leBytes, List.length_cons, ih]

theorem provisionalId_length (p : Nat) : (provisionalId p).length = 6 := by
  rw [provisionalId, beBytes, List.length_reverse, leBytes_length]

theorem provisionalId_value {p : Nat} (hp : p < 4) :
    (provisionalId p).foldl (fun a b => 256 * a + b.toNat) 0 = 0x2C5 * 2 ^ 33 + 0x2960 * 2 ^ 16 + p * 2 ^ 12 + 0xB1 := by
  rw [provisionalId, foldl_beBytes, stepping]
  omega

/-- Settles O42: the identity is the provisional ID, a number whose fields are read off its bytes. -/
theorem everyPortReportsItsIdentity : Obligations.EveryPortReportsItsIdentity := by
  intro s p hp hu
  refine ⟨provisionalId p, provisionalId_length p, ?fields, fun hd => ⟨?pid, ?bcr, ?dcr⟩, fun hd addr => ?entdaa⟩
  case fields =>
    have hlt := State.lt_of_portUp hu
    simp only [provisionalId_value hlt]
    omega
  case pid => exact State.next_direct hp hu hd rfl
  case bcr => exact State.next_direct hp hu hd rfl
  case dcr => exact State.next_direct hp hu hd rfl
  case entdaa =>
    refine State.next_live hp ((if_pos (by simp [hu, hd])).trans ?_)
    rw [State.ack, State.onPort_onPort]

/-- Settles O43: each code is its change of the port where it applies. That ENEC, DISEC, SETMWL and SETMRL act without a dynamic address is log entry
178's choice, what GETSTATUS counts log entry 175's. -/
theorem commonCommandCodes : Obligations.CommonCommandCodes := by
  refine ⟨fun s p hp hu => ⟨?setdasa, ?foreign, ?rstdaa, ?events, ?lengths, ?enter, ?leave, ?reset, ?hallReset, ?noRight, ?direct⟩, ?kept⟩
  case setdasa =>
    intro addr hd
    refine State.next_live hp ((if_pos (by simp [hu, hd])).trans ?_)
    rw [State.ack, State.onPort_onPort]
  case foreign =>
    intro st addr hst
    exact State.next_live hp (if_neg (by simp [hst]))
  case rstdaa => exact State.next_broadcast hp hu _
  case events => exact fun e => ⟨State.next_broadcast hp hu _, State.next_broadcast hp hu _⟩
  case lengths => exact fun n i => ⟨State.next_broadcast hp hu _, State.next_broadcast hp hu _⟩
  case enter => exact State.next_broadcast hp hu _
  case leave => exact State.next_broadcast hp hu _
  case reset => exact State.next_live hp (State.portReset_of_up hu)
  case hallReset =>
    intro hr
    exact State.next_live hp (if_pos (by simp [hu, hr]))
  case noRight =>
    intro hr
    exact State.next_live hp ((if_neg (by simp [hr])).trans (State.portReset_of_up hu))
  case direct =>
    intro hd
    exact ⟨State.next_direct hp hu hd rfl, State.next_direct hp hu hd rfl, State.next_direct hp hu hd rfl, State.next_direct hp hu hd rfl,
      State.next_live hp (State.direct_of_up hu hd rfl)⟩
  case kept => exact fun _ => ⟨rfl, rfl, rfl, rfl, rfl, rfl, rfl, rfl, rfl, rfl⟩

end Sys2Proof.Machine
end

section
/-! The transfers that carry capsules and responses, what the bytes of a capsule come to, IBIs, and forwarded capsules without an answer (R449 to
R456, R467, R468, R482). -/

namespace Sys2Proof.Machine

/-! ### Writes (R449, R454, R455) -/

@[simp] theorem Hall.count_ports (H : Hall) (n k : Nat) : (H.count n k).ports = H.ports := by unfold Hall.count; split <;> rfl

@[simp] theorem State.count_port (s : State) (p n k : Nat) : (s.count (portHall p) n k).port p = s.port p := by
  simp only [State.port, State.count, State.hall_onHall, Hall.count_ports]

theorem Port.refill_floods (P : Port) (tb : Nat) :
    (decide (8 ≤ (P.refill tb).outstanding) || decide ((P.refill tb).budget < 50000)) =
      decide (8 ≤ P.outstanding ∨ (P.refill tb).budget < 50000) :=
  (Bool.decide_or ..).symm

section
variable {s : State} {p : Nat} (hu : s.portUp p = true) (hd : (s.port p).dyn ≠ 0)
include hu hd

/-- R449: a port that is up and addressed takes part in transfers. -/
theorem State.answers_of_up : (!s.portUp p || (s.port p).dyn == 0) = false := by
  rw [hu, beq_false_of_ne hd]
  rfl

section
variable (hn : (s.port p).nackNext = false) {tb : Nat} {bytes : List Byte}
include hn

theorem State.privateWrite_of_flood (hf : 8 ≤ (s.port p).outstanding ∨ ((s.port p).refill tb).budget < 50000) :
    s.privateWrite p bytes tb = (s.count (portHall p) (1666 + portIdx p) 1).onPort p fun P =>
      { P with
        budget := ((s.port p).refill tb).budget, budgetTb := ((s.port p).refill tb).budgetTb
        reply := none, floods := inc16 P.floods } := by
  simp only [State.privateWrite, State.answers_of_up hu hd, hn, State.port_onPort hd, Port.refill_floods, hf, decide_true, if_true,
    Bool.false_eq_true, if_false, State.count_onPort, State.onPort_onPort]
  refine State.onPort_congr ?_
  rw [State.count_port]
  rfl

section
variable (hf : ¬(8 ≤ (s.port p).outstanding ∨ ((s.port p).refill tb).budget < 50000))
include hf

theorem State.privateWrite_of_incomplete (hc : capsuleStatus ((s.port p).partialBytes ++ bytes) = none) :
    s.privateWrite p bytes tb = s.onPort p fun P =>
      { P with
        budget := ((s.port p).refill tb).budget, budgetTb := ((s.port p).refill tb).budgetTb
        reply := some [], partialBytes := (s.port p).partialBytes ++ bytes } := by
  have hbs : ((s.port p).refill tb).partialBytes = (s.port p).partialBytes := rfl
  simp only [State.privateWrite, State.answers_of_up hu hd, hn, State.port_onPort hd, Port.refill_floods, hf, hbs, hc, decide_false,
    Bool.false_eq_true, if_false, State.onPort_onPort]
  exact State.onPort_congr rfl

theorem State.privateWrite_of_sound {bs : List Byte} (hbs : (s.port p).partialBytes ++ bytes = bs) (hc : capsuleStatus bs = some 0) :
    s.privateWrite p bytes tb = s.onPort p fun P =>
      { P with
        budget := ((s.port p).refill tb).budget - 50000, budgetTb := ((s.port p).refill tb).budgetTb
        reply := some [], partialBytes := []
        queue := P.queue ++ [{ opcode := fld bs 0 1, tag := fld bs 2 2, session := fld bs 8 4, payload := bs.drop 16 }] } := by
  have hbs' : ((s.port p).refill tb).partialBytes ++ bytes = bs := hbs
  simp only [State.privateWrite, State.answers_of_up hu hd, hn, State.port_onPort hd, Port.refill_floods, hf, hbs', hc, decide_false,
    Bool.false_eq_true, if_false, if_true, State.onPort_onPort]
  exact State.onPort_congr rfl

theorem State.privateWrite_of_broken {bs : List Byte} (hbs : (s.port p).partialBytes ++ bytes = bs) {st : Nat} (hst : st ≠ 0)
    (hc : capsuleStatus bs = some st) :
    s.privateWrite p bytes tb = (s.onPort p fun P =>
      { P with
        budget := ((s.port p).refill tb).budget - 50000, budgetTb := ((s.port p).refill tb).budgetTb
        reply := some [], partialBytes := [] }).respond p (fld bs 0 1) (fld bs 2 2) (fld bs 8 4) st (leBytes 4 0) := by
  have hbs' : ((s.port p).refill tb).partialBytes ++ bytes = bs := hbs
  simp only [State.privateWrite, State.answers_of_up hu hd, hn, State.port_onPort hd, Port.refill_floods, hf, hbs', hc, hst, decide_false,
    Bool.false_eq_true, if_false, State.answerBad, State.onPort_onPort]
  exact congrArg (State.respond · p (fld bs 0 1) (fld bs 2 2) (fld bs 8 4) st (leBytes 4 0)) (State.onPort_congr rfl)

end
end

/-! ### Reads (R449) -/

theorem State.responseRead_of_empty (hn : (s.port p).nackNext = false) (hr : (s.port p).resps = []) (n : Nat) :
    s.responseRead p n = s.nack p := by
  simp only [State.responseRead, State.answers_of_up hu hd, hn, hr, Bool.false_eq_true, if_false]

section
variable (hn : (s.port p).nackNext = false) {n : Nat} {r : Response} {rest : List Response} (hr : (s.port p).resps = r :: rest) {got : List Byte}
  (hg : (r.bytes.drop r.read).take (min n (s.port p).mrl) = got)
include hn hr hg

theorem State.responseRead_of_part (hl : r.read + got.length < r.bytes.length) :
    s.responseRead p n = s.onPort p fun P =>
      { P with reply := some got, resps := { r with read := r.read + got.length } :: rest } := by
  simp only [State.responseRead, State.answers_of_up hu hd, hn, hr, hg, Nat.not_le.2 hl, decide_false, Bool.false_eq_true, if_false]

theorem State.responseRead_of_last (hl : r.bytes.length ≤ r.read + got.length) :
    s.responseRead p n = (s.count (portHall p) (1664 + portIdx p) 1).onPort p fun P =>
      { P with reply := some got, resps := rest, answered := inc32 P.answered } := by
  simp only [State.responseRead, State.answers_of_up hu hd, hn, hr, hg, hl, decide_true, Bool.false_eq_true, if_false, if_true]

end

end

/-! ### What the bytes joined come to (R450 to R453) -/

section
variable {bs : List Byte}

theorem capsuleStatus_of_noHeader (h : bs.length < 16) : capsuleStatus bs = none := if_pos h

theorem capsuleStatus_of_missing (h : 16 ≤ bs.length) (hn : fld bs 4 2 ≤ 4096) (hm : bs.length < 16 + fld bs 4 2) : capsuleStatus bs = none := by
  simp only [capsuleStatus, Nat.not_lt.2 h, Nat.not_lt.2 hn, hm, if_true, if_false]

theorem capsuleStatus_of_badCrc (h : 16 ≤ bs.length) (hn : fld bs 4 2 ≤ 4096) (hm : 16 + fld bs 4 2 ≤ bs.length) (hc : capsuleCrcOk bs = false) :
    capsuleStatus bs = some 1 := by
  simp only [capsuleStatus, Nat.not_lt.2 h, Nat.not_lt.2 hn, Nat.not_lt.2 hm, hc, if_false, Bool.not_false, if_true]

/-- R450 to R453: of the statuses only OK leaves no rule broken. -/
theorem sound_of_capsuleStatus (e : capsuleStatus bs = some 0) :
    bs.length = 16 + fld bs 4 2 ∧ fld bs 4 2 ≤ 4096 ∧ capsuleCrcOk bs = true ∧ headerBad bs = false := by
  unfold capsuleStatus at e
  simp only [] at e
  split at e
  · cases e
  split at e
  · split at e <;> cases e
  split at e
  · cases e
  split at e
  · cases e
  split at e
  · cases e
  split at e
  · cases e
  next hlong hmissing hcrc hheader hshort =>
    refine ⟨by omega, by omega, ?_, ?_⟩
    · simpa using hcrc
    · simpa using hheader

end

/-- Settles O44: the guards of each transfer decide its branch. What the budget is, is log entry 171's deduction; the order of the statuses and what
a parity error leaves is log entry 170's choice, that an answer echoes its SESSION log entry 172's, its DETAIL of 0 log entry 315's. -/
theorem privateTransfersCarryCapsules : Obligations.PrivateTransfersCarryCapsules := by
  refine ⟨?write, ?status, ?idle, ?parity, ?read, ?nothing, ?ibi, ?far⟩
  case write =>
    intro s p tb bytes hp hu hd hn
    refine ⟨fun hf => State.next_live hp (State.privateWrite_of_flood hu hd hn hf), fun ho hb => ?_⟩
    have hf : ¬(8 ≤ (s.port p).outstanding ∨ ((s.port p).refill tb).budget < 50000) := not_or.2 ⟨Nat.not_le.2 ho, Nat.not_lt.2 hb⟩
    refine ⟨fun hc => ?_, fun hc => ?_, fun st hst hc => ?_⟩
    · exact State.next_live hp (State.privateWrite_of_incomplete hu hd hn hf hc)
    · exact State.next_live hp (State.privateWrite_of_sound hu hd hn hf rfl hc)
    · exact State.next_live hp (State.privateWrite_of_broken hu hd hn hf rfl hst hc)
  case status =>
    exact fun bs => ⟨capsuleStatus_of_noHeader, capsuleStatus_of_missing, capsuleStatus_of_badCrc, sound_of_capsuleStatus⟩
  case idle =>
    intro s p hp hu hb
    exact State.next_live hp (if_neg (by simp [hu, hb]))
  case parity =>
    intro s p c hp hu hd
    exact State.next_live hp (if_neg (Bool.eq_false_iff.1 (State.answers_of_up hu hd)))
  case read =>
    intro s p n r rest hp hu hd hn hr
    exact ⟨fun hl => State.next_live hp (State.responseRead_of_part hu hd hn hr rfl hl),
      fun hl => State.next_live hp (State.responseRead_of_last hu hd hn hr rfl hl)⟩
  case nothing =>
    intro s p n hp hu hr hn
    refine State.next_live hp ?_
    by_cases hd : (s.port p).dyn = 0
    · exact if_pos (by simp [hd])
    · exact State.responseRead_of_empty hu hd hn hr n
  case ibi =>
    intro s p e hp hu hd he hf
    refine State.next_live hp ?_
    simp only [State.ibiSlot, hf]
    exact if_pos (by rw [hu, bne_iff_ne.2 hd, he]; rfl)
  case far =>
    intro s p op tag ses hp hlt hw
    refine State.next_live hp ((if_pos hlt).trans ?_)
    simp only [State.endForwarded, hw]

end Sys2Proof.Machine
end

section
/-! A capsule first in its port's queue is started, executed and answered (R452, R454, R457), and the rules that its payload is held against (R453,
R624). -/

namespace Sys2Proof.Machine

/-! ### Starting and answering (R452, R454) -/

theorem Hall.serves_of_dev {H K : Hall} (e : K.dev = H.dev) : K.serves = H.serves := by
  unfold Hall.serves
  rw [e]

section
variable {s : State} {p : Nat} {c : Capsule} {rest : List Capsule} {op : Nat} {kind : Option Nat} (hq : s.Heads p c rest op kind)
include hq

/-- R454: the row of the capsule's OPCODE and first payload byte executes it without its place in the queue, and answers it while the hall serves the
port. -/
theorem State.Heads.startCapsule {kinds : Option (Nat × Nat)} (hk : kinds.map Prod.fst = kind) {run : HallId → Capsule → State → State × Reply}
    {v : State} {r : Reply} (e : run (portHall p) c (s.taken p rest) = (v, r)) (hv : (v.hall (portHall p)).serves = true) :
    s.startCapsule p op kinds run = v.settleReply p c r := by
  have hrun : run (portHall p) c (s.onPort p fun P => { P with queue := rest }) = (v, r) := e
  cases kinds with
  | none => simp [State.startCapsule, hq.queue, hq.port, hq.op, hq.serves, hq.turn, hrun, hv]
  | some k =>
    obtain ⟨b, tail, hb, hn⟩ := hq.kind k.1 hk.symm
    simp [State.startCapsule, hq.queue, hq.port, hq.op, hq.serves, hq.turn, hrun, hv, hb, hn]

/-- The hall serves the port still where the capsule leaves its DEV block alone. -/
theorem State.Heads.serves_of_dev {v : State} (e : (v.hall (portHall p)).dev = ((s.taken p rest).hall (portHall p)).dev) :
    (v.hall (portHall p)).serves = true :=
  (Hall.serves_of_dev (e.trans (s.onPort_hall_dev ..))).trans hq.serves

theorem State.Heads.next_ok {kinds : Option (Nat × Nat)} (hk : kinds.map Prod.fst = kind) {run : HallId → Capsule → State → State × Reply}
    {v : State} {bs : List Byte} (e : run (portHall p) c (s.taken p rest) = (v, .ok bs)) (hv : (v.hall (portHall p)).serves = true) :
    (.next (s.live fun s => s.startCapsule p op kinds run) : Host.Outcome State Fault Refusal) =
      .next (s.whole fun _ => v.respond p op c.tag c.session 0 bs) := by
  refine State.next_live hq.por ((hq.startCapsule hk e hv).trans ?_)
  rw [State.settleReply, hq.op]

theorem State.Heads.next_later {kinds : Option (Nat × Nat)} (hk : kinds.map Prod.fst = kind) {run : HallId → Capsule → State → State × Reply}
    {v : State} {w : Wait} (e : run (portHall p) c (s.taken p rest) = (v, .later w)) (hv : (v.hall (portHall p)).serves = true) :
    (.next (s.live fun s => s.startCapsule p op kinds run) : Host.Outcome State Fault Refusal) =
      .next (s.whole fun _ => v.onPort p fun P => { P with waits := P.waits ++ [w] }) :=
  State.next_live hq.por (hq.startCapsule hk e hv)

end

/-- R450: the first payload byte of a capsule of a row with kinds. -/
theorem State.Heads.kind_eq {s : State} {p : Nat} {c : Capsule} {rest : List Capsule} {op k : Nat} (hq : s.Heads p c rest op (some k)) :
    fld c.payload 0 1 = k := by
  obtain ⟨b, tail, hb, hn⟩ := hq.kind k rfl
  simp [fld, slice, le, hb, hn]

theorem State.Heads.payload_ne_nil {s : State} {p : Nat} {c : Capsule} {rest : List Capsule} {op k : Nat} (hq : s.Heads p c rest op (some k)) :
    c.payload ≠ [] := by
  obtain ⟨b, tail, hb, -⟩ := hq.kind k rfl
  simp [hb]

/-! ### The rules of a payload (R453, R457, R624) -/

/-- R624: a capsule that breaks no rule has no status but OK. -/
theorem firstErr_of_sound {l : List (Bool × Nat × Nat)} (h : ∀ b ∈ l, b.1 = false) : firstErr l = none := by
  induction l with
  | nil => rfl
  | cons b r ih =>
    obtain ⟨bad, st, d⟩ := b
    obtain rfl : bad = false := h _ List.mem_cons_self
    exact ih fun x hx => h x (List.mem_cons_of_mem _ hx)

@[simp] theorem badAt_fst (off : Nat) (bad : Bool) : (badAt off bad).1 = bad := rfl
@[simp] theorem short_fst (pl : List Byte) (n : Nat) : (short pl n).1 = decide (pl.length < n) := rfl
@[simp] theorem Hall.noImage_fst (H : Hall) : H.noImage.1 = H.image.isNone := rfl

theorem HallId.idx_le (h : HallId) : h.idx ≤ 1 := by cases h <;> decide

section
variable {u : State} {p : Nat} {c : Capsule} {e : Session} {r : Nat} (hn : u.Named p c e r)
include hn

theorem State.Named.isNone : (u.hall (portHall p)).image.isNone = false := Option.isNone_eq_false_iff.2 hn.image

theorem State.Named.unbound : Machine.unbound p (some e) = false := by simp [Machine.unbound, hn.bound]

theorem State.Named.denied (hpart : (u.hall (portHall p)).hasPart p e.part = true) :
    (u.hall (portHall p)).denied p r true (some e) = false := by simp [Hall.denied, hn.right, hpart]

end

end Sys2Proof.Machine
end

section
/-! BIND and UNBIND of sessions, streams and feed rings (R459 to R462, R492, R514). -/

namespace Sys2Proof.Machine

/-! ### BIND of a session (R459, R491 to R493) -/

/-- R459: the free number found is one that no session of the hall has. -/
theorem Hall.unused_of_freeSession {H : Hall} {h n : Nat} (e : H.freeSession h = some n) :
    (∀ x ∈ H.sec.sessions, x.num ≠ n) ∧ (if h = 0 then n < 131072 else 131072 ≤ n ∧ n < 262141) := by
  unfold Hall.freeSession at e
  obtain ⟨i, hi, hfree⟩ := List.exists_of_findSome?_eq_some e
  have hlt := lt_of_lt_of_le (List.mem_range.1 hi) (Nat.min_le_left _ _)
  rw [Option.ite_none_left_eq_some] at hfree
  obtain ⟨hused, hnum⟩ := hfree
  obtain rfl := Option.some.inj hnum
  refine ⟨fun x hx e => hused (List.contains_iff_mem.2 (List.mem_map.2 ⟨x, hx, e⟩)), ?_⟩
  by_cases h0 : h = 0
  · simp only [h0, if_true] at hlt ⊢
    omega
  · simp only [h0, if_false] at hlt ⊢
    omega

theorem State.hall_withFree (s : State) (n : Nat) (h : HallId) : ({ s with free := n } : State).hall h = s.hall h := by cases h <;> rfl

theorem State.newChallenge_hall_dev (s : State) (p : Nat) (h : HallId) : ((s.newChallenge p).hall h).dev = (s.hall h).dev :=
  (State.onPort_hall_dev ..).trans (congrArg Hall.dev (s.hall_withFree _ h))

/-- A change of halls one after another leaves what each change leaves. -/
theorem State.foldl_onHall_dev {f : HallId → Hall → Hall} (hf : ∀ k H, (f k H).dev = H.dev) (ks : List HallId) (s : State) (h : HallId) :
    ((ks.foldl (fun (s : State) k => s.onHall k (f k)) s).hall h).dev = (s.hall h).dev := by
  induction ks generalizing s with
  | nil => rfl
  | cons k r ih =>
    rw [List.foldl_cons, ih]
    by_cases e : h = k
    · subst e
      rw [State.hall_onHall, hf]
    · rw [State.hall_onHall_ne _ _ e]

section
variable {u : State} {h : HallId} {p : Nat} {c : Capsule}

theorem State.bindSession_of_proven {n : Nat} {im : Image} {t : TenantEntry} {pe : PartEntry} (hl : 8 ≤ c.payload.length)
    (ha : fld c.payload 4 4 = 0 ∨ fld c.payload 4 4 = 192 ∧ 200 ≤ c.payload.length) (hi : (u.hall h).image = some im)
    (ht : im.tenant (fld c.payload 2 2) = some t) (hb : bit t.ports p = true) (hr : (u.hall h).hasRight p 0 = true)
    (hf : (u.hall h).freeSession h.idx = some n) (hd : u.bindDomainBad h p (fld c.payload 1 1) (fld c.payload 2 2) t = false)
    (hproof : bit t.tflags 0 = true ∨ fld c.payload 4 4 = 192 ∧ sha384 (slice c.payload 8 96) = t.ownerHash ∧
      ecdsaOk (slice c.payload 8 96) (sha384 (u.bindMessage p (fld c.payload 1 1) (fld c.payload 2 2))) (slice c.payload 104 96) = true)
    (htrng : (u.hall h).sec.trngOk = true) (hrel : ∀ x : Dom, (u.hall h).dom (fld c.payload 2 2) = some x → x.releasing = false)
    (hpe : (u.hall h).partEntry (fld c.payload 1 1) = some pe) :
    u.bindSession h p c = ((u.bindHalls h pe).foldl (fun (s : State) k => s.onHall k fun H => { H with sec := { H.sec with sessions :=
        H.sec.sessions ++ [⟨n, p, fld c.payload 1 1, fld c.payload 2 2, none, false⟩] } }) (u.newChallenge p), .ok (leBytes 4 n)) := by
  simp only [State.bindSession]
  rw [firstErr_of_sound]
  · simp only [hf, hpe]
  simp only [List.forall_mem_cons]
  refine ⟨?short, ?proofShort, ?auth, by simp [hi], by simp [hr, hi, ht, hb], by simp [hf], by simp [hi, ht, hd], ?proof, by simp [htrng], ?release,
    by simp⟩
  case short => simpa using hl
  case proofShort => simpa using fun (h : fld c.payload 4 4 = 192) => show 200 ≤ c.payload.length by omega
  case auth => simpa using fun (h : ¬fld c.payload 4 4 = 0) => show fld c.payload 4 4 = 192 by omega
  case proof =>
    obtain hfree | ⟨h192, hkey, hsig⟩ := hproof
    · simp [hi, ht, hfree]
    · simp [hi, ht, h192, hkey, hsig]
  case release =>
    split
    · exact hrel _ ‹_›
    · rfl

/-! ### BIND of a stream and of a feed ring (R460, R461) -/

theorem State.bindStream_of_sound {e : Session} {k : KeySlot} {pe : PartEntry} (hn : u.Named p c e 2)
    (hpart : (u.hall (portHall p)).hasPart p e.part = true) (hl : 44 ≤ c.payload.length)
    (hbad : ∀ b ∈ u.streamBad (portHall p) (some e) c.payload, b.1 = false) (hpe : (u.hall (portHall p)).partEntry e.part = some pe)
    (hroom : ∀ k ∈ u.bindHalls (portHall p) pe, (u.hall k).streamFull c.payload k (bit pe.classes 0) = false ∧ (u.hall k).portsOff = false ∧
      (fld c.payload 1 1 = 1 → (u.hall k).galOff (fld c.payload 29 1) = false))
    (hk : (u.hall (HallId.ofIdx (fld c.payload 8 4 / 2 ^ 31))).keyFor (HallId.ofIdx (fld c.payload 8 4 / 2 ^ 31)).idx (fld c.payload 8 4) e.num 1 =
      some k) (hfree : k.bound = false) :
    u.bindStream (portHall p) p c = (u.addStream (portHall p) c e k (u.bindHalls (portHall p) pe), .ok []) := by
  simp only [State.bindStream, hn.session, hpe, hk, Option.bind_some]
  rw [firstErr_of_sound]
  simp only [List.forall_mem_append, List.forall_mem_cons]
  refine ⟨⟨⟨?short, by simp⟩, hbad⟩, hn.isNone, hn.denied hpart, hn.unbound, ?room, ?state, hfree, by simp⟩
  case short => simpa using hl
  case room => exact List.any_eq_false.2 fun k hk => Bool.eq_false_iff.1 (hroom k hk).1
  case state =>
    refine List.any_eq_false.2 fun k hk => ?_
    obtain ⟨-, hports, hgal⟩ := hroom k hk
    simpa [hports] using hgal

theorem State.bindRing_of_sound {e : Session} {b : HostFeedBody} (hn : u.Named p c e 8) (hl : 20 ≤ c.payload.length)
    (hf : (u.hall (portHall p)).feedNamed (portHall p) (fld c.payload 2 2) = some (portHall p, b)) (hb : b.host = p)
    (hpart : ∀ q, (u.hall (portHall p)).partEntry e.part = some q → q.hallIds.contains (portHall p) = true) (hchan : fld c.payload 4 2 ≤ 4095)
    (hring : (u.hall (portHall p)).ringBad (some e.part) (fld c.payload 1 1) (fld c.payload 6 1) (fld c.payload 8 4) (fld c.payload 12 4) 1 6 8 12 =
      [badAt 1 false, badAt 6 false, badAt 8 false, badAt 12 false])
    (hcell : localCell (fld c.payload 1 1) (fld c.payload 16 2) = true) (hports : (u.hall (portHall p)).portsOff = false)
    (hgal : (u.hall (portHall p)).galOff (fld c.payload 1 1) = false)
    (hnew : (u.hall (portHall p)).rings.any (fun (r : FeedRing) => r.feedId == fld c.payload 2 2 && r.channel == fld c.payload 4 2) = false) :
    u.bindRing (portHall p) p false c = (u.onHall (portHall p) fun H => { H with rings := H.rings ++ [{
        session := e.num, feedId := fld c.payload 2 2, channel := fld c.payload 4 2, gallery := fld c.payload 1 1, blocks := fld c.payload 6 1
        addr := fld c.payload 8 4, blockBytes := fld c.payload 12 4, cell := fld c.payload 16 2, n := 0 }] }, .ok []) := by
  simp only [State.bindRing, hn.session, hf, Option.bind_some, Option.map_some, hring]
  rw [firstErr_of_sound]
  · simp [hnew, hports, hgal]
  · cases hq : (u.hall (portHall p)).partEntry e.part with
    | none => simp [hl, hchan, hcell, hn.isNone, hn.right, hb, hn.unbound, hn.image]
    | some q => simp [hl, hchan, hcell, hn.isNone, hn.right, hb, hn.unbound, hn.image, List.contains_iff_mem.1 (hpart q hq)]

/-! ### UNBIND (R462) -/

@[simp] theorem Hall.eraseSlot_dev (H : Hall) (n : Nat) : (H.eraseSlot n).dev = H.dev := by unfold Hall.eraseSlot; split <;> rfl

@[simp] theorem Hall.eraseHandle_dev (H : Hall) (h n : Nat) : (H.eraseHandle h n).dev = H.dev := by
  unfold Hall.eraseHandle
  split
  · rfl
  · exact H.eraseSlot_dev _

@[simp] theorem Hall.txSettle_dev (H : Hall) (t : Nat) : (H.txSettle t).dev = H.dev := by unfold Hall.txSettle; split <;> rfl

@[simp] theorem Hall.txStart_dev (H : Hall) (h t : Nat) : (H.txStart h t).dev = H.dev := by
  unfold Hall.txStart
  simp only []
  split
  · exact H.txSettle_dev t
  split
  · exact H.txSettle_dev t
  · exact H.txSettle_dev t

@[simp] theorem Hall.unbindStream_dev (H : Hall) (h n : Nat) : (H.unbindStream h n).dev = H.dev := by
  unfold Hall.unbindStream
  split
  · rfl
  simp only []
  split
  · exact H.eraseHandle_dev h _
  · exact (Hall.txStart_dev ..).trans (H.eraseHandle_dev h _)

/-- R462: the hall without stream n, where it is session m's. -/
def Hall.withoutStream (H : Hall) (h n m : Nat) : Hall :=
  match H.stream n with
  | some x => if x.session = m then H.unbindStream h n else H
  | none => H

theorem Hall.withoutStream_dev (H : Hall) (h n m : Nat) : (H.withoutStream h n m).dev = H.dev := by
  unfold Hall.withoutStream
  split
  · split
    · exact H.unbindStream_dev h n
    · rfl
  · rfl

theorem State.unbindSession_of_bound {e : Session} (hn : u.Named p c e 0) (hl : 1 ≤ c.payload.length) (hk : fld c.payload 0 1 = 0)
    (hlist : (u.hall (portHall p)).unlisted p (some e) = false) (hflight : e.flight = none) :
    u.unbindSession (portHall p) p c =
      ([HallId.a, .b].foldl (fun (s : State) k => if ((s.hall k).session e.num).isSome then s.startRelease k e.num else s) u,
        .later (.scrub c.tag e.num e.dom)) := by
  simp only [State.unbindSession, hn.session]
  rw [firstErr_of_sound]
  simp [List.ne_nil_of_length_pos hl, hk, hn.isNone, hn.right, hlist, hn.unbound, hflight]

theorem State.unbindStream_of_bound {e : Session} (hn : u.Named p c e 2) (hpart : (u.hall (portHall p)).hasPart p e.part = true)
    (hl : 3 ≤ c.payload.length) (hnum : fld c.payload 2 1 ≤ 63)
    (hf : (u.hall (portHall p)).streams.any (fun (x : TxStream) => x.num == fld c.payload 2 1 && x.session == e.num && !x.closing) = true) :
    u.unbindStream (portHall p) p c =
      ([HallId.a, .b].foldl (fun (s : State) k => s.onHall k fun H => H.withoutStream k.idx (fld c.payload 2 1) e.num) u, .ok []) := by
  simp only [State.unbindStream, hn.session]
  rw [firstErr_of_sound]
  · rfl
  · simp [hl, hnum, hn.isNone, hn.denied hpart, hn.unbound, hf]

theorem State.unbindRing_of_bound {e : Session} {b : HostFeedBody} (hn : u.Named p c e 8) (hl : 6 ≤ c.payload.length)
    (hf : (u.hall (portHall p)).feedNamed (portHall p) (fld c.payload 2 2) = some (portHall p, b)) (hb : b.host = p) (hchan : fld c.payload 4 2 ≤ 4095)
    (hr : (u.hall (portHall p)).rings.any (fun (r : FeedRing) => r.feedId == fld c.payload 2 2 && r.channel == fld c.payload 4 2 && r.session == e.num) =
      true) :
    u.unbindRing (portHall p) p false c =
      (u.onHall (portHall p) fun H => H.unbindRing (portHall p).idx (fld c.payload 2 2) (fld c.payload 4 2), .ok []) := by
  simp only [State.unbindRing, hn.session, hf]
  rw [firstErr_of_sound]
  · simp [hr]
  · simp [hl, hchan, hn.isNone, hn.right, hb, hn.unbound]

end

/-- Settles O45: each capsule breaks no rule of its row, so that it is carried out and answered. That both halls of a pair are written at once is log
entry 191's choice, that a BIND draws a challenge, and needs the TRNG, log entry 190's, that the response echoes its SESSION log entry 172's. -/
theorem bindAndUnbind : Obligations.BindAndUnbind := by
  refine ⟨?session, ?stream, ?streamSound, ?ring, ?unbindSession, ?unbindStream, ?unbindRing, fun H h n => Hall.unused_of_freeSession⟩
  case session =>
    rintro s _ p c rest n im t pe hq rfl hl ha hi ht hb hr hf hd hproof htrng hrel hpe
    refine hq.next_ok rfl (State.bindSession_of_proven hl ha hi ht hb hr hf hd hproof htrng hrel hpe) (hq.serves_of_dev ?_)
    refine (State.foldl_onHall_dev ?_ ..).trans (State.newChallenge_hall_dev ..)
    exact fun _ _ => rfl
  case stream =>
    rintro s _ v p c rest hq rfl hbind hv
    exact hq.next_ok rfl hbind hv
  case streamSound =>
    rintro s _ p c rest e k pe hq rfl hn hpart hl hbad hpe hroom hk hfree hv
    exact hq.next_ok rfl (State.bindStream_of_sound hn hpart hl hbad hpe hroom hk hfree) hv
  case ring =>
    rintro s _ p c rest e b hq rfl hn hl hf hb hpart hchan hring hcell hports hgal hnew
    refine hq.next_ok rfl (State.bindRing_of_sound hn hl hf hb hpart hchan hring hcell hports hgal hnew) (hq.serves_of_dev ?_)
    rw [State.hall_onHall]
  case unbindSession =>
    rintro s _ p c rest e hq rfl hn hl hlist hflight hv
    exact hq.next_later rfl (State.unbindSession_of_bound hn hl hq.kind_eq hlist hflight) (hv _ rfl)
  case unbindStream =>
    rintro s _ p c rest e hq rfl hn hpart hl hnum hf
    exact hq.next_ok rfl (State.unbindStream_of_bound hn hpart hl hnum hf)
      (hq.serves_of_dev (State.foldl_onHall_dev (fun _ H => H.withoutStream_dev ..) ..))
  case unbindRing =>
    rintro s _ p c rest e b hq rfl hn hl hf hb hchan hr
    refine hq.next_ok rfl (State.unbindRing_of_bound hn hl hf hb hchan hr) (hq.serves_of_dev ?_)
    rw [State.hall_onHall]
    rfl

end Sys2Proof.Machine
end

section
/-! SUBMIT, CANCEL and QUERY (R301, R318, R463 to R465, R516). -/

namespace Sys2Proof.Machine

section
variable {u : State} {p : Nat} {c : Capsule} {e : Session}

section
variable (hn : u.Named p c e 1) (hpart : (u.hall (portHall p)).hasPart p e.part = true)
include hn hpart

/-! ### SUBMIT and CANCEL (R463, R464) -/

theorem State.submitCreate_of_sound {pe : PartEntry} {d : List Byte} {n core home : Nat} {x : Ctx} (hk : fld c.payload 0 1 = 0)
    (hl : 72 ≤ c.payload.length) (hh : fld c.payload 1 1 = (portHall p).idx) (hpe : (u.hall (portHall p)).partEntry e.part = some pe) (hd : slice c.payload 8 64 = d)
    (hcls : fld d 0 1 = 2 ∨ fld d 0 1 = 3) (hpc : bit pe.classes (fld d 0 1) = true) (hnum : (u.hall (portHall p)).newNumber = some n)
    (hg : fld d 1 1 < 8) (hok : (u.hall (portHall p)).descOk e.part (fld d 1 1) d = true)
    (hgp : ((u.hall (portHall p)).gal (fld d 1 1)).partition = some e.part) (hses : bits (fld d 4 4) 0 18 = e.num)
    (hx : ({ Ctx.fresh n (fld d 0 1) e.part e.dom (CtxDesc.ofBytes d) 0 with session := some e.num } : Ctx) = x)
    (hgal : (u.hall (portHall p)).galOff (fld d 1 1) = false) (hports : bit (fld d 8 4) 31 = true → (u.hall (portHall p)).portsOff = false)
    (hplace : (u.hall (portHall p)).placeNew (portHall p).idx x (fld d 1 1) (fld d 2 1) = some (core, home)) :
    u.submitCreate (portHall p) p false c =
      (u.onHall (portHall p) fun H => ((H.insertCtx { x with core := core, home := home, moved := decide (core ≠ home), fetching := true }).settleCtx
        (portHall p).idx n).settle (portHall p).idx, .ok (leBytes 2 (ctxHandle (portHall p).idx n) ++ leBytes 1 core)) := by
  subst hd hx
  simp only [State.submitCreate, hn.session, hpe, hnum, hplace, Option.bind_some, Option.map_some, Option.getD_some]
  rw [firstErr_of_sound, firstErr_of_sound]
  · simp [hh]
  · have hdesc : bits (fld (slice c.payload 8 64) 4 4) 0 18 = e.num := hses
    simp only [List.forall_mem_cons]
    refine ⟨?cls, rfl, ?state, ?desc, by simp⟩
    case cls => obtain h | h := hcls <;> simpa [h] using hpc
    case state => simpa [hgal] using hports
    case desc => simp [hok, hg, hgp, hses]
  · have hl8 : 8 ≤ c.payload.length := by omega
    simp [hl8, hk, hl, hh, HallId.idx_le, hn.isNone, hn.denied hpart, hn.unbound]

theorem State.submitResume_of_faulted {x : Ctx} {f : Nat} (hk : fld c.payload 0 1 = 1) (hl : 8 ≤ c.payload.length) (hh : fld c.payload 1 1 = (portHall p).idx)
    (hx : (u.hall (portHall p)).handleCtx (portHall p).idx (fld c.payload 2 2) e.num = some x) (h15 : bit (fld c.payload 2 2) 15 = false)
    (hst : x.st = .faulted) (hpos : x.faultPos ≤ f) (hend : f < x.desc.streamLen) (hf : fld c.payload 4 4 = f) :
    u.submitResume (portHall p) p false c =
      (u.onHall (portHall p) fun H => ((H.onCtx x.num fun y => { y with
        st := if y.rslot.isSome then .resident else .waiting, fetching := true, fetch := f, horizon := max f y.horizon
        doneMask := y.doneMask.filter fun i => decide (f ≤ i) }).settleCtx (portHall p).idx x.num).settle (portHall p).idx, .ok []) := by
  subst hf
  simp only [State.submitResume, hn.session, hx, Option.bind_some]
  rw [firstErr_of_sound]
  · simp [hh, hst]
  · simp [hl, hk, hh, HallId.idx_le, h15, hpos, hend, hn.isNone, hn.denied hpart, hn.unbound]

theorem State.cancelCapsule_of_alive {x : Ctx} (hl : 2 ≤ c.payload.length)
    (hx : (u.hall (portHall p)).handleCtx (portHall p).idx (fld c.payload 0 2) e.num = some x)
    (h15 : bit (fld c.payload 0 2) 15 = false) (hh : fld c.payload 0 2 / 16384 % 2 = (portHall p).idx) (ha : x.alive = true) :
    u.cancelCapsule (portHall p) p false c = (u.cancelCtx (portHall p) x, .ok []) := by
  simp only [State.cancelCapsule, hn.session, hx, Option.bind_some]
  rw [firstErr_of_sound]
  · simp [hh, ha]
  · simp [Nat.lt_of_succ_le hl, h15, hn.isNone, hn.denied hpart, hn.unbound]

/-! ### QUERY (R465) -/

section
variable {x : Ctx} (hx : (u.hall (portHall p)).handleCtx (portHall p).idx (fld c.payload 2 2) e.num = some x)
  (h15 : bit (fld c.payload 2 2) 15 = false) (hh : fld c.payload 2 2 / 16384 % 2 = (portHall p).idx)
include hx h15 hh

theorem State.queryAccount_of_named (hk : fld c.payload 0 1 = 0) (hl : 4 ≤ c.payload.length) :
    u.queryCtx (portHall p) p false 0 c = (u, .ok x.account) := by
  have hne : c.payload ≠ [] := List.ne_nil_of_length_pos (by omega)
  simp only [State.queryCtx, hn.session, hx, Option.bind_some]
  rw [firstErr_of_sound]
  · simp [hh]
  · simp [hne, hl, hk, h15, hn.isNone, hn.denied hpart, hn.unbound]

theorem State.queryCompletions_of_named (hk : fld c.payload 0 1 = 1) (hl : 8 ≤ c.payload.length) (hn1 : 1 ≤ fld c.payload 6 2)
    (hn64 : fld c.payload 6 2 ≤ 64) (hg : (u.hall (portHall p)).galOff x.desc.gallery = false) :
    u.queryCtx (portHall p) p false 1 c = (u, .ok ((List.range (fld c.payload 6 2)).flatMap fun i =>
      ((u.hall (portHall p)).gal x.desc.gallery).store.read
        (x.desc.complAddr + 16 * ((fld c.payload 4 2 + i) % 65536 % max 1 x.desc.complCount)) 16)) := by
  have hne : c.payload ≠ [] := List.ne_nil_of_length_pos (by omega)
  simp only [State.queryCtx, hn.session, hx, Option.bind_some]
  rw [firstErr_of_sound]
  · simp [hh, hg]
  · simp [hne, hl, hk, h15, hn64, Nat.ne_of_gt hn1, hn.isNone, hn.denied hpart, hn.unbound]

end
end

theorem State.queryStream_of_named {x : TxStream} (hn : u.Named p c e 2) (hpart : (u.hall (portHall p)).hasPart p e.part = true)
    (hl : 3 ≤ c.payload.length) (hh : fld c.payload 1 1 = (portHall p).idx) (hnum : fld c.payload 2 1 ≤ 63)
    (hx : (u.hall (portHall p)).stream (fld c.payload 2 1) = some x) (hs : x.session = e.num) (ho : x.closing = false) :
    u.queryStream (portHall p) p false c = (u, .ok (leBytes 4 (min x.rseq 0xFFFFFFFF) ++ leBytes 4 (x.shown.1 / 4096 * 4096)
      ++ leBytes 4 (x.shown.2.1 / 4096 * 4096) ++ leBytes 4 (x.shown.2.2 / 4096 * 4096))) := by
  simp only [State.queryStream, hn.session, hx]
  rw [firstErr_of_sound]
  · simp [hh, hs, ho]
  · simp [hl, hh, HallId.idx_le, hnum, hn.isNone, hn.denied hpart, hn.unbound]

theorem State.queryEvents_of_image (hi : (u.hall (portHall p)).image.isSome = true) (hl : 2 ≤ c.payload.length) (hn1 : 1 ≤ fld c.payload 1 1)
    (hn64 : fld c.payload 1 1 ≤ 64) :
    u.queryEvents (portHall p) p c = (u.onPort p fun P => { P with events := P.events.drop (fld c.payload 1 1) },
      .ok ((((u.port p).events.take (fld c.payload 1 1)).map Event.bytes).flatten)) := by
  simp only [State.queryEvents]
  rw [firstErr_of_sound]
  simp [Nat.lt_of_succ_le hl, Nat.ne_of_gt hn1, hn64, hi]

theorem State.queryPort_of_image {r : RightsEntry} (hi : (u.hall (portHall p)).image.isSome = true) (hne : c.payload ≠ [])
    (hr : (u.hall (portHall p)).rightsEntry p = some r) :
    u.queryPort (portHall p) p c = (u, .ok (leBytes 4 r.rights ++ leBytes 4 r.parts ++ leBytes 4 ((u.port p).outstanding + 1)
      ++ leBytes 4 (u.port p).events.length)) := by
  simp only [State.queryPort, hr, Option.map_some, Option.getD_some]
  rw [firstErr_of_sound]
  simp [hne, hi]

end

/-- Settles O46: each capsule breaks no rule of its row, so that it is carried out and answered. RESUME's horizon is log entry 101's choice, a new
context's number log entry 102's, what CANCEL does to the commands log entry 107's, that the response echoes its SESSION log entry 172's, that events
leave with their response log entry 175's; the form of CREATE's response is log entry 314's deduction. -/
theorem submitCancelAndQuery : Obligations.SubmitCancelAndQuery := by
  refine ⟨?create, ?resume, ?cancel, ?account, ?completions, ?stream, ?events, ?port⟩
  case create =>
    rintro s _ p c rest e pe d n core home x hq rfl hn hpart hl hh hpe hd hcls hpc hnum hg hok hgp hses hx hgal hports hplace hv
    exact hq.next_ok rfl (State.submitCreate_of_sound hn hpart hq.kind_eq hl hh hpe hd hcls hpc hnum hg hok hgp hses hx hgal hports hplace) (hv _ rfl)
  case resume =>
    rintro s _ p c rest e x f hq rfl hn hpart hl hh hx h15 _ hst hpos hend rfl hv
    exact hq.next_ok rfl (State.submitResume_of_faulted hn hpart hq.kind_eq hl hh hx h15 hst hpos hend rfl) (hv _ rfl)
  case cancel =>
    rintro s _ p c rest e x hq rfl hn hpart hl hx h15 hh ha hv
    exact hq.next_ok rfl (State.cancelCapsule_of_alive hn hpart hl hx h15 hh ha) hv
  case account =>
    rintro s _ p c rest e x hq rfl hn hpart hl hx h15 hh
    exact hq.next_ok rfl (State.queryAccount_of_named hn hpart hx h15 hh hq.kind_eq hl) (hq.serves_of_dev rfl)
  case completions =>
    rintro s _ p c rest e x hq rfl hn hpart hl hx h15 hh hn1 hn64 hg
    exact hq.next_ok rfl (State.queryCompletions_of_named hn hpart hx h15 hh hq.kind_eq hl hn1 hn64 hg) (hq.serves_of_dev rfl)
  case stream =>
    rintro s _ p c rest e x hq rfl hn hpart hl hh hnum hx hs ho
    exact hq.next_ok rfl (State.queryStream_of_named hn hpart hl hh hnum hx hs ho) (hq.serves_of_dev rfl)
  case events =>
    rintro s _ p c rest hq rfl hi hl hn1 hn64
    exact hq.next_ok rfl (State.queryEvents_of_image hi hl hn1 hn64) (hq.serves_of_dev (State.onPort_hall_dev ..))
  case port =>
    rintro s _ p c rest r hq rfl hi hr
    exact hq.next_ok rfl (State.queryPort_of_image hi hq.payload_ne_nil hr) (hq.serves_of_dev rfl)

end Sys2Proof.Machine
end

section
/-! ATTEST, KEYWRAP, LOADMODEL and its parts, REGRD and REGWR (R458, R466, R494 to R504, R510, R591). -/

namespace Sys2Proof.Machine

/-! ### ATTEST (R494, R495) -/

/-- R495: a report of PURPOSE 0 takes no random bits; its signature follows the body that names the report number. -/
theorem State.attest_of_purposeZero (u : State) (h : HallId) (e : Session) (m : Nat) (nonce : List Byte) :
    u.attest h e 0 m nonce = (({ u with free := u.free + 1 } : State).onHall h fun H =>
      { H with sec := { H.sec with report := (H.sec.report + 1) % 2 ^ 32 } },
      .ok (u.reportBytes h e 0 m nonce [] ++ fit (Config.signature h.idx (sha384 (u.reportBytes h e 0 m nonce [])) u.free) 96 ++
        leBytes 2 (u.hall h).keyArray.cert.length ++ leBytes 2 0 ++ (u.hall h).keyArray.cert)) := rfl

section
variable {u : State} {p : Nat} {c : Capsule} {e : Session}

theorem State.attestCapsule_of_named (hn : u.Named p c e 9) (hl : 64 ≤ c.payload.length) (hk : fld c.payload 48 1 = 0)
    (hh : fld c.payload 49 1 = (portHall p).idx) (hm : fld c.payload 50 2 = 0xFFFF) :
    u.attestCapsule (portHall p) p false c = u.attest (portHall p) e 0 0xFFFF (c.payload.take 48) := by
  simp only [State.attestCapsule, hn.session, hk, hm]
  rw [firstErr_of_sound]
  · simp [hh]
  · simp only [List.forall_mem_cons]
    refine ⟨by simpa using hl, rfl, by simp [hh, HallId.idx_le], ?model, hn.isNone, by simp [hn.right], rfl, by simp⟩
    case model => split <;> rfl

/-! ### KEYWRAP (R497 to R499, R510) -/

section
variable (hn : u.Named p c e 3) (hlist : (u.hall (portHall p)).unlisted p (some e) = false) (hh : fld c.payload 1 1 = (portHall p).idx)
include hn hlist hh

section
variable (hk : fld c.payload 0 1 ≤ 3)
include hk

theorem Hall.keywrapBad_of_named {n : Nat} (hl : n ≤ c.payload.length) :
    (u.hall (portHall p)).keywrapBad p n c.payload (some e) = none := by
  rw [Hall.keywrapBad, firstErr_of_sound]
  simp [hl, hk, hh, HallId.idx_le, hn.isNone, hn.right, hlist, hn.unbound]

theorem State.keywrapKey_of_named (hl : 176 ≤ c.payload.length) :
    u.keywrapKey (portHall p) p false c = u.unwrapKey (portHall p) e c.payload := by
  simp [State.keywrapKey, hn.session, Hall.keywrapBad_of_named hn hlist hh hk hl, hh]

theorem State.keywrapRotate_of_named (hl : 16 ≤ c.payload.length) {v : State} (hr : u.rotate (portHall p) e.dom = (0, v)) :
    u.keywrapRotate (portHall p) p false c = (v, .ok []) := by
  simp [State.keywrapRotate, hn.session, Hall.keywrapBad_of_named hn hlist hh hk hl, hh, hr]

theorem State.keywrapErase_of_named (hl : 16 ≤ c.payload.length) {k : KeySlot}
    (hkey : (u.hall (portHall p)).keyFor (portHall p).idx (fld c.payload 8 4) e.num (fld c.payload 8 4 / 2 ^ 30 % 2) = some k) :
    u.keywrapErase (portHall p) p false c = (u.onHall (portHall p) fun H => H.eraseSlot k.slot, .ok []) := by
  simp only [State.keywrapErase, hn.session, Hall.keywrapBad_of_named hn hlist hh hk hl, hh, hkey]
  exact if_neg (by simp)

end

/-! ### LOADMODEL (R500 to R504) -/

section
variable (hl : 24 ≤ c.payload.length) (hm : (u.hall (portHall p)).modelBad (some e) (fld c.payload 2 2) = false)
include hl hm

theorem State.loadmodelLoad_of_sound {f : Flash} (hk : fld c.payload 0 1 = 0) (hsrc : fld c.payload 8 1 ≤ 1) (hmin : 512 ≤ fld c.payload 16 4)
    (hmax : fld c.payload 16 4 ≤ 67107840)
    (hflash : fld c.payload 8 1 = 1 → flashPartOk f (fld c.payload 9 1) (fld c.payload 20 4) (fld c.payload 16 4) = (true, true))
    (hfeed : fld c.payload 8 1 = 0 → (u.hall (portHall p)).hasRight p 8 = true ∧ fld c.payload 12 2 ≤ 4095 ∧ (u.hall (portHall p)).portsOff = false ∧
      (∀ im, (u.hall (portHall p)).image = some im → (im.hostFeed (portHall p).idx (fld c.payload 10 2)).isSome = true) ∧
      (u.hall (portHall p)).sec.loads.any (fun (l : Load) => l.source == 0 && l.feedId == fld c.payload 10 2 && l.channel == fld c.payload 12 2) = false)
    (hkey : ((u.hall (portHall p)).keyFor (portHall p).idx (fld c.payload 4 4) e.num 0).isSome = true)
    (hkm : ∀ k : KeySlot, (u.hall (portHall p)).sec.keys.find? (fun k => keyHandle (portHall p).idx k == fld c.payload 4 4) = some k → k.use = 0 →
      k.model = fld c.payload 2 2)
    (hloaded : (u.hall (portHall p)).sec.models.any (fun (x : Model) => x.num == fld c.payload 2 2 && x.st == .loaded) = false)
    (hroom : (u.hall (portHall p)).sec.models.length < 1024 ∨
      (u.hall (portHall p)).sec.models.any (fun (x : Model) => x.num == fld c.payload 2 2) = true) :
    u.loadmodelLoad (portHall p) p false f c = (u.onHall (portHall p) fun H =>
      { H with sec := { H.sec with loads := H.sec.loads ++ [
        { port := p, tag := c.tag, session := e.num, model := fld c.payload 2 2, key := fld c.payload 4 4, source := fld c.payload 8 1
          feedId := fld c.payload 10 2, channel := fld c.payload 12 2, total := fld c.payload 16 4, flashOffset := fld c.payload 20 4
          bytes := [], complete := false }] } }, .later (.load c.tag e.num (fld c.payload 2 2))) := by
  obtain ⟨im, hi⟩ := Option.isSome_iff_exists.1 hn.image
  have hsource : fld c.payload 8 1 = 0 ∨ fld c.payload 8 1 = 1 := by omega
  simp only [State.loadmodelLoad, hn.session]
  rw [firstErr_of_sound, firstErr_of_sound]
  · simp [hh]
  · simp only [List.forall_mem_cons]
    refine ⟨?pair, ?keyModel, ?handle, ?busy, by simp⟩
    case pair =>
      obtain h0 | h1 := hsource
      · obtain ⟨-, -, hports, -, hpair⟩ := hfeed h0
        simp only [hpair, hports, Bool.and_false, Bool.or_false]
      · simp [h1]
    case keyModel =>
      split
      · next k hfind => simpa using hkm k hfind
      · rfl
    case handle => simpa using hkey
    case busy =>
      rw [hloaded, Bool.false_or, Bool.and_eq_false_iff]
      exact hroom.imp (fun h => decide_eq_false (Nat.not_le.2 h)) fun h => by rw [h]; rfl
  · obtain h0 | h1 := hsource
    · obtain ⟨hr8, hchan, -, hexists, -⟩ := hfeed h0
      simp [hl, hk, hh, HallId.idx_le, hm, h0, hi, hexists im hi, hchan, hmin, hmax, hn.right, hlist, hr8, hn.unbound]
    · simp [hl, hk, hh, HallId.idx_le, hm, h1, hi, hflash h1, hmin, hmax, hn.right, hlist, hn.unbound]

theorem State.loadmodelUnload_of_unused (hk : fld c.payload 0 1 = 1)
    (hany : (u.hall (portHall p)).sec.models.any (fun (x : Model) => x.num == fld c.payload 2 2) = true)
    (huse : u.modelInUse (portHall p) (fld c.payload 2 2) = false) (hnone : (u.hall (portHall p)).sec.loads = []) :
    u.loadmodelUnload (portHall p) p false c = (u.dropModel (portHall p) (fld c.payload 2 2), .ok []) := by
  simp only [State.loadmodelUnload, hn.session, hany, huse, hnone]
  rw [firstErr_of_sound]
  · simp [hh]
  · simp [hl, hk, hh, HallId.idx_le, hm, hn.isNone, hn.right, hlist, hn.unbound]

end
end

theorem State.partDone_of_load {h : HallId} {m : Nat} {l : Load}
    (hf : ((u.hall h).sec.loads.find? fun (l : Load) => l.model == m && (l.complete || l.source == 1)) = some l) (bs : List Byte) :
    u.partDone h m bs = u.loadPart h l (if l.source = 1 then fit bs l.total else l.bytes) := by
  simp only [State.partDone, hf]

/-- R503: a part with another magic or another length than TOTAL breaks its format. -/
theorem partFormatOk_of_foreign {bs : List Byte} {total : Nat} (hb : fld bs 0 4 ≠ 0x4C444D54 ∨ bs.length ≠ total) (next : Nat)
    (parts : Option Nat) : partFormatOk bs total next parts = false := by
  obtain hmagic | hlen := hb
  · simp [partFormatOk, hmagic]
  · simp [partFormatOk, hlen]

theorem State.loadPart_of_foreign {h : HallId} {l : Load} {bs : List Byte} {t : TenantEntry} {im : Image}
    (he : (u.hall h).sec.sessions.find? (fun e => e.num == l.session) = some e) (hi : (u.hall h).image = some im) (ht : im.tenant e.dom = some t)
    (hb : fld bs 0 4 ≠ 0x4C444D54 ∨ bs.length ≠ l.total) : u.loadPart h l bs = u.refusePart h l 0x0709 [] := by
  simp [State.loadPart, he, hi, ht, partFormatOk_of_foreign hb]

/-! ### REGRD and REGWR (R458, R591) -/

theorem State.regrd_of_sound (hl : 8 ≤ c.payload.length) (ha : fld c.payload 0 4 % 4 = 0) (hn1 : 1 ≤ fld c.payload 4 2)
    (hn1024 : fld c.payload 4 2 ≤ 1024) (hi : (u.hall (portHall p)).image.isSome = true) {bs : List Byte} {v : State}
    (hf : (List.range (fld c.payload 4 2)).foldl (fun (r : List Byte × State) i =>
      (r.1 ++ leBytes 4 (r.2.regRead p (fld c.payload 0 4 + 4 * i)).1, (r.2.regRead p (fld c.payload 0 4 + 4 * i)).2)) (([] : List Byte), u) =
        (bs, v)) : u.regrd (portHall p) p c = (v, .ok bs) := by
  simp only [State.regrd, hf]
  rw [firstErr_of_sound]
  simp [regPayloadBad, hl, ha, Nat.ne_of_gt hn1, hn1024, Option.isSome_iff_ne_none.1 hi]

theorem State.regwr_of_sound (hl : 8 + 4 * fld c.payload 4 2 ≤ c.payload.length) (ha : fld c.payload 0 4 % 4 = 0) (hn1 : 1 ≤ fld c.payload 4 2)
    (hn1024 : fld c.payload 4 2 ≤ 1024) (hi : (u.hall (portHall p)).image.isSome = true) {v : State}
    (hf : (List.range (fld c.payload 4 2)).foldl (fun (s : State) i => if (s.hall (portHall p)).serves then
      s.regWrite p (fld c.payload 0 4 + 4 * i) (BitVec.ofNat 32 (fld c.payload (8 + 4 * i) 4)) s.pkg.now else s) u = v) :
    u.regwr (portHall p) p c = (v, .ok []) := by
  have hl8 : 8 ≤ c.payload.length := by omega
  simp only [State.regwr, hf]
  rw [firstErr_of_sound]
  simp [regPayloadBad, hl, hl8, ha, Nat.ne_of_gt hn1, hn1024, hi]

end

/-- Settles O47: each capsule breaks no rule of its row, so that it is carried out and answered. That ATTEST of PURPOSE 0 takes no random bits is log
entry 190's choice, what a refused part leaves log entry 194's, how a load is held against its model and feed log entry 195's, what ERASE of a stream
key leaves log entry 196's, that the response echoes its SESSION log entry 172's. -/
theorem keysModelsAndRegisterCapsules : Obligations.KeysModelsAndRegisterCapsules := by
  refine ⟨?attest, fun u h e m nonce => ⟨_, State.attest_of_purposeZero u h e m nonce⟩, ?modelKey, ?streamKey, ?rotate, ?erase, ?load, ?loadSound,
    ?unload, ?part, ?refused, ?regrd, ?regwr⟩
  case attest =>
    rintro s _ p c rest e v r hq rfl hn hl hk hh hm ha
    refine hq.next_ok rfl ((State.attestCapsule_of_named hn hl hk hh hm).trans ha) (hq.serves_of_dev ?_)
    obtain rfl : _ = v := congrArg Prod.fst ((State.attest_of_purposeZero ..).symm.trans ha)
    rw [State.hall_onHall, State.hall_withFree]
  case modelKey =>
    rintro s _ p c rest e v r hq rfl hn hlist hl hh hkey hv
    exact hq.next_ok rfl ((State.keywrapKey_of_named hn hlist hh (by rw [hq.kind_eq]; decide) hl).trans hkey) hv
  case streamKey =>
    rintro s _ p c rest e v r hq rfl hn hlist hl hh hkey hv
    exact hq.next_ok rfl ((State.keywrapKey_of_named hn hlist hh (by rw [hq.kind_eq]; decide) hl).trans hkey) hv
  case rotate =>
    rintro s _ p c rest e v hq rfl hn hlist hl hh hr hv
    exact hq.next_ok rfl (State.keywrapRotate_of_named hn hlist hh (by rw [hq.kind_eq]; decide) hl hr) hv
  case erase =>
    rintro s _ p c rest e k hq rfl hn hlist hl hh hkey
    refine hq.next_ok rfl (State.keywrapErase_of_named hn hlist hh (by rw [hq.kind_eq]) hl hkey) (hq.serves_of_dev ?_)
    rw [State.hall_onHall, Hall.eraseSlot_dev]
  case load =>
    rintro s _ p f c rest v w hq rfl hload hv
    exact hq.next_later rfl hload hv
  case loadSound =>
    rintro s _ p f c rest e hq rfl hn hlist hl hh hm hsrc hmin hmax hflash hfeed hkey hkm hloaded hroom
    refine hq.next_later rfl (State.loadmodelLoad_of_sound hn hlist hh hl hm hq.kind_eq hsrc hmin hmax hflash hfeed hkey hkm hloaded hroom)
      (hq.serves_of_dev ?_)
    rw [State.hall_onHall]
  case unload =>
    rintro s _ p c rest e hq rfl hn hlist hl hh hm hany huse hnone hv
    exact hq.next_ok rfl (State.loadmodelUnload_of_unused hn hlist hh hl hm hq.kind_eq hany huse hnone) hv
  case part =>
    intro s h m bs l hp hu hf
    exact State.next_live hp ((State.ifUp_of_up hu _).trans (State.partDone_of_load hf bs))
  case refused =>
    intro s h l bs _ e t im he hi ht hb
    exact State.loadPart_of_foreign he hi ht hb
  case regrd =>
    rintro s _ v p c rest bs hq rfl hl ha hn1 hn1024 _ hi hf hv
    exact hq.next_ok rfl (State.regrd_of_sound hl ha hn1 hn1024 hi hf) hv
  case regwr =>
    rintro s _ v p c rest hq rfl hl ha hn1 hn1024 _ hi hf hv
    exact hq.next_ok rfl (State.regwr_of_sound hl ha hn1 hn1024 hi hf) hv

end Sys2Proof.Machine
end

section
/-! Host-feed records and their objects, and the transmit ports' configuration (R442, R469 to R473, R479, R481, R558). -/

namespace Sys2Proof.Machine

/-! ### Records of a hall that runs with an image (R469 to R472) -/

section
variable {s : State} {h : HallId} {p vc id : Nat} {r : FeedRecord} {im : Image} {b : HostFeedBody} {P : RxPort}
  (hu : (s.hall h).dev.up = true) (hon : (s.hall h).pwr.hall = .on) (hi : (s.hall h).image = some im) (hf : im.feedOn h.idx p vc = some (id, b))
  (hP : (s.hall h).cam.ports[p]? = some P)
include hu hon hi hf hP

theorem State.feedRecord_of_orphan (ho : P.feedOpen.contains vc = false) : s.feedRecord h p vc r = s.onHall h fun H => H.orphan p := by
  simp only [State.feedRecord, hi, hf, hP, ho, hu, hon]
  rfl

section
variable (ho : P.feedOpen.contains vc = true)
include ho

theorem State.feedRecord_of_badKind (hk : r.kind = 0 ∨ 3 < r.kind ∨ bit b.kinds (r.kind - 1) = false) :
    s.feedRecord h p vc r = s.onHall h fun H => H.feedFault 0 := by
  have hbad : (r.kind == 0 || decide (3 < r.kind) || !bit b.kinds (r.kind - 1)) = true := by simpa [or_assoc] using hk
  simp only [State.feedRecord, hi, hf, hP, ho, hu, hon, hbad, Bool.true_or]
  rfl

/-- R470: a DATA record of a declared kind goes to its object, as no LOADMODEL awaits it. -/
theorem State.feedRecord_of_data (hk : r.kind = 3) (hb : bit b.kinds 2 = true)
    (hl : ((s.hall h).sec.loads.find? fun (l : Load) => l.source == 0 && l.feedId == id && l.channel == r.channel && !l.complete) = none) :
    s.feedRecord h p vc r = s.feedTake h id p vc r none := by
  simp only [State.feedRecord, hi, hf, hP, ho, hu, hon, hk, hl, hb]
  rfl

end
end

/-! ### An object that goes on, or is abandoned (R470) -/

section
variable {s : State} {h : HallId} {p vc id : Nat} {r : FeedRecord} {o : FeedObj} (hk : r.kind = 3) (hfirst : bit r.rflags 0 = false)
  (ho : (s.hall h).feedObj p vc 3 r.channel = some o)
include hk hfirst ho

theorem State.feedTake_of_fits (hok : feedOk o none r = true) (hlast : bit r.rflags 1 = false) :
    s.feedTake h id p vc r none = s.onHall h fun H =>
      { H.dropObj p vc 3 r.channel with
        feeds := (H.dropObj p vc 3 r.channel).feeds ++ [{ o with rseq := o.rseq + 1, bytes := o.bytes ++ r.data }] } := by
  simp [State.feedTake, hk, hfirst, ho, hok, hlast]

theorem State.feedTake_of_gap (h3 : o.kind = 3) (hgap : r.rseq ≠ o.rseq ∨ r.offset ≠ o.bytes.length ∨ r.data.length ≠ r.len) :
    s.feedTake h id p vc r none = s.onHall h fun H => ((H.dropObj o.port o.vc o.kind o.channel).count 1670 1).feedFault 1 := by
  have hok : feedOk o none r = false := by
    obtain hseq | hoff | hlen := hgap
    · simp [feedOk, hseq]
    · simp [feedOk, hoff]
    · simp [feedOk, hlen]
  simp [State.feedTake, hk, hfirst, ho, hok, State.feedAbandon, h3]

end

/-! ### Rings and faults (R472, R481) -/

theorem Hall.feedDeliver_of_noRing {H : Hall} {id chan : Nat} (hr : (H.rings.find? fun (r : FeedRing) => r.feedId == id && r.channel == chan) = none)
    (h : Nat) (bs : List Byte) : H.feedDeliver h id chan bs = H.feedFault 3 := by
  simp only [Hall.feedDeliver, hr]

theorem Hall.feedFault_frame (H : Hall) (i : Nat) :
    (H.feedFault i).feedErr = modAt H.feedErr i inc8 ∧ (H.feedFault i).feeds = H.feeds ∧ (H.feedFault i).rings = H.rings := by
  unfold Hall.feedFault Hall.logOther Hall.addLog
  exact ⟨rfl, rfl, rfl⟩

/-! ### CSI_TX_CFG (R473) -/

theorem guarded_tx {h : HallId} {t : Nat} (ht : t < 4) : guarded h 11 (0x10 * t) = true := by
  interval_cases t <;> rfl

/-- R473: a word whose enable is 0, or whose lanes and rate lie in the PHY's range. -/
theorem txEnable_or_txRange {v : Word} (hr : txEnable v = false ∨ txRange v = true) : (txEnable v && !(txRange v)) = false := by
  obtain he | hr := hr
  · simp [he]
  · simp [hr]

theorem Hall.txConfigure_of_range {H : Hall} {h t : Nat} {w : Word} (hc : H.txClass0 t = false)
    (hr : txEnable (w &&& 0xFCFF1FFF#32) = false ∨ txRange (w &&& 0xFCFF1FFF#32) = true) :
    H.txConfigure h t w = (H.onTx t fun (P : TxPort) => { P with cfg := w &&& 0xFCFF1FFF#32 }).txStart h t :=
  if_neg (by simp [hc, txEnable_or_txRange hr])

section
variable {s : State} {p t : Nat} {w : Word}

theorem State.txWrite_of_range (hc : (s.hall (portHall p)).txClass0 t = false)
    (hr : txEnable (w &&& 0xFCFF1FFF#32) = false ∨ txRange (w &&& 0xFCFF1FFF#32) = true) :
    s.txWrite p t w = s.onHall (portHall p) fun H =>
      (H.onTx t fun (P : TxPort) => { P with cfg := w &&& 0xFCFF1FFF#32 }).txStart (portHall p).idx t :=
  (if_neg (by simp [hc, txEnable_or_txRange hr])).trans (State.onHall_congr (Hall.txConfigure_of_range hc hr))

theorem State.txWrite_of_outside (he : txEnable (w &&& 0xFCFF1FFF#32) = true) (hr : txRange (w &&& 0xFCFF1FFF#32) = false) :
    s.txWrite p t w = s.logPort (portHall p) p 0x0BFF t (4 * t) := by
  refine (if_pos (by simp [he, hr])).trans ?_
  rw [show 0x10 * t / 4 = 4 * t by omega]

end

/-- Settles O48: a record goes to its feed's object or counts as the fault that it is, and a word of CSI_TX_CFG takes its guarded register's effect.
That a DATA object without a ring counts in RING_FULL is log entry 176's choice, the code under which an ignored word is logged log entry 242's. -/
theorem hostFeedsAndTransmitPorts : Obligations.HostFeedsAndTransmitPorts := by
  refine ⟨?packet, ?record, fun H h id chan bs hr => Hall.feedDeliver_of_noRing hr h bs, Hall.feedFault_frame, ?packetEnd, ?config⟩
  case packet =>
    intro s h p vc dt r hc hp
    refine ⟨fun hdt => ⟨?_, ?_⟩, fun ok hdt => ?_⟩
    · exact State.next_live hp (if_neg (not_not.2 hdt))
    · exact State.next_live hp (if_neg (not_not.2 hdt))
    · exact State.next_live hp (if_pos hdt)
  case record =>
    intro s h p vc id r im b P hu hon hi hf hP
    refine ⟨State.feedRecord_of_orphan hu hon hi hf hP, State.feedRecord_of_badKind hu hon hi hf hP, fun o hopen hk hb hfirst ho hl => ?_⟩
    have hdata := State.feedRecord_of_data hu hon hi hf hP hopen hk hb hl
    exact ⟨fun hok hlast => hdata.trans (State.feedTake_of_fits hk hfirst ho hok hlast),
      fun h3 hgap => hdata.trans (State.feedTake_of_gap hk hfirst ho h3 hgap)⟩
  case packetEnd =>
    intro s h t hp hu
    exact State.next_live hp (congrArg State.txOver (State.ifUp_of_up hu _))
  case config =>
    intro s p t _ _ _ w ht hr
    have hn : 0x10 * t < 0x3FF0 := by omega
    have hdiv : 0x10 * t / 0x10 = t := by omega
    obtain ⟨rfl, rfl, rfl⟩ := hr.place (i := 11) rfl (Nat.lt_trans hn (by decide))
    refine ⟨fun hc hrange => hr.next rfl hn (guarded_tx ht) ?_, fun he hrange => hr.next rfl hn (guarded_tx ht) ?_⟩
    · exact (congrArg (State.txWrite _ p · w) hdiv).trans (State.txWrite_of_range hc hrange)
    · exact (congrArg (State.txWrite _ p · w) hdiv).trans (State.txWrite_of_outside he hrange)

end Sys2Proof.Machine
end

section
/-! What a step keeps beside the halls' make-up: the queue and the free values, the TAP's lock (R614), the fault pins (R541), a package held in reset
(R613), and what settling changes of a command's effect (R468, R541, R579, R600). -/

namespace Sys2Proof.Machine

/-- Settles O4, for the state whose queue has lost its front; that each command takes the front of one queue is log entry 1's choice, that a free
value is never drawn twice log entry 3's. -/
theorem stepDrawsQueueAndFreeValues : Obligations.StepDrawsQueueAndFreeValues := by
  intro s t ht
  have hk := step_keeps_tail ht
  exact ⟨hk.pending, hk.free⟩

/-- Settles O6: no command opens the TAP, and the queue is not the TAP's. The fall back to BYPASS at the first image is log entry 31's choice. -/
theorem stepKeepsTapClosed : Obligations.StepKeepsTapClosed := by
  intro s t hs ht
  exact (step_keeps_tail ht).tap hs

/-! ### The commands that reset does not stop (R613) -/

/-- R613: the commands of POR_N, of the supply and power-good balls and of the JTAG port, which act while the package is held in reset. -/
def actsInReset : Instr → Bool
  | .porNAssert _ | .porNRelease _ _ | .supplyOutOfRange | .pgRise _ | .pgFall _ _ _ | .jtagBypass | .jtagIdcode | .jtagSamplePreload _
  | .jtagExtest | .jtagTrst => true
  | _ => false

/-- Every other command has its effect on a package out of reset alone. -/
theorem exec_live {c : Instr} (hc : actsInReset c = false) (s : State) : ∃ f, exec c s = .next (s.live f) := by
  cases c with
  | porNAssert | porNRelease | supplyOutOfRange | pgRise | pgFall | jtagBypass | jtagIdcode | jtagSamplePreload | jtagExtest | jtagTrst => cases hc
  | _ => exact ⟨_, rfl⟩

theorem State.live_of_held {s : State} (hp : s.por = true) (f : State → State) : s.live f = s := if_pos hp

/-- Settles O9: the commands that the statement leaves out are those that act in reset. -/
theorem heldInResetNothingHappens : Obligations.HeldInResetNothingHappens := by
  intro c s hp hc
  have hl : actsInReset c = false := by
    cases c with
    | porNAssert | porNRelease | supplyOutOfRange | pgRise | pgFall | jtagBypass | jtagIdcode | jtagSamplePreload | jtagExtest | jtagTrst =>
      exact hc.elim
    | _ => rfl
  obtain ⟨f, hf⟩ := exec_live hl s
  rw [hf, State.live_of_held hp]

/-! ### The fault pins (R541) -/

theorem State.live_follows {s : State} (hs : s.PinsFollow) (f : State → State) : (s.live f).PinsFollow := by
  unfold State.live
  split
  · exact hs
  · exact s.whole_follows f

/-- R613: neither steward runs after a reset of the package. -/
theorem State.packageReset_follows (s : State) (cause : Nat) (supply : Bool) : (s.packageReset cause supply).PinsFollow :=
  ⟨Hall.pinFollows_of_down rfl, Hall.pinFollows_of_down rfl⟩

theorem State.porLow_follows {s : State} (hs : s.PinsFollow) (ns : Nat) : (s.porLow ns).PinsFollow := by
  unfold State.porLow
  split
  · exact hs
  split
  · exact s.packageReset_follows 1 true
  · simp only []
    split
    · exact State.packageReset_follows _ 1 true
    · exact hs

theorem State.release_follows {s : State} (hs : s.PinsFollow) (straps : Straps) (tb : Nat) : (s.release straps tb).PinsFollow := by
  unfold State.release
  split
  · exact hs
  · exact hs

/-- R541: a command that acts in reset either resets the package, or judges the causes, or changes nothing that the pins follow. -/
theorem exec_follows {c : Instr} {s t : State} (hs : s.PinsFollow) (ht : exec c s = .next t) : t.PinsFollow := by
  cases hc : actsInReset c with
  | false =>
    obtain ⟨f, hf⟩ := exec_live hc s
    rw [hf] at ht
    cases ht
    exact State.live_follows hs f
  | true =>
    cases c with
    | porNAssert ns => cases ht; exact State.porLow_follows hs ns
    | porNRelease straps tb => cases ht; exact State.release_follows hs straps tb
    | supplyOutOfRange => cases ht; exact s.packageReset_follows 0 false
    | pgRise | pgFall => cases ht; exact s.whole_follows _
    | jtagBypass | jtagIdcode | jtagSamplePreload | jtagExtest | jtagTrst => cases ht; exact hs
    | _ => cases hc

/-- Settles O7: the pins do not read the queue, and every command keeps them following. -/
theorem stepKeepsPinsFollowing : Obligations.StepKeepsPinsFollowing := by
  intro s t hs ht
  cases hq : s.pending with
  | nil =>
    rw [step_of_pending_nil hq] at ht
    cases ht
    exact hs
  | cons c q =>
    rw [step_of_pending_cons hq] at ht
    exact exec_follows (s := { s with pending := q }) hs ht

/-! ### Settling (R468, R541, R579, R600) -/

/-- Settles O10: what settling adds stands in the event log, the pins, the held events and the counters, the last only for cycles that have passed,
which log entry 318 counts. -/
theorem settlingChangesOnlyLogPinsEvents : Obligations.SettlingChangesOnlyLogPinsEvents := by
  intro s u
  exact ⟨s.uncounted_whole _, s.bare_whole _, s.whole_follows _, fun hn =>
    ⟨s.bare_whole_still _ (hn .a) (hn .b), fun hu he hl => s.whole_still u hu he hl hn⟩⟩

end Sys2Proof.Machine
end

section
/-! Resets of the package, power-good, the TAP's instructions and the boot ROM's firmware (R611, R613 to R619). -/

namespace Sys2Proof.Machine

/-! ### POR_N and the supplies (R613) -/

theorem State.porLow_of_long {s : State} {ns : Nat} (hp : s.por = false) (hn : 10000 ≤ ns) : s.porLow ns = s.packageReset 1 true := by
  have hns : ¬ ns < 1000 := by omega
  simp [State.porLow, hp, hns, hn]

theorem State.porLow_of_short (s : State) {ns : Nat} (hn : ns < 1000) : s.porLow ns = s := by
  simp [State.porLow, hn]

theorem State.porLow_between {s : State} {ns : Nat} (hp : s.por = false) (h1 : 1000 ≤ ns) (h2 : ns < 10000) :
    s.porLow ns = if Config.porPulse s.free then ({ s with free := s.free + 1 } : State).packageReset 1 true else { s with free := s.free + 1 } := by
  have hlong : ¬ 10000 ≤ ns := by omega
  simp [State.porLow, hp, Nat.not_lt.2 h1, hlong]

theorem State.release_of_held {s : State} (hp : s.por = true) (t : Straps) (tb : Nat) : s.release t tb =
    { s with
      por := false, supply := true, straps := t, imageSeen := false
      a := { s.a with dev := { s.a.dev with releaseTb := tb } }, b := { s.b with dev := { s.b.dev with releaseTb := tb } }
      pkg := { s.pkg with enCore := [true, false], enPhy := [true, false], vid := [3, 0], enVt := [some s.pkg.now, none] } } := by
  simp [State.release, hp]

theorem State.release_of_released {s : State} (hp : s.por = false) (t : Straps) (tb : Nat) : s.release t tb = s := by
  simp [State.release, hp]

/-- Settles O12. That a supply which leaves its range resets the package with cause 0 is log entry 30's choice; between 1 and 10 µs the free value
of log entry 346 decides. -/
theorem porResetsOrIsIgnored : Obligations.PorResetsOrIsIgnored := by
  refine ⟨fun s ns hp hn => congrArg _ (State.porLow_of_long hp hn), fun s ns hn => congrArg _ (s.porLow_of_short hn), fun s ns hp h1 h2 => ?between,
    fun s => rfl, fun s t tb hp => congrArg _ (State.release_of_held hp t tb), fun s t tb hp => congrArg _ (State.release_of_released hp t tb),
    fun H h c => ⟨rfl, rfl, rfl, rfl, rfl, rfl⟩⟩
  case between =>
    have he : exec (.porNAssert ns) s = .next (s.porLow ns) := rfl
    rw [he, State.porLow_between hp h1 h2]
    cases Config.porPulse s.free with
    | true => exact .inr rfl
    | false => exact .inl rfl

/-! ### The TAP (R614) -/

/-- Settles O14: each instruction is a change of the TAP alone. That the TAP's reset selects IDCODE is log entry 31's reading of IEEE 1149.1. -/
theorem jtagInstructions : Obligations.JtagInstructions := by
  refine fun s pins => ⟨⟨_, rfl, rfl, rfl⟩, ⟨_, rfl, rfl, rfl, rfl⟩, ⟨_, rfl, rfl, rfl, rfl⟩, fun hs => ⟨?sample, ?extest⟩, fun hs => ⟨?sampleSeen, ?extestSeen⟩⟩
  case sample =>
    refine ⟨{ s.jtag with instr := 2, data := 0, sampled := pins, driving := false }, ?_, rfl, rfl, rfl⟩
    simp [exec, execJtagSamplePreload, hs]
  case extest =>
    refine ⟨{ s.jtag with instr := 3, data := 0, driving := true }, ?_, rfl, rfl⟩
    simp [exec, execJtagExtest, hs]
  case sampleSeen => simp [exec, execJtagSamplePreload, execJtagBypass, hs]
  case extestSeen => simp [exec, execJtagExtest, execJtagBypass, hs]

/-! ### New challenges (R493) -/

/-- A hall without its ports. -/
def Hall.unported (H : Hall) : Hall := { H with ports := [] }

theorem State.newChallenge_unported (s : State) (p : Nat) (h : HallId) : ((s.newChallenge p).hall h).unported = (s.hall h).unported := by
  unfold State.newChallenge State.onPort State.draw
  by_cases e : h = portHall p
  · subst e
    rw [State.hall_onHall, State.hall_withFree]
    rfl
  · rw [State.hall_onHall_ne _ _ e, State.hall_withFree]

/-- R6: a challenge changes the port's own hall alone. -/
theorem State.newChallenge_other (s : State) {p : Nat} {h : HallId} (e : h ≠ portHall p) : (s.newChallenge p).hall h = s.hall h := by
  unfold State.newChallenge State.onPort State.draw
  rw [State.hall_onHall_ne _ _ e, State.hall_withFree]

@[simp] theorem State.newChallenge_pkg (s : State) (p : Nat) : (s.newChallenge p).pkg = s.pkg := by
  simp [State.newChallenge, State.onPort, State.draw]
@[simp] theorem State.newChallenge_free (s : State) (p : Nat) : (s.newChallenge p).free = s.free + 16 := by
  simp [State.newChallenge, State.onPort, State.draw]
@[simp] theorem State.newChallenge_xspiResets (s : State) (p : Nat) : (s.newChallenge p).xspiResets = s.xspiResets := by
  simp [State.newChallenge, State.onPort, State.draw]

theorem portHall_of_hall (h : HallId) : portHall (2 * h.idx) = h ∧ portHall (2 * h.idx + 1) = h := by cases h <;> exact ⟨rfl, rfl⟩

theorem State.newChallenges_unported (s : State) (h k : HallId) : ((s.newChallenges h).hall k).unported = (s.hall k).unported :=
  (State.newChallenge_unported _ _ k).trans (s.newChallenge_unported _ k)

theorem State.newChallenges_other (s : State) (h : HallId) : (s.newChallenges h).hall h.other = s.hall h.other := by
  obtain ⟨h0, h1⟩ := portHall_of_hall h
  unfold State.newChallenges
  rw [State.newChallenge_other _ (by rw [h1]; exact hallId_other_ne h), State.newChallenge_other _ (by rw [h0]; exact hallId_other_ne h)]

@[simp] theorem State.newChallenges_pkg (s : State) (h : HallId) : (s.newChallenges h).pkg = s.pkg := by simp [State.newChallenges]
@[simp] theorem State.newChallenges_free (s : State) (h : HallId) : (s.newChallenges h).free = s.free + 32 := by simp [State.newChallenges]
@[simp] theorem State.newChallenges_xspiResets (s : State) (h : HallId) : (s.newChallenges h).xspiResets = s.xspiResets := by
  simp [State.newChallenges]

/-! ### Power-good (R610, R611, R619) -/

/-- R619 steps 2 and 4: the hall's boot ROM begins, its domains powered. -/
def Hall.romStarts (H : Hall) (rsvd : Bool) : Hall :=
  { H with
    dev := { H.dev with up := true, stage := if rsvd then .halted else .rom, fwError := if rsvd then 6 else 0 }
    pwr := { H.pwr with galOn := Voted.all 0xFF, op := 3, opReq := 3, hall := .on } }

/-- The state at a power-good ball's new level. -/
def State.atPg (s : State) (h : HallId) (v : Bool) : State := { s with pkg := { s.pkg with pg := modAt s.pkg.pg h.idx fun _ => v } }

@[simp] theorem State.atPg_hall (s : State) (h k : HallId) (v : Bool) : (s.atPg h v).hall k = s.hall k := by cases k <;> rfl

/-- R619 steps 2 and 4: hall h's ROM has begun, and its ports have drawn challenges. -/
def State.romStarted (s : State) (h : HallId) : State := ((s.atPg h true).onHall h fun H => H.romStarts s.straps.rsvd).newChallenges h

theorem State.romStarted_hall (s : State) (h : HallId) : ((s.romStarted h).hall h).unported = ((s.hall h).romStarts s.straps.rsvd).unported := by
  rw [State.romStarted, State.newChallenges_unported, State.hall_onHall, State.atPg_hall]

theorem State.romStarted_other (s : State) (h : HallId) : (s.romStarted h).hall h.other = s.hall h.other := by
  rw [State.romStarted, State.newChallenges_other, State.hall_other_onHall, State.atPg_hall]

theorem State.pgRise_of_cold {s : State} {h : HallId} (hp : s.por = false) (hu : (s.hall h).dev.up = false) (hst : (s.hall h).dev.stage = .rom)
    (he : s.pkg.enCore.getD h.idx false = true) : s.pgRise h =
    { s.romStarted h with
      xspiResets := if h = .a then (s.romStarted h).xspiResets + 1 else (s.romStarted h).xspiResets
      pkg := { (s.romStarted h).pkg with
        state := max (s.romStarted h).pkg.state (2 + h.idx), vid := modAt (s.romStarted h).pkg.vid h.idx fun _ => 3 } } := by
  have hcold : (s.por || ((s.atPg h true).hall h).dev.up || ((s.atPg h true).hall h).dev.stage != .rom || !(s.pkg.enCore.getD h.idx false)) = false := by
    simp only [State.atPg_hall, hp, hu, hst, he, bne_self_eq_false, Bool.not_true, Bool.or_self]
  exact if_neg (ne_true_of_eq_false hcold)

/-- R611: the fall of hall h's power-good ball only lowers it. -/
def State.pgIgnored (s : State) (h : HallId) (vt : Nat) (planned : Bool) : Bool :=
  s.por || !(s.pkg.enCore.getD h.idx false) || planned || (s.pkg.enVt.getD h.idx none).any fun t => decide ((vt - t) * 10000 < 720896)

theorem State.pgFall_eq (s : State) (h : HallId) (vt : Nat) (planned : Bool) : s.pgFall h vt planned =
    if s.pgIgnored h vt planned then s.atPg h false else (s.atPg h false).hallReset h 0 false := by
  unfold State.pgFall
  simp only []
  refine if_congr ?_ rfl rfl
  unfold State.pgIgnored
  generalize s.pkg.enCore.getD h.idx false = core
  generalize s.pkg.enVt.getD h.idx none = stamp
  cases core with
  | false => simp
  | true => cases stamp <;> simp [or_comm, or_assoc]

section
variable {s : State} {h : HallId} {vt : Nat}

theorem State.pgFall_of_late (hp : s.por = false) (he : s.pkg.enCore.getD h.idx false = true)
    (hl : ∀ t, s.pkg.enVt.getD h.idx none = some t → 720896 ≤ (vt - t) * 10000) : s.pgFall h vt false = (s.atPg h false).hallReset h 0 false := by
  have hlate : ((s.pkg.enVt.getD h.idx none).any fun t => decide ((vt - t) * 10000 < 720896)) = false :=
    (Option.any_eq_false _ _).2 fun t ht => decide_eq_false (Nat.not_lt.2 (hl t ht))
  rw [State.pgFall_eq, State.pgIgnored, hp, he, hlate]
  rfl

theorem State.pgFall_of_fresh {t : Nat} (ht : s.pkg.enVt.getD h.idx none = some t) (hl : (vt - t) * 10000 < 720896) (planned : Bool) :
    s.pgFall h vt planned = s.atPg h false := by
  rw [State.pgFall_eq, State.pgIgnored, ht, Option.any_some, decide_eq_true hl, Bool.or_true]
  rfl

theorem State.pgFall_of_off (he : s.pkg.enCore.getD h.idx false = false) (planned : Bool) : s.pgFall h vt planned = s.atPg h false := by
  rw [State.pgFall_eq, State.pgIgnored, he, Bool.not_false, Bool.or_true, Bool.true_or, Bool.true_or]
  rfl

end

@[simp] theorem State.pairReset_pkg (s : State) (h : HallId) (linked : Bool) : (s.pairReset h linked).pkg = s.pkg := by
  unfold State.pairReset
  simp only []
  split
  · exact State.onHall_pkg _ _ _
  · split
    · rfl
    · exact State.onHall_pkg _ _ _

/-- A hall that resets with its rails off leaves the power-good balls and the clock. -/
theorem State.hallReset_unpowered_pkg (s : State) (h : HallId) (cause : Nat) :
    (s.hallReset h cause false).pkg.pg = s.pkg.pg ∧ (s.hallReset h cause false).pkg.now = s.pkg.now := by
  simp [State.hallReset]

theorem State.pgFall_pkg (s : State) (h : HallId) (vt : Nat) (planned : Bool) :
    (s.pgFall h vt planned).pkg.pg = modAt s.pkg.pg h.idx (fun _ => false) ∧ (s.pgFall h vt planned).pkg.now = s.pkg.now := by
  rw [State.pgFall_eq]
  split
  · exact ⟨rfl, rfl⟩
  · exact State.hallReset_unpowered_pkg _ h 0

theorem exec_pgFall {s u : State} {h : HallId} {vt : Nat} {planned : Bool} (e : (s.atVt vt).pgFall h vt planned = u) :
    exec (.pgFall h vt planned) s = .next (s.whole fun _ => u) :=
  congrArg Host.Outcome.next (State.whole_congr e)

/-- Settles O13. That OP and OP_REQ are 3 and every gallery powered from PG_x on at a cold start is log entry 64's choice. -/
theorem powerGoodStartsAHall : Obligations.PowerGoodStartsAHall := by
  refine ⟨fun s hp hu hst he => ⟨_, rfl, ?started⟩, fun s h vt hp he hn => ?unstamped, fun s h vt planned he => ?off,
    fun s h vt t hp he ht => ⟨fun hl => ?fresh, fun hl => ?late⟩, fun s h vt planned => ⟨_, rfl, ?ball⟩⟩
  case started =>
    have hpg := State.pgRise_of_cold (h := .a) hp hu hst he
    have hA : (s.pgRise .a).a.unported = (s.a.romStarts s.straps.rsvd).unported := by
      rw [hpg]
      exact s.romStarted_hall .a
    have hB : (s.pgRise .a).b = s.b := by
      rw [hpg]
      exact s.romStarted_other .a
    have hdev : (s.pgRise .a).a.dev = (s.a.romStarts s.straps.rsvd).dev := (congrArg Hall.dev hA :)
    have hpwr : (s.pgRise .a).a.pwr = (s.a.romStarts s.straps.rsvd).pwr := (congrArg Hall.pwr hA :)
    have hgals : (s.pgRise .a).a.gals = s.a.gals := (congrArg Hall.gals hA :)
    have hcores : (s.pgRise .a).a.cores = s.a.cores := (congrArg Hall.cores hA :)
    have hmem : (s.pgRise .a).a.mem = s.a.mem := (congrArg Hall.mem hA :)
    have hswp : (s.pgRise .a).a.swp = s.a.swp := (congrArg Hall.swp hA :)
    have hbare := State.whole_hall_bare_of_bare (s := s) (f := fun s => s.pgRise .a) (h := .b) (congrArg Hall.bare hB)
    have hpkg : (s.pgRise .a).pkg = { s.pkg with
        pg := modAt s.pkg.pg 0 (fun _ => true), state := max s.pkg.state 2, vid := modAt s.pkg.vid 0 fun _ => 3 } := by
      rw [hpg, State.romStarted, State.newChallenges_pkg, State.onHall_pkg]
      rfl
    have hxspi : (s.pgRise .a).xspiResets = s.xspiResets + 1 := by simp [hpg, State.romStarted, State.atPg]
    have hfree : (s.pgRise .a).free = s.free + 32 := by simp [hpg, State.romStarted, State.atPg]
    refine ⟨?_, ?_, ?_, ?_, ?_, ?_, ?_, ?_, ?_, ?_, ?_, ?_, ?_, ?_, ?_, ?_, hbare⟩ <;>
      simp [hdev, hpwr, hgals, hcores, hmem, hswp, hpkg, hxspi, hfree, Hall.romStarts]
  case unstamped =>
    exact exec_pgFall (State.pgFall_of_late (s := s.atVt vt) hp he fun t ht => nomatch hn.symm.trans ht)
  case off => exact exec_pgFall (State.pgFall_of_off (s := s.atVt vt) he planned)
  case fresh => exact exec_pgFall (State.pgFall_of_fresh (s := s.atVt vt) ht hl false)
  case late =>
    refine exec_pgFall (State.pgFall_of_late (s := s.atVt vt) hp he fun t' ht' => ?_)
    cases ht.symm.trans ht'
    exact hl
  case ball =>
    simp only [State.whole_pkg]
    exact (s.atVt vt).pgFall_pkg h vt planned

/-! ### Hall A's boot ROM (R616 to R619) -/

section
variable {s : State} {f : Flash} (hp : s.por = false) (hu : s.a.dev.up = true) (hst : s.a.dev.stage = .rom)
include hp hu hst

theorem State.firmwareLoad_of_silent (hr : f.responds = false) : s.firmwareLoad f = s.onHall .a fun H => H.halt 1 := by
  simp [State.firmwareLoad, hp, hu, hst, hr]

theorem State.firmwareLoad_of_noDirectory (hr : f.responds = true) (hd : flashDirectory f = none) :
    s.firmwareLoad f = s.onHall .a fun H => H.halt 2 := by
  simp [State.firmwareLoad, hp, hu, hst, hr, hd]

/-- R617: slot 0 alone is present, and verifies. -/
theorem State.firmwareLoad_of_first {d : List Byte} {e : DirEntry} (hr : f.responds = true) (hd : flashDirectory f = some d)
    (hi : (flashEntries f).2 = []) (h0 : flashEntry f 1 0 = some e) (h1 : flashEntry f 1 1 = none)
    (hv : firmwareError s.a.keyArray.firmware (flashRead f e.offset e.length) = 0) :
    s.firmwareLoad f = s.onHall .a fun H =>
      let H1 := ({ H with dev := { H.dev with slow := s.straps.xspiMode && (!f.sfdp || !f.dqs) } } : Hall).runFirmware 1 (flashRead f e.offset e.length)
      { H1 with dev := { H1.dev with imgState := if s.straps.bootSrc == 2 then 1 else 0 } } := by
  simp [State.firmwareLoad, hp, hu, hst, hr, hd, hi, h0, h1, hv]

end

/-- What running a firmware leaves of the hall: all but its galleries and its start-up state. -/
theorem Hall.runFirmware_frame (H : Hall) (src : Nat) (obj : List Byte) : ∃ gs, H.runFirmware src obj =
    { H with
      gals := gs
      dev := { H.dev with
        stage := .dramTrain, fwSource := src, fwVersion := (fld obj 4 1, fld obj 5 1, fld obj 6 2), fwObject := obj.take (224 + fld obj 10 4)
        fwDigest := sha384 (obj.take (128 + fld obj 10 4)), filling := H.pwr.galOn.val } } := by
  have hg : ∀ (l : List Nat) (k : Nat → Gallery → Gallery) (H : Hall), ∃ gs, l.foldl (fun (H : Hall) g => H.onGal g (k g)) H = { H with gals := gs } := by
    intro l k
    induction l with
    | nil => exact fun H => ⟨H.gals, rfl⟩
    | cons g r ih => exact fun H => ih (H.onGal g (k g))
  obtain ⟨gs, e⟩ := hg (List.range 8) (fun g G => { G with st := if H.pwr.galOn.val.getLsbD g then .fill else .off }) H
  exact ⟨gs, by simp only [Hall.runFirmware, e]⟩

/-- Settles O15. That the galleries that are on count as filling from here is log entry 66's choice. -/
theorem firmwareLoadRunsTheNewerSlot : Obligations.FirmwareLoadRunsTheNewerSlot := by
  refine ⟨fun s f d e hp hu hst hr hd hi h0 h1 hv _ => ?runs, fun s f hp hu hst => ⟨fun hr => ?silent, fun hr hd => ?noDirectory⟩⟩
  case runs =>
    refine Gives.of_live hp rfl (State.firmwareLoad_of_first hp hu hst hr hd hi h0 h1 hv) ?_
    obtain ⟨gs, hrun⟩ := ({ s.a with dev := { s.a.dev with slow := s.straps.xspiMode && (!f.sfdp || !f.dqs) } } : Hall).runFirmware_frame 1
      (flashRead f e.offset e.length)
    have hb := State.whole_hall_bare_of_bare (s := s) (f := fun _ => s.onHall .a fun H =>
      let H1 := ({ H with dev := { H.dev with slow := s.straps.xspiMode && (!f.sfdp || !f.dqs) } } : Hall).runFirmware 1 (flashRead f e.offset e.length)
      { H1 with dev := { H1.dev with imgState := if s.straps.bootSrc == 2 then 1 else 0 } }) (h := .b) rfl
    refine ⟨?_, ?_, ?_, ?_, ?_, ?_, ?_, ?_, ?_, hb⟩ <;> simp [State.onHall, hrun]
  case silent => exact State.next_live hp (State.firmwareLoad_of_silent hp hu hst hr)
  case noDirectory => exact State.next_live hp (State.firmwareLoad_of_noDirectory hp hu hst hr hd)

end Sys2Proof.Machine
end

section
/-! The words of host ports: unlocks, words refused and words that take effect (R458, R590, R595, R596), rotations and power requests (R508 to R511,
R555, R556, R565), counters (R582 to R587), and the limit on a port's log entries (R601). -/

namespace Sys2Proof.Machine

/-! ### A word at a register (R458, R590, R595, R596) -/

section
variable {s : State} {p addr : Nat} {w : Word} (hu : s.portUp p = true)
include hu

theorem State.hostWord_of_refused {code : Nat}
    (hw : s.wordRefusal p addr (fun i b o => (s.hall (portHall p)).mayWrite p i b o w) = .error code) (vt : Nat) :
    s.hostWord p addr w vt = s.refuseWord p code addr := by
  simp only [State.hostWord, State.regWrite, hu, hw, if_true]

section
variable {idx blk o : Nat} (hw : s.wordRefusal p addr (fun i b o => (s.hall (portHall p)).mayWrite p i b o w) = .ok (idx, blk, o))
include hw

theorem State.hostWord_of_unlock (ho : o = 0x3FF0) (vt : Nat) : s.hostWord p addr w vt = s.unlockWrite p blk w := by
  simp only [State.hostWord, State.regWrite, hu, hw, ho, if_true]

/-- R595: a word without its unlock keeps a guarded register's fields. -/
theorem State.hostWord_of_locked (ho : o ≠ 0x3FF0) (hg : guarded (portHall p) idx o = true) (ha : (s.port p).armed.contains blk = false) (vt : Nat) :
    s.hostWord p addr w vt = ((s.spent p blk).logPort (portHall p) p 0x0004 blk (o / 4)).onHall (portHall p) fun H =>
      { H with dev := { H.dev with lockedWrites := inc16 H.dev.lockedWrites } } := by
  simp only [State.hostWord, State.regWrite, hu, hw, ho, hg, ha, if_true, if_false, Bool.false_eq_true]
  rfl

theorem State.hostWord_of_unguarded (ho : o ≠ 0x3FF0) (hg : guarded (portHall p) idx o = false) (vt : Nat) : s.hostWord p addr w vt =
    if idx = 7 && o = 0 && w.getLsbD 0 then (s.spent p blk).onHall (portHall p) Hall.snapshot else s.spent p blk := by
  simp only [State.hostWord, State.regWrite, hu, hw, ho, hg, if_true, if_false, Bool.false_eq_true]
  rfl

end

end

theorem State.unlockWrite_of_other (s : State) (p blk : Nat) {w : Word} (hw : w ≠ 0x5EA1#32) : s.unlockWrite p blk w =
    ((s.spent p blk).logPort (portHall p) p 0x0005 blk (bits w.toNat 0 16)).onHall (portHall p) fun H =>
      { H with dev := { H.dev with badUnlock := inc8 H.dev.badUnlock } } :=
  if_neg fun e => hw (BitVec.eq_of_toNat_eq e)

theorem sins_contains (l : List Nat) (a b : Nat) : (sins l a).contains b = (decide (b = a) || l.contains b) := by
  rw [Bool.eq_iff_iff]
  simp [mem_sins]

/-- Settles O49. -/
theorem unlocksGuardRegisterWrites : Obligations.UnlocksGuardRegisterWrites := by
  refine ⟨fun s p blk idx tb w hp hu hw => ⟨fun e => ?armed, fun hn => ?bad⟩, fun s p blk hp hu ha => ?expired, fun s p addr code w hp hu hw => ?refused,
    fun s p addr idx blk o w hp hu ho hsnap hw => ⟨fun hg ha => ?locked, fun hg ha => ?taken, fun hg => ?used⟩, fun l a b => sins_contains l a b⟩
  case armed =>
    subst e
    exact State.next_live hp (State.hostWord_of_unlock hu hw rfl _)
  case bad => exact State.next_live hp ((State.hostWord_of_unlock hu hw rfl _).trans (s.unlockWrite_of_other p blk hn))
  case expired =>
    refine State.next_live hp ((if_pos hu).trans ?_)
    exact if_pos ha
  case refused => exact State.next_live hp (State.hostWord_of_refused hu hw _)
  case locked => exact State.next_live hp (State.hostWord_of_locked hu hw ho hg ha _)
  case taken => exact State.next_live hp (State.Reaches.hostWord ⟨hp, hu, hw, ha⟩ ho hg _)
  case used =>
    refine State.next_live hp ((State.hostWord_of_unguarded hu hw ho hg _).trans (if_neg fun e => hsnap ?_))
    simp only [Bool.and_eq_true, decide_eq_true_eq] at e
    exact e.1

/-! ### SEC_ROTATE (R508 to R511) -/

section
variable {s : State} {h : HallId} {d : Nat} (ht : (s.hall h).sec.trngOk = true)
include ht

/-- R510: a domain whose old epoch is live is busy. -/
theorem State.rotate_of_oldLive (hl : (s.hall h).oldLive d = true) :
    s.rotate h d = (0x070E, s.onHall h fun H => { H with sec := { H.sec with busy := inc8 H.sec.busy } }) := by
  simp [State.rotate, ht, hl]

/-- R509, R511: with slot 0 current and no sweep queued, slot 1 takes a fresh number and the sweep starts. -/
theorem State.rotate_of_unqueued {x : Dom} (hs : (s.hall h).sec.sweeps = []) (hx : (s.hall h).dom d = some x) (hr : x.releasing = false)
    (hc : x.current = 0) : s.rotate h d =
      (0, (s.drawEpoch.2.setEpoch { s.epoch h.idx d with e1 := some s.drawEpoch.1 }).onHall h fun H =>
        let H1 := H.onDom d fun x => { x with current := 1 }
        ({ H1 with sec := { H1.sec with sweeps := H1.sec.sweeps ++ [d] } } : Hall).startSweep) := by
  have hl : (s.hall h).oldLive d = false := by rw [Hall.oldLive, hs]; rfl
  have hfew : ¬ 16 ≤ (s.hall h).sec.sweeps.tail.length := by rw [hs]; decide
  simp only [State.rotate, ht, hl, hfew, hx, hr, hc, Bool.not_true, Bool.false_eq_true, decide_false, Bool.or_self, if_true, if_false,
    Option.map_some, Option.getD_some]
  refine congrArg (Prod.mk 0) (State.onHall_congr ?_)
  have hq : ((s.drawEpoch.2.setEpoch { s.epoch h.idx d with e1 := some s.drawEpoch.1 }).hall h).sec.sweeps = [] := by
    refine Eq.trans ?_ hs
    cases h <;> rfl
  exact if_pos (congrArg List.isEmpty hq)

end

section
variable {s : State} {h : HallId} {w : Word}

/-- R510: SEC_ROTATE holds the domain that a word names. -/
def State.rotNamed (s : State) (h : HallId) (w : Word) : State :=
  s.onHall h fun H => { H with sec := { H.sec with rotDomain := bits w.toNat 0 12 } }

theorem State.rotateWrite_of_named (hw : w.getLsbD 31 = false) : s.rotateWrite h w = s.rotNamed h w :=
  if_pos (congrArg not hw)

variable (hw : w.getLsbD 31 = true)
include hw

theorem State.rotateWrite_of_undeclared (hd : ((s.rotNamed h w).hall h).dom (bits w.toNat 0 12) = none) : s.rotateWrite h w =
    (s.rotNamed h w).onHall h fun H => { H with sec := { H.sec with rotLast := 4 } } := by
  unfold State.rotNamed at *
  simp only [State.rotateWrite, hw, hd, Bool.not_true, Bool.false_eq_true, Option.isNone_none, if_true, if_false]

variable {x : Dom} (hd : ((s.rotNamed h w).hall h).dom (bits w.toNat 0 12) = some x) {t : State}
include hd

theorem State.rotateWrite_of_accepted (hr : (s.rotNamed h w).rotate h (bits w.toNat 0 12) = (0, t)) : s.rotateWrite h w =
    t.onHall h fun H => { H with sec := { H.sec with rotLast := 1 } } := by
  unfold State.rotNamed at *
  simp only [State.rotateWrite, hw, hd, hr, Bool.not_true, Bool.false_eq_true, Option.isNone_some, if_false]

theorem State.rotateWrite_of_busy (hr : (s.rotNamed h w).rotate h (bits w.toNat 0 12) = (0x070E, t)) : s.rotateWrite h w =
    t.onHall h fun H => { H with sec := { H.sec with rotLast := 2 } } := by
  unfold State.rotNamed at *
  simp only [State.rotateWrite, hw, hd, hr, Bool.not_true, Bool.false_eq_true, Option.isNone_some, if_false]

end

/-- R595: neither the unlock used up nor the domain held is read of the hall's security. -/
theorem State.spent_hall_sec (s : State) (p blk : Nat) (h : HallId) : ((s.spent p blk).hall h).sec = (s.hall h).sec := by
  obtain ⟨_, e⟩ := s.spent_hall p blk h
  rw [e]

theorem State.rotNamed_hall_sec (s : State) (h : HallId) (w : Word) :
    ((s.rotNamed h w).hall h).sec = { (s.hall h).sec with rotDomain := bits w.toNat 0 12 } := by
  rw [State.rotNamed, State.hall_onHall]

theorem State.epoch_of_epochs {s t : State} (e : t.epochs = s.epochs) (h d : Nat) : t.epoch h d = s.epoch h d := by
  unfold State.epoch
  rw [e]

theorem Hall.dom_of_doms {H K : Hall} (e : K.sec.doms = H.sec.doms) (d : Nat) : K.dom d = H.dom d := by
  unfold Hall.dom
  rw [e]

/-! ### PWR_REQ and PWR_CTL (R555, R556, R565) -/

theorem State.spent_hall_pwr (s : State) (p blk : Nat) (h : HallId) : ((s.spent p blk).hall h).pwr = (s.hall h).pwr := by
  obtain ⟨_, e⟩ := s.spent_hall p blk h
  rw [e]

/-- R64, R458: a word that is not refused is one that the port may write. -/
theorem State.may_of_wordRefusal {s : State} {p addr idx blk o : Nat} {may : Nat → Nat → Nat → Bool}
    (e : s.wordRefusal p addr may = .ok (idx, blk, o)) : may idx blk o = true := by
  unfold State.wordRefusal at e
  simp only [] at e
  split at e
  · cases e
  split at e
  · cases e
  split at e
  · split at e
    · next hm =>
      cases e
      exact hm
    · cases e
  · cases e

theorem portIdx_cases (p : Nat) : portIdx p = 0 ∨ portIdx p = 1 := by
  unfold portIdx
  omega

theorem two_mul_portHall_add_portIdx {p : Nat} (hp : p < 4) : 2 * (portHall p).idx + portIdx p = p := by
  unfold portHall portIdx
  split
  · show 2 * 0 + p % 2 = p
    omega
  · show 2 * 1 + p % 2 = p
    omega

/-- R595, R596: the effect of a word at a guarded register's own address. -/
theorem State.Reaches.hostWord_at {s : State} {p b n i idx blk o : Nat} {w : Word} (hr : s.Reaches p (regAddr (portHall p) b n) w idx blk o)
    (hb : blockIndex b = some i) (hn : n < 0x3FF0) (hg : guarded (portHall p) i n = true) (vt : Nat) :
    s.hostWord p (regAddr (portHall p) b n) w vt = (s.spent p b).guardedWrite p i b n w vt := by
  obtain ⟨rfl, rfl, rfl⟩ := hr.place hb (Nat.lt_trans hn (by decide))
  exact hr.hostWord (Nat.ne_of_lt hn) hg vt

/-- R555: PWR_REQ_i is the request of local port i. -/
theorem State.guardedWrite_powerReq (s : State) {p : Nat} (hp : p < 4) (w : Word) (vt : Nat) :
    s.guardedWrite p 3 3 (0x10 + 4 * portIdx p) w vt = s.powerReq p (w.getLsbD 4) (bits w.toNat 0 4) vt := by
  have hport := two_mul_portHall_add_portIdx hp
  rcases portIdx_cases p with e | e
  · rw [e] at hport ⊢
    exact congrArg (s.powerReq · _ _ vt) hport
  · rw [e] at hport ⊢
    exact congrArg (s.powerReq · _ _ vt) hport

@[simp] theorem State.atVt_hall (s : State) (vt : Nat) (h : HallId) : (s.atVt vt).hall h = s.hall h := by cases h <;> rfl

/-- R74: rights are the image's. -/
theorem State.spent_hall_hasRight (s : State) (p blk : Nat) (h : HallId) (q r : Nat) : ((s.spent p blk).hall h).hasRight q r = (s.hall h).hasRight q r := by
  obtain ⟨_, e⟩ := s.spent_hall p blk h
  rw [e]
  rfl

theorem Hall.writeRights_of_mayWrite {H : Hall} {p idx blk o : Nat} {w : Word} (hm : H.mayWrite p idx blk o w = true) : H.writeRights p idx o w = true :=
  (Bool.and_eq_true_iff.1 hm).2

/-- The word of WAKE_RELEASE: it asks for the release and leaves DRIVE_HOLD at its level. -/
theorem wakeReleaseWord_bits (hold : Bool) :
    (2#32 ||| BitVec.ofNat 32 (b2n hold)).getLsbD 1 = true ∧ (2#32 ||| BitVec.ofNat 32 (b2n hold)).getLsbD 0 = hold := by
  cases hold <;> decide

theorem State.pwrCtl_of_release {s : State} {p : Nat} {w : Word} (h1 : w.getLsbD 1 = true) (h0 : w.getLsbD 0 = (s.hall (portHall p)).pwr.driveHold)
    (hr : (s.hall (portHall p)).hasRight p 5 = true) (vt : Nat) : s.pwrCtl p w vt = s.wakeRelease vt := by
  have hhold : (s.onHall (portHall p) fun H => { H with pwr := { H.pwr with driveHold := w.getLsbD 0 } }) = s :=
    State.onHall_of_fixed (by rw [h0])
  simp only [State.pwrCtl, h1, hr, hhold, ite_self, Bool.and_self, if_true]

theorem State.powerReq_of_hallA (s : State) {p : Nat} (hp : p < 2) (config vt : Nat) (valid : Bool) : s.powerReq p valid config vt =
    (s.onHall (portHall p) fun H => { H with pwr := { H.pwr with reqs := modAt H.pwr.reqs (portIdx p) fun _ => (valid, config) } }).applyPower
      (some (4, portIdx p)) (0, 0) vt := by
  have hh : portHall p = .a := if_pos hp
  simp only [State.powerReq, hh]

theorem State.powerReq_of_hallB (s : State) {p : Nat} (hp : 2 ≤ p) (config vt : Nat) (valid : Bool) : s.powerReq p valid config vt =
    (s.onHall (portHall p) fun H => { H with pwr := { H.pwr with reqs := modAt H.pwr.reqs (portIdx p) fun _ => (valid, config) } }).onHall .b
      fun H => H.tell (.powerRequest (portIdx p) valid config) := by
  have hh : portHall p = .b := if_neg (Nat.not_lt.2 hp)
  simp only [State.powerReq, hh]

/-- Settles O51. That the code of a rotation refused on two grounds is the lower of R518's is log entry 336's reading, and that an old epoch is live
while its domain's sweep is queued log entry 193's. -/
theorem rotationsAndPowerRequests : Obligations.RotationsAndPowerRequests := by
  refine ⟨fun s p idx blk o w hr => ?rotate, fun s p idx blk o w vt hr => ?request, fun s p config vt valid _ =>
    ⟨fun hp => s.powerReq_of_hallA hp config vt valid, fun hp => s.powerReq_of_hallB hp config vt valid⟩, fun s p idx blk o vt hr => ?wake⟩
  case rotate =>
    have hsec : (((s.spent p 5).rotNamed (portHall p) w).hall (portHall p)).sec =
        { (s.hall (portHall p)).sec with rotDomain := bits w.toNat 0 12 } := by
      rw [State.rotNamed_hall_sec, State.spent_hall_sec]
    have hdom : ((((s.spent p 5).rotNamed (portHall p) w).hall (portHall p)).dom (bits w.toNat 0 12)) =
        (s.hall (portHall p)).dom (bits w.toNat 0 12) := Hall.dom_of_doms (by rw [hsec]) _
    have hlive : ((((s.spent p 5).rotNamed (portHall p) w).hall (portHall p)).oldLive (bits w.toNat 0 12)) =
        (s.hall (portHall p)).oldLive (bits w.toNat 0 12) := (congrArg (fun S : Sec => S.sweeps.contains (bits w.toNat 0 12)) hsec :)
    have htrng : (((s.spent p 5).rotNamed (portHall p) w).hall (portHall p)).sec.trngOk = (s.hall (portHall p)).sec.trngOk :=
      (congrArg Sec.trngOk hsec :)
    have hsweeps : (((s.spent p 5).rotNamed (portHall p) w).hall (portHall p)).sec.sweeps = (s.hall (portHall p)).sec.sweeps :=
      (congrArg Sec.sweeps hsec :)
    have hepoch := State.epoch_of_epochs (s := s) (t := (s.spent p 5).rotNamed (portHall p) w)
      ((State.onHall_epochs _ _ _).trans (State.onHall_epochs _ _ _)) (portHall p).idx (bits w.toNat 0 12)
    refine ⟨fun hw => hr.next rfl (by decide) rfl (State.rotateWrite_of_named hw),
      fun hw hd => hr.next rfl (by decide) rfl (State.rotateWrite_of_undeclared hw (hdom.trans hd)),
      fun x hw hd ht hl => hr.next rfl (by decide) rfl (State.rotateWrite_of_busy hw (hdom.trans hd)
        (State.rotate_of_oldLive (htrng.trans ht) (hlive.trans hl))), fun x hw hd ht _ hs hrel hc => ?_⟩
    have hacc := State.rotate_of_unqueued (htrng.trans ht) (hsweeps.trans hs) (hdom.trans hd) hrel hc
    rw [hepoch] at hacc
    exact hr.next rfl (by decide) rfl (State.rotateWrite_of_accepted hw (hdom.trans hd) hacc)
  case request =>
    have hg : guarded (portHall p) 3 (0x10 + 4 * portIdx p) = true := by rcases portIdx_cases p with e | e <;> rw [e] <;> rfl
    have hn : 0x10 + 4 * portIdx p < 0x3FF0 := by rcases portIdx_cases p with e | e <;> rw [e] <;> decide
    exact State.next_live (s := s) hr.por ((hr.hostWord_at rfl hn hg vt).trans (State.guardedWrite_powerReq _ (State.lt_of_portUp hr.up) w vt))
  case wake =>
    obtain ⟨h1, h0⟩ := wakeReleaseWord_bits (s.hall (portHall p)).pwr.driveHold
    have hrights := Hall.writeRights_of_mayWrite (State.may_of_wordRefusal hr.word)
    obtain ⟨rfl, rfl, rfl⟩ := hr.place (i := 3) rfl (by decide)
    have hpower : (s.hall (portHall p)).hasRight p 5 = true := by simpa [Hall.writeRights, h1] using hrights
    refine State.next_live (s := s) hr.por ((hr.hostWord_at rfl (by decide) rfl vt).trans (State.pwrCtl_of_release h1 ?_ ?_ vt))
    · rw [h0, State.spent_hall_pwr, State.atVt_hall]
    · rw [State.spent_hall_hasRight, State.atVt_hall, hpower]

end Sys2Proof.Machine
end

section
/-! Counters: snapshots, samplers, samples and latches (R582 to R587); and the limit on a port's log entries (R601). -/

namespace Sys2Proof.Machine

/-! ### Samplers (R585, R586) -/

theorem inTable_of_above {o base stride count : Nat} (hs : 0 < stride) (ho : base + stride * count ≤ o) : inTable o base stride count = none := by
  have hc : count ≤ (o - base) / stride := (Nat.le_div_iff_mul_le hs).2 (by rw [Nat.mul_comm]; omega)
  simp [inTable, Nat.not_lt.2 hc]

theorem State.cntWrite_sampler {s : State} {p k : Nat} {w : Word} (hk : k < 8) : s.cntWrite p (0x600 + 4 * k) w = s.samplerWrite p k w := by
  unfold State.cntWrite
  rw [inTable_of_above (base := 0x100) (by decide) (by omega), inTable_of_above (base := 0x200) (by decide) (by omega),
    inTable_of_element (by decide) hk]

theorem State.samplerWrite_of_range {s : State} {p k : Nat} {w : Word} (hn : bits w.toNat 0 11 ≤ 1151) (hlo : 10 ≤ bits w.toNat 16 6)
    (hhi : bits w.toNat 16 6 ≤ 40) : s.samplerWrite p k w = s.onHall (portHall p) fun H => { H with cnt := { H.cnt with
      samplers := modAt H.cnt.samplers k fun _ => ⟨w.getLsbD 31, bits w.toNat 16 6, bits w.toNat 0 11, none⟩ } } :=
  if_neg (by simp; omega)

theorem State.samplerWrite_of_outside {s : State} {p k : Nat} {w : Word}
    (ho : 1151 < bits w.toNat 0 11 ∨ bits w.toNat 16 6 < 10 ∨ 40 < bits w.toNat 16 6) :
    s.samplerWrite p k w = s.logPort (portHall p) p 0x07FF k ((0x600 + 4 * k) / 4) :=
  if_pos (by simpa [or_assoc] using ho)

theorem Hall.sampleIdle_of_wrapped {H : Hall} {k : Nat} {x : Sampler} {w : Nat × Nat} {l : Nat × Nat × Nat} (hx : H.cnt.samplers[k]? = some x)
    (hw : x.wrap = some w) (hl : (H.core (x.counter / 12)).lastCommit = some l) : H.sampleIdle k =
      let c := { H.cnt with samplers := modAt H.cnt.samplers k fun x => { x with wrap := none } }
      { H with cnt := if H.cnt.samples.length < 64 then
          { c with samples := c.samples ++ [⟨k, true, x.counter / 12, l.1, l.2.1, l.2.2, w.1, w.2⟩] }
        else { c with lost := inc8 c.lost } } := by
  simp only [Hall.sampleIdle, hx, hw, hl, Option.getD_some]

/-! ### Reads of the CNT block (R583, R587) -/

theorem State.hostRead_counters {s : State} {p addr blk o : Nat} (hu : s.portUp p = true)
    (hw : s.wordRefusal p addr (fun i b o => (s.hall (portHall p)).mayRead p i b o) = .ok (7, blk, o)) : s.hostRead p addr =
      s.onHall (portHall p) fun H =>
        let c := (H.cnt.readLatch ((s.hall (portHall p)).hasRight p 4) (portIdx p) o ((s.regValue (portHall p) p blk o).getD 0)).2
        { H with cnt := if o = 0x69C && (s.hall (portHall p)).hasRight p 4 then c.popSample else c } := by
  simp only [State.hostRead, State.regRead, hu, hw, if_true]
  exact State.onHall_congr rfl

theorem counterAt_of_lo {w n : Nat} (hw : w < 3) (hn : n < 2048) : counterAt (0x4000 * (w + 1) + 8 * n) = some (w, n, false) := by
  have h : (decide (0x4000 ≤ 0x4000 * (w + 1) + 8 * n) && decide (0x4000 * (w + 1) + 8 * n < 0x10000)) = true := by simp; omega
  have h1 : (0x4000 * (w + 1) + 8 * n) / 0x4000 - 1 = w := by omega
  have h2 : (0x4000 * (w + 1) + 8 * n) % 0x4000 / 8 = n := by omega
  have h3 : (0x4000 * (w + 1) + 8 * n) % 8 = 0 := by omega
  simp only [counterAt, h, h1, h2, h3, if_true]
  rfl

theorem counterAt_of_hi {w n : Nat} (hw : w < 3) (hn : n < 2048) : counterAt (0x4000 * (w + 1) + 8 * n + 4) = some (w, n, true) := by
  have h : (decide (0x4000 ≤ 0x4000 * (w + 1) + 8 * n + 4) && decide (0x4000 * (w + 1) + 8 * n + 4 < 0x10000)) = true := by simp; omega
  have h1 : (0x4000 * (w + 1) + 8 * n + 4) / 0x4000 - 1 = w := by omega
  have h2 : (0x4000 * (w + 1) + 8 * n + 4) % 0x4000 / 8 = n := by omega
  have h3 : (0x4000 * (w + 1) + 8 * n + 4) % 8 = 4 := by omega
  simp only [counterAt, h, h1, h2, h3, if_true]
  rfl

section
variable (c : Cnt) (b : Bool) (i v : Nat)

/-- R583: a read of a counter's LO latches its HI. -/
theorem Cnt.readLatch_of_lo {o w n : Nat} (ho : counterAt o = some (w, n, false)) :
    c.readLatch b i o v = (v, { c with latch := modAt c.latch i fun _ => some (w, n, c.window b w n / 2 ^ 32) }) := by
  simp only [Cnt.readLatch, ho]

/-- R583: a read that is not of a counter drops what is latched. -/
theorem Cnt.readLatch_of_other {o : Nat} (ho : counterAt o = none) : c.readLatch b i o v = (v, { c with latch := modAt c.latch i fun _ => none }) := by
  simp only [Cnt.readLatch, ho]

section
variable {o w n : Nat} (ho : counterAt o = some (w, n, true))
include ho

theorem Cnt.readLatch_of_latched {hi : Nat} (hl : c.latch.getD i none = some (w, n, hi)) : (c.readLatch b i o v).1 = hi := by
  simp only [Cnt.readLatch, ho, hl]
  exact if_pos (by simp)

theorem Cnt.readLatch_of_unlatched (hl : c.latch.getD i none = none) : (c.readLatch b i o v).1 = v := by
  simp only [Cnt.readLatch, ho, hl]

end

end

theorem getD_modAt_of_lt {α : Type} {l : List α} {i : Nat} (hi : i < l.length) (a d : α) : (modAt l i fun _ => a).getD i d = a := by
  simp [modAt, hi]

theorem getD_modAt_default {α : Type} (l : List α) (i : Nat) (d : α) : (modAt l i fun _ => d).getD i d = d := by
  by_cases hi : i < l.length
  · exact getD_modAt_of_lt hi d d
  · exact List.getD_eq_default _ _ (by rw [modAt_length]; exact Nat.not_lt.1 hi)

/-- Settles O52. The log code of a sampler's word that is ignored is log entry 242's default. -/
theorem countersSnapshotsAndSamples : Obligations.CountersSnapshotsAndSamples := by
  refine ⟨fun s p hp hu hw => ?snapshot, fun s p k idx blk o w hk hr => ?sampler, fun s h k x w l n hp hu hx hwrap hl => ?idle,
    fun s p hp hu hh hw => ?head, fun s p w n hp hu hw3 hn hw => ?latched, fun c b b' i w n v v' hi hw hn => ⟨?next, fun o x ho => ?dropped⟩⟩
  case snapshot => exact State.next_live hp (State.hostWord_of_unguarded hu hw (by decide) rfl _)
  case sampler =>
    have hg : guarded (portHall p) 7 (0x600 + 4 * k) = true := by simp [guarded, inTable_of_element, hk]
    exact ⟨fun ⟨hn, hlo, hhi⟩ => hr.next rfl (by omega) hg ((State.cntWrite_sampler hk).trans (State.samplerWrite_of_range hn hlo hhi)),
      fun ho => hr.next rfl (by omega) hg ((State.cntWrite_sampler hk).trans (State.samplerWrite_of_outside ho))⟩
  case idle => exact State.next_live hp (State.inHall_of_up hu (Hall.sampleIdle_of_wrapped hx hwrap hl))
  case head =>
    refine State.next_live hp ((State.hostRead_counters hu hw).trans (State.onHall_congr ?_))
    simp only [hh, Cnt.readLatch_of_other _ _ _ _ (show counterAt 0x69C = none from rfl)]
    rfl
  case latched =>
    have ho : 0x4000 * (w + 1) + 8 * n ≠ 0x69C := by omega
    refine State.next_live hp ((State.hostRead_counters hu hw).trans (State.onHall_congr ?_))
    simp only [Cnt.readLatch_of_lo _ _ _ _ (counterAt_of_lo hw3 hn), ho, decide_false, Bool.false_and, Bool.false_eq_true, if_false]
  case next =>
    refine Cnt.readLatch_of_latched _ _ _ _ (counterAt_of_hi hw hn) ?_
    rw [Cnt.readLatch_of_lo _ _ _ _ (counterAt_of_lo hw hn)]
    exact getD_modAt_of_lt hi _ _
  case dropped =>
    refine Cnt.readLatch_of_unlatched _ _ _ _ (counterAt_of_hi hw hn) ?_
    rw [Cnt.readLatch_of_other _ _ _ _ ho]
    exact getD_modAt_default _ _ _

/-! ### The event log (R600, R601) -/

theorem Hall.addLog_dev (H : Hall) (code unit arg port : Nat) : (H.addLog code unit arg port).dev =
    { H.dev with
      log := H.dev.log.drop (H.dev.log.length + 1 - 256) ++ [⟨H.dev.nextSeq, H.swp.sweep, H.swp.tick, code, arg % 65536, unit % 256, port⟩]
      nextSeq := (H.dev.nextSeq + 1) % 2 ^ 32 } := by
  have hl : H.dev.log.length + 1 - 256 ≤ H.dev.log.length := by omega
  simp only [Hall.addLog, List.length_append, List.length_singleton, List.drop_append_of_le_length hl]

@[simp] theorem Hall.addLog_ports (H : Hall) (code unit arg port : Nat) : (H.addLog code unit arg port).ports = H.ports := by
  simp only [Hall.addLog]

theorem State.port_of_ports {s t : State} {p : Nat} (e : (t.hall (portHall p)).ports = (s.hall (portHall p)).ports) : t.port p = s.port p := by
  unfold State.port
  rw [e]

/-- A port of a hall that has both is there to be changed. -/
theorem State.port_onPort_of_both {s : State} {p : Nat} (hl : (s.hall (portHall p)).ports.length = 2) (f : Port → Port) :
    (s.onPort p f).port p = f (s.port p) := by
  have hi : portIdx p < (s.hall (portHall p)).ports.length := by rw [hl]; exact Nat.mod_lt _ (by decide)
  simp [State.port, State.onPort, modAt, hi]

section
variable {s : State} {p : Nat} (code unit arg : Nat)

theorem State.logPort_of_few (hf : (s.port p).logged < 16) : s.logPort (portHall p) p code unit arg =
    (s.onHall (portHall p) fun H => H.addLog code unit arg (p + 1)).onPort p fun P => { P with logged := P.logged + 1 } := if_pos hf

theorem State.logPort_of_many (hm : 16 ≤ (s.port p).logged) : s.logPort (portHall p) p code unit arg =
    s.onHall (portHall p) fun H => { H with dev := { H.dev with suppressed := inc16 H.dev.suppressed } } := if_neg (Nat.not_lt.2 hm)

end

/-- Settles O53. -/
theorem portEntriesOfTheLogAreLimited : Obligations.PortEntriesOfTheLogAreLimited := by
  refine ⟨fun s p code unit arg _ hl => ⟨fun hf => ?written, fun hm => ?suppressed⟩, fun s h code unit arg => ?device, fun H P hP => ?refreshed⟩
  case written =>
    have hports : ((s.onHall (portHall p) fun H => H.addLog code unit arg (p + 1)).hall (portHall p)).ports = (s.hall (portHall p)).ports := by
      rw [State.hall_onHall, Hall.addLog_ports]
    simp only [State.logPort_of_few code unit arg hf, State.onPort_hall_dev, State.hall_onHall, Hall.addLog_dev]
    refine ⟨⟨_, rfl, rfl⟩, trivial, trivial, ?_⟩
    rw [State.port_onPort_of_both (by rw [hports, hl]), State.port_of_ports hports]
  case suppressed =>
    rw [State.logPort_of_many code unit arg hm]
    exact ⟨by rw [State.hall_onHall], congrArg Port.logged (State.port_of_ports (by rw [State.hall_onHall]))⟩
  case device =>
    simp only [State.log, State.hall_onHall, Hall.addLog_dev, and_self]
  case refreshed =>
    obtain ⟨Q, _, rfl⟩ := List.mem_map.1 hP
    rfl

end Sys2Proof.Machine
end

/-! ### Errors, scrubbing and the fault pin (R525 to R549) -/

section
namespace Sys2Proof.Machine

theorem State.hallUp_of_up {s : State} {h : HallId} (hp : s.por = false) (hu : (s.hall h).dev.up = true) : s.hallUp h = true := by
  rw [State.hallUp, hp, hu]
  rfl

theorem State.hallUp_of_down {s : State} {h : HallId} (hu : (s.hall h).dev.up = false) : s.hallUp h = false := by
  rw [State.hallUp, hu, Bool.and_false]

/-! #### Correctable errors -/

theorem State.whole_hall_ce (s : State) (f : State → State) (h : HallId) : ((s.whole f).hall h).err.ce = ((f s).hall h).err.ce :=
  (congrArg (fun H : Hall => H.err.ce) (s.whole_hall f h) :)

theorem State.whole_hall_ceLog (s : State) (f : State → State) (h : HallId) : ((s.whole f).hall h).err.ceLog = ((f s).hall h).err.ceLog :=
  (congrArg (fun H : Hall => H.err.ceLog) (s.whole_hall f h) :)

theorem State.whole_hall_ceLost (s : State) (f : State → State) (h : HallId) : ((s.whole f).hall h).err.ceLost = ((f s).hall h).err.ceLost :=
  (congrArg (fun H : Hall => H.err.ceLost) (s.whole_hall f h) :)

/-- R527: an error whose address an entry names. -/
theorem Err.logCe_of_named {e : Err} {x : CeHit} {sweep i : Nat} (hi : (e.ceLog.findIdx? fun (c : CeEntry) => c.names x) = some i) :
    e.logCe x sweep =
      { e with ceLog := modAt e.ceLog i fun (c : CeEntry) => { c with count := inc8 c.count, symbol := x.symbol, lastSweep := sweep } } := by
  simp only [Err.logCe, hi]

/-- R527: an error of a new address takes the first free entry. -/
theorem Err.logCe_of_free {e : Err} {x : CeHit} {sweep i : Nat} (hn : (e.ceLog.findIdx? fun (c : CeEntry) => c.names x) = none)
    (hi : (e.ceLog.findIdx? fun (c : CeEntry) => !c.valid) = some i) :
    e.logCe x sweep = { e with ceLog := modAt e.ceLog i fun _ => ⟨true, x.place, x.unit, 1, x.symbol, x.addr, sweep, sweep⟩ } := by
  simp only [Err.logCe, hn, hi]

/-- R527: an error of a new address without a free entry is lost. -/
theorem Err.logCe_of_full {e : Err} {x : CeHit} {sweep : Nat} (hn : (e.ceLog.findIdx? fun (c : CeEntry) => c.names x) = none)
    (hi : (e.ceLog.findIdx? fun (c : CeEntry) => !c.valid) = none) : e.logCe x sweep = { e with ceLost := inc8 e.ceLost } := by
  simp only [Err.logCe, hn, hi]

/-- The address log takes an error whatever the counts of the places are. -/
theorem Err.logCe_ce (e : Err) (l : List Nat) (x : CeHit) (sweep : Nat) : ({ e with ce := l } : Err).logCe x sweep = { e.logCe x sweep with ce := l } := by
  have hl : ({ e with ce := l } : Err).ceLog = e.ceLog := rfl
  cases hn : e.ceLog.findIdx? fun (c : CeEntry) => c.names x with
  | some i => rw [Err.logCe_of_named hn, Err.logCe_of_named (hl.symm ▸ hn)]
  | none =>
    cases hf : e.ceLog.findIdx? fun (c : CeEntry) => !c.valid with
    | some i => rw [Err.logCe_of_free hn hf, Err.logCe_of_free (hl.symm ▸ hn) (hl.symm ▸ hf)]
    | none => rw [Err.logCe_of_full hn hf, Err.logCe_of_full (hl.symm ▸ hn) (hl.symm ▸ hf)]

theorem Hall.count_frame (H : Hall) (n k : Nat) : ∃ c, H.count n k = { H with cnt := c } := by
  unfold Hall.count
  split
  · exact ⟨H.cnt, rfl⟩
  · exact ⟨_, rfl⟩

/-- R526, R527: an error outside the Stair changes ERR, and beside it counters alone. -/
theorem Hall.correctable_frame (H : Hall) {x : CeHit} (hx : x.place ≠ 9) :
    ∃ c, H.correctable x = { H with err := { H.err.logCe x H.swp.sweep with ce := modAt H.err.ce x.place inc32 }, cnt := c } := by
  simp only [Hall.correctable, if_neg hx, Err.logCe_ce]
  split
  · split
    · exact Hall.count_frame _ _ _
    · exact ⟨H.cnt, rfl⟩
  · exact ⟨H.cnt, rfl⟩

/-- R526: a flit error counts in the Stair, and beside it counters alone. -/
theorem Hall.correctable_flit (H : Hall) {x : CeHit} (hx : x.place = 9) :
    ∃ c, H.correctable x = { H with stair := { H.stair with flitCorr := inc32 H.stair.flitCorr }, cnt := c } := by
  simp only [Hall.correctable, if_pos hx]
  exact Hall.count_frame _ _ _

/-- One error in a hall that runs. -/
theorem State.correctableError_one {s : State} {h : HallId} {x : CeHit} (hp : s.por = false) (hu : (s.hall h).dev.up = true) {H : Hall}
    (e : (s.hall h).correctable x = H) : s.correctableError h [x] = s.onHall h fun _ => H := by
  have ho : (sortKeys (([x] : List CeHit).map fun x => (ceKey x, x))).map (fun (e : Nat × CeHit) => e.2) = [x] := rfl
  simp only [State.correctableError, State.hallUp_of_up hp hu, ho]
  exact State.onHall_congr (f := fun H => H.correctable x) e

/-- Settles O35: the error's own effect is ERR and counters (`Hall.correctable_frame`); the address log by its three cases. -/
theorem correctableErrorsAreCountedAndLogged : Obligations.CorrectableErrorsAreCountedAndLogged := by
  refine ⟨fun s h x hp hu hx => ?_, fun s h x hp hu hx => ?_, fun s h xs hp hu => ?_⟩
  · obtain ⟨c, hc⟩ := (s.hall h).correctable_frame hx
    refine Gives.of_live hp rfl (State.correctableError_one hp hu hc) ?_
    simp only [State.whole_hall_ce, State.whole_hall_ceLog, State.whole_hall_ceLost, State.whole_hall_mem, State.whole_hall_gals,
      State.whole_hall_cores, State.whole_hall_ctxs, State.whole_hall_stair, State.whole_hall_swp, State.hall_onHall]
    refine ⟨trivial, fun i hi => ?_, fun i hn hi => ?_, fun hn hi => ?_, trivial, trivial, trivial, trivial, trivial, trivial, ?_⟩
    · rw [Err.logCe_of_named hi]
      exact ⟨rfl, rfl⟩
    · rw [Err.logCe_of_free hn hi]
      exact ⟨rfl, rfl⟩
    · rw [Err.logCe_of_full hn hi]
      exact ⟨rfl, rfl⟩
    · exact State.whole_hall_bare_of_bare (congrArg Hall.bare (s.hall_other_onHall h _))
  · obtain ⟨c, hc⟩ := (s.hall h).correctable_flit hx
    refine Gives.of_live hp rfl (State.correctableError_one hp hu hc) ?_
    simp only [State.whole_hall_mem, State.whole_hall_gals, State.whole_hall_cores, State.whole_hall_stair, State.hall_onHall, and_self]
  · refine State.next_live hp ?_
    simp only [State.correctableError, State.hallUp_of_down hu, Bool.not_false, if_true]

/-! #### Uncorrectable errors -/

theorem State.resetFor_of_up {s : State} {h : HallId} (hu : (s.hall h).dev.up = true) (n : Nat) : s.resetFor h n = s.hallReset h n true := if_pos hu

/-- R529: an error in a commit buffer that no publication reads. -/
theorem State.commitBufferError_of_none {s : State} {h : HallId} {c a : Nat} (cyc : Nat)
    (hn : ((s.onHall h fun H => H.noteUe 2 c).hall h).publisher c a = none) :
    s.commitBufferError h c a cyc = (s.onHall h fun H => H.noteUe 2 c).coreResetDue h c cyc := by
  simp only [State.commitBufferError, hn]

theorem galOf_lt {c : Nat} (hc : c < 96) : galOf c < 8 := by
  unfold galOf
  omega

theorem Gallery.st_bne_off {G : Gallery} (hg : G.st ≠ .off) : (G.st != .off) = true := bne_iff_ne.2 hg

section
variable {s : State} {h : HallId}

theorem State.uncorrectable_operandStore {c : Nat} (a cyc : Nat) (hs : s.hallUp h = true) (hc : galOf c < 8)
    (hg : ((s.hall h).gal (galOf c)).st ≠ .off) :
    s.uncorrectable h (.operandStore c a) cyc = (s.onHall h fun H => H.noteUe 0 c).coreResetDue h c cyc := by
  simp only [State.uncorrectable, hs, hc, Gallery.st_bne_off hg, decide_true, Bool.and_self, if_true]

theorem State.uncorrectable_commitBuffer {c : Nat} (a cyc : Nat) (hs : s.hallUp h = true) (hc : galOf c < 8)
    (hg : ((s.hall h).gal (galOf c)).st ≠ .off) : s.uncorrectable h (.commitBuffer c a) cyc = s.commitBufferError h c a cyc := by
  simp only [State.uncorrectable, hs, hc, Gallery.st_bne_off hg, decide_true, Bool.and_self, if_true]

theorem State.uncorrectable_galleryStore {g : Nat} (a cyc : Nat) (hs : s.hallUp h = true) (hg8 : g < 8) (hg : ((s.hall h).gal g).st ≠ .off) :
    s.uncorrectable h (.galleryStore g a) cyc = (s.onHall h fun H => H.noteUe 3 g).galleryReset h g cyc := by
  simp only [State.uncorrectable, hs, hg8, Gallery.st_bne_off hg, decide_true, Bool.and_self, if_true]

theorem State.weightBankUe_of_up {c b : Nat} (sc : Bool) (cyc : Nat) (hs : s.hallUp h = true) (hc : c < 96) (hb : b < 16)
    (hg : ((s.hall h).gal (galOf c)).st ≠ .off) : s.weightBankUe h c b sc cyc = (s.onHall h fun H => H.noteUe 1 c).bankError h c b cyc := by
  simp only [State.weightBankUe, hs, hc, hb, Gallery.st_bne_off hg, decide_true, Bool.and_self, if_true]

end

/-- R531: a core that resets alone, released. -/
theorem Hall.domainRelease_core {H : Hall} {g c : Nat} (passed : Bool) (hg : (H.gal g).galResetting = false)
    (hc : (H.gal g).resetting.getLsbD c = true) :
    H.domainRelease g (some c) passed = H.onGal g fun G =>
      if passed then { G with resetting := G.resetting &&& ~~~(BitVec.ofNat 12 (2 ^ c)), rejoin := G.rejoin ||| BitVec.ofNat 12 (2 ^ c) }
      else { G with resetting := G.resetting &&& ~~~(BitVec.ofNat 12 (2 ^ c)), strikes := modAt G.strikes c fun _ => 3 } :=
  Hall.onGal_congr (by simp only [hg, hc, Bool.not_true, Bool.or_self, Bool.false_eq_true, if_false])

/-- R531: a gallery that resets, released after a march test that passed. -/
theorem Hall.domainRelease_gallery {H : Hall} {g : Nat} (hg : (H.gal g).galResetting = true) :
    H.domainRelease g none true = H.onGal g fun G => { G with galResetting := false, rejoin := 0xFFF } :=
  Hall.onGal_congr (by simp only [hg, Bool.not_true, Bool.false_eq_true, if_false, if_true])

/-- Settles O36: each place of an error by the arm that its guard opens; a release by the gallery's own reset flags. -/
theorem uncorrectableErrorsResetTheEnclosingDomain : Obligations.UncorrectableErrorsResetTheEnclosingDomain := by
  refine ⟨fun s h c a cyc hp hu hc hg => ?_, fun s h g a cyc hp hu hg8 hg => ?_, fun s h a b cyc hp hu => ?_, fun s h g c hp hu => ?_⟩
  · have hs := State.hallUp_of_up hp hu
    refine ⟨?_, fun hn => ?_, fun b sc hb => ?_⟩
    · exact State.next_live hp (State.uncorrectable_operandStore a cyc hs (galOf_lt hc) hg)
    · exact State.next_live hp ((State.uncorrectable_commitBuffer a cyc hs (galOf_lt hc) hg).trans (State.commitBufferError_of_none cyc hn))
    · exact State.next_live hp (State.weightBankUe_of_up sc cyc hs hc hb hg)
  · exact State.next_live hp (State.uncorrectable_galleryStore a cyc (State.hallUp_of_up hp hu) hg8 hg)
  · have hr : ∀ n, (if s.por then s else s.resetFor h n) = s.hallReset h n true := fun n => by
      rw [hp, State.resetFor_of_up hu]
      rfl
    refine ⟨State.next_live hp (hr 2), State.next_live hp (hr 3), State.next_live hp (hr 4), State.next_live hp (hr 5), State.next_live hp ?_⟩
    simp only [State.uncorrectable, State.hallUp_of_up hp hu, if_true]
  · refine ⟨fun hg hc => ⟨?_, ?_⟩, fun hg => ?_⟩
    · exact State.next_live hp (State.inHall_of_up hu (Hall.domainRelease_core true hg hc))
    · exact State.next_live hp (State.inHall_of_up hu (Hall.domainRelease_core false hg hc))
    · exact State.next_live hp (State.inHall_of_up hu (Hall.domainRelease_gallery hg))

/-! #### Scrubbing -/

theorem State.walkerStep_clean {s : State} {h : HallId} (hs : s.hallUp h = true) (hm : (s.hall h).err.scrubMode = 1) :
    s.walkerStep h .clean = s.onHall h fun H =>
      if H.roundWords ≤ H.err.walk + 1 then { H with err := { H.err with walk := 0, rounds := inc16 H.err.rounds } }
      else { H with err := { H.err with walk := H.err.walk + 1 } } := by
  simp only [State.walkerStep, hs, hm, ne_eq, not_true_eq_false, decide_false, Bool.not_true, Bool.or_self, Bool.false_eq_true, if_false]

theorem State.walkerStep_of_other_mode {s : State} {h : HallId} (hm : (s.hall h).err.scrubMode ≠ 1) (f : ScrubFind) : s.walkerStep h f = s := by
  simp only [State.walkerStep, hm, ne_eq, not_false_eq_true, decide_true, Bool.or_true, if_true]

/-- R539: a pass ends with another behind it. -/
theorem Hall.passEnd_of_next {H : Hall} {p q : Pass} {r : List Pass} (hq : H.err.passes = p :: q :: r) (a b c : Nat) (d : Bool) :
    H.passEnd a b c d = { H with err := { H.err with
      passes := q :: r, passBusy := true, passGo := (q :: r).any fun x => x.host, sumRead := a % 2 ^ 32, sumCorr := min 0xFFFF b
      sumMark := min 0xFF c, sumCut := d } } := by
  simp only [Hall.passEnd, hq, List.isEmpty_cons, Bool.false_and, Bool.false_eq_true, if_false, Bool.not_false]

/-- Settles O37: the walker by its mode, a pass by the one behind it (the round's size and the queue's form are log entry 210's). -/
theorem scrubbingAndPasses : Obligations.ScrubbingAndPasses := by
  refine ⟨fun s h hp hu hm => ?_, fun s h f hp hm => ?_, fun s h p q r a b c d hp hu hq => ?_⟩
  · exact State.next_live hp (State.walkerStep_clean (State.hallUp_of_up hp hu) hm)
  · exact State.next_live hp (State.walkerStep_of_other_mode hm f)
  · exact State.next_live hp (State.inHall_of_up hu (Hall.passEnd_of_next hq a b c d))

/-! #### Pins, temperature, watchdog -/

theorem State.pinHoldEnd_of_clear {s : State} {h : HallId} (hs : s.hallUp h = true) (hp : (s.hall h).err.pin = true)
    (ha : (s.hall h).asserting h.idx = false) : s.pinHoldEnd h = s.setPin h false := by
  simp only [State.pinHoldEnd, hs, hp, ha, Bool.not_false, Bool.and_self, if_true]

theorem State.pinHoldEnd_of_cause {s : State} {h : HallId} (ha : (s.hall h).asserting h.idx = true) : s.pinHoldEnd h = s := by
  simp only [State.pinHoldEnd, ha, Bool.not_true, Bool.and_false, Bool.false_eq_true, if_false]

/-- Judging hall k's causes leaves hall h's pin where h has nothing to assert. -/
theorem State.pinCheck_pin {s : State} {h : HallId} (ha : (s.hall h).asserting h.idx = false) (k : HallId) :
    ((s.pinCheck k).hall h).err.pin = (s.hall h).err.pin := by
  by_cases e : h = k
  · subst e
    simp only [State.pinCheck, ha, Bool.and_false, Bool.false_eq_true, if_false]
  · unfold State.pinCheck
    simp only []
    split
    · rw [State.setPin_other s e]
    · rfl

theorem State.asserting_of_bare {s t : State} (e : s.bare = t.bare) (h : HallId) (n : Nat) : (s.hall h).asserting n = (t.hall h).asserting n :=
  Hall.asserting_congr (Hall.uncounted_of_bare (State.bare_hall e h)) n

/-- Settling leaves the pin of a hall without an unmasked cause as the command left it. -/
theorem State.whole_pin_of_clear {s : State} {f : State → State} {h : HallId} (ha : ((f s).hall h).asserting h.idx = false) :
    ((s.whole f).hall h).err.pin = ((f s).hall h).err.pin := by
  have hb : (((f s).pinCheck .a).hall h).asserting h.idx = false := (State.asserting_of_bare (State.bare_pinCheck _ _) h _).trans ha
  rw [State.whole_pin, State.pins, State.pinCheck_pin hb, State.pinCheck_pin ha]

theorem State.mr4Read_of_working {s : State} {h : HallId} {c : Nat} (hot : Bool) (hs : s.hallUp h = true) (ht : (s.hall h).mem.trained = true)
    (hr : (s.hall h).mem.selfRefresh = false) (hc : (s.hall h).mem.chanGood.getLsbD c = true) :
    s.mr4Read h c hot = s.onHall h fun H =>
      ({ H with mem := { H.mem with
          mr4Hot := if hot then inc8 H.mem.mr4Hot else H.mem.mr4Hot
          hotChannels := if hot then H.mem.hotChannels ||| BitVec.ofNat 32 (2 ^ c) else H.mem.hotChannels &&& ~~~(BitVec.ofNat 32 (2 ^ c)) } } :
        Hall).opSettle := by
  simp only [State.mr4Read, hs, ht, hr, hc, Bool.not_true, Bool.or_self, Bool.false_eq_true, if_false]

theorem State.dqsTracking_of_trained {s : State} {h : HallId} (hs : s.hallUp h = true) (ht : (s.hall h).mem.trained = true)
    (hr : (s.hall h).mem.selfRefresh = false) :
    s.dqsTracking h = s.onHall h fun H => { H with mem := { H.mem with tracked := H.mem.tracked + 1 } } := by
  simp only [State.dqsTracking, hs, ht, hr, Bool.not_true, Bool.or_self, Bool.false_eq_true, if_false]

/-- Settles O38: the pin that is released stays so through settling, which finds nothing to assert (that it stays while a cause is left is log
entry 215's too). -/
theorem pinsTemperatureAndWatchdog : Obligations.PinsTemperatureAndWatchdog := by
  refine ⟨fun s h tb hp hu hpin => ⟨fun ha => ?_, fun ha => ?_⟩, fun s h tb hp hu hpin ha => ?_, fun s h hp => ⟨fun hu => ?_, fun hu => ?_⟩,
    fun s h c hot hp hu ht hr hc => ?_, fun s h hp hu ht hr => ?_⟩
  · exact State.next_live hp (State.pinHoldEnd_of_clear (State.hallUp_of_up hp hu) hpin ha)
  · exact State.next_live hp (State.pinHoldEnd_of_cause ha)
  · refine Gives.of_live hp rfl (State.pinHoldEnd_of_clear (State.hallUp_of_up hp hu) hpin ha) ?_
    have hc : ((s.setPin h false).hall h).asserting h.idx = false := (State.asserting_of_bare (State.bare_setPin s h false) h _).trans ha
    exact (State.whole_pin_of_clear (f := fun _ => s.setPin h false) hc).trans (State.setPin_pin s h false)
  · exact State.next_live hp (State.resetFor_of_up hu 6)
  · exact State.next_live hp (if_neg (Bool.eq_false_iff.1 hu))
  · exact State.next_live hp (State.mr4Read_of_working hot (State.hallUp_of_up hp hu) ht hr hc)
  · exact State.next_live hp (State.dqsTracking_of_trained (State.hallUp_of_up hp hu) ht hr)

end Sys2Proof.Machine
end

/-! ### Keys that expire, scrubs and releases that end (R490, R496, R514, R515) -/

section
namespace Sys2Proof.Machine

theorem State.ifUp_of_fixed {s : State} {h : HallId} {f : State → State} (e : f s = s) : s.ifUp h f = s := by
  unfold State.ifUp
  split
  · exact e
  · rfl

/-- R514: no scrub of that session is in progress. -/
theorem State.scrubDone_of_none {s : State} {h : HallId} {n : Nat}
    (hn : ((s.hall h).sec.sessions.find? fun e => e.num == n && e.releasing) = none) : s.scrubDone h n = s := by
  simp only [State.scrubDone, hn]

theorem Hall.scrubFootprint_sec (H : Hall) (x : Ctx) : (H.scrubFootprint x).sec = H.sec := rfl

theorem Hall.scrubFootprints_sec (xs : List Ctx) (H : Hall) : (xs.foldl (fun (H : Hall) x => H.scrubFootprint x) H).sec = H.sec := by
  induction xs generalizing H with
  | nil => rfl
  | cons x xs ih => rw [List.foldl_cons, ih, Hall.scrubFootprint_sec]

/-- Settles O41: each command by what its hall holds; the footprints' scrub leaves the keys and sessions alone. -/
theorem keysAndScrubsEnd : Obligations.KeysAndScrubsEnd := by
  refine ⟨fun s h n hp hu => ⟨?_, ?_, ?_⟩, fun s h n e hp hu _ => ?_, fun H n => Hall.scrubFootprints_sec _ H, fun s h n hp hn => ?_,
    fun s h d x hp hu _ _ => ?_⟩
  · exact State.next_live hp (State.inHall_of_up hu rfl)
  · exact State.next_live hp (State.inHall_of_up hu rfl)
  · exact State.next_live hp (State.inHall_of_up hu rfl)
  · exact State.next_live hp (congrArg State.flightEntry (State.ifUp_of_up hu _))
  · exact State.next_live hp (congrArg State.flightEntry (State.ifUp_of_fixed (State.scrubDone_of_none hn)))
  · exact State.next_live hp (State.ifUp_of_up hu _)

end Sys2Proof.Machine
end

/-! ### The galleries' states, which the moves and ends of contexts leave alone -/

section
namespace Sys2Proof.Machine

/-- The state of each gallery of a hall (R52). -/
def Hall.galStates (H : Hall) : List GalState := H.gals.map fun G => G.st

theorem Hall.galStates_length (H : Hall) : H.galStates.length = H.gals.length := List.length_map _

theorem Hall.galStates_of_gals {H K : Hall} (e : K.gals = H.gals) : K.galStates = H.galStates := by rw [Hall.galStates, e, Hall.galStates]

theorem Hall.galStates_foldl {α : Type} {f : Hall → α → Hall} (hf : ∀ H a, (f H a).galStates = H.galStates) (l : List α) (H : Hall) :
    (l.foldl f H).galStates = H.galStates := by
  induction l generalizing H with
  | nil => rfl
  | cons a l ih => rw [List.foldl_cons, ih, hf]

theorem Hall.onGal_galStates (H : Hall) (g : Nat) {f : Gallery → Gallery} (hf : ∀ G, (f G).st = G.st) : (H.onGal g f).galStates = H.galStates :=
  map_modAt _ _ _ _ hf

@[simp] theorem Hall.onCtx_galStates (H : Hall) (n : Nat) (f : Ctx → Ctx) : (H.onCtx n f).galStates = H.galStates := rfl
@[simp] theorem Hall.onCore_galStates (H : Hall) (c : Nat) (f : Core → Core) : (H.onCore c f).galStates = H.galStates := rfl

@[simp] theorem Hall.count_galStates (H : Hall) (n k : Nat) : (H.count n k).galStates = H.galStates := Hall.galStates_of_gals (H.count_gals n k)

@[simp] theorem Hall.countK_galStates (H : Hall) (n k : Nat) : (H.countK n k).galStates = H.galStates := Hall.count_galStates _ _ _

@[simp] theorem Hall.addLog_galStates (H : Hall) (code unit arg port : Nat) : (H.addLog code unit arg port).galStates = H.galStates := by
  simp only [Hall.addLog, Hall.galStates]

@[simp] theorem Hall.countBusy_galStates (H : Hall) (c : Nat) (d : List Byte) (n : Nat) : (H.countBusy c d n).galStates = H.galStates := by
  unfold Hall.countBusy
  split <;> simp

/-! #### Frames and stores -/

@[simp] theorem Hall.tidyBlocks_galStates (H : Hall) (g : Nat) : (H.tidyBlocks g).galStates = H.galStates := H.onGal_galStates g fun _ => rfl
@[simp] theorem Hall.cutBlock_galStates (H : Hall) (g b size : Nat) : (H.cutBlock g b size).galStates = H.galStates :=
  H.onGal_galStates g fun _ => rfl

@[simp] theorem Hall.freeFrame_galStates (H : Hall) (n : Nat) : (H.freeFrame n).galStates = H.galStates := by
  unfold Hall.freeFrame
  split
  · rfl
  · split
    · exact Hall.tidyBlocks_galStates _ _
    · rfl

theorem Hall.allocFrame_galStates {H K : Hall} {part dom quota g size flags h n : Nat} {cache : Option Nat}
    (e : H.allocFrame part dom cache quota g size flags h = some (n, K)) : K.galStates = H.galStates := by
  unfold Hall.allocFrame at e
  extract_lets q cq piece cur at e
  split at e
  · split at e
    · cases e
    · obtain ⟨-, rfl⟩ := Prod.mk.inj (Option.some.inj e)
      clear_value piece
      cases piece with
      | none => rfl
      | some b => exact Hall.cutBlock_galStates _ _ _ _
  · cases e

@[simp] theorem Hall.dramWrite_galStates (H : Hall) (a : Nat) (bs : List Byte) : (H.dramWrite a bs).galStates = H.galStates :=
  Hall.galStates_foldl (fun H l => by
    dsimp only
    split
    · exact (Hall.count_galStates _ _ _).trans (H.count_galStates _ _)
    · exact H.count_galStates _ _) _ H

@[simp] theorem Hall.writeAt_galStates (H : Hall) (p : Place) (a : Nat) (bs : List Byte) : (H.writeAt p a bs).galStates = H.galStates := by
  cases p with
  | op c => rfl
  | gal g => exact (Hall.countK_galStates _ _ _).trans (H.onGal_galStates g fun _ => by rfl)
  | dram => exact H.dramWrite_galStates a bs

/-! #### Runs and contexts -/

@[simp] theorem Hall.letGo_galStates (H : Hall) (core : Nat) (k : Cmd) (stop : Nat) : (H.letGo core k stop).galStates = H.galStates :=
  Hall.galStates_foldl Hall.freeFrame_galStates _ _

@[simp] theorem Hall.releaseRun_galStates (H : Hall) (n : Nat) (k : Cmd) (cyc : Nat) (keep counted : Bool) :
    (H.releaseRun n k cyc keep counted).galStates = H.galStates := by
  unfold Hall.releaseRun
  split
  · rfl
  · dsimp only
    split <;> simp

@[simp] theorem Hall.countKill_galStates (H : Hall) (core : Nat) (c : KillCause) : (H.countKill core c).galStates = H.galStates :=
  H.onGal_galStates _ fun _ => by split <;> rfl

@[simp] theorem Hall.dropSaved_galStates (H : Hall) (x : Ctx) : (H.dropSaved x).galStates = H.galStates := by
  unfold Hall.dropSaved
  dsimp only
  split
  · exact Hall.galStates_foldl Hall.freeFrame_galStates _ _
  · rfl

@[simp] theorem Hall.endCtx_galStates (H : Hall) (n : Nat) (st : CtxState) (cyc : Nat) : (H.endCtx n st cyc).galStates = H.galStates := by
  unfold Hall.endCtx
  split
  · rfl
  · dsimp only
    rw [Hall.onCtx_galStates]
    split
    · exact Hall.galStates_foldl (fun H _ => H.releaseRun_galStates _ _ _ _ _) _ H
    · exact (Hall.dropSaved_galStates _ _).trans (Hall.galStates_foldl (fun H _ => H.releaseRun_galStates _ _ _ _ _) _ H)

@[simp] theorem Hall.faultCtx_galStates (H : Hall) (x : Ctx) (pos code stops : Nat) : (H.faultCtx x pos code stops).galStates = H.galStates := by
  have hc : ∀ n k, ((H.onCtx x.num k).count n 1).galStates = H.galStates := fun n k => Hall.count_galStates _ _ _
  unfold Hall.faultCtx
  dsimp only
  split
  · exact (Hall.addLog_galStates _ _ _ _ _).trans ((Hall.count_galStates _ _ _).trans (hc _ _))
  · exact (Hall.onGal_galStates _ _ fun _ => by rfl).trans (hc _ _)
  · exact hc _ _
  · exact (Hall.count_galStates _ _ _).trans (hc _ _)
  · exact hc _ _

/-! #### Swaps and admission -/

theorem Hall.takeFrames_galStates {H K : Hall} {h n : Nat} {x : Ctx} {ns : List Nat} (e : H.takeFrames h x n = some (ns, K)) :
    K.galStates = H.galStates := by
  unfold Hall.takeFrames at e
  refine List.foldlRecOn _ _ (motive := fun (a : Option (List Nat × Hall)) => ∀ r, a = some r → r.2.galStates = H.galStates) ?_
    (fun a ha _ _ r hr => ?_) _ e
  · intro r hr
    cases hr
    rfl
  · cases a with
    | none => cases hr
    | some p =>
      dsimp only at hr
      split at hr
      · cases hr
      · next f H1 hf =>
        split at hr
        · cases hr
        · cases hr
          exact (Hall.allocFrame_galStates hf).trans (ha p rfl)

@[simp] theorem Hall.beginSave_galStates (H : Hall) (h : Nat) (x : Ctx) : (H.beginSave h x).galStates = H.galStates := by
  unfold Hall.beginSave
  dsimp only
  split
  · exact (Hall.count_galStates _ _ _).trans (H.onGal_galStates _ fun _ => by rfl)
  · next hk => rw [Hall.onCtx_galStates, Hall.takeFrames_galStates hk]

@[simp] theorem Hall.endSave_galStates (H : Hall) (x : Ctx) : (H.endSave x).galStates = H.galStates := by
  unfold Hall.endSave
  split <;> rfl

@[simp] theorem Hall.resumeSaves_galStates (H : Hall) (h : Nat) : (H.resumeSaves h).galStates = H.galStates := by
  refine Hall.galStates_foldl (fun H x => ?_) _ H
  split
  · rfl
  · split
    · exact H.endSave_galStates _
    · split
      · dsimp only
        split
        · exact H.beginSave_galStates _ _
        · exact (Hall.onGal_galStates _ _ fun _ => by rfl).trans (H.beginSave_galStates _ _)
      · rfl

@[simp] theorem Hall.chooseVictim_galStates (H : Hall) (forced : Bool) (x : Ctx) : (H.chooseVictim forced x).galStates = H.galStates := by
  unfold Hall.chooseVictim
  dsimp only
  split
  · exact (Hall.galStates_foldl (fun _ _ => by rfl) _ _).trans (Hall.onGal_galStates _ _ fun _ => by rfl)
  · rfl

theorem Hall.admitCtx_galStates (fuel : Nat) (H : Hall) (h c cyc : Nat) : (Hall.admitCtx fuel H h c cyc).galStates = H.galStates := by
  induction fuel generalizing H with
  | zero => rfl
  | succ n ih =>
    unfold Hall.admitCtx
    split
    · rfl
    · dsimp only
      split
      · rfl
      · split
        · exact ih _
        · split
          · exact (Hall.resumeSaves_galStates _ _).trans (Hall.galStates_foldl (fun H _ => H.chooseVictim_galStates _ _) _ H)
          · split
            · rfl
            · exact (Hall.resumeSaves_galStates _ _).trans (Hall.galStates_foldl (fun H _ => H.chooseVictim_galStates _ _) _ H)

@[simp] theorem Hall.settleCtx_galStates (H : Hall) (h n : Nat) : (H.settleCtx h n).galStates = H.galStates := by
  unfold Hall.settleCtx
  split
  · rfl
  · split
    · rfl
    · exact Hall.admitCtx_galStates _ _ _ _ _

@[simp] theorem Hall.savedAtFence_galStates (H : Hall) (x : Ctx) : (H.savedAtFence x).galStates = H.galStates := by
  unfold Hall.savedAtFence
  split
  · exact (Hall.count_galStates _ _ _).trans (H.onGal_galStates _ fun _ => by rfl)
  · rfl

@[simp] theorem Hall.beginReplay_galStates (H : Hall) (h : Nat) (x : Ctx) : (H.beginReplay h x).galStates = H.galStates := by
  unfold Hall.beginReplay
  split <;> rfl

/-- R314: a context moved off its core, or lost. -/
theorem Hall.moveCtx_galStates (H : Hall) (h : Nat) (x : Ctx) (cyc : Nat) : (H.moveCtx h x cyc).1.galStates = H.galStates := by
  unfold Hall.moveCtx
  dsimp only
  split <;> simp

theorem Hall.moveAll_galStates (H : Hall) (h c cyc : Nat) : (H.moveAll h c cyc).1.galStates = H.galStates :=
  List.foldlRecOn _ _ (motive := fun (a : Hall × List Nat) => a.1.galStates = H.galStates) rfl
    fun a ha x _ => (a.1.moveCtx_galStates h x cyc).trans ha

/-! #### The package -/

theorem State.galStates_onHall (s : State) (k h : HallId) {f : Hall → Hall} (hf : ∀ H, (f H).galStates = H.galStates) :
    ((s.onHall k f).hall h).galStates = (s.hall h).galStates := by
  by_cases e : h = k
  · rw [e, State.hall_onHall, hf]
  · rw [State.hall_onHall_ne s f e]

theorem State.galStates_foldl {α : Type} {h : HallId} {f : State → α → State} (hf : ∀ s a, ((f s a).hall h).galStates = (s.hall h).galStates)
    (l : List α) (s : State) : ((l.foldl f s).hall h).galStates = (s.hall h).galStates := by
  induction l generalizing s with
  | nil => rfl
  | cons a l ih => rw [List.foldl_cons, ih, hf]

theorem State.galStates_ite {b : Bool} {t u : State} {h : HallId} {l : List GalState} (ht : (t.hall h).galStates = l)
    (hu : (u.hall h).galStates = l) : ((if b then t else u).hall h).galStates = l := by
  cases b
  · exact hu
  · exact ht

theorem State.event_galStates (s : State) (p : Nat) (e : Event) (h : HallId) : ((s.event p e).hall h).galStates = (s.hall h).galStates :=
  s.galStates_onHall _ h fun _ => rfl

theorem State.ctxEvent_galStates (s : State) (k : HallId) (x : Ctx) (n : Nat) (h : HallId) :
    ((s.ctxEvent k x n).hall h).galStates = (s.hall h).galStates := by
  unfold State.ctxEvent
  split
  · rfl
  · exact s.event_galStates _ _ h

theorem State.complete_galStates (s : State) (k : HallId) (x : Ctx) (n : Nat) (bs : List Byte) (h : HallId) :
    ((s.complete k x n bs).hall h).galStates = (s.hall h).galStates := by
  have hw := fun p a => s.galStates_onHall k h fun H => H.writeAt_galStates p a bs
  unfold State.complete
  dsimp only
  split
  · exact hw _ _
  · exact (State.event_galStates _ _ _ h).trans (hw _ _)

theorem State.killed_galStates (s : State) (k : HallId) (x : Ctx) (j : Cmd) (cause : KillCause) (cyc : Nat) (h : HallId) :
    ((s.killed k x j cause cyc).hall h).galStates = (s.hall h).galStates := by
  have hr : ((s.onHall k fun H => (H.releaseRun x.num j cyc cause.reruns true).countKill x.core cause).hall h).galStates = (s.hall h).galStates :=
    s.galStates_onHall k h fun H => by simp
  unfold State.killed
  dsimp only
  split
  · exact (State.complete_galStates _ _ _ _ _ h).trans ((State.galStates_onHall _ _ h fun _ => by rfl).trans hr)
  · exact (State.complete_galStates _ _ _ _ _ h).trans ((State.galStates_onHall _ _ h fun H => H.faultCtx_galStates _ _ _ _).trans hr)
  · exact hr

theorem State.killCore_galStates (s : State) (k : HallId) (c cyc : Nat) (h : HallId) :
    ((s.killCore k c cyc).hall h).galStates = (s.hall h).galStates :=
  State.galStates_foldl (fun s _ => State.galStates_foldl (fun s _ => s.killed_galStates _ _ _ _ _ h) _ s) _ s

theorem State.moveOff_galStates (s : State) (k : HallId) (c cyc : Nat) (h : HallId) :
    ((s.moveOff k c cyc).hall h).galStates = (s.hall h).galStates := by
  unfold State.moveOff
  refine (State.galStates_foldl (fun s n => ?_) _ _).trans ?_
  · split
    · rfl
    · dsimp only
      refine (State.ctxEvent_galStates _ _ _ _ h).trans ?_
      split
      · exact (State.complete_galStates _ _ _ _ _ h).trans (State.galStates_onHall _ _ h fun _ => by rfl)
      · exact State.galStates_onHall _ _ h fun _ => rfl
  · by_cases e : h = k
    · rw [e, State.hall_onHall]
      exact Hall.moveAll_galStates _ _ _ _
    · rw [State.hall_onHall_ne _ _ e]

theorem State.fenceChange_galStates (s : State) (k : HallId) (g : Nat) (h : HallId) :
    ((s.fenceChange k g).hall h).galStates = (s.hall h).galStates := by
  unfold State.fenceChange
  dsimp only
  split
  · rfl
  · exact State.galStates_ite ((State.galStates_onHall _ _ h fun _ => by rfl).trans (State.galStates_onHall _ _ h fun _ => by rfl))
      (State.galStates_onHall _ _ h fun _ => by rfl)

/-- R58: a gallery that is fenced stays one of as many. -/
theorem State.fenceGallery_gals_length (s : State) (k : HallId) (g cyc : Nat) (h : HallId) :
    ((s.fenceGallery k g cyc).hall h).gals.length = (s.hall h).gals.length := by
  have hk : (((List.range 12).foldl (fun s i => s.killCore k (12 * g + i) cyc) s).hall h).galStates = (s.hall h).galStates :=
    State.galStates_foldl (fun s _ => s.killCore_galStates _ _ _ h) _ s
  rw [← Hall.galStates_length, ← Hall.galStates_length, ← hk]
  unfold State.fenceGallery
  rw [State.galStates_foldl (fun s _ => s.moveOff_galStates _ _ _ h), State.fenceChange_galStates]
  by_cases e : h = k
  · rw [e, State.hall_onHall, Hall.galStates_length, Hall.galStates_length]
    exact modAt_length _ _ _
  · rw [State.hall_onHall_ne _ _ e]

end Sys2Proof.Machine
end

/-! ### Power states, temperature and the package's power (R517, R551 to R573) -/

section
namespace Sys2Proof.Machine

/-! #### A hall whose every gallery is powered off and fenced (R571) -/

theorem Hall.gal_st (H : Hall) {k : Nat} {st : GalState} (e : H.galStates[k]? = some st) : (H.gal k).st = st := by
  rw [Hall.galStates, List.getElem?_map] at e
  obtain ⟨G, hG, hs⟩ := Option.map_eq_some_iff.1 e
  rw [Hall.gal, hG]
  exact hs

theorem Hall.gal_onGal_same {H : Hall} {g : Nat} (hg : g < H.gals.length) (f : Gallery → Gallery) : (H.onGal g f).gal g = f (H.gal g) := by
  simp only [Hall.gal, Hall.onGal, modAt, List.getElem?_modify_eq, List.getElem?_eq_getElem hg, Option.map_eq_map, Option.map_some, Option.getD_some]

theorem Hall.gal_onGal_ne (H : Hall) {g k : Nat} (hg : g ≠ k) (f : Gallery → Gallery) : (H.onGal g f).gal k = H.gal k := by
  simp only [Hall.gal, Hall.onGal, modAt, List.getElem?_modify_ne _ _ hg]

/-- What one step of a fold establishes and every step keeps holds after the fold. -/
theorem foldl_establishes {α β : Type} {f : β → α → β} {I P : β → Prop} {a : α} (hI : ∀ b x, I b → I (f b x)) (hP : ∀ b x, P b → P (f b x))
    (ha : ∀ b, I b → P (f b a)) {l : List α} (hm : a ∈ l) {b : β} (hb : I b) : P (l.foldl f b) := by
  induction l generalizing b with
  | nil => cases hm
  | cons x l ih =>
    rw [List.foldl_cons]
    cases hm with
    | head => exact List.foldlRecOn l f (ha b hb) fun b hb x _ => hP b x hb
    | tail _ hm => exact ih hm (hI b x hb)

/-- R558: powering a gallery off changes one gallery, whose state becomes off, beside what leaves every gallery's state. -/
theorem Hall.powerOff_gals (H : Hall) (g : Nat) :
    ∃ (K : Hall) (f : Gallery → Gallery), K.galStates = H.galStates ∧ (∀ G, (f G).st = .off) ∧ (H.powerOff g).gals = modAt K.gals g f := by
  refine ⟨_, _, ?_, ?_, rfl⟩
  · rw [Hall.galStates_foldl (fun H _ => H.onCore_galStates _ _), Hall.galStates_foldl (fun H _ => H.endCtx_galStates _ _ _)]
    exact Hall.onGal_galStates _ _ fun _ => rfl
  · exact fun _ => rfl

theorem Hall.powerOff_galStates (H : Hall) (g : Nat) : (H.powerOff g).galStates = modAt H.galStates g fun _ => .off := by
  obtain ⟨K, f, hK, hf, hg⟩ := H.powerOff_gals g
  rw [← hK, Hall.galStates, hg, Hall.galStates]
  refine List.ext_getElem? fun i => ?_
  simp only [modAt, List.getElem?_map, List.getElem?_modify]
  cases K.gals[i]? with
  | none => rfl
  | some G =>
    simp only [Option.map_eq_map, Option.map_some]
    split
    · rw [hf]
    · rfl

theorem Hall.powerOff_length (H : Hall) (g : Nat) : (H.powerOff g).gals.length = H.gals.length := by
  rw [← Hall.galStates_length, Hall.powerOff_galStates, modAt_length, Hall.galStates_length]

theorem Hall.powerOff_off {H : Hall} {k : Nat} (g : Nat) (e : H.galStates[k]? = some .off) : (H.powerOff g).galStates[k]? = some .off := by
  rw [Hall.powerOff_galStates, modAt, List.getElem?_modify, e]
  simp

theorem Hall.powerOff_same {H : Hall} {g : Nat} (hg : g < H.gals.length) : (H.powerOff g).galStates[g]? = some .off := by
  have hl : g < H.galStates.length := H.galStates_length.symm ▸ hg
  rw [Hall.powerOff_galStates, modAt, List.getElem?_modify_eq, List.getElem?_eq_getElem hl]
  rfl

@[simp] theorem Voted.val_all {w : Nat} (x : BitVec w) : (Voted.all x).val = x := by
  simp only [Voted.val, Voted.all, BitVec.and_self, BitVec.or_self]

/-- R571: a gallery after the trip's fence. -/
def Gallery.fencedWhole (G : Gallery) : Prop := G.fence.val = 0xFFF ∧ G.galFence = true ∧ ∀ n ∈ G.strikes, n = 3

/-- R571: what the trip does to a gallery beside powering it off. -/
def Gallery.struck (G : Gallery) : Gallery := { G with fence := Voted.all 0xFFF, galFence := true, strikes := G.strikes.map fun _ => 3 }

theorem Gallery.struck_fencedWhole (G : Gallery) : G.struck.fencedWhole :=
  ⟨Voted.val_all _, rfl, fun _ hn => (List.mem_map.1 hn).choose_spec.2.symm⟩

/-- Fencing the galleries of a list fences each that the hall has. -/
theorem Hall.struck_fencedWhole {H : Hall} {k : Nat} (hk : k < H.gals.length) {l : List Nat} (hm : k ∈ l) :
    ((l.foldl (fun (H : Hall) g => H.onGal g Gallery.struck) H).gal k).fencedWhole := by
  have hl : ∀ (K : Hall) (g : Nat), k < K.gals.length → k < (K.onGal g Gallery.struck).gals.length := fun K g h => by
    rwa [Hall.onGal, modAt_length]
  have hs : ∀ K : Hall, k < K.gals.length → ((K.onGal k Gallery.struck).gal k).fencedWhole := fun K h => by
    rw [Hall.gal_onGal_same h]
    exact Gallery.struck_fencedWhole _
  refine (foldl_establishes (P := fun K : Hall => k < K.gals.length ∧ (K.gal k).fencedWhole) hl (fun K g h => ⟨hl K g h.1, ?_⟩)
    (fun K h => ⟨hl K k h, hs K h⟩) hm hk).2
  by_cases e : g = k
  · rw [e]
    exact hs K h.1
  · rw [Hall.gal_onGal_ne K e]
    exact h.2

/-- Powering the galleries of a list off powers off each that the hall has. -/
theorem Hall.powerOffs_off {H : Hall} {k : Nat} (hk : k < H.gals.length) {l : List Nat} (hm : k ∈ l) :
    (l.foldl (fun (H : Hall) g => H.powerOff g) H).galStates[k]? = some .off :=
  foldl_establishes (I := fun K : Hall => k < K.gals.length) (P := fun K : Hall => K.galStates[k]? = some .off)
    (fun K g h => (K.powerOff_length g).symm ▸ h) (fun _ g h => Hall.powerOff_off g h) (fun _ h => Hall.powerOff_same h) hm hk

theorem Hall.powerOffs_length (H : Hall) (l : List Nat) : (l.foldl (fun (H : Hall) g => H.powerOff g) H).gals.length = H.gals.length :=
  List.foldlRecOn l _ (motive := fun K : Hall => K.gals.length = H.gals.length) rfl fun K h g _ => (K.powerOff_length g).trans h

/-- R571: every gallery of a hall powered off, then fenced. -/
def Hall.galsTripped (H : Hall) : Hall :=
  (List.range 8).foldl (fun (H : Hall) g => H.onGal g Gallery.struck) ((List.range 8).foldl (fun (H : Hall) g => H.powerOff g) H)

theorem Hall.galsTripped_gal {H : Hall} {g : Nat} (hl : H.gals.length = 8) (hg : g < 8) :
    (H.galsTripped.gal g).st = .off ∧ (H.galsTripped.gal g).fencedWhole := by
  have hm : g ∈ List.range 8 := List.mem_range.2 hg
  refine ⟨Hall.gal_st _ ?_, Hall.struck_fencedWhole ((Hall.powerOffs_length H _).symm ▸ hl.symm ▸ hg) hm⟩
  rw [Hall.galsTripped, Hall.galStates_foldl fun (K : Hall) g => K.onGal_galStates g fun _ => by rfl]
  exact Hall.powerOffs_off (hl.symm ▸ hg) hm

/-- R571: the galleries that are on, fenced before the trip powers them off. -/
def State.galsFenced (s : State) (h : HallId) : State :=
  (List.range 8).foldl (fun (s : State) g => if ((s.hall h).gal g).st == .off then s else s.fenceGallery h g 0) s

theorem State.galsFenced_length (s : State) (h : HallId) : ((s.galsFenced h).hall h).gals.length = (s.hall h).gals.length :=
  List.foldlRecOn _ _ (motive := fun u : State => (u.hall h).gals.length = (s.hall h).gals.length) rfl fun u hu g _ => by
    split
    · exact hu
    · exact (u.fenceGallery_gals_length h g 0 h).trans hu

theorem State.thermalTrip_eq (s : State) (h : HallId) (t : Int) :
    s.thermalTrip h t = (s.galsFenced h).onHall h fun H =>
      { H.galsTripped with pwr := { H.galsTripped.pwr with trip := true, temp := max (-128) (min 127 t) } } := rfl

theorem State.thermalTrip_gals (s : State) (h : HallId) (t : Int) :
    ((s.thermalTrip h t).hall h).gals = ((s.galsFenced h).hall h).galsTripped.gals := by rw [State.thermalTrip_eq, State.hall_onHall]

theorem State.thermalTrip_trip (s : State) (h : HallId) (t : Int) : ((s.thermalTrip h t).hall h).pwr.trip = true := by
  rw [State.thermalTrip_eq, State.hall_onHall]

/-- R571: a gallery of the hall after its trip. -/
theorem State.thermalTrip_gal {s : State} {h : HallId} (t : Int) {g : Nat} (hl : (s.hall h).gals.length = 8) (hg : g < 8) :
    (((s.thermalTrip h t).hall h).gal g).st = .off ∧ (((s.thermalTrip h t).hall h).gal g).fencedWhole := by
  rw [Hall.gal, State.thermalTrip_gals]
  exact Hall.galsTripped_gal ((s.galsFenced_length h).trans hl) hg

/-! #### Lowerings -/

section
variable {s : State} {h : HallId} {g : Nat} {l : Lowering}

/-- R558: the drain of a gallery that has drained ends, and others still run. -/
theorem State.drainDone_of_more (hl : s.pkg.lower = some l) (hd : (s.hall h).pwr.drains.getLsbD g = true)
    (hs : (s.hall h).drainStalled g = false) (he : (s.hall h).drained g = true) {u : State}
    (eu : (s.onHall h fun H => { H with pwr := { H.pwr with drains := H.pwr.drains &&& ~~~(BitVec.ofNat 8 (2 ^ g)) } }) = u)
    (hu : u.a.pwr.drains ≠ 0 ∨ u.b.pwr.drains ≠ 0) : s.drainDone h g = u := by
  have hc : (u.a.pwr.drains != 0 || u.b.pwr.drains != 0) = true := by simpa only [Bool.or_eq_true, bne_iff_ne] using hu
  simp only [State.drainDone, hl, hd, hs, he, eu, hc, Bool.not_true, Bool.false_eq_true, if_false, if_true]

/-- R558: the last drain of a lowering that nothing aborts. -/
theorem State.drainDone_of_last (hl : s.pkg.lower = some l) (ha : l.abort = none) (hd : (s.hall h).pwr.drains.getLsbD g = true)
    (hs : (s.hall h).drainStalled g = false) (he : (s.hall h).drained g = true) {u : State}
    (eu : (s.onHall h fun H => { H with pwr := { H.pwr with drains := H.pwr.drains &&& ~~~(BitVec.ofNat 8 (2 ^ g)) } }) = u)
    (hA : u.a.pwr.drains = 0) (hB : u.b.pwr.drains = 0) : s.drainDone h g = u.drainsOver l := by
  simp only [State.drainDone, hl, hd, hs, he, eu, hA, hB, ha, bne_self_eq_false, Bool.or_self, Option.isSome_none, Bool.not_true,
    Bool.false_eq_true, if_false]

/-- R558: no hall leaves HALL or PAIR, so no transmit frame is waited for. -/
theorem State.drainsOver_of_stay (hA : s.leaves l .a = false) (hB : s.leaves l .b = false) : s.drainsOver l = s.lowerOff l := by
  simp only [State.drainsOver, State.txAwaited, List.foldl_cons, List.foldl_nil, List.any_cons, List.any_nil, hA, hB, Bool.false_and, Bool.or_self,
    Bool.false_eq_true, if_false]

/-- Hall A with its transmit ports stopped. -/
def State.stopsA (s : State) : State := { s with a := { s.a with pwr := { s.a.pwr with txStop := true } } }

/-- R558: Hall A leaves HALL alone: it starts no transmit frame, and its open ones are waited for. -/
theorem State.drainsOver_of_leaving (hA : s.leaves l .a = true) (hB : s.leaves l .b = false) :
    s.drainsOver l = if (s.a.streams.any fun (x : TxStream) => x.sending.isSome) then s.stopsA else s.stopsA.lowerOff l := by
  have hs : ([HallId.a, .b]).foldl (fun (s : State) h =>
      if s.leaves l h then s.onHall h fun H => { H with pwr := { H.pwr with txStop := true } } else s) s = s.stopsA := by
    have hB' : s.stopsA.leaves l .b = false := hB
    simp only [List.foldl_cons, List.foldl_nil, hA, if_true]
    exact if_neg (Bool.eq_false_iff.1 hB')
  have ht : s.stopsA.txAwaited l = s.a.streams.any fun (x : TxStream) => x.sending.isSome := by
    have hA' : s.stopsA.leaves l .a = true := hA
    have hB' : s.stopsA.leaves l .b = false := hB
    simp only [State.txAwaited, List.any_cons, List.any_nil, hA', hB', Bool.true_and, Bool.false_and, Bool.or_false]
    rfl
  simp only [State.drainsOver, hs, ht]

/-- R560: the entry window of a lowering that nothing aborts ends. -/
theorem State.windowEnd_of_done (vt : Nat) (hl : s.pkg.lower = some l) (hw : l.window = true) (ha : l.abort = none) {u : State}
    (eu : (({ s with pkg := { s.pkg with state := l.toState } } : State).setEnables l.toState none).setEntry false = u) :
    s.windowEnd vt = ({ u with pkg := { u.pkg with lower := none } } : State).applyPower none (0, 0) vt := by
  subst eu
  unfold State.windowEnd
  split
  · next h0 => exact absurd (hl.symm.trans h0) (Option.some_ne_none l)
  · next l' h0 =>
    obtain rfl := Option.some.inj (hl.symm.trans h0)
    simp only [hw, ha, Option.isSome_none, Bool.not_true, Bool.false_eq_true, if_false]

end

/-! #### Rises -/

section
variable {s : State} {r : Rise}

/-- R567: the row of a rise has not ended while Hall A's power-good is low. -/
theorem State.riseDone_of_low (vt : Nat) (hr : s.pkg.rise = none ∨ s.pkg.pg.getD 0 false = false) : s.riseDone vt = s := by
  unfold State.riseDone
  split
  · rfl
  · next r hs =>
    have hg : s.pkg.pg.getD 0 false = false := hr.resolve_left (by rw [hs]; exact Option.some_ne_none r)
    simp only [hg, Bool.false_and, Bool.not_false, if_true]

/-- R530: no hall wakes cold where none has slept through a reset of the Vestibule. -/
theorem State.coldWake_of_fresh (old : State) (hf : s.vst.fresh = [false, false]) : s.coldWake old = s := by
  simp [State.coldWake, hf, HallId.idx]

/-- R567: the last row of a rise ends. -/
theorem State.riseDone_of_goal (vt : Nat) (hr : s.pkg.rise = some r) (hg : s.pkg.pg = [true, true]) (ht : r.toState = r.goal) {v : State}
    (ev : ((s.raiseDomains r.toState).onHall .a fun H => H.releaseGals (maskOff r.galA.toNat s.a.pwr.galOn.val.toNat)).onHall .b (fun H =>
      H.releaseGals (maskOff r.galB.toNat s.b.pwr.galOn.val.toNat)) = v) :
    s.riseDone vt = (({ v with pkg := { v.pkg with state := max v.pkg.state r.toState, rise := none } } : State).setEntry false).applyPower none (0, 0)
      vt := by
  have hn : ¬ r.toState < r.goal := by omega
  simp only [State.riseDone, hr, hg, State.onMasks, ev, List.getD_cons_zero, List.getD_cons_succ, Bool.or_true, Bool.and_self, Bool.not_true,
    Bool.false_eq_true, if_false, hn]

/-- R568: power-good has not come in time. -/
theorem State.goodTimeout_of_low {h : HallId} (hr : s.pkg.rise = some r) (hg : s.pkg.pg.getD h.idx false = false) {off : List Nat → Hall → Hall}
    {u : State} (eo : (fun (gs : List Nat) (H : Hall) => gs.foldl (fun (H : Hall) g => H.onGal g fun G => { G with st := .off }) H) = off)
    (eu : (s.onHall .a (off (maskOff r.galA.toNat s.a.pwr.galOn.val.toNat))).onHall .b (off (maskOff r.galB.toNat s.b.pwr.galOn.val.toNat)) = u) :
    s.goodTimeout h = ((({ u with pkg := { u.pkg with rise := none } } : State).setEnables u.pkg.state none).setEntry false).refuse h 0 r.toState 6
      6 := by
  subst eo eu
  simp only [State.goodTimeout, hr, hg, State.onMasks, Bool.false_eq_true, if_false]

end

/-- Settles O59: a lowering by what its drains, its halls and its window leave, a rise by its power-good, the temperature by its bounds. The refuser
codes of an abort are log entry 231's choice, rounding down to 2 W and acting only where the temperature is reached log entry 232's, the rise's end
log entry 230's. -/
theorem powerLowersRisesAndTemperature : Obligations.PowerLowersRisesAndTemperature := by
  refine ⟨fun s h g l hp hl ha hd hs he => ⟨fun hu => ?_, fun hA hB => ?_⟩, fun s l => ⟨fun hA hB => ?_, fun hA hB => ⟨fun ht => ?_, fun ht => ?_⟩⟩,
    fun s vt l hp hl hw ha => ?_, fun s vt hp hf hr => ?_, fun s vt r hp hr hg ht => ?_, fun s h r hp hr hg => ?_, fun s h t hp hu hr => ?_,
    fun s h t hp hu => ⟨fun ht => ?_, fun ht => ?_, fun ht => ?_, fun ht => ?_, fun ht => ?_⟩, fun s h t g hl hg => ?_, fun s mw hp hw => ?_⟩
  · exact State.next_live hp (State.drainDone_of_more hl hd hs he rfl hu)
  · exact State.next_live hp (State.drainDone_of_last hl ha hd hs he rfl hA hB)
  · exact State.drainsOver_of_stay hA hB
  · exact (State.drainsOver_of_leaving hA hB).trans (if_pos ht)
  · exact (State.drainsOver_of_leaving hA hB).trans (if_neg (Bool.eq_false_iff.1 ht))
  · exact State.next_live hp (State.windowEnd_of_done (s := s.atVt vt) vt hl hw ha rfl)
  · have hv : (s.atVt vt).riseDone vt = s.atVt vt := State.riseDone_of_low vt hr
    have hc : ((s.atVt vt).riseDone vt).coldWake s = s.atVt vt := by
      rw [hv]
      exact State.coldWake_of_fresh (s := s.atVt vt) s hf
    exact State.next_live hp (congrArg State.flightEntry hc)
  · exact State.next_live hp (congrArg (fun u : State => (u.coldWake s).flightEntry) (State.riseDone_of_goal (s := s.atVt vt) vt hr hg ht rfl))
  · exact State.next_live hp (State.goodTimeout_of_low hr hg rfl rfl)
  · refine State.next_live hp (State.inHall_of_up hu ?_)
    simp only [Hall.rampDone, hr]
  · exact State.next_live hp (State.inHall_of_up hu (if_neg (by omega)))
  · exact State.next_live hp (State.inHall_of_up hu (if_neg (by omega)))
  · exact State.next_live hp (State.inHall_of_fixed (if_pos ht))
  · exact State.next_live hp ((State.ifUp_of_up hu _).trans (if_pos ht))
  · exact State.next_live hp ((State.ifUp_of_up hu _).trans (if_neg (by omega)))
  · obtain ⟨hst, hf, hgf, hsk⟩ := State.thermalTrip_gal (s := s) (h := h) t hl hg
    exact ⟨hst, hf, hgf, hsk, s.thermalTrip_trip h t⟩
  · refine Gives.of_live hp rfl rfl ?_
    simp only [State.whole_pkg]
    omega

end Sys2Proof.Machine
end

/-! ### Wake pins (R560 to R565) -/

section
namespace Sys2Proof.Machine

section
variable {s : State} {n : Nat} (vt : Nat)

/-- R560: the entry window of a lowering runs. -/
def State.inWindow (s : State) : Prop := ∃ l, s.pkg.lower = some l ∧ l.window = true

theorem State.wakePinAccept_of_window (hw : s.inWindow) : s.wakePinAccept n vt = s := by
  obtain ⟨l, hl, hw⟩ := hw
  simp only [State.wakePinAccept, hl, hw, Bool.true_or, if_true]

theorem State.levelRepeat_of_window (hw : s.inWindow) : s.levelRepeat n vt = s := by
  obtain ⟨l, hl, hw⟩ := hw
  simp only [State.levelRepeat, hl, hw, Bool.true_or, if_true]

theorem State.wakePinInactive_of_window (hw : s.inWindow) : s.wakePinInactive n vt = s := by
  obtain ⟨l, hl, hw⟩ := hw
  simp only [State.wakePinInactive, hl, hw, Bool.true_or, if_true]

/-- R562: outside the entry window a pin that was not active is marked, and gives a wake. -/
theorem State.wakePinAccept_of_open (hw : ∀ l, s.pkg.lower = some l → l.window = false) (hn : n < 8) (ha : s.pkg.active.getLsbD n = false) :
    s.wakePinAccept n vt = ({ s with pkg := { s.pkg with active := s.pkg.active ||| BitVec.ofNat 8 (2 ^ n) } } : State).pinWake n vt := by
  have h8 : ¬ 8 ≤ n := by omega
  cases hl : s.pkg.lower with
  | none => simp [State.wakePinAccept, hl, h8, ha]
  | some l => simp [State.wakePinAccept, hl, hw l hl, h8, ha]

/-- R563: outside the entry window a level pin still active gives a wake. -/
theorem State.levelRepeat_of_open (hw : ∀ l, s.pkg.lower = some l → l.window = false) (ha : s.pkg.active.getLsbD n = true)
    (hb : bit (s.pin n).flags 1 = true) : s.levelRepeat n vt = s.pinWake n vt := by
  cases hl : s.pkg.lower with
  | none => simp [State.levelRepeat, hl, ha, hb]
  | some l => simp [State.levelRepeat, hl, hw l hl, ha, hb]

/-- R562: outside the entry window an active pin becomes inactive at its time. -/
theorem State.wakePinInactive_of_open (hw : ∀ l, s.pkg.lower = some l → l.window = false) (hn : n < 8) (ha : s.pkg.active.getLsbD n = true) :
    s.wakePinInactive n vt = { s with pkg := { s.pkg with
      active := s.pkg.active &&& ~~~(BitVec.ofNat 8 (2 ^ n)), inactive := modAt s.pkg.inactive n fun _ => vt } } := by
  have h8 : ¬ 8 ≤ n := by omega
  cases hl : s.pkg.lower with
  | none => simp [State.wakePinInactive, hl, h8, ha]
  | some l => simp [State.wakePinInactive, hl, hw l hl, h8, ha]

/-- R564: a pin inactive for 1 s loses its mark. -/
theorem State.stuckClear_of_second (hn : n < 8) (ha : s.pkg.active.getLsbD n = false) (ht : s.pkg.inactive.getD n 0 + 32768 ≤ vt) :
    s.stuckClear n vt = { s with pkg := { s.pkg with
      stuck := s.pkg.stuck &&& ~~~(BitVec.ofNat 8 (2 ^ n)), times := modAt s.pkg.times n fun _ => [] } } := by
  have h8 : ¬ 8 ≤ n := by omega
  simp only [State.stuckClear, h8, ha, Nat.not_lt.2 ht, decide_false, Bool.or_self, Bool.false_eq_true, if_false]

theorem State.stuckClear_of_early (ht : vt < s.pkg.inactive.getD n 0 + 32768) : s.stuckClear n vt = s := by
  simp only [State.stuckClear, ht, decide_true, Bool.or_true, if_true]

/-! #### A wake -/

/-- R564: a disabled or stuck pin gives no wake. -/
theorem State.pinWake_of_masked (h : s.pkg.wakeEn.getLsbD n = false ∨ s.pkg.stuck.getLsbD n = true) : s.pinWake n vt = s := by
  rcases h with he | hk
  · simp only [State.pinWake, he, Bool.not_false, Bool.true_or, if_true]
  · simp only [State.pinWake, hk, Bool.or_true, Bool.true_or, if_true]

/-- R564: the times kept of pin n's wakes, with one more. -/
def State.timed (s : State) (n vt : Nat) : State :=
  { s with pkg := { s.pkg with times := modAt s.pkg.times n fun _ => (vt :: s.pkg.times.getD n []).take 17 } }

/-- R564: the seventeenth wake back from this one. -/
theorem times_take (l : List Nat) : ((vt :: l).take 17)[16]? = l[15]? := by
  rw [List.getElem?_take, if_pos (by decide), List.getElem?_cons_succ]

/-- R564: an enabled pin's seventeenth wake within a second marks it stuck. -/
theorem State.pinWake_of_seventeenth (hn : n < 8) (he : s.pkg.wakeEn.getLsbD n = true) (hk : s.pkg.stuck.getLsbD n = false) {t : Nat}
    (ht : (s.pkg.times.getD n [])[15]? = some t) (hv : vt ≤ t + 32768) :
    s.pinWake n vt = ({ s.timed n vt with pkg := { (s.timed n vt).pkg with
      stuck := (s.timed n vt).pkg.stuck ||| BitVec.ofNat 8 (2 ^ n) } } : State).log .a 0x0302 0 n := by
  have h8 : ¬ 8 ≤ n := by omega
  simp only [State.pinWake, he, hk, h8, times_take, ht, hv, decide_true, decide_false, Bool.not_true, Bool.or_self, Bool.false_eq_true, if_false,
    if_true, State.timed]

/-- R565: where a wake that does not mark its pin goes. -/
def State.delivered (s : State) (n vt : Nat) : State :=
  match s.a.image.bind fun im => im.cascade with
  | some _ => { s with vst := { s.vst with pinWakes := s.vst.pinWakes ++ [n] } }
  | none =>
    let c := (s.pin n).config
    if c = 0xFF then s
    else ({ s with pkg := { s.pkg with pinReqs := s.pkg.pinReqs.filter (fun (r : Nat × Nat) => r.1 != n) ++ [(n, c)] } }).applyPower (some (1, n))
      (4, 4) vt

/-- R563: an enabled pin's wake, where it has had fewer than sixteen before. -/
theorem State.pinWake_of_few (hn : n < 8) (he : s.pkg.wakeEn.getLsbD n = true) (hk : s.pkg.stuck.getLsbD n = false)
    (ht : (s.pkg.times.getD n [])[15]? = none) : s.pinWake n vt = (s.timed n vt).delivered n vt := by
  have h8 : ¬ 8 ≤ n := by omega
  simp only [State.pinWake, he, hk, h8, times_take, ht, decide_false, Bool.not_true, Bool.or_self, Bool.false_eq_true, if_false]
  rfl

theorem State.delivered_of_cascade (hc : (s.a.image.bind fun im => im.cascade).isSome = true) :
    s.delivered n vt = { s with vst := { s.vst with pinWakes := s.vst.pinWakes ++ [n] } } := by
  obtain ⟨c, hc⟩ := Option.isSome_iff_exists.1 hc
  simp only [State.delivered, hc]

theorem State.delivered_of_plain (hc : (s.a.image.bind fun im => im.cascade) = none) :
    s.delivered n vt =
      if (s.pin n).config = 0xFF then s
      else ({ s with pkg := { s.pkg with pinReqs := s.pkg.pinReqs.filter (fun (r : Nat × Nat) => r.1 != n) ++ [(n, (s.pin n).config)] } } :
        State).applyPower (some (1, n)) (4, 4) vt := by
  simp only [State.delivered, hc]

end

/-- Settles O60: a pin's edge by the entry window, its wake by the times kept before it and by Hall A's image. -/
theorem wakePinsGiveWakes : Obligations.WakePinsGiveWakes := by
  refine ⟨fun s n vt hp hn hw => ⟨fun ha => ?_, fun ha hb => ?_, fun ha => ?_⟩, fun s n vt l hp hl hw => ?_,
    fun s n vt hp hn ha => ⟨fun ht => ?_, fun ht => ?_⟩, fun s n vt _ h => State.pinWake_of_masked vt h,
    fun s n vt hn he hk => ⟨fun t ht hv => ?_, fun ht => ⟨fun hc => ?_, fun hc h => ?_, fun hc h => ?_⟩⟩⟩
  · exact State.next_live hp (State.wakePinAccept_of_open (s := s.atVt vt) vt hw hn ha)
  · exact State.next_live hp (State.levelRepeat_of_open (s := s.atVt vt) vt hw ha hb)
  · exact State.next_live hp (State.wakePinInactive_of_open (s := s.atVt vt) vt hw hn ha)
  · have hi : (s.atVt vt).inWindow := ⟨l, hl, hw⟩
    exact ⟨State.next_live hp (State.wakePinAccept_of_window vt hi), State.next_live hp (State.levelRepeat_of_window vt hi),
      State.next_live hp (State.wakePinInactive_of_window vt hi)⟩
  · exact State.next_live hp (State.stuckClear_of_second (s := s.atVt vt) vt hn ha ht)
  · exact State.next_live hp (State.stuckClear_of_early (s := s.atVt vt) vt ht)
  · exact State.pinWake_of_seventeenth vt hn he hk ht hv
  · exact (State.pinWake_of_few vt hn he hk ht).trans (State.delivered_of_cascade (s := s.timed n vt) vt hc)
  · exact (State.pinWake_of_few vt hn he hk ht).trans ((State.delivered_of_plain (s := s.timed n vt) vt hc).trans (if_pos h))
  · exact (State.pinWake_of_few vt hn he hk ht).trans ((State.delivered_of_plain (s := s.timed n vt) vt hc).trans (if_neg h))

end Sys2Proof.Machine
end
